-- ==== Sys2Proof/Word.lean ====
section
/-! DEFINITION. The words of the hub: bytes, 32-bit words, 64-bit words, and byte strings. -/

namespace Sys2Proof

/-- One byte (R5, R7). -/
abbrev Byte := BitVec 8

/-- One 32-bit word: a parameter word (R62), a value word (R11), a binary32 pattern. -/
abbrev Word := BitVec 32

/-- One 64-bit word: a binary64 pattern (R233), a CIC register (R124). -/
abbrev DWord := BitVec 64

/-- A string of bytes, first byte first. -/
abbrev Bytes := List Byte

end Sys2Proof
end

