-- ==== Sys2Proof/Syntax.lean ====
section
/-! DEFINITION. The commands of the hub and the plain data that they carry. -/

namespace Sys2Proof

/-- The hub states of R49, in the order of their codes 0x0 to 0x6. -/
inductive HubState where
  | boot | config | ready | run | service | fault | safe
  deriving DecidableEq, Repr, Inhabited

/-- The pair roles of R49, in the order of their codes 0x0 to 0x2. -/
inductive Role where
  | solo | active | standby
  deriving DecidableEq, Repr, Inhabited

/-- A requester of a mailbox (R43): a source IPv4 address and UDP port, or the SPI port. -/
inductive Requester where
  | spi
  | udp (ip : Nat) (udpPort : Nat)
  deriving DecidableEq, Repr, Inhabited

/-- A Shuttle request as a mailbox took it (R45, R50): what the supervisor executes (R39). -/
structure Req where
  /-- CTL [2:0]: mailbox 0 to 7. -/
  mb : Nat := 0
  /-- CTL [7:4]: ALIVE. -/
  alive : Nat := 0
  /-- CMD: command code. -/
  cmd : Nat := 0
  /-- SEQ. -/
  seq : Nat := 0
  /-- Bytes 12 to 15, which must be zero (R46). -/
  b12 : Nat := 0
  /-- The payload. -/
  payload : Bytes := []
  /-- Who sent it. -/
  src : Requester := .spi
  /-- The host port at which it arrived (R40), 0 or 1. -/
  port : Nat := 0
  deriving DecidableEq, Repr, Inhabited

/-- The detectors of R103, in the order of the codes of LEAD_STATUS (R115). -/
inductive Detector where
  | leadWatch | ixCompliance | vxSense | overvoltage
  deriving DecidableEq, Repr, Inhabited

/-- The monitored clocks of R26, KCLK excepted, and the reference XI (R28). A ply link has a PCLK at each end, at the
loom die or at the pod die. -/
inductive Clock where
  | sclk | lclk
  | pclk (link : Nat) (podEnd : Bool)
  | hclk | wclk | mclk | qclk | xi
  deriving DecidableEq, Repr, Inhabited

/-- What a clock monitor reports (R27). -/
inductive ClockReport where
  | stopped | outOfTolerance
  deriving DecidableEq, Repr, Inhabited

/-- What a Warp port finds on its line: the causes of the port states of R204. -/
inductive WarpLine where
  | noSignal | noFrames | frames | misWired | foreign | tooDeep | delayHigh
  deriving DecidableEq, Repr, Inhabited

/-- A Sync with its delay measurement (R225, R343): the offset and mean path delay that PTP computes. -/
structure PtpSync where
  /-- The sending port's identity, 80 bits. -/
  source : Nat
  domain : Nat
  /-- Offset in ps before TS_CORR, positive when the hub is ahead. -/
  offsetPs : Int
  meanPathPs : Nat
  logInterval : Int
  /-- logMinDelayReqInterval, as the master's Delay_Resp gave it. -/
  logDelayReq : Int := 0
  deriving DecidableEq, Repr, Inhabited

/-- The data set of an Announce message (R343), as the best master choice of IEEE 1588-2019 compares it. -/
structure PtpAnnounce where
  priority1 : Nat
  clockClass : Nat
  accuracy : Nat
  variance : Nat
  priority2 : Nat
  grandmaster : Nat
  steps : Nat
  source : Nat
  domain : Nat
  deriving DecidableEq, Repr, Inhabited

/-- The header of a Selvedge frame (R426), and whether its CRC-32C passes. -/
structure SvHeader where
  alive : Nat
  cfgSeq : Nat
  crcOk : Bool
  deriving DecidableEq, Repr, Inhabited

/-- A change that waits for its beat (R31). -/
inductive Change where
  /-- Parameter words, keyed block * 65536 + offset (R68). -/
  | words (ws : List (Nat × Word))
  /-- A move of the hub state (R57). -/
  | move (target : HubState)
  /-- LOOP_SELECT (R318). -/
  | loopSelect (driver slot : Nat)
  /-- TREADLE_ARM and TREADLE_DISARM (R292). -/
  | arm (mask : Nat)
  | disarm (mask : Nat)
  /-- REED_SWAP of a die's engine to bank b (R169). -/
  | reedSwap (die bank : Nat)
  /-- STIM_START and STIM_STOP as a delta carries them (R429). -/
  | stimStart (mask start : Nat)
  | stimStop (mask hold : Nat)
  /-- CAL_COMMIT of the pending sets of these pods (R268). -/
  | calSet (pods : List Nat)
  /-- A new die temperature of a pod (R260). -/
  | temp (pod : Nat) (value : Word)
  /-- DOMAIN_SET (R454). -/
  | domains (mask : Nat)
  /-- A digital spare for part idx of the kind (R460). -/
  | subst (kind idx : Nat)
  /-- An analogue spare (R461): kind, pod, part, spare used. -/
  | consent (kind pod part spare : Nat)
  /-- PAIR_DETACH (R445). -/
  | detach
  /-- A make-before-break switch (R442). -/
  | mbb
  /-- MIRROR_RESYNC or adoption of the active's whole configuration (R430, R431). -/
  | resync
  /-- A hub found younger of two actives becomes standby (R423). -/
  | yield
  deriving DecidableEq, Repr, Inhabited

/-- A delta of R429: what changes, at which beat, and the configuration sequence number then in force. -/
structure Delta where
  id : Nat
  change : Change
  due : Nat
  cfgSeq : Nat
  deriving DecidableEq, Repr, Inhabited

/-- An item of the mirror snapshot (R428); bad means that one of its husks does not match. A bobbin's occupied slots
are pairs of slot and record number; where they do not fit one fragment, further items of the bobbin carry the rest.
-/
inductive SnapItem where
  | sequencer (bad : Bool) (k : Nat) (armed : Bool) (state : Nat) (counters : List Nat)
      (timers : List (Nat × Bool)) (coin : Nat)
  | bobbin (bad : Bool) (k : Nat) (nextRecord missed full : Nat) (occupied : List (Nat × Nat))
  | loop (bad : Bool) (k : Nat) (slot : Nat) (current : Word) (values : List Word)
  | stim (bad : Bool) (pod : Nat) (state start passes : Nat)
  | table (bad : Bool) (k : Nat) (state start passes : Nat)
  | weft (bad : Bool) (streams bobbins : List Nat) (notice : Nat)
  | calibration (bad : Bool) (seq : Nat)
  | configuration (bad : Bool) (seq : Nat)
  deriving DecidableEq, Repr, Inhabited

/-- What a beat boundary finds: the active registers (block * 65536 + word) whose husk failed as the data path used
them in the beat that ends (R399), whether the beat's work has overrun (R35), and the staged words whose husk fails
(R400). -/
structure BeatWork where
  husks : List Nat := []
  late : Bool := false
  bad : List Nat := []
  deriving DecidableEq, Repr, Inhabited

/-- How a decompression job stands as its engine reports it (R382, R384): at its end, or stalled because its
destination can take no more for now. -/
structure JobEnd where
  t : Nat
  stalled : Bool := false
  deriving DecidableEq, Repr, Inhabited

/-- What the stimulus outputs find at a tick: the outputs whose thread would need more than 5 mA (R328), and the
codewords of the table points that they read (R404), each with its index, its bytes, its table and a point it holds. -/
structure StimTick where
  heavy : List Nat := []
  reads : List (Nat × Bytes × Nat × Nat) := []
  deriving DecidableEq, Repr, Inhabited

/-- The place of a snapshot fragment (R428, R430): the beat of its snapshot, and how many fragments came before it. -/
structure SnapPlace where
  beat : Nat
  index : Nat := 0
  deriving DecidableEq, Repr, Inhabited

/-- A delta as it arrives (R399, R429), with the words (block * 65536 + offset) whose husk fails. -/
structure DeltaFrame where
  delta : Delta
  bad : List Nat := []
  deriving DecidableEq, Repr, Inhabited

/-- The commands of the hub: one constructor for each row of spec/opcode_table.json.
The first operand t of every command is the loom time at which the step happens (log entry 2).
A row of the command set (R16) carries the request its mailbox took; an event carries what it brings. -/
inductive Instr where
  /-- SHUTTLE_REQUEST (R50). A Shuttle request message arrives whole at UDP port 47100 and is judged by the transport,
  claim and alive rules. -/
  | shuttleRequest (t : Nat) (port : Nat) (ip : Nat) (udp : Nat) (msg : Bytes)
  /-- SPI_WRITE (R41). An SPI WRITE frame delivers one complete Shuttle message to a mailbox. -/
  | spiWrite (t : Nat) (msg : Bytes)
  /-- SPI_READ (R41). An SPI READ frame clocks out the length and the unread response of a mailbox and releases
  SPI_nIRQ once it is read. -/
  | spiRead (t : Nat) (mb : Nat) (clocked : Nat)
  /-- SPI_POLL (R41). An SPI POLL frame returns the mailboxes that hold unread responses for SPI and those claimed by
  SPI. -/
  | spiPoll (t : Nat)
  /-- SPI_INVALID_OPCODE (R41). An SPI frame with an unknown opcode ends without effect and is counted as a length
  error. -/
  | spiInvalidOpcode (t : Nat) (op : Nat)
  /-- SPI_FRAME_TIMEOUT (R42). SPI_nCS held low for 100 µs without a clock edge makes the hub discard the frame and
  count reason 0x0808. -/
  | spiFrameTimeout (t : Nat)
  /-- CLAIM_IDLE_LAPSE (R44). A claim with no request from its owner for CLAIM_IDLE ends; the mailbox record is
  cleared and any edit lock and working set are discarded. -/
  | claimIdleLapse (t : Nat) (mb : Nat)
  /-- JOB_RESULT_EXPIRY (R55). A job's result is dropped 60 s after the job ends, and its ID becomes unknown. -/
  | jobResultExpiry (t : Nat) (job : Nat)
  /-- IDENTIFY (R75). Returns the 68-byte identity payload. -/
  | identify (t : Nat) (rq : Req)
  /-- STATUS (R76). Returns the 48-byte status payload. -/
  | status (t : Nat) (rq : Req)
  /-- PING (R74). Echoes its payload bytes. -/
  | ping (t : Nat) (rq : Req)
  /-- RELEASE (R44). Ends the requester's claim on the mailbox. -/
  | release (t : Nat) (rq : Req)
  /-- JOB_STATUS (R55). Reports the state, reason, beat and result of a job. -/
  | jobStatus (t : Nat) (rq : Req)
  /-- JOB_CANCEL (R55). Cancels a running or deferred job where its owning chapter allows it. -/
  | jobCancel (t : Nat) (rq : Req)
  /-- RESTART (R74). Answers DONE and schedules entry to BOOT 1 ms later, with the image named. -/
  | restart (t : Nat) (rq : Req)
  /-- RESTART_ENTRY (R74). 1 ms after a RESTART response is sent, the hub enters BOOT. -/
  | restartEntry (t : Nat)
  /-- EVENT_READ (R77). Returns event-log entries from a given index. -/
  | eventRead (t : Nat) (rq : Req)
  /-- COUNTERS_READ (R78). Returns the 39 transport and mailbox counters and can clear them. -/
  | countersRead (t : Nat) (rq : Req)
  /-- CFG_OPEN (R64). Takes or refreshes the edit lock and loads the working set from the source named. -/
  | cfgOpen (t : Nat) (rq : Req)
  /-- PARAM_READ (R500). Returns parameter words as husks from the source named. -/
  | paramRead (t : Nat) (rq : Req)
  /-- PARAM_WRITE (R65). Writes husked words into the working set after checking every husk. -/
  | paramWrite (t : Nat) (rq : Req)
  /-- COMMIT (R68). With EN set, runs the consistency check and stages the working set, optionally persisting it and
  keeping the lock. -/
  | commit (t : Nat) (rq : Req)
  /-- CHECK_ONLY (R66). A COMMIT with CHECK_ONLY set runs the consistency check only, stages nothing and keeps the
  lock. -/
  | checkOnly (t : Nat) (rq : Req)
  /-- COMMIT_NO_EN (R66). A COMMIT with EN 0 does nothing and answers DONE. -/
  | commitNoEn (t : Nat) (rq : Req)
  /-- CFG_ABORT (R64). Discards the working set and frees the edit lock. -/
  | cfgAbort (t : Nat) (rq : Req)
  /-- COPY_STATUS (R74). Reports the sequence number, validity and length of copies A and B. -/
  | copyStatus (t : Nat) (rq : Req)
  /-- CFG_SAVE (R69). Writes the configuration in force to eMRAM by the persistent-write procedure. -/
  | cfgSave (t : Nat) (rq : Req)
  /-- ENTER_CONFIG (R57). Stages the move to CONFIG from READY, SERVICE or FAULT. -/
  | enterConfig (t : Nat) (rq : Req)
  /-- START (R57). Stages the move from READY to RUN. -/
  | start (t : Nat) (rq : Req)
  /-- STOP (R57). Stages the move from RUN to READY. -/
  | stop (t : Nat) (rq : Req)
  /-- ENTER_SERVICE (R57). Stages the move from READY to SERVICE. -/
  | enterService (t : Nat) (rq : Req)
  /-- LEAVE_SERVICE (R57). Stages the move from SERVICE to READY. -/
  | leaveService (t : Nat) (rq : Req)
  /-- FAULT_CLEAR (R497). Stages the move from FAULT to READY once every recorded cause has cleared and the
  configuration passes its check. -/
  | faultClear (t : Nat) (rq : Req)
  /-- HEDDLE_STATE (R115). Reports the role applied and the state of every thread of a pod. -/
  | heddleState (t : Nat) (rq : Req)
  /-- LEAD_STATUS (R115). Reports the lead-detector state and loop resistance of each slot of a pod. -/
  | leadStatus (t : Nat) (rq : Req)
  /-- EXC_STATUS (R116). Reports the excitation sources and controllers of a pod with their readback. -/
  | excStatus (t : Nat) (rq : Req)
  /-- OVR_COUNTERS (R115). Reports the overrange and ADJ onsets of each slot of a pod and can clear them. -/
  | ovrCounters (t : Nat) (rq : Req)
  /-- THREAD_PROBE (R117). Taps a thread to a free hub bus, takes one scan conversion and releases the tap. -/
  | threadProbe (t : Nat) (rq : Req)
  /-- CONV_STATUS (R145). Reports the modulator serving each slot of a pod and the CIC settings in force. -/
  | convStatus (t : Nat) (rq : Req)
  /-- SC_SPOT (R134). Queues a spot conversion of a thread or internal point on a scan converter. -/
  | scSpot (t : Nat) (rq : Req)
  /-- SCAN_READ (R137). Returns the latest result of each entry of a scan list. -/
  | scanRead (t : Nat) (rq : Req)
  /-- SIMUL_READ (R145). Returns the latest simultaneous-group samples and trigger counts. -/
  | simulRead (t : Nat) (rq : Req)
  /-- SC_COUNTERS (R145). Returns the scan-converter counters and can clear them. -/
  | scCounters (t : Nat) (rq : Req)
  /-- PATH_TEST (R140). Starts a job that steps the test DAC through levels on up to 16 slots and fits their response.
  -/
  | pathTest (t : Nat) (rq : Req)
  /-- PATH_TEST_DONE (R140). A path-test job ends; the slots return to their threads and the results are reported. -/
  | pathTestDone (t : Nat) (job : Nat) (slots : List Nat) (husks : List Nat)
  /-- LEAD_RES (R146). Takes four spot conversions and returns the resistance of the two excitation leads. -/
  | leadRes (t : Nat) (rq : Req)
  /-- FILTER_STATUS (R177). Reports the filter-chain state and recovery instants of a channel. -/
  | filterStatus (t : Nat) (rq : Req)
  /-- SETTLE_INFO (R177). Reports the look-aheads and settle counts of a channel. -/
  | settleInfo (t : Nat) (rq : Req)
  /-- REED_SWAP (R169). Makes the other Reed bank of an engine live, staged or deferred until no fade runs. -/
  | reedSwap (t : Nat) (rq : Req)
  /-- REED_SWAP_RELEASE (R169). The last fade sample on the engine of a deferred swap has been formed, and the swap is
  staged for its beat. -/
  | reedSwapRelease (t : Nat) (die : Nat)
  /-- MAINS_STATUS (R177). Reports the mains frequency in use and the tracking state. -/
  | mainsStatus (t : Nat) (rq : Req)
  /-- COEF_READ (R177). Returns coefficients of the compensation FIR, the resampler prototype or a channel's notch. -/
  | coefRead (t : Nat) (rq : Req)
  /-- GROUP_STATUS (R196). Reports the settings and fill counts of a rate group. -/
  | groupStatus (t : Nat) (rq : Req)
  /-- CH_TIMING (R193). Reports the latency bound and path offsets of a channel. -/
  | chTiming (t : Nat) (rq : Req)
  /-- INSTANT_CALC (R196). Returns the first grid instant of a group at or after a loom time. -/
  | instantCalc (t : Nat) (rq : Req)
  /-- TIME_STATUS (R230). Reports loom time, lock state, offset, epoch and path delay. -/
  | timeStatus (t : Nat) (rq : Req)
  /-- WARP_PORTS (R230). Reports the state and counters of each Warp port. -/
  | warpPorts (t : Nat) (rq : Req)
  /-- SYNC_RESET (R219). Starts a job that sends a synchronising reset for loom time t_s to the domain. -/
  | syncReset (t : Nat) (rq : Req)
  /-- TIME_SET (R231). Stages a step of loom time on a free-running hub, announced to its domain. -/
  | timeSet (t : Nat) (rq : Req)
  /-- EVENT_SEND (R231). Originates a host event over the Warp, stamped with the loom time at which the request is
  taken. -/
  | eventSend (t : Nat) (rq : Req)
  /-- CENSUS_READ (R230). Returns census records of the domain's hubs on the root. -/
  | censusRead (t : Nat) (rq : Req)
  /-- LIN_EVAL (R254). Evaluates a curve forward or inverse for a given input or target. -/
  | linEval (t : Nat) (rq : Req)
  /-- CJ_STATUS (R253). Reports the cold-junction source and temperature of a channel. -/
  | cjStatus (t : Nat) (rq : Req)
  /-- BRIDGE_ZERO (R254). Starts a job that averages a ratio channel's unflagged samples before ZERO. -/
  | bridgeZero (t : Nat) (rq : Req)
  /-- BRIDGE_ZERO_DONE (R254). A bridge-zero job ends with the mean, or fails if too few samples were used. -/
  | bridgeZeroDone (t : Nat) (job : Nat)
  /-- CAL_STATUS (R274). Reports the calibration copies, T_d and pending results of each pod. -/
  | calStatus (t : Nat) (rq : Req)
  /-- CAL_RUN (R262). Starts a calibration run of the kind named on slots of a pod. -/
  | calRun (t : Nat) (rq : Req)
  /-- CAL_RUN_DONE (R266). A calibration run ends; each result is tested and accepted into the pending set or
  rejected. -/
  | calRunDone (t : Nat) (job : Nat) (husks : List Nat)
  /-- CAL_COMMIT (R268). Stages the pending calibration sets and writes the new calibration copy. -/
  | calCommit (t : Nat) (rq : Req)
  /-- CAL_DISCARD (R268). Empties the pending calibration set. -/
  | calDiscard (t : Nat) (rq : Req)
  /-- CAL_READ (R274). Returns the points of a calibration entry from the set named. -/
  | calRead (t : Nat) (rq : Req)
  /-- TREADLE_STATUS (R311). Reports the state, counters and L_S of each sequencer. -/
  | treadleStatus (t : Nat) (rq : Req)
  /-- TREADLE_ARM (R292). Stages arming of the sequencers named. -/
  | treadleArm (t : Nat) (rq : Req)
  /-- TREADLE_DISARM (R292). Stages disarming of the sequencers named. -/
  | treadleDisarm (t : Nat) (rq : Req)
  /-- TREADLE_FORCE (R312). Takes one FORCED record in a bobbin. -/
  | treadleForce (t : Nat) (rq : Req)
  /-- BOBBIN_STATUS (R311). Reports the state, slots and counters of a bobbin. -/
  | bobbinStatus (t : Nat) (rq : Req)
  /-- COMP_STATUS (R311). Reports the state and last value of every comparator. -/
  | compStatus (t : Nat) (rq : Req)
  /-- TIO_STATUS (R311). Reports the level and deglitch rejections of every TIO pin. -/
  | tioStatus (t : Nat) (rq : Req)
  /-- LOOP_STATUS (R337). Reports the slot, state and currents of every loop driver. -/
  | loopStatus (t : Nat) (rq : Req)
  /-- LOOP_SET (R338). Stages a new VALUE for a setpoint slot of a loop driver. -/
  | loopSet (t : Nat) (rq : Req)
  /-- LOOP_SELECT (R318). Stages the selection of a value-source slot of a loop driver. -/
  | loopSelect (t : Nat) (rq : Req)
  /-- STIM_STATUS (R337). Reports the state and output of a pod's stimulus output. -/
  | stimStatus (t : Nat) (rq : Req)
  /-- STIM_START (R331). Starts table playback on the outputs named at a given loom time. -/
  | stimStart (t : Nat) (rq : Req)
  /-- STIM_STOP (R331). Holds the outputs named at their value in force. -/
  | stimStop (t : Nat) (rq : Req)
  /-- STIM_LOAD (R332). Writes a piece of plain table data, or of compressed data into the staging area. -/
  | stimLoad (t : Nat) (rq : Req)
  /-- STIM_TABLE_END (R332). Ends a table load, or starts a Winnow job to decompress it. -/
  | stimTableEnd (t : Nat) (rq : Req)
  /-- PORT_STATUS (R368). Reports the state and counters of a host port. -/
  | portStatus (t : Nat) (rq : Req)
  /-- STREAM_STATUS (R368). Reports the sequence numbers and retention of a stream or record stream. -/
  | streamStatus (t : Nat) (rq : Req)
  /-- STORE_STATUS (R368). Reports the retention pool and its fill. -/
  | storeStatus (t : Nat) (rq : Req)
  /-- WEFT_RESEND (R358). Queues the retained frames of a sequence range for retransmission in TC3. -/
  | weftResend (t : Nat) (rq : Req)
  /-- NOTICE_READ (R352). Returns kept notices from a given index. -/
  | noticeRead (t : Nat) (rq : Req)
  /-- PTP_STATUS (R368). Reports the PTP state of a host port. -/
  | ptpStatus (t : Nat) (rq : Req)
  /-- WINNOW_STATUS (R390). Reports the Winnow backlog, state and counters. -/
  | winnowStatus (t : Nat) (rq : Req)
  /-- WINNOW_PROBE (R391). Encodes the data given as one frame body and returns the result. -/
  | winnowProbe (t : Nat) (rq : Req)
  /-- INTEGRITY_STATUS (R416). Reports the store, husk, Selvedge and check-unit counters. -/
  | integrityStatus (t : Nat) (rq : Req)
  /-- CROSS_STATUS (R416). Reports the counters of every clock-domain crossing. -/
  | crossStatus (t : Nat) (rq : Req)
  /-- CHK_STEP (R394). Runs a pool check unit over the data given, from the context given. -/
  | chkStep (t : Nat) (rq : Req)
  /-- STORE_CRC (R417). Starts a job that computes the CRC-32C of a table or of the staging area. -/
  | storeCrc (t : Nat) (rq : Req)
  /-- STORE_CRC_DONE (R417). A STORE_CRC job ends with the CRC and the bytes covered. -/
  | storeCrcDone (t : Nat) (job : Nat)
  /-- PAIR_STATUS (R448). Reports the pair role, partner evidence and pair counters. -/
  | pairStatus (t : Nat) (rq : Req)
  /-- PAIR_SWITCH (R442). Starts a make-before-break switch to the partner at a beat boundary. -/
  | pairSwitch (t : Nat) (rq : Req)
  /-- PAIR_DETACH (R445). Moves a standby to CONFIG as a detached SOLO hub. -/
  | pairDetach (t : Nat) (rq : Req)
  /-- MIRROR_RESYNC (R430). Has a standby request a whole resync of its mirror. -/
  | mirrorResync (t : Nat) (rq : Req)
  /-- POWER_STATUS (R464). Reports the state of every domain and rail. -/
  | powerStatus (t : Nat) (rq : Req)
  /-- DOMAIN_SET (R454). Stages power domains to be switched on or off. -/
  | domainSet (t : Nat) (rq : Req)
  /-- SEED_STATUS (R464). Reports spares, worn parts and substitutions. -/
  | seedStatus (t : Nat) (rq : Req)
  /-- SEED_SUBST (R460). Stages a digital seed-bank substitution of a worn part. -/
  | seedSubst (t : Nat) (rq : Req)
  /-- SEED_CONSENT (R461). Stages an analogue spare to replace a modulator or current source. -/
  | seedConsent (t : Nat) (rq : Req)
  /-- IMAGE_LOAD (R458). Writes a piece of a compressed firmware image into the staging area. -/
  | imageLoad (t : Nat) (rq : Req)
  /-- IMAGE_END (R458). Starts a Winnow job that decompresses the staged image into the idle slot. -/
  | imageEnd (t : Nat) (rq : Req)
  /-- DECOMPRESSION_DONE (R384). A Winnow decompression job ends in success or failure and commits its destination
  only on success. -/
  | decompressionDone (job : JobEnd)
  /-- BEAT_BOUNDARY (R34). At each beat boundary the pending staged copies become active, the snapshot is latched, the
  beat counter rises and the die temperatures are sampled. -/
  | beatBoundary (t : Nat) (husks : List Nat) (late : Bool) (bad : List Nat)
  /-- MBB_ROLE_CHANGE (R442). 1 ms after b the incoming hub takes over sequencer evaluation, roles change and the
  outgoing drive ramps off. -/
  | mbbRoleChange (t : Nat)
  /-- DOMAIN_POWER_GOOD (R454). A starting domain reaches power-good and has its staged registers written. -/
  | domainPowerGood (t : Nat) (dom : Nat)
  /-- DOMAIN_POWER_GOOD_TIMEOUT (R454). A domain without power-good 5 ms after switching on is reported lost. -/
  | domainPowerGoodTimeout (t : Nat) (dom : Nat)
  /-- STORE_ZEROED (R454). D2 completes writing zeros with valid check bytes to every codeword. -/
  | storeZeroed (t : Nat)
  /-- PLY_LINK_TRAINED (R454). A pod die's trims are loaded and its ply link is trained. -/
  | plyLinkTrained (t : Nat) (die : Nat) (lanes : Nat)
  /-- SYNCHRONISING_RESET (R120). At the first modulator clock at or after t_s every pod die zeroes its modulators,
  CIC and counts, and all channels start a recovery. -/
  | synchronisingReset (t : Nat)
  /-- CATCH_UP_RESET (R220). A LOCKED hub whose epoch differs from its parent's resets with the modulator count preset
  to the domain's count. -/
  | catchUpReset (t : Nat)
  /-- LOOM_TIME_STEP (R199). Loom time is stepped by whole modulator clocks, moving the epoch, the beats and the grid.
  -/
  | loomTimeStep (t : Nat) (work : BeatWork)
  /-- PLY_WORD_ARRIVAL (R24). A word arrives over a ply link and its slot counter is compared with the value expected.
  -/
  | plyWordArrival (t : Nat) (ch : Nat) (reed : Bool) (slot : Nat) (k : Nat) (codes : List Int)
  /-- PLY_LANE_FAILURE (R25). A ply-link lane fails training or passes its error threshold, and the link retrains
  without it. -/
  | plyLaneFailure (t : Nat) (die : Nat) (lane : Nat)
  /-- OUTPUT_SAMPLE (R160). At its grid instant plus L, a channel's sample is formed on the CIC path, the Reed path or
  the fade, with its flags and both taps. -/
  | outputSample (t : Nat) (ch : Nat) (grid : Nat) (reads : List (Nat × Bytes))
  /-- FRAME_CLOSE (R345). A stream frame closes after FRAME_SAMPLES instants or at a break, takes its sequence number
  and is queued. -/
  | frameClose (t : Nat) (stream : Nat) (sec : Nat)
  /-- WINNOW_FRAME_START (R379). Winnow starts a waiting frame and checks the backlog against the forcing thresholds.
  -/
  | winnowFrameStart (t : Nat)
  /-- WINNOW_FRAME_DONE (R372). Winnow finishes encoding a frame body and check unit 0 appends its trailer. -/
  | winnowFrameDone (t : Nat) (stalled : Option Nat)
  /-- WINNOW_STALL_RESUME (R382). Winnow resumes from the exact bit at which it stalled once its output queue has
  room. -/
  | winnowStallResume (t : Nat)
  /-- PORT_TRANSMIT (R362). A free host port starts the next frame from the highest waiting class. -/
  | portTransmit (t : Nat) (port : Nat)
  /-- TC0_TOKEN (R363). The TC0 shaper gains a token, and a waiting notice frame or PTP message may be sent. -/
  | tc0Token (t : Nat) (port : Nat)
  /-- ACKNOWLEDGEMENT (R356). An acknowledgement datagram arrives and cumulatively releases retained frames. -/
  | acknowledgement (t : Nat) (port : Nat) (msg : Bytes)
  /-- HOST_FRAME_RECEIVED (R340). A frame received on a host port is checked at every layer and discarded and counted
  if it fails. -/
  | hostFrameReceived (t : Nat) (port : Nat) (frame : Bytes) (fcsOk : Bool)
  /-- ARP_REQUEST (R341). An ARP request for the hub's address is answered. -/
  | arpRequest (t : Nat) (port : Nat) (senderMac : Nat) (senderIp : Nat) (targetIp : Nat)
  /-- ARP_REFRESH (R341). An ARP entry is refreshed 60 s after it was learnt. -/
  | arpRefresh (t : Nat) (port : Nat) (ip : Nat)
  /-- ARP_RETRY (R341). An unresolved next hop is asked again after 1 s, and after three requests its frames wait. -/
  | arpRetry (t : Nat) (port : Nat) (ip : Nat)
  /-- ICMP_ECHO_REQUEST (R341). An ICMP echo request is answered within the rate and size limits. -/
  | icmpEchoRequest (t : Nat) (port : Nat) (srcIp : Nat) (msg : Bytes)
  /-- PTP_SYNC (R225). A PTP Sync and its delay measurement give an offset that feeds the servo. -/
  | ptpSync (t : Nat) (port : Nat) (m : PtpSync)
  /-- PTP_ANNOUNCE (R343). A PTP Announce enters the best master choice. -/
  | ptpAnnounce (t : Nat) (port : Nat) (m : PtpAnnounce)
  /-- PDELAY_REQ (R343). A PTP Pdelay_Req is answered one-step or two-step. -/
  | pdelayReq (t : Nat) (port : Nat) (srcId : Nat) (seqId : Nat) (domain : Nat)
  /-- PORT_LINK_CHANGE (R339). A host port comes up or goes down, sending a gratuitous ARP when up. -/
  | portLinkChange (t : Nat) (port : Nat) (up : Bool)
  /-- WARP_TIME_FRAME (R210). A time frame arrives on W_UP and completes an offset exchange. -/
  | warpTimeFrame (t : Nat) (frame : Bytes) (ext : Nat)
  /-- TIME_FRAME_SEND (R206). Every 4 µs a LOCKED or HOLDOVER hub sends a time frame on each downstream port that is
  up. -/
  | timeFrameSend (t : Nat) (port : Nat)
  /-- DELAY_REQUEST_SEND (R207). Every 4 µs a hub sends a delay request with a census record on W_UP. -/
  | delayRequestSend (t : Nat)
  /-- DELAY_REQUEST (R207). A delay request arrives on a downstream port and is stamped for return. -/
  | delayRequest (t : Nat) (port : Nat) (frame : Bytes) (ext : Nat)
  /-- WARP_EVENT (R217). A Warp event arrives, is judged by its link sequence number, and is accepted, forwarded and
  handed to the Treadle once. -/
  | warpEvent (t : Nat) (port : Nat) (ev : Bytes)
  /-- RESEND_REQUEST (R217). A resend request makes the sender send again every event from the number named, or count
  an event lost. -/
  | resendRequest (t : Nat) (port : Nat) (first : Nat)
  /-- EVENT_ORIGINATION (R218). A waiting originated event leaves once 100 µs have passed since the last. -/
  | eventOrigination (t : Nat)
  /-- WARP_EVENT_TRANSMIT (R216). A queued event leaves its port once the port sends time frames. -/
  | warpEventTransmit (t : Nat) (port : Nat)
  /-- WARP_PORT_STATE_CHANGE (R204). A Warp port changes state on symbol lock, frame loss or a wiring fault. -/
  | warpPortStateChange (t : Nat) (port : Nat) (line : WarpLine)
  /-- WARP_LOST (R222). W_UP out of state 3 for 10 µs raises Warp lost and moves the servo to holdover or PTP
  fallback. -/
  | warpLost (t : Nat)
  /-- WARP_RETURN (R223). After 16 consecutive time frames the hub returns to the Warp in ACQUIRE. -/
  | warpReturn (t : Nat)
  /-- CENSUS_LAPSE (R224). A census entry not refreshed for 100 ms lapses at the root. -/
  | censusLapse (t : Nat) (hub : Nat)
  /-- MODULATOR_RESTART (R121). 16 consecutive extreme codes make the pod die discharge and restart the modulator. -/
  | modulatorRestart (t : Nat) (ch : Nat) (positive : Bool)
  /-- OVERRANGE_ONSET (R86). A slot's overrange detector becomes active. -/
  | overrangeOnset (t : Nat) (ch : Nat) (positive : Bool)
  /-- OVERRANGE_END (R106). A slot's overrange ends and the slot starts a recovery. -/
  | overrangeEnd (t : Nat) (ch : Nat)
  /-- OVERVOLTAGE_TRIP (R100). A thread's overvoltage detector trips and every driver on the thread is disconnected. -/
  | overvoltageTrip (t : Nat) (pod : Nat) (thread : Nat)
  /-- OVERVOLTAGE_CLEAR (R100). A tripped detector clears after 5 µs within ±13.0 V. -/
  | overvoltageClear (t : Nat) (pod : Nat) (thread : Nat)
  /-- DRIVER_RECONNECT (R100). 1 ms after the detector clears, the thread's drivers reconnect and the slots recover. -/
  | driverReconnect (t : Nat) (pod : Nat) (thread : Nat)
  /-- LEAD_WATCH_HALF_PERIOD (R102). At the end of each lead-watch half-period the loop resistance is computed and the
  detector advances. -/
  | leadWatchHalfPeriod (t : Nat) (ch : Nat) (mean : Int) (husks : List Nat)
  /-- LEAD_SUSPECT (R104). A lead detector becomes suspect and the slot's samples carry LEAD. -/
  | leadSuspect (t : Nat) (ch : Nat) (det : Detector)
  /-- LEAD_CONFIRMED (R104). A lead fault is confirmed, logged and announced as a TC0 alarm. -/
  | leadConfirmed (t : Nat) (ch : Nat) (det : Detector)
  /-- LEAD_CLEARED (R103). A lead detector falls back to clear after its clearing interval. -/
  | leadCleared (t : Nat) (ch : Nat) (det : Detector)
  /-- EXCITATION_EXCHANGE (R89). Every T_H a SWAP or REVERSE source exchanges its threads and holds the affected
  modulator inputs for 5 µs. -/
  | excitationExchange (t : Nat) (pod : Nat) (src : Nat)
  /-- SCAN_CONVERSION_DONE (R133). A scan conversion ends and the converter grants the pending request of the lowest
  class. -/
  | scanConversionDone (t : Nat) (sc : Nat) (code : Int) (value : Word)
  /-- SIMULTANEOUS_TRIGGER (R135). The simultaneous group acquires on one SCLK edge, or counts a missed trigger. -/
  | simultaneousTrigger (t : Nat)
  /-- SCAN_LIST_PASS (R137). A scan-list pass falls due, or is skipped and counted as a scan overrun. -/
  | scanListPass (t : Nat) (list : Nat)
  /-- LOOP_UPDATE (R314). Every 100 µs each loop driver forms its value from its selected slot and latches a new
  commanded current. -/
  | loopUpdate (t : Nat) (bad : List Nat)
  /-- STIMULUS_TICK (R324). Every 20 µs each stimulus output computes its target and latches the test DAC. -/
  | stimulusTick (t : Nat) (found : StimTick)
  /-- SEQUENCER_EVALUATION (R277). At t + L_S a sequencer evaluates its transitions, takes at most one and performs
  its actions. -/
  | sequencerEvaluation (t : Nat) (seq : Nat) (inst : Nat)
  /-- TREADLE_TIMER_EXPIRY (R284). A running Treadle timer reaches its target. -/
  | treadleTimerExpiry (t : Nat) (seq : Nat) (k : Nat)
  /-- TREADLE_COUNTER_REACHED (R283). A Treadle counter reaches its CMP value. -/
  | treadleCounterReached (t : Nat) (seq : Nat) (k : Nat)
  /-- TIO_INPUT_CHANGE (R281). A TIO pin changes level and starts its deglitch time. -/
  | tioInputChange (t : Nat) (pin : Nat) (level : Bool)
  /-- TIO_LEVEL_ACCEPTED (R281). A new pin level that held for DEGLITCH × 20 ns is accepted and dated. -/
  | tioLevelAccepted (t : Nat) (pin : Nat)
  /-- AUTO_TIMEOUT (R297). A bobbin with no trigger for AUTO_TO forces an AUTO record, or counts the attempt. -/
  | autoTimeout (t : Nat) (bob : Nat)
  /-- REARM_END (R296). A bobbin's re-arm interval ends and it can take a trigger again. -/
  | rearmEnd (t : Nat) (bob : Nat)
  /-- RECORD_COMPLETE (R301). A record's measurements are formed and it is released for delivery. -/
  | recordComplete (t : Nat) (bob : Nat) (rec : Nat)
  /-- SCRUB_PASS (R402). The scrubber reads, corrects and writes back codewords, completing a pass every SCRUB_PASS. -/
  | scrubPass (t : Nat) (reads : List (Nat × Bytes))
  /-- MAC_RESIDUE_FAILURE (R460). A MAC lane's residue check fails; the lane is retired and the sample filled. -/
  | macResidueFailure (t : Nat) (lane : Nat) (ch : Nat)
  /-- VOTER_DISAGREEMENT (R414). The supervisor cores disagree; a dissenting core leaves the set, or the hub enters
  SAFE. -/
  | voterDisagreement (t : Nat) (dissenter : Option Nat)
  /-- CLOCK_MONITOR_REPORT (R27). A clock is reported stopped or out of tolerance. -/
  | clockMonitorReport (t : Nat) (clk : Clock) (kind : ClockReport)
  /-- QCLK_RESTORE (R28). The supervisor returns from KCLK after QCLK has been within tolerance for 1 ms. -/
  | qclkRestore (t : Nat)
  /-- CLOCK_RESTORED (R410). A stopped receiving clock returns and the crossing delivers its held data first. -/
  | clockRestored (t : Nat) (clk : Clock)
  /-- CROSSING_RESTART (R411). One side of a crossing leaves reset, both sides empty and resume, and the restart is
  counted. -/
  | crossingRestart (t : Nat) (x : Nat)
  /-- RAIL_OUT_OF_WINDOW (R452). A rail leaves its window for 2 µs and the domains it feeds are lost. -/
  | railOutOfWindow (t : Nat) (rail : Nat) (span : Bool)
  /-- RAIL_IN_WINDOW (R450). A rail is back in window after 10 ms inside its levels. -/
  | railInWindow (t : Nat) (rail : Nat)
  /-- DOMAIN_SWITCH_FAULT (R452). A domain's power switch reports a fault and the domain is lost. -/
  | domainSwitchFault (t : Nat) (dom : Nat)
  /-- NRESET_ASSERT (R455). nRESET low for 1 µs resets the hub and releases its threads and drivers. -/
  | nresetAssert (t : Nat)
  /-- NRESET_RELEASE (R456). The rising edge of nRESET latches the straps and starts BOOT. -/
  | nresetRelease (t : Nat) (rolePri : Bool) (hubidSel : Bool) (bootSel : Bool)
  /-- JOIN_WAIT_EXPIRY (R422). The listening time ends and a pairing hub settles its role. -/
  | joinWaitExpiry (t : Nat)
  /-- END_OF_BOOT (R456). BOOT ends, once a hub ID is held, into READY, RUN or CONFIG. -/
  | endOfBoot (t : Nat)
  /-- HEARTBEAT_SEND (R427). Every 4 µs a paired hub sends a Selvedge heartbeat frame. -/
  | heartbeatSend (t : Nat)
  /-- SELVEDGE_HEARTBEAT (R427). A heartbeat frame from the partner is accepted under the alive rule. -/
  | selvedgeHeartbeat (t : Nat) (frame : Bytes)
  /-- SNAPSHOT_FRAGMENT (R428). A snapshot fragment arrives and its husks are checked. -/
  | snapshotFragment (t : Nat) (hdr : SvHeader) (place : SnapPlace) (items : List SnapItem) (last : Bool)
  /-- DELTA (R429). A delta arrives at the standby, is staged for its beat or the next, and is acknowledged. -/
  | delta (t : Nat) (hdr : SvHeader) (frame : DeltaFrame)
  /-- DELTA_ACKNOWLEDGEMENT (R429). A delta acknowledgement reaches the active. -/
  | deltaAcknowledgement (t : Nat) (hdr : SvHeader) (id : Nat)
  /-- DELTA_RESEND (R429). The active resends an unacknowledged delta every 20 µs. -/
  | deltaResend (t : Nat)
  /-- RESYNC_REQUEST (R430). A resync request makes the active send its whole configuration as deltas, then a
  snapshot. -/
  | resyncRequest (t : Nat) (hdr : SvHeader)
  /-- SWITCH_CONTROL (R441). A switch-control frame names t_T for a prompt switch-over. -/
  | switchControl (t : Nat) (hdr : SvHeader) (tT : Nat)
  /-- PROMPT_SWITCH_INSTANT (R441). At t_T the outgoing hub releases its drivers and the incoming hub takes over. -/
  | promptSwitchInstant (t : Nat)
  /-- SELVEDGE_LOST (R425). No valid Selvedge frame for 20 µs loses the link. -/
  | selvedgeLost (t : Nat)
  /-- SELVEDGE_LANE_FAILURE (R425). A Selvedge lane fails and the link retrains. -/
  | selvedgeLaneFailure (t : Nat) (lane : Nat)
  /-- HB_IN_EDGE (R434). A rising edge arrives on HB_IN. -/
  | hbInEdge (t : Nat)
  /-- HB_IN_LOST (R434). No HB_IN rising edge for 30 µs. -/
  | hbInLost (t : Nat)
  /-- WITNESS_ABSENT (R435). A witness pair stays below WIT_MIN for WIT_TIME. -/
  | witnessAbsent (t : Nat) (w : Nat)
  /-- STANDBY_EVALUATION (R437). Every microsecond a standby evaluates its evidence of the partner. -/
  | standbyEvaluation (t : Nat)
  /-- RETURN_HOLDOFF_EXPIRY (R443). The primary's return conditions have held for HOLDOFF and it starts a
  make-before-break switch. -/
  | returnHoldoffExpiry (t : Nat)
  /-- MAINS_TRACKING_LOST (R155). No valid mains measurement for 100 ms loses tracking. -/
  | mainsTrackingLost (t : Nat)
  /-- PTP_SOURCE_LOST (R198). A hub LOCKED to PTP loses its PTP source and its servo enters HOLDOVER holding its last
  frequency correction. -/
  | ptpSourceLost (t : Nat)
  /-- PTP_DELAY_REQ_SEND (R343). The hub sends a PTP Delay_Req at the master's logMinDelayReqInterval under E2E, or a
  Pdelay_Req once per second under P2P. -/
  | ptpDelayReqSend (t : Nat) (port : Nat)
  /-- MIRROR_STALE (R430). The snapshot latched at a boundary has not been received complete within 500 µs of that
  boundary, so the mirror is stale and the standby sends a resync request. -/
  | mirrorStale (t : Nat)
  /-- WITNESS_PRESENT (R435). A witness pair that was absent rises above WIT_MIN, and excitation is present again. -/
  | witnessPresent (t : Nat) (w : Nat)
  deriving DecidableEq, Repr

end Sys2Proof
end

