-- ==== Sys2Proof/Decode.lean ====
section
/-! DEFINITION. Commands that a word spells. No row of spec/opcode_table.json gives bits (a command of this block
is a message, a frame or an event, never a word), so no word spells a command. -/

namespace Sys2Proof

/-- The command that a word of the table's bits spells: none, for the table gives no row any bits. -/
def decodeTableWord (_nbits _w : Nat) : Option Instr := none

end Sys2Proof
end

