-- ==== Sys2Proof/Config.lean ====
section
/-! DEFINITION. What the spec leaves open and an implementation fixes: opaque constants with no body, so that a
claim holds whatever they are. Each names the rule that leaves it open. -/

namespace Sys2Proof.Config

/-- The coefficients of the compensation FIR for a CIC order, taps 0 to 31 of 63 (R150): R499 says that they are fixed
and gives no values. -/
opaque compFir : (order i : Nat) → Int

/-- The words of the resampler prototype (R187), of which R499 gives no values; and how far the sum of the taps of a
phase lies from 2^23. -/
opaque prototype : (i : Nat) → Int
opaque phaseSum : (p : Nat) → Int

/-- The unit's letters of the ordering code (R2): burn-in screening Q, not E; packing S, not T. -/
opaque burnIn : Bool
opaque singlePack : Bool

/-- Identity of the unit (R75): serial number 16 bytes, lot code 8, MAC addresses 6 each. -/
opaque identity : (i : Nat) → Byte

/-- The revision byte of a block's header (R62). -/
opaque blockRev : (block : Nat) → Byte

/-- How far the last place of a cosine (0) or a logarithm (1) in binary64 lies from the nearest (R151, R237 give no
accuracy). -/
opaque lastPlace : (fn : Nat) → DWord → Int

/-- The EMF of a thermocouple outside the range of its reference function (R235, R241), where IEC 60584-1 gives none.
-/
opaque tcBeyond : (curve : Nat) → DWord → DWord

/-- What the hub itself finds where a rule gives the accuracy of a result only: the temperature for an EMF (R235) or a
resistance (R236), and the input quantity for a target (R247), of a curve with its set's words and reference. -/
opaque tcInverse : (curve : Nat) → DWord → DWord
opaque rtdInverse : (rnom a b c x : DWord) → DWord
opaque curveInverse : (curve : Nat) → (words : List Word) → (tref y : DWord) → DWord

/-- The header of the dynamic block of a token list (R376 leaves the code lengths open, and how they are spelt): taken
where it spells lengths that serve the tokens. -/
opaque dynamicHeader : List (Nat × Nat) → List Bool

/-- The factory calibration of an entry (R270): values programmed into each unit. -/
opaque factoryCal : (key term point : Nat) → DWord

/-- The port identity of a host port in the PTP messages it sends (R343), 80 bits: no rule gives the clock identity. -/
opaque ptpIdentity : (port : Nat) → Nat

/-- The pseudo-random levels of a LINEARITY run (R262), of which no rule gives the sequence. -/
opaque calLevel : (i : Nat) → Word

/-- The time servo's filter (R198, R211 and R225 give its loop bandwidth only): the filtered offset in ps and the
frequency correction in parts per 10^12, from the loop bandwidth in mHz, the value before and the offset. -/
opaque servoOffset : (bandwidth : Nat) → (before theta : Int) → Int
opaque servoFreq : (bandwidth : Nat) → (before theta : Int) → Int

/-- Whether an eMRAM write and its read-back succeed (R69), for each write in turn. -/
opaque emramWrite : Nat → Bool
/-- How long an eMRAM write runs, in units of 2^-32 s, for each write in turn; R69 and R269 bound it. -/
opaque writeTime : Nat → Nat
/-- The sector that an eMRAM read finds uncorrectable, if any, for each read in turn (R77). -/
opaque badSector : Nat → Option Nat
/-- The sector in which an eMRAM read corrects an error, if any, for each read in turn (R459). -/
opaque mendedSector : Nat → Option Nat

/-- What no Selvedge frame tells a hub of its partner (R422, R426): whether its ROLE_PRI is strapped high, and whether
this hub's H0 MAC address is the lower of the two. -/
opaque partnerPrimary : Bool
opaque macLower : Bool
/-- The loom time at which a partner found ACTIVE too became so (R423), for this hub's own; no frame carries it. -/
opaque partnerSince : Nat → Nat

/-- The partner's hub ID (R448), which no frame carries. -/
opaque partnerId : Nat

/-- The payloads of deltas, of snapshot fragments (beat, place in the snapshot, items) and of switch control (R426):
the spec gives what they hold and no layout. -/
opaque deltaPayload : Sys2Proof.Delta → Bytes
opaque snapshotPayload : (beat index : Nat) → List Sys2Proof.SnapItem → Bytes
opaque switchPayload : (tT : Nat) → Bytes

/-- How long an acknowledge takes within the bounds of R26 and R407, by the loom time at which it starts; and the
frames received that the queue of crossing 6 holds, to which R409 gives no depth. -/
opaque ackTime : Nat → Nat
opaque rxDepth : Nat

/-- A value that the spec leaves open, for each use in turn. -/
opaque freeWord : Nat → Word

end Sys2Proof.Config
end

