-- ==== Sys2Proof/Machine/Bytes.lean ====
section
/-! DEFINITION. Bytes, bit fields, byte order (R6, R7), saturation, serial numbers (R70) and convergent rounding. -/

namespace Sys2Proof.Machine

/-- A value in n bytes, most significant byte first (R7). -/
def beBytes : Nat → Nat → Bytes
  | 0, _ => []
  | n + 1, v => beBytes n (v / 256) ++ [BitVec.ofNat 8 v]

/-- A signed value in n bytes, two's complement, most significant byte first. -/
def beSigned (n : Nat) (v : Int) : Bytes := beBytes n (v % (256 ^ n : Nat)).toNat

/-- A 32-bit word in 4 bytes. -/
def beWord (w : Word) : Bytes := beBytes 4 w.toNat

/-- The number that bytes spell, most significant byte first. -/
def beNat (b : Bytes) : Nat := b.foldl (fun a x => a * 256 + x.toNat) 0

/-- n bytes from an offset. -/
def slice (b : Bytes) (off n : Nat) : Bytes := (b.drop off).take n

/-- The number in n bytes at an offset. -/
def beAt (b : Bytes) (off n : Nat) : Nat := beNat (slice b off n)

/-- n zero bytes. -/
def zeros (n : Nat) : Bytes := List.replicate n 0

/-- The signed number of an n-bit two's-complement pattern. -/
def signedOf (n v : Nat) : Int :=
  let w := v % 2 ^ n
  if w < 2 ^ (n - 1) then (w : Int) else (w : Int) - (2 ^ n : Nat)

/-- Field [hi:lo] of a word (R6). -/
def fld (w : Word) (hi lo : Nat) : Nat := (w.toNat >>> lo) % 2 ^ (hi + 1 - lo)

/-- Bit n of a word. -/
def bitAt (w : Word) (n : Nat) : Bool := w.toNat.testBit n

/-- Bit n of a number. -/
def nbit (v n : Nat) : Bool := v.testBit n

/-- A bit as a number. -/
def b2n (b : Bool) : Nat := if b then 1 else 0

/-- Count up, saturating at 16 bits. -/
def inc16 (v : Nat) : Nat := if v < 0xFFFF then v + 1 else 0xFFFF

/-- Count up, saturating at 32 bits. -/
def inc32 (v : Nat) : Nat := if v < 0xFFFFFFFF then v + 1 else 0xFFFFFFFF

/-- Add, saturating at 16, 32 or 64 bits. -/
def sat16 (v : Nat) : Nat := min v 0xFFFF
def sat32 (v : Nat) : Nat := min v 0xFFFFFFFF
def sat64 (v : Nat) : Nat := min v 0xFFFFFFFFFFFFFFFF

/-- The next 32-bit serial number. -/
def next32 (v : Nat) : Nat := (v + 1) % 2 ^ 32

/-- a - b modulo 2^32. -/
def diff32 (a b : Nat) : Nat := (a + 2 ^ 32 - b % 2 ^ 32) % 2 ^ 32

/-- Number a is newer than number b (R70). -/
def newer32 (a b : Nat) : Bool := 1 ≤ diff32 a b && diff32 a b < 2 ^ 31

/-- The least whole number at or above a / b. -/
def ceilDiv (a b : Nat) : Nat := (a + b - 1) / b

/-- a / b rounded to the nearest whole number, ties to even (R127, R147). -/
def roundEven (a : Int) (b : Nat) : Int :=
  let q := a / (b : Int)
  let r := a % (b : Int)
  if 2 * r < b then q
  else if 2 * r > b then q + 1
  else if q % 2 = 0 then q else q + 1

/-- Limit to lo .. hi. -/
def clampInt (lo hi v : Int) : Int := if v < lo then lo else if v > hi then hi else v

/-- Set or clear membership of a number in a list kept without repeats, rising. -/
def setMem (l : List Nat) (n : Nat) (on : Bool) : List Nat :=
  if on then
    let rec ins : List Nat → List Nat
      | [] => [n]
      | x :: r => if n < x then n :: x :: r else if n = x then x :: r else x :: ins r
    ins l
  else l.filter (· ≠ n)

/-- A list of bit numbers as a mask. -/
def maskOf (l : List Nat) : Nat := l.foldl (fun a b => a ||| 2 ^ b) 0

/-- The bit numbers below n that a mask sets. -/
def bitsOf (n mask : Nat) : List Nat := (List.range n).filter fun i => mask.testBit i

/-- ASCII bytes. -/
def ascii (l : List Nat) : Bytes := l.map fun c => BitVec.ofNat 8 c

/-- A husk: the value, then its complement (R65, R398). -/
def huskBytes (w : Word) : Bytes := beWord w ++ beWord (~~~ w)

/-- The word of an 8-byte husk at an offset; none where the halves do not match. -/
def huskAt (b : Bytes) (off : Nat) : Option Word :=
  let v : Word := BitVec.ofNat 32 (beAt b off 4)
  let c : Word := BitVec.ofNat 32 (beAt b (off + 4) 4)
  if v ^^^ c = 0xFFFFFFFF#32 then some v else none

/-- n words as husks, none where any does not match. -/
def husksAt (b : Bytes) (off : Nat) : Nat → Option (List Word)
  | 0 => some []
  | n + 1 =>
    match huskAt b off, husksAt b (off + 8) n with
    | some w, some r => some (w :: r)
    | _, _ => none

end Sys2Proof.Machine
end

