-- ==== Sys2Proof/Machine/Deflate.lean ====
section
/-! DEFINITION. DEFLATE as Winnow writes and reads it (R370 to R378, R384 to R387): match search, the three block
types, and the decoder with its faults. -/

namespace Sys2Proof.Machine

open Sys2Proof

/-! ### Match search -/

/-- The hash of the three bytes at the head of a string (R374); none where fewer remain. -/
def hash3 : Bytes → Option Nat
  | a :: b :: c :: _ => some (((a.toNat * 256) ^^^ (b.toNat * 16) ^^^ c.toNat) % 4096)
  | _ => none

/-- Length of the common head of two strings, at most n. -/
def common : Nat → Bytes → Bytes → Nat
  | n + 1, a :: r, b :: q => if a = b then common n r q + 1 else 0
  | _, _, _ => 0

/-- Earlier positions that share the hash of position p, newest first (R374). -/
def chainOf (data : Bytes) (p : Nat) : List Nat :=
  match hash3 (data.drop p) with
  | none => []
  | some h => (List.range p).reverse.filter fun q => hash3 (data.drop q) == some h

/-- The best match at position p under a chain depth (R374): length and distance, length 0 where there is none. -/
def bestMatch (data : Bytes) (depth p : Nat) : Nat × Nat :=
  ((chainOf data p).take depth).foldl (fun (b : Nat × Nat) q =>
    let l := common 258 (data.drop q) (data.drop p)
    if 3 ≤ l ∧ b.1 < l then (l, p - q) else b) (0, 0)

/-- The tokens of a body from position p on (R374): a literal is (0, byte), a match (length, distance). -/
def tokensFrom (data : Bytes) (depth : Nat) (lazy_ : Bool) : Nat → Nat → List (Nat × Nat)
  | 0, _ => []
  | fuel + 1, p =>
    match data.drop p with
    | [] => []
    | b :: _ =>
      let m := bestMatch data depth p
      if m.1 < 3 || (lazy_ && decide (m.1 < (bestMatch data depth (p + 1)).1)) then
        (0, b.toNat) :: tokensFrom data depth lazy_ fuel (p + 1)
      else m :: tokensFrom data depth lazy_ fuel (p + m.1)

/-- DEPTH of an EFFORT (R375). -/
def effortDepth (e : Nat) : Nat := [1, 2, 4, 8, 16, 32, 64, 256].getD e 1

/-- The tokens of a body at an EFFORT. -/
def tokens (data : Bytes) (effort : Nat) : List (Nat × Nat) :=
  tokensFrom data (effortDepth effort) (decide (4 ≤ effort)) data.length 0

/-! ### Bits -/

/-- n bits of a number, least significant first. -/
def bitsLsb (n v : Nat) : List Bool := (List.range n).map v.testBit
/-- n bits of a number, most significant first, as Huffman codes are packed. -/
def bitsMsb (n v : Nat) : List Bool := (bitsLsb n v).reverse

/-- Bits into bytes, the first bit least significant; the last byte is padded with zeros. -/
def packBits : Nat → List Bool → Bytes
  | 0, _ => []
  | _, [] => []
  | fuel + 1, l =>
    BitVec.ofNat 8 ((l.take 8).foldr (fun b a => 2 * a + b2n b) 0) :: packBits fuel (l.drop 8)

/-- Bytes into bits, least significant first. -/
def unpackBits (b : Bytes) : List Bool := b.flatMap fun x => bitsLsb 8 x.toNat

/-! ### Codes of RFC 1951 -/

def lenBase : List Nat :=
  [3, 4, 5, 6, 7, 8, 9, 10, 11, 13, 15, 17, 19, 23, 27, 31, 35, 43, 51, 59, 67, 83, 99, 115, 131, 163, 195, 227, 258]
def lenExtra : List Nat :=
  [0, 0, 0, 0, 0, 0, 0, 0, 1, 1, 1, 1, 2, 2, 2, 2, 3, 3, 3, 3, 4, 4, 4, 4, 5, 5, 5, 5, 0]
def distBase : List Nat :=
  [1, 2, 3, 4, 5, 7, 9, 13, 17, 25, 33, 49, 65, 97, 129, 193, 257, 385, 513, 769, 1025, 1537, 2049, 3073, 4097, 6145,
    8193, 12289, 16385, 24577]
def distExtra : List Nat :=
  [0, 0, 0, 0, 1, 1, 2, 2, 3, 3, 4, 4, 5, 5, 6, 6, 7, 7, 8, 8, 9, 9, 10, 10, 11, 11, 12, 12, 13, 13]

/-- The index of the last base at or below a value. -/
def baseIndex (bases : List Nat) (v : Nat) : Nat := (bases.filter (· ≤ v)).length - 1

/-- The static code of a literal or length symbol. -/
def staticLit (s : Nat) : List Bool :=
  if s < 144 then bitsMsb 8 (0x30 + s)
  else if s < 256 then bitsMsb 9 (0x190 + (s - 144))
  else if s < 280 then bitsMsb 7 (s - 256)
  else bitsMsb 8 (0xC0 + (s - 280))

/-- The bits of a token list under a pair of codes, with the end-of-block symbol. -/
def codeTokens (lit dist : Nat → List Bool) (ts : List (Nat × Nat)) : List Bool :=
  (ts.flatMap fun t =>
    if t.1 = 0 then lit t.2
    else
      let li := baseIndex lenBase t.1
      let di := baseIndex distBase t.2
      lit (257 + li) ++ bitsLsb (lenExtra.getD li 0) (t.1 - lenBase.getD li 0)
        ++ dist di ++ bitsLsb (distExtra.getD di 0) (t.2 - distBase.getD di 0)) ++ lit 256

/-- The body as one static block (R376). -/
def staticBlock (ts : List (Nat × Nat)) : List Bool := [true, true, false] ++ codeTokens staticLit (bitsMsb 5) ts

/-- The body as one stored block (R376, R377). -/
def storedBlock (data : Bytes) : Bytes :=
  let n := data.length
  [0x01#8, BitVec.ofNat 8 n, BitVec.ofNat 8 (n / 256), BitVec.ofNat 8 (255 - n % 256), BitVec.ofNat 8 (255 - n / 256 % 256)]
    ++ data

/-- A list of bits as whole bytes. -/
def bitBytes (l : List Bool) : Bytes := packBits l.length l

/-! ### Decoding -/

/-- A decompression so far: bits still to read and output, newest byte first. -/
structure Inflate where
  bits : List Bool
  out : Bytes
  size : Nat

/-- How a step of the decoder ends: it goes on, or it meets fault n of R384. -/
inductive Inf (α : Type) where
  | ok (v : α) (s : Inflate)
  | fault (n : Nat) (s : Inflate)

/-- Read n bits as a number, least significant first; fault 7 where the source ends. -/
def readBits (n : Nat) (s : Inflate) : Inf Nat :=
  if s.bits.length < n then .fault 7 { s with bits := [] }
  else .ok ((s.bits.take n).foldr (fun b a => 2 * a + b2n b) 0) { s with bits := s.bits.drop n }

/-- The symbols of a code with their canonical codes: length, code, symbol. -/
def canonical (lens : List Nat) : List (Nat × Nat × Nat) :=
  let syms := (List.range lens.length).zip lens
  let ordered := (List.range 15).flatMap fun l => (syms.filter fun x => x.2 == l + 1).map fun x => (l + 1, x.1)
  (ordered.foldl (fun (a : List (Nat × Nat × Nat) × Nat × Nat) x =>
    let code := a.2.1 * 2 ^ (x.1 - a.2.2)
    ((x.1, code, x.2) :: a.1, code + 1, x.1)) ([], 0, 0)).1

/-- Kraft sum of a code in units of 2^-15. -/
def kraft (lens : List Nat) : Nat := (lens.filter (· ≠ 0)).foldl (fun a l => a + 2 ^ (15 - l)) 0

/-- A code is complete (R384 fault 4); a single distance code of length 1 is accepted, and so is a block of literals
alone that has no distance code, as RFC 1951 allows (DEDUCED, log entry 174). -/
def codeOk (dist : Bool) (lens : List Nat) : Bool :=
  kraft lens == 2 ^ 15 || (dist && (lens.filter (· ≠ 0) == [1] || lens.all (· == 0)))

/-- Decode one symbol, bit by bit: fault 7 where the source ends, 5 where no code matches. -/
def decodeSym (code : List (Nat × Nat × Nat)) : Nat → Nat → Nat → Inflate → Inf Nat
  | 0, _, _, s => .fault 5 s
  | fuel + 1, len, acc, s =>
    match s.bits with
    | [] => .fault 7 s
    | b :: r =>
      let acc := 2 * acc + b2n b
      let s := { s with bits := r }
      match code.find? fun x => x.1 == len + 1 && x.2.1 == acc with
      | some x => .ok x.2.2 s
      | none => decodeSym code fuel (len + 1) acc s

/-- Write one byte under the output limit (R386). -/
def putByte (limit : Nat) (b : Byte) (s : Inflate) : Inf Unit :=
  if s.size ≥ limit then .fault 1 s else .ok () { s with out := b :: s.out, size := s.size + 1 }

/-- Copy a match byte by byte. -/
def copyMatch (dist : Nat) : Nat → Inflate → Inflate
  | 0, s => s
  | n + 1, s => copyMatch dist n { s with out := s.out.getD (dist - 1) 0 :: s.out, size := s.size + 1 }

/-- The symbols of a coded block up to its end (R384, R386). -/
def inflateSyms (limit : Nat) (lit dist : List (Nat × Nat × Nat)) : Nat → Inflate → Inf Unit
  | 0, s => .fault 7 s
  | fuel + 1, s =>
    match decodeSym lit 15 0 0 s with
    | .fault n s => .fault n s
    | .ok sym s =>
      if sym = 256 then .ok () s
      else if sym < 256 then
        match putByte limit (BitVec.ofNat 8 sym) s with
        | .fault n s => .fault n s
        | .ok _ s => inflateSyms limit lit dist fuel s
      else if sym > 285 then .fault 5 s
      else
        match readBits (lenExtra.getD (sym - 257) 0) s with
        | .fault n s => .fault n s
        | .ok le s =>
          match decodeSym dist 15 0 0 s with
          | .fault n s => .fault n s
          | .ok ds s =>
            if ds > 29 then .fault 5 s
            else
              match readBits (distExtra.getD ds 0) s with
              | .fault n s => .fault n s
              | .ok de s =>
                let len := lenBase.getD (sym - 257) 0 + le
                let d := distBase.getD ds 0 + de
                if s.size < d then .fault 6 s
                else if limit < s.size + len then .fault 1 s
                else inflateSyms limit lit dist fuel (copyMatch d len s)

/-- The bytes of a stored block. -/
def inflateStored (limit : Nat) : Nat → Inflate → Inf Unit
  | 0, s => .ok () s
  | n + 1, s =>
    if s.size ≥ limit then .fault 1 s
    else
      match readBits 8 s with
      | .fault k s => .fault k s
      | .ok b s => inflateStored limit n { s with out := BitVec.ofNat 8 b :: s.out, size := s.size + 1 }

/-- Read n code lengths of the literal and distance codes by the code-length code. -/
def readLens (code : List (Nat × Nat × Nat)) (want : Nat) : Nat → List Nat → Inflate → Inf (List Nat)
  | 0, acc, s => .ok acc s
  | fuel + 1, acc, s =>
    if acc.length ≥ want then .ok acc s
    else
      match decodeSym code 7 0 0 s with
      | .fault n s => .fault n s
      | .ok sym s =>
        if sym < 16 then readLens code want fuel (acc ++ [sym]) s
        else
          let extra := if sym = 16 then 2 else if sym = 17 then 3 else 7
          let base := if sym = 18 then 11 else 3
          match readBits extra s with
          | .fault n s => .fault n s
          | .ok r s =>
            if (sym = 16 ∧ acc = []) ∨ want < acc.length + base + r then .fault 5 s
            else
              let v := if sym = 16 then acc.getLastD 0 else 0
              readLens code want fuel (acc ++ List.replicate (base + r) v) s

/-- The order of the code-length code lengths. -/
def clOrder : List Nat := [16, 17, 18, 0, 8, 7, 9, 6, 10, 5, 11, 4, 12, 3, 13, 2, 14, 1, 15]

/-- Read n numbers of 3 bits. -/
def readThrees : Nat → Inflate → Inf (List Nat)
  | 0, s => .ok [] s
  | n + 1, s =>
    match readBits 3 s with
    | .fault k s => .fault k s
    | .ok v s =>
      match readThrees n s with
      | .fault k s => .fault k s
      | .ok r s => .ok (v :: r) s

/-- The code lengths of a dynamic block, literals and distances. -/
def readHeader (s : Inflate) : Inf (List Nat × List Nat) :=
  match readBits 14 s with
  | .fault n s => .fault n s
  | .ok h s =>
    let hlit := h % 32 + 257
    let hdist := h / 32 % 32 + 1
    match readThrees (h / 1024 + 4) s with
    | .fault n s => .fault n s
    | .ok cl s =>
      let lens := (List.range 19).map fun k => ((clOrder.zip cl).lookup k).getD 0
      if codeOk false lens = false then .fault 4 s
      else
        match readLens (canonical lens) (hlit + hdist) (hlit + hdist) [] s with
        | .fault n s => .fault n s
        | .ok ls s =>
          if codeOk false (ls.take hlit) = false ∨ codeOk true (ls.drop hlit) = false then .fault 4 s
          else .ok (ls.take hlit, ls.drop hlit) s

/-- A dynamic block. -/
def inflateDynamic (limit fuel : Nat) (s : Inflate) : Inf Unit :=
  match readHeader s with
  | .fault n s => .fault n s
  | .ok (lit, dist) s => inflateSyms limit (canonical lit) (canonical dist) fuel s

/-! ### Encoding -/

/-- Code lengths serve a token list (R376): both codes decode, and every symbol used has a code. -/
def lensServe (ts : List (Nat × Nat)) (l : List Nat × List Nat) : Bool :=
  decide (l.1.length ≤ 286) && codeOk false l.1 && codeOk true l.2 && l.1.getD 256 0 != 0 && ts.all fun t =>
    if t.1 = 0 then l.1.getD t.2 0 != 0
    else l.1.getD (257 + baseIndex lenBase t.1) 0 != 0 && l.2.getD (baseIndex distBase t.2) 0 != 0

/-- Code lengths that serve every token list, and their header: code lengths of 4 bits each. -/
def plainLens : List Nat × List Nat :=
  (List.replicate 226 8 ++ List.replicate 60 9, List.replicate 2 4 ++ List.replicate 28 5)
def plainHeader : List Bool :=
  bitsLsb 5 29 ++ bitsLsb 5 29 ++ bitsLsb 4 15 ++ clOrder.flatMap (fun k => bitsLsb 3 (if k < 16 then 4 else 0))
    ++ (plainLens.1 ++ plainLens.2).flatMap (bitsMsb 4)

/-- The header and code lengths of a dynamic block (R376): the part's, which R376 leaves open (log entry 175), where
the header spells lengths that serve; any decoder of RFC 1951 decodes the block. -/
def dynamicCodes (ts : List (Nat × Nat)) : List Bool × List Nat × List Nat :=
  let h := Config.dynamicHeader ts
  match readHeader { bits := h, out := [], size := 0 } with
  | .ok l r => if r.bits.isEmpty && lensServe ts l then (h, l) else (plainHeader, plainLens)
  | .fault _ _ => (plainHeader, plainLens)

/-- The code of a symbol, by a canonical code. -/
def codeBits (code : List (Nat × Nat × Nat)) (sym : Nat) : List Bool :=
  match code.find? fun x => x.2.2 == sym with
  | some x => bitsMsb x.1 x.2.1
  | none => []

/-- The body as one dynamic block (R376). -/
def dynamicBlock (ts : List (Nat × Nat)) : List Bool :=
  let c := dynamicCodes ts
  [true, false, true] ++ c.1 ++ codeTokens (codeBits (canonical c.2.1)) (codeBits (canonical c.2.2)) ts

/-- Encode a body as one block (R374, R376): the block type used and the bytes. Lengths are compared in bits, a stored
block counting its padding. -/
def deflate (data : Bytes) (effort huff : Nat) : Nat × Bytes :=
  let ts := tokens data effort
  let stored := 8 * (storedBlock data).length
  let st := staticBlock ts
  let dy := dynamicBlock ts
  if huff = 1 then (if st.length < stored then (1, bitBytes st) else (0, storedBlock data))
  else if huff = 2 then (if dy.length < stored then (2, bitBytes dy) else (0, storedBlock data))
  else if huff = 0 then
    (if stored ≤ st.length ∧ stored ≤ dy.length then (0, storedBlock data)
     else if st.length ≤ dy.length then (1, bitBytes st) else (2, bitBytes dy))
  else (0, storedBlock data)

/-- The static codes as length, code, symbol. -/
def staticLens : List Nat :=
  List.replicate 144 8 ++ List.replicate 112 9 ++ List.replicate 24 7 ++ List.replicate 8 8

/-- One block after another; total is the number of bits of the source. -/
def inflateBlocks (limit total : Nat) : Nat → Inflate → Inf Unit
  | 0, s => .fault 7 s
  | fuel + 1, s =>
    match readBits 3 s with
    | .fault n s => .fault n s
    | .ok h s =>
      let r : Inf Unit :=
        if h / 2 = 3 then .fault 2 s
        else if h / 2 = 0 then
          let used := total - s.bits.length
          let s := { s with bits := s.bits.drop ((8 - used % 8) % 8) }
          match readBits 32 s with
          | .fault n s => .fault n s
          | .ok v s =>
            if v % 65536 + v / 65536 ≠ 65535 then .fault 3 s else inflateStored limit (v % 65536) s
        else if h / 2 = 1 then
          inflateSyms limit (canonical staticLens) (canonical (List.replicate 32 5)) (s.bits.length + 1) s
        else inflateDynamic limit (s.bits.length + 1) s
      match r with
      | .fault n s => .fault n s
      | .ok _ s => if h % 2 = 1 then .ok () s else inflateBlocks limit total fuel s

/-- How a decompression ended (R384): the output, or the fault with input bytes consumed and output bytes produced. -/
inductive Inflated where
  | done (out : Bytes)
  | failed (code consumed produced : Nat)
  deriving DecidableEq, Repr

/-- Decompress a whole source under an output limit (R384, R386). -/
def inflate (src : Bytes) (limit : Nat) : Inflated :=
  let total := 8 * src.length
  let bytesOf := fun (s : Inflate) => ceilDiv (total - s.bits.length) 8
  match inflateBlocks limit total total { bits := unpackBits src, out := [], size := 0 } with
  | .fault n s => .failed n (bytesOf s) s.size
  | .ok _ s => if s.bits.length ≥ 8 then .failed 8 (bytesOf s) s.size else .done s.out.reverse

end Sys2Proof.Machine
end

