-- ==== Sys2Proof/Machine/Crc.lean ====
section
/-! DEFINITION. The check values of the hub (R46, R208, R392): CRC-32C and CRC-16, as running values over bytes. -/

namespace Sys2Proof.Machine

/-- One bit of CRC-32C, reflected: the polynomial 0x1EDC_6F41 read backwards is 0x82F6_3B78. -/
def crc32Bit (c : Word) : Word := if c.getLsbD 0 then (c >>> 1) ^^^ 0x82F63B78#32 else c >>> 1

/-- n steps of a function. -/
def stepN {α : Type} (f : α → α) : Nat → α → α
  | 0, a => a
  | n + 1, a => stepN f n (f a)

/-- The running value of CRC-32C after one more byte. -/
def crc32Byte (c : Word) (b : Byte) : Word := stepN crc32Bit 8 (c ^^^ b.setWidth 32)

/-- The running value of CRC-32C after more bytes (R394). -/
def crc32Run (c : Word) (bs : Bytes) : Word := bs.foldl crc32Byte c

/-- CRC-32C of a byte string (R46). -/
def crc32c (bs : Bytes) : Word := crc32Run 0xFFFFFFFF#32 bs ^^^ 0xFFFFFFFF#32

/-- One bit of CRC-16, not reflected, polynomial 0x1021. -/
def crc16Bit (c : BitVec 16) : BitVec 16 := if c.getMsbD 0 then (c <<< 1) ^^^ 0x1021#16 else c <<< 1

/-- The running value of CRC-16 after one more byte. -/
def crc16Byte (c : BitVec 16) (b : Byte) : BitVec 16 := stepN crc16Bit 8 (c ^^^ (b.setWidth 16 <<< 8))

/-- The running value of CRC-16 after more bytes. -/
def crc16Run (c : BitVec 16) (bs : Bytes) : BitVec 16 := bs.foldl crc16Byte c

/-- CRC-16 of a byte string (R208, R392). -/
def crc16 (bs : Bytes) : BitVec 16 := crc16Run 0xFFFF#16 bs

/-- A message with its CRC-32C appended (R45, R348, R393). -/
def withCrc (bs : Bytes) : Bytes := bs ++ beWord (crc32c bs)

/-- The last four bytes are the CRC-32C of the ones before. -/
def crcPasses (bs : Bytes) : Bool :=
  4 ≤ bs.length && beAt bs (bs.length - 4) 4 == (crc32c (bs.take (bs.length - 4))).toNat

end Sys2Proof.Machine
end

