-- ==== Sys2Proof/Machine/Float.lean ====
section
/-! DEFINITION. IEEE 754 binary32 and binary64 arithmetic on bit patterns, rounding to nearest, ties to even
(R11, R233). Everything is whole-number arithmetic, so that Lean's kernel can evaluate it. -/

namespace Sys2Proof.Machine

/-- What a bit pattern stands for: a NaN, an infinity, or m * 2^e with a sign. -/
inductive FVal where
  | nan
  | inf (neg : Bool)
  | fin (neg : Bool) (m : Nat) (e : Int)
  deriving DecidableEq, Repr

/-- The value of a pattern with mb mantissa bits and eb exponent bits. -/
def fDecode (mb eb : Nat) (x : Nat) : FVal :=
  let neg := x.testBit (mb + eb)
  let ex := (x >>> mb) % 2 ^ eb
  let m := x % 2 ^ mb
  let emin : Int := 2 - (2 ^ (eb - 1) : Nat) - mb
  if ex = 2 ^ eb - 1 then (if m = 0 then .inf neg else .nan)
  else if ex = 0 then .fin neg m emin
  else .fin neg (2 ^ mb + m) (emin + ex - 1)

/-- The pattern of the infinity of a sign. -/
def fInf (mb eb : Nat) (neg : Bool) : Nat := b2n neg * 2 ^ (mb + eb) + (2 ^ eb - 1) * 2 ^ mb

/-- The quiet NaN pattern that arithmetic gives. -/
def fNaN (mb eb : Nat) : Nat := (2 ^ eb - 1) * 2 ^ mb + 2 ^ (mb - 1)

/-- Round (m plus a fraction below 1 when sticky) * 2^e to a pattern, to nearest, ties to even. -/
def fRound (mb eb : Nat) (neg : Bool) (m : Nat) (e : Int) (sticky : Bool) : Nat :=
  let s := b2n neg * 2 ^ (mb + eb)
  if m = 0 then s else
  let emin : Int := 2 - (2 ^ (eb - 1) : Nat) - mb
  let len : Int := Nat.log2 m + 1
  let sh : Int := max (len - (mb + 1)) (emin - e)
  let e' := e + sh
  let q : Nat :=
    if sh ≤ 0 then m * 2 ^ (-sh).toNat
    else
      let k := sh.toNat
      let q := m / 2 ^ k
      let r := m % 2 ^ k
      let half := 2 ^ (k - 1)
      if r > half || (r == half && (sticky || q % 2 == 1)) then q + 1 else q
  if q < 2 ^ mb then s + q
  else
    let field := (e' - emin + 1).toNat
    let bits := field * 2 ^ mb + (q - 2 ^ mb)
    if bits ≥ (2 ^ eb - 1) * 2 ^ mb then fInf mb eb neg else s + bits

/-- The pattern nearest to num / den (den above 0), with the sign of num; zero is positive. -/
def fOfRat (mb eb : Nat) (num : Int) (den : Nat) : Nat :=
  let a := num.natAbs
  if a = 0 then 0 else
  let k := mb + 4 + Nat.log2 den + 1
  let n := a * 2 ^ k
  fRound mb eb (num < 0) (n / den) (-(k : Int)) (n % den != 0)

/-- The pattern of a value of another format. -/
def fEncode (mb eb : Nat) : FVal → Nat
  | .nan => fNaN mb eb
  | .inf n => fInf mb eb n
  | .fin n m e => fRound mb eb n m e false

/-- Exact sum of two finite values, as sign, magnitude and exponent; a zero sum of opposite signs is positive. -/
def fAddVal : FVal → FVal → FVal
  | .nan, _ => .nan
  | _, .nan => .nan
  | .inf a, .inf b => if a = b then .inf a else .nan
  | .inf a, .fin _ _ _ => .inf a
  | .fin _ _ _, .inf b => .inf b
  | .fin a m e, .fin b n f =>
    let g := min e f
    let x : Int := (m * 2 ^ (e - g).toNat : Nat)
    let y : Int := (n * 2 ^ (f - g).toNat : Nat)
    let z := (if a then -x else x) + (if b then -y else y)
    if z = 0 then .fin (a && b) 0 g else .fin (z < 0) z.natAbs g

/-- Exact product. -/
def fMulVal : FVal → FVal → FVal
  | .nan, _ => .nan
  | _, .nan => .nan
  | .inf a, .inf b => .inf (a != b)
  | .inf a, .fin b n _ => if n = 0 then .nan else .inf (a != b)
  | .fin a m _, .inf b => if m = 0 then .nan else .inf (a != b)
  | .fin a m e, .fin b n f => .fin (a != b) (m * n) (e + f)

/-- The opposite value. -/
def fNegVal : FVal → FVal
  | .nan => .nan
  | .inf a => .inf (!a)
  | .fin a m e => .fin (!a) m e

/-- binary64 value of a pattern, and the pattern of a value. -/
def f64v (x : DWord) : FVal := fDecode 52 11 x.toNat
def f64e (v : FVal) : DWord := BitVec.ofNat 64 (fEncode 52 11 v)
/-- binary32 value of a pattern, and the pattern of a value. -/
def f32v (x : Word) : FVal := fDecode 23 8 x.toNat
def f32e (v : FVal) : Word := BitVec.ofNat 32 (fEncode 23 8 v)

def f64Add (x y : DWord) : DWord := f64e (fAddVal (f64v x) (f64v y))
def f64Neg (x : DWord) : DWord := f64e (fNegVal (f64v x))
def f64Sub (x y : DWord) : DWord := f64e (fAddVal (f64v x) (fNegVal (f64v y)))
def f64Mul (x y : DWord) : DWord := f64e (fMulVal (f64v x) (f64v y))

/-- Quotient, rounded. -/
def f64Div (x y : DWord) : DWord :=
  match f64v x, f64v y with
  | .nan, _ => f64e .nan
  | _, .nan => f64e .nan
  | .inf _, .inf _ => f64e .nan
  | .inf a, .fin b _ _ => f64e (.inf (a != b))
  | .fin a _ _, .inf b => f64e (.fin (a != b) 0 0)
  | .fin a m e, .fin b n f =>
    if n = 0 then (if m = 0 then f64e .nan else f64e (.inf (a != b)))
    else
      let k := 57 + Nat.log2 n + 1
      let p := m * 2 ^ k
      BitVec.ofNat 64 (fRound 52 11 (a != b) (p / n) (e - f - k) (p % n != 0))

/-- The whole square root by trial bits, from bit k down. -/
def isqrtFrom (v : Nat) : Nat → Nat → Nat
  | 0, r => r
  | k + 1, r =>
    let c := r + 2 ^ k
    isqrtFrom v k (if c * c ≤ v then c else r)

/-- The whole square root. -/
def isqrt (v : Nat) : Nat := isqrtFrom v (Nat.log2 v / 2 + 1) 0

/-- Square root, rounded. -/
def f64Sqrt (x : DWord) : DWord :=
  match f64v x with
  | .nan => f64e .nan
  | .inf a => if a then f64e .nan else x
  | .fin a m e =>
    if m = 0 then x
    else if a then f64e .nan
    else
      let k := 112 + (e.toNat + (-e).toNat) % 2
      let v := m * 2 ^ k
      let r := isqrt v
      BitVec.ofNat 64 (fRound 52 11 false r ((e - k) / 2) (r * r != v))

def f64OfInt (i : Int) : DWord := BitVec.ofNat 64 (fOfRat 52 11 i 1)
def f64OfRat (num : Int) (den : Nat) : DWord := BitVec.ofNat 64 (fOfRat 52 11 num den)
def f64Of32 (x : Word) : DWord := f64e (f32v x)
def f32Of64 (x : DWord) : Word := f32e (f64v x)
def f32OfRat (num : Int) (den : Nat) : Word := BitVec.ofNat 32 (fOfRat 23 8 num den)

/-- Order of two values; false where either is a NaN. -/
def fLt : FVal → FVal → Bool
  | .nan, _ => false
  | _, .nan => false
  | .inf a, .inf b => a && !b
  | .inf a, .fin _ _ _ => a
  | .fin _ _ _, .inf b => !b
  | .fin a m e, .fin b n f =>
    let g := min e f
    let x : Int := (m * 2 ^ (e - g).toNat : Nat)
    let y : Int := (n * 2 ^ (f - g).toNat : Nat)
    decide ((if a then -x else x) < (if b then -y else y))

def fIsNan : FVal → Bool
  | .nan => true
  | _ => false

def fIsFinite : FVal → Bool
  | .fin _ _ _ => true
  | _ => false

/-- Zero of either sign. -/
def fIsZero : FVal → Bool
  | .fin _ m _ => m == 0
  | _ => false

/-- Not above, for values that are no NaN. -/
def fLe (x y : FVal) : Bool := !(fIsNan x) && !(fIsNan y) && !(fLt y x)

def f64Lt (x y : DWord) : Bool := fLt (f64v x) (f64v y)
def f64Le (x y : DWord) : Bool := fLe (f64v x) (f64v y)
def f32Lt (x y : Word) : Bool := fLt (f32v x) (f32v y)
def f32Le (x y : Word) : Bool := fLe (f32v x) (f32v y)
def f64Abs (x : DWord) : DWord := x &&& 0x7FFFFFFFFFFFFFFF#64
def f32Abs (x : Word) : Word := x &&& 0x7FFFFFFF#32
def f64Finite (x : DWord) : Bool := fIsFinite (f64v x)
def f32Finite (x : Word) : Bool := fIsFinite (f32v x)
def f32IsNan (x : Word) : Bool := fIsNan (f32v x)
/-- NaN or an infinity. -/
def f32Unusable (x : Word) : Bool := !(f32Finite x)

/-- A finite value times 2^sh, rounded convergently to a whole number; 0 for what is not finite. -/
def fToInt (v : FVal) (sh : Int) : Int :=
  match v with
  | .fin a m e =>
    let k := e + sh
    let x : Int := if k ≥ 0 then (m * 2 ^ k.toNat : Nat) else roundEven (m : Int) (2 ^ (-k).toNat)
    if a then -x else x
  | _ => 0

/-- The least or greatest whole number bounds are not applied here: exact comparison of a finite value with
num / den. -/
def fLtRat (v : FVal) (num : Int) (den : Nat) : Bool :=
  match v with
  | .nan => false
  | .inf a => a
  | .fin a m e =>
    let x : Int := if a then -(m : Int) else (m : Int)
    if e ≥ 0 then decide (x * (2 ^ e.toNat : Nat) * den < num)
    else decide (x * den < num * (2 ^ (-e).toNat : Nat))

/-- A finite value as a fraction. -/
def fToRat (v : FVal) : Int × Nat :=
  match v with
  | .fin a m e =>
    let x : Int := if a then -(m : Int) else (m : Int)
    if e ≥ 0 then (x * (2 ^ e.toNat : Nat), 1) else (x, 2 ^ (-e).toNat)
  | _ => (0, 1)

end Sys2Proof.Machine
end

