-- ==== Sys2Proof/Machine/Real.lean ====
section
/-! DEFINITION. Cosine, sine and natural logarithm in binary64 (R151, R237, R262), by power series in whole numbers:
the value nearest to the true one, but for a last place that the spec leaves open. -/

namespace Sys2Proof.Machine

open Sys2Proof

/-- Fraction bits of the whole numbers that the series run on. -/
def fixBits : Nat := 160
def fixOne : Int := 2 ^ 160

/-- pi in those units, rounded down. -/
def fixPi : Int := 0x3243F6A8885A308D313198A2E03707344A4093822

/-- Product of two such numbers. -/
def fixMul (x y : Int) : Int := x * y / fixOne

/-- The sum of n terms of a series: next gives term k + 1 from term k. -/
def series (next : Nat → Int → Int) : (n k : Nat) → (term sum : Int) → Int
  | 0, _, _, sum => sum
  | n + 1, k, term, sum => series next n (k + 1) (next k term) (sum + term)

/-- cos x and sin x, for x of a few turns at most. -/
def fixCos (x : Int) : Int :=
  series (fun k t => -(fixMul t (fixMul x x)) / ((2 * k + 1) * (2 * k + 2) : Nat)) 80 0 fixOne 0
def fixSin (x : Int) : Int :=
  series (fun k t => -(fixMul t (fixMul x x)) / ((2 * k + 2) * (2 * k + 3) : Nat)) 80 0 x 0

/-- The inverse hyperbolic tangent of z, for z within 1/3: each term is carried with its divisor left out. -/
def fixAtanh (z : Int) : Int :=
  let zz := fixMul z z
  ((List.range 60).foldl (fun (a : Int × Int) k => (fixMul a.1 zz, a.2 + a.1 / (2 * k + 1 : Nat))) (z, 0)).2

/-- ln of m * 2^e, for m above 0. -/
def fixLn (m : Nat) (e : Int) : Int :=
  let l := Nat.log2 m
  let f : Int := m * 2 ^ 160 / 2 ^ l
  2 * fixAtanh ((f - fixOne) * fixOne / (f + fixOne)) + (e + l) * (2 * fixAtanh (fixOne / 3))

/-- A value with its last place moved by at most one, as the spec leaves it open. -/
def lastPlace (fn : Nat) (x y : DWord) : DWord :=
  if y = 0 then y else y + BitVec.ofInt 64 (clampInt (-1) 1 (Config.lastPlace fn x))

/-- A finite binary64 value in those units. -/
def fixOf (x : DWord) : Int :=
  let r := fToRat (f64v x)
  r.1 * fixOne / r.2

/-- cos in binary64 (R151). -/
def f64Cos (x : DWord) : DWord :=
  if f64Finite x then lastPlace 0 x (f64OfRat (fixCos (fixOf x)) (2 ^ 160)) else f64e .nan

/-- The natural logarithm in binary64 (R237); a NaN where it has no value. -/
def f64Ln (x : DWord) : DWord :=
  match f64v x with
  | .fin false m e => if m = 0 then f64e (.inf true) else lastPlace 1 x (f64OfRat (fixLn m e) (2 ^ 160))
  | .inf false => x
  | _ => f64e .nan

end Sys2Proof.Machine
end

