-- ==== Sys2Proof/Machine/Thermocouple.lean ====
section
/-! DEFINITION. The reference functions of IEC 60584-1 for thermocouple types B, E, J, K, N, R, S and T on ITS-90
(R235). The spec names them and gives no coefficients: these are the standard's, PRESUMED (log entry 74). -/

namespace Sys2Proof.Machine

open Sys2Proof

/-! A coefficient m * 10^-k is the pair (m, k), in millivolts; lowest power first. -/

def tcB0 : List (Int × Nat) :=
  [(0, 0), (-24650818346, 14), (59040421171, 16), (-13257931636, 19), (15668291901, 22), (-1694452924, 24),
    (62990347094, 29)]

def tcB1 : List (Int × Nat) :=
  [(-38938168621, 10), (2857174747, 11), (-84885104785, 15), (15785280164, 17), (-16835344864, 20),
    (11109794013, 23), (-44515431033, 27), (98975640821, 31), (-93791330289, 35)]

def tcE0 : List (Int × Nat) :=
  [(0, 0), (58665508708, 12), (45410977124, 15), (-77998048686, 17), (-25800160843, 18), (-59452583057, 20),
    (-93214058667, 22), (-10287605534, 23), (-80370123621, 26), (-43979497391, 28), (-16414776355, 30),
    (-39673619516, 33), (-55827328721, 36), (-34657842013, 39)]

def tcE1 : List (Int × Nat) :=
  [(0, 0), (5866550871, 11), (45032275582, 15), (28908407212, 18), (-33056896652, 20), (6502440327, 22),
    (-19197495504, 26), (-12536600497, 28), (21489217569, 31), (-14388041782, 34), (35960899481, 38)]

def tcJ0 : List (Int × Nat) :=
  [(0, 0), (50381187815, 12), (3047583693, 14), (-8568106572, 17), (13228195295, 20), (-17052958337, 23),
    (20948090697, 26), (-12538395336, 29), (15631725697, 33)]

def tcJ1 : List (Int × Nat) :=
  [(29645625681, 8), (-14976127786, 10), (31787103924, 13), (-31847686701, 16), (15720819004, 19), (-30691369056, 23)]

def tcK0 : List (Int × Nat) :=
  [(0, 0), (39450128025, 12), (23622373598, 15), (-32858906784, 17), (-49904828777, 19), (-67509059173, 21),
    (-57410327428, 23), (-31088872894, 25), (-10451609365, 27), (-19889266878, 30), (-16322697486, 33)]

def tcK1 : List (Int × Nat) :=
  [(-17600413686, 12), (38921204975, 12), (18558770032, 15), (-99457592874, 18), (31840945719, 20),
    (-56072844889, 23), (56075059059, 26), (-32020720003, 29), (97151147152, 33), (-12104721275, 36)]

def tcN0 : List (Int × Nat) :=
  [(0, 0), (26159105962, 12), (10957484228, 15), (-93841111554, 18), (-46412039759, 21), (-26303357716, 22),
    (-22653438003, 24), (-76089300791, 27), (-93419667835, 30)]

def tcN1 : List (Int × Nat) :=
  [(0, 0), (25929394601, 12), (1571014188, 14), (43825627237, 18), (-25261169794, 20), (64311819339, 23),
    (-10063471519, 25), (99745338992, 29), (-60863245607, 32), (20849229339, 35), (-30682196151, 39)]

def tcR0 : List (Int × Nat) :=
  [(0, 0), (528961729765, 14), (139166589782, 16), (-238855693017, 19), (356916001063, 22), (-462347666298, 25),
    (500777441034, 28), (-373105886191, 31), (157716482367, 34), (-281038625251, 38)]

def tcR1 : List (Int × Nat) :=
  [(295157925316, 11), (-252061251332, 14), (159564501865, 16), (-764085947576, 20), (205305291024, 23),
    (-293359668173, 27)]

def tcR2 : List (Int × Nat) :=
  [(152232118209, 9), (-268819888545, 12), (171280280471, 15), (-345895706453, 19), (-934633971046, 26)]

def tcS0 : List (Int × Nat) :=
  [(0, 0), (540313308631, 14), (12593428974, 15), (-232477968689, 19), (322028823036, 22), (-331465196389, 25),
    (255744251786, 28), (-125068871393, 31), (271443176145, 35)]

def tcS1 : List (Int × Nat) :=
  [(132900444085, 11), (334509311344, 14), (654805192818, 17), (-164856259209, 20), (129989605174, 25)]

def tcS2 : List (Int × Nat) :=
  [(146628232636, 9), (-258430516752, 12), (163693574641, 15), (-330439046987, 19), (-943223690612, 26)]

def tcT0 : List (Int × Nat) :=
  [(0, 0), (38748106364, 12), (44194434347, 15), (11844323105, 17), (20032973554, 18), (90138019559, 20),
    (22651156593, 21), (36071154205, 23), (38493939883, 25), (28213521925, 27), (14251594779, 29), (48768662286, 32),
    (1079553927, 33), (13945027062, 37), (79795153927, 41)]

def tcT1 : List (Int × Nat) :=
  [(0, 0), (38748106364, 12), (3329222788, 14), (20618243404, 17), (-21882256846, 19), (10996880928, 21),
    (-30815758772, 24), (4547913529, 26), (-27512901673, 30)]

/-- The ranges of a curve's function, each with its upper limit in thousandths of a degree. -/
def tcRanges : Nat → List (Int × List (Int × Nat))
  | 1 => [(630615, tcB0), (1820000, tcB1)]
  | 2 => [(0, tcE0), (1000000, tcE1)]
  | 3 => [(760000, tcJ0), (1200000, tcJ1)]
  | 4 => [(0, tcK0), (1372000, tcK1)]
  | 5 => [(0, tcN0), (1300000, tcN1)]
  | 6 => [(1064180, tcR0), (1664500, tcR1), (1768100, tcR2)]
  | 7 => [(1064180, tcS0), (1664500, tcS1), (1768100, tcS2)]
  | 8 => [(0, tcT0), (400000, tcT1)]
  | _ => []

/-- Where the functions begin, in degrees C. -/
def tcLow (c : Nat) : Int := ([0, -270, -210, -270, -270, -50, -50, -270] : List Int).getD (c - 1) 0

/-- A polynomial at n / d, as a fraction. -/
def decimalPoly (cs : List (Int × Nat)) (n : Int) (d : Nat) : Int × Nat :=
  cs.foldr (fun c (a : Int × Nat) => (c.1 * a.2 * d + n * a.1 * 10 ^ c.2, 10 ^ c.2 * d * a.2)) (0, 1)

/-- The exponential of a number at most 0 and above -256. -/
def fixExp (x : Int) : Int :=
  stepN (fun y => fixMul y y) 8 (series (fun k t => fixMul t (x / 256) / (k + 1 : Nat)) 60 0 fixOne 0)

/-- The exponential term of type K above 0 degrees C, in millivolts. -/
def tcExpK (n : Int) (d : Nat) : Int :=
  let u := n * fixOne / d - 1269686 * fixOne / 10000
  1185976 * fixExp (-(1183432 * fixMul u u / 10 ^ 10)) / 10 ^ 7

/-- The reference function of a thermocouple curve (R235): degrees C to volts. Outside its range the standard gives no
value, and it is free. -/
def tcForward (c : Nat) (t : DWord) : DWord :=
  let (n, d) := fToRat (f64v t)
  if f64Finite t = false ∨ n < tcLow c * d then Config.tcBeyond c t
  else
    match (tcRanges c).find? fun r => decide (n * 1000 ≤ r.1 * d) with
    | none => Config.tcBeyond c t
    | some r =>
      let (p, q) := decimalPoly r.2 n d
      if c = 4 ∧ 0 < n then f64OfRat (p * 2 ^ 160 + tcExpK n d * q) (q * 2 ^ 160 * 1000) else f64OfRat p (q * 1000)

end Sys2Proof.Machine
end

