-- ==== Sys2Proof/Machine/Operands.lean ====
section
/-! DEFINITION. The forms of a request's payload (R45, R59): which lengths fit a command, tested before its body reads
the payload. The bytes themselves are read with beAt, slice and huskAt of Bytes.lean. -/

namespace Sys2Proof.Machine

/-- Only one payload length fits. -/
def lenIs (n : Nat) : Nat → Bool := fun l => l == n

/-- Every payload length from lo to hi fits. -/
def lenIn (lo hi : Nat) : Nat → Bool := fun l => decide (lo ≤ l ∧ l ≤ hi)

end Sys2Proof.Machine
end

