-- ==== Sys2Proof/Machine/Tab.lean ====
section
/-! DEFINITION. Sparse tables: the one way the machine holds registers that come in numbers, parameter words
and byte memories. A table lists (index, value) pairs, indices strictly rising, and never lists a value that
an unlisted index reads as, so equal tables are equal lists. -/

namespace Sys2Proof.Machine

/-- A sparse table of values over indices; an unlisted index reads as the default of its type. -/
abbrev Tab (α : Type) := List (Nat × α)

/-- The value at an index. -/
def Tab.get {α : Type} [Inhabited α] : Tab α → Nat → α
  | [], _ => default
  | (i, v) :: r, k => if k = i then v else Tab.get r k

/-- No entry for an index. -/
def Tab.erase {α : Type} : Tab α → Nat → Tab α
  | [], _ => []
  | (i, w) :: r, k => if k = i then Tab.erase r k else (i, w) :: Tab.erase r k

/-- Store a value; storing the default removes the entry. -/
def Tab.set {α : Type} [Inhabited α] [DecidableEq α] : Tab α → Nat → α → Tab α
  | [], k, v => if v = default then [] else [(k, v)]
  | (i, w) :: r, k, v =>
    if k < i then (if v = default then Tab.erase ((i, w) :: r) k else (k, v) :: (i, w) :: r)
    else if k = i then (if v = default then Tab.erase r k else (k, v) :: r)
    else (i, w) :: Tab.set r k v

/-- Change the value at an index by a function. -/
def Tab.upd {α : Type} [Inhabited α] [DecidableEq α] (m : Tab α) (k : Nat) (f : α → α) : Tab α :=
  m.set k (f (m.get k))

/-- Store a list of values from an index on. -/
def Tab.setList {α : Type} [Inhabited α] [DecidableEq α] (m : Tab α) (k : Nat) : List α → Tab α
  | [] => m
  | v :: r => Tab.setList (m.set k v) (k + 1) r

/-- The n values from an index on. -/
def Tab.getList {α : Type} [Inhabited α] (m : Tab α) (k n : Nat) : List α :=
  (List.range n).map fun i => m.get (k + i)

/-- Every entry lies at or above a bound, indices rise, and no entry equals the default. -/
def Tab.wfFrom {α : Type} [Inhabited α] [DecidableEq α] : Nat → Tab α → Bool
  | _, [] => true
  | b, (i, v) :: r => decide (b ≤ i) && decide (v ≠ default) && Tab.wfFrom (i + 1) r

/-- The canonical form of a table. -/
def Tab.wf {α : Type} [Inhabited α] [DecidableEq α] (m : Tab α) : Bool := m.wfFrom 0

/-- A parameter memory: words keyed by block * 65536 + offset, listed where they differ from the factory
default (R62, R3). The word listed is the exclusive-or with the factory default, so that an unlisted word is the
factory default and equal configurations are equal lists. -/
abbrev PMem := Tab Word

/-- A byte memory (R329, R332): unlisted bytes read as zero, the value R454 writes to the record store. -/
abbrev BMem := Tab Byte

end Sys2Proof.Machine
end

