-- ==== Sys2Proof/Machine/State.lean ====
section
/-! DEFINITION. The state of the hub as plain data. Each field's docstring names its width, the rule of the spec
that gives it and its value at reset. -/

namespace Sys2Proof.Machine

/-- Why the hub can stop a command. The spec gives every command an effect (a refused request is answered, a
FAULT is a hub state), so nothing of the model raises a fault. -/
inductive Fault where
  /-- Raised by nothing: kept so that the type has a name to be listed (safe). -/
  | none
  deriving DecidableEq, Repr

/-- Why the model refuses a command. -/
inductive Refusal where
  /-- No meaning for this command yet; raised by the arms of exec that name it (safe). -/
  | notModelled (mnemonic : String)
  deriving DecidableEq, Repr

/-! ### Time and beats -/

/-- The loom-time counter and the beats (R15, R29, R35 to R37, R200). -/
structure Clocks where
  /-- 64 bits; 00 R15; reset 0, DESIGN CHOICE (log 1). Loom time in units of 2^-32 s. -/
  loom : Nat := 0
  /-- 64 bits; 01 R29; reset 0 (the beat number of loom time 0). The beat counter. -/
  beat : Nat := 0
  /-- 64 bits; 01 R37; reset 0. Highest loom time at which a beat boundary has been taken. -/
  boundary : Nat := 0
  /-- 16 bits, saturating; 01 R35; reset 0. Beat-overrun counter. -/
  overruns : Nat := 0
  /-- 01 R35; reset 0. Overruns in a row. -/
  overrunRow : Nat := 0
  /-- 16 bits, saturating; 01 R36; reset 0. Skipped-beat counter. -/
  skipped : Nat := 0
  /-- 07 R119, R200; reset 0, DESIGN CHOICE (log 1). Epoch: the modulator clock of loom time that is count 0 of the
  last synchronising reset, counted from loom time 0. -/
  epoch : Nat := 0
  deriving DecidableEq, Repr, Inhabited

/-! ### Hub state, reset and supervisor -/

/-- The causes of FAULT of R497, in the order of its table. -/
inductive FaultCause where
  | xiLost
  | domainLost (dom : Nat)
  | stagedHusk (key : Nat)
  /-- With the spare lanes that had come in by then. -/
  | macLoad (spares : Nat)
  deriving DecidableEq, Repr, Inhabited

/-- The hub state, pair role, straps and supervisor (R49, R57, R414, R455 to R457). -/
structure Hub where
  /-- 4 bits; 02 R49, R57; reset BOOT. -/
  state : HubState := .boot
  /-- 4 bits; 02 R49, 15 R422; reset SOLO, the role a hub reports before it settles (R427). -/
  role : Role := .solo
  /-- 16 bits; 02 R76; reset 0x0000. LAST_CAUSE. -/
  lastCause : Nat := 0
  /-- 02 R497; reset none. The causes of FAULT recorded. -/
  causes : List FaultCause := []
  /-- 02 R56, R97; reset BOOT. The state from which SAFE was entered. -/
  safeFrom : HubState := .boot
  /-- 1 bit; 02 R56, 12 R347; reset 0. Streams are delivered: in RUN and SERVICE, and in FAULT and SAFE entered from
  there. -/
  delivering : Bool := false
  /-- 02 R57, 12 R345; reset none. Changes of that bit, newest first: the loom time and what held before. -/
  delivPast : List (Nat × Bool) := []
  /-- 12 R345; reset none. Loom times at which the hub left RUN, SERVICE or FAULT, newest first. -/
  left : List Nat := []
  /-- 1 ball; 16 R455; reset asserted. nRESET is low. -/
  nresetLow : Bool := false
  /-- 1 bit; 16 R452, R455; reset 1. The hub is held in reset: nRESET is low, or D0 is lost. -/
  inReset : Bool := false
  /-- 16 R456; reset CONFIG. The hub state in which the BOOT that runs will end. -/
  bootTo : HubState := .config
  /-- 3 balls; 16 R455; reset low, DESIGN CHOICE (log 3). Straps as latched. -/
  rolePri : Bool := false
  hubidSel : Bool := false
  bootSel : Bool := false
  /-- 11 bits; 00 R10, 07 R205; reset none (0xFFFF in responses). The hub ID held. -/
  hubId : Option Nat := none
  /-- 8 bits; 02 R74; reset none. The image of a RESTART that waits its 1 ms, and when its response left. -/
  restart : Option (Nat × Nat) := none
  /-- 16 R456; reset none. BOOT waits for XI in its first step: the image named. -/
  xiWait : Option Nat := none
  /-- 2 bits; 02 R75, 16 R457; reset 0 (image A). Running firmware image. -/
  runImage : Nat := 0
  /-- 1 bit; 01 R28; reset 0. The supervisor runs on KCLK. -/
  onKclk : Bool := false
  /-- 3 bits; 14 R414, 02 R76; reset cores 0 to 2 (STATUS byte 19), held as the cores that have left. -/
  coresOut : List Nat := []
  /-- 3 bits; 16 R460; reset none. The spare core in the set in place of a worn one. -/
  coreIn : List Nat := []
  /-- 64 bits; 16 R460; reset none. Beat at which a spare core that loads its state joins the set. -/
  coreJoin : Option Nat := none
  /-- 01 R27; reset none. The clocks reported, with what was reported. -/
  clocks : List (Clock × ClockReport) := []
  /-- 01 R28; reset none. When each clock that was reported became good again (1 ms of R28, R497). -/
  clocksGood : List (Clock × Nat) := []
  deriving DecidableEq, Repr, Inhabited

/-! ### Shuttle -/

/-- A response (R45): status code, reason and payload, kept for a repeat (R51). -/
structure Response where
  cmd : Nat
  seq : Nat
  alive : Nat
  status : Nat
  reason : Nat
  /-- STATE byte at the time of the response (R49). -/
  state : Nat
  hub : Nat
  payload : Bytes
  deriving DecidableEq, Repr, Inhabited

/-- One Shuttle mailbox (R39, R43, R50, R51). -/
structure Mailbox where
  /-- 02 R43; reset unclaimed. -/
  claim : Option Requester := none
  /-- 4 bits; 02 R50; reset 0 (no record). ALIVE of the last request taken. -/
  alive : Nat := 0
  /-- 32 bits; 02 R50; reset 0 (no record). SEQ of the last request taken. -/
  seq : Nat := 0
  /-- 1,024 bytes; 02 R51; reset none. The response stored. -/
  resp : Option Response := none
  /-- 1 bit; 02 R50, R52; reset 0. An earlier request is executing. -/
  busy : Bool := false
  /-- 02 R41; reset none. The message that waits unread for SPI. -/
  unread : Option Bytes := none
  /-- 64 bits; 02 R44; reset 0. Loom time of the last request taken. -/
  lastTaken : Nat := 0
  deriving DecidableEq, Repr, Inhabited

/-- A slot under a path test at the level in progress (R140): output samples that it has waited, those averaged and
the sum of their raw codes; and sum and number at each level before, oldest first. -/
structure PathSlot where
  waited : Nat := 0
  n : Nat := 0
  sum : Int := 0
  done : List (Int × Nat) := []
  deriving DecidableEq, Repr, Inhabited

/-- A path test (R140): its slots and levels, the level in progress and the fine instant at which the DAC took it, the
levels whose readback has been asked for, and the readbacks, oldest first. -/
structure PathTest where
  pod : Nat
  mask : Nat
  samples : Nat
  levels : List Int
  bus : Nat
  level : Nat := 0
  since : Nat := 0
  slots : Tab PathSlot := []
  asked : Nat := 0
  reads : List Int := []
  deriving DecidableEq, Repr, Inhabited

/-- The kept samples of one half, or level, of a calibration run (R262, R266): all of them, those free of OVR, LEAD,
ADJ and SUBST, and the sum of the words of these and of their squares, in units of 2^-16 codes. -/
structure CalHalf where
  kept : Nat := 0
  n : Nat := 0
  sum : Int := 0
  sq : Nat := 0
  deriving DecidableEq, Repr, Inhabited

/-- What a calibration run has seen on one slot (R262): output samples so far, the halves newest first, for LINEARITY
the 256 bins of each of the four passes, and for an AC reference the kept words with the numbers of their samples,
newest first. -/
structure CalPart where
  seen : Nat := 0
  halves : List CalHalf := []
  bins : Tab Nat := []
  wave : List (Nat × Int) := []
  deriving DecidableEq, Repr, Inhabited

/-- The housekeeping die temperatures of a pod over a run (R266): lowest, highest, sum and number. -/
structure RunTemps where
  lo : DWord := 0
  hi : DWord := 0
  sum : DWord := 0
  n : Nat := 0
  deriving DecidableEq, Repr, Inhabited

/-- A calibration run (R262, R263): what CAL_RUN asked, the statistics of each channel and pod, and whether the slots
have returned. -/
structure CalRun where
  kind : Nat
  pod : Nat
  mask : Nat
  range : Nat
  anchor : Nat
  source : Nat
  count : Nat
  half : Nat
  bus : Nat
  parts : Tab CalPart := []
  temps : Tab RunTemps := []
  returned : Bool := false
  deriving DecidableEq, Repr, Inhabited

/-- What a job does (R55), with what its end needs. -/
inductive JobWork where
  | other
  | reedSwap (die : Nat)
  | pathTest (p : PathTest)
  | syncReset (at_ : Nat)
  | bridgeZero (ch want used skipped : Nat) (sum : DWord)
  | calRun (r : CalRun)
  | storeCrc (table : Bool) (index length unit : Nat)
  | tableLoad (table length : Nat)
  | imageLoad (length : Nat)
  deriving DecidableEq, Repr, Inhabited

/-- A job (R55). -/
structure Job where
  /-- 0 running, 1 done, 2 failed, 3 cancelled, 4 deferred. -/
  state : Nat := 0
  reason : Nat := 0
  beat : Nat := 0
  result : Bytes := []
  cmd : Nat := 0
  work : JobWork := .other
  ended : Option Nat := none
  deriving DecidableEq, Repr, Inhabited

/-- An entry of the event log (R77). -/
structure Event where
  beat : Nat
  reason : Nat
  source : Nat
  detail : Nat
  deriving DecidableEq, Repr, Inhabited

/-- The working set (R64). -/
structure Work where
  words : PMem
  seq : Nat
  deriving DecidableEq, Repr, Inhabited

/-- Mailboxes, SPI, jobs, events and alarms (R39 to R55, R64, R76 to R78). -/
structure Shuttle where
  /-- 8 mailboxes; 02 R39; reset each unclaimed and empty. -/
  mail : Tab Mailbox := []
  /-- 02 R39; reset empty. Requests taken and not yet executed, oldest first. -/
  taken : List Req := []
  /-- 4 bits; 02 R64; reset free. The mailbox that holds the edit lock. -/
  lock : Option Nat := none
  /-- 02 R64; reset none. The working set. -/
  work : Option Work := none
  /-- 16 jobs; 02 R55; reset none. Jobs by ID, running ones and results kept. -/
  jobs : List (Nat × Job) := []
  /-- 16 bits; 02 R55; reset 0, DESIGN CHOICE (log 4). The last job ID given. -/
  lastJob : Nat := 0
  /-- 4,096 entries; 02 R77; reset empty. The event log, newest first. -/
  log : List Event := []
  /-- 32 bits; 02 R77; reset 0. Index of the next event. -/
  nextEvent : Nat := 0
  /-- 64 bits; 16 R456; reset none. Loom time of the last 0x0408 logged by a BOOT that XI holds up. -/
  xiFrom : Option Nat := none
  /-- 39 x 16 bits, saturating; 02 R78; reset 0. Counters in the order of R78. -/
  counters : Tab Nat := []
  /-- 32 bits; 02 R76; reset 0. Alarm conditions that hold, by bit number. -/
  alarms : List Nat := []
  /-- 1 ball; 02 R41; reset released. SPI_nIRQ is driven low. -/
  nIrqLow : Bool := false
  deriving DecidableEq, Repr, Inhabited

/-! ### Configuration -/

/-- A stored configuration copy (R69, R71). -/
structure Copy where
  valid : Bool := false
  seq : Nat := 0
  words : PMem := []
  /-- Beat of writing (R74). -/
  beat : Nat := 0
  deriving DecidableEq, Repr, Inhabited

/-- A write of a stored copy that may still run (R69, R269): its slot, B or A, the loom times at which it begins and
ends, and what the slot held before. -/
structure SlotWrite (α : Type) where
  toB : Bool
  start : Nat
  ends : Nat
  before : α
  deriving DecidableEq, Repr

/-- A staged change: what it is, when it takes effect, and the request that staged it (R31, R57). -/
structure Staged where
  change : Change
  due : Nat
  cmd : Nat := 0
  mb : Nat := 0
  seq : Nat := 0
  deriving DecidableEq, Repr, Inhabited

/-- The configuration (R31, R62, R69, R71, R400, R500). -/
structure Cfg where
  /-- 11,035 words; 02 R500; reset the factory defaults (no copy has been loaded). In force. -/
  force : PMem := []
  /-- 32 bits; 02 R500, R72; reset 0. Configuration sequence number in force. -/
  seq : Nat := 0
  /-- 10 R304; reset none. The numbers that were in force before, newest first, each with the loom time at which it
  gave way. -/
  seqPast : List (Nat × Nat) := []
  /-- 11,035 words; 01 R31, R33; reset the factory defaults. The active copies. -/
  active : PMem := []
  /-- 01 R33; reset none. Active copies of earlier boundaries, newest first: the boundary's loom time and what was
  active before it, as far back as samples are still formed under it. -/
  past : List (Nat × PMem) := []
  /-- 01 R31; reset none. Staged changes in the order staged. -/
  staged : List Staged := []
  /-- 256 KiB; 02 R69; reset invalid, DESIGN CHOICE (log 5). Copy A and copy B. -/
  copyA : Copy := {}
  copyB : Copy := {}
  /-- 1 bit; 02 R69; reset A, DESIGN CHOICE (log 5). The copy in force is B. -/
  inB : Bool := false
  /-- 1 bit; 02 R69, R71; reset 0. BOOT has rejected both copies, and none has been written since. -/
  rejected : Bool := false
  /-- 02 R69; reset none. Writes of the copies that may still run, in order. -/
  writes : List (SlotWrite Copy) := []
  /-- 14 R400; reset none. Boundaries in a row at which a staged register failed its husk check. -/
  huskFails : Tab Nat := []
  deriving DecidableEq, Repr, Inhabited

/-! ### Threads, detectors and excitation -/

/-- A thread (R100, R115). -/
structure Thread where
  /-- 1 bit; 03 R100; reset 0. The overvoltage detector is tripped. -/
  tripped : Bool := false
  /-- 1 bit; 03 R100; reset 0. Drivers are kept disconnected: from a trip until they reconnect. -/
  disconnected : Bool := false
  /-- 1 bit; 03 R81, R117; reset 0. A dynamic tap is closed, to bus tapBus. -/
  tapClosed : Bool := false
  tapBus : Nat := 0
  /-- 64 bits; 03 R100; reset 0. Loom time of the last clear. -/
  cleared : Nat := 0
  deriving DecidableEq, Repr, Inhabited

/-- A lead detector of a slot (R102 to R104, R115). -/
structure Lead where
  /-- 03 R103, R115; reset 0 clear. 0 clear, 1 suspect, 2 confirmed, 3 clearing. -/
  state : Nat := 0
  /-- 32 bits; 03 R102, R115; reset 0. Loop resistance of the last half-period in ohms. -/
  ohms : Nat := 0
  /-- 16 bits, saturating; 03 R115; reset 0. Times suspect. -/
  suspects : Nat := 0
  /-- 03 R103; reset 0. Half-periods over threshold in a row, and not over threshold in a row. -/
  overRow : Nat := 0
  underRow : Nat := 0
  /-- 03 R102; reset none. The last half-period measured: the modulator clock at which it ended, and its mean in nV. -/
  lastMean : Option (Nat × Int) := none
  /-- 03 R103; reset 0. Loom time at which the condition was last found (suspect, or confirmed). -/
  since : Nat := 0
  /-- 03 R104; reset none. Loom times from which LEAD is carried and no longer carried, newest first. -/
  spans : List (Nat × Option Nat) := []
  /-- 03 R103; reset 0. The fault was confirmed before it began to clear. -/
  wasConfirmed : Bool := false
  deriving DecidableEq, Repr, Inhabited

/-- A stretch of detector activity (R86): onset and end in fine units of loom time, and sign. -/
structure OvrSpan where
  onset : Nat
  ended : Option Nat
  positive : Bool
  deriving DecidableEq, Repr, Inhabited

/-- The overrange detector of a slot (R86, R106, R115). -/
structure Ovr where
  /-- 03 R86; reset none. Stretches of activity, newest first. -/
  spans : List OvrSpan := []
  /-- 1 bit; 03 R86; reset 0. The level detector is active. -/
  level : Bool := false
  /-- 03 R86, 04 R121; reset 0. Fine instant up to which the modulator's saturation counts as activity. -/
  satUntil : Nat := 0
  /-- 16 bits, saturating; 03 R115; reset 0. Overrange onsets and ADJ onsets. -/
  onsets : Nat := 0
  adjOnsets : Nat := 0
  /-- 64 bits; 03 R115; reset 0. Loom time of the last onset. -/
  last : Nat := 0
  deriving DecidableEq, Repr, Inhabited

/-- An excitation source of a pod: IX0 to IX4 (0 to 4), VX0 and VX1 (8, 9) (R87 to R93). -/
structure Source where
  /-- 64 bits; 03 R91; reset 0. Loom time until which affected modulator inputs are held. -/
  heldUntil : Nat := 0
  /-- 16 R459; reset 0. Housekeeping rounds in a row beyond IX_DEV. -/
  devRounds : Nat := 0
  deriving DecidableEq, Repr, Inhabited

/-- Threads and excitation (R80 to R117). -/
structure Heddle where
  /-- 640 threads, keyed pod * 40 + thread; 03 R80; reset none tripped. -/
  threads : Tab Thread := []
  /-- Per pod; 03 R100; reset 0. Trips counted. -/
  trips : Tab Nat := []
  /-- 64 bits per pod; 03 R96; reset 0. Loom times of the last switching and of those to come. -/
  switched : Tab (List Nat) := []
  /-- 32 bits; 03 R96; reset none. Thread words that still apply, and until when, keyed pod * 40 + thread. -/
  late : Tab (Nat × Word) := []
  /-- 4 detectors of 256 slots, keyed channel * 4 + detector code; 03 R103; reset clear. -/
  leads : Tab Lead := []
  /-- 256 slots, keyed by channel; 03 R86; reset inactive. -/
  ovr : Tab Ovr := []
  /-- Keyed pod * 16 + source; 03 R87, R92; reset not held. -/
  sources : Tab Source := []
  deriving DecidableEq, Repr, Inhabited

/-! ### Conversion -/

/-- Who waits for a spot conversion (R133, R134). -/
inductive SpotFor where
  | spot (rq : Req) (kind pod index : Nat)
  | probe (rq : Req) (pod thread bus : Nat)
  | leadRes (rq : Req) (pod slot : Nat) (point : Nat) (codes : List Int) (began : Nat)
  /-- The readback of the test DAC at a level of a path test (R140): the job. -/
  | readback (job : Nat)
  | other
  deriving DecidableEq, Repr, Inhabited

/-- What a converter converts: class of R133, what it serves, the loom time from which its input is ready (R134). -/
structure ScRequest where
  cls : Nat
  ready : Nat
  what : SpotFor
  /-- Class 5: list and entry. Class 4: the place in the round of R136. -/
  a : Nat := 0
  b : Nat := 0
  /-- Its dynamic tap (R134): 0 none needed, 1 still to be placed, 2 placed. -/
  tap : Nat := 0
  deriving DecidableEq, Repr, Inhabited

/-- A scan converter (R131 to R137, R145). -/
structure Converter where
  /-- 04 R133; reset idle. The conversion running, with its acquisition instant, which may lie ahead while its input
  settles. -/
  running : Option (ScRequest × Nat) := none
  /-- 04 R133; reset empty. Pending requests, oldest first. -/
  queue : List ScRequest := []
  /-- 1 bit; 04 R135; reset 0. A sample is held unconverted, and its loom time. -/
  held : Option Nat := none
  /-- 16 bits each, saturating; 04 R145; reset 0. -/
  longWaits : Nat := 0
  refusals : Nat := 0
  overruns : Nat := 0
  missed : Nat := 0
  deriving DecidableEq, Repr, Inhabited

/-- A result of a conversion: value (binary32), code, loom time of acquisition. -/
structure ScResult where
  value : Word := 0
  code : Int := 0
  time : Nat := 0
  deriving DecidableEq, Repr, Inhabited

/-- Modulators and scan converters (R118 to R146). -/
structure Conv where
  /-- 256 slots; 04 R122; reset each its own modulator (0), 16 or 17 when a spare serves it. -/
  spare : Tab Nat := []
  /-- 288 x 16 bits, saturating, per channel; 04 R121; reset 0. Restarts. -/
  restarts : Tab Nat := []
  /-- Per channel; 16 R459; reset none. Loom times of restarts within the last 3,600 s. -/
  restartTimes : Tab (List Nat) := []
  /-- 8 converters; 04 R131; reset idle. -/
  scs : Tab Converter := []
  /-- Keyed list * 16 + entry; 04 R137; reset 0. Latest result of each entry of a scan list. -/
  scan : Tab ScResult := []
  /-- 32 bits per list; 04 R145; reset 0. Pass counts. -/
  passes : Tab Nat := []
  /-- Per list; 04 R137; reset 0. Entries of the running pass still to convert. -/
  passLeft : Tab Nat := []
  /-- Per list; 04 R137; reset 0. The boundary at which the list took effect, and the passes due since that have begun
  or been skipped. -/
  passAt : Tab (Nat × Nat) := []
  /-- 04 R135, R144; reset 0. Simultaneous triggers decided that have not reached the converters. -/
  simDue : Nat := 0
  /-- 32 and 16 bits; 04 R135, R145; reset 0. Simultaneous triggers taken and missed. -/
  simTaken : Nat := 0
  simMissed : Nat := 0
  /-- Per converter; 04 R145; reset 0. Latest simultaneous-group samples. -/
  simul : Tab ScResult := []
  /-- Keyed pod * 16 + point; 04 R132, R136; reset 0, DESIGN CHOICE (log 6). Latest housekeeping values, binary32. -/
  hk : Tab Word := []
  deriving DecidableEq, Repr, Inhabited

/-! ### The filter chain -/

/-- An input word of a resampler (R185): twice its centre in modulator clocks of loom time (centres can be half
integers), the spacing of its words in clocks, its value, and the modulator clock of the zeroing since which it was
formed. -/
structure InWord where
  centre2 : Int
  span : Nat
  value : Int
  gen : Nat
  deriving DecidableEq, Repr, Inhabited

/-- The settings under which the words of a channel's data path pass (R143, R174, R175). -/
structure PathSet where
  order : Nat
  dec : Nat
  reedDec : Nat
  firByp : Bool
  notch : Nat
  bw : Nat
  h3 : Bool
  /-- Bank of the die's Reed engine, 0 A or 1 B. -/
  bank : Nat
  deriving DecidableEq, Repr, Inhabited

/-- What a path takes over at a modulator clock (R96, R129, R161, R162): new settings, where it has any, and what is
zeroed there. -/
structure Switch where
  clock : Nat
  reed : Bool
  set : Option PathSet
  zeroCic : Bool
  zeroChain : Bool
  deriving DecidableEq, Repr, Inhabited

/-- A notch biquad's registers (R148): inputs, outputs and the rounding residual. -/
structure Biquad where
  x1 : Int := 0
  x2 : Int := 0
  y1 : Int := 0
  y2 : Int := 0
  res : Int := 0
  deriving DecidableEq, Repr, Inhabited

/-- A recovery in progress (R161 to R165); instants in fine units of loom time (1/3125 of 2^-32 s). -/
structure Recovery where
  tRS : Nat
  tCS : Nat
  /-- The t_RS that a synchronising reset gives by itself (R164 step 5). -/
  tSync : Option Nat
  /-- Fade position j, 0 before the fade; a fade abandoned makes the next sample a Reed sample. -/
  fade : Nat
  force : Bool
  /-- The length F of the fade that has begun (R165). -/
  len : Nat := 0
  deriving DecidableEq, Repr, Inhabited

/-- A formed output sample (R11, R12). -/
structure Sample where
  t : Nat
  raw : Word
  eng : Word
  flags : Byte
  deriving DecidableEq, Repr, Inhabited

/-- An entry event, or a change with a STEP sample only, that waits for its first sample (R33, R161, R167). -/
structure Entry where
  /-- 0: the first sample whose grid instant is at or after `first` (loom time). 1: whose signal instant is at or after
  `first` (fine). 2: the sample after the first one whose signal instant is at or after `first` (fine). -/
  mode : Nat
  first : Int
  /-- It counts only on the Reed path at this fine instant (R167). -/
  cond : Option Nat
  step : Bool
  /-- Starts or extends a recovery; otherwise STEP only. -/
  recover : Bool
  sync : Bool
  /-- Its entry instant t_E (fine). -/
  tE : Nat
  tRS : Nat
  tCS : Nat
  /-- The modulator clocks of the zeroings since which samples take words from then on. -/
  cGen : Option Nat
  rGen : Option Nat
  deriving DecidableEq, Repr, Inhabited

/-- The data path of a channel (R124 to R130, R147 to R171, R185 to R191). -/
structure Chan where
  /-- 05 R148; reset none. Settings in use; none while the channel does not run. -/
  set : Option PathSet := none
  /-- 02 R56; reset 0. Loom time from which the channel is sampled. -/
  since : Nat := 0
  /-- 05 R161; reset none. What takes over at later modulator clocks, in their order. -/
  pend : List Switch := []
  /-- 5 x 64 bits; 04 R124; reset 0. CIC integrators and comb delays. -/
  ints : List DWord := []
  combs : List DWord := []
  /-- 16 bits each; 01 R24; reset none. Slot counters expected on the ply link, once a word has come. -/
  cicSlot : Option Nat := none
  reedSlot : Option Nat := none
  /-- 01 R24; reset 0. Modulator clocks after which the words of each stream are due, where none has come yet. -/
  cicFrom : Nat := 0
  reedFrom : Nat := 0
  /-- 63 x 40 bits; 05 R150; reset none. CIC words, newest first. -/
  cicWords : List Int := []
  /-- 05 R151; reset 0. Notch biquads at the fundamental and at the third harmonic. -/
  notch1 : Biquad := {}
  notch3 : Biquad := {}
  /-- 40 bits each; 06 R186; reset none. Resampler input words of the CIC path, newest first. -/
  cicIn : List InWord := []
  /-- 512 x 40 bits; 05 R156; reset none. Pre-decimator words, newest first. -/
  reedWords : List Int := []
  /-- 40 bits each; 06 R186; reset none. Resampler input words of the Reed path, newest first. -/
  reedIn : List InWord := []
  /-- 05 R161; reset 0. Modulator clocks of the zeroings since which CIC and Reed words are formed, and since which
  samples take CIC and Reed words. -/
  cGen : Nat := 0
  rGen : Nat := 0
  cGenS : Nat := 0
  rGenS : Nat := 0
  /-- 05 R161; reset none. The recovery in progress, and the loom time at which the last one's last sample was formed.
  -/
  recovery : Option Recovery := none
  recEnded : Nat := 0
  /-- 05 R169; reset 0. Loom time at which the channel's last fade sample was due to be formed. -/
  fadeAt : Nat := 0
  /-- 05 R161, 01 R33; reset none. Events whose first sample is still to come, in order. -/
  entries : List Entry := []
  /-- 64 bits each; 05 R177; reset 0. t_RS and t_CS of the latest recovery, loom time. -/
  lastRS : Nat := 0
  lastCS : Nat := 0
  /-- 16 bits each, saturating; 05 R177, R149; reset 0. -/
  recoveries : Nat := 0
  abandoned : Nat := 0
  clamps : Nat := 0
  /-- 04 R141, 09 R264; reset none. Instant (fine) from which samples carry UNS and PATH for a path test or a
  calibration run, until the recovery after the return is complete. -/
  testFrom : Option Nat := none
  /-- 04 R141, 09 R264; reset none. Spans (fine) over which a test has the slot, newest first, each with its range. -/
  tests : List (Nat × Option Nat × Nat) := []
  /-- 05 R171, R177; reset 0. The last sample waited for a deferred swap. -/
  waiting : Bool := false
  /-- 01 R24, 14 R406; reset none. Signal spans whose words were lost: from, and to when known (fine). -/
  gaps : List (Nat × Option Nat) := []
  /-- 06 R184; reset none. Loom spans that forward steps passed over. -/
  skipped : List (Nat × Nat) := []
  /-- 64 bits; 06 R184; reset none. Latest grid instant delivered, and its signal instant (fine). -/
  delivered : Option Nat := none
  lastTau : Option Int := none
  /-- 06 R191; reset none. Samples formed, newest first, as far back as comparators, loops and cold junctions look. -/
  recent : List Sample := []
  /-- 32, 8 and 64 bits; 08 R253; reset none. Cold junction of the newest formed sample: its temperature, and the
  flags and instant of the sample or boundary that gave it. -/
  cj : Option (Word × Byte × Nat) := none
  deriving DecidableEq, Repr, Inhabited

/-- A mains measurement (R154, R155). -/
structure Mains where
  /-- binary64; 05 R155; reset 0 (the nominal frequency of NOM applies until a measurement). -/
  fm : DWord := 0
  /-- 05 R155; reset none. f_m at earlier boundaries, newest first: the boundary, and the value before it. -/
  fmPast : List (Nat × DWord) := []
  /-- binary64; 05 R177; reset 0. Last measurement. -/
  last : DWord := 0
  /-- binary64; 05 R154; reset 0. Last valid measurement. -/
  valid : DWord := 0
  /-- 64 bits; 05 R177; reset none. Loom time of the last valid measurement. -/
  lastValid : Option Nat := none
  /-- 05 R154; reset none. Crossing stamps in fine units of loom time, newest first; whether the input has been below
  -MIN_AMPL, and whether it must first pass above +MIN_AMPL; the word before: twice its centre in clocks, and value. -/
  crossings : List Int := []
  armed : Bool := false
  awaitHigh : Bool := false
  prev : Option (Int × Int) := none
  /-- 05 R155; reset none. The latest crossing that a measurement has been made with. -/
  used : Option Int := none
  /-- 05 R155; reset 0. Tracking is lost. -/
  lost : Bool := false
  deriving DecidableEq, Repr, Inhabited

/-- Filters (R147 to R196). -/
structure Filt where
  /-- 256 channels; 05 R148; reset zero state. -/
  chans : Tab Chan := []
  /-- 05 R169; reset none. Swaps deferred: die, job. -/
  deferred : List (Nat × Nat) := []
  /-- Per die; 05 R171; reset 0. Boundary at which the last deferred swap took effect. -/
  swapAt : Tab Nat := []
  /-- 05 R154; reset none. -/
  mains : Mains := {}
  /-- 16 bits each per group, saturating; 06 R184, R196; reset 0. Instants filled and withheld. -/
  filled : Tab Nat := []
  withheld : Tab Nat := []
  deriving DecidableEq, Repr, Inhabited

/-! ### The Warp -/

/-- A Warp event (R208): link number, type, origin, stamp, code. -/
structure WarpEv where
  link : Nat := 0
  typ : Nat
  origin : Nat
  stamp : Nat
  code : Nat
  deriving DecidableEq, Repr, Inhabited

/-- A census record (R207) and the loom time at which it was last refreshed. -/
structure Census where
  hub : Nat
  depth : Nat
  lock : Nat
  path : Nat
  seen : Nat
  /-- The port it came from. -/
  via : Nat
  deriving DecidableEq, Repr, Inhabited

/-- A Warp port: W_UP 0, W_DN 1, W_B0 2, W_B1 3 (R204, R206 to R217, R230). -/
structure WPort where
  /-- 07 R204; reset 1, no signal. Port state 1 to 7 while EN is 1. -/
  state : Nat := 1
  /-- 10 bits; 07 R230; reset 0. Hub ID received or announced. -/
  hubId : Nat := 0
  /-- ps; 07 R211; reset none. Link delay in force, once a beat has given its mean. -/
  delay : Option Int := none
  /-- ps; 07 R211; reset 0. Sum and number of d over the beat running. -/
  dSum : Int := 0
  dCount : Nat := 0
  /-- ps, signed; 07 R230; reset 0. Last offset. -/
  offset : Int := 0
  /-- 16 bits each, saturating; 07 R230; reset 0. -/
  badCrc : Nat := 0
  resent : Nat := 0
  lost : Nat := 0
  late : Nat := 0
  high : Nat := 0
  dup : Nat := 0
  /-- 8 bits; 07 R217; reset 0. Link sequence number of the next event sent, and next expected. -/
  txNext : Nat := 0
  rxNext : Nat := 0
  /-- 1 bit; 07 R217; reset 0. A resend request is outstanding. -/
  asked : Bool := false
  /-- 8 bits; 07 R217; reset none. Link number of the latest event discarded beyond a gap that was asked for. -/
  ahead : Option Nat := none
  /-- 256 events; 07 R217; reset none. The last events sent, newest first. -/
  history : List WarpEv := []
  /-- 1,024 deep; 07 R215; reset empty. -/
  queue : List WarpEv := []
  /-- 07 R210; reset none. Stamp (2^-48 s) of the peer's latest delay request, and its number. -/
  lastReq : Option (Nat × Nat) := none
  /-- 16 bits; 07 R207; reset 0. Number of this hub's next delay request, and the t3 stamps sent. -/
  reqNext : Nat := 0
  reqSent : List (Nat × Nat) := []
  /-- 07 R222, R223; reset none. Since when the port is out of state 3; time frames in a row. -/
  downSince : Option Nat := none
  frames : Nat := 0
  deriving DecidableEq, Repr, Inhabited

/-- The lock states of R198. -/
inductive Lock where
  | unlocked | acquire | locked | holdover
  deriving DecidableEq, Repr, Inhabited

/-- The Warp and the time servo (R197 to R231). -/
structure Warp where
  /-- 2 bits; 07 R198; reset UNLOCKED. -/
  lock : Lock := .unlocked
  /-- ps, signed; 07 R230; reset 0. Filtered offset. -/
  offset : Int := 0
  /-- parts per 10^12, signed; 07 R230; reset 0. Frequency correction. -/
  freq : Int := 0
  /-- 07 R198; reset none. Since when the offset has stayed within, or outside, the LOCKED bound. -/
  within : Option Nat := none
  outside : Option Nat := none
  /-- 64 bits; 07 R230; reset none. Since when in HOLDOVER. -/
  holdSince : Option Nat := none
  /-- 2 bits; 07 R230; reset 0 free. Source in use: 0 free, 1 PTP, 2 Warp. -/
  source : Nat := 0
  /-- 4 ports; 07 R202; reset state 0. -/
  ports : Tab WPort := []
  /-- 07 R206; reset 0. Flags of the parent's latest time frame, its depth, epoch, path delay, B_E. -/
  trace : Bool := false
  holdAbove : Bool := false
  fallAbove : Bool := false
  parentEpoch : Option Nat := none
  /-- 10 bits; 07 R205; reset none. The hub ID that the parent announces. -/
  announced : Option Nat := none
  depth : Nat := 0
  path : Nat := 0
  bE : Nat := 0
  /-- 07 R201; reset none. A step that waits: instant, amount (units of 2^-32 s, signed). -/
  step : Option (Nat × Int) := none
  /-- 07 R201; reset none. The last step announced that was taken. -/
  stepped : Option (Nat × Int) := none
  /-- 16 R456; reset none. The reset of the pod dies that follows BOOT: its beat boundary's loom time. -/
  bootReset : Option Nat := none
  /-- 07 R219; reset none. A reset that waits: t_s, and whether it has been told to the domain. -/
  reset : Option Nat := none
  resetTold : Bool := false
  /-- 07 R220; reset none. A catch-up reset that waits: its beat boundary's loom time. -/
  catchUp : Option Nat := none
  /-- 07 R218; reset empty. Events that wait at the origin, and when the last one left. -/
  origin : List WarpEv := []
  lastOrigin : Option Nat := none
  /-- 64 deep; 07 R215; reset empty. Events between the Warp logic and the Treadle. -/
  toTreadle : List WarpEv := []
  /-- 07 R207, R224; reset empty. Census records of the subtree, and subtree counts per port. -/
  census : List Census := []
  subtree : Tab Nat := []
  censusTurn : Nat := 0
  over1024 : Bool := false
  /-- 07 R222; reset 0. The Warp is lost. -/
  lost : Bool := false
  /-- 07 R222; reset 0. This hub entered HOLDOVER and has not been LOCKED since. -/
  heldOver : Bool := false
  deriving DecidableEq, Repr, Inhabited

/-! ### Calibration -/

/-- A calibration point (R258): temperature, terms, confidences and beats. Terms 0 to 3: O, G, c2, c3; for a
source term 0 is the scale factor. -/
structure CalPoint where
  temp : DWord
  terms : List DWord
  confs : List DWord
  beats : List Nat
  deriving DecidableEq, Repr, Inhabited

/-- A calibration entry (R258, R271). -/
structure CalEntry where
  points : List CalPoint := []
  modulator : Nat := 0
  stale : Bool := false
  deriving DecidableEq, Repr, Inhabited

/-- A result accepted into the pending set (R267). -/
structure CalResult where
  key : Nat
  /-- Term index of CalPoint. -/
  term : Nat
  value : DWord
  conf : DWord
  temp : DWord
  beat : Nat
  modulator : Nat
  deriving DecidableEq, Repr, Inhabited

/-- A stored calibration copy (R269). -/
structure CalCopy where
  valid : Bool := false
  seq : Nat := 0
  entries : Tab CalEntry := []
  deriving DecidableEq, Repr, Inhabited

/-- A pod's die temperature in force (R260). -/
structure PodTemp where
  known : Bool := false
  value : Word := 0
  beat : Nat := 0
  deriving DecidableEq, Repr, Inhabited

/-- Calibration (R255 to R275). Entries are keyed channel * 8 + range, and 65536 + pod * 16 + source. -/
structure Cal where
  /-- 09 R258, R270; reset the factory calibration. Entries in force; one that is not listed is the factory entry. -/
  entries : Tab CalEntry := []
  /-- 1 bit; 09 R274; reset 1 (no copy loaded). The factory copy is in use, held inverted. -/
  ownCopy : Bool := false
  /-- 32 bits; 09 R268; reset 0. Calibration sequence number in force. -/
  seq : Nat := 0
  /-- 10 R304; reset none. The numbers that were in force before, newest first, each with the loom time at which it
  gave way. -/
  seqPast : List (Nat × Nat) := []
  /-- 16 pods; 09 R267; reset empty. Accepted results pending, oldest first, per pod. -/
  pending : Tab (List CalResult) := []
  /-- 09 R268; reset none. Results that a CAL_COMMIT has staged. -/
  committed : List CalResult := []
  /-- 512 KiB; 09 R269; reset invalid, as delivered (R270). -/
  copyA : CalCopy := {}
  copyB : CalCopy := {}
  /-- 1 bit; 09 R269; reset A, DESIGN CHOICE (log 5). The copy in force is B. -/
  inB : Bool := false
  /-- 1 bit; 09 R269, R270; reset 0. BOOT has rejected both copies, and none has been written since. -/
  rejected : Bool := false
  /-- 09 R269; reset none. Writes of the copies that may still run, in order. -/
  writes : List (SlotWrite CalCopy) := []
  /-- 16 pods; 09 R260; reset none known. -/
  td : Tab PodTemp := []
  /-- 08 R243; reset none. Die temperatures of the housekeeping rounds, keyed pod: beat and reading, newest first. -/
  rounds : Tab (List (Nat × Word)) := []
  /-- 09 R255, 01 R33; reset none. Entries and die temperatures of earlier boundaries, newest first. -/
  past : List (Nat × Tab CalEntry × Tab PodTemp) := []
  /-- 09 R459; reset 0. CAL_RUN rejections 0x0603 or 0x0604 in a row, per channel. -/
  rejects : Tab Nat := []
  deriving DecidableEq, Repr, Inhabited

/-! ### The Treadle -/

/-- A row of samples that a comparator has met (R279): since it was enabled, or moved to its channel and tap. -/
structure CompRow where
  /-- The boundary at which the row began; 0 for the first. -/
  from_ : Nat
  result : Bool := false
  prev : Option Sample := none
  deriving DecidableEq, Repr, Inhabited

/-- A comparator (R278 to R280, R311). -/
structure Comp where
  /-- 1 bit; 10 R278; reset false. -/
  result : Bool := false
  /-- 10 R279; reset none. Its rows of samples, the latest met first. -/
  rows : List CompRow := []
  /-- 10 R279; reset none. Boundaries from which a configuration did not enable it, or moved it to another channel or
  tap. -/
  offs : List Nat := []
  /-- 16 bits, saturating; 10 R311; reset 0. -/
  onsets : Nat := 0
  /-- binary32; 10 R311; reset 0. The value last compared. -/
  lastValue : Word := 0
  /-- 64 bits; 10 R311; reset 0. Grid instant of the last change. -/
  lastChange : Nat := 0
  /-- 10 R278; reset 0. The configuration word under which it was last evaluated (0: not enabled). -/
  word : Word := 0
  /-- 10 R280; reset none. Changes of its result by their samples' grid instants, newest first: grid instant, result.
  -/
  history : List (Nat × Bool) := []
  deriving DecidableEq, Repr, Inhabited

/-- A TIO pin (R281, R282, R311). -/
structure Tio where
  /-- Level at the ball. -/
  ball : Bool := false
  /-- 10 R281; reset low. Accepted level, after INV. -/
  level : Bool := false
  /-- 10 R281; reset none. Levels accepted, newest first: loom time, level, and whether it is an edge (R281: an
  adoption is none). -/
  history : List (Nat × Bool × Bool) := []
  /-- A change that deglitches: since when. -/
  since : Option Nat := none
  rejects : Nat := 0
  last : Nat := 0
  deriving DecidableEq, Repr, Inhabited

/-- A timer of a sequencer (R284). -/
structure Timer where
  target : Nat := 0
  running : Bool := false
  deriving DecidableEq, Repr, Inhabited

/-- A sequencer (R276 to R293). -/
structure Seqr where
  armed : Bool := false
  /-- Loom time of the beat boundary at which it was last armed. -/
  armedAt : Nat := 0
  state : Nat := 0
  coin : Nat := 0
  taken : Nat := 0
  /-- Counters 0 to 3: values as actions and dated source events have left them. -/
  counters : Tab Nat := []
  /-- Source events dated but not yet counted: counter, loom time. -/
  dated : List (Nat × Nat) := []
  /-- On a standby (R432): those counted by replays since the last snapshot. -/
  counted : List (Nat × Nat) := []
  /-- Timers 0 to 3 (R284). -/
  timers : Tab Timer := []
  /-- Events coalesced, 16 bits, saturating (R285, R311). -/
  coalesced : Nat := 0
  /-- Latest instant evaluated; none before the first after arming. -/
  last : Option Nat := none
  /-- Truth of counters and timers at the previous instant, for senses 2 and 3. -/
  prevCnt : Tab Bool := []
  prevTmr : Tab Bool := []
  /-- Events offered and not yet consumed. -/
  events : List WarpEv := []
  deriving DecidableEq, Repr, Inhabited

/-- A mark kept for records (R301). -/
structure Mark where
  t : Nat
  seqr : Nat
  state : Nat
  code : Nat
  origin : Nat
  deriving DecidableEq, Repr, Inhabited

/-- A record (R294 to R304). -/
structure Record where
  number : Nat
  /-- Its slot of the bobbin (R299, R428). -/
  slot : Nat
  trigger : Nat
  cause : Nat
  seqr : Nat
  /-- The bobbin's own sequencer (R301, R305), which an AUTO or forced record has too; 0xFF where none feeds it. -/
  own : Nat
  /-- Record flags known so far (R304). -/
  flags : Nat
  byte10 : Nat
  byte11 : Nat
  coin : Nat
  origin : Nat
  code : Nat
  /-- CYCLE and COUNT of the rate group, and the grid instants' numbers (R180): the first of the record, the trigger
  sample's, the last. -/
  cycle : Nat
  count : Nat
  n0 : Nat
  nT : Nat
  n1 : Nat
  /-- The bobbin's 18 words at the trigger, and its bit of REC_COMPRESS (R383). -/
  words : List Word
  compress : Bool
  missed : Nat
  full : Nat
  beat : Nat
  /-- Samples of the record: channel and sample, in order of arrival. -/
  samples : List (Nat × Sample)
  complete : Bool
  /-- Record frames not yet acknowledged (their sequence numbers). -/
  unacked : List Nat
  deriving DecidableEq, Repr, Inhabited

/-- A bobbin (R294 to R299, R311). -/
structure Bobbin where
  /-- The history runs (R292, R295). -/
  running : Bool := false
  /-- First grid instant of the history. -/
  start : Nat := 0
  /-- Samples of the history: channel and sample, newest first. -/
  history : List (Nat × Sample) := []
  records : List Record := []
  nextRecord : Nat := 0
  taken : Nat := 0
  missed : Nat := 0
  full : Nat := 0
  /-- 10 R296; reset none. Re-arm intervals, newest first: the trigger instant and the last instant. -/
  rearm : List (Nat × Nat) := []
  /-- Loom time from which AUTO_TO counts. -/
  autoFrom : Nat := 0
  lastTrigger : Nat := 0
  /-- 10 R311; reset 0, DESIGN CHOICE (log 30). Number of the last record taken. -/
  lastRecord : Nat := 0
  /-- 11 R315; reset none. Measurements of the latest completed records, newest first: when completed, and for each
  channel the words at positions 0 to 7. -/
  latest : List (Nat × List (Nat × List Word)) := []
  /-- Record frame sequence numbers (R351). -/
  nextSeq : Nat := 0
  /-- 12 R351; reset none. Boundaries at which the definition (block and rate group) changed, newest first, and the
  one under which the last record with frames was taken, 0 before any. -/
  changes : List Nat := []
  firstOf : Option Nat := none
  /-- The last record frame number sent since BOOT, and the newest acknowledged (R356, R368). -/
  lastSent : Option Nat := none
  newestAck : Option Nat := none
  ackTime : Nat := 0
  retx : Nat := 0
  deriving DecidableEq, Repr, Inhabited

/-- The Treadle (R276 to R312). -/
structure Treadle where
  /-- 32 comparators; 10 R278; reset false, no previous sample. -/
  comps : Tab Comp := []
  /-- 16 pins; 10 R281; reset low. -/
  tios : Tab Tio := []
  /-- 4 sequencers; 10 R276, R293; reset disarmed, all counters 0. -/
  seqs : Tab Seqr := []
  /-- 8 bobbins; 10 R294, R293; reset no history, no record. -/
  bobs : Tab Bobbin := []
  /-- 10 R301; reset none. Marks not older than any history, newest first. -/
  marks : List Mark := []
  deriving DecidableEq, Repr, Inhabited

/-! ### Loop drivers, stimulus outputs, tables -/

/-- A loop driver (R313 to R321, R337). -/
structure Loop where
  sel : Nat := 0
  /-- Commanded current in 0.5 uA steps, 7,200 (3.6 mA) to 42,000 (21.0 mA); 0 before the first update. -/
  current : Nat := 0
  /-- The latch of the fallback regulator: fault level FAULT_LEVEL and arm bit (R319). -/
  latchHigh : Bool := false
  armed : Bool := false
  /-- At the fault level for want of a value (R317). -/
  atFault : Bool := false
  holding : Bool := false
  /-- Open or compliance (R320), and rounds in a row beyond and within 0.2 mA. -/
  openC : Bool := false
  badRounds : Nat := 0
  goodRounds : Nat := 0
  clamps : Nat := 0
  conflicts : Nat := 0
  /-- Update instant at which a KIND 3 slot started its table. -/
  tableAt : Option Nat := none
  /-- Treadle selections that wait: earliest update instant, sequencer, slot. -/
  waiting : List (Nat × Nat × Nat) := []
  /-- Staged selections applied at the boundary since the last update instant. -/
  stagedSel : List Nat := []
  /-- The point at which a table slot stands in SERVICE (R322). -/
  held : Option DWord := none
  deriving DecidableEq, Repr, Inhabited

/-- A stimulus output (R323 to R331, R337). -/
structure Stim where
  /-- 0 off, 1 fixed target, 2 playing, 3 ended, 4 held. -/
  state : Nat := 0
  start : Nat := 0
  point : Nat := 0
  passes : Nat := 0
  /-- Set while the last tick clamped (R328). -/
  compliance : Bool := false
  clamps : Nat := 0
  target : Word := 0
  output : Word := 0
  current : Word := 0
  /-- DAC code and the rounding residual (R326), binary64. -/
  code : Int := 0
  residual : DWord := 0
  /-- Loom time of the tick whose emulation cycle runs, and its conversions done: place in the cycle, code (R325). -/
  tick : Nat := 0
  reads : List (Nat × Int) := []
  /-- The output thread would need more than 5 mA at that tick (R328). -/
  heavy : Bool := false
  /-- What the DAC still is to latch (R325, R327): instant, code, quantity output, current measured. -/
  next : Option (Nat × Int × Word × Word) := none
  /-- The tick from which the output is held (R331). -/
  holdAt : Option Nat := none
  /-- The last point of an ended table, or the value held (R330, R331). -/
  held : DWord := 0
  deriving DecidableEq, Repr, Inhabited

/-- A stimulus table (R329 to R332). -/
structure Table where
  /-- Points loaded; the table is empty when none. -/
  points : List Word := []
  /-- A load is in progress, with its bytes. -/
  loading : Bool := false
  bytes : BMem := []
  deriving DecidableEq, Repr, Inhabited

/-- Who the staging area serves (R332, R458). -/
inductive StagingFor where
  | free
  | table (t : Nat)
  | image
  deriving DecidableEq, Repr, Inhabited

/-- Loops and stimulus (R313 to R338). -/
structure Drive where
  /-- 16 drivers; 11 R313; reset slot 0, fallback disarmed. -/
  loops : Tab Loop := []
  /-- 16 outputs; 11 R323; reset off. -/
  stims : Tab Stim := []
  /-- 16 tables; 11 R329; reset empty. -/
  tables : Tab Table := []
  /-- 1 MiB; 11 R332; reset zero bytes. The staging area, and whom it serves. -/
  staging : BMem := []
  stagingFor : StagingFor := .free
  /-- 14 R404; reset none. An uncorrectable codeword held some of the staged bytes. -/
  stagingBad : Bool := false
  /-- 11 R314, R324; reset none. The update instant and the stimulus tick last taken. -/
  updatedAt : Option Nat := none
  tickedAt : Option Nat := none
  deriving DecidableEq, Repr, Inhabited

/-! ### Weft -/

/-- A retained frame (R345, R351, R357). -/
structure WFrame where
  /-- Stream 0 to 15, or 0x0100 + bobbin. -/
  flow : Nat
  seq : Nat
  sec : Nat
  /-- Grid instant of the first sample, and instants in the frame. -/
  first : Nat
  count : Nat
  /-- Header without trailer, and the uncompressed body. -/
  header : Bytes
  body : Bytes
  /-- The frame as sent, once Winnow has passed it; empty before. -/
  sent : Bytes
  /-- 0 waits for Winnow, 1 is being encoded, 2 ready. -/
  stage : Nat
  /-- COMPRESS, EFFORT and HUFF in force when it closed (R373). -/
  compress : Bool
  effort : Nat
  huff : Nat
  /-- Ports on which its first transmission is still due, as a list of ports. -/
  due : List Nat
  /-- It has left at least one port. -/
  left : Bool
  /-- Record number for a record frame. -/
  recordNo : Nat
  /-- Retransmission waits on these ports (R358), in this turn. -/
  again : List Nat
  turn : Nat := 0
  /-- 12 R358, R360; reset none. It was acknowledged or released while on the wire: the end of its transmission. -/
  goneAt : Option Nat := none
  deriving DecidableEq, Repr, Inhabited

/-- The samples of one section that no frame has closed over (R345). -/
structure OpenFrame where
  /-- Grid instants, rising. -/
  instants : List Nat := []
  /-- Channel and sample, in order of arrival. -/
  samples : List (Nat × Sample) := []
  /-- Last instant that a frame has closed over. -/
  closedTo : Nat := 0
  /-- 12 R345; reset none. Instants after which a backward step of loom time has broken the run off. -/
  breaks : List Nat := []
  deriving DecidableEq, Repr, Inhabited

/-- A stream (R344 to R347, R368). -/
structure Stream where
  nextSeq : Nat := 0
  /-- The last number sent, when any has been sent since BOOT. -/
  lastSent : Option Nat := none
  newestAck : Option Nat := none
  /-- 12 R345, R346; reset none. Boundaries at which the definition changed, newest first, and the one under which the
  last frame closed, 0 before any. -/
  changes : List Nat := []
  firstOf : Option Nat := none
  retx : Nat := 0
  released : Nat := 0
  ackTime : Nat := 0
  deriving DecidableEq, Repr, Inhabited

/-- A frame that waits on a port other than a data frame (R361). -/
inductive PortFrame where
  /-- Destination address and port, source port (R40). -/
  | udp (ip udpPort srcPort : Nat) (body : Bytes)
  | notice (body : Bytes)
  | arp (oper targetMac targetIp : Nat)
  /-- Destination; the identifier, number and data of the echo. -/
  | icmp (ip : Nat) (msg : Bytes)
  | ptp (kind : Nat) (peer seqId : Nat)
  deriving DecidableEq, Repr, Inhabited

/-- An ARP entry (R341). -/
structure Arp where
  ip : Nat
  mac : Option Nat
  learnt : Nat
  /-- Requests sent since, 0 once resolved, and when the last one was queued. -/
  requests : Nat
  asked : Nat
  deriving DecidableEq, Repr, Inhabited

/-- A host port (R339 to R343, R361 to R364, R368). -/
structure HPort where
  /-- 1 bit; 12 R339; reset no link. The PCS is locked. -/
  link : Bool := false
  linkUps : Nat := 0
  sent : Nat := 0
  received : Nat := 0
  discarded : Nat := 0
  pauses : Nat := 0
  ackDiscards : Nat := 0
  ackIgnored : Nat := 0
  arpWaits : Nat := 0
  icmpAnswered : Nat := 0
  icmpDiscards : Nat := 0
  tc0Sent : Nat := 0
  tc0Late : Nat := 0
  /-- Queues of TC0 and TC2. -/
  tc0 : List PortFrame := []
  tc2 : List PortFrame := []
  /-- 12 R363; reset full. Tokens used of the shaper's 4. -/
  tokensUsed : Nat := 0
  /-- 12 R363; reset 0. Loom time of the last token gained, or of the use of the first of a full shaper. -/
  tokenAt : Nat := 0
  /-- Index of the next notice to send on this port, when notices wait. -/
  noticeFrom : Nat := 0
  /-- PTP messages that wait for a token. -/
  ptpWait : List PortFrame := []
  arp : List Arp := []
  /-- 12 R341; reset 0. Loom times of ICMP answers in the last second. -/
  icmpTimes : List Nat := []
  /-- 12 R362; reset none. TC3 transmissions of the last 1 ms: start, wire time in ns. -/
  tc3Times : List (Nat × Nat) := []
  /-- 64 bits; reset 0. The port is busy with a frame until this loom time; flow and number of a data frame. -/
  busyUntil : Nat := 0
  onWire : Option (Nat × Nat) := none
  /-- 12 R341; reset none. Data frames, and the number of other frames, counted as waiting for unresolved addresses. -/
  waiting : List (Nat × Nat) := []
  waitingQ : Nat := 0
  /-- PTP (R343, R368): best Announce heard, Sync messages, delays, offset, request numbers. -/
  announce : Option PtpAnnounce := none
  syncs : Nat := 0
  meanPath : Nat := 0
  ptpOffset : Int := 0
  logSync : Int := 0
  ptpSeq : Nat := 0
  /-- 8 bits; 12 R343; reset 0, DESIGN CHOICE (log 206). logMinDelayReqInterval of the master, and when the last
  request was sent. -/
  logDelay : Int := 0
  delayAt : Option Nat := none
  deriving DecidableEq, Repr, Inhabited

/-- A notice (R353). -/
structure Notice where
  typ : Nat
  b1 : Nat
  b23 : Nat
  loom : Nat
  tail : Bytes
  deriving DecidableEq, Repr, Inhabited

/-- Weft delivery (R339 to R369). -/
structure Weft where
  /-- 16 streams; 12 R346; reset next number 0. -/
  streams : Tab Stream := []
  /-- Keyed stream * 8 + section; 12 R345; reset empty. Frames being filled. -/
  opened : Tab OpenFrame := []
  /-- 12 R357; reset empty. The retention pool, oldest first: stream frames and record frames. -/
  pool : List WFrame := []
  /-- 2 ports; 12 R339. -/
  ports : Tab HPort := []
  /-- 1,024 notices; 12 R352; reset none. Newest first. -/
  notices : List Notice := []
  /-- 32 bits; 12 R352; reset 0. Index of the next notice. -/
  nextNotice : Nat := 0
  /-- 12 R368; reset 0. Highest fill since the last read (0.01 %), releases, gap notices, last release. -/
  highFill : Nat := 0
  releases : Nat := 0
  gapNotices : Nat := 0
  lastRelease : Nat := 0
  /-- 12 R358, R362; reset 0. Turns given to retransmissions. -/
  turns : Nat := 0
  deriving DecidableEq, Repr, Inhabited

/-! ### Winnow -/

/-- Winnow (R370 to R391). -/
structure Winnow where
  /-- 13 R379; reset empty. Frames that wait: flow, number. -/
  queue : List (Nat × Nat) := []
  /-- 13 R379; reset none. The frame being encoded, and whether it is forced. -/
  current : Option (Nat × Nat × Bool) := none
  /-- 13 R379; reset 0. Forcing. -/
  forcing : Bool := false
  /-- 13 R382; reset 0. The output is stalled, and that of the decompression. -/
  stalled : Bool := false
  jobStalled : Bool := false
  /-- 64 bits; 13 R382; reset empty. The accumulator: the bits not yet written, at most 63, oldest first. -/
  acc : List Bool := []
  /-- 2 KiB; 13 R382; reset empty. The output queue. -/
  outQueue : Bytes := []
  /-- 32 bits; 13 R390; reset 0. Highest backlog since the last read. -/
  high : Nat := 0
  /-- 64 bits each, saturating; 13 R390; reset 0. -/
  bytesIn : Nat := 0
  bytesOut : Nat := 0
  /-- 10 x 32 bits, saturating, in the order of R390; reset 0. -/
  counters : Tab Nat := []
  /-- 13 R384; reset none. The decompression job running, by job ID. -/
  job : Option Nat := none
  deriving DecidableEq, Repr, Inhabited

/-! ### What leaves the hub -/

/-- What has left the hub's balls: the model's own field. -/
inductive Emission where
  /-- A frame of a port's queues, and its Ethernet bytes. -/
  | frame (t port cls : Nat) (what : PortFrame) (ether : Bytes)
  /-- A data frame: its flow and number, the Weft frame, and its Ethernet bytes. -/
  | data (t port cls : Nat) (flow seq : Nat) (bytes ether : Bytes)
  | spi (t : Nat) (bytes : Bytes)
  | warpFrame (t port : Nat) (bytes : Bytes)
  | warpEvent (t port : Nat) (bytes : Bytes)
  | selvedge (t typ : Nat) (cfgSeq alive : Nat) (body : Bytes)
  /-- Deltas, snapshot fragments and switch control: what they say, and the frame (R426). -/
  | delta (t : Nat) (d : Delta) (frame : Bytes)
  | snapshot (t beat index : Nat) (items : List SnapItem) (last : Bool) (frame : Bytes)
  | switchControl (t tT : Nat) (frame : Bytes)
  deriving DecidableEq, Repr, Inhabited

/-! ### Integrity -/

/-- What waits at a crossing whose receiving clock is stopped (R410): a word of a ply stream, a scan result, a frame
received. -/
inductive Held where
  | word (ch : Nat) (reed : Bool) (slot k : Nat) (codes : List Int)
  /-- The converter, its request, the acquisition instant and the result. -/
  | scan (sc : Nat) (r : ScRequest) (acq : Nat) (code : Int) (value : Word)
  | row (i : Instr)
  deriving DecidableEq, Repr, Inhabited

/-- An event handshake (R407, R408): when its acknowledge completes, where a request runs; and its pending bit. -/
structure Shake where
  ackAt : Option Nat := none
  pend : Bool := false
  deriving DecidableEq, Repr, Inhabited

/-- A crossing (R407 to R412, R416). -/
structure Crossing where
  /-- 16 bits each, saturating; 14 R408, R411, R416; reset 0. -/
  merged : Nat := 0
  restarts : Nat := 0
  stops : Nat := 0
  dropped : Nat := 0
  /-- 14 R410; reset 0. The receiving clock is stopped: the crossing holds its data. -/
  holds : Bool := false
  /-- 14 R409, R410; reset empty. What it holds, in order. -/
  held : List Held := []
  /-- 14 R408; reset none. Event handshakes, by source. -/
  shakes : Tab Shake := []
  deriving DecidableEq, Repr, Inhabited

/-- Integrity (R392 to R417). -/
structure Integ where
  /-- 32 bits each, saturating; 14 R416; reset 0. -/
  corrected : Nat := 0
  uncorrectable : Nat := 0
  passes : Nat := 0
  /-- ms; 14 R416; reset 0. Duration of the last pass, and when it began. -/
  lastPass : Nat := 0
  passFrom : Nat := 0
  lastBad : Nat := 0
  /-- 16 bits each, saturating; 14 R416; reset 0. -/
  rows : Nat := 0
  husks : Nat := 0
  svRepeats : Nat := 0
  svMissing : Nat := 0
  svStale : Nat := 0
  /-- 8 x 16 bits, saturating; 14 R393; reset 0. -/
  mismatches : Tab Nat := []
  /-- 8 x 32 bits; 14 R394; reset 0, DESIGN CHOICE (log 7). Running values of the check units. -/
  units : Tab Nat := []
  /-- 12 crossings; 14 R409; reset 0. -/
  crossings : Tab Crossing := []
  /-- Corrected codewords per row in the pass running; 14 R403; reset 0. -/
  rowCount : Tab Nat := []
  /-- Rows reported in the pass running; 14 R403; reset none. -/
  rowsTold : List Nat := []
  /-- Codewords repaired, by index, as written back; 14 R402; reset zeros (R454). -/
  words : Tab (List Byte) := []
  deriving DecidableEq, Repr, Inhabited

/-! ### Pairing -/

/-- What the partner's heartbeats report (R427). -/
structure Partner where
  heard : Bool := false
  role : Role := .solo
  state : HubState := .boot
  able : Bool := false
  inSync : Bool := false
  wants : Bool := false
  excited : Bool := false
  cfgSeq : Nat := 0
  calSeq : Nat := 0
  beat : Nat := 0
  notice : Nat := 0
  /-- Streams 0 to 15 then bobbins 0 to 7: last sent and newest acknowledged. -/
  lastSent : List Nat := []
  acked : List Nat := []
  /-- Latest instants evaluated, sequencers 0 to 3. -/
  instants : List Nat := []
  deriving DecidableEq, Repr, Inhabited

/-- A log entry of R427. -/
structure LogEntry where
  seqr : Nat
  trans : Nat
  entered : Nat
  recordNo : Nat
  instant : Nat
  deriving DecidableEq, Repr, Inhabited

/-- A witness pair (R435). -/
structure Witness where
  /-- Held inverted: the pair is present (its voltage has risen above WIT_MIN). -/
  present : Bool := false
  deriving DecidableEq, Repr, Inhabited

/-- A switch in progress (R441, R442). -/
inductive Switching where
  | idle
  /-- t_T, and whether this hub comes in. -/
  | prompt (tT : Nat) (incoming : Bool)
  | mbb (beat : Nat) (incoming : Bool)
  deriving DecidableEq, Repr, Inhabited

/-- Pairing (R418 to R449). -/
structure Pair where
  /-- 64 bits; 15 R423, R448; reset 0. Loom time of the last role change. -/
  roleSince : Nat := 0
  /-- 1 bit; 15 R445; reset 0. Detached. -/
  detached : Bool := false
  /-- 1 bit; 15 R422; reset 0. The hub listens for JOIN_WAIT, since this loom time. -/
  listening : Option Nat := none
  partner : Partner := {}
  /-- 4 bits each; 14 R397; reset 0 (the first frame is accepted with any ALIVE). -/
  txAlive : Nat := 0
  rxAlive : Option Nat := none
  /-- 1 bit; 15 R425; reset down. The link is up, heartbeats in a row, last valid frame. -/
  linkUp : Bool := false
  row : Nat := 0
  lastValid : Nat := 0
  /-- 15 R425; reset none. Lanes failed. -/
  lanesOut : List Nat := []
  /-- 15 R434; reset lost. HB_IN present, periods in a row, last rising edge. -/
  hbIn : Bool := false
  hbRow : Nat := 0
  hbLast : Option Nat := none
  /-- 15 R434; reset none. The last rising edge, ignored or not. -/
  hbEdge : Option Nat := none
  /-- 1 bit; 15 R422; reset 0. HB_OUT carries its square wave. -/
  hbOn : Bool := false
  /-- 4 pairs; 15 R435; reset absent. -/
  wits : Tab Witness := []
  /-- 64 bits; 15 R438; reset none. Last instant at which excitation was present. -/
  lastExcited : Option Nat := none
  /-- 15 R428; reset none. Items of the snapshot being received, its beat, and the latest complete one. -/
  fragments : List SnapItem := []
  fragBeat : Nat := 0
  /-- 15 R430; reset 0. The place of the next fragment of that snapshot. -/
  fragNext : Nat := 0
  snapshot : List SnapItem := []
  snapBeat : Nat := 0
  snapCfg : Nat := 0
  /-- 15 R430; reset stale. The mirror is in sync. -/
  inSync : Bool := false
  /-- 15 R429; reset none. Deltas sent and not acknowledged; next delta number. -/
  deltas : List Delta := []
  nextDelta : Nat := 0
  lastResend : Nat := 0
  /-- 15 R443; reset none. Since when the conditions of a return have held. -/
  holdFrom : Option Nat := none
  /-- 15 R441, R442; reset idle. -/
  switching : Switching := .idle
  /-- 15 R438, R439; reset none. t_A and t_T of the last switch-over. -/
  tA : Option Nat := none
  tT : Option Nat := none
  /-- 15 R427, R432; reset none. Log entries to send, and entries received to replay. -/
  logOut : List LogEntry := []
  logIn : List LogEntry := []
  /-- 15 R433; reset none. Frames released as a standby: flow, section, number, first instant, instants. -/
  released : List (Nat × Nat × Nat × Nat × Nat) := []
  /-- 6 x 16 bits, saturating; 15 R448; reset 0. Switch-overs, coordinated switches, HB_IN losses, Selvedge losses,
  deltas resent, resyncs. -/
  counters : Tab Nat := []
  /-- 64 bits; 15 R430; reset none. The beat in which a resync was last asked for. -/
  askedAt : Option Nat := none
  /-- 64 bits; 15 R427; reset none. Loom time of the last heartbeat frame sent. -/
  hbSent : Option Nat := none
  /-- 1 bit; 15 R427, R443; reset 0. This hub asks for a switch. -/
  wants : Bool := false
  /-- 64 bits; 15 R442; reset none. After a make-before-break switch: the boundary before which this hub's frames
  still go out. -/
  sendBefore : Option Nat := none
  /-- 14 R409, R410; reset empty. Frames that wait at crossing 7, in order. -/
  out : List Emission := []
  /-- 15 R429; reset none. Deltas accepted, newest first: number, and the words changed. -/
  rxDeltas : List (Nat × List Nat) := []
  /-- 64 bits; 15 R429; reset 0. The beat until which a delta that came too late leaves the mirror out of sync. -/
  lateTo : Nat := 0
  deriving DecidableEq, Repr, Inhabited

/-! ### Power, images, seed bank -/

/-- A power domain (R452 to R454, R464). -/
structure Domain where
  /-- 0 off, 1 starting, 2 on, 3 lost. -/
  state : Nat := 0
  losses : Nat := 0
  /-- Loom time at which its power switch closed. -/
  since : Nat := 0
  /-- It reached power-good. -/
  good : Bool := false
  /-- No further attempt until DOMAIN_SET or restart (R454). -/
  givenUp : Bool := false
  /-- It is requested on (by D_REQ or DOMAIN_SET), so that a loss restarts it. -/
  wanted : Bool := false
  /-- Lanes of a pod die's ply link out of use; trained (R25, R454). -/
  lanesOut : List Nat := []
  trained : Bool := false
  /-- 16 R454; reset none. Loom time of the boundary at which its catch-up reset acts. -/
  align : Option Nat := none
  /-- D4 to D7: the first reset after coming on has acted (R260). -/
  aligned : Bool := false
  deriving DecidableEq, Repr, Inhabited

/-- A rail (R450, R464). -/
structure Rail where
  /-- 0 in window, 1 under, 2 over. -/
  state : Nat := 0
  excursions : Nat := 0
  deriving DecidableEq, Repr, Inhabited

/-- A worn part (R459, R464). -/
structure Worn where
  kind : Nat
  pod : Nat
  idx : Nat
  /-- 0 worn, 1 proposed, 2 substituted, 3 awaiting recalibration. -/
  state : Nat
  deriving DecidableEq, Repr, Inhabited

/-- A firmware image slot (R457). -/
structure Image where
  /-- Held inverted: the check value does not hold. Both slots leave the factory valid (R3). -/
  invalid : Bool := false
  seq : Nat := 0
  version : Nat := 0
  /-- 64 bits; 16 R458; reset 0. Loom time at which the last write of the slot ends. -/
  writeEnds : Nat := 0
  deriving DecidableEq, Repr, Inhabited

/-- Power and the seed bank (R450 to R465). -/
structure Power where
  /-- 8 domains; 16 R453; reset D0 on, the others off (BOOT switches them on, R456). -/
  domains : Tab Domain := []
  /-- 8 rails; 16 R450; reset in window. -/
  rails : Tab Rail := []
  /-- 7 kinds; 16 R459; reset 0. Spares used. -/
  used : Tab Nat := []
  /-- Per pod and spare modulator slot 16, 17 (pod * 32 + slot), and IX4 (pod * 32); 16 R461; reset 0: 1 + what it
  replaces. -/
  replaced : Tab Nat := []
  /-- 16 R464; reset none. Worn parts, oldest first. -/
  worn : List Worn := []
  /-- Per eMRAM sector; 16 R459; reset 0. Reads that needed correction. -/
  mended : Tab Nat := []
  /-- 16 R457; reset valid, sequence number 0, version DESIGN CHOICE 0 (log 8). -/
  imageA : Image := {}
  imageB : Image := {}
  deriving DecidableEq, Repr, Inhabited

/-- The machine. -/
structure State where
  /-- The model's own field (the block's command queue); reset empty. Commands waiting, first in, first out. -/
  pending : List Instr := []
  /-- 01 R29; the clocks and beats. -/
  clk : Clocks := {}
  /-- 02 R49; hub state and supervisor. -/
  hub : Hub := {}
  /-- 02 R39; Shuttle. -/
  sh : Shuttle := {}
  /-- 02 R62; configuration. -/
  cfg : Cfg := {}
  /-- 03 R80; threads. -/
  hed : Heddle := {}
  /-- 04 R118; conversion. -/
  conv : Conv := {}
  /-- 05 R147; filters. -/
  filt : Filt := {}
  /-- 07 R197; the Warp. -/
  warp : Warp := {}
  /-- 09 R255; calibration. -/
  cal : Cal := {}
  /-- 10 R276; the Treadle. -/
  trd : Treadle := {}
  /-- 11 R313; loops and stimulus. -/
  drv : Drive := {}
  /-- 12 R339; Weft. -/
  weft : Weft := {}
  /-- 13 R370; Winnow. -/
  win : Winnow := {}
  /-- 14 R392; integrity. -/
  itg : Integ := {}
  /-- 15 R418; pairing. -/
  pair : Pair := {}
  /-- 16 R450; power and seed bank. -/
  pow : Power := {}
  /-- The model's own field; reset empty. What has left the hub, newest first. -/
  wire : List Emission := []
  /-- The model's own field; reset 0, DESIGN CHOICE (log 9). Counter to which free values are applied. -/
  free : Nat := 0
  deriving DecidableEq, Repr, Inhabited

/-- The hub right after reset: nRESET still low, BOOT, nothing loaded (R455, R456). -/
def State.reset : State :=
  { hub := { nresetLow := true, inReset := true }
    pow := { domains := [(0, { state := 2, good := true, wanted := true })] } }

end Sys2Proof.Machine
end

