-- ==== Sys2Proof/Machine/Params.lean ====
section
/-! DEFINITION. The parameter blocks: sizes, change classes, factory defaults (R62, R63 and the block rules of each
chapter), and the words of a configuration. -/

namespace Sys2Proof.Machine

/-- Words of a block; none for a number that is no block. -/
def blockSize (b : Nat) : Option Nat :=
  if b = 0x0000 then some 4
  else if 0x0100 ≤ b ∧ b ≤ 0x010F then some 66
  else if b = 0x0200 then some 256
  else if b = 0x0201 then some 153
  else if b = 0x0300 then some 256
  else if b = 0x0301 then some 5
  else if 0x0310 ≤ b ∧ b ≤ 0x0317 then some 513
  else if b = 0x0400 then some 16
  else if b = 0x0401 then some 256
  else if b = 0x0500 then some 5
  else if b = 0x0501 then some 2
  else if b = 0x0600 then some 256
  else if b = 0x0601 then some 1024
  else if 0x0610 ≤ b ∧ b ≤ 0x061F then some 129
  else if b = 0x0700 then some 7
  else if b = 0x0800 then some 128
  else if 0x0801 ≤ b ∧ b ≤ 0x0804 then some 209
  else if b = 0x0805 then some 16
  else if 0x0810 ≤ b ∧ b ≤ 0x0817 then some 18
  else if b = 0x0900 then some 224
  else if b = 0x0901 then some 96
  else if b = 0x0902 then some 48
  else if b = 0x0A00 then some 20
  else if 0x0A10 ≤ b ∧ b ≤ 0x0A1F then some 11
  else if b = 0x0B00 then some 18
  else if b = 0x0C00 then some 2
  else if b = 0x0D00 then some 6
  else if b = 0x0E00 then some 3
  else none

/-- Every block, in ascending order. -/
def allBlocks : List Nat :=
  [0x0000] ++ (List.range 16).map (0x0100 + ·) ++ [0x0200, 0x0201, 0x0300, 0x0301]
    ++ (List.range 8).map (0x0310 + ·) ++ [0x0400, 0x0401, 0x0500, 0x0501, 0x0600, 0x0601]
    ++ (List.range 16).map (0x0610 + ·) ++ [0x0700, 0x0800, 0x0801, 0x0802, 0x0803, 0x0804, 0x0805]
    ++ (List.range 8).map (0x0810 + ·) ++ [0x0900, 0x0901, 0x0902, 0x0A00]
    ++ (List.range 16).map (0x0A10 + ·) ++ [0x0B00, 0x0C00, 0x0D00, 0x0E00]

/-- HELD blocks (R63): 0x0000 (R73), 0x0500 (R228), 0x0A00 (R366), 0x0D00 (R446), 0x0E00 (R463). Every other
block is LIVE; none is FIXED. -/
def blockHeld (b : Nat) : Bool := [0x0000, 0x0500, 0x0A00, 0x0D00, 0x0E00].contains b

/-- The 8-byte header of a block (R62, R63): number, word count, revision, change class, reserved. -/
def blockHeader (b : Nat) : Bytes :=
  beBytes 2 b ++ beBytes 2 ((blockSize b).getD 0) ++ [Config.blockRev b, if blockHeld b then 0x02#8 else 0x01#8] ++ zeros 2

/-- Blocks that a pair never mirrors (R421). -/
def blockOwn (b : Nat) : Bool := [0x0000, 0x0500, 0x0501, 0x0A00].contains b

/-- The factory default of a word (R73, R109, R143, R144, R174 to R176, R194, R195, R228, R229, R250 to R252,
R273, R307 to R310, R334 to R336, R366, R367, R388, R415, R446, R463); fields that no default is named for
are 0 (log entry 11). -/
def factory (b o : Nat) : Word :=
  if b = 0x0000 then (if o = 2 then 10#32 else if o = 3 then 0x180#32 else 0#32)
  else if 0x0100 ≤ b ∧ b ≤ 0x010F then (if o = 63 then 0x000A0064#32 else 0#32)
  else if b = 0x0200 then 0x80080100#32
  else if b = 0x0300 then 0x0A000000#32
  else if b = 0x0301 then (if o = 4 then 0x000A0000#32 else 0#32)
  else if 0x0310 ≤ b ∧ b ≤ 0x0317 then (if o = 0 then 64#32 else 0x00020000#32)
  else if b = 0x0400 then (if o = 0 then 0x80000001#32 else if o = 1 then 1024#32 else 0#32)
  else if b = 0x0500 then (if o = 1 then 0#32 else 0x80000000#32)
  else if b = 0x0501 then (if o = 0 then 1000#32 else 10#32)
  else if b = 0x0601 then (if o % 4 = 0 then 0x3F800000#32 else 0#32)
  else if b = 0x0700 then
    (if o = 1 then 0x41200000#32 else if o = 2 then 0x447A0000#32 else if o = 3 then 0x00140505#32
     else if o = 4 then 0x07D00064#32 else if o = 5 then 0x001400C8#32 else if o = 6 then 0x28285F5A#32 else 0#32)
  else if b = 0x0800 then (if o % 4 = 0 then 0x00008000#32 else 0#32)
  else if b = 0x0805 then 50#32
  else if 0x0810 ≤ b ∧ b ≤ 0x0817 then (if o = 5 then 100#32 else if o = 7 then 0xE0#32 else 0#32)
  else if b = 0x0900 then
    (if o % 14 = 0 then 0#32 else if o % 14 = 1 then 0x42480000#32
     else if (o % 14 - 2) % 3 = 0 then 0x00008000#32
     else if (o % 14 - 2) % 3 = 1 then 0x3B83126F#32 else 0#32)
  else if b = 0x0901 then (if o % 6 = 2 then 0x3F800000#32 else 0#32)
  else if b = 0x0902 then (if o % 3 = 0 then 2#32 else if o % 3 = 1 then 512#32 else 0#32)
  else if b = 0x0A00 then
    (if o = 0 ∨ o = 8 then 0x810005DC#32 else if o = 1 then 0xC0A84001#32 else if o = 9 then 0xC0A84101#32
     else if o = 2 ∨ o = 10 then 0xFFFFFF00#32 else if o = 4 ∨ o = 12 then 0x0000D290#32
     else if o = 5 ∨ o = 13 then 20000#32 else 0#32)
  else if 0x0A10 ≤ b ∧ b ≤ 0x0A1F then (if o = 0 then 1#32 else 0#32)
  else if b = 0x0B00 then (if o = 0 then 0x00300000#32 else if o = 1 then 0x01000040#32 else 3#32)
  else if b = 0x0C00 then (if o = 0 then 4#32 else 8#32)
  else if b = 0x0D00 then
    (if o = 0 then 0x40028000#32 else if o = 1 then 0x1E000014#32 else 10#32)
  else if b = 0x0E00 then (if o = 0 then 0x7F#32 else if o = 1 then 0x7C#32 else 0x0064000A#32)
  else 0#32

/-- The key of a word in a parameter memory. -/
def pkey (b o : Nat) : Nat := b * 65536 + o

/-- A word of a configuration. -/
def PMem.word (m : PMem) (b o : Nat) : Word := factory b o ^^^ Tab.get m (pkey b o)

/-- Store a word of a configuration, by key. -/
def PMem.put (m : PMem) (key : Nat) (w : Word) : PMem :=
  Tab.set m key (w ^^^ factory (key / 65536) (key % 65536))

/-- Store several words, in order. -/
def PMem.putAll (m : PMem) (ws : List (Nat × Word)) : PMem := ws.foldl (fun m kw => PMem.put m kw.1 kw.2) m

/-- The keys at which two configurations differ, rising. -/
def PMem.diffKeys (a b : PMem) : List Nat :=
  let ks := a.map (·.1) ++ b.map (·.1)
  let d := ks.filter fun k => Tab.get a k != Tab.get b k
  d.foldl (fun l k => setMem l k true) []

/-- The words that turn configuration a into configuration b. -/
def PMem.changes (a b : PMem) : List (Nat × Word) :=
  (PMem.diffKeys a b).map fun k => (k, PMem.word b (k / 65536) (k % 65536))

/-- The reserved bits of a word. -/
def reservedMask (b o : Nat) : Nat :=
  if b = 0x0000 then [0xFFFFFC00, 0xFFFFFFFE, 0xFFFF0000, 0xFFFFFE00].getD o 0
  else if 0x0100 ≤ b ∧ b ≤ 0x010F then
    (if o < 40 then 0xFFFF0F00 else if o < 56 then 0x1FF else if o < 61 then 0x00FFF000
     else [0x7FFF0000, 0x7FFF0000, 0xFF000000, 0x0FFFFFFF, 0x7FFF0000].getD (o - 61) 0)
  else if b = 0x0200 then 0x1C000000
  else if b = 0x0201 then
    (if o < 16 then 0xFFFF0000 else if o = 16 then 0x7F00FFF0 else if (o - 17) % 17 = 0 then 0x0E000000 else 0xFFFF70C0)
  else if b = 0x0300 then 0x003FFFFF
  else if b = 0x0301 then (if o < 4 then 0x7FFFFFFF else 0x3F00FF00)
  else if 0x0310 ≤ b ∧ b ≤ 0x0317 then (if o = 0 then 0xFFFFFC00 else 0xFF000000)
  else if b = 0x0400 then (if o % 2 = 0 then 0x7FFFFFFC else 0xFFF80000)
  else if b = 0x0401 then 0x18000000
  else if b = 0x0500 then (if o = 0 then 0x1FFFFF00 else 0x7C000000)
  else if b = 0x0501 then (if o = 0 then 0x7FF00000 else 0xFFFFFF80)
  else if b = 0x0600 then 0x00000FFF
  else if 0x0610 ≤ b ∧ b ≤ 0x061F then (if o = 0 then 0xFF00 else 0)
  else if b = 0x0700 then (if o = 0 then 0x07FF0000 else if o = 3 then 0xFF000000 else 0)
  else if b = 0x0800 then (if o % 4 = 0 then 0x07FF0000 else 0)
  else if 0x0801 ≤ b ∧ b ≤ 0x0804 then
    (if o = 0 then 0x1FF000FF
     else if o < 9 then (if o % 2 = 1 then 0x00FFFFFF else 0)
     else if o < 17 then 0
     else [0x1F0, 0x3, 0xFFFFFF00].getD ((o - 17) % 3) 0)
  else if b = 0x0805 then 0x3FFF0000
  else if 0x0810 ≤ b ∧ b ≤ 0x0817 then
    (if o = 0 then 0x00FF0000 else if o = 4 then 0xFF000000 else if o = 5 then 0xFFFF0000
     else if o = 7 then 0xFFFFFF00 else 0)
  else if b = 0x0900 then
    (if o % 14 = 0 then 0x0F03FFFF else if 2 ≤ o % 14 ∧ (o % 14 - 2) % 3 = 0 then 0x30030000 else 0)
  else if b = 0x0901 then (if o % 6 = 0 then 0x3F else if o % 6 = 5 then 0xFFFFFF00 else 0)
  else if b = 0x0902 then [0x3FF80000, 0xFE000000, 0xFFFF0000].getD (o % 3) 0
  else if b = 0x0A00 then
    (if o < 16 then [0x00FFC000, 0, 0, 0, 0xF000000F, 0xFFF00000, 0x00FFFFFF, 0].getD (o % 8) 0
     else [0, 0xFFFF0000, 0, 0xFFFC0000].getD (o - 16) 0)
  else if 0x0A10 ≤ b ∧ b ≤ 0x0A1F then (if o = 0 then 0x071F0000 else if o = 2 then 0xFFFF0000 else 0)
  else if b = 0x0B00 then (if o = 0 then 0x008CFFFF else if o = 1 then 0 else 0xFFFFFFC8)
  else if b = 0x0C00 then (if o = 0 then 0xFFFF0000 else 0xFFFFFF00)
  else if b = 0x0D00 then (if o = 0 then 0x3C003C00 else if o = 1 then 0x00FFFF00 else 0x70C0C000)
  else if b = 0x0E00 then [0xFFFFFF80, 0xFFFFFF83, 0x0000FF00].getD o 0
  else 0

/-- A word as the host reads it: reserved fields read as 0 (R9). -/
def PMem.shown (m : PMem) (b o : Nat) : Word := m.word b o &&& ~~~(BitVec.ofNat 32 (reservedMask b o))

/-! ### Fields, by the chapter that maps them -/

def PMem.hubIdF (m : PMem) : Nat := fld (m.word 0 0) 9 0
def PMem.autostart (m : PMem) : Bool := bitAt (m.word 0 1) 0
def PMem.claimIdle (m : PMem) : Nat := fld (m.word 0 2) 15 0
def PMem.spiEn (m : PMem) : Bool := bitAt (m.word 0 3) 8
def PMem.spiReserve (m : PMem) (mb : Nat) : Bool := bitAt (m.word 0 3) mb && decide (mb < 8)

/-- Thread word (R110), slot word (R111), source word (R112), controller word (R113). -/
def PMem.thread (m : PMem) (pod tt : Nat) : Word := m.word (0x0100 + pod) tt
def PMem.slot (m : PMem) (ch : Nat) : Word := m.word (0x0100 + ch / 16) (40 + ch % 16)
def PMem.ix (m : PMem) (pod n : Nat) : Word := m.word (0x0100 + pod) (56 + n)
def PMem.vx (m : PMem) (pod n : Nat) : Word := m.word (0x0100 + pod) (61 + n)
def role (w : Word) : Nat := fld w 3 0
def source (w : Word) : Nat := fld w 7 4
def tapEn (w : Word) : Bool := bitAt w 15
def tapBus (w : Word) : Nat := fld w 14 12
def slotEn (w : Word) : Bool := bitAt w 31
def slotRange (w : Word) : Nat := fld w 30 28
def slotLw (w : Word) : Bool := bitAt w 27
def slotXpod (w : Word) : Bool := bitAt w 26
def slotP (w : Word) : Nat := fld w 25 20
def slotN (w : Word) : Nat := fld w 19 14
def slotExc (w : Word) : Nat := fld w 13 10
def slotNbias (w : Word) : Bool := bitAt w 9
def ixEn (w : Word) : Bool := bitAt w 31
def ixReverse (w : Word) : Bool := bitAt w 30
def ixSwap (w : Word) : Bool := bitAt w 29
def ixPartner (w : Word) : Nat := fld w 28 26
def ixTh (w : Word) : Nat := fld w 25 24
def ixCode (w : Word) : Nat := fld w 11 0
def PMem.chanOn (m : PMem) (ch : Nat) : Bool := slotEn (m.slot ch)

/-- Conversion word (R143). -/
def PMem.conv (m : PMem) (ch : Nat) : Word := m.word 0x0200 ch
def PMem.order (m : PMem) (ch : Nat) : Nat := fld (m.conv ch) 31 29
def PMem.dec (m : PMem) (ch : Nat) : Nat := fld (m.conv ch) 12 0
def PMem.reedDec (m : PMem) (ch : Nat) : Nat := fld (m.conv ch) 25 13

/-- Filter word (R174). -/
def PMem.filt (m : PMem) (ch : Nat) : Word := m.word 0x0300 ch
def PMem.firByp (m : PMem) (ch : Nat) : Bool := bitAt (m.filt ch) 31
def PMem.notch (m : PMem) (ch : Nat) : Nat := fld (m.filt ch) 30 29
def PMem.notchBw (m : PMem) (ch : Nat) : Nat := fld (m.filt ch) 28 26
def PMem.h3 (m : PMem) (ch : Nat) : Bool := bitAt (m.filt ch) 25
def PMem.fadeLen (m : PMem) (ch : Nat) : Nat := 16 * 2 ^ fld (m.filt ch) 24 22

/-- Engine words (R175) and Reed banks (R176). -/
def PMem.liveBank (m : PMem) (die : Nat) : Nat := fld (m.word 0x0301 die) 31 31
def PMem.mains (m : PMem) : Word := m.word 0x0301 4
def PMem.bankNT (m : PMem) (die bank : Nat) : Nat := fld (m.word (0x0310 + 2 * die + bank) 0) 9 0
def PMem.bankCoef (m : PMem) (die bank i : Nat) : Int :=
  signedOf 24 (fld (m.word (0x0310 + 2 * die + bank) (i + 1)) 23 0)

/-- Rate groups (R194) and timing words (R195). -/
def PMem.groupEn (m : PMem) (g : Nat) : Bool := bitAt (m.word 0x0400 (2 * g)) 31
def PMem.cycle (m : PMem) (g : Nat) : Nat := fld (m.word 0x0400 (2 * g)) 1 0
def PMem.count (m : PMem) (g : Nat) : Nat := fld (m.word 0x0400 (2 * g + 1)) 18 0
def PMem.group (m : PMem) (ch : Nat) : Nat := fld (m.word 0x0401 ch) 31 29
def PMem.phase (m : PMem) (ch : Nat) : Nat := fld (m.word 0x0401 ch) 26 0

/-- Warp (R228, R229). -/
def PMem.isRoot (m : PMem) : Bool := bitAt (m.word 0x0500 0) 31
def PMem.timeSrc (m : PMem) : Nat := fld (m.word 0x0500 0) 30 29
def PMem.domain (m : PMem) : Nat := fld (m.word 0x0500 0) 7 0
def PMem.wportEn (m : PMem) (p : Nat) : Bool := bitAt (m.word 0x0500 (1 + p)) 31
def PMem.idOffset (m : PMem) (p : Nat) : Nat := fld (m.word 0x0500 (1 + p)) 25 16
def PMem.asym (m : PMem) (p : Nat) : Int := signedOf 16 (fld (m.word 0x0500 (1 + p)) 15 0)
def PMem.stepRun (m : PMem) : Bool := bitAt (m.word 0x0501 0) 31
def PMem.stepLimit (m : PMem) : Nat := fld (m.word 0x0501 0) 19 0
def PMem.slewMax (m : PMem) : Nat := fld (m.word 0x0501 1) 6 0

/-- Linearisation (R250 to R252). -/
def PMem.lin (m : PMem) (ch : Nat) : Word := m.word 0x0600 ch
def PMem.curve (m : PMem) (ch : Nat) : Nat := fld (m.lin ch) 31 26
def PMem.cjMode (m : PMem) (ch : Nat) : Nat := fld (m.lin ch) 25 24
def PMem.cjCh (m : PMem) (ch : Nat) : Nat := fld (m.lin ch) 23 16
def PMem.setNo (m : PMem) (ch : Nat) : Nat := fld (m.lin ch) 15 12
def PMem.gain (m : PMem) (ch : Nat) : Word := m.word 0x0601 (4 * ch)
def PMem.offset (m : PMem) (ch : Nat) : Word := m.word 0x0601 (4 * ch + 1)
def PMem.cjFixed (m : PMem) (ch : Nat) : Word := m.word 0x0601 (4 * ch + 2)
def PMem.aux (m : PMem) (ch : Nat) : Word := m.word 0x0601 (4 * ch + 3)
def PMem.setKind (m : PMem) (k : Nat) : Nat := fld (m.word (0x0610 + k) 0) 31 24
def PMem.setInput (m : PMem) (k : Nat) : Nat := fld (m.word (0x0610 + k) 0) 23 16
def PMem.setCount (m : PMem) (k : Nat) : Nat := fld (m.word (0x0610 + k) 0) 7 0
def PMem.setWord (m : PMem) (k i : Nat) : Word := m.word (0x0610 + k) i

/-- Treadle (R307 to R310). -/
def PMem.comp (m : PMem) (c i : Nat) : Word := m.word 0x0800 (4 * c + i)
def PMem.seqHead (m : PMem) (q : Nat) : Word := m.word (0x0801 + q) 0
def PMem.clkGroup (m : PMem) (q : Nat) : Nat := fld (m.seqHead q) 31 29
def PMem.cntSrc (m : PMem) (q k : Nat) : Nat := fld (m.word (0x0801 + q) (1 + 2 * k)) 31 24
def PMem.cntCmp (m : PMem) (q k : Nat) : Nat := (m.word (0x0801 + q) (2 + 2 * k)).toNat
def PMem.timerDur (m : PMem) (q k : Nat) : Nat :=
  (m.word (0x0801 + q) (9 + 2 * k)).toNat * 2 ^ 32 + (m.word (0x0801 + q) (10 + 2 * k)).toNat
def PMem.trans (m : PMem) (q st i part : Nat) : Word := m.word (0x0801 + q) (17 + 12 * st + 3 * i + part)
def PMem.tio (m : PMem) (p : Nat) : Word := m.word 0x0805 p
def PMem.bob (m : PMem) (b o : Nat) : Word := m.word (0x0810 + b) o
def PMem.bobEn (m : PMem) (b : Nat) : Bool := bitAt (m.bob b 0) 31
def PMem.bobGroup (m : PMem) (b : Nat) : Nat := fld (m.bob b 0) 28 26
def PMem.bobTap (m : PMem) (b : Nat) : Nat := fld (m.bob b 0) 30 29
def PMem.bobHas (m : PMem) (b ch : Nat) : Bool := bitAt (m.bob b (10 + ch / 32)) (ch % 32)
/-- The channels of a bobbin, ascending. -/
def PMem.bobChans (m : PMem) (b : Nat) : List Nat := (List.range 256).filter (m.bobHas b)
/-- The measurement code at position k, and the non-zero codes in position order (R302). -/
def PMem.measAt (m : PMem) (b k : Nat) : Nat := fld (m.bob b 6) (31 - 4 * k) (28 - 4 * k)
def PMem.measCodes (m : PMem) (b : Nat) : List Nat :=
  ((List.range 8).map (m.measAt b)).filter (· ≠ 0)

/-- Loops, stimulus, tables (R334 to R336). -/
def PMem.loopW (m : PMem) (n o : Nat) : Word := m.word 0x0900 (14 * n + o)
def PMem.loopSlot (m : PMem) (n sl o : Nat) : Word := m.word 0x0900 (14 * n + 2 + 3 * sl + o)
def PMem.stimW (m : PMem) (p o : Nat) : Word := m.word 0x0901 (6 * p + o)
def PMem.tableW (m : PMem) (t o : Nat) : Word := m.word 0x0902 (3 * t + o)
def PMem.tableEn (m : PMem) (t : Nat) : Bool := bitAt (m.tableW t 0) 31
def PMem.tableSize (m : PMem) (t : Nat) : Nat := fld (m.tableW t 0) 18 0

/-- Weft (R366, R367), Winnow (R388), pairing (R446), power (R463). -/
def PMem.portW (m : PMem) (p o : Nat) : Word := m.word 0x0A00 (8 * p + o)
def PMem.portEn (m : PMem) (p : Nat) : Bool := bitAt (m.portW p 0) 31
def PMem.portMode (m : PMem) (p : Nat) : Nat := fld (m.portW p 0) 30 30
def PMem.mtu (m : PMem) (p : Nat) : Nat := fld (m.portW p 0) 13 0
def PMem.streamW (m : PMem) (k o : Nat) : Word := m.word (0x0A10 + k) o
def PMem.streamEn (m : PMem) (k : Nat) : Bool := bitAt (m.streamW k 0) 31
def PMem.streamPorts (m : PMem) (k : Nat) : List Nat := bitsOf 2 (fld (m.streamW k 0) 29 28)
def PMem.streamGroup (m : PMem) (k : Nat) : Nat := fld (m.streamW k 0) 23 21
def PMem.frameSamples (m : PMem) (k : Nat) : Nat := fld (m.streamW k 0) 15 0
def PMem.streamMask (m : PMem) (k sec : Nat) : Word := m.streamW k (3 + sec)
def PMem.streamHas (m : PMem) (k ch : Nat) : Bool := bitAt (m.streamMask k (ch / 32)) (ch % 32)
/-- The channels of a section of a stream, ascending. -/
def PMem.secChans (m : PMem) (k sec : Nat) : List Nat :=
  ((List.range 32).map (32 * sec + ·)).filter (m.streamHas k)
def PMem.recPorts (m : PMem) : List Nat := bitsOf 2 (fld (m.word 0x0A00 19) 17 16)
def PMem.pairEn (m : PMem) : Bool := bitAt (m.word 0x0D00 0) 31
def PMem.pairId (m : PMem) : Nat := fld (m.word 0x0D00 0) 9 0
def PMem.restartLimit (m : PMem) : Nat := fld (m.word 0x0E00 2) 31 16
def PMem.ixDev (m : PMem) : Nat := fld (m.word 0x0E00 2) 7 0
def PMem.autoKind (m : PMem) (kind : Nat) : Bool := bitAt (m.word 0x0E00 1) kind && decide (2 ≤ kind ∧ kind ≤ 6)

end Sys2Proof.Machine
end

