-- ==== Sys2Proof/Machine/Time.lean ====
section
/-! DEFINITION. Loom time, beats and modulator clocks (R15, R29, R31, R200). -/

namespace Sys2Proof.Machine

/-- Loom time of beat boundary n (R29): the smallest whole number at or above m * 2^32 / 1000 in its second. -/
def beatTime (n : Nat) : Nat := n / 1000 * 2 ^ 32 + ceilDiv (n % 1000 * 2 ^ 32) 1000

/-- The beat that loom time t lies in: the last boundary at or before t. -/
def beatAt (t : Nat) : Nat := t / 2 ^ 32 * 1000 + t % 2 ^ 32 * 1000 / 2 ^ 32

/-- The first beat whose boundary lies at or after loom time t. -/
def firstBeatFrom (t : Nat) : Nat := if t ≤ beatTime (beatAt t) then beatAt t else beatAt t + 1

/-- n microseconds, and n nanoseconds, in whole loom units at or above. -/
def usLoom (n : Nat) : Nat := ceilDiv (n * 2 ^ 32) 1000000
def nsLoom (n : Nat) : Nat := ceilDiv (n * 2 ^ 32) 1000000000
/-- n seconds in loom units. -/
def secLoom (n : Nat) : Nat := n * 2 ^ 32

/-- A stretch of loom time in whole microseconds, rounded down. -/
def loomUs (d : Nat) : Nat := d * 1000000 / 2 ^ 32

/-- The beat at which a change staged at loom time t takes effect (R31), where the highest boundary taken lies at
loom time b: no boundary up to that one occurs again (R37). -/
def dueBeat (t b : Nat) : Nat := max (firstBeatFrom (t + usLoom 200)) (beatAt b + 1)

/-- The beat at which a change that this state finishes staging takes effect. -/
def State.due (s : State) : Nat := dueBeat s.clk.loom s.clk.boundary

/-- Fine time: 3125 fine units to the loom unit, so that one modulator clock (R200) is 2^19 of them. -/
def fineOf (t : Nat) : Nat := t * 3125
def fineClock : Nat := 2 ^ 19

/-- The first modulator clock of loom time (R119) at or after a fine instant; fine instant of a modulator clock. -/
def clockFrom (fine : Nat) : Nat := ceilDiv fine fineClock
def clockFine (c : Nat) : Nat := c * fineClock
/-- Loom time of a fine instant, rounded up. -/
def loomOf (fine : Nat) : Nat := ceilDiv fine 3125
/-- The first modulator clock at or after c that is a whole multiple of d counted from the epoch (R125, R129, R162). -/
def multFrom (epoch c d : Nat) : Nat := epoch + ceilDiv (c - epoch) d * d

/-- The instant that a 64-bit loom time names (R15), seen from loom time now: loom time wraps after 2^32 s, and the
instant is the one of those 2^32 s that lie around now (log entry 78). -/
def nearInstant (now w : Nat) : Nat := (now - 2 ^ 63) + (w + 2 ^ 64 - (now - 2 ^ 63) % 2 ^ 64) % 2 ^ 64

/-- The instant that a 64-bit loom time names for this hub. -/
def State.instant (s : State) (w : Nat) : Nat := nearInstant s.clk.loom w

/-- Loom time moves on to the instant at which a command happens; it never goes back here (log entry 2). -/
def tick (t : Nat) (s : State) : State :=
  { s with clk := { s.clk with loom := max s.clk.loom (s.instant t) } }

end Sys2Proof.Machine
end

