-- ==== Sys2Proof/Machine/Ops.lean ====
section
/-! DEFINITION. The shared operations: the form of every meaning, the event log (R77), notices and alarms
(R76, R352 to R354), responses (R45 to R51), jobs (R55), staged changes (R31, R429, R500), and the run of a
Shuttle command (R39, R50, R58 to R61). -/

namespace Sys2Proof.Machine

open Sys2Proof

/-- The form of every meaning: the effect f happens at loom time t, and the queue stays as it is. -/
def act (t : Nat) (s : State) (f : State → State) : Host.Outcome State Fault Refusal :=
  .next { f (tick t s) with pending := s.pending }

/-! ### Codes -/

/-- Hub state code (R49). -/
def stateCode : HubState → Nat
  | .boot => 0 | .config => 1 | .ready => 2 | .run => 3 | .service => 4 | .fault => 5 | .safe => 6

/-- Pair role code (R49). -/
def roleCode : Role → Nat
  | .solo => 0 | .active => 1 | .standby => 2

/-- The STATE byte (R49). -/
def State.stateByte (s : State) : Nat := stateCode s.hub.state * 16 + roleCode s.hub.role

/-- The hub ID in responses (R45); 0xFFFF while none is held (R10, log entry 13). -/
def State.hubIdOut (s : State) : Nat := s.hub.hubId.getD 0xFFFF

/-- The hub ID in Weft, record and notice frames (R348): PAIR_ID for a hub of a pair (R420). -/
def State.weftHub (s : State) : Nat :=
  if s.cfg.active.pairEn && !s.pair.detached then s.cfg.active.pairId else s.hubIdOut

/-- Hub states from CONFIG to FAULT: where reads are legal (R59). -/
def stRead : HubState → Bool
  | .config | .ready | .run | .service | .fault => true
  | _ => false

/-- CONFIG, READY, RUN, SERVICE: where staging commands are legal (R59). -/
def stStage : HubState → Bool
  | .config | .ready | .run | .service => true
  | _ => false

/-- READY, RUN, SERVICE. -/
def stLive : HubState → Bool
  | .ready | .run | .service => true
  | _ => false

/-- CONFIG, READY, SERVICE. -/
def stHeld : HubState → Bool
  | .config | .ready | .service => true
  | _ => false

/-- States in which sampling and filters run (R56), SAFE apart. -/
def stSampling : HubState → Bool
  | .ready | .run | .service | .fault => true
  | _ => false

/-- Sampling and filters run, and roles and taps are applied (R56, R97): in SAFE as it was on entry. -/
def State.running (s : State) : Bool := stSampling (if s.hub.state = .safe then s.hub.safeFrom else s.hub.state)

/-! ### Free values -/

/-- Take the next free value: the counter advances. -/
def nextFree (s : State) : Nat × State := (s.free, { s with free := s.free + 1 })

/-! ### Crossings (R407 to R412) -/

/-- Change a crossing. -/
def crossUpd (x : Nat) (f : Crossing → Crossing) (s : State) : State :=
  { s with itg := { s.itg with crossings := s.itg.crossings.upd x f } }

/-- A crossing holds its data, its receiving clock being stopped (R410). -/
def State.crossHolds (s : State) (x : Nat) : Bool := (s.itg.crossings.get x).holds

/-- A word joins a queue that holds its data, behind those of its own stream, of which it has room for a number; a
further one is dropped and counted (R409, R410). -/
def Crossing.enqueue (room : Nat) (stream : Held → Bool) (i : Held) (c : Crossing) : Crossing :=
  if (c.held.filter stream).length < room then { c with held := c.held ++ [i] } else { c with dropped := inc16 c.dropped }

/-- How long the acknowledge phase of a handshake lasts, in units of 2^-32 s (R26, R407, R408): 2 to 3 cycles of the
receiving clock and 2 to 3 of the source's, LCLK at crossing 9 and KCLK at crossing 11; a free value within for each
loom time. -/
def ackLoom (x now : Nat) : Nat := if x = 9 then 65 + Config.ackTime now % 32 else 299 + Config.ackTime now % 190

/-- The handshake's acknowledge has completed by now (R408): its pending bit launches one event, whose acknowledge
runs from there. -/
def Shake.settle (lat now : Nat) (h : Shake) : Shake :=
  match h.ackAt with
  | some a =>
    if a ≤ now then
      (if h.pend ∧ now < a + lat then { ackAt := some (a + lat), pend := false } else {})
    else h
  | none => h

/-- An event arrives at a handshake of a crossing (R408, R410): carried at once, or it sets the pending bit, or it
merges. While the receiving clock is stopped no acknowledge completes. -/
def shakeEvent (x src : Nat) (s : State) : State :=
  let now := s.clk.loom
  let lat := ackLoom x now
  crossUpd x (fun c =>
    let h := if c.holds then c.shakes.get src else (c.shakes.get src).settle lat now
    match h.ackAt with
    | none => { c with shakes := c.shakes.set src { ackAt := some (now + lat) } }
    | some _ =>
      if h.pend then { c with shakes := c.shakes.set src h, merged := inc16 c.merged }
      else { c with shakes := c.shakes.set src { h with pend := true } }) s

/-- Sources of notifications to the supervisor at crossing 9 (R409): a bobbin's records 0 to 7, alarm conditions that
arise under LCLK 8, jobs 9 (log entry 123). -/
def notifyAlarm : Nat := 8
def notifyJob : Nat := 9

/-! ### Events, notices, alarms -/

/-- The event log at a loom time in a beat (R456): a BOOT that XI holds up has logged 0x0408 each second. -/
def Shuttle.caughtUp (x : Shuttle) (now beat : Nat) : Shuttle :=
  match x.xiFrom with
  | none => x
  | some last =>
    let n := (now - last) / 2 ^ 32
    { x with
      log := (List.replicate n ({ beat, reason := 0x0408, source := 0, detail := 0 } : Event) ++ x.log).take 4096
      nextEvent := (x.nextEvent + n) % 2 ^ 32, xiFrom := some (last + n * 2 ^ 32) }

/-- The log catches up with a BOOT that XI holds up. -/
def logXi (s : State) : State :=
  let x := s.sh.caughtUp s.clk.loom s.clk.beat
  { s with sh := { s.sh with log := x.log, nextEvent := x.nextEvent, xiFrom := x.xiFrom } }

/-- XI holds BOOT up no longer. -/
def endXi (s : State) : State :=
  let s := logXi s
  { s with sh := { s.sh with xiFrom := none } }

/-- Log an event (R77): the ring keeps the 4,096 newest. -/
def logEvent (reason source detail : Nat) (s : State) : State :=
  let x := s.sh.caughtUp s.clk.loom s.clk.beat
  { s with sh := { s.sh with
      log := ({ beat := s.clk.beat, reason, source, detail } :: x.log).take 4096
      nextEvent := next32 x.nextEvent, xiFrom := x.xiFrom } }

/-- A host port is up (R339). -/
def State.portUp (s : State) (p : Nat) : Bool := (s.weft.ports.get p).link && s.cfg.active.portEn p

/-- A port takes notices: the hub has left BOOT and is no standby, the port is up and has NOTICE_EN set, and NOTICE_IP
and NOTICE_PORT are not 0 (R354, R432). -/
def State.noticePort (s : State) (p : Nat) : Bool :=
  s.portUp p && s.hub.state != .boot && s.hub.role != .standby && !s.hub.inReset && bitAt (s.cfg.active.portW p 0) 24
    && s.cfg.active.word 0x0A00 16 != 0#32 && fld (s.cfg.active.word 0x0A00 17) 15 0 != 0

/-- A frame received waits at crossing 6 while LCLK is stopped (R409, R410): what the queue has no room for is
discarded and counted as under R340. -/
def holdFrame (port : Nat) (i : Instr) (s : State) : State :=
  if (s.itg.crossings.get 6).held.length < Config.rxDepth then crossUpd 6 (fun c => { c with held := c.held ++ [.row i] }) s
  else { s with weft := { s.weft with ports := s.weft.ports.upd port fun h => { h with discarded := inc32 h.discarded } } }

/-- A frame that a host port receives (R409): it passes crossing 6, or waits there. -/
def received (t port : Nat) (i : Instr) (s : State) (f : State → State) : Host.Outcome State Fault Refusal :=
  act t s fun s => if s.crossHolds 6 && s.portUp port && !s.hub.inReset then holdFrame port i s else f s

/-- A Weft header (R348). -/
def weftHeader (format hub flow seq loom period mask flags sec count : Nat) : Bytes :=
  [0x57#8, 0x46#8, 0x01#8] ++ beBytes 1 format ++ beBytes 2 hub ++ beBytes 2 flow ++ beBytes 4 seq ++ beBytes 8 loom
    ++ beBytes 4 period ++ beBytes 4 mask ++ beBytes 1 flags ++ beBytes 1 sec ++ beBytes 2 count

/-- A notice as 24 bytes (R353). -/
def noticeBytes (n : Notice) : Bytes :=
  beBytes 1 n.typ ++ beBytes 1 n.b1 ++ beBytes 2 n.b23 ++ beBytes 8 n.loom ++ n.tail

/-- The notice frame of some notices in a row (R348, R352, R363). -/
def noticeFrame (s : State) (first : Nat) (ns : List Notice) : Bytes :=
  let b := weftHeader 4 s.weftHub 0xFFFF first s.clk.loom 0 0 0 0 ns.length ++ ns.flatMap noticeBytes
  b ++ beWord (crc32c b)

/-- A frame takes a token of the shaper (R363): a full one gains its next token from now on. -/
def HPort.useToken (now : Nat) (h : HPort) : HPort :=
  { h with tokensUsed := h.tokensUsed + 1, tokenAt := if h.tokensUsed = 0 then now else h.tokenAt }

/-- The running value that a check unit ends with (R394, R395). -/
def unitHolds (u : Nat) (v : Nat) (s : State) : State :=
  { s with itg := { s.itg with units := s.itg.units.set u v } }

/-- A check unit has appended or checked the CRC-32C that ends a message: its running value is that of the bytes
before (R393 to R395). -/
def unitChecks (u : Nat) (m : Bytes) (s : State) : State :=
  unitHolds u (crc32Run 0xFFFFFFFF#32 (m.take (m.length - 4))).toNat s

/-- A port takes its waiting notices, the oldest of those kept first, up to 6, into a frame for one token of its shaper
(R352, R363), whose trailer check unit 1 forms (R395); late counts frames that waited for a token (R364). -/
def formNotice (late : Bool) (p : Nat) (s : State) : State :=
  let h := s.weft.ports.get p
  let waiting := min (diff32 s.weft.nextNotice h.noticeFrom) s.weft.notices.length
  if waiting = 0 ∨ h.tokensUsed ≥ 4 ∨ s.noticePort p = false then s
  else
    let first := diff32 s.weft.nextNotice waiting
    let ns := ((s.weft.notices.take waiting).reverse).take 6
    let f := noticeFrame s first ns
    unitChecks 1 f { s with weft := { s.weft with ports := s.weft.ports.upd p fun h => { h.useToken s.clk.loom with
        noticeFrom := (first + ns.length) % 2 ^ 32, tc0 := h.tc0 ++ [.notice f]
        tc0Late := if late then inc32 h.tc0Late else h.tc0Late } } }

/-- Raise a notice (R352, R354, R363): numbered and kept, the 1,024 newest; each port that takes notices forms its
frame at once where its shaper holds a token, and a port that takes none passes over it. -/
def addNotice (n : Notice) (s : State) : State :=
  let nx := next32 s.weft.nextNotice
  let skip := fun (p : Nat) (ps : Tab HPort) =>
    if s.noticePort p then ps else ps.upd p fun h => { h with noticeFrom := nx }
  formNotice false 1 (formNotice false 0 { s with weft := { s.weft with
      notices := (n :: s.weft.notices).take 1024
      nextNotice := nx
      ports := skip 1 (skip 0 s.weft.ports) } })

/-- An alarm notice (R353): onset 0x03 or cleared 0x04. -/
def alarmNotice (onset : Bool) (code part reason : Nat) (s : State) : State :=
  addNotice { typ := if onset then 3 else 4, b1 := code, b23 := part, loom := s.clk.loom,
              tail := beBytes 2 reason ++ zeros 10 } s

/-- The event of an alarm's onset (R77). -/
def alarmEvent (code part reason : Nat) (s : State) : State :=
  logEvent reason 0 (code % 256 * 65536 + part % 65536) s

/-- The condition of an alarm summary bit starts or ends (R76, R354). The onset is logged unless the event has a row
of its own in R77. -/
def setAlarm (bit : Nat) (on logged : Bool) (part reason : Nat) (s : State) : State :=
  if s.sh.alarms.contains bit = on then s
  else
    let s := { s with sh := { s.sh with alarms := setMem s.sh.alarms bit on } }
    let s := alarmNotice on bit part reason (if [0, 1, 4, 5].contains bit then shakeEvent 9 notifyAlarm s else s)
    if on && logged then alarmEvent bit part reason s else s

/-! ### Mailboxes and responses -/

/-- Change a mailbox. -/
def mailUpd (mb : Nat) (f : Mailbox → Mailbox) (s : State) : State :=
  { s with sh := { s.sh with mail := s.sh.mail.upd mb f } }

/-- Some mailbox claimed by SPI holds an unread response (R41). -/
def Shuttle.irqDue (x : Shuttle) : Bool :=
  (List.range 8).any fun n => decide ((x.mail.get n).claim = some .spi) && (x.mail.get n).unread.isSome

/-- SPI_nIRQ is low while a mailbox claimed by SPI holds an unread response (R41). -/
def irq (s : State) : State := { s with sh := { s.sh with nIrqLow := s.sh.irqDue } }

/-- Count in a counter of R78. -/
def count78 (i : Nat) (s : State) : State :=
  { s with sh := { s.sh with counters := s.sh.counters.upd i inc16 } }

/-- A check unit rejects a frame or message (R393). -/
def unitMismatch (u : Nat) (s : State) : State :=
  { s with itg := { s.itg with mismatches := s.itg.mismatches.upd u inc16 } }

/-- The bytes of a response (R45), with RPT when it is sent again (R48, R51). -/
def respBytes (r : Response) (mb : Nat) (rpt : Bool) : Bytes :=
  withCrc (beBytes 1 (r.alive % 16 * 16 + 8 + mb % 8) ++ [0x04#8] ++ beBytes 2 r.cmd
    ++ beBytes 2 r.payload.length ++ beBytes 2 r.hub ++ beBytes 4 r.seq
    ++ beBytes 1 (r.status + (if rpt then 128 else 0)) ++ beBytes 1 r.state ++ beBytes 2 r.reason ++ r.payload)

/-- The UDP port of the mailboxes (R40): requests go to it, and responses come from it. -/
def shuttlePort : Nat := 47100

/-- A response leaves for its requester (R40, R41): over UDP in TC2 on the port where the request arrived, from port
47100; over SPI it waits unread in its mailbox. Check unit 2 forms the check value of one over UDP (R395). -/
def deliver (src : Requester) (port mb : Nat) (bytes : Bytes) (s : State) : State :=
  match src with
  | .udp ip u => unitChecks 2 bytes { s with weft := { s.weft with ports := s.weft.ports.upd port fun h =>
      { h with tc2 := h.tc2 ++ [.udp ip u shuttlePort bytes] } } }
  | .spi => irq (mailUpd mb (fun m => { m with unread := some bytes }) s)

/-- The response of this hub to a request, in its present state. -/
def mkResponse (rq : Req) (status reason : Nat) (payload : Bytes) (s : State) : Response :=
  { cmd := rq.cmd, seq := rq.seq, alive := rq.alive, status, reason, state := s.stateByte, hub := s.hubIdOut, payload }

/-- Answer a request that was not taken (R50): the record stays as it is (R52). -/
def answer (rq : Req) (status reason : Nat) (payload : Bytes) (s : State) : State :=
  deliver rq.src rq.port rq.mb (respBytes (mkResponse rq status reason payload s) rq.mb false) s

/-- End a taken request with its response: the response becomes the mailbox's record (R51) unless the claim has ended
meanwhile (R44), and leaves. -/
def finish (rq : Req) (status reason : Nat) (payload : Bytes) (s : State) : State :=
  let r := mkResponse rq status reason payload s
  let s := mailUpd rq.mb (fun m =>
    if m.busy then { m with busy := false, resp := some r } else m) s
  deliver rq.src rq.port rq.mb (respBytes r rq.mb false) s

/-- The locator of a refusal (R48): block, word offset, index (0xFFFF if none); a locator's block and offset are 0
where the refusal concerns none (log entry 14). -/
structure Locator where
  block : Nat := 0
  off : Nat := 0
  idx : Nat := 0xFFFF
  deriving DecidableEq, Repr, Inhabited

/-- What a command's body answers (R48). -/
inductive Reply where
  | done (payload : Bytes)
  | doneReason (reason : Nat) (payload : Bytes)
  | staged (beat : Nat) (payload : Bytes)
  | stagedReason (reason beat : Nat) (payload : Bytes)
  | deferred (job : Nat)
  | running (job : Nat) (payload : Bytes)
  | refused (reason : Nat) (at_ : Locator)
  /-- The response follows later, when the request's own work ends (R134, R146). -/
  | later
  deriving DecidableEq, Repr, Inhabited

/-- Refuse with a reason and no particular place. -/
def Reply.no (reason : Nat) : Reply := .refused reason {}
/-- Refuse, naming an index. -/
def Reply.noAt (reason idx : Nat) : Reply := .refused reason { idx }

/-- The detail of events that name a request (R77). -/
def reqDetail (mb seq : Nat) : Nat := mb % 8 * 2 ^ 29 + seq % 2 ^ 29

/-- Send what a body answered; a refusal of a taken request is logged (R77). -/
def reply (rq : Req) (r : Reply) (s : State) : State :=
  match r with
  | .done p => finish rq 0 0 p s
  | .doneReason e p => finish rq 0 e p s
  | .staged b p => finish rq 1 0 (beBytes 8 b ++ p) s
  | .stagedReason e b p => finish rq 1 e (beBytes 8 b ++ p) s
  | .deferred j => finish rq 2 0 (beBytes 2 j) s
  | .running j p => finish rq 3 0 (beBytes 2 j ++ p) s
  | .refused e l =>
    finish rq 4 e (beBytes 2 l.block ++ beBytes 2 l.off ++ beBytes 2 l.idx ++ zeros 2)
      (logEvent e rq.cmd (reqDetail rq.mb rq.seq) s)
  | .later => s

/-- A mailbox takes a request (R43, R50, R51): the claim, the record and the loom time of R44. In SAFE none is taken
(R61). -/
def takeReq (rq : Req) (s : State) : State :=
  if s.hub.state = .safe then s
  else irq (mailUpd rq.mb (fun m => { m with
    claim := some rq.src, alive := rq.alive, seq := rq.seq, resp := none, busy := true
    unread := if rq.src = .spi then none else m.unread, lastTaken := s.clk.loom }) s)

/-- The command set (R74 and the command tables of each chapter). -/
def cmdKnown (c : Nat) : Bool :=
  [0x0000, 0x0001, 0x0002, 0x0003, 0x0004, 0x0005, 0x0006, 0x0008, 0x0009,
   0x0010, 0x0011, 0x0012, 0x0013, 0x0014, 0x0015, 0x0016,
   0x0020, 0x0021, 0x0022, 0x0023, 0x0024, 0x0025,
   0x0100, 0x0101, 0x0102, 0x0103, 0x0104,
   0x0200, 0x0201, 0x0202, 0x0203, 0x0204, 0x0205, 0x0206,
   0x0300, 0x0301, 0x0302, 0x0303, 0x0304, 0x0400, 0x0401, 0x0402,
   0x0500, 0x0501, 0x0502, 0x0503, 0x0504, 0x0505, 0x0600, 0x0601, 0x0602].contains c
  || [0x0700, 0x0701, 0x0702, 0x0703, 0x0704,
   0x0800, 0x0801, 0x0802, 0x0803, 0x0804, 0x0805, 0x0806,
   0x0900, 0x0901, 0x0902, 0x0903, 0x0904, 0x0905, 0x0906, 0x0907,
   0x0A00, 0x0A01, 0x0A02, 0x0A03, 0x0A04, 0x0A05, 0x0B00, 0x0B01,
   0x0C00, 0x0C01, 0x0C02, 0x0C03, 0x0D00, 0x0D01, 0x0D02, 0x0D03,
   0x0E00, 0x0E01, 0x0E02, 0x0E03, 0x0E04, 0x0E05, 0x0E06].contains c

/-- The payload of a refusal that concerns no part (R48). -/
def noLocator : Bytes := [0, 0, 0, 0, 0xFF#8, 0xFF#8, 0, 0]

/-- Refuse a request that is not taken (R50, R52). -/
def refuseUntaken (rq : Req) (reason : Nat) (counter : Option Nat) (s : State) : State :=
  let s := match counter with
    | some c => count78 c s
    | none => s
  answer rq 4 reason noLocator s

/-- Requests of no command are answered where they stand at the front of those taken (R39, R50): bytes 12 to 15 are
tested first (R46). -/
def answerUnknown : List Req → State → State
  | [], s => { s with sh := { s.sh with taken := [] } }
  | q :: r, s =>
    if cmdKnown q.cmd then { s with sh := { s.sh with taken := q :: r } }
    else answerUnknown r (if s.hub.state = .safe then finish q 5 0x0102 [] s
      else reply q (.no (if q.b12 ≠ 0 then 0x0302 else 0x0809)) s)

/-- The supervisor goes on to the next request that a row of the command set executes. -/
def nextTaken (s : State) : State := answerUnknown s.sh.taken s

/-- Take a request (R50): it waits for the supervisor, which executes requests in the order taken (R39). -/
def takeOrUnknown (rq : Req) (s : State) : State :=
  let s := takeReq rq s
  nextTaken { s with sh := { s.sh with taken := s.sh.taken ++ [rq] } }

/-- Judge a request whose mailbox this requester has claimed by its alive counter (R50 to R52). -/
def judgeAlive (rq : Req) (m : Mailbox) (s : State) : State :=
  let d := (rq.alive + 16 - m.alive % 16) % 16
  if d = 1 ∧ rq.seq ≠ m.seq then
    if m.busy then refuseUntaken rq 0x0503 (some (31 + rq.mb)) s else takeOrUnknown rq s
  else if d = 1 then refuseUntaken rq 0x0805 (some (7 + rq.mb)) s
  else if d = 0 ∧ rq.seq = m.seq then
    match m.busy, m.resp with
    | false, some r => deliver rq.src rq.port rq.mb (respBytes r rq.mb true) (count78 (23 + rq.mb) s)
    | _, _ => s
  else if d = 0 then refuseUntaken rq 0x0805 (some (7 + rq.mb)) s
  else if d ≤ 8 then refuseUntaken rq 0x0804 (some (7 + rq.mb)) s
  else refuseUntaken rq 0x0803 (some (7 + rq.mb)) s

/-- Judge a request that survived R47 (R43, R50, R61). -/
def judge (rev : Nat) (rq : Req) (s : State) : State :=
  let m := s.sh.mail.get rq.mb
  if s.hub.state = .safe then answer rq 5 0x0102 [] s
  else if rev ≠ 4 then refuseUntaken rq 0x0806 none s
  else if m.claim.isSome ∧ m.claim ≠ some rq.src then refuseUntaken rq 0x0807 (some (15 + rq.mb)) s
  else if rq.src ≠ .spi ∧ s.cfg.active.spiReserve rq.mb = true then refuseUntaken rq 0x080B (some (15 + rq.mb)) s
  else if m.claim = none then takeOrUnknown rq s
  else judgeAlive rq m s

/-- What the tests of a command need (R58 to R60, R74): its code, the states in which it is legal, whether a standby
refuses it, and the payload lengths that fit it. -/
structure Rules where
  code : Nat
  legal : HubState → Bool
  standbyNo : Bool
  len : Nat → Bool

/-- The tests of a taken request in their order (R50, R58 to R61, log entry 15), then the command's own body. -/
def perform (c : Rules) (body : Req → State → Reply × State) (rq : Req) (s : State) : State :=
  if s.hub.state = .safe then finish rq 5 0x0102 [] s
  else if rq.b12 ≠ 0 then reply rq (.no 0x0302) s
  else if c.legal s.hub.state = false then reply rq (.no (if s.hub.state = .boot then 0x0103 else 0x0101)) s
  else if c.standbyNo = true ∧ s.hub.role = .standby then reply rq (.no 0x0701) s
  else if c.len rq.payload.length = false then reply rq (.no 0x0305) s
  else reply rq (body rq s).1 (body rq s).2

/-- The hub is held in reset while nRESET is low or D0 is lost (R452, R455): what f does then does not happen. -/
def unlessReset (f : State → State) (s : State) : State := if s.hub.inReset then s else f s

/-- A requester reaches the hub: the host port at which it asks is up (R339, R40) and crossing 6 passes its frames
(R410), or the SPI port is enabled (R73). -/
def State.hears (s : State) (src : Requester) (port : Nat) : Bool :=
  match src with
  | .spi => s.cfg.active.spiEn
  | .udp _ _ => s.portUp port && !(s.crossHolds 6)

/-- The supervisor executes a Shuttle command (R39): the request at the front of those taken. Where none waits, the
row brings its request itself, which is judged as one that arrives (R43, R50; log entry 10). A request that is not at
the front waits its turn. -/
def runCmd (c : Rules) (body : Req → State → Reply × State) (t : Nat) (rq : Req) (s : State) :
    Host.Outcome State Fault Refusal :=
  act t s <| unlessReset fun s =>
    let rq := { rq with cmd := c.code }
    let s := if s.sh.taken.isEmpty && s.hears rq.src rq.port then judge 4 rq s else s
    match s.sh.taken with
    | [] => s
    | q :: rest =>
      if q = rq then nextTaken (perform c body rq { s with sh := { s.sh with taken := rest } }) else s

/-- A body that only reads: it answers and changes nothing. -/
def reading (f : Req → State → Reply) : Req → State → Reply × State := fun rq s => (f rq s, s)

/-! ### Jobs -/

/-- A job by ID. -/
def findJob (id : Nat) (s : State) : Option Job := s.sh.jobs.lookup id

/-- What a job that has not ended does. -/
def State.jobWork (s : State) (id : Nat) : Option JobWork :=
  match findJob id s with
  | some j => if j.ended.isNone then some j.work else none
  | none => none

/-- Jobs that have not ended (R55). -/
def State.jobsRunning (s : State) : Nat := (s.sh.jobs.filter fun j => j.2.ended.isNone).length

/-- The ID of the next job (R55): IDs count up from 1 and pass over those of the jobs that JOB_STATUS still reports;
where all are held, over those of the jobs that have not ended (log entry 4). -/
def Shuttle.nextJob (x : Shuttle) : Nat :=
  let ids := (List.range (x.jobs.length + 1)).map fun i => (x.lastJob + i) % 65535 + 1
  let free := fun (live : Bool) (id : Nat) => !(x.jobs.any fun j => j.1 == id && (!live || j.2.ended.isNone))
  (ids.find? (free false)).getD ((ids.find? (free true)).getD 0)

/-- Start a job, unless 16 run (R55, 0x0502). -/
def newJob (cmd st : Nat) (w : JobWork) (s : State) : Option (Nat × State) :=
  if s.jobsRunning ≥ 16 then none
  else
    let id := s.sh.nextJob
    some (id, { s with sh := { s.sh with
      lastJob := id
      jobs := (s.sh.jobs.filter fun j => j.1 ≠ id) ++ [(id, { state := st, cmd, work := w })] } })

/-- Change a job. -/
def jobUpd (id : Nat) (f : Job → Job) (s : State) : State :=
  { s with sh := { s.sh with jobs := s.sh.jobs.map fun j => if j.1 = id then (j.1, f j.2) else j } }

/-- A job ends (R55): 1 done, 2 failed, 3 cancelled; a failure is logged (R77). -/
def endJob (id st reason : Nat) (result : Bytes) (wfault : Nat) (s : State) : State :=
  let cmd := ((findJob id s).map (·.cmd)).getD 0
  let s := jobUpd id (fun j => { j with state := st, reason, result, ended := some s.clk.loom }) (shakeEvent 9 notifyJob s)
  if st = 2 then logEvent reason cmd (id * 65536 + wfault) s else s

/-! ### Staged changes -/

/-- The state change that waits for its beat, with what staged it (R57, R76); a detachment is a move to CONFIG (R445,
log entry 57). -/
def State.pendingMove (s : State) : Option (HubState × Staged) :=
  s.cfg.staged.findSome? fun c => match c.change with
    | .move h => some (h, c)
    | .detach => some (.config, c)
    | _ => none

/-- The hub counts itself one of a pair (R422, R445). -/
def State.paired (s : State) : Bool := s.cfg.active.pairEn && !s.pair.detached

/-- The part of a change that a pair mirrors (R421, R429); none where nothing of it is mirrored. -/
def mirrored : Change → Option Change
  | .words ws =>
    match ws.filter (fun kw => !(blockOwn (kw.1 / 65536))) with
    | [] => none
    | l => some (.words l)
  | .move h => some (.move h)
  | .loopSelect d sl => some (.loopSelect d sl)
  | .arm m => some (.arm m)
  | .disarm m => some (.disarm m)
  | .reedSwap d b => some (.reedSwap d b)
  | .stimStart m b => some (.stimStart m b)
  | .stimStop m b => some (.stimStop m b)
  | .calSet _ | .temp _ _ | .domains _ | .subst _ _ | .consent _ _ _ _ | .detach | .mbb | .resync | .yield => none

/-- A Selvedge frame (R426). -/
def svFrame (typ alive cfgSeq : Nat) (payload : Bytes) : Bytes :=
  let b := beBytes 1 (alive * 16 + typ) ++ beBytes 2 payload.length ++ beBytes 4 cfgSeq ++ payload
  0xBC#8 :: (b ++ beWord (crc32c b))

/-- The running value of check unit 3 after a Selvedge frame (R394, R395). -/
def svRun (frame : Bytes) : Nat := (crc32Run 0xFFFFFFFF#32 ((frame.drop 1).take (frame.length - 5))).toNat

/-- The next Selvedge frame sent (R397, R426): its ALIVE is the next, and check unit 3 appends its check value. A
payload is at most 4,096 bytes. -/
def svForm (typ : Nat) (payload : Bytes) (s : State) : Bytes × State :=
  let a := (s.pair.txAlive + 1) % 16
  let f := svFrame typ a s.cfg.seq (payload.take 4096)
  (f, unitHolds 3 (svRun f) { s with pair := { s.pair with txAlive := a } })

/-- Something leaves the hub. -/
def emit (e : Emission) (s : State) : State := { s with wire := e :: s.wire }

/-- A Selvedge frame leaves; while crossing 7 holds it waits there (R409, R410). -/
def emitSv (e : Emission) (s : State) : State :=
  if s.crossHolds 7 then { s with pair := { s.pair with out := s.pair.out ++ [e] } } else emit e s

/-- A delta leaves. -/
def emitDelta (s : State) (d : Delta) : State :=
  let (f, s) := svForm 3 (Config.deltaPayload d) s
  emitSv (.delta s.clk.loom d f) s

/-- An active hub of a pair sends a staged change as a delta (R429). -/
def sendDelta (c : Change) (due : Nat) (s : State) : State :=
  if s.hub.role = .active ∧ s.paired = true then
    match mirrored c with
    | none => s
    | some c =>
      let d : Delta := { id := s.pair.nextDelta, change := c, due, cfgSeq := s.cfg.seq }
      let s := { s with pair := { s.pair with deltas := s.pair.deltas ++ [d], nextDelta := next32 s.pair.nextDelta } }
      emitDelta s d
  else s

/-- Stage a change for a beat (R31), with the request that staged it. -/
def stageAt (due : Nat) (c : Change) (cmd mb seq : Nat) (s : State) : State :=
  sendDelta c due { s with cfg := { s.cfg with staged := s.cfg.staged ++ [{ change := c, due, cmd, mb, seq }] } }

/-- Stage a change that a request asked for. -/
def stage (c : Change) (rq : Req) (s : State) : State := stageAt s.due c rq.cmd rq.mb rq.seq s

/-- Stage a change of the hub's own. -/
def stageOwn (c : Change) (s : State) : State := stageAt s.due c 0 0 0 s

/-- The configuration in force has a new number (R304, R500). -/
def Cfg.renumber (now seq : Nat) (c : Cfg) : Cfg := { c with seq, seqPast := (now, c.seq) :: c.seqPast }

/-- Accept changed words: they enter the configuration in force, its number rises by 1 (R500), and they are staged. -/
def acceptWords (ws : List (Nat × Word)) (rq : Req) (s : State) : State :=
  stage (.words ws) rq { s with cfg :=
    { s.cfg with force := s.cfg.force.putAll ws : Cfg }.renumber s.clk.loom (next32 s.cfg.seq) }

/-! ### Husks and worn parts -/

/-- A husk of a stored or mirrored value does not match (R321, R399, R400, R416): logged and counted. -/
def huskMismatch (source detail : Nat) (s : State) : State :=
  logEvent 0x0407 source detail { s with itg := { s.itg with husks := inc16 s.itg.husks } }

/-- The key of a staged calibration set, or of a staged T_d, whose husks R399 and R400 check: block 0x0700, at word
offsets that the block does not have (DESIGN CHOICE, log entry 209). -/
def huskKey : Change → Option Nat
  | .calSet _ => some 0x07007000
  | .temp pod _ => some (0x07007100 + pod)
  | _ => none

/-- Active registers (block * 65536 + word), and calibration terms in force (0x0700_8000 + entry, log entry 209),
whose husk failed at a use: each is logged, and the use has taken the value that last passed, which is the one that
the active copy holds (R399). -/
def usedHusks (keys : List Nat) (s : State) : State := keys.foldl (fun s k => huskMismatch (k / 65536) (k % 65536) s) s

/-- Spares of each kind (R459). -/
def spareTotal (kind : Nat) : Nat := [32, 16, 8, 1312, 1, 1, 64].getD kind 0

/-- Detail of a seed-bank event (R77). -/
def seedDetail (kind pod idx : Nat) : Nat := kind * 2 ^ 24 + pod * 2 ^ 16 + idx % 65536

/-- An analogue part awaits consent or recalibration (R461). -/
def State.analogueOpen (s : State) : Bool := s.pow.worn.any fun w => decide (w.kind < 2) && (w.state == 1 || w.state == 3)

/-- Alarm 11 follows that (R461); its onset is logged with the finding. -/
def seedAlarm (part : Nat) (s : State) : State := setAlarm 11 s.analogueOpen false part 0 s

/-- Substitutions of a kind that wait for their beat. -/
def State.substWaiting (s : State) (kind : Nat) : Nat :=
  (s.cfg.staged.filter fun c => match c.change with
    | .subst k _ => k == kind
    | _ => false).length

/-- A spare of a digital kind is left. -/
def State.spareLeft (s : State) (kind : Nat) : Bool := decide (s.pow.used.get kind + s.substWaiting kind < spareTotal kind)

/-- A part is found worn (R459 to R461): logged; an analogue part raises alarm 11 and is proposed; a digital part's
spare comes in by itself where the kind's bit in AUTO is set and a spare is left (log entry 33). -/
def partWorn (kind pod idx : Nat) (s : State) : State :=
  if s.pow.worn.any fun w => w.kind == kind && w.pod == pod && w.idx == idx && w.state != 2 then s
  else
    let s := logEvent 0 0x0E00 (seedDetail kind pod idx)
      { s with pow := { s.pow with worn := s.pow.worn ++ [{ kind, pod, idx, state := if kind < 2 then 1 else 0 }] } }
    if kind < 2 then seedAlarm idx s
    else if s.cfg.active.autoKind kind && s.spareLeft kind then stageOwn (.subst kind idx) s else s

/-- A row of the record store is reported (R403). -/
def reportRow (row : Nat) (s : State) : State :=
  partWorn 3 0xFF row { s with itg := { s.itg with rows := inc16 s.itg.rows, rowsTold := setMem s.itg.rowsTold row true } }

/-- A codeword of the record store cannot be corrected (R403, R404, R416): counted, logged, its row reported. -/
def badCodeword (index : Nat) (s : State) : State :=
  let s := logEvent 0x040A 0x0C00 index
    { s with itg := { s.itg with uncorrectable := inc32 s.itg.uncorrectable, lastBad := s.clk.loom } }
  reportRow (index / 32) s

/-- Sectors of 4 KiB in the 8 MiB eMRAM (00_scope, R459). -/
def emramSectors : Nat := 2048

/-- An eMRAM write failed its verify (R459): which sector is open. -/
def sectorWorn (s : State) : State :=
  let (k, s) := nextFree s
  partWorn 6 0xFF ((Config.freeWord k).toNat % emramSectors) s

end Sys2Proof.Machine
end

