-- ==== Sys2Proof/Machine/Transport.lean ====
section
/-! DEFINITION. How a request arrives and is judged (R39 to R52, R61), SPI frames (R41, R42), and the end of claims
and of job results (R44, R55). -/

namespace Sys2Proof.Machine

open Sys2Proof

/-- The first discard test of R47 that a message fails: the counter of R78 (UDP; SPI is one more). -/
def discardTest (hubId : Option Nat) (m : Bytes) : Option Nat :=
  if m.length ≠ 20 + beAt m 4 2 ∨ beAt m 4 2 > 1004 then some 2
  else if !(crcPasses m) then some 0
  else if nbit (beAt m 0 1) 3 then some 2
  else if beAt m 6 2 ≠ 0xFFFF ∧ some (beAt m 6 2) ≠ hubId then some 4
  else none

/-- The request in a message (R45). -/
def parseReq (src : Requester) (port : Nat) (m : Bytes) : Req :=
  { mb := beAt m 0 1 % 8, alive := beAt m 0 1 / 16, cmd := beAt m 2 2, seq := beAt m 8 4, b12 := beAt m 12 4,
    payload := slice m 16 (beAt m 4 2), src, port }

/-- Check unit 2 checks a message over UDP whose length is right (R47, R395). -/
def checked (src : Requester) (m : Bytes) (s : State) : State :=
  if src = .spi ∨ m.length ≠ 20 + beAt m 4 2 ∨ 1004 < beAt m 4 2 then s else unitChecks 2 m s

/-- A message arrives (R47): discarded and counted, or judged. A check value that does not match counts in check unit 2
for a message over UDP (R393, R395, R396). -/
def arrive (src : Requester) (port : Nat) (m : Bytes) (s : State) : State :=
  let s := checked src m s
  match discardTest s.hub.hubId m with
  | some c =>
    let s := if src ≠ .spi ∧ c = 0 then unitMismatch 2 s else s
    count78 (if src = .spi then c + 1 else c) s
  | none => judge (beAt m 1 1) (parseReq src port m) s

/-- SHUTTLE_REQUEST (R40, R43, R47, R50 to R52, R61, R409): a datagram for port 47100, as the row says, on a port that
is up. -/
def execShuttleRequest (t port ip udp : Nat) (msg : Bytes) (s : State) : Host.Outcome State Fault Refusal :=
  received t port (.shuttleRequest t port ip udp msg) s <| unlessReset fun s =>
    if s.portUp port then arrive (.udp ip udp) port msg s else s

/-- The SPI target port answers while SPI_EN is set (R73). -/
def onSpi (f : State → State) (s : State) : State := if s.cfg.active.spiEn then unlessReset f s else s

/-- SPI_WRITE (R41, R42, R47): one message without the opcode; a frame of another length is counted under R42. -/
def execSpiWrite (t : Nat) (msg : Bytes) (s : State) : Host.Outcome State Fault Refusal :=
  act t s (onSpi (arrive .spi 0 msg))

/-- SPI_READ (R41): clocked bytes of the 2-byte length and the message leave; a response clocked out to its last byte
has been read. -/
def execSpiRead (t mb clocked : Nat) (s : State) : Host.Outcome State Fault Refusal :=
  act t s <| onSpi fun s =>
    match (s.sh.mail.get mb).unread with
    | some m =>
      let out := beBytes 2 m.length ++ m
      let s := emit (.spi s.clk.loom (out.take clocked)) s
      if out.length ≤ clocked then irq (mailUpd mb (fun b => { b with unread := none }) s) else s
    | none => emit (.spi s.clk.loom ((zeros 2).take clocked)) s

/-- SPI_POLL (R41). -/
def execSpiPoll (t : Nat) (s : State) : Host.Outcome State Fault Refusal :=
  act t s <| onSpi fun s =>
    let unread := (List.range 8).filter fun n => (s.sh.mail.get n).unread.isSome
    let claimed := (List.range 8).filter fun n => decide ((s.sh.mail.get n).claim = some .spi)
    emit (.spi s.clk.loom (beBytes 1 (maskOf unread) ++ beBytes 1 (maskOf claimed))) s

/-- SPI_INVALID_OPCODE (R41): counted as a length error. -/
def execSpiInvalidOpcode (t _op : Nat) (s : State) : Host.Outcome State Fault Refusal :=
  act t s (onSpi (count78 3))

/-- SPI_FRAME_TIMEOUT (R42). -/
def execSpiFrameTimeout (t : Nat) (s : State) : Host.Outcome State Fault Refusal :=
  act t s (onSpi (count78 6))

/-- A claim ends (R44): the mailbox's record is cleared; a working set that it held is discarded and the lock freed,
logged as 0x0506 from the source named. Alarm 15 follows a lapse (log entry 17). -/
def endClaim (mb source : Nat) (lapse : Bool) (s : State) : State :=
  let s := irq { s with sh := { s.sh with mail := s.sh.mail.set mb {} } }
  if s.sh.lock = some mb then
    let s := logEvent 0x0506 source mb { s with sh := { s.sh with lock := none, work := none } }
    if lapse then setAlarm 15 true false 0xFFFF 0x0506 s else s
  else s

/-- Every claim ends at a restart (R44). -/
def endClaims (s : State) : State :=
  (List.range 8).foldl (fun s n => if (s.sh.mail.get n).claim.isSome then endClaim n 0 false s else s) s

/-- CLAIM_IDLE_LAPSE (R44): the owner of the claim has sent nothing that was taken for CLAIM_IDLE. -/
def execClaimIdleLapse (t mb : Nat) (s : State) : Host.Outcome State Fault Refusal :=
  act t s fun s =>
    let m := s.sh.mail.get mb
    if m.claim.isSome ∧ m.lastTaken + secLoom s.cfg.active.claimIdle ≤ s.clk.loom then endClaim mb 0 true s else s

/-- JOB_RESULT_EXPIRY (R55): 60 s after its end a job's ID becomes unknown. -/
def execJobResultExpiry (t job : Nat) (s : State) : Host.Outcome State Fault Refusal :=
  act t s fun s =>
    match (findJob job s).bind (·.ended) with
    | some e =>
      if e + secLoom 60 ≤ s.clk.loom then
        { s with sh := { s.sh with jobs := s.sh.jobs.filter fun j => j.1 ≠ job } }
      else s
    | none => s

end Sys2Proof.Machine
end

