-- ==== Sys2Proof/Machine/General.lean ====
section
/-! DEFINITION. The general commands (R64, R65, R74 to R78), the consistency check's users apart. -/

namespace Sys2Proof.Machine

open Sys2Proof

/-- A word that a free byte string of the unit's identity spells (R75). -/
def identityBytes (from_ n : Nat) : Bytes := (List.range n).map fun i => Config.identity (from_ + i)

/-- MAC address of a host port (R75). -/
def macOf (port : Nat) : Nat := beNat (identityBytes (24 + 6 * port) 6)

/-- The die-set revision, B (R2, R75). -/
def dieSet : Byte := 0x42#8

/-- The ordering code (R2), `KH2560-GV-P`, padded with NUL to 16 bytes: the screening grade E or Q, the die-set
revision, the packing T or S. -/
def orderingCode : Bytes :=
  ascii [0x4B, 0x48, 0x32, 0x35, 0x36, 0x30, 0x2D, if Config.burnIn then 0x51 else 0x45] ++ [dieSet]
    ++ ascii [0x2D, if Config.singlePack then 0x53 else 0x54] ++ zeros 5

/-- The identity payload (R75). -/
def identityPayload (s : State) : Bytes :=
  orderingCode ++ identityBytes 0 24 ++ [dieSet, 0x04#8] ++ beBytes 2 s.hubIdOut ++ beBytes 1 (b2n (s.hub.hubidSel && !s.cfg.active.isRoot))
    ++ beBytes 1 s.hub.runImage ++ zeros 2 ++ beBytes 4 s.pow.imageA.version ++ beBytes 4 s.pow.imageB.version
    ++ beBytes 6 (macOf 0) ++ beBytes 6 (macOf 1)

/-- IDENTIFY (R75). -/
def execIdentify (t : Nat) (rq : Req) (s : State) : Host.Outcome State Fault Refusal :=
  runCmd { code := 0x0000, legal := fun _ => true, standbyNo := false, len := lenIs 0 }
    (reading fun _ s => .done (identityPayload s)) t rq s

/-- Cores in the voter set (R76, R414): cores 0 to 2 less those that left, and a spare that came in. -/
def State.voters (s : State) : List Nat :=
  (List.range 4).filter fun n =>
    (decide (n < 3) && !(s.hub.coresOut.contains n)) || s.hub.coreIn.contains n

/-- The status payload (R76). -/
def statusPayload (s : State) : Bytes :=
  beBytes 8 s.clk.loom ++ beBytes 8 s.clk.beat ++ beBytes 1 (stateCode s.hub.state) ++ beBytes 1 (roleCode s.hub.role)
    ++ beBytes 1 (match s.pendingMove with
      | some (h, _) => 128 + stateCode h
      | none => 0)
    ++ beBytes 1 (128 * b2n s.hub.onKclk + maskOf s.voters) ++ beBytes 2 s.hub.lastCause
    ++ beBytes 1 (match s.sh.lock with
      | some mb => 128 + mb
      | none => 0)
    ++ beBytes 1 (maskOf ((List.range 8).filter fun n => (s.sh.mail.get n).claim.isSome))
    ++ beBytes 4 s.cfg.seq ++ beBytes 4 s.cfg.copyA.seq ++ beBytes 4 s.cfg.copyB.seq
    ++ beBytes 1 (2 * b2n s.cfg.copyB.valid + b2n s.cfg.copyA.valid) ++ zeros 3
    ++ beBytes 4 (maskOf s.sh.alarms) ++ beBytes 2 s.clk.overruns ++ beBytes 2 s.clk.skipped

/-- STATUS (R76): alarm 14, a crossing restart since the last STATUS, ends with the response. -/
def execStatus (t : Nat) (rq : Req) (s : State) : Host.Outcome State Fault Refusal :=
  runCmd { code := 0x0001, legal := fun _ => true, standbyNo := false, len := lenIs 0 }
    (fun _ s => (.done (statusPayload s), setAlarm 14 false false 0xFFFF 0 s)) t rq s

/-- PING (R74): the same bytes. -/
def execPing (t : Nat) (rq : Req) (s : State) : Host.Outcome State Fault Refusal :=
  runCmd { code := 0x0002, legal := fun _ => true, standbyNo := false, len := lenIn 0 1004 }
    (reading fun rq _ => .done rq.payload) t rq s

/-- RELEASE (R44). -/
def execRelease (t : Nat) (rq : Req) (s : State) : Host.Outcome State Fault Refusal :=
  runCmd { code := 0x0003, legal := stRead, standbyNo := false, len := lenIs 0 }
    (fun rq s => (.done [], endClaim rq.mb 0x0003 false s)) t rq s

/-- JOB_STATUS (R55). -/
def execJobStatus (t : Nat) (rq : Req) (s : State) : Host.Outcome State Fault Refusal :=
  runCmd { code := 0x0004, legal := stRead, standbyNo := false, len := lenIs 2 }
    (reading fun rq s =>
      match findJob (beAt rq.payload 0 2) s with
      | none => .no 0x0307
      | some j => .done (beBytes 1 j.state ++ zeros 1 ++ beBytes 2 j.reason ++ beBytes 8 j.beat ++ j.result)) t rq s

/-- RESTART (R74): DONE, and BOOT follows 1 ms later. -/
def execRestart (t : Nat) (rq : Req) (s : State) : Host.Outcome State Fault Refusal :=
  runCmd { code := 0x0006, legal := fun _ => true, standbyNo := false, len := lenIs 1 }
    (fun rq s =>
      let image := beAt rq.payload 0 1
      if image > 2 then (.no 0x0301, s)
      else (.done [], { s with hub := { s.hub with restart := some (image, s.clk.loom) } })) t rq s

/-- An event as 16 bytes (R77). -/
def eventBytes (e : Event) : Bytes := beBytes 8 e.beat ++ beBytes 2 e.reason ++ beBytes 2 e.source ++ beBytes 4 e.detail

/-- The entries of a ring asked for from an index on, oldest first (R77, R352): the ring newest first, the index of the
next entry, the first index asked for and the most entries wanted. -/
def ringFrom {α : Type} (ring : List α) (next first count : Nat) : List α :=
  let oldest := diff32 next ring.length
  let newest := diff32 next 1
  if newer32 first newest || ring.isEmpty then []
  else
    let start := if newer32 oldest first then oldest else first
    (ring.reverse.drop (diff32 start oldest)).take count

/-- EVENT_READ (R77). While the log has taken no event yet, the index of the newest entry is that before index 0,
0xFFFFFFFF: R77 does not say (DESIGN CHOICE, log entry 156). -/
def execEventRead (t : Nat) (rq : Req) (s : State) : Host.Outcome State Fault Refusal :=
  runCmd { code := 0x0008, legal := stRead, standbyNo := false, len := lenIs 5 }
    (reading fun rq s =>
      let n := beAt rq.payload 4 1
      if n = 0 ∨ n > 62 then .no 0x0301
      else
        let es := ringFrom s.sh.log s.sh.nextEvent (beAt rq.payload 0 4) n
        .done (beBytes 4 (diff32 s.sh.nextEvent 1) ++ beBytes 1 es.length ++ zeros 3 ++ es.flatMap eventBytes)) t rq s

/-- COUNTERS_READ (R78): 39 counters, cleared after reading where asked. -/
def execCountersRead (t : Nat) (rq : Req) (s : State) : Host.Outcome State Fault Refusal :=
  runCmd { code := 0x0009, legal := stRead, standbyNo := false, len := lenIs 1 }
    (fun rq s =>
      let clear := beAt rq.payload 0 1
      if clear > 1 then (.no 0x0301, s)
      else (.done ((s.sh.counters.getList 0 39).flatMap (beBytes 2)),
        if clear = 1 then { s with sh := { s.sh with counters := [] } } else s)) t rq s

/-! ### The configuration session -/

/-- Source of CFG_OPEN or PARAM_READ: words and number; none for an invalid copy (log entry 18). -/
def copyOf (c : Copy) : Option Work := if c.valid then some { words := c.words, seq := c.seq } else none

/-- CFG_OPEN (R64, R500). The factory defaults carry the number 0 (log entry 18). -/
def execCfgOpen (t : Nat) (rq : Req) (s : State) : Host.Outcome State Fault Refusal :=
  runCmd { code := 0x0010, legal := stStage, standbyNo := true, len := lenIs 1 }
    (fun rq s =>
      if s.sh.lock.isSome ∧ s.sh.lock ≠ some rq.mb then (.no 0x0501, s)
      else
        let src := beAt rq.payload 0 1
        let w : Option Work :=
          if src = 0 then some { words := s.cfg.force, seq := s.cfg.seq }
          else if src = 1 then copyOf s.cfg.copyA
          else if src = 2 then copyOf s.cfg.copyB
          else if src = 3 then some { words := [], seq := 0 }
          else none
        match w with
        | none => (.no 0x0301, s)
        | some w =>
          (.done (beBytes 4 w.seq),
            setAlarm 15 false false 0xFFFF 0x0506
              { s with sh := { s.sh with lock := some rq.mb, work := some w } })) t rq s

/-- A range of a block that a request names: the refusal where it does not exist or does not fit (R65). -/
def rangeFault (block off count : Nat) : Option Reply :=
  match blockSize block with
  | none => some (.refused 0x0303 { block, off })
  | some n => if off + count > n then some (.refused 0x0304 { block, off }) else none

/-- PARAM_READ (R9, R65, R500). -/
def execParamRead (t : Nat) (rq : Req) (s : State) : Host.Outcome State Fault Refusal :=
  runCmd { code := 0x0011, legal := stRead, standbyNo := false, len := lenIs 8 }
    (reading fun rq s =>
      let src := beAt rq.payload 0 1
      let block := beAt rq.payload 2 2
      let off := beAt rq.payload 4 2
      let count := beAt rq.payload 6 2
      if beAt rq.payload 1 1 ≠ 0 then .no 0x0302
      else if src > 4 ∨ count = 0 ∨ count > 125 then .no 0x0301
      else
        match rangeFault block off count with
        | some r => r
        | none =>
          let w : Option PMem :=
            if src = 0 then some s.cfg.force
            else if src = 1 then s.sh.work.map (·.words)
            else if src = 2 then (copyOf s.cfg.copyA).map (·.words)
            else if src = 3 then (copyOf s.cfg.copyB).map (·.words)
            else some []
          match w with
          | none => .no (if src = 1 then 0x0106 else 0x0301)
          | some m => .done ((List.range count).flatMap fun i => huskBytes (m.shown block (off + i)))) t rq s

/-- A word that PARAM_WRITE stores: the read-only field LIVE of an engine word keeps its value (R8, R175). -/
def writable (m : PMem) (block off : Nat) (w : Word) : Word :=
  if block = 0x0301 ∧ off < 4 then (w &&& 0x7FFFFFFF#32) ||| (m.word block off &&& 0x80000000#32) else w

/-- The refusal of a mailbox that does not hold the edit lock (R64). -/
def lockFault (mb : Nat) (s : State) : Option Nat :=
  match s.sh.lock with
  | none => some 0x0106
  | some h => if h = mb then none else some 0x0501

/-- PARAM_WRITE (R64, R65): every husk is checked before any word is written. -/
def execParamWrite (t : Nat) (rq : Req) (s : State) : Host.Outcome State Fault Refusal :=
  runCmd { code := 0x0012, legal := stStage, standbyNo := true, len := fun n => decide (8 ≤ n ∧ n % 8 = 0) }
    (fun rq s =>
      let block := beAt rq.payload 0 2
      let off := beAt rq.payload 2 2
      let count := beAt rq.payload 4 2
      if rq.payload.length ≠ 8 + 8 * count then (.no 0x0305, s)
      else if count = 0 ∨ count > 124 then (.no 0x0301, s)
      else
        match lockFault rq.mb s, s.sh.work with
        | some e, _ => (.no e, s)
        | none, none => (.no 0x0106, s)
        | none, some w =>
          if beAt rq.payload 6 2 ≠ 0 then (.no 0x0302, s)
          else
            match rangeFault block off count, husksAt rq.payload 8 count with
            | some r, _ => (r, s)
            | none, none =>
              let i := ((List.range count).find? fun i => (huskAt rq.payload (8 + 8 * i)).isNone).getD 0
              (.refused 0x0401 { block, off := off + i }, s)
            | none, some ws =>
              let put := fun (m : PMem) (iw : Nat × Word) =>
                m.put (pkey block (off + iw.1)) (writable m block (off + iw.1) iw.2)
              let words := ((List.range count).zip ws).foldl put w.words
              (.done [], { s with sh := { s.sh with work := some { w with words } } })) t rq s

/-- CFG_ABORT (R64): the working set is discarded and the lock freed. A mailbox without the lock is refused as R64
refuses PARAM_WRITE (log entry 18). -/
def execCfgAbort (t : Nat) (rq : Req) (s : State) : Host.Outcome State Fault Refusal :=
  runCmd { code := 0x0014, legal := stStage, standbyNo := false, len := lenIs 0 }
    (fun rq s =>
      match lockFault rq.mb s with
      | some e => (.no e, s)
      | none => (.done [], { s with sh := { s.sh with lock := none, work := none } })) t rq s

/-- The bytes of a stored block (R62): its header, then its words. -/
def blockBytes (m : PMem) (b : Nat) : Bytes :=
  blockHeader b ++ (List.range ((blockSize b).getD 0)).flatMap fun o => beWord (m.word b o)

/-- The bytes of a stored copy (R62, R69): the blocks, the number, and the CRC-32C, written last (log entry 19). -/
def Copy.bytes (c : Copy) : Bytes := withCrc (allBlocks.flatMap (blockBytes c.words) ++ beBytes 4 c.seq)

/-- Length in bytes of a stored copy. -/
def copyLength : Nat := (allBlocks.map fun b => 8 + 4 * (blockSize b).getD 0).sum + 8

/-- COPY_STATUS (R74). -/
def execCopyStatus (t : Nat) (rq : Req) (s : State) : Host.Outcome State Fault Refusal :=
  runCmd { code := 0x0015, legal := stRead, standbyNo := false, len := lenIs 0 }
    (reading fun _ s =>
      let one := fun (c : Copy) =>
        beBytes 4 c.seq ++ beBytes 1 (b2n c.valid) ++ zeros 3 ++ beBytes 4 copyLength ++ beBytes 8 c.beat
      .done (one s.cfg.copyA ++ one s.cfg.copyB)) t rq s

/-- A write begins once those before it have ended, and runs for an open time up to a bound in ms (R69, R269): the
writes that may still run, with this one. -/
def slotWrite {α : Type} (k bound now : Nat) (toB : Bool) (before : α) (l : List (SlotWrite α)) : List (SlotWrite α) :=
  let start := l.foldl (fun a w => max a w.ends) now
  (l.filter fun w => decide (now < w.ends)) ++ [{ toB, start, ends := start + min (Config.writeTime k) (usLoom (bound * 1000)), before }]

/-- What a loss of power leaves in a slot (R69, R269): while a write runs its copy is invalid, and before it begins
the slot holds what it held. -/
def tornSlot {α : Type} (invalid : α → α) (now : Nat) (toB : Bool) (c : α) (l : List (SlotWrite α)) : α :=
  match l.find? fun w => w.toB == toB && decide (now < w.ends) with
  | some w => if w.start ≤ now then invalid c else w.before
  | none => c

/-- A configuration copy is written to a slot (R69). -/
def putCopy (toB : Bool) (c : Copy) (s : State) : State :=
  let (k, s) := nextFree s
  let writes := slotWrite k 8 s.clk.loom toB (if toB then s.cfg.copyB else s.cfg.copyA) s.cfg.writes
  { s with cfg := if toB then { s.cfg with copyB := c, writes } else { s.cfg with copyA := c, writes } }

/-- Write a configuration copy by the procedure of R69: to the slot that does not hold the copy in force; to A and
then to B where neither is valid or BOOT rejected both. Whether the write and the read-back succeed is open
(Config.emramWrite). The answer says whether it succeeded; alarm 12 follows it (log entry 20). -/
def persist (words : PMem) (seq source : Nat) (s : State) : Bool × State :=
  let (k, s) := nextFree s
  let both := s.cfg.rejected || (!s.cfg.copyA.valid && !s.cfg.copyB.valid)
  let toB := !both && !s.cfg.inB
  if Config.emramWrite k then
    let c : Copy := { valid := true, seq, words, beat := s.clk.beat }
    let s := if both then putCopy true c (putCopy false c s) else putCopy toB c s
    (true, setAlarm 12 false false 0xFFFF 0x0406 { s with cfg := { s.cfg with inB := toB, rejected := s.cfg.rejected && !both } })
  else
    (false, setAlarm 12 true false 0xFFFF 0x0406 (logEvent 0x0406 source (b2n toB) (sectorWorn s)))

/-- The persistent-write procedure on the configuration in force (R69). -/
def persistForce (source : Nat) (s : State) : Bool × State := persist s.cfg.force s.cfg.seq source s

/-- CFG_SAVE (R69): the configuration in force with its present number. -/
def execCfgSave (t : Nat) (rq : Req) (s : State) : Host.Outcome State Fault Refusal :=
  runCmd { code := 0x0016, legal := stStage, standbyNo := false, len := lenIs 0 }
    (fun rq s =>
      if s.sh.lock.isSome ∧ s.sh.lock ≠ some rq.mb then (.no 0x0501, s)
      else
        let (ok, s) := persistForce 0x0016 s
        ((if ok then .done (beBytes 4 s.cfg.seq) else .doneReason 0x0406 (beBytes 4 s.cfg.seq)), s)) t rq s

end Sys2Proof.Machine
end

