-- ==== Sys2Proof/Machine/Flags.lean ====
section
/-! DEFINITION. The flags byte of a sample (R12): its bits, and how they come together. -/

namespace Sys2Proof.Machine

/-- Flag bits of R12. -/
def fUNS : Nat := 0x80
def fOVR : Nat := 0x40
def fLEAD : Nat := 0x20
def fADJ : Nat := 0x10
def fSTEP : Nat := 0x08
def fSYNR : Nat := 0x04
def fSUBST : Nat := 0x02
def fPATH : Nat := 0x01

/-- A flag bit where its condition holds. -/
def flagIf (on : Bool) (f : Nat) : Nat := if on then f else 0

/-- The flags byte of a formed sample (R12): what its place in a recovery and its engineering value give, and the
conditions that hold at its signal instant. -/
def formedFlags (base eng : Nat) (ovr lead adj step subst : Bool) : Byte :=
  BitVec.ofNat 8 (base ||| eng ||| flagIf ovr fOVR ||| flagIf lead fLEAD ||| flagIf adj fADJ ||| flagIf step fSTEP
    ||| flagIf subst fSUBST)

/-- The flags byte of a fill sample (R405). -/
def fillFlags (subst : Bool) : Byte := BitVec.ofNat 8 (fUNS + fSTEP + flagIf subst fSUBST)

end Sys2Proof.Machine
end

