-- ==== Sys2Proof/Machine/Coef.lean ====
section
/-! DEFINITION. The fixed coefficients of the data path (R150, R187, R499). The manual gives their limits and no
values: they are free words of Config, taken where they meet those limits, which they do on every unit (R499); where
free words do not, words that do stand in for them (log entry 192). -/

namespace Sys2Proof.Machine

open Sys2Proof

/-- A coefficient limited to its 24-bit word (R147). -/
def word24 (c : Int) : Int := clampInt (-(2 ^ 23)) (2 ^ 23 - 1) c

/-- cos and sin of a part n / d of a turn. -/
def turnCos (n d : Nat) : Int := fixCos (2 * fixPi * (n % d : Nat) / d)
def turnSin (n d : Nat) : Int := fixSin (2 * fixPi * (n % d : Nat) / d)

/-! ### Compensation FIR -/

/-- The response of 63 symmetric taps at j / 1000 of the rate of their words; 2^23 * fixOne is unity. -/
def firGain (taps : List Int) (j : Nat) : Int :=
  (List.range 31).foldl (fun a i => a + 2 * taps.getD i 0 * turnCos (j * (31 - i)) 1000) (taps.getD 31 0 * fixOne)

/-- The response of a CIC of an order and decimation there (R124); fixOne is unity. -/
def cicGain (order dec j : Nat) : Int :=
  if j = 0 then fixOne
  else stepN (fixMul (turnSin j 2000 * fixOne / (dec * turnSin j (2000 * dec)))) order fixOne

/-- The table of R150 holds for the taps of an order at the decimations that bound the others, 32 and 4,096, at each
thousandth of f_C: 0.005 dB is 10^0.00025, and 90 dB is 10^-4.5. -/
def firMeets (order : Nat) (taps : List Int) : Bool :=
  [32, 4096].all fun dec =>
    let g := fun (j : Nat) => fixMul (firGain taps j) (cicGain order dec j)
    let one : Int := 2 ^ 23 * fixOne
    (List.range 201).all (fun j => decide (999424519379280263 * one ≤ g j * 10 ^ 18) && decide (g j * 10 ^ 18 ≤ 1000575811989360892 * one))
      && (List.range 201).all fun j => decide ((g (300 + j)).natAbs * 10 ^ 20 ≤ 3162277660168379 * one.natAbs)

/-- Taps 0 to 31 that meet it, for order 3, 4 and 5. -/
def firSpare3 : List Int :=
  [-146, -5, 652, 17, -1904, -47, 4515, 112, -9372, -241, 17685, 481, -31039, -911, 51464, 1658, -81579,
    -2946, 124937, 5187, -186832, -9221, 276332, 17002, -411865, -34028, 639619, 81152, -1116911, -295199,
    2821587, 4668300]
def firSpare4 : List Int :=
  [-162, -7, 723, 25, -2112, -69, 5008, 166, -10394, -356, 19612, 711, -34417, -1344, 57057, 2446, -90426,
    -4345, 138441, 7646, -206921, -13576, 305780, 24977, -455000, -49773, 703928, 117400, -1214965, -410293,
    2880989, 4847110]
def firSpare5 : List Int :=
  [-180, -9, 802, 34, -2342, -96, 5553, 229, -11524, -493, 21743, 984, -38154, -1860, 63239, 3384, -100199,
    -6007, 153347, 10561, -229068, -18729, 338172, 34380, -502250, -68197, 773736, 159047, -1318791, -534893,
    2943055, 5037660]

/-- Taps 0 to 31 of the compensation FIR of a CIC order (R150, R499). -/
def firTaps (order : Nat) : List Int :=
  let free := (List.range 32).map fun i => word24 (Config.compFir order i)
  if firMeets order free then free else if order = 3 then firSpare3 else if order = 4 then firSpare4 else firSpare5

/-- Tap i of it: 63 symmetric taps. -/
def firTap (order i : Nat) : Int := (firTaps order).getD (min i (62 - i)) 0

/-! ### Resampler prototype -/

/-- The power of the response of prototype words at j / 50 of the resampler's input rate; unity is 2^58 * fixOne *
fixOne. -/
def protoPower (w : Nat → Int) (j : Nat) : Int :=
  let sum := fun (f : Nat → Int) => (List.range 2048).foldl (fun (a : Int) k => a + w k * f (j * k)) 0
  let c := sum fun m => turnCos m 3200
  let s := sum fun m => turnSin m 3200
  c * c + s * s

/-- The limits of R187 hold for prototype words, at each fiftieth of the input rate: the sum of the taps of every
phase, 0.01 dB up to 0.4 of the rate, 90 dB from 0.6 to 32, from where the response of the 64 phases comes again. -/
def protoMeets (w : Nat → Int) : Bool :=
  let one : Int := 2 ^ 58 * fixOne * fixOne
  (List.range 64).all (fun p => decide (((List.range 32).foldl (fun (a : Int) i => a + w (64 * i + p)) 0 - 2 ^ 23).natAbs ≤ 16))
    && (List.range 21).all (fun j => decide (997700063822553317 * one ≤ protoPower w j * 10 ^ 18)
      && decide (protoPower w j * 10 ^ 18 ≤ 1002305238077899671 * one))
    && (List.range 1571).all fun j => decide (protoPower w (30 + j) * 10 ^ 9 ≤ one)

/-- Words with tap 15 making up the sum of its phase to 2^23 and what the phase is off by. -/
def madeUp (w off : Nat → Int) (i : Nat) : Int :=
  if i / 64 = 15 then
    let others := ((List.range 32).filter (· ≠ 15)).foldl (fun (a : Int) k => a + word24 (w (64 * k + i % 64))) 0
    word24 (2 ^ 23 + clampInt (-16) 16 (off (i % 64)) - others)
  else word24 (w i)

/-- A power series of the Bessel function I_0, of a quarter of the square of its argument. -/
def fixBessel (y : Int) : Int := series (fun k t => fixMul t y / ((k + 1) * (k + 1) : Nat)) 60 0 fixOne 0

/-- Prototype words that meet the limits: sin x / x under a Kaiser window of parameter 10. -/
def protoSpare (i : Nat) : Int :=
  let m : Int := i - 1024
  let window := fixBessel (25 * (1048576 - m * m) * fixOne / 1048576) * fixOne / fixBessel (25 * fixOne)
  let wave := if m = 0 then fixOne else turnSin (m % 128).toNat 128 * fixOne * 64 / (fixPi * m)
  roundEven (fixMul window wave) (2 ^ 137)

/-- Word i of the resampler prototype (R187, R499). -/
def protoWord (i : Nat) : Int :=
  let free := madeUp Config.prototype Config.phaseSum
  if protoMeets free then free i else madeUp protoSpare (fun _ => 0) i

end Sys2Proof.Machine
end

