-- ==== Sys2Proof/Machine/Grid.lean ====
section
/-! DEFINITION. Rate groups and the output grid (R179 to R181), and the settings in force at a grid instant (R33). -/

namespace Sys2Proof.Machine

/-- Grid instant number n of a group, counted from loom time 0 (R180). -/
def gridInst (cycle count n : Nat) : Nat :=
  n / count * (cycle * 2 ^ 32) + ceilDiv (n % count * cycle * 2 ^ 32) count

/-- The number of the first grid instant at or after loom time t. -/
def gridFrom (cycle count t : Nat) : Nat :=
  let c := cycle * 2 ^ 32
  let r := t % c
  t / c * count + (if r = 0 then 0 else (r - 1) * count / c + 1)

/-- The first grid instant at or after t, and the last one before t. -/
def gridAt (cycle count t : Nat) : Nat := gridInst cycle count (gridFrom cycle count t)
def gridBefore (cycle count t : Nat) : Nat := gridInst cycle count (gridFrom cycle count t - 1)

/-- The first grid instant of group g at or after t under a configuration. -/
def PMem.gridAt (m : PMem) (g t : Nat) : Nat := Machine.gridAt (m.cycle g) (m.count g) t
def PMem.gridBefore (m : PMem) (g t : Nat) : Nat := Machine.gridBefore (m.cycle g) (m.count g) t

/-- t is a grid instant of an enabled group g. -/
def PMem.onGrid (m : PMem) (g t : Nat) : Bool :=
  m.groupEn g && m.cycle g != 0 && m.count g != 0 && m.gridAt g t == t

/-- What was in force at loom time t: the list holds, newest first, each boundary with the value before it. -/
def pastAt {α : Type} : List (Nat × α) → α → Nat → α
  | [], cur, _ => cur
  | (b, v) :: r, cur, t => if t < b then pastAt r v t else cur

/-- The active copies that a sample with grid instant t is formed under (R33). -/
def State.cfgAt (s : State) (t : Nat) : PMem := pastAt s.cfg.past s.cfg.active t

/-- Keep what samples may still be formed under: boundaries within the last half second. -/
def prunePast {α : Type} (loom : Nat) (l : List (Nat × α)) : List (Nat × α) :=
  l.filter fun x => decide (loom < x.1 + 2 ^ 31)

/-- Keep the stretches, newest first, that a sample may still be formed under: those of the last half second, and the
one before them. -/
def keepSince {α : Type} (start : α → Nat) (loom : Nat) : List α → List α
  | [] => []
  | p :: r => if start p + 2 ^ 31 < loom then [p] else p :: keepSince start loom r

/-- The state of a channel's data path, and a change of it. -/
def State.chan (s : State) (ch : Nat) : Chan := s.filt.chans.get ch
def chanUpd (ch : Nat) (f : Chan → Chan) (s : State) : State :=
  { s with filt := { s.filt with chans := s.filt.chans.upd ch f } }

/-- What a forward step of loom time adds to the signal instant, on the new loom time, of a sample whose grid instant
came before the step and that had not been formed by then (R184, R200). -/
def Chan.shift (c : Chan) (grid : Nat) : Nat :=
  c.skipped.foldl (fun a g =>
    if grid ≤ g.1 then a + clockFine (roundEven (((g.2 - g.1) * 3125 : Nat) : Int) (2 ^ 19)).toNat else a) 0

/-- Enabled channels of a configuration, ascending; those of one die. -/
def PMem.chansOn (m : PMem) : List Nat := (List.range 256).filter m.chanOn
def dieOf (ch : Nat) : Nat := ch / 64
def podOf (ch : Nat) : Nat := ch / 16

end Sys2Proof.Machine
end

