-- ==== Sys2Proof/Machine/Store.lean ====
section
/-! DEFINITION. The record store's codewords (R401 to R403): the Reed-Solomon code, and what every read of a codeword
does. -/

namespace Sys2Proof.Machine

open Sys2Proof

/-! ### RS(38,32) over GF(2^8) (R401) -/

/-- Multiplication by α = 0x02 modulo 0x11D. -/
def gfDouble (a : Byte) : Byte := if a.getMsbD 0 then (a <<< 1) ^^^ 0x1D#8 else a <<< 1
/-- Product in the field. -/
def gfMul (a b : Byte) : Byte := (List.range 8).foldl (fun r i => gfDouble r ^^^ (if b.getMsbD i then a else 0)) 0
/-- α to a power. -/
def gfAlpha (n : Nat) : Byte := stepN gfDouble n 1
/-- Inverse: the 254th power, from the squares of squares; 0 for 0. -/
def gfInv (a : Byte) : Byte :=
  ((List.range 7).foldl (fun x _ => let q := gfMul x.1 x.1; (q, gfMul x.2 q)) (a, 1#8)).2

/-- A polynomial, lowest power first, at a point. -/
def gfEval (p : List Byte) (x : Byte) : Byte := p.foldr (fun c a => gfMul a x ^^^ c) 0

/-- The polynomial of a codeword: its first byte is the coefficient of the highest power (log entry 45). -/
def codePoly (w : Bytes) : List Byte := w.reverse

/-- The syndromes: the codeword at α^0 to α^5. -/
def syndromes (w : Bytes) : List Byte := (List.range 6).map fun i => gfEval (codePoly w) (gfAlpha i)

/-- A valid codeword: 38 bytes whose syndromes are 0. -/
def codeValid (w : Bytes) : Bool := w.length == 38 && (syndromes w).all (· == 0)

/-- Sum of polynomials. -/
def gfAdd : List Byte → List Byte → List Byte
  | [], q => q
  | p, [] => p
  | a :: p, b :: q => (a ^^^ b) :: gfAdd p q

/-- The state of the search for the locator (Berlekamp and Massey). -/
structure Massey where
  c : List Byte := [1]
  b : List Byte := [1]
  l : Nat := 0
  m : Nat := 1
  d : Byte := 1

/-- One syndrome more. -/
def masseyStep (syn : List Byte) (x : Massey) (n : Nat) : Massey :=
  let d := (List.range (x.l + 1)).foldl (fun a i => a ^^^ gfMul (x.c.getD i 0) (syn.getD (n - i) 0)) 0
  if d = 0 then { x with m := x.m + 1 }
  else
    let k := gfMul d (gfInv x.d)
    let c := gfAdd x.c (List.replicate x.m 0 ++ x.b.map (gfMul k))
    if 2 * x.l ≤ n then { c, b := x.c, l := n + 1 - x.l, m := 1, d } else { x with c, m := x.m + 1 }

/-- The powers of the erroneous bytes. -/
def errorPowers (syn : List Byte) : Option (List Nat) :=
  let x := (List.range 6).foldl (masseyStep syn) {}
  let ps := (List.range 38).filter fun e => gfEval x.c (gfInv (gfAlpha e)) == 0
  if x.l ≤ 3 ∧ ps.length = x.l then some ps else none

/-- The coefficients of the product of (x - r). -/
def polyOf (roots : List Byte) : List Byte :=
  roots.foldl (fun p r => gfAdd (0 :: p) (p.map (gfMul r))) [1]

/-- The error at one power, from the syndromes and the other powers. -/
def errorValue (syn : List Byte) (ps : List Nat) (e : Nat) : Byte :=
  let others := (ps.filter (· ≠ e)).map gfAlpha
  let cs := polyOf others
  let num := ((List.range cs.length).zip cs).foldl (fun a ic => a ^^^ gfMul ic.2 (syn.getD ic.1 0)) 0
  gfMul num (gfInv (others.foldl (fun a r => gfMul a (gfAlpha e ^^^ r)) 1))

/-- The decoder of R401: a codeword with at most 3 erroneous bytes is corrected; none where it cannot be. -/
def rsDecode (w : Bytes) : Option Bytes :=
  let syn := syndromes w
  match errorPowers syn with
  | none => none
  | some ps =>
    let fixed := ((List.range w.length).zip w).map fun ib =>
      let e := w.length - 1 - ib.1
      if ps.contains e then ib.2 ^^^ errorValue syn ps e else ib.2
    if codeValid fixed then some fixed else none

/-- The generator polynomial: the product of (x - α^i) for i from 0 to 5, lowest power first. -/
def rsGenerator : List Byte := polyOf ((List.range 6).map gfAlpha)

/-- The check bytes of data bytes: the remainder of their polynomial times x^6, highest power first. -/
def rsCheck (d : Bytes) : Bytes :=
  let g := (rsGenerator.take 6).reverse
  d.foldl (fun (r : List Byte) (x : Byte) =>
    let k := x ^^^ r.headD 0#8
    ((r.drop 1 ++ [0#8]).zip g).map fun (ab : Byte × Byte) => ab.1 ^^^ gfMul k ab.2) (zeros 6)

/-- The codeword of 32 data bytes, the data first (log entry 45). -/
def rsEncode (d : Bytes) : Bytes := d ++ rsCheck d

/-! ### Reads (R402, R403) -/

/-- A codeword is written back as it should be; one of zeros is as after reset. -/
def writeBack (index : Nat) (d : Bytes) (s : State) : State :=
  { s with itg := { s.itg with words := s.itg.words.set index (if d.all (· == 0) then [] else rsEncode d) } }

/-- ROW_LIMIT (R415). -/
def PMem.rowLimit (m : PMem) : Nat := fld (m.word 0x0C00 1) 7 0

/-- A row that holds ROW_LIMIT or more codewords corrected in the pass running is reported, once in the pass (R403). -/
def rowCheck (s : State) (row : Nat) : State :=
  if s.cfg.active.rowLimit ≤ s.itg.rowCount.get row ∧ s.itg.rowsTold.contains row = false then reportRow row s else s

/-- One codeword is read and decoded (R402, R403, R404, R416): whether its data is good. -/
def readCode (x : Nat × Bytes) (s : State) : Bool × State :=
  if codeValid x.2 then (true, s)
  else
    match rsDecode x.2 with
    | some w =>
      (true, rowCheck (writeBack x.1 (w.take 32) { s with itg := { s.itg with
        corrected := inc32 s.itg.corrected, rowCount := s.itg.rowCount.upd (x.1 / 32) (· + 1) } }) (x.1 / 32))
    | none => (false, badCodeword x.1 s)

/-- The codewords that a use of the data path reads, with their index: whether all of them are good. -/
def readStore (reads : List (Nat × Bytes)) (s : State) : Bool × State :=
  reads.foldl (fun gs x => let (g, s) := readCode x gs.2; (gs.1 && g, s)) (true, s)

end Sys2Proof.Machine
end

