-- ==== Sys2Proof/Machine/Path.lean ====
section
/-! DEFINITION. The data path's settings, spans and words: CIC and pre-decimator (R124 to R130), compensation FIR,
notch and Reed FIR (R147 to R157), look-ahead (R159), resampler (R185 to R187), mains measurement (R154). -/

namespace Sys2Proof.Machine

open Sys2Proof

/-! ### Settings and spans -/

/-- The path settings of a channel under a configuration. -/
def PMem.pathSet (m : PMem) (ch : Nat) : PathSet :=
  { order := m.order ch, dec := m.dec ch, reedDec := m.reedDec ch, firByp := m.firByp ch, notch := m.notch ch
    bw := m.notchBw ch, h3 := m.h3 ch, bank := m.liveBank (dieOf ch) }

/-- L_C in modulator clocks (R159). -/
def lookC (p : PathSet) : Nat :=
  ceilDiv (p.order * p.dec + (if p.firByp then 32 * p.dec else 63 * p.dec + 64 * p.dec)) 2

/-- L_R in modulator clocks, for a bank of nt taps (R159). -/
def lookR (nt : Nat) (p : PathSet) : Nat := ceilDiv (p.reedDec + nt * p.reedDec + 32 * p.reedDec) 2

/-- T_N in modulator clocks (R152): 0.1 ms is 2,560 clocks. -/
def decayN (p : PathSet) : Nat :=
  if p.notch = 0 then 0
  else
    2560 * ((if p.h3 then [58837, 29419, 11768, 5884, 2942] else [44128, 22064, 8826, 4413, 2207]).getD p.bw 0)

/-- NT of the bank that a channel's settings name. -/
def PMem.ntOf (m : PMem) (ch : Nat) (p : PathSet) : Nat := m.bankNT (dieOf ch) p.bank

/-- The channel look-ahead L (R159). -/
def PMem.lookL (m : PMem) (ch : Nat) : Nat :=
  max (lookC (m.pathSet ch)) (lookR (m.ntOf ch (m.pathSet ch)) (m.pathSet ch))

/-- The switching instant of a channel for a change at a boundary (R96): the first modulator clock at or after its last
sample under the old settings, plus its look-ahead. -/
def switchClock (old : PMem) (ch b : Nat) : Nat := clockFrom (fineOf (old.gridBefore (old.group ch) b)) + old.lookL ch

/-- Loom units of a number of modulator clocks, rounded up. -/
def clocksLoom (c : Nat) : Nat := loomOf (clockFine c)

/-! ### CIC and pre-decimator -/

/-- Limit to 40 bits (R147), and whether that changed the value. -/
def sat40 (v : Int) : Int := clampInt (-(2 ^ 39)) (2 ^ 39 - 1) v
def over40 (v : Int) : Nat := if sat40 v = v then 0 else 1

/-- The least e with n ≤ 2^e. -/
def ceilLog2 (n : Nat) : Nat := if n ≤ 1 then 0 else Nat.log2 (n - 1) + 1

/-- Normalise a CIC sum to the 40-bit word W (R127), and 1 if it was limited (R149). -/
def normCic (order dec : Nat) (sum : Int) : Int × Nat :=
  let dn := dec ^ order
  let e := ceilLog2 dn
  let k := roundEven (2 ^ (e + 23) : Nat) dn
  let v := if 14 ≤ e then roundEven (sum * k) (2 ^ (e - 14)) else sum * k * (2 ^ (14 - e) : Nat)
  (sat40 v, over40 v)

/-- One modulator code into the integrators (R124): each takes the sum of the one before it, modulo 2^64. -/
def integrate : List DWord → DWord → List DWord
  | [], _ => []
  | i :: r, x => (i + x) :: integrate r (i + x)

/-- A list of n words: the first n given, zeros for the rest. -/
def padWords (n : Nat) (l : List DWord) : List DWord := (List.range n).map fun i => l.getD i 0

/-- One word through the combs: each subtracts its input of the word before. -/
def combs : List DWord → DWord → List DWord × DWord
  | [], x => ([], x)
  | d :: r, x =>
    let (r', y) := combs r (x - d)
    (x :: r', y)

/-- The CIC forms a word from the codes that entered since the word before (R124, R125, R127). -/
def cicForm (order dec : Nat) (ints cs : List DWord) (codes : List Int) : List DWord × List DWord × Int × Nat :=
  let ints := codes.foldl (fun a x => integrate a (BitVec.ofInt 64 x)) (padWords order ints)
  let (cs, y) := combs (padWords order cs) (ints.getLastD 0)
  (ints, cs, normCic order dec y.toInt)

/-! ### Compensation FIR, notch, Reed FIR -/

/-- Sum of products of coefficients and words, newest word first. -/
def firSum (coef : Nat → Int) (ws : List Int) : Int :=
  ((List.range ws.length).zip ws).foldl (fun a iw => a + coef iw.1 * iw.2) 0

/-- A 72-bit sum of Q1.23 products reduced to 40 bits (R147): value, and 1 if it was limited. -/
def reduce23 (acc : Int) : Int × Nat :=
  let v := roundEven acc (2 ^ 23)
  (sat40 v, over40 v)

/-- binary64 constants: pi, one and two. -/
def f64Pi : DWord := 0x400921FB54442D18#64
def f64One : DWord := 0x3FF0000000000000#64
def f64Two : DWord := 0x4000000000000000#64

/-- A binary64 value rounded convergently to Q2.22, limited to its range (R147, R151). -/
def q22 (x : DWord) : Int := clampInt (-(2 ^ 23)) (2 ^ 23 - 1) (fToInt (f64v x) 22)

/-- r and cos ω of a notch biquad at f_n of width B_n for a notch rate f_N (R151), in binary64. -/
def notchRC (fn bn fN : DWord) : DWord × DWord :=
  (f64Sub f64One (f64Div (f64Mul f64Pi bn) fN),
    f64Cos (f64Div (f64Mul (f64Mul f64Two f64Pi) fn) fN))

/-- The five coefficients b0, b1, b2, a1, a2 of R151 in Q2.22. -/
def notchCoefs (fn bn fN : DWord) : List Int :=
  let (r, c) := notchRC fn bn fN
  let rc2 := f64Mul (f64Mul f64Two r) c
  let r2 := f64Mul r r
  let g := f64Div (f64Add (f64Sub f64One rc2) r2) (f64Sub f64Two (f64Mul f64Two c))
  [q22 g, q22 (f64Mul (f64Mul (f64Neg f64Two) g) c), q22 g, q22 rc2, q22 (f64Neg r2)]

/-- Notch rate f_N of a channel's settings (R148). -/
def rateN (p : PathSet) : DWord := f64OfRat 25600000 (if p.firByp then p.dec else 2 * p.dec)

/-- Width B of R152. -/
def notchWidth (bw : Nat) : Nat := [1, 2, 5, 10, 20].getD bw 0

/-- The nominal mains frequency of NOM (R155, R175). -/
def PMem.nominal (m : PMem) : DWord := f64OfInt (if bitAt m.mains 30 then 60 else 50)

/-- The mains frequency in use at a loom time for a channel's NOTCH (R151, R155, R174). -/
def State.mainsAt (s : State) (m : PMem) (notch t : Nat) : DWord :=
  let fm := pastAt s.filt.mains.fmPast s.filt.mains.fm t
  if notch = 1 then f64OfInt 50 else if notch = 2 then f64OfInt 60 else if fm = 0 then m.nominal else fm

/-- The mains frequency in use now. -/
def State.mainsFor (s : State) (m : PMem) (notch : Nat) : DWord := s.mainsAt m notch s.clk.loom

/-- Coefficients of the fundamental and of the third-harmonic biquad for a word with an instant; empty where disabled
(R148, R151, R155). -/
def State.notchPair (s : State) (m : PMem) (p : PathSet) (t : Nat) : List Int × List Int :=
  if p.notch = 0 then ([], [])
  else
    let fm := s.mainsAt m p.notch t
    let b := notchWidth p.bw
    (notchCoefs fm (f64OfInt b) (rateN p),
      if p.h3 then notchCoefs (f64Mul (f64OfInt 3) fm) (f64OfInt (3 * b)) (rateN p) else [])

/-- One word through a biquad, direct form I with first-order error feedback (R148); no coefficients, no change. -/
def biquad (co : List Int) (b : Biquad) (x : Int) : Biquad × Int × Nat :=
  if co.isEmpty then (b, x, 0)
  else
    let acc := co.getD 0 0 * x + co.getD 1 0 * b.x1 + co.getD 2 0 * b.x2 + co.getD 3 0 * b.y1 + co.getD 4 0 * b.y2
      + b.res
    let q := roundEven acc (2 ^ 22)
    let y := sat40 q
    ({ x1 := x, x2 := b.x1, y1 := y, y2 := b.y1, res := acc - q * 2 ^ 22 }, y, over40 q)

/-! ### Resampler -/

/-- Phase 64 of a tap is phase 0 of the next, and of tap 31 it is 0 (R186). -/
def protoAt (i p : Nat) : Int :=
  if 64 ≤ p then (if 31 ≤ i then 0 else protoWord (64 * (i + 1))) else protoWord (64 * i + p)

/-- The coefficient of a tap at phase p and remainder lam in Q1.23 (R186 step 4). -/
def tapCoef (i p lam : Nat) : Int :=
  roundEven (protoAt i p * 2 ^ 23 + (lam : Int) * (protoAt i (p + 1) - protoAt i p)) (2 ^ 23)

/-- The word whose doubled centre is c2; words that are not there count as zero (R161, R186). -/
def wordAt (ws : List InWord) (c2 : Int) : Int :=
  match ws.find? fun w => decide (w.centre2 = c2) with
  | some w => w.value
  | none => 0

/-- Interpolate the words of one zeroing at a signal instant, given in fine units of loom time (R186). -/
def resample (ws : List InWord) (gen : Nat) (tau : Int) : Int × Nat :=
  match ws.filter fun w => w.gen == gen with
  | [] => (0, 0)
  | w :: r =>
    if w.span = 0 then (0, 0)
    else
      let step : Int := w.span * (2 ^ 19 : Nat)
      let d : Int := tau - w.centre2 * (2 ^ 18 : Nat)
      let n := d / step
      let m := roundEven ((d - n * step) * 2 ^ 29) (w.span * 2 ^ 19)
      let (n, mu) := if m ≥ 2 ^ 29 then (n + 1, 0) else (n, m.toNat)
      let p := mu / 2 ^ 23
      let lam := mu % 2 ^ 23
      let acc := (List.range 32).foldl (fun (a : Int) i =>
        a + tapCoef i p lam * wordAt (w :: r) (w.centre2 + 2 * w.span * (n + 16 - i))) 0
      reduce23 acc

/-! ### Words arrive -/

/-- The settings after a switch: those of its side, where it has any. -/
def PathSet.after (p : PathSet) (w : Switch) : PathSet :=
  match w.set with
  | none => p
  | some q =>
    if w.reed then { p with reedDec := q.reedDec, bank := q.bank } else { q with reedDec := p.reedDec, bank := p.bank }

/-- The settings of a channel at a modulator clock, once the switches up to it have come (R96, R161, R170). -/
def Chan.setAt (c : Chan) (at_ : Nat) : Option PathSet :=
  c.set.map fun p => (c.pend.filter fun w => decide (w.clock ≤ at_)).foldl PathSet.after p

/-- A switch takes its place among those to come, by its clock; settings of later ones, which an earlier change of the
configuration has left, give way to its own. -/
def putSwitch (w : Switch) : List Switch → List Switch
  | [] => [w]
  | x :: r =>
    if w.clock < x.clock then w :: (x :: r).map fun y => { y with set := if y.set.isSome then w.set.or y.set else none }
    else x :: putSwitch w r

/-- A zeroing or change of settings takes over on the side it concerns (R129, R161). -/
def applySwitch (c : Chan) (w : Switch) : Chan :=
  let c := { c with set := c.set.map fun p => p.after w }
  if w.reed then
    (if w.zeroChain then { c with reedWords := [], rGen := max c.rGen w.clock } else c)
  else
    let c := if w.zeroCic then { c with ints := [], combs := [] } else c
    if w.zeroChain then { c with cicWords := [], notch1 := {}, notch3 := {}, cGen := max c.cGen w.clock } else c

/-- The switches of one side that word k has passed, by the loom clock at which it arrives, and the channel under
them; the last of them that zeroes the CIC bounds the codes that count. -/
def takeSwitches (epoch k now : Nat) (reed : Bool) (c : Chan) : Chan × Option Nat :=
  let passed := fun (w : Switch) =>
    let f := epoch + k * (((c.setAt w.clock).map fun p => if reed then p.reedDec else p.dec).getD 0)
    w.reed == reed && decide (w.clock < f) && decide (f ≤ now)
  let taken := c.pend.filter passed
  let c' := taken.foldl applySwitch { c with pend := c.pend.filter fun w => !(passed w) }
  (c', ((taken.filter (·.zeroCic)).getLast?).map (·.clock))

/-- Words kept for interpolation on either path: those of a quarter second up to the newest, as far back as the phase
delay and the look-ahead reach (R159, R186, R190). -/
def keepWords (ws : List InWord) : List InWord :=
  match ws with
  | [] => []
  | x :: _ => ws.takeWhile fun w => decide (x.centre2 * (2 ^ 18 : Nat) ≤ w.centre2 * (2 ^ 18 : Nat) + fineOf (2 ^ 30))

/-- The designated channel of the mains word takes a notch input word (R154). -/
def mainsWord (m : PMem) (ch : Nat) (c2 : Int) (v : Int) (x : Mains) : Mains :=
  if bitAt m.mains 31 && fld m.mains 7 0 == ch then
    let ampl : Int := 7864320 * 65536 * (fld m.mains 23 16 : Nat)
    let x' := { x with prev := some (c2, v), armed := x.armed || decide (v * 1000 < -ampl)
                       awaitHigh := x.awaitHigh && !(decide (v * 1000 > ampl)) }
    match x.prev with
    | some (c1, u) =>
      if u < 0 ∧ v ≥ 0 ∧ x.armed = true ∧ x.awaitHigh = false then
        let at_ := (c1 * (v - u) + (c2 - c1) * (-u)) * (2 ^ 18 : Nat) / (v - u)
        { x' with crossings := (at_ :: x.crossings).take 11, armed := false
                  awaitHigh := !(decide (v * 1000 > ampl)) }
      else x'
    | none => x'
  else x

/-- Word k of a channel's CIC stream passes stages 3 to 5 of R22: CIC, compensation FIR or bypass, notch. -/
def cicArrive (s : State) (ch k : Nat) (codes : List Int) (c : Chan) : Chan × Mains :=
  let (c, z) := takeSwitches s.clk.epoch k (clockFrom (fineOf s.clk.loom)) false c
  match c.set with
  | none => (c, s.filt.mains)
  | some p =>
    let codes := match z with
      | some z => codes.drop (codes.length - (s.clk.epoch + k * p.dec - z))
      | none => codes
    let (ints, cs, w, nw) := cicForm p.order p.dec c.ints c.combs codes
    let words := (w :: c.cicWords).take 63
    let c := { c with ints, combs := cs, cicWords := words, clamps := sat16 (c.clamps + nw) }
    if !p.firByp && k % 2 == 1 then (c, s.filt.mains)
    else
      let (v, n0) := if p.firByp then (w, 0) else reduce23 (firSum (firTap p.order) words)
      let base : Int := 2 * ((s.clk.epoch + k * p.dec : Nat) : Int) - 2 - (p.order * (p.dec - 1) : Nat)
      let c2 := if p.firByp then base else base - 62 * p.dec
      let mains := mainsWord s.cfg.active ch c2 v s.filt.mains
      let (k1, k3) := s.notchPair s.cfg.active p (c2 * (2 ^ 18 : Nat) / 3125).toNat
      let (b1, y, n1) := biquad k1 c.notch1 v
      let (b3, y, n3) := biquad k3 c.notch3 y
      let w : InWord := { centre2 := c2, span := if p.firByp then p.dec else 2 * p.dec, value := y, gen := c.cGen }
      ({ c with notch1 := b1, notch3 := b3, clamps := sat16 (c.clamps + n0 + n1 + n3)
                cicIn := keepWords (w :: c.cicIn) }, mains)

/-- The configuration that holds a bank of an engine as it last was live: that in force, or the newest before it
(R158, R170). -/
def State.reedBank (s : State) (die bank : Nat) : PMem :=
  ((s.cfg.active :: s.cfg.past.map (·.2)).find? fun m => PMem.liveBank m die == bank).getD s.cfg.active

/-- Word k of a channel's pre-decimator stream passes the Reed FIR (R130, R157, R185). -/
def reedArrive (s : State) (ch k : Nat) (codes : List Int) (c : Chan) : Chan :=
  let (c, _) := takeSwitches s.clk.epoch k (clockFrom (fineOf s.clk.loom)) true c
  match c.set with
  | none => c
  | some p =>
    let (w, nw) := normCic 1 p.reedDec ((codes.drop (codes.length - p.reedDec)).foldl (· + ·) 0)
    let words := (w :: c.reedWords).take 512
    let m := s.reedBank (dieOf ch) p.bank
    let nt := m.ntOf ch p
    let (y, n) := reduce23 (firSum (m.bankCoef (dieOf ch) p.bank) (words.take nt))
    let c2 : Int := 2 * ((s.clk.epoch + k * p.reedDec : Nat) : Int) - ((nt - 1) * p.reedDec : Nat) - (p.reedDec + 1 : Nat)
    let w : InWord := { centre2 := c2, span := p.reedDec, value := y, gen := c.rGen }
    { c with reedWords := words, clamps := sat16 (c.clamps + n + nw), reedIn := keepWords (w :: c.reedIn) }

end Sys2Proof.Machine
end

