-- ==== Sys2Proof/Machine/Recovery.lean ====
section
/-! DEFINITION. Recoveries (R161 to R171): how an event is registered, and how each sample takes its place in them. -/

namespace Sys2Proof.Machine

open Sys2Proof

/-- What an event of R161 zeroes on the CIC path. -/
inductive Zeroed where
  /-- The Reed path only. -/
  | reed
  /-- Compensation FIR, notch and both resamplers too, from a modulator clock on. -/
  | chain (clock : Nat)
  /-- The CIC too, at a modulator clock (R129). -/
  | cic (clock : Nat)
  deriving DecidableEq, Repr

/-- An event of R161 as it is found. -/
structure EventOf where
  mode : Nat
  first : Int
  cond : Option Nat := none
  step : Bool := false
  sync : Bool := false
  /-- Entry instant t_E, fine. -/
  tE : Nat
  zeroed : Zeroed := .reed
  /-- The settings from then on, and whether they are new. -/
  set : PathSet
  fresh : Bool := false
  /-- NT of the bank they name. -/
  nt : Nat

/-- The filter chain runs the channel on the Reed path (R130, R148): in a recovery, before its first sample too, or
under a test. -/
def Chan.onReed (c : Chan) : Bool := c.recovery.isSome || c.testFrom.isSome || c.entries.any fun e => e.recover && e.cond.isNone

/-- The pre-decimator of a channel that comes onto the Reed path forms its words from a modulator clock on (R24,
R130). -/
def Chan.reedBegins (at_ : Nat) (c : Chan) : Chan := if c.onReed then c else { c with reedSlot := none, reedFrom := at_ }

/-- Register an event of R161 with a channel: its settle instants (R162, R163), its zeroings, its first sample. -/
def registerEvent (epoch : Nat) (e : EventOf) (c : Chan) : Chan :=
  let reedAt := multFrom epoch (clockFrom e.tE) e.set.reedDec
  let look := clockFine (lookC e.set + decayN e.set)
  let set := if e.fresh then some e.set else none
  let c := if e.cond.isNone then c.reedBegins reedAt else c
  let pend := putSwitch { clock := reedAt, reed := true, set, zeroCic := false, zeroChain := true } c.pend
  let entry : Entry :=
    { mode := e.mode, first := e.first, cond := e.cond, step := e.step, recover := true, sync := e.sync, tE := e.tE
      tRS := clockFine (reedAt + lookR e.nt e.set), tCS := e.tE + look, cGen := none, rGen := some reedAt }
  match e.zeroed with
  | .reed => { c with pend, entries := c.entries ++ [entry] }
  | .chain z =>
    { c with
      pend := putSwitch { clock := z, reed := false, set, zeroCic := false, zeroChain := true } pend
      entries := c.entries ++ [{ entry with cGen := some z }] }
  | .cic z =>
    { c with
      pend := putSwitch { clock := z, reed := false, set, zeroCic := true, zeroChain := true } pend
      entries := c.entries ++ [{ entry with tCS := clockFine z + look, cGen := some z }] }

/-- A change whose first sample carries STEP and starts no recovery (R167). -/
def registerStep (first : Nat) (c : Chan) : Chan :=
  { c with entries := c.entries ++ [{ mode := 0, first, cond := none, step := true, recover := false, sync := false
                                      tE := 0, tRS := 0, tCS := 0, cGen := none, rGen := none }] }

/-- An event of the channel's own data or signal (R161, R167), under the settings in use at its entry instant (R170).
-/
def eventNow (s : State) (ch mode : Nat) (first : Int) (tE : Nat) (chain : Bool) (c : Chan) : Chan :=
  match c.setAt (clockFrom tE) with
  | none => c
  | some p =>
    registerEvent s.clk.epoch
      { mode, first, tE, zeroed := if chain then .chain (clockFrom tE) else .reed, set := p
        nt := (s.reedBank (dieOf ch) p.bank).ntOf ch p } c

/-- Register such an event with a channel of the state. -/
def eventOn (ch mode : Nat) (first : Int) (tE : Nat) (chain : Bool) (s : State) : State :=
  chanUpd ch (eventNow s ch mode first tE chain) s

/-- A channel's words are lost from a fine instant on (R24, R405); they come again from one. -/
def openGap (at_ : Nat) (c : Chan) : Chan :=
  if c.gaps.any (·.2.isNone) then
    { c with gaps := c.gaps.map fun g => if g.2.isNone then (min g.1 at_, none) else g }
  else { c with gaps := (at_, none) :: c.gaps }
def closeGap (dest : Nat) (c : Chan) : Chan :=
  { c with gaps := c.gaps.map fun g => if g.2.isNone then (g.1, some (max g.1 dest)) else g }

/-! ### Samples -/

/-- What an event needs of a sample to be its first (R161). -/
def entryDue (e : Entry) (grid : Nat) (tau : Int) (lastTau : Option Int) : Bool :=
  if e.mode = 0 then decide (e.first ≤ grid)
  else if e.mode = 1 then decide (e.first ≤ tau)
  else
    match lastTau with
    | some l => decide (e.first ≤ l)
    | none => false

/-- The channel is on the Reed path at a fine instant of the past (R167): a recovery is in progress whose last sample
had not been formed by then, one whose first sample is still to come included. -/
def onReedAt (c : Chan) (at_ : Nat) : Bool :=
  c.recovery.isSome || decide (at_ < fineOf c.recEnded)
    || c.entries.any fun e => e.recover && e.cond.isNone && decide (e.tE ≤ at_)

/-- An event's first sample: a recovery starts, or the one in progress is extended (R162 to R164, R168). -/
def beginEntry (c : Chan) (e : Entry) : Chan :=
  let c := { c with cGenS := max c.cGenS (e.cGen.getD 0), rGenS := max c.rGenS (e.rGen.getD 0) }
  let c := match c.recovery with
    | none => { c with
        recovery := some { tRS := e.tRS, tCS := e.tCS, tSync := if e.sync then some e.tRS else none, fade := 0, force := false }
        recoveries := inc16 c.recoveries }
    | some r => { c with
        recovery := some { tRS := max r.tRS e.tRS, tCS := max r.tCS e.tCS
                           tSync := if e.sync then some (max e.tRS (r.tSync.getD 0)) else r.tSync
                           fade := 0, force := r.force || decide (0 < r.fade) }
        abandoned := if r.fade = 0 then c.abandoned else inc16 c.abandoned }
  match c.recovery with
  | some r => { c with lastRS := loomOf r.tRS, lastCS := loomOf r.tCS }
  | none => c

/-- The events whose first sample this is (R33, R161, R167): the channel under them, and whether the sample carries
STEP. -/
def takeEntries (c : Chan) (grid : Nat) (tau : Int) : Chan × Bool :=
  let due := c.entries.filter fun e => entryDue e grid tau c.lastTau
  let counts := fun (e : Entry) => match e.cond with
    | none => true
    | some a => onReedAt c a
  (due.filter counts).foldl (fun (cs : Chan × Bool) e => ((if e.recover then beginEntry cs.1 e else cs.1), cs.2 || e.step))
    ({ c with entries := c.entries.filter fun e => !(entryDue e grid tau c.lastTau) }, false)

/-- Which path forms a sample (R164, R165, R171). -/
inductive Former where
  | cic
  | reed
  | fade (j len : Nat)
  deriving DecidableEq, Repr

/-- The next sample's place in its recovery (R164, R165, R171): a fade keeps the length with which it began; who forms
it, its flags, and the channel after it. -/
def placeSample (c : Chan) (fadeLen : Nat) (held : Bool) (tau : Int) (loom formAt : Nat) : Former × Nat × Chan :=
  match c.recovery with
  | none => (.cic, 0, { c with waiting := false })
  | some r =>
    let uns := if tau < r.tRS then fUNS else 0
    let syn := match r.tSync with
      | some b => if tau < b then fSYNR else 0
      | none => 0
    let flags := fPATH + uns + syn
    if r.force || (r.fade == 0 && !(decide (r.tRS ≤ tau ∧ r.tCS ≤ tau))) then
      (.reed, flags, { c with recovery := some { r with force := false }, waiting := false })
    else if r.fade == 0 && held then (.reed, flags, { c with waiting := true })
    else
      let j := r.fade + 1
      let len := if r.fade = 0 then fadeLen else r.len
      let c := { c with waiting := false, fadeAt := formAt }
      if j ≥ len then (.fade j len, flags, { c with recovery := none, recEnded := loom })
      else (.fade j len, flags, { c with recovery := some { r with fade := j, len } })

/-- The 40-bit word of a sample (R164, R165, R186), and the values that were limited on the way (R149). -/
def sampleWord (c : Chan) (who : Former) (tau : Int) : Int × Nat :=
  match who with
  | .cic => resample c.cicIn c.cGenS tau
  | .reed => resample c.reedIn c.rGenS tau
  | .fade j len =>
    let (yc, nc) := resample c.cicIn c.cGenS tau
    let (yr, nr) := resample c.reedIn c.rGenS tau
    let v := yr + roundEven ((yc - yr) * (2 * j - 1)) (2 * len)
    (sat40 v, nc + nr + over40 v)

/-- A fade of some channel of a die's engine is in progress (R169): a recovery whose fade has begun. -/
def State.fading (s : State) (die : Nat) : Bool :=
  s.running && (List.range 64).any fun i =>
    let c := s.chan (64 * die + i)
    s.cfg.active.chanOn (64 * die + i) && (match c.recovery with
      | some r => decide (0 < r.fade)
      | none => false)

/-- Loom time at which the last fade sample on a die's engine was due to be formed (R169). -/
def State.lastFade (s : State) (die : Nat) : Nat :=
  (List.range 64).foldl (fun m i => max m (s.chan (64 * die + i)).fadeAt) 0

end Sys2Proof.Machine
end

