-- ==== Sys2Proof/Machine/Heddle.lean ====
section
/-! DEFINITION. Threads, detectors and excitation (R80 to R117, R498): the conditions that mark samples, the events of
the front end, and its commands. -/

namespace Sys2Proof.Machine

open Sys2Proof

/-! ### What is switched on -/

/-- A power domain is on (R453). -/
def State.domOn (s : State) (d : Nat) : Bool := (s.pow.domains.get d).state == 2

/-- A domain that a command needs is not on, D1 or D2 (R18, R79: refused with 0x0105). -/
def State.needsDomain (s : State) (ds : List Nat) : Bool := ds.any fun d => !(s.domOn d)

/-- The domain of a pod's die is on. -/
def State.podOn (s : State) (pod : Nat) : Bool := s.domOn (4 + pod / 4)

/-- A pod die's ply link carries words (R25): trained, on at least 2 lanes. -/
def State.linkUp (s : State) (die : Nat) : Bool :=
  let d := s.pow.domains.get (4 + die)
  d.trained && decide (d.lanesOut.length ≤ 2)

/-- A pod die's words reach the loom die in step (R25, R260, R452): on, its link up, a reset acted since it came on. -/
def State.dieUp (s : State) (die : Nat) : Bool :=
  s.domOn (4 + die) && s.linkUp die && (s.pow.domains.get (4 + die)).aligned

/-- The boundary of a make-before-break switch is past (R442): which side of it this hub is on. -/
def State.mbbSide (s : State) : Option Bool := match s.pair.switching with
  | .mbb b incoming => if beatTime b ≤ s.clk.loom then some incoming else none
  | _ => none

/-- This hub comes in by a prompt switch-over that has not acted (R441). -/
def State.promptIn (s : State) : Bool := match s.pair.switching with
  | .prompt _ incoming => incoming
  | _ => false

/-- The hub drives its VX controllers and loops (R97, R98, R445): neither a standby nor a detached hub does; from the
boundary of a make-before-break switch the incoming hub does too (R442), and by a prompt switch-over it does from t_T
(R441). -/
def State.drives (s : State) : Bool :=
  s.running && (s.hub.role != .standby || s.mbbSide == some true) && !s.pair.detached && !s.hub.inReset && !s.promptIn

/-- The hub drives what one hub at a time may: IX sources, lead watch, bias (R98); at the boundary of a
make-before-break switch they go from the outgoing to the incoming hub (R442). -/
def State.drivesIx (s : State) : Bool := s.drives && s.mbbSide != some false

/-- The first stimulus tick at or after a loom time (R324). -/
def tickFrom (t : Nat) : Nat := loomOf (clockFine (ceilDiv (clockFrom (fineOf t)) 512 * 512))

/-- The tick at which a make-before-break switch exchanges the stimulus outputs (R442), and whether this hub comes in.
-/
def State.stimSwitch (s : State) : Option (Nat × Bool) := match s.pair.switching with
  | .mbb b incoming => some (tickFrom (beatTime b), incoming)
  | _ => none

/-- The hub drives its test DACs (R98): in a make-before-break switch the outgoing hub until that tick, the incoming
one from 2 us after it (R96, R442). -/
def State.drivesDac (s : State) : Bool := s.drives && match s.stimSwitch with
  | some (u, incoming) => if incoming then decide (u + usLoom 2 ≤ s.clk.loom) else decide (s.clk.loom < u)
  | none => true

/-- The hub that comes in runs its outputs from that tick (R442). -/
def State.runsDac (s : State) : Bool := s.drives && match s.stimSwitch with
  | some (u, incoming) => if incoming then decide (u ≤ s.clk.loom) else decide (s.clk.loom < u)
  | none => true

/-- An active hub whose partner reports itself able: in FAULT the partner takes over, and until then this hub holds
its loop and stimulus outputs and keeps its fallback regulators disarmed (R440, R441). -/
def State.yields (s : State) : Bool := s.hub.role == .active && s.paired && s.pair.linkUp && s.pair.partner.able

/-- The hub state as it acts on the threads (R97): in SAFE that on entry. -/
def State.heldState (s : State) : HubState := if s.hub.state = .safe then s.hub.safeFrom else s.hub.state

/-- The excitation sources of a slot: EXC_SRC, and its SWAP partner (R89, R103, R111). -/
def PMem.excSources (m : PMem) (ch : Nat) : List Nat :=
  let n := slotExc (m.slot ch)
  if n ≤ 4 then (if ixSwap (m.ix (podOf ch) n) then [n, ixPartner (m.ix (podOf ch) n)] else [n])
  else if n = 8 ∨ n = 9 then [n]
  else []

/-- The loom time of a pod's last switching (R96). -/
def lastSwitch (now : Nat) (l : List Nat) : Nat := (l.filter fun x => decide (x ≤ now)).foldl max 0

/-- A pod switches at a loom time, which may lie ahead (R96). -/
def noteSwitch (pod at_ : Nat) (s : State) : State :=
  let now := s.clk.loom
  let add := fun (l : List Nat) => at_ :: lastSwitch now l :: l.filter fun x => decide (now < x)
  { s with hed := { s.hed with switched := s.hed.switched.upd pod add } }

/-- The word of a thread that the matrix applies (R96): until a changed thread switches, the one before. -/
def State.threadWord (s : State) (pod tt : Nat) : Word :=
  let l := s.hed.late.get (pod * 40 + tt)
  if s.clk.loom < l.1 then l.2 else s.cfg.active.thread pod tt

/-- Roles and taps are applied (R97): not in BOOT, CONFIG or reset, nor while the pod die's domain is off. -/
def State.rolesOn (s : State) (pod : Nat) : Bool := s.running && s.podOn pod && !s.hub.inReset

/-- The role that the matrix applies to a thread (R97, R98, R445): a hub that does not drive applies measuring roles
and monitor points only. -/
def State.roleOn (s : State) (pod tt : Nat) : Nat :=
  let w := s.threadWord pod tt
  let driver := role w == 5 || ((role w == 3 || role w == 4) && source w != 8 && source w != 9)
  if !(s.rolesOn pod) || (!s.drivesIx && driver) then 0 else role w

/-- Jobs that have not ended. -/
def State.liveJobs (s : State) : List (Nat × Job) := s.sh.jobs.filter fun j => j.2.ended.isNone

/-- A path test or a calibration run drives a pod's test DAC (R140, R262). -/
def State.dacTested (s : State) (pod : Nat) : Bool :=
  s.liveJobs.any fun j => match j.2.work with
    | .pathTest p => p.pod == pod && decide (p.level < p.levels.length)
    | .calRun r => r.pod == pod && (r.kind == 2 || r.kind == 4) && !r.returned
    | _ => false

/-- A pod's test DAC has a bus to drive (R97, R114, R322, R441): in SERVICE only for a test. -/
def State.dacUsed (s : State) (pod : Nat) : Bool :=
  s.podOn pod
    && (s.dacTested pod || (bitAt (s.cfg.active.word (0x0100 + pod) 64) 31 && (s.heldState != .fault || s.yields)
      && s.heldState != .service))

/-- A pod's test DAC is connected to a bus (R97, R98, R442). -/
def State.dacOn (s : State) (pod : Nat) : Bool := s.drivesDac && s.dacUsed pod

/-- The bus that a pod's test DAC drives (R114, R140, R262): a test's own, or that of its word 64. -/
def State.dacBus (s : State) (pod : Nat) : Nat :=
  (s.liveJobs.findSome? fun j => match j.2.work with
    | .pathTest p => if p.pod = pod ∧ p.level < p.levels.length then some p.bus else none
    | .calRun r => if r.pod = pod ∧ (r.kind = 2 ∨ r.kind = 4) ∧ r.returned = false then some r.bus else none
    | _ => none).getD (fld (s.cfg.active.word (0x0100 + pod) 64) 30 28)

/-- A slot is under a path test, or lent to a calibration run (R141, R264). -/
def State.underTest (s : State) (ch : Nat) : Bool :=
  s.liveJobs.any fun j => match j.2.work with
    | .pathTest p => decide (p.level < p.levels.length) && p.pod == ch / 16 && nbit p.mask (ch % 16)
    | .calRun r => !r.returned && ((r.kind != 5 && r.pod == ch / 16 && nbit r.mask (ch % 16)) || (decide (4 ≤ r.kind) && r.anchor == ch))
    | _ => false

/-! ### Overrange, ADJ and LEAD of a sample -/

/-- The span of detector activity that a sample carries OVR for (R106): the newest whose onset lies at or before its
signal instant, up to and including the first sample at or after its end; a channel's first sample is that one for a
span that ends after it started to be sampled. -/
def ovrSpan (o : Ovr) (tau : Int) (last : Option Int) (since : Nat) : Option OvrSpan :=
  match o.spans.find? fun p => decide ((p.onset : Int) ≤ tau) with
  | none => none
  | some p =>
    match p.ended with
    | none => some p
    | some e =>
      if tau < e then some p
      else match last with
        | some l => if l < e then some p else none
        | none => if fineOf since ≤ e then some p else none

/-- Pods that supply a thread to a cross-pod slot (R83, R107). -/
def PMem.suppliers (m : PMem) (ch : Nat) : List Nat :=
  let w := m.slot ch
  if slotXpod w then
    (List.range 16).filter fun pod => (List.range 40).any fun tt =>
      let th := m.thread pod tt
      tapEn th && ((role th == 1 && tapBus th == slotP w) || (role th == 2 && tapBus th == slotN w))
  else []

/-- Slots whose overrange marks a channel with ADJ (R107). -/
def PMem.aggressors (m : PMem) (ch : Nat) : List Nat :=
  (List.range 256).filter fun a =>
    decide (a ≠ ch) && (a / 16 == ch / 16 || (m.chanOn a && (m.suppliers a).contains (ch / 16)))

/-- An overrange span covers a neighbour's sample (R107): up to the later of two periods and 20 us after its end. -/
def adjCovers (cycle count : Nat) (p : OvrSpan) (tau : Int) : Bool :=
  decide ((p.onset : Int) ≤ tau) && match p.ended with
    | none => true
    | some e =>
      decide ((tau - e) * count ≤ 2 * (cycle * 2 ^ 32 * 3125 : Nat))
        || decide ((tau - e) * 1000000 ≤ 20 * (2 ^ 32 * 3125 : Nat))

/-- A channel carries ADJ at a signal instant (R107). -/
def State.adjAt (s : State) (m : PMem) (ch : Nat) (tau : Int) : Bool :=
  (m.aggressors ch).any fun a =>
    (s.hed.ovr.get a).spans.any fun p => adjCovers (m.cycle (m.group ch)) (m.count (m.group ch)) p tau

/-- The four detectors, and the code of each (R115). -/
def detCode : Detector → Nat
  | .leadWatch => 0 | .ixCompliance => 1 | .vxSense => 2 | .overvoltage => 3

def State.lead (s : State) (ch det : Nat) : Lead := s.hed.leads.get (ch * 4 + det)
def leadUpd (ch det : Nat) (f : Lead → Lead) (s : State) : State :=
  { s with hed := { s.hed with leads := s.hed.leads.upd (ch * 4 + det) f } }

/-- A channel carries LEAD at a signal instant (R100, R104). -/
def State.leadAt (s : State) (ch : Nat) (tau : Int) : Bool :=
  (List.range 4).any fun d => (s.lead ch d).spans.any fun p =>
    decide ((fineOf p.1 : Int) ≤ tau) && match p.2 with
      | none => true
      | some e => decide (tau < fineOf e)

/-! ### Lead detectors -/

/-- A detector watches a slot (R103). -/
def PMem.watched (m : PMem) (ch det : Nat) : Bool :=
  let w := m.slot ch
  slotEn w && (
    if det = 0 then slotLw w
    else if det = 1 then decide (slotExc w ≤ 4)
    else if det = 2 then slotExc w == 8 || slotExc w == 9
    else decide (slotExc w ≤ 4))

/-- A detector becomes suspect (R103, R104); one that is so already finds its condition anew. -/
def leadSuspect (ch det : Nat) (s : State) : State :=
  if (s.lead ch det).state = 0 then
    leadUpd ch det (fun l => { l with
      state := 1, since := s.clk.loom, suspects := inc16 l.suspects
      spans := keepSince Prod.fst s.clk.loom ((s.clk.loom, none) :: l.spans) }) s
  else leadUpd ch det (fun l => { l with since := s.clk.loom }) s

/-- A lead fault is confirmed (R104): logged, and announced as a TC0 alarm (code 0x20 of R354). -/
def leadConfirm (ch det : Nat) (s : State) : State :=
  let l := s.lead ch det
  if l.state = 1 ∨ l.state = 3 then
    let s := leadUpd ch det (fun l => { l with state := 2, wasConfirmed := true, since := s.clk.loom }) s
    if l.wasConfirmed then s else alarmNotice true 0x20 ch 0 (alarmEvent 0x20 ch 0 s)
  else s

/-- A detector falls back to clear (R103, R104): after a confirmed fault the alarm ends and the slot recovers. -/
def leadClear (ch det : Nat) (recover : Bool) (s : State) : State :=
  let l := s.lead ch det
  if l.state = 0 then s
  else
    let now := s.clk.loom
    let close := fun (p : Nat × Option Nat) => if p.2.isNone then (p.1, some now) else p
    let s := leadUpd ch det (fun l => { l with
      state := 0, overRow := 0, underRow := 0, wasConfirmed := false, spans := l.spans.map close }) s
    let s := if l.wasConfirmed then alarmNotice false 0x20 ch 0 s else s
    if l.wasConfirmed || recover then eventOn ch 1 (fineOf now) (fineOf now) false s else s

/-- A source is at compliance, or a sensed voltage more than 2 % off its setpoint (R103, R116): the detector of a slot
that it serves, by EXC_SRC or by SWAP, says so (of the two sources of a SWAP, log entry 198). -/
def State.compliance (s : State) (pod src : Nat) : Bool :=
  (List.range 16).any fun sl =>
    let ch := 16 * pod + sl
    (s.cfg.active.excSources ch).contains src
      && [1, 2].any fun d => s.cfg.active.watched ch d && ((s.lead ch d).state == 1 || (s.lead ch d).state == 2)

/-- The detectors that the rows LEAD_SUSPECT, LEAD_CONFIRMED and LEAD_CLEARED time: IX compliance and VX sense. Lead
watch advances by its half-periods, and overvoltage by disconnection and reconnection (R100, R103). -/
def timedDet (d : Nat) : Bool := d == 1 || d == 2

/-- Loom units of n microseconds, rounded down: the shortest interval that counts as that long. -/
def usSpan (n : Nat) : Nat := n * 2 ^ 32 / 1000000

/-- From suspect to confirmed (R103): 180 us less 20 us at compliance, 400 us less 100 us off the setpoint. -/
def confirmAfter (d : Nat) : Nat := if d = 1 then usSpan 160 else usSpan 300

/-- LEAD_SUSPECT (R103, R104). -/
def execLeadSuspect (t ch : Nat) (det : Detector) (s : State) : Host.Outcome State Fault Refusal :=
  act t s fun s =>
    let d := detCode det
    if timedDet d = true ∧ s.cfg.active.watched ch d ∧ s.running = true then leadSuspect ch d s else s

/-- LEAD_CONFIRMED (R103, R104): the condition has held for the second interval of R103. -/
def execLeadConfirmed (t ch : Nat) (det : Detector) (s : State) : Host.Outcome State Fault Refusal :=
  act t s fun s =>
    let d := detCode det
    if timedDet d = true ∧ (s.lead ch d).state = 1 ∧ (s.lead ch d).since + confirmAfter d ≤ s.clk.loom then leadConfirm ch d s
    else s

/-- LEAD_CLEARED (R103, R104): the condition has been gone for 1.28 ms. -/
def execLeadCleared (t ch : Nat) (det : Detector) (s : State) : Host.Outcome State Fault Refusal :=
  act t s fun s =>
    let d := detCode det
    if timedDet d = true ∧ (s.lead ch d).since + usSpan 1280 ≤ s.clk.loom then leadClear ch d false s else s

/-- Loop resistance from two half means in nV (R102): the difference over twice the test current, in ohms, rounded
down (log entry 21). -/
def loopOhms (diff current : Nat) : Nat := diff / (200 * current)

/-- The lead-watch detector takes a half-period (R103). -/
def leadHalf (ch : Nat) (span : Bool) (s : State) : State :=
  let s := leadUpd ch 0 (fun l => { l with
    overRow := if span then l.overRow + 1 else 0, underRow := if span then 0 else l.underRow + 1 }) s
  let l := s.lead ch 0
  if span then
    if l.state = 0 then leadSuspect ch 0 s
    else
      let s := if l.state = 3 then leadUpd ch 0 (fun l => { l with state := if l.wasConfirmed then 2 else 1 }) s else s
      if 3 ≤ l.overRow then leadConfirm ch 0 s else s
  else if l.state = 0 then s
  else if 8 ≤ l.underRow then leadClear ch 0 false s
  else leadUpd ch 0 (fun l => { l with state := 3 }) s

/-- A modulator clock ends a half-period of d clocks, counted from the synchronising reset (R91, R101). -/
def State.halfEnds (s : State) (d c : Nat) : Bool := decide (s.clk.epoch ≤ c) && (c - s.clk.epoch) % d == 0

/-- The test current of the half-period that ends at a clock flows out along the P lead (R101): in the first
half-period after the reset, and in every other one from there (log entry 21). -/
def State.leadForward (s : State) (c : Nat) : Bool := (c - s.clk.epoch) / 4096 % 2 == 1

/-- A slot was overrange at some modulator clock from one up to another, this one left out (R86, R102). -/
def State.ovrIn (s : State) (ch c0 c1 : Nat) : Bool :=
  (s.hed.ovr.get ch).spans.any fun p => decide (p.onset < clockFine c1) && (match p.ended with
    | none => true
    | some e => decide (clockFine c0 < e))

/-- A slot's lead watch runs (R97, R101, R141). -/
def State.leadRuns (s : State) (ch : Nat) : Bool := s.cfg.active.watched ch 0 && s.rolesOn (ch / 16) && !(s.underTest ch)

/-- LEAD_WATCH_HALF_PERIOD (R101 to R103), at the modulator clock that ends one: the mean of the half in nV, and the
registers whose husk failed as the detector used them (R399). The half before it ended 4,096 clocks earlier, with the
current the other way. -/
def execLeadWatchHalfPeriod (t ch : Nat) (mean : Int) (husks : List Nat) (s : State) : Host.Outcome State Fault Refusal :=
  act t s fun s =>
    let c := clockFrom (fineOf s.clk.loom)
    if s.leadRuns ch = true ∧ s.halfEnds 4096 c = true then
      let w := s.cfg.active.word (0x0100 + ch / 16) 63
      let current := fld w 23 16
      let overranged := s.ovrIn ch (c - 4096) c
      let before := (s.lead ch 0).lastMean.filter fun b => b.1 + 4096 == c
      let diff := before.map fun b => (if s.leadForward c then mean - b.2 else b.2 - mean).toNat
      let beyond := overranged || (match diff with
        | some d => decide (d > fld w 15 0 * 100 * (200 * current))
        | none => false)
      let s := leadUpd ch 0 (fun l => { l with
        lastMean := some (c, mean)
        ohms := if overranged then 0xFFFFFFFF else match diff with
          | some d => min (loopOhms d current) 0xFFFFFFFF
          | none => l.ohms }) s
      usedHusks husks (if overranged || diff.isSome then leadHalf ch beyond s else s)
    else s

/-! ### Overrange -/

/-- A detector is active now. -/
def ovrOpen (o : Ovr) : Bool := match o.spans with
  | p :: _ => p.ended.isNone
  | [] => false

/-- The recovery that the end of an overrange at a fine instant brought (R161) is withdrawn: the activity goes on. -/
def dropEnd (at_ : Nat) (c : Chan) : Chan :=
  let gone := fun (e : Entry) => e.mode == 2 && decide (e.first = at_)
  let left := c.entries.filter fun e => !(gone e)
  let mine := fun (w : Switch) => w.reed && w.set.isNone
    && (c.entries.any fun e => gone e && e.rGen == some w.clock) && !(left.any fun e => e.rGen == some w.clock)
  { c with entries := left, pend := c.pend.filter fun w => !(mine w) }

/-- The stretch of activity that goes on at a fine instant, without a break (R86). -/
def ovrGoesOn (o : Ovr) (at_ : Nat) : Option OvrSpan := o.spans.head?.filter fun p => match p.ended with
  | none => true
  | some e => decide (at_ ≤ e)

/-- A slot's overrange begins at a fine instant, or goes on there (R86): the onset counters of the slot and of the
neighbours that it first marks with ADJ (R115). A change of sign begins a stretch of its own (R106). -/
def ovrBegin (ch : Nat) (at_ : Nat) (positive : Bool) (s : State) : State :=
  let o := s.hed.ovr.get ch
  let put := fun (o : Ovr) (t : Tab Ovr) => t.set ch { o with spans := keepSince (fun p => loomOf p.onset) s.clk.loom o.spans }
  match ovrGoesOn o at_ with
  | some p =>
    let rest := o.spans.drop 1
    let spans := if p.positive = positive then { p with onset := min p.onset at_, ended := none } :: rest
      else { onset := max p.onset at_, ended := none, positive } :: { p with ended := some (max p.onset at_) } :: rest
    let s := match p.ended with
      | some e => chanUpd ch (dropEnd e) s
      | none => s
    { s with hed := { s.hed with ovr := put { o with spans } s.hed.ovr } }
  | none =>
    let m := s.cfg.active
    let mark := fun (t : Tab Ovr) (nb : Nat) =>
      if (m.aggressors nb).contains ch && !(s.adjAt m nb at_) then
        t.upd nb fun o => { o with adjOnsets := inc16 o.adjOnsets } else t
    let spans := { onset := at_, ended := none, positive } :: o.spans
    let ovr := put { o with spans, onsets := inc16 o.onsets, last := loomOf at_ } (m.chansOn.foldl mark s.hed.ovr)
    { s with hed := { s.hed with ovr } }

/-- A slot's overrange ends at a fine instant (R86, R106, R161): the slot recovers after its last OVR sample. -/
def ovrEnd (ch : Nat) (at_ : Nat) (s : State) : State :=
  if ovrOpen (s.hed.ovr.get ch) then
    let close := fun (o : Ovr) => match o.spans with
      | p :: r => { o with spans := { p with ended := some at_ } :: r }
      | [] => o
    eventOn ch 2 at_ at_ false { s with hed := { s.hed with ovr := s.hed.ovr.upd ch close } }
  else s

def ovrUpd (ch : Nat) (f : Ovr → Ovr) (s : State) : State := { s with hed := { s.hed with ovr := s.hed.ovr.upd ch f } }

/-- OVERRANGE_ONSET (R85, R86): the onset instant is the first modulator clock at or after t. -/
def execOverrangeOnset (t ch : Nat) (positive : Bool) (s : State) : Host.Outcome State Fault Refusal :=
  act t s fun s =>
    if s.running = true ∧ s.podOn (ch / 16) = true then
      ovrUpd ch (fun o => { o with level := true }) (ovrBegin ch (clockFine (clockFrom (fineOf s.clk.loom))) positive s)
    else s

/-- OVERRANGE_END (R86, R106): the level detector's activity ends; the overrange ends with the later of it and the
modulator's saturation. -/
def execOverrangeEnd (t ch : Nat) (s : State) : Host.Outcome State Fault Refusal :=
  act t s fun s =>
    ovrEnd ch (max (clockFine (clockFrom (fineOf s.clk.loom))) (s.hed.ovr.get ch).satUntil)
      (ovrUpd ch (fun o => { o with level := false }) s)

/-! ### Overvoltage -/

/-- A thread's state, and a change of it. -/
def State.thr (s : State) (pod tt : Nat) : Thread := s.hed.threads.get (pod * 40 + tt)
def thrUpd (pod tt : Nat) (f : Thread → Thread) (s : State) : State :=
  { s with hed := { s.hed with threads := s.hed.threads.upd (pod * 40 + tt) f } }

/-- The IX sources of a pod whose current a thread carries: by SOURCE, by SWAP, or as common return (R88, R89). -/
def PMem.threadSources (m : PMem) (pod tt : Nat) : List Nat :=
  let w := m.thread pod tt
  let own := fun (n : Nat) => (List.range 40).any fun k =>
    let x := m.thread pod k
    role x == 4 && source x == n
  let swap := fun (n : Nat) => if ixSwap (m.ix pod n) then [n, ixPartner (m.ix pod n)] else [n]
  if role w = 3 ∧ source w ≤ 4 then swap (source w)
  else if role w = 4 ∧ source w ≤ 4 then [source w]
  else if role w = 4 ∧ source w = 15 then (List.range 5).filter fun n => ixEn (m.ix pod n) && !(own n)
  else []

/-- A thread carries a driver at present (R97, R98, R100): an IX source or return, hard or midpoint bias, or a test
DAC by its bus. -/
def State.threadDrives (s : State) (pod tt : Nat) : Bool :=
  let m := s.cfg.active
  let w := m.thread pod tt
  s.drivesIx && s.podOn pod
    && (!((m.threadSources pod tt).isEmpty) || (role w == 5 && source w != 1)
      || (tapEn w && (List.range 16).any fun p => s.dacOn p && s.dacBus p == tapBus w))

/-- Channels of a pod whose excitation source a thread's driver is (R100). -/
def PMem.threadSlots (m : PMem) (pod tt : Nat) : List Nat :=
  ((List.range 16).map (pod * 16 + ·)).filter fun ch =>
    slotEn (m.slot ch) && (m.threadSources pod tt).any fun n =>
      slotExc (m.slot ch) == n || (ixSwap (m.ix pod n) && slotExc (m.slot ch) == ixPartner (m.ix pod n))

/-- A channel's excitation source is disconnected at some thread of its pod (R100). -/
def State.excCut (s : State) (ch : Nat) : Bool :=
  s.drivesIx && s.podOn (ch / 16) && (List.range 40).any fun tt =>
    (s.thr (ch / 16) tt).disconnected && (s.cfg.active.threadSlots (ch / 16) tt).contains ch

/-- The overvoltage detectors of a pod's slots follow the disconnection of their excitation sources (R100, R103): LEAD
from then on, and with the reconnection none, and a recovery. -/
def cutSlots (pod : Nat) (s : State) : State :=
  ((List.range 16).map (16 * pod + ·)).foldl (fun s ch =>
    if s.excCut ch then (if (s.lead ch 3).state = 0 then leadSuspect ch 3 s else s) else leadClear ch 3 true s) s

/-- So do those of every pod in which drivers are disconnected, where the drivers change (R98, R100). -/
def cutLeads (s : State) : State :=
  ((List.range 16).filter fun pod => (List.range 40).any fun tt => (s.thr pod tt).disconnected).foldl (fun s p => cutSlots p s) s

/-- OVERVOLTAGE_TRIP (R100): the trip is counted, every driver of the thread disconnects, and slots whose excitation
source is disconnected carry LEAD. -/
def execOvervoltageTrip (t pod thread : Nat) (s : State) : Host.Outcome State Fault Refusal :=
  act t s fun s =>
    if (s.thr pod thread).tripped then s
    else
      let s := { s with hed := { s.hed with trips := s.hed.trips.upd pod inc16 } }
      cutSlots pod (thrUpd pod thread (fun h => { h with tripped := true, disconnected := true }) s)

/-- OVERVOLTAGE_CLEAR (R100): the detector clears; the drivers stay disconnected for 1 ms. -/
def execOvervoltageClear (t pod thread : Nat) (s : State) : Host.Outcome State Fault Refusal :=
  act t s fun s =>
    if (s.thr pod thread).tripped then
      thrUpd pod thread (fun h => { h with tripped := false, cleared := s.clk.loom }) s
    else s

/-- DRIVER_RECONNECT (R100): 1 ms after the detector cleared the drivers reconnect; LEAD clears and the slots recover.
-/
def execDriverReconnect (t pod thread : Nat) (s : State) : Host.Outcome State Fault Refusal :=
  act t s fun s =>
    let h := s.thr pod thread
    if h.disconnected = true ∧ h.tripped = false ∧ h.cleared + usSpan 1000 ≤ s.clk.loom then
      cutSlots pod (thrUpd pod thread (fun h => { h with disconnected := false }) s)
    else s

/-! ### Excitation -/

/-- Half-period T_H in modulator clocks (R91). -/
def halfClocks (k : Nat) : Nat := 12800 * 2 ^ k

/-- The phase of a source's SWAP or REVERSE (R89 to R91): half-periods count from the synchronising reset. -/
def State.excPhase (s : State) (w : Word) : Bool :=
  (ixSwap w || ixReverse w) && (clockFrom (fineOf s.clk.loom) - s.clk.epoch) / halfClocks (ixTh w) % 2 == 1

/-- EXCITATION_EXCHANGE (R89 to R91), at the modulator clock that ends a half-period: the phase changes, and affected
modulator inputs are held for 5 us, on a standby too, whose slots exchange their taps (R90, R98). A SWAP exchange
moves both partners. -/
def execExcitationExchange (t pod src : Nat) (s : State) : Host.Outcome State Fault Refusal :=
  act t s fun s =>
    let w := s.cfg.active.ix pod src
    if ixEn w ∧ (ixSwap w ∨ ixReverse w) ∧ s.rolesOn pod = true
        ∧ s.halfEnds (halfClocks (ixTh w)) (clockFrom (fineOf s.clk.loom)) = true then
      let put := fun (x : Source) => { x with heldUntil := s.clk.loom + usLoom 5 }
      let one := s.hed.sources.upd (pod * 16 + src) put
      let sources := if ixSwap w then one.upd (pod * 16 + ixPartner w) put else one
      { s with hed := { s.hed with sources } }
    else s

/-! ### Commands -/

/-- The payload of HEDDLE_STATE (R115). -/
def heddlePayload (pod : Nat) (s : State) : Bytes :=
  let one := fun (tt : Nat) =>
    let w := s.threadWord pod tt
    let h := s.thr pod tt
    beBytes 1 (s.roleOn pod tt)
      ++ beBytes 1 (128 * b2n h.tripped + 64 * b2n (h.disconnected && s.threadDrives pod tt)
        + 32 * b2n (h.tapClosed || (s.rolesOn pod && tapEn w)))
  (List.range 40).flatMap one ++ beBytes 8 (lastSwitch s.clk.loom (s.hed.switched.get pod))

/-- A pod's die has been switched off: commands that name the pod are refused with 0x0105 (R453). -/
def State.podCut (s : State) (pod : Nat) : Bool := (s.pow.domains.get (4 + pod / 4)).state == 0

/-- A pod request of one byte and one reserved byte (R115, R145; log entry 22). -/
def podRead (f : Nat → State → Bytes) (rq : Req) (s : State) : Reply :=
  let pod := beAt rq.payload 0 1
  if beAt rq.payload 1 1 ≠ 0 then .no 0x0302
  else if pod > 15 then .noAt 0x0306 pod
  else if s.podCut pod then .noAt 0x0105 pod
  else .done (f pod s)

/-- HEDDLE_STATE (R115). -/
def execHeddleState (t : Nat) (rq : Req) (s : State) : Host.Outcome State Fault Refusal :=
  runCmd { code := 0x0100, legal := stRead, standbyNo := false, len := lenIs 2 } (reading (podRead heddlePayload)) t rq s

/-- The state of a detector of a slot as LEAD_STATUS reports it (R103, R115). Whether the condition of IX compliance
or VX sense has ceased since it was last found, so that the detector clears, no command tells before it has cleared: a
free value, one for each slot in turn (log entry 199). -/
def State.leadShown (s : State) (ch d : Nat) : Nat :=
  let l := s.lead ch d
  if timedDet d && (l.state == 1 || l.state == 2) && decide (l.since < s.clk.loom) && (Config.freeWord (s.free + ch % 16)).getLsbD 0 then 3
  else l.state

/-- The detector that LEAD_STATUS reports for a slot: the one in the gravest state, confirmed before clearing before
suspect before clear, the lowest code among equals (log entry 23). -/
def State.worstLead (s : State) (ch : Nat) : Nat :=
  let grade := fun (d : Nat) => [0, 1, 3, 2].getD (s.leadShown ch d) 0
  (List.range 4).foldl (fun b d =>
    if s.cfg.active.watched ch d && (!(s.cfg.active.watched ch b) || decide (grade b < grade d)) then d else b) 0

/-- The payload of LEAD_STATUS (R115): the suspect count is that of the slot's four detectors together (DESIGN CHOICE,
log entry 158). -/
def leadPayload (pod : Nat) (s : State) : Bytes :=
  (List.range 16).flatMap fun sl =>
    let ch := pod * 16 + sl
    let d := s.worstLead ch
    let watched := (List.range 4).any (s.cfg.active.watched ch)
    beBytes 1 (if watched then s.leadShown ch d else 0xFF) ++ beBytes 1 d ++ beBytes 4 (s.lead ch 0).ohms
      ++ beBytes 2 (sat16 ((List.range 4).map fun k => (s.lead ch k).suspects).sum)

/-- LEAD_STATUS (R115). -/
def execLeadStatus (t : Nat) (rq : Req) (s : State) : Host.Outcome State Fault Refusal :=
  runCmd { code := 0x0101, legal := stRead, standbyNo := false, len := lenIs 2 }
    (fun rq s => match podRead leadPayload rq s with
      | .done p => (.done p, { s with free := s.free + 16 })
      | r => (r, s)) t rq s

/-- State byte of a source in EXC_STATUS (R115): 0 off, 1 on, 2 at compliance, 3 disconnected. -/
def State.sourceState (s : State) (pod src : Nat) (en : Bool) : Nat :=
  if !(en && (if src < 5 then s.drivesIx else s.drives) && s.podOn pod) then 0
  else if (List.range 40).any fun tt =>
    (s.thr pod tt).disconnected && (s.cfg.active.threadSources pod tt).contains src then 3
  else if s.compliance pod src then 2
  else 1

/-- The housekeeping point that reads back a source's current (R132): that of IX4 where it has taken the source's place
(R461). -/
def State.sourcePoint (s : State) (pod n : Nat) : Nat := if s.pow.replaced.get (pod * 32) = n + 1 then 6 else 2 + n

/-- The payload of EXC_STATUS (R115, R116). -/
def excPayload (pod : Nat) (s : State) : Bytes :=
  ((List.range 5).flatMap fun n =>
    let w := s.cfg.force.ix pod n
    beBytes 2 (ixCode w) ++ beBytes 1 (s.sourceState pod n (ixEn w)) ++ zeros 1
      ++ beWord (if ixEn w then s.conv.hk.get (pod * 16 + s.sourcePoint pod n) else 0))
  ++ (List.range 2).flatMap fun n =>
    let w := s.cfg.force.vx pod n
    beBytes 2 (fld w 15 0) ++ beBytes 1 (s.sourceState pod (8 + n) (bitAt w 31)) ++ zeros 1
      ++ beWord (if bitAt w 31 then s.conv.hk.get (pod * 16 + 7 + n) else 0)

/-- EXC_STATUS (R115, R116). -/
def execExcStatus (t : Nat) (rq : Req) (s : State) : Host.Outcome State Fault Refusal :=
  runCmd { code := 0x0102, legal := stRead, standbyNo := false, len := lenIs 2 } (reading (podRead excPayload)) t rq s

/-- OVR_COUNTERS (R115): clearing takes the instant of the last onset too (DESIGN CHOICE, log entry 157). -/
def execOvrCounters (t : Nat) (rq : Req) (s : State) : Host.Outcome State Fault Refusal :=
  runCmd { code := 0x0103, legal := stRead, standbyNo := false, len := lenIs 2 }
    (fun rq s =>
      let pod := beAt rq.payload 0 1
      let clear := beAt rq.payload 1 1
      if clear > 1 then (.no 0x0301, s)
      else if pod > 15 then (.noAt 0x0306 pod, s)
      else if s.podCut pod then (.noAt 0x0105 pod, s)
      else
        let one := fun (sl : Nat) =>
          let o := s.hed.ovr.get (pod * 16 + sl)
          beBytes 2 o.onsets ++ beBytes 2 o.adjOnsets ++ beBytes 8 o.last
        let wipe := fun (t : Tab Ovr) (sl : Nat) =>
          t.upd (pod * 16 + sl) fun o => { o with onsets := 0, adjOnsets := 0, last := 0 }
        (.done ((List.range 16).flatMap one),
          if clear = 1 then { s with hed := { s.hed with ovr := (List.range 16).foldl wipe s.hed.ovr } } else s))
    t rq s

end Sys2Proof.Machine
end

