-- ==== Sys2Proof/Machine/Conv.lean ====
section
/-! DEFINITION. Conversion (R118 to R146): modulator restarts, scan converters and their requests, and the commands of
the conversion chapter; path tests stand in Service.lean. -/

namespace Sys2Proof.Machine

open Sys2Proof

/-! ### Modulators -/

/-- MODULATOR_RESTART (R121, R459): t is the last of the 16 extreme clocks; the detector is active from the first of
them until the discharge ends 16 clocks later, and goes on where the level detector is active (R86). -/
def execModulatorRestart (t ch : Nat) (positive : Bool) (s : State) : Host.Outcome State Fault Refusal :=
  act t s fun s =>
    if s.running = true ∧ s.podOn (podOf ch) = true then
      let c := clockFrom (fineOf s.clk.loom)
      let times := (s.clk.loom :: s.conv.restartTimes.get ch).filter fun x => decide (s.clk.loom < x + secLoom 3600)
      let s := { s with conv := { s.conv with
        restarts := s.conv.restarts.upd ch inc16
        restartTimes := s.conv.restartTimes.set ch times } }
      let s := if s.cfg.active.restartLimit ≤ times.length then partWorn 0 (podOf ch) ch s else s
      let s := ovrUpd ch (fun o => { o with satUntil := clockFine (c + 17) }) (ovrBegin ch (clockFine (c - 15)) positive s)
      if (s.hed.ovr.get ch).level then s else ovrEnd ch (clockFine (c + 17)) s
    else s

/-! ### Buses -/

/-- Buses that the configuration claims (R82): thread taps, test DACs, cross-pod slots; and those that a path test or a
calibration run holds (R140, R264). -/
def State.busClaimed (s : State) (bus : Nat) : Bool :=
  let m := s.cfg.active
  (List.range 16).any (fun pod =>
    (List.range 40).any (fun tt => tapEn (m.thread pod tt) && tapBus (m.thread pod tt) == bus)
      || (bitAt (m.word (0x0100 + pod) 64) 31 && fld (m.word (0x0100 + pod) 64) 30 28 == bus)
      || (List.range 16).any fun sl =>
        let w := m.slot (16 * pod + sl)
        slotEn w && slotXpod w && (slotP w == bus || slotN w == bus))
  || s.liveJobs.any fun j => match j.2.work with
    | .pathTest p => p.bus == bus && decide (p.level < p.levels.length)
    | .calRun r => r.bus == bus && !r.returned
    | _ => false

/-- The lowest-numbered bus that nothing claims (R117, R140). -/
def State.freeBus (s : State) : Option Nat :=
  (List.range 8).find? fun b => !(s.busClaimed b)

/-- The configuration taps a thread to a bus, and the taps are applied (R97, R134). -/
def State.tapped (s : State) (pod tt bus : Nat) : Bool :=
  s.rolesOn pod && tapEn (s.threadWord pod tt) && tapBus (s.threadWord pod tt) == bus

/-! ### Converters -/

def scUpd (sc : Nat) (f : Converter → Converter) (s : State) : State :=
  { s with conv := { s.conv with scs := s.conv.scs.upd sc f } }

/-- Close a dynamic tap of a thread on a bus, opening any other dynamic tap there (R134). -/
def closeTap (pod tt bus : Nat) (s : State) : State :=
  let open_ := fun (x : Nat × Thread) => if x.2.tapClosed && x.2.tapBus == bus then (x.1, { x.2 with tapClosed := false, tapBus := 0 }) else x
  let threads : Tab Thread := (s.hed.threads.map open_).filter fun x => decide (x.2 ≠ default)
  thrUpd pod tt (fun h => { h with tapClosed := true, tapBus := bus })
    (noteSwitch pod s.clk.loom { s with hed := { s.hed with threads } })

/-- Release a dynamic tap. -/
def openTap (pod tt : Nat) (s : State) : State :=
  if (s.thr pod tt).tapClosed then
    thrUpd pod tt (fun h => { h with tapClosed := false, tapBus := 0 }) (noteSwitch pod s.clk.loom s)
  else s

/-- Every dynamic tap of some pods opens (R97). -/
def releaseTaps (pods : List Nat) (s : State) : State :=
  pods.foldl (fun s pod => (List.range 40).foldl (fun s tt => openTap pod tt s) s) s

/-- The thread that a request's input is, where it is one: pod and thread. -/
def requestThread (s : State) (sc : Nat) (r : ScRequest) : Option (Nat × Nat) :=
  match r.what with
  | .spot _ kind pod index => if kind = 0 then some (pod, index) else none
  | .probe _ pod tt _ => some (pod, tt)
  | .leadRes _ pod _ point _ _ => some (pod, point)
  | .readback _ => none
  | .other =>
    if r.cls = 5 then
      let w := s.cfg.active.word 0x0201 (18 + 17 * r.a + r.b)
      if bitAt w 15 || sc > 7 then none else some (fld w 11 8, fld w 5 0)
    else none

/-- The pending request of the lowest class, the earliest within it (R133). -/
def pickRequest (q : List ScRequest) : Option ScRequest :=
  q.foldl (fun b r => match b with
    | none => some r
    | some x => if r.cls < x.cls then some r else some x) none

/-- Change the first request equal to r to these. -/
def swapFirst (r : ScRequest) (by_ : List ScRequest) : List ScRequest → List ScRequest
  | [] => []
  | x :: q => if x = r then by_ ++ q else x :: swapFirst r by_ q

/-- An idle converter places the dynamic tap of the first request that waits for one, unless a request of its class or
a lower one holds the bus (R134): any other dynamic tap there opens, and the input is ready a fixed 4 us later. -/
def placeTap (sc : Nat) (s : State) : State :=
  let q := (s.conv.scs.get sc).queue
  match pickRequest (q.filter fun r => r.tap == 1) with
  | none => s
  | some r =>
    match requestThread s sc r with
    | none => s
    | some (pod, tt) =>
      if q.any fun x => x.tap == 2 && decide (x.cls ≤ r.cls) then s
      else
        let lift := fun (x : ScRequest) => if x.tap = 2 then { x with tap := 1 } else x
        let r' := { r with tap := 2, ready := s.clk.loom + usLoom 4 }
        closeTap pod tt sc (scUpd sc (fun c => { c with queue := (swapFirst r [r'] c.queue).map fun x => if x = r' then x else lift x }) s)

/-- The request that an idle converter grants now: of those whose input is ready the lowest class and the earliest in
it (R133), or else the one that is ready first. -/
def nextGrant (now : Nat) (q : List ScRequest) : Option ScRequest :=
  let q := q.filter fun r => r.tap != 1
  (pickRequest (q.filter fun r => decide (r.ready ≤ now))).or
    (q.foldl (fun b r => match b with
      | none => some r
      | some x => if r.ready < x.ready then some r else some x) none)

/-- An idle converter grants a request (R133, R134): its acquisition instant is now, or that at which its input is
ready. -/
def grant (sc : Nat) (s : State) : State :=
  if (s.conv.scs.get sc).running.isSome then s
  else
    let s := placeTap sc s
    match nextGrant s.clk.loom (s.conv.scs.get sc).queue with
    | none => s
    | some r => scUpd sc (fun c => { c with queue := swapFirst r [] c.queue, running := some (r, max s.clk.loom r.ready) }) s

/-- A conversion granted that has not begun, its input still settling, gives way (R133). -/
def unsettle (now : Nat) (c : Converter) : Converter :=
  match c.running with
  | some (r, acq) => if now < acq then { c with running := none, queue := r :: c.queue } else c
  | none => c

/-- A request joins a converter's queue and is granted at once where it is idle (R133); a thread that the configuration
does not tap to the bus waits for its dynamic tap (R134). -/
def request (sc : Nat) (r : ScRequest) (s : State) : State :=
  let tap := match requestThread s sc r with
    | some (pod, tt) => if s.tapped pod tt sc then 0 else 1
    | none => 0
  grant sc (scUpd sc (fun c => let c := unsettle s.clk.loom c; { c with queue := c.queue ++ [{ r with tap }] }) s)

/-- Spots that wait at a converter, one whose input still settles included (R134). -/
def Converter.spots (c : Converter) (now : Nat) : Nat :=
  (c.queue.filter fun r => r.cls == 2).length + match c.running with
    | some (r, acq) => b2n (r.cls == 2 && decide (now < acq))
    | none => 0

/-- A spot request, unless 4 wait (R134, 0x0508), or the converter's own die is off (R18, R453; log entry 200). -/
def spotRequest (sc : Nat) (w : SpotFor) (s : State) : Reply × State :=
  if s.podOn (2 * sc) = false then (.noAt 0x0105 sc, s)
  else if (s.conv.scs.get sc).spots s.clk.loom ≥ 4 then (.no 0x0508, scUpd sc (fun c => { c with refusals := inc16 c.refusals }) s)
  else (.later, request sc { cls := 2, ready := s.clk.loom, what := w } s)

/-- The value of a result (R131): a bus reads 100 uV to the code; an internal point's value comes in its own unit. -/
def busValue (code : Int) : Word := f32OfRat code 10000

/-- The four threads of LEAD_RES in turn: EXC+, P, N, EXC- of a slot's source (R146); none where it does not apply, to
a slot not enabled or cross-pod too (DESIGN CHOICE, log entry 164). -/
def leadPoints (m : PMem) (pod slot : Nat) : Option (List Nat) :=
  let w := m.slot (16 * pod + slot)
  let src := slotExc w
  let ts := List.range 40
  let plus := ts.find? fun k => role (m.thread pod k) == 3 && source (m.thread pod k) == src
  let own := ts.find? fun k => role (m.thread pod k) == 4 && source (m.thread pod k) == src
  let common := ts.find? fun k => role (m.thread pod k) == 4 && source (m.thread pod k) == 15
  match plus, own.or common with
  | some p, some n =>
    if slotEn w ∧ slotXpod w = false ∧ src ≤ 4 ∧ slotP w ≠ p ∧ slotP w ≠ n ∧ slotN w ≠ p ∧ slotN w ≠ n then
      some [p, slotP w, slotN w, n]
    else none
  | _, _ => none

/-- Lead resistance from two codes and the current read back, with the sign of the phase in force (R146). -/
def leadOhms (a b : Int) (current : Word) (reversed : Bool) : Word :=
  let d := if reversed then b - a else a - b
  f32Of64 (f64Div (f64OfRat d 10000) (f64Of32 current))

/-- A LEAD_RES conversion is done (R146): the next of the four, all four again where they do not lie in one
half-period of the source, or the response. -/
def leadDone (sc : Nat) (rq : Req) (pod slot : Nat) (codes : List Int) (began acq : Nat) (s : State) : State :=
  match leadPoints s.cfg.active pod slot with
  | none => reply rq (.no 0x0204) s
  | some ps =>
    let src := slotExc (s.cfg.active.slot (16 * pod + slot))
    let w := s.cfg.active.ix pod src
    let half := fun (t : Nat) => (clockFrom (fineOf t) - s.clk.epoch) / halfClocks (ixTh w)
    let s := match ps[codes.length - 1]? with
      | some p => openTap pod p s
      | none => s
    let ask := fun (p : Nat) (codes : List Int) =>
      request sc { cls := 2, ready := s.clk.loom, what := .leadRes rq pod slot p codes began } s
    match ps[codes.length]? with
    | some p => ask p codes
    | none =>
      if (ixSwap w ∨ ixReverse w) ∧ half began ≠ half acq then ask (ps.headD 0) []
      else
        let current := s.conv.hk.get (pod * 16 + s.sourcePoint pod src)
        let rev := ixReverse w && half acq % 2 == 1
        let at_ := fun (i : Nat) => codes.getD i 0
        reply rq (.done (beWord (leadOhms (at_ 0) (at_ 1) current rev) ++ beWord (leadOhms (at_ 2) (at_ 3) current rev)
          ++ beWord current)) s

/-- A scan-list entry is converted (R137): its result is kept, and the pass goes on. A pass counts once all its
entries are converted (DESIGN CHOICE, log entry 160). -/
def scanDone (sc : Nat) (r : ScRequest) (acq : Nat) (code : Int) (value : Word) (s : State) : State :=
  let w := s.cfg.active.word 0x0201 (18 + 17 * r.a + r.b)
  let left := s.conv.passLeft.get r.a - 1
  let v := if bitAt w 15 then value else busValue code
  let s := { s with conv := { s.conv with
    scan := s.conv.scan.set (16 * r.a + r.b) { value := v, code, time := acq }
    passLeft := s.conv.passLeft.set r.a left
    passes := if left = 0 then s.conv.passes.upd r.a next32 else s.conv.passes } }
  let s := if bitAt w 15 then s else openTap (fld w 11 8) (fld w 5 0) s
  if left = 0 then s else request sc { cls := 5, ready := s.clk.loom, what := .other, a := r.a, b := r.b + 1 } s

/-- The pod and internal point at a place of a converter's housekeeping round (R136): both die temperatures first,
then the points in index order, the even pod's before the odd pod's (DESIGN CHOICE, log entry 161). -/
def roundPlace (sc k : Nat) : Nat × Nat := (2 * sc + k % 2, k / 2)

/-- A held sample of the simultaneous group is converted (R135). -/
def simulDone (sc acq : Nat) (code : Int) (s : State) : State :=
  let time := ((s.conv.scs.get sc).held).getD acq
  { s with conv := { s.conv with
    simul := s.conv.simul.set sc { value := busValue code, code, time }
    scs := s.conv.scs.upd sc fun c => { c with held := none } } }

/-- What a finished conversion serves (R117, R134, R135, R137, R146); readings of the housekeeping round are kept. -/
def deliverResult (sc : Nat) (r : ScRequest) (acq : Nat) (code : Int) (value : Word) (s : State) : State :=
  let ns := (acq - r.ready) * 1000000000 / 2 ^ 32
  let s := if r.cls = 2 ∧ ns > 200 then scUpd sc (fun c => { c with longWaits := inc16 c.longWaits }) s else s
  match r.what with
  | .spot rq kind pod ix =>
    let v := if kind = 0 then busValue code else value
    let s := if kind = 0 then openTap pod ix s else s
    reply rq (.done (beWord v ++ beSigned 4 code ++ beBytes 8 acq ++ beBytes 2 (sat16 ns) ++ zeros 2)) s
  | .probe rq pod tt _ =>
    reply rq (.done (beWord (busValue code) ++ beBytes 1 sc ++ zeros 3)) (openTap pod tt s)
  | .leadRes rq pod slot _ codes began =>
    leadDone sc rq pod slot (codes ++ [code]) (if codes.isEmpty then acq else began) acq s
  | .readback job =>
    jobUpd job (fun j => { j with work := match j.work with
      | .pathTest p => .pathTest { p with reads := p.reads ++ [code] }
      | w => w }) s
  | .other =>
    if r.cls = 1 then simulDone sc acq code s
    else if r.cls = 4 then
      let (pod, point) := roundPlace sc r.a
      let s := { s with conv := { s.conv with hk := s.conv.hk.set (pod * 16 + point) value } }
      if r.a < 31 then request sc { cls := 4, ready := s.clk.loom, what := .other, a := r.a + 1 } s else s
    else if r.cls = 5 then scanDone sc r acq code value s
    else s

/-- A conversion lasts 200 ns from its acquisition (R131). -/
def convLoom : Nat := 200 * 2 ^ 32 / 1000000000

/-- The conversion that ends now at a converter, if one does (R131): its pod die is on. -/
def State.ending (s : State) (sc : Nat) : Option (ScRequest × Nat) :=
  if sc < 8 ∧ s.podOn (2 * sc) = true then
    (s.conv.scs.get sc).running.filter fun x => decide (x.2 + convLoom ≤ s.clk.loom)
  else none

/-- The end of a conversion frees the converter for its result and the next request (R133). -/
def endConversion (sc : Nat) (r : ScRequest) (acq : Nat) (code : Int) (value : Word) (s : State) : State :=
  grant sc (deliverResult sc r acq code value (scUpd sc (fun c => { c with running := none }) s))

/-- The end of a conversion whose result waits at the ply link's crossing (R409, R410): 64 of each converter; one more
is dropped, and converted again (DESIGN CHOICE, log entry 202). -/
def holdResult (sc : Nat) (r : ScRequest) (acq : Nat) (code : Int) (value : Word) (s : State) : State :=
  let mine := fun (i : Held) => match i with
    | .scan k _ _ _ _ => k == sc
    | _ => false
  let full := decide (64 ≤ ((s.itg.crossings.get (sc / 2)).held.filter mine).length)
  let s := crossUpd (sc / 2) (Crossing.enqueue 64 mine (.scan sc r acq code value)) (scUpd sc (fun c => { c with running := none }) s)
  if full then request sc { r with ready := s.clk.loom } s else grant sc s

/-- Every converter whose pod die is on requests its housekeeping round (R136). -/
def startRounds (s : State) : State :=
  (List.range 8).foldl (fun s sc =>
    let c := s.conv.scs.get sc
    let busy := c.queue.any (·.cls == 4) || (c.running.any fun x => x.1.cls == 4)
      || (s.itg.crossings.get (sc / 2)).held.any fun i => match i with
        | .scan k r _ _ _ => k == sc && r.cls == 4
        | _ => false
    if s.podOn (2 * sc) && !busy then request sc { cls := 4, ready := s.clk.loom, what := .other } s else s) s

/-- A trigger source of the simultaneous group decides a trigger (R135, R144): sequencers 0 to 3, 4 a beat boundary, 5
a cross-hub trigger event. -/
def simTrigger (src : Nat) (s : State) : State :=
  let w := s.cfg.active.word 0x0201 16
  if bitAt w 31 ∧ fld w 3 0 = src ∧ fld w 23 16 ≠ 0 ∧ s.running = true then
    { s with conv := { s.conv with simDue := s.conv.simDue + 1 } }
  else s

/-- SIMULTANEOUS_TRIGGER (R135): a trigger decided reaches the converters; every member acquires on one edge, unless a
member still holds a sample. A trigger missed counts in SC_COUNTERS for the members that hold one (DESIGN CHOICE, log
entry 162). -/
def execSimultaneousTrigger (t : Nat) (s : State) : Host.Outcome State Fault Refusal :=
  act t s fun s =>
    if s.conv.simDue = 0 then s
    else
      let s := { s with conv := { s.conv with simDue := s.conv.simDue - 1 } }
      let members := bitsOf 8 (fld (s.cfg.active.word 0x0201 16) 23 16)
      let busy := members.filter fun n => (s.conv.scs.get n).held.isSome
      if busy ≠ [] then
        let s := { s with conv := { s.conv with simMissed := inc16 s.conv.simMissed } }
        busy.foldl (fun s n => scUpd n (fun c => { c with missed := inc16 c.missed }) s) s
      else
        let s := { s with conv := { s.conv with simTaken := next32 s.conv.simTaken } }
        members.foldl (fun s n =>
          let now := s.clk.loom
          request n { cls := 1, ready := now, what := .other } (scUpd n (fun c => { c with held := some now }) s)) s

/-- Loom time at which pass n of a scan list is due, from the boundary at which the list took effect (R137). -/
def passDue (from_ period n : Nat) : Nat := from_ + ceilDiv (n * period * 2 ^ 32) 100000

/-- A pass of a scan list begins once it is due (R137), or is skipped where the one before has not finished. -/
def startPass (list : Nat) (s : State) : State :=
  let h := s.cfg.active.word 0x0201 (17 + 17 * list)
  let sc := fld h 30 28
  let p := s.conv.passAt.get list
  if bitAt h 31 ∧ list ≤ 7 ∧ passDue p.1 (fld h 19 0) p.2 ≤ s.clk.loom then
    let s := { s with conv := { s.conv with passAt := s.conv.passAt.set list (p.1, p.2 + 1) } }
    if s.conv.passLeft.get list ≠ 0 then scUpd sc (fun c => { c with overruns := inc16 c.overruns }) s
    else
      request sc { cls := 5, ready := s.clk.loom, what := .other, a := list, b := 0 }
        { s with conv := { s.conv with passLeft := s.conv.passLeft.set list (fld h 24 20) } }
  else s

/-- SCAN_LIST_PASS (R137). -/
def execScanListPass (t list : Nat) (s : State) : Host.Outcome State Fault Refusal :=
  act t s fun s => if s.running then startPass list s else s

/-- Scan lists take effect at a boundary (R137): their passes count from there, and a pass that runs is given up. -/
def listsFrom (at_ : Nat) (lists : List Nat) (s : State) : State :=
  lists.foldl (fun s l =>
    let mine := fun (r : ScRequest) => r.cls == 5 && r.a == l
    let s := { s with conv := { s.conv with passAt := s.conv.passAt.set l (at_, 0), passLeft := s.conv.passLeft.set l 0 } }
    (List.range 8).foldl (fun s sc => scUpd sc (fun c => { c with
      queue := c.queue.filter fun r => !(mine r), running := c.running.filter fun x => !(mine x.1) })
      (crossUpd (sc / 2) (fun c => { c with held := c.held.filter fun i => match i with
        | .scan _ r _ _ _ => !(mine r)
        | _ => true }) s)) s) s

/-- The converters of a pod die lose their power (R97, R453): what they and the die's ply link hold is gone, requests
that wait are refused, and the dynamic taps on their buses and of the die's threads open. -/
def dropConverters (die : Nat) (s : State) : State :=
  let s := releaseTaps ((List.range 4).map (4 * die + ·)) s
  [2 * die, 2 * die + 1].foldl (fun s sc =>
    let c := s.conv.scs.get sc
    let waits := (s.itg.crossings.get die).held.filterMap fun i => match i with
      | .scan k r _ _ _ => if k = sc then some r else none
      | _ => none
    let gone := waits ++ (c.running.map Prod.fst).toList ++ c.queue
    let s := scUpd sc (fun c => { c with running := none, queue := [], held := none }) s
    let free := fun (s : State) (r : ScRequest) => match requestThread s sc r with
      | some (pod, tt) => if r.tap = 2 then openTap pod tt s else s
      | none => s
    let again := fun (j : Job) => { j with work := match j.work with
      | .pathTest p => .pathTest { p with asked := p.level }
      | w => w }
    gone.foldl (fun s r => match r.what with
      | .spot rq .. | .probe rq .. | .leadRes rq .. => reply rq (.no 0x0105) s
      | .readback job => jobUpd job again s
      | .other => if r.cls = 5 then { s with conv := { s.conv with passLeft := s.conv.passLeft.set r.a 0 } } else s)
      (gone.foldl free s)) s
    |> crossUpd die (fun c => { c with held := [] })

/-! ### Commands -/

/-- THREAD_PROBE (R115, R117): the response follows its conversion. -/
def execThreadProbe (t : Nat) (rq : Req) (s : State) : Host.Outcome State Fault Refusal :=
  runCmd { code := 0x0104, legal := stRead, standbyNo := false, len := lenIs 2 }
    (fun rq s =>
      let pod := beAt rq.payload 0 1
      let tt := beAt rq.payload 1 1
      if pod > 15 then (.noAt 0x0306 pod, s)
      else if tt > 39 then (.noAt 0x0306 tt, s)
      else if s.podCut pod then (.noAt 0x0105 pod, s)
      else match s.freeBus with
        | none => (.no 0x0203, s)
        | some b => spotRequest b (.probe rq pod tt b) s) t rq s

/-- Number of the modulator that serves a channel (R10, R122). -/
def State.modulator (s : State) (ch : Nat) : Nat :=
  let sp := s.conv.spare.get ch
  18 * podOf ch + if sp = 0 then ch % 16 else sp

/-- The payload of CONV_STATUS (R145). -/
def convPayload (pod : Nat) (s : State) : Bytes :=
  ((List.range 16).flatMap fun sl =>
    let ch := 16 * pod + sl
    beBytes 2 (s.modulator ch) ++ beBytes 2 (s.conv.restarts.get ch) ++ beBytes 1 (s.cfg.force.order ch)
      ++ zeros 1 ++ beBytes 2 (s.cfg.force.dec ch))
  ++ [16, 17].flatMap fun sp =>
    beBytes 1 (((List.range 16).find? fun sl => s.conv.spare.get (16 * pod + sl) == sp).getD 0xFF)

/-- CONV_STATUS (R145). -/
def execConvStatus (t : Nat) (rq : Req) (s : State) : Host.Outcome State Fault Refusal :=
  runCmd { code := 0x0200, legal := stRead, standbyNo := false, len := lenIs 2 } (reading (podRead convPayload)) t rq s

/-- SC_SPOT (R82, R134, R145): the response follows its conversion. A point of a pod that the converter does not serve
is refused with 0x0301 (DESIGN CHOICE, log entry 163). -/
def execScSpot (t : Nat) (rq : Req) (s : State) : Host.Outcome State Fault Refusal :=
  runCmd { code := 0x0201, legal := stRead, standbyNo := false, len := lenIs 4 }
    (fun rq s =>
      let sc := beAt rq.payload 0 1
      let kind := beAt rq.payload 1 1
      let pod := beAt rq.payload 2 1
      let ix := beAt rq.payload 3 1
      if sc > 7 then (.noAt 0x0306 sc, s)
      else if kind > 1 then (.no 0x0301, s)
      else if pod > 15 then (.noAt 0x0306 pod, s)
      else if ix > (if kind = 0 then 39 else 15) then (.noAt 0x0306 ix, s)
      else if kind = 1 ∧ pod / 2 ≠ sc then (.no 0x0301, s)
      else if s.podCut pod then (.noAt 0x0105 pod, s)
      else if kind = 0 ∧ s.tapped pod ix sc = false ∧ s.busClaimed sc = true then (.no 0x0203, s)
      else spotRequest sc (.spot rq kind pod ix) s) t rq s

/-- SCAN_READ (R137, R145): per entry of the list, COUNT of them. -/
def execScanRead (t : Nat) (rq : Req) (s : State) : Host.Outcome State Fault Refusal :=
  runCmd { code := 0x0202, legal := stRead, standbyNo := false, len := lenIs 2 }
    (reading fun rq s =>
      let l := beAt rq.payload 0 1
      if beAt rq.payload 1 1 ≠ 0 then .no 0x0302
      else if l > 7 then .noAt 0x0306 l
      else
        let n := fld (s.cfg.active.word 0x0201 (17 + 17 * l)) 24 20
        .done (beBytes 4 (s.conv.passes.get l) ++ (List.range n).flatMap fun e =>
          let r := s.conv.scan.get (16 * l + e)
          beWord r.value ++ beBytes 8 r.time)) t rq s

/-- SIMUL_READ (R145). -/
def execSimulRead (t : Nat) (rq : Req) (s : State) : Host.Outcome State Fault Refusal :=
  runCmd { code := 0x0203, legal := stRead, standbyNo := false, len := lenIs 0 }
    (reading fun _ s =>
      .done (beBytes 4 s.conv.simTaken ++ beBytes 2 s.conv.simMissed ++ zeros 2 ++ (List.range 8).flatMap fun n =>
        let r := s.conv.simul.get n
        beWord r.value ++ beSigned 4 r.code ++ beBytes 8 r.time)) t rq s

/-- SC_COUNTERS (R145). -/
def execScCounters (t : Nat) (rq : Req) (s : State) : Host.Outcome State Fault Refusal :=
  runCmd { code := 0x0204, legal := stRead, standbyNo := false, len := lenIs 1 }
    (fun rq s =>
      let clear := beAt rq.payload 0 1
      if clear > 1 then (.no 0x0301, s)
      else
        let one := fun (n : Nat) =>
          let c := s.conv.scs.get n
          beBytes 2 c.longWaits ++ beBytes 2 c.refusals ++ beBytes 2 c.overruns ++ beBytes 2 c.missed
        let wipe := fun (c : Converter) => { c with longWaits := 0, refusals := 0, overruns := 0, missed := 0 }
        (.done ((List.range 8).flatMap one),
          if clear = 1 then (List.range 8).foldl (fun s n => scUpd n wipe s) s else s)) t rq s

/-- LEAD_RES (R145, R146): four spots in turn on the lowest unclaimed bus; the response follows the last. -/
def execLeadRes (t : Nat) (rq : Req) (s : State) : Host.Outcome State Fault Refusal :=
  runCmd { code := 0x0206, legal := stLive, standbyNo := false, len := lenIs 2 }
    (fun rq s =>
      let pod := beAt rq.payload 0 1
      let slot := beAt rq.payload 1 1
      if pod > 15 then (.noAt 0x0306 pod, s)
      else if slot > 15 then (.noAt 0x0306 slot, s)
      else if s.podCut pod then (.noAt 0x0105 pod, s)
      else match leadPoints s.cfg.active pod slot, s.freeBus with
        | none, _ => (.no 0x0204, s)
        | some _, none => (.no 0x0203, s)
        | some ps, some b => spotRequest b (.leadRes rq pod slot (ps.headD 0) [] 0) s) t rq s

end Sys2Proof.Machine
end

