-- ==== Sys2Proof/Machine/Filter.lean ====
section
/-! DEFINITION. The commands of the filter chain and of resampling (R169 to R178, R193, R196), and the loss of mains
tracking (R155). -/

namespace Sys2Proof.Machine

open Sys2Proof

/-- The least whole number at or above a / b. -/
def ceilInt (a : Int) (b : Nat) : Int := -((-a) / (b : Int))

/-- A channel request of two bytes: the channel index is tested (R177, R196). -/
def chanRead (f : Nat → State → Bytes) (rq : Req) (s : State) : Reply :=
  let ch := beAt rq.payload 0 2
  if ch > 255 then .noAt 0x0306 ch else .done (f ch s)

/-! ### Filter status -/

/-- State byte of FILTER_STATUS (R177). -/
def chanState (c : Chan) : Nat :=
  match c.recovery with
  | none => 0
  | some r =>
    if 0 < r.fade then 3
    else if c.waiting then 4
    else match c.lastTau with
      | some x => if (r.tRS : Int) ≤ x then 2 else 1
      | none => 1

/-- Bank that a channel uses (R170), by the settings its words pass under, with the switches that are due by now. -/
def State.bankOf (s : State) (ch : Nat) : Nat :=
  (((s.chan ch).setAt (fineOf s.clk.loom / fineClock)).map (·.bank)).getD (s.cfg.active.liveBank (dieOf ch))

/-- The payload of FILTER_STATUS (R177). -/
def filterPayload (ch : Nat) (s : State) : Bytes :=
  let c := s.chan ch
  beBytes 1 (chanState c) ++ beBytes 1 (s.bankOf ch) ++ beBytes 2 ((c.recovery.map (·.fade)).getD 0)
    ++ beBytes 8 c.lastRS ++ beBytes 8 c.lastCS ++ beBytes 2 c.recoveries ++ beBytes 2 c.abandoned
    ++ beBytes 2 c.clamps ++ zeros 2

/-- FILTER_STATUS (R177). -/
def execFilterStatus (t : Nat) (rq : Req) (s : State) : Host.Outcome State Fault Refusal :=
  runCmd { code := 0x0300, legal := stRead, standbyNo := false, len := lenIs 2 } (reading (chanRead filterPayload)) t rq s

/-- The sample counts of R172 and R192 for a front-end change of a channel: UNS and PATH samples, and the Reed settle
count of R166; the STEP sample lies at instant 0 and the last old one a period before. -/
def settleCounts (m : PMem) (ch : Nat) : Nat × Nat × Nat :=
  let g := m.group ch
  let count := m.count g
  let cyc := m.cycle g * 25600000
  if m.groupEn g && count != 0 && cyc != 0 then
    let p := m.pathSet ch
    let l : Int := m.lookL ch
    let tE := ceilInt (l * count - cyc) count
    let dr : Nat := p.reedDec
    let tRS := ceilInt tE dr * dr + lookR (m.ntOf ch p) p
    let tCS := tE + lookC p + decayN p
    let ord := fun (x : Int) => (ceilInt ((x * (2 ^ 32 : Nat) + m.phase ch * 25600000) * count) (cyc * 2 ^ 32)).toNat
    (ord tRS, max (ord tRS) (ord tCS) + m.fadeLen ch,
      ceilDiv (2 * lookR (m.ntOf ch p) p * count) cyc)
  else (0, 0, 0)

/-- The payload of SETTLE_INFO (R177). -/
def settlePayload (ch : Nat) (s : State) : Bytes :=
  let m := s.cfg.force
  let p := m.pathSet ch
  let (u, q, r) := settleCounts m ch
  beBytes 4 (lookC p) ++ beBytes 4 (lookR (m.ntOf ch p) p) ++ beBytes 4 (decayN p) ++ beBytes 4 (m.lookL ch)
    ++ beBytes 4 u ++ beBytes 4 q ++ beBytes 4 r

/-- SETTLE_INFO (R172, R177). -/
def execSettleInfo (t : Nat) (rq : Req) (s : State) : Host.Outcome State Fault Refusal :=
  runCmd { code := 0x0301, legal := stRead, standbyNo := false, len := lenIs 2 } (reading (chanRead settlePayload)) t rq s

/-! ### Bank swaps -/

/-- A swap of a die's engine waits: staged, or deferred (R178). -/
def State.swapPending (s : State) (die : Nat) : Bool :=
  s.filt.deferred.any (fun d => d.1 == die) || s.cfg.staged.any fun c => match c.change with
    | .reedSwap d _ => d == die
    | _ => false

/-- Put LIVE of a die's engine word in the configuration in force and, where the sender holds the edit lock, in the
working set; the configuration number rises (R170, R178). -/
def putLive (die bank : Nat) (mb : Option Nat) (s : State) : State :=
  let w := fun (m : PMem) => m.put (pkey 0x0301 die)
    ((m.word 0x0301 die &&& 0x7FFFFFFF#32) ||| (if bank = 1 then 0x80000000#32 else 0#32))
  let work := if mb.isSome ∧ s.sh.lock = mb then s.sh.work.map fun k => { k with words := w k.words } else s.sh.work
  { s with cfg := { s.cfg with force := w s.cfg.force : Cfg }.renumber s.clk.loom (next32 s.cfg.seq), sh := { s.sh with work } }

/-- REED_SWAP (R169 to R171, R177, R178). -/
def execReedSwap (t : Nat) (rq : Req) (s : State) : Host.Outcome State Fault Refusal :=
  runCmd { code := 0x0302, legal := stStage, standbyNo := true, len := lenIs 2 }
    (fun rq s =>
      let die := beAt rq.payload 0 1
      if beAt rq.payload 1 1 ≠ 0 then (.no 0x0302, s)
      else if die > 3 then (.noAt 0x0306 die, s)
      else if s.sh.lock.isSome ∧ s.sh.lock ≠ some rq.mb then (.no 0x0501, s)
      else if s.swapPending die then (.no 0x0108, s)
      else
        let bank := 1 - s.cfg.force.liveBank die
        if s.fading die then
          match newJob 0x0302 4 (.reedSwap die) s with
          | none => (.no 0x0502, s)
          | some (id, s) =>
            let s := putLive die bank (some rq.mb) s
            (.deferred id, { s with filt := { s.filt with deferred := s.filt.deferred ++ [(die, id)] } })
        else
          let s := putLive die bank (some rq.mb) s
          (.staged s.due (beBytes 4 s.cfg.seq), stage (.reedSwap die bank) rq s)) t rq s

/-- REED_SWAP_RELEASE (R169): the last fade sample on the engine has been formed; the swap is staged for its beat. -/
def execReedSwapRelease (t die : Nat) (s : State) : Host.Outcome State Fault Refusal :=
  act t s fun s =>
    let already := s.cfg.staged.any fun c => match c.change with
      | .reedSwap d _ => d == die
      | _ => false
    if s.filt.deferred.any (fun d => d.1 == die) ∧ already = false ∧ s.fading die = false
        ∧ s.lastFade die ≤ s.clk.loom then
      let due := s.due
      let s := (s.filt.deferred.filter fun d => d.1 == die).foldl (fun s d => jobUpd d.2 (fun j => { j with beat := due }) s) s
      stageOwn (.reedSwap die (s.cfg.force.liveBank die)) s
    else s

/-! ### Mains and coefficients -/

/-- MAINS_STATUS (R177): state 0 while EN is 0, 2 while tracking is lost or before any valid measurement (R155). -/
def execMainsStatus (t : Nat) (rq : Req) (s : State) : Host.Outcome State Fault Refusal :=
  runCmd { code := 0x0303, legal := stRead, standbyNo := false, len := lenIs 0 }
    (reading fun _ s =>
      let x := s.filt.mains
      let st := if !(bitAt s.cfg.force.mains 31) then 0 else if x.lost || x.lastValid.isNone then 2 else 1
      .done (beWord (f32Of64 (s.mainsFor s.cfg.force 3)) ++ beWord (f32Of64 x.last) ++ beBytes 1 st ++ zeros 3
        ++ beBytes 8 (x.lastValid.getD 0))) t rq s

/-- MAINS_TRACKING_LOST (R155). -/
def execMainsTrackingLost (t : Nat) (s : State) : Host.Outcome State Fault Refusal :=
  act t s fun s =>
    match s.filt.mains.lastValid with
    | some v =>
      if v + usLoom 100000 ≤ s.clk.loom then
        { s with filt := { s.filt with mains := { s.filt.mains with lost := true, crossings := [], armed := false, awaitHigh := false } } }
      else s
    | none => s

/-- Coefficient i of a set of COEF_READ (R177). -/
def coefAt (s : State) (set ch i : Nat) : Int :=
  if set ≤ 2 then firTap (3 + set) i
  else if set = 3 then protoWord i
  else
    let (k1, k3) := s.notchPair s.cfg.force (s.cfg.force.pathSet ch) s.clk.loom
    (if i < 5 then k1.getD i 0 else k3.getD (i - 5) 0)

/-- COEF_READ (R177, R499). -/
def execCoefRead (t : Nat) (rq : Req) (s : State) : Host.Outcome State Fault Refusal :=
  runCmd { code := 0x0304, legal := stRead, standbyNo := false, len := lenIs 8 }
    (reading fun rq s =>
      let set := beAt rq.payload 0 1
      let ch := beAt rq.payload 2 2
      let first := beAt rq.payload 4 2
      let n := beAt rq.payload 6 2
      let size := if set ≤ 2 then 63 else if set = 3 then 2048 else 10
      if beAt rq.payload 1 1 ≠ 0 ∨ (set ≤ 3 ∧ ch ≠ 0) then .no 0x0302
      else if set > 4 ∨ n = 0 ∨ n > 248 ∨ first + n > size then .no 0x0301
      else if ch > 255 then .noAt 0x0306 ch
      else .done ((List.range n).flatMap fun i => beSigned 4 (coefAt s set ch (first + i)))) t rq s

/-! ### Rate groups and timing -/

/-- GROUP_STATUS (R196). -/
def execGroupStatus (t : Nat) (rq : Req) (s : State) : Host.Outcome State Fault Refusal :=
  runCmd { code := 0x0400, legal := stRead, standbyNo := false, len := lenIs 2 }
    (reading fun rq s =>
      let g := beAt rq.payload 0 1
      let m := s.cfg.force
      if beAt rq.payload 1 1 ≠ 0 then .no 0x0302
      else if g > 7 then .noAt 0x0306 g
      else if !(m.groupEn g) then .no 0x0207
      else .done (beBytes 1 1 ++ beBytes 1 (m.cycle g) ++ zeros 2 ++ beBytes 4 (m.count g)
        ++ beBytes 8 (roundEven (m.cycle g * 2 ^ 32 : Nat) (m.count g)).toNat
        ++ beBytes 2 (m.chansOn.filter fun ch => m.group ch == g).length ++ zeros 2
        ++ beBytes 8 (m.gridAt g (s.clk.loom + 1)) ++ beBytes 2 (s.filt.filled.get g)
        ++ beBytes 2 (s.filt.withheld.get g))) t rq s

/-- Delay at 0 Hz of one notch biquad in seconds (R193), in binary64. -/
def biquadDelay (fn bn fN : DWord) : DWord :=
  let (r, c) := notchRC fn bn fN
  let rc2 := f64Mul (f64Mul f64Two r) c
  let r2 := f64Mul r r
  f64Div (f64Sub f64One (f64Div (f64Sub (f64Mul f64Two r2) rc2) (f64Add (f64Sub f64One rc2) r2))) fN

/-- The CIC-path offset of CH_TIMING (R193), in units of 2^-32 s. -/
def State.offsetC (s : State) (m : PMem) (ch : Nat) : Int :=
  let p := m.pathSet ch
  let fm := s.mainsFor m p.notch
  let b := notchWidth p.bw
  let d1 := biquadDelay fm (f64OfInt b) (rateN p)
  let d := if p.h3 then f64Add d1 (biquadDelay (f64Mul (f64OfInt 3) fm) (f64OfInt (3 * b)) (rateN p)) else d1
  if p.notch = 0 then m.phase ch else fToInt (fAddVal (f64v d) (.fin false (m.phase ch) (-32))) 32

/-- The Reed-path offset of CH_TIMING (R193), in units of 2^-32 s. -/
def offsetR (m : PMem) (ch : Nat) : Int :=
  let p := m.pathSet ch
  let nt := m.ntOf ch p
  let co := m.bankCoef (dieOf ch) p.bank
  let sum := (List.range nt).foldl (fun (a : Int) i => a + co i) 0
  let mom := (List.range nt).foldl (fun (a : Int) (i : Nat) => a + (i : Int) * co i) 0
  let den := 2 * sum.natAbs * 25600000
  let num := (2 * mom - ((nt : Int) - 1) * sum) * (p.reedDec * 2 ^ 32 : Nat)
  roundEven ((if sum < 0 then -num else num) + (m.phase ch * den : Nat)) den

/-- The hold of R191 in bytes. -/
def holdBytes (m : PMem) (ch : Nat) : Nat :=
  let g := m.group ch
  if m.phase ch = 0 ∨ m.groupEn g = false then 0
  else 6 * (ceilDiv (m.phase ch * m.count g) (m.cycle g * 2 ^ 32) + 1)

/-- The payload of CH_TIMING (R193, R196): the bound in ns is rounded up (log entry 24). -/
def timingPayload (ch : Nat) (s : State) : Bytes :=
  let m := s.cfg.force
  beBytes 1 (m.group ch) ++ zeros 1 ++ beBytes 4 (m.phase ch) ++ beBytes 4 (m.lookL ch)
    ++ beBytes 4 (ceilDiv (m.lookL ch * 625) 16 + 4000) ++ beSigned 4 (s.offsetC m ch) ++ beSigned 4 (offsetR m ch)
    ++ beBytes 4 (holdBytes m ch)

/-- CH_TIMING (R193, R196). -/
def execChTiming (t : Nat) (rq : Req) (s : State) : Host.Outcome State Fault Refusal :=
  runCmd { code := 0x0401, legal := stRead, standbyNo := false, len := lenIs 2 } (reading (chanRead timingPayload)) t rq s

/-- INSTANT_CALC (R180, R196). -/
def execInstantCalc (t : Nat) (rq : Req) (s : State) : Host.Outcome State Fault Refusal :=
  runCmd { code := 0x0402, legal := stRead, standbyNo := false, len := lenIs 10 }
    (reading fun rq s =>
      let g := beAt rq.payload 0 1
      let m := s.cfg.force
      if beAt rq.payload 1 1 ≠ 0 then .no 0x0302
      else if g > 7 then .noAt 0x0306 g
      else if !(m.groupEn g) then .no 0x0207
      else
        let n := gridFrom (m.cycle g) (m.count g) (beAt rq.payload 2 8)
        .done (beBytes 8 (gridInst (m.cycle g) (m.count g) n) ++ beBytes 4 (n % m.count g)
          ++ beBytes 4 (n / m.count g * m.cycle g))) t rq s

end Sys2Proof.Machine
end

