-- ==== Sys2Proof/Machine/Warp.lean ====
section
/-! DEFINITION. The Warp and the time servo (R197 to R231): ports, frames, events, lock states, resets and their
commands. The step of loom time itself stands in Boundary.lean. -/

namespace Sys2Proof.Machine

open Sys2Proof

/-! ### Lock states -/

def lockCode : Lock → Nat
  | .unlocked => 0 | .acquire => 1 | .locked => 2 | .holdover => 3

/-- An entry of the Warp and loom-time kind in the event log (R77). -/
def warpEvent (reason kind detail : Nat) (s : State) : State := logEvent reason 0x0500 (kind * 2 ^ 28 + detail) s

/-- A signed amount in [27:0], saturated (R77). -/
def sat28 (v : Int) : Nat := (clampInt (-(2 ^ 27)) (2 ^ 27 - 1) v % 2 ^ 28).toNat

/-- The alarm "Loom time in holdover" follows its condition (R222): a change of lock state that starts it is logged
under its own row (R77). -/
def holdAlarm (own : Bool) (s : State) : State := setAlarm 7 (s.warp.heldOver || s.warp.holdAbove) (!own) 0xFFFF 0 s

/-- The servo changes lock state (R198, R222): logged, with the holdover alarm. -/
def setLock (l : Lock) (s : State) : State :=
  if s.warp.lock = l then s
  else
    let s := { s with warp := { s.warp with
      lock := l, within := none, outside := none
      holdSince := if l = .holdover then some s.clk.loom else none
      heldOver := if l = .holdover then true else if l = .locked then false else s.warp.heldOver } }
    holdAlarm true (warpEvent 0 0 (lockCode l) s)

/-- The bound of LOCKED in ps (R198). -/
def State.lockBound (s : State) : Nat := if s.warp.source = 2 then 1000 else 20000

/-- Lock states follow the time that the filtered offset has stayed within or outside the bound (R198): one beat. -/
def lockCheck (s : State) : State :=
  let old := fun (x : Option Nat) => match x with
    | some v => decide (v + usLoom 1000 ≤ s.clk.loom)
    | none => false
  if s.warp.lock = .acquire ∧ old s.warp.within = true then setLock .locked s
  else if s.warp.lock = .locked ∧ s.warp.source ≠ 0 ∧ old s.warp.outside = true then setLock .acquire s
  else s

/-- Picoseconds to whole modulator clocks, ties to even (R199). -/
def psClocks (ps : Int) : Int := roundEven (ps * 2) 78125
/-- Whole modulator clocks in units of 2^-32 s, rounded convergently. -/
def clocksUnits (n : Int) : Int := roundEven (n * 2 ^ 19) 3125

/-- The first beat boundary at least 2 ms ahead (R201, R220). -/
def State.ahead2ms (s : State) : Nat := firstBeatFrom (s.clk.loom + usLoom 2000)

/-- The servo's loop bandwidth in mHz (R211, R225). -/
def loopBandwidth (lock : Lock) (src : Nat) : Nat :=
  if src = 2 then (if lock = .locked then 50000 else 500000) else if lock = .locked then 100 else 1000

/-- The servo may step (R199, R201): never alone while LOCKED to the Warp, in RUN only with STEP_RUN. -/
def State.mayStep (s : State) (theta : Int) : Bool :=
  let limit : Nat := if s.hub.state = .boot ∨ s.hub.state = .config then 1 else s.cfg.active.stepLimit
  decide (limit * 1000000 < theta.natAbs) && (s.hub.state != .run || s.cfg.active.stepRun) && s.warp.step.isNone
    && psClocks theta != 0 && !(s.warp.lock == .locked && !s.cfg.active.isRoot)

/-- The servo begins to pull loom time toward a source (R198, R223): whatever it found of an offset before counts no
more. -/
def acquire (s : State) : State := setLock .acquire { s with warp := { s.warp with within := none, outside := none } }

/-- TIME_SRC 0 is LOCKED on the hub's own reference (R197, R198). -/
def freeLock (s : State) : State :=
  if s.cfg.active.timeSrc = 0 then setLock .locked { s with warp := { s.warp with source := 0 } } else s

/-- The servo takes an offset in ps, positive when the hub is ahead (R198, R199, R201): it slews what a step leaves.
What its filter gives is free (log entry 173). -/
def servo (theta : Int) (src : Nat) (s : State) : State :=
  let s := if s.warp.lock = .unlocked ∨ s.warp.lock = .holdover ∨ s.warp.source ≠ src then acquire s else s
  let bw := loopBandwidth s.warp.lock src
  let f := Config.servoOffset bw s.warp.offset theta
  let steps := s.mayStep theta
  let left := if steps then roundEven (2 * theta - 78125 * psClocks theta) 2 else theta
  let z := Config.servoFreq bw s.warp.freq 0
  let lim : Int := s.cfg.active.slewMax * 1000000
  let freq := z + clampInt (-lim) lim (Config.servoFreq bw s.warp.freq left - z)
  let inB := decide (f.natAbs ≤ (if src = 2 then 1000 else 20000))
  let now := some s.clk.loom
  let s := { s with warp := { s.warp with
    source := src, offset := f, freq
    within := if inB then (if s.warp.within.isSome then s.warp.within else now) else none
    outside := if inB then none else if s.warp.outside.isSome then s.warp.outside else now } }
  let s := if steps then
      let amount := clocksUnits (-(psClocks theta))
      let at_ := if s.cfg.active.isRoot then beatTime s.ahead2ms else s.clk.loom
      { s with warp := { s.warp with step := some (at_, amount) } }
    else s
  lockCheck s

/-! ### Ports -/

def wportUpd (p : Nat) (f : WPort → WPort) (s : State) : State :=
  { s with warp := { s.warp with ports := s.warp.ports.upd p f } }

/-- Port state as reported: 0 while EN is 0 (R204). -/
def State.wstate (s : State) (p : Nat) : Nat := if s.cfg.active.wportEn p then (s.warp.ports.get p).state else 0

/-- A port is up: it runs and is in state 3 (R204, R224). -/
def State.wup (s : State) (p : Nat) : Bool := s.wstate p == 3 && !s.hub.inReset

/-- Downstream ports that are up. -/
def State.downUp (s : State) : List Nat := [1, 2, 3].filter s.wup

/-- The lock state lets downstream ports send (R206). -/
def State.sendsTime (s : State) : Bool := s.warp.lock == .locked || s.warp.lock == .holdover

/-- Hubs of this hub's subtree, itself included (R207): a port whose records have all lapsed counts none. -/
def State.subtreeSize (s : State) : Nat :=
  1 + ([1, 2, 3].map fun p => if s.warp.census.any (·.via == p) then s.warp.subtree.get p else 0).sum

/-- The hubs of the subtree are counted (R230): more than 1,024 of them. -/
def countHubs (s : State) : State := { s with warp := { s.warp with over1024 := decide (1024 < s.subtreeSize) } }

/-- A port takes a state (R204, R207, R222, R223): one that is out of state 3 counts no hubs below it, and one with no
valid frames keeps no link delay. -/
def portState (p st : Nat) (s : State) : State :=
  let now := s.clk.loom
  let s := wportUpd p (fun w => { w with
    state := st
    frames := if st = 3 then w.frames else 0
    delay := if st ≤ 2 then none else w.delay
    downSince := if st = 3 then none else if w.state = 3 then some now else w.downSince }) s
  if st = 3 then s else countHubs { s with warp := { s.warp with subtree := s.warp.subtree.set p 0 } }

/-- A valid frame on an enabled port names the port's state (R204): mis, a frame of the kind that comes on the other
side of a link; its DOMAIN, and on W_UP the parent's depth and the link delay. -/
def State.frameState (s : State) (p : Nat) (mis : Bool) (domain depth : Nat) : Nat :=
  if mis then 4
  else if domain ≠ s.cfg.active.domain then 5
  else if p = 0 ∧ 32 ≤ depth then 6
  else if p = 0 ∧ 10000000 < ((s.warp.ports.get 0).delay.getD 0) then 7
  else 3

/-- Events may leave on a port (R206). -/
def State.sendsEvents (s : State) (p : Nat) : Bool := p == 0 || s.sendsTime

/-- Port state code of what a port finds (R204): 6 and 7 are of W_UP only. -/
def lineState (p : Nat) : WarpLine → Nat
  | .noSignal => 1
  | .noFrames => 2
  | .frames => 3
  | .misWired => 4
  | .foreign => 5
  | .tooDeep => if p = 0 then 6 else 3
  | .delayHigh => if p = 0 then 7 else 3

/-- WARP_PORT_STATE_CHANGE (R204, R222). -/
def execWarpPortStateChange (t port : Nat) (line : WarpLine) (s : State) : Host.Outcome State Fault Refusal :=
  act t s fun s =>
    portState port (if s.cfg.active.wportEn port then lineState port line else 1) s

/-- WARP_LOST (R222). -/
def execWarpLost (t : Nat) (s : State) : Host.Outcome State Fault Refusal :=
  act t s fun s =>
    match (s.warp.ports.get 0).downSince with
    | none => s
    | some d =>
      if s.warp.lost = false ∧ s.wstate 0 ≠ 3 ∧ d + usLoom 10 ≤ s.clk.loom ∧ 2 ≤ s.cfg.active.timeSrc then
        let s := { s with warp := { s.warp with lost := true, within := none, outside := none, trace := false, holdAbove := false, fallAbove := false } }
        let s := holdAlarm true s
        let s := setAlarm 6 true false 0xFFFF 0x080D (warpEvent 0x080D 4 0 s)
        if s.cfg.active.timeSrc = 2 then (if s.warp.lock = .locked then setLock .holdover s else s)
        else acquire { s with warp := { s.warp with source := 1 } }
      else s

/-- WARP_RETURN (R223). -/
def execWarpReturn (t : Nat) (s : State) : Host.Outcome State Fault Refusal :=
  act t s fun s =>
    if s.warp.lost = true ∧ s.wup 0 = true ∧ 16 ≤ (s.warp.ports.get 0).frames then
      setAlarm 6 false false 0xFFFF 0x080D (acquire { s with warp := { s.warp with lost := false, source := 2 } })
    else s

/-- One PTP data set is better than another (R343, the default algorithm of IEEE 1588-2019). -/
def ptpBetter (a b : PtpAnnounce) : Bool :=
  let key := fun (x : PtpAnnounce) =>
    if a.grandmaster = b.grandmaster then [x.steps, x.source]
    else [x.priority1, x.clockClass, x.accuracy, x.variance, x.priority2, x.grandmaster]
  let rec less : List Nat → List Nat → Bool
    | x :: r, y :: q => decide (x < y) || (x == y && less r q)
    | _, _ => false
  less (key a) (key b)

/-- A port runs PTP (R343, R366). -/
def State.ptpOn (s : State) (p : Nat) : Bool := s.portUp p && bitAt (s.cfg.active.portW p 0) 27 && !s.hub.inReset

/-- The port that hears the best master (R343), of those with PTP_EN set. -/
def State.ptpBest (s : State) : Option Nat :=
  let one := fun (p : Nat) => if s.ptpOn p then (s.weft.ports.get p).announce else none
  match one 0, one 1 with
  | some a, some b => some (if ptpBetter b a then 1 else 0)
  | some _, none => some 0
  | none, some _ => some 1
  | none, none => none

/-- PTP_SOURCE_LOST (R198, R343): the master is no longer heard; the frequency correction holds. -/
def execPtpSourceLost (t : Nat) (s : State) : Host.Outcome State Fault Refusal :=
  act t s fun s =>
    let s := if s.warp.source ≠ 1 then s
      else if s.warp.lock = .locked then setLock .holdover s
      else { s with warp := { s.warp with within := none, outside := none } }
    match s.ptpBest with
    | some p => { s with weft := { s.weft with ports := s.weft.ports.upd p fun h => { h with announce := none } } }
    | none => s

/-! ### Events -/

/-- An event is lost on a port (R206, R217): counted, logged, announced. -/
def eventLost (p : Nat) (s : State) : State :=
  alarmNotice true 0x23 p 0x080D (warpEvent 0x080D 5 p (wportUpd p (fun w => { w with lost := inc16 w.lost }) s))

/-- An event joins a port's queue, 1,024 deep (R206, R215). -/
def enqueue (e : WarpEv) (s : State) (p : Nat) : State :=
  if (s.warp.ports.get p).queue.length ≥ 1024 then eventLost p s
  else wportUpd p (fun w => { w with queue := w.queue ++ [e], high := max w.high (w.queue.length + 1) }) s

/-- Send an event on every port that is up, but for one (R215). -/
def spread (e : WarpEv) (except : Option Nat) (s : State) : State :=
  ((List.range 4).filter fun p => s.wup p && some p != except).foldl (enqueue e) s

/-- The 16 characters of an event (R208). -/
def eventChars (e : WarpEv) : Bytes :=
  let b := beBytes 1 e.link ++ beBytes 1 e.typ ++ beBytes 2 e.origin ++ beBytes 8 e.stamp ++ beBytes 1 e.code
  0xFB#8 :: (b ++ beBytes 2 (crc16 b).toNat)

/-- A hub originates an event (R218): it waits at the origin. -/
def originate (typ code : Nat) (stamp : Nat) (s : State) : State :=
  { s with warp := { s.warp with
    origin := s.warp.origin ++ [{ typ, origin := s.hub.hubId.getD 0x3FF, stamp, code }] } }

/-- EVENT_ORIGINATION (R215, R218): at most one event every 100 us. -/
def execEventOrigination (t : Nat) (s : State) : Host.Outcome State Fault Refusal :=
  act t s fun s =>
    let free := match s.warp.lastOrigin with
      | some l => decide (l + usLoom 100 ≤ s.clk.loom)
      | none => true
    match s.warp.origin, free with
    | e :: r, true => spread e none { s with warp := { s.warp with origin := r, lastOrigin := some s.clk.loom } }
    | _, _ => s

/-- WARP_EVENT_TRANSMIT (R206, R216): the oldest event of a port's queue leaves with the next link number. -/
def execWarpEventTransmit (t port : Nat) (s : State) : Host.Outcome State Fault Refusal :=
  act t s fun s =>
    match (s.warp.ports.get port).queue with
    | [] => s
    | e :: r =>
      if s.wup port ∧ s.sendsEvents port then
        let e := { e with link := (s.warp.ports.get port).txNext }
        let s := wportUpd port (fun w => { w with
          queue := r, txNext := (w.txNext + 1) % 256, history := (e :: w.history).take 256 }) s
        let s := if e.typ = 3 then { s with warp := { s.warp with resetTold := true } } else s
        emit (.warpEvent s.clk.loom port (eventChars e)) s
      else s

/-- Ask for events again from the next expected number (R217), where the port sends events (R206). A request takes no
link number of its own: it carries the next one unchanged (log entry 25), and 0x3FF as its origin where the hub holds
no ID (log entry 195). -/
def askResend (p : Nat) (s : State) : State :=
  let w := s.warp.ports.get p
  if !(s.sendsEvents p) then s
  else
    emit (.warpEvent s.clk.loom p (eventChars
      { link := w.txNext, typ := 0x10, origin := s.hub.hubId.getD 0x3FF, stamp := s.clk.loom, code := w.rxNext }))
      (wportUpd p (fun w => { w with asked := true }) s)

/-- A hub learns of a synchronising reset at least 20 us ahead (R219). -/
def learnReset (ts : Nat) (s : State) : State :=
  if s.warp.reset.isNone ∧ s.clk.loom + usLoom 20 ≤ ts then { s with warp := { s.warp with reset := some ts, resetTold := true } }
  else s

/-- An event is offered to the four sequencers (R285): one that is disarmed drops it. -/
def offerEvent (e : WarpEv) (s : State) : State :=
  let add := fun (x : Seqr) => if x.armed then { x with events := x.events ++ [e] } else x
  { s with trd := { s.trd with seqs := (List.range 4).foldl (fun t q => t.upd q add) s.trd.seqs } }

/-- The Treadle takes an event received (R285, R301, R353): a mark is kept for records and announced. -/
def takeEvent (s : State) (e : WarpEv) : State :=
  let s := if e.typ = 2 then
      addNotice { typ := 2, b1 := e.code, b23 := 0xFF, loom := e.stamp, tail := beBytes 2 e.origin ++ zeros 10 }
        { s with trd := { s.trd with
          marks := { t := e.stamp, seqr := 0xFF, state := 0, code := e.code, origin := e.origin } :: s.trd.marks } }
    else s
  let s := if e.typ = 1 then simTrigger 5 s else s
  if e.typ = 1 ∨ e.typ = 2 then offerEvent e s else s

/-- Events pass from the Warp logic to the Treadle unless the crossing holds them (R215, R409, R410). -/
def drainEvents (s : State) : State :=
  if (s.itg.crossings.get 4).holds then s
  else s.warp.toTreadle.foldl takeEvent { s with warp := { s.warp with toTreadle := [] } }

/-- Path delay of this hub from the root in ns (R216); 0 on a root. -/
def State.pathNs (s : State) : Nat := if s.cfg.active.isRoot then 0 else s.warp.path

/-- Depth (R202). -/
def State.depthOf (s : State) : Nat := if s.cfg.active.isRoot then 0 else s.warp.depth

/-- Domain event bound B_E in ns (R216): the root takes it from its census. -/
def State.eventBound (s : State) : Nat :=
  if s.cfg.active.isRoot then 2 * (s.warp.census.foldl (fun m c => max m c.path) 0) + 1000 else s.warp.bE

/-- An accepted event (R215 to R217, R219): counted late, forwarded, and handed to the Treadle by a 64-entry queue. -/
def acceptEvent (p : Nat) (e : WarpEv) (s : State) : State :=
  let late := decide (e.stamp + nsLoom s.eventBound < s.clk.loom)
  let s := wportUpd p (fun w => { w with
    rxNext := (w.rxNext + 1) % 256, asked := false, ahead := none, late := if late then inc16 w.late else w.late }) s
  let s := spread e (some p) s
  if e.typ = 3 then learnReset e.stamp s
  else drainEvents { s with warp := { s.warp with toTreadle := (s.warp.toTreadle ++ [e]).take 64 } }

/-- An event beyond a gap (R217): the request names the next expected number, unless one is outstanding. One that
comes no further along than an event discarded since has been sent again, and the sender no longer holds those before
it: the events go on from here (log entry 86): each of those between is lost. An event discarded for its CRC asks
anew, and forgets what came before. -/
def beyondGap (p : Nat) (e : WarpEv) (s : State) : State :=
  let w := s.warp.ports.get p
  let far := fun (n : Nat) => (n + 256 - w.rxNext) % 256
  let again := w.asked && (match w.ahead with
    | some a => decide (far e.link ≤ far a)
    | none => false)
  if again then
    acceptEvent p e ((List.range (far e.link)).foldl (fun s _ => eventLost p s) (wportUpd p (fun w => { w with rxNext := e.link }) s))
  else
    let s := wportUpd p (fun w => { w with ahead := some e.link }) s
    if w.asked then s else askResend p s

/-- Send again every event from a link number on (R217); where the port sends no events yet, they wait at the front of
its queue (R206). -/
def resendFrom (p first : Nat) (s : State) : State :=
  let w := s.warp.ports.get p
  let n := (w.txNext + 256 - first % 256) % 256
  let held := (w.history.take n).reverse
  let s := wportUpd p (fun w => { w with resent := sat16 (w.resent + held.length) }) s
  if s.sendsEvents p then held.foldl (fun s e => emit (.warpEvent s.clk.loom p (eventChars e)) s) s
  else wportUpd p (fun w => { w with
    queue := held ++ w.queue, history := w.history.drop n, txNext := (w.txNext + 256 - held.length) % 256 }) s

/-- RESEND_REQUEST (R217). -/
def execResendRequest (t port first : Nat) (s : State) : Host.Outcome State Fault Refusal :=
  act t s fun s => if s.wup port then resendFrom port first s else s

/-- WARP_EVENT (R208, R209, R215 to R217, R219). -/
def execWarpEvent (t port : Nat) (ev : Bytes) (s : State) : Host.Outcome State Fault Refusal :=
  act t s fun s =>
    if s.wup port then
      if ev.length ≠ 16 ∨ (crc16 (slice ev 1 13)).toNat ≠ beAt ev 14 2 then
        askResend port (wportUpd port (fun w => { w with badCrc := inc16 w.badCrc, ahead := none }) s)
      else
        let e : WarpEv := { link := beAt ev 1 1, typ := beAt ev 2 1, origin := beAt ev 3 2 % 1024
                            stamp := s.instant (beAt ev 5 8), code := beAt ev 13 1 }
        if e.typ = 0x10 then resendFrom port e.code s
        else
          let d := (e.link + 256 - (s.warp.ports.get port).rxNext) % 256
          if d = 0 then acceptEvent port e s
          else if d ≤ 127 then beyondGap port e s
          else wportUpd port (fun w => { w with dup := inc16 w.dup }) s
    else s

/-! ### Time frames and delay requests -/

/-- The epoch in loom time (R200), and the modulator clock that an epoch in loom time names. -/
def State.epochLoom (s : State) : Nat := loomOf (clockFine s.clk.epoch)
def epochClock (e : Nat) : Nat := fineOf e / fineClock

/-- Picoseconds of a difference of stamps in 2^-48 s. -/
def stampPs (d : Int) : Int := roundEven (d * 1000000000000) (2 ^ 48)

/-- An exchange is complete (R210, R211): the delay and the offset of W_UP, then the servo. -/
def exchange (t1 t2 t3 t4 : Nat) (s : State) : State :=
  let a := s.cfg.active.asym 0
  let rtt := stampPs (((t4 : Int) - t1) - ((t3 : Int) - t2))
  let d := roundEven (rtt + a) 2
  let w := s.warp.ports.get 0
  let link := w.delay.getD d
  let theta := stampPs ((t2 : Int) - t1) - link
  let s := wportUpd 0 (fun w => { w with dSum := w.dSum + d, dCount := w.dCount + 1, offset := theta }) s
  if 2 ≤ s.cfg.active.timeSrc ∧ s.warp.lost = false then servo theta 2 s else s

/-- What a time frame says of the domain (R201, R205, R206, R216, R219). -/
def takeFrame (f : Bytes) (s : State) : State :=
  let flags := beAt f 2 1
  let ann := if nbit flags 3 then some (beAt f 4 2 % 1024) else none
  let warn := s.hub.state != .boot && s.hub.hubidSel && ann.isSome && ann != s.warp.announced && ann != s.hub.hubId
  let s := if warn then warpEvent 0 3 (ann.getD 0) s else s
  let notice := (s.instant (beAt f 36 8), signedOf 64 (beAt f 44 8))
  let armed := nbit flags 5 && s.sendsTime && s.warp.step.isNone && decide (s.clk.loom < notice.1) && s.warp.stepped != some notice
  let s := { s with warp := { s.warp with
    trace := nbit flags 6, holdAbove := nbit flags 7, fallAbove := nbit flags 2
    announced := ann, parentEpoch := some (s.instant (beAt f 28 8)), depth := beAt f 4 2 / 1024 + 1
    path := beAt f 52 4 + (roundEven ((s.warp.ports.get 0).delay.getD 0) 1000).toNat + 120, bE := beAt f 56 4
    step := if armed then some notice else s.warp.step } }
  let s := holdAlarm false (wportUpd 0 (fun w => { w with hubId := ann.getD 0, frames := w.frames + 1 }) s)
  if nbit flags 4 then learnReset notice.1 s else s

/-- A LOCKED hub finds its epoch differing from its parent's (R220, R221). -/
def catchUpCheck (s : State) : State :=
  match s.warp.parentEpoch with
  | some e =>
    if s.warp.lock = .locked ∧ s.warp.source = 2 ∧ s.cfg.active.isRoot = false ∧ s.warp.catchUp = none
        ∧ epochClock e ≠ s.clk.epoch then
      { s with warp := { s.warp with catchUp := some (beatTime s.ahead2ms) } }
    else s
  | none => s

/-- WARP_TIME_FRAME (R199, R201, R205, R206, R209 to R211, R216, R219, R220): ext is the extension of the arrival
stamp. -/
def execWarpTimeFrame (t : Nat) (frame : Bytes) (ext : Nat) (s : State) : Host.Outcome State Fault Refusal :=
  act t s fun s =>
    if s.cfg.active.wportEn 0 = false ∨ s.hub.inReset = true then s
    else if frame.length ≠ 64 ∨ (crc32c (slice frame 1 59)).toNat ≠ beAt frame 60 4 then
      wportUpd 0 (fun w => { w with badCrc := inc16 w.badCrc, frames := 0 }) s
    else if beAt frame 1 1 ≠ 1 then s
    else
      let s := portState 0 (s.frameState 0 false (beAt frame 3 1) (beAt frame 4 2 / 1024)) s
      if s.wup 0 = false then s else
      let s := takeFrame frame s
      let t1 := s.instant (beAt frame 6 8) * 65536 + beAt frame 14 2
      let t4 := s.instant (beAt frame 16 8) * 65536 + beAt frame 24 2
      let s := match (s.warp.ports.get 0).reqSent.lookup (beAt frame 26 2) with
        | some t3 => exchange t1 (s.clk.loom * 65536 + ext % 65536) t3 t4 s
        | none => s
      catchUpCheck s

/-- TRACE as this hub tells it (R206, R230): the root is LOCKED to PTP. -/
def State.traceOn (s : State) : Bool :=
  if s.cfg.active.isRoot then s.warp.source == 1 && s.warp.lock == .locked else s.warp.trace

/-- The bytes of a time frame on a port (R206): ext is the extension of its t1. -/
def timeFrame (p ext : Nat) (s : State) : Bytes :=
  let m := s.cfg.active
  let idv := m.idOffset p != 0 && s.hub.hubId.isSome && s.hub.state != .boot
  let flags := 128 * b2n (s.warp.lock == .holdover || s.warp.holdAbove)
    + 64 * b2n s.traceOn
    + 32 * b2n s.warp.step.isSome + 16 * b2n s.warp.reset.isSome + 8 * b2n idv
    + 4 * b2n (s.warp.fallAbove || (m.timeSrc == 3 && s.warp.source == 1))
  let (stamp, num) := (s.warp.ports.get p).lastReq.getD (0, 0)
  let (at_, amount) := match s.warp.step, s.warp.reset with
    | some (i, a), _ => (i, a)
    | none, some r => (r, 0)
    | none, none => (0, 0)
  let body := [0x01#8] ++ beBytes 1 flags ++ beBytes 1 m.domain
    ++ beBytes 2 (s.depthOf % 64 * 1024 + (if idv then (s.hub.hubId.getD 0 + m.idOffset p) % 1024 else 0))
    ++ beBytes 8 s.clk.loom ++ beBytes 2 ext ++ beBytes 10 stamp ++ beBytes 2 num ++ beBytes 8 s.epochLoom
    ++ beBytes 8 at_ ++ beSigned 8 amount ++ beBytes 4 s.pathNs ++ beBytes 4 s.eventBound
  0xBC#8 :: (body ++ beWord (crc32c body))

/-- The extension of a stamp of this hub in units of 2^-48 s (R206, R210), below what the model's instants tell: a
free value. -/
def stampExt (s : State) : Nat × State :=
  let (k, s) := nextFree s
  ((Config.freeWord k).toNat % 65536, s)

/-- TIME_FRAME_SEND (R206, R210, R219, R224). -/
def execTimeFrameSend (t port : Nat) (s : State) : Host.Outcome State Fault Refusal :=
  act t s fun s =>
    if port ≠ 0 ∧ s.wup port = true ∧ s.sendsTime = true then
      let (ext, s) := stampExt s
      let s := emit (.warpFrame s.clk.loom port (timeFrame port ext s)) s
      if s.warp.reset.isSome then { s with warp := { s.warp with resetTold := true } } else s
    else s

/-- The hub's own census record (R207). -/
def State.ownRecord (s : State) : Census :=
  { hub := s.hubIdOut, depth := s.depthOf, lock := lockCode s.warp.lock, path := s.pathNs, seen := s.clk.loom, via := 0 }

def recordBytes (c : Census) : Bytes := beBytes 2 c.hub ++ beBytes 1 c.depth ++ beBytes 1 c.lock ++ beBytes 4 c.path

/-- DELAY_REQUEST_SEND (R207, R210): the hub's own record and those of its subtree go in turn. -/
def execDelayRequestSend (t : Nat) (s : State) : Host.Outcome State Fault Refusal :=
  act t s fun s =>
    if s.wup 0 then
      let all := s.ownRecord :: s.warp.census
      let c := all.getD (s.warp.censusTurn % all.length) s.ownRecord
      let n := (s.warp.ports.get 0).reqNext
      let body := [0x02#8] ++ beBytes 1 (lockCode s.warp.lock * 64) ++ beBytes 1 s.cfg.active.domain ++ beBytes 2 n
        ++ recordBytes c ++ beBytes 2 s.subtreeSize ++ zeros 12
      let (ext, s) := stampExt s
      let t3 := s.clk.loom * 65536 + ext
      let s := wportUpd 0 (fun w => { w with reqNext := (n + 1) % 65536, reqSent := ((n, t3) :: w.reqSent).take 16 }) s
      emit (.warpFrame s.clk.loom 0 (0xBC#8 :: (body ++ beWord (crc32c body))))
        { s with warp := { s.warp with censusTurn := (s.warp.censusTurn + 1) % all.length } }
    else s

/-- Put a census record in its place by hub ID, in place of the one it refreshes: a hub's ID, depth and port tell it
from others (log entry 196). -/
def censusPut (c : Census) : List Census → List Census
  | [] => [c]
  | x :: r =>
    if x.hub = c.hub ∧ x.depth = c.depth ∧ x.via = c.via then c :: r
    else if c.hub < x.hub then c :: x :: r
    else x :: censusPut c r

/-- DELAY_REQUEST (R207, R209, R216). -/
def execDelayRequest (t port : Nat) (frame : Bytes) (ext : Nat) (s : State) : Host.Outcome State Fault Refusal :=
  act t s fun s =>
    if s.cfg.active.wportEn port = false ∨ s.hub.inReset = true then s
    else if frame.length ≠ 32 ∨ (crc32c (slice frame 1 27)).toNat ≠ beAt frame 28 4 then
      wportUpd port (fun w => { w with badCrc := inc16 w.badCrc }) s
    else if beAt frame 1 1 ≠ 2 then s
    else
      let s := portState port (s.frameState port (port == 0) (beAt frame 3 1) 0) s
      if s.wup port = false then s else
      let stamp := s.clk.loom * 65536 + ext % 65536
      let s := wportUpd port (fun w => { w with lastReq := some (stamp, beAt frame 4 2) }) s
      let c : Census := { hub := beAt frame 6 2, depth := beAt frame 8 1, lock := beAt frame 9 1, path := beAt frame 10 4
                          seen := s.clk.loom, via := port }
      countHubs { s with warp := { s.warp with
        census := censusPut c s.warp.census, subtree := s.warp.subtree.set port (beAt frame 14 2) } }

/-- CENSUS_LAPSE (R224). -/
def execCensusLapse (t hub : Nat) (s : State) : Host.Outcome State Fault Refusal :=
  act t s fun s =>
    countHubs { s with warp := { s.warp with
      census := s.warp.census.filter fun c => !(c.hub == hub && decide (c.seen + usLoom 100000 ≤ s.clk.loom)) } }

/-- At a beat boundary the link delay becomes the mean of the beat's exchanges (R211), and lock states move (R198). -/
def warpBeat (s : State) : State :=
  let w := s.warp.ports.get 0
  let s := if w.dCount = 0 then s
    else
      let d := roundEven w.dSum w.dCount
      let s := match w.delay with
        | some x => if 1000 < (d - x).natAbs then warpEvent 0 2 (sat28 (d - x)) s else s
        | none => s
      wportUpd 0 (fun w => { w with delay := some d, dSum := 0, dCount := 0 }) s
  lockCheck s

/-! ### Synchronising resets -/

/-- The reset's work on a channel (R120, R161): a recovery with STEP and SYNR from the first sample that reaches past
it; a die's first reset since it came on ends its fill samples there (R260). -/
def resetChan (m : PMem) (epoch at_ : Nat) (up : Bool) (ch : Nat) (c : Chan) : Chan :=
  match c.setAt at_ with
  | none => c
  | some p =>
    let c := { c with cicFrom := at_ }
    let c := if up then closeGap (clockFine at_ - clockFine (m.lookL ch)) c else c
    registerEvent epoch
      { mode := 1, first := (clockFine at_ : Int) - clockFine (m.lookL ch), step := true, sync := true
        tE := clockFine at_, zeroed := .cic at_, set := p, nt := m.ntOf ch p } c

/-- The reset's work on some pod dies (R120, R219, R220): the modulator count, the CICs and pre-decimators, the
overrange detectors, of every slot, enabled or not; the counts of excitation and lead-watch half-periods go on from
the epoch. The dies are then in step (R260, R454). -/
def doReset (epoch at_ : Nat) (dies : List Nat) (s : State) : State :=
  let chs := (List.range 256).filter fun ch => dies.contains (dieOf ch)
  let one := fun (f : Tab Chan) (ch : Nat) => f.upd ch (resetChan s.cfg.active epoch at_ (s.linkUp (dieOf ch)) ch)
  let filt := (chs.filter fun ch => (s.chan ch).set.isSome).foldl one s.filt.chans
  let cut := clockFine (at_ - 16)
  let end_ := fun (p : OvrSpan) => if p.ended.isNone then { p with ended := some (max p.onset cut) } else p
  let clear := fun (o : Ovr) => { o with spans := o.spans.map end_, level := false, satUntil := 0 }
  let ovr := chs.foldl (fun (f : Tab Ovr) ch => f.upd ch clear) s.hed.ovr
  let leads := chs.foldl (fun (f : Tab Lead) ch => f.upd (ch * 4) fun l => { l with lastMean := none }) s.hed.leads
  let domains := dies.foldl (fun (d : Tab Domain) k => d.upd (4 + k) fun x => { x with aligned := true, align := none })
    s.pow.domains
  { s with
    filt := { s.filt with chans := filt }
    hed := { s.hed with ovr, leads }
    pow := { s.pow with domains } }

/-- The pod dies that are on. -/
def State.diesOn (s : State) : List Nat := (List.range 4).filter fun d => s.domOn (4 + d)

/-- A reset of the whole hub: its epoch is that of the count it gives (R119, R200). -/
def hubReset (epoch at_ : Nat) (s : State) : State :=
  doReset epoch at_ s.diesOn { s with clk := { s.clk with epoch } }

/-- The jobs that a reset for t_s ends (R230), with the beat that it lies in (R55). -/
def endResetJobs (ts : Nat) (s : State) : State :=
  (s.liveJobs.filter fun j => j.2.work == .syncReset ts).foldl (fun s j =>
    endJob j.1 1 0 [] 0 (jobUpd j.1 (fun x => { x with beat := beatAt ts }) s)) s

/-- SYNCHRONISING_RESET (R120, R200, R219, R456): at the first modulator clock at or after t_s, or after the boundary
of the reset that follows BOOT. -/
def execSynchronisingReset (t : Nat) (s : State) : Host.Outcome State Fault Refusal :=
  act t s fun s =>
    match (s.warp.reset.filter (· ≤ s.clk.loom)), (s.warp.bootReset.filter (· ≤ s.clk.loom)) with
    | some ts, b =>
      let c := clockFrom (fineOf ts)
      let bootReset := if b.isSome then none else s.warp.bootReset
      endResetJobs ts (hubReset c c { s with warp := { s.warp with reset := none, resetTold := false, bootReset, catchUp := none } })
    | none, some b =>
      let c := clockFrom (fineOf b)
      hubReset c c { s with warp := { s.warp with bootReset := none, catchUp := none } }
    | none, none => s

/-- Pod dies that came on take their catch-up reset, which keeps the hub's epoch (R454). -/
def alignDies (s : State) : State :=
  s.diesOn.foldl (fun s d =>
    match (s.pow.domains.get (4 + d)).align with
    | some b => if b ≤ s.clk.loom then doReset s.clk.epoch (clockFrom (fineOf b)) [d] s else s
    | none => s) s

/-- CATCH_UP_RESET (R220, R454): the count is preset to the clocks since the domain's epoch; a pod die that came on
takes the hub's count. -/
def execCatchUpReset (t : Nat) (s : State) : Host.Outcome State Fault Refusal :=
  act t s fun s =>
    match s.warp.catchUp, s.warp.parentEpoch with
    | some b, some e =>
      if b ≤ s.clk.loom then
        let s := { s with warp := { s.warp with catchUp := none } }
        if epochClock e = s.clk.epoch ∧ s.diesOn.all (fun d => (s.pow.domains.get (4 + d)).aligned) then s
        else hubReset (epochClock e) (clockFrom (fineOf b)) s
      else alignDies s
    | _, _ => alignDies s

/-! ### Commands -/

/-- A reset is pending (R230, R231): one of the domain, this hub's own after BOOT, or a catch-up reset. -/
def State.resetPending (s : State) : Bool := s.warp.reset.isSome || s.warp.bootReset.isSome || s.warp.catchUp.isSome

/-- TIME_STATUS (R230). -/
def execTimeStatus (t : Nat) (rq : Req) (s : State) : Host.Outcome State Fault Refusal :=
  runCmd { code := 0x0500, legal := stRead, standbyNo := false, len := lenIs 0 }
    (reading fun _ s =>
      let held := match s.warp.holdSince with
        | some h => (s.clk.loom - h) * 1000 / 2 ^ 32
        | none => 0
      .done (beBytes 8 s.clk.loom ++ beBytes 1 (lockCode s.warp.lock) ++ beBytes 1 s.warp.source
        ++ beBytes 1 (128 * b2n s.traceOn + 64 * b2n s.warp.holdAbove + 32 * b2n s.warp.step.isSome
          + 16 * b2n s.resetPending) ++ zeros 1
        ++ beSigned 4 s.warp.offset ++ beSigned 4 s.warp.freq ++ beBytes 4 held ++ beBytes 8 s.epochLoom
        ++ beBytes 1 s.depthOf ++ zeros 3 ++ beBytes 4 s.pathNs ++ beBytes 4 s.eventBound)) t rq s

/-- WARP_PORTS (R230). -/
def execWarpPorts (t : Nat) (rq : Req) (s : State) : Host.Outcome State Fault Refusal :=
  runCmd { code := 0x0501, legal := stRead, standbyNo := false, len := lenIs 1 }
    (fun rq s =>
      let clear := beAt rq.payload 0 1
      if clear > 1 then (.no 0x0301, s)
      else
        let one := fun (p : Nat) =>
          let w := s.warp.ports.get p
          let id := if p = 0 then w.hubId
            else if s.cfg.active.idOffset p = 0 then 0 else (s.hub.hubId.getD 0 + s.cfg.active.idOffset p) % 1024
          beBytes 1 (s.wstate p) ++ zeros 1 ++ beBytes 2 id ++ beSigned 4 (w.delay.getD 0) ++ beSigned 4 w.offset
            ++ beBytes 2 w.badCrc ++ beBytes 2 w.resent ++ beBytes 2 w.lost ++ beBytes 2 w.late ++ beBytes 2 w.high
            ++ beBytes 2 w.dup
        let wipe := fun (w : WPort) => { w with badCrc := 0, resent := 0, lost := 0, late := 0, high := 0, dup := 0 }
        (.done ((List.range 4).flatMap one), if clear = 1 then (List.range 4).foldl (fun s p => wportUpd p wipe s) s else s))
    t rq s

/-- A reset or a step is pending (R231). -/
def State.timePending (s : State) : Bool := s.resetPending || s.warp.step.isSome

/-- The loom time at which a mailbox's request was taken (R44, R231). -/
def State.takenAt (s : State) (mb : Nat) : Nat := (s.sh.mail.get mb).lastTaken

/-- SYNC_RESET (R219, R221, R230, R231). -/
def execSyncReset (t : Nat) (rq : Req) (s : State) : Host.Outcome State Fault Refusal :=
  runCmd { code := 0x0502, legal := stLive, standbyNo := true, len := lenIs 8 }
    (fun rq s =>
      let ts := s.instant (beAt rq.payload 0 8)
      if s.cfg.active.isRoot = false ∧ 2 ≤ s.cfg.active.timeSrc then (.no 0x0212, s)
      else if ts < s.takenAt rq.mb + usLoom 2000 then (.no 0x0308, s)
      else if s.timePending then (.no 0x0108, s)
      else match newJob 0x0502 0 (.syncReset ts) s with
        | none => (.no 0x0502, s)
        | some (id, s) =>
          let s := { s with warp := { s.warp with reset := some ts, resetTold := false } }
          (.running id [], if s.downUp.isEmpty then s else originate 3 0 ts s)) t rq s

/-- TIME_SET (R199, R201, R230, R231): the step waits for the first boundary at least 2 ms ahead. -/
def execTimeSet (t : Nat) (rq : Req) (s : State) : Host.Outcome State Fault Refusal :=
  runCmd { code := 0x0503, legal := stLive, standbyNo := true, len := lenIs 8 }
    (fun rq s =>
      let n := roundEven (signedOf 64 (beAt rq.payload 0 8) * 3125) (2 ^ 19)
      if s.timePending then (.no 0x0108, s)
      else if s.cfg.active.timeSrc ≠ 0 then (.no 0x0212, s)
      else if s.hub.state = .run ∧ s.cfg.active.stepRun = false then (.no 0x0101, s)
      else if n = 0 then (.no 0x0301, s)
      else
        let b := s.ahead2ms
        (.staged b (beSigned 8 (clocksUnits n)), { s with warp := { s.warp with step := some (beatTime b, clocksUnits n) } }))
    t rq s

/-- EVENT_SEND (R218, R230, R231). -/
def execEventSend (t : Nat) (rq : Req) (s : State) : Host.Outcome State Fault Refusal :=
  runCmd { code := 0x0504, legal := stLive, standbyNo := true, len := lenIs 2 }
    (fun rq s =>
      if beAt rq.payload 1 1 ≠ 0 then (.no 0x0302, s)
      else (.done (beBytes 8 (s.takenAt rq.mb)), originate 4 (beAt rq.payload 0 1) (s.takenAt rq.mb) s)) t rq s

/-- Two records of one hub ID, in a list in order of hub ID. -/
def dupHub : List Census → Bool
  | a :: b :: r => a.hub == b.hub || dupHub (b :: r)
  | _ => false

/-- CENSUS_READ (R230, R231): the root's own record is one of them. -/
def execCensusRead (t : Nat) (rq : Req) (s : State) : Host.Outcome State Fault Refusal :=
  runCmd { code := 0x0505, legal := stRead, standbyNo := false, len := lenIs 4 }
    (reading fun rq s =>
      let first := beAt rq.payload 0 2
      let n := beAt rq.payload 2 1
      if s.cfg.active.isRoot = false then .no 0x0212
      else if beAt rq.payload 3 1 ≠ 0 then .no 0x0302
      else if n = 0 ∨ n > 125 then .no 0x0301
      else
        let all := censusPut s.ownRecord s.warp.census
        .done (beBytes 2 all.length ++ beBytes 1 (2 * b2n s.warp.over1024 + b2n (dupHub all)) ++ zeros 1
          ++ ((all.drop first).take n).flatMap recordBytes)) t rq s

end Sys2Proof.Machine
end

