-- ==== Sys2Proof/Machine/Linear.lean ====
section
/-! DEFINITION. Corrections at output forming (R255 to R261), the curves forward and inverted (R232 to R248), the
engineering value word (R245), and the linearisation commands (R253, R254). -/

namespace Sys2Proof.Machine

open Sys2Proof

/-! ### Corrections -/

/-- Keys of calibration entries: a channel and range, and a source of a pod. -/
def calKey (ch range : Nat) : Nat := ch * 8 + range
def srcKey (pod src : Nat) : Nat := 65536 + pod * 16 + src

/-- The value that a term has where no point gives one: O = 0, G = 1, c2 = c3 = 0, scale 1 (R255, R257). -/
def identityTerm (key i : Nat) : DWord := if (65536 ≤ key ∧ i = 0) ∨ (key < 65536 ∧ i = 1) then f64One else 0

/-- A term of a point. -/
def CalPoint.term (p : CalPoint) (i : Nat) : DWord := p.terms.getD i 0

/-- The nearest point at or below a temperature, and the nearest at or above it (R259). -/
def pointBelow (ps : List CalPoint) (td : DWord) : Option CalPoint :=
  ps.foldl (fun b p => if f64Le p.temp td then (match b with
    | some q => if f64Lt q.temp p.temp then some p else b
    | none => some p) else b) none
def pointAbove (ps : List CalPoint) (td : DWord) : Option CalPoint :=
  ps.foldl (fun b p => if f64Le td p.temp then (match b with
    | some q => if f64Lt p.temp q.temp then some p else b
    | none => some p) else b) none

/-- A term at a die temperature (R259). -/
def termAt (key : Nat) (ps : List CalPoint) (td : DWord) (i : Nat) : DWord :=
  match pointBelow ps td, pointAbove ps td with
  | some a, some b =>
    if a.temp = b.temp then a.term i
    else
      let w := f64Div (f64Sub td a.temp) (f64Sub b.temp a.temp)
      f64Add (a.term i) (f64Mul w (f64Sub (b.term i) (a.term i)))
  | some a, none => a.term i
  | none, some b => b.term i
  | none, none => identityTerm key i

/-- Entries and die temperatures under which a sample with a grid instant is formed (R33, R260, R268). -/
def State.calAt (s : State) (grid : Nat) : Tab CalEntry × Tab PodTemp := pastAt s.cal.past (s.cal.entries, s.cal.td) grid

/-- The factory entry of a key (R270): points at 25, 65 and 105 degrees C. -/
def factoryEntry (key : Nat) : CalEntry :=
  { points := [25, 65, 105].map fun (t : Nat) =>
      { temp := f64OfInt t
        terms := (List.range 4).map fun i => if 65536 ≤ key ∧ 0 < i then 0 else Config.factoryCal key i t
        confs := (List.range 4).map fun i => if 65536 ≤ key ∧ 0 < i then 0 else Config.factoryCal key (4 + i) t
        beats := [0, 0, 0, 0] }
    modulator := if key < 65536 then key / 128 * 18 + key / 8 % 16 else (key - 65536) % 16 }

/-- An entry of a set: the factory entry where none is listed. -/
def entryOf (es : Tab CalEntry) (key : Nat) : CalEntry :=
  let e := es.get key
  if e.points.isEmpty then { factoryEntry key with stale := e.stale } else e

/-- A term in force for a sample (R259, R260). -/
def State.calTerm (s : State) (grid key pod i : Nat) : DWord :=
  let (es, td) := s.calAt grid
  termAt key (entryOf es key).points (f64Of32 (td.get pod).value) i

/-- The calibrated word of an uncorrected 40-bit word (R255). -/
def correct (o g c2 c3 : DWord) (u : Int) : Int :=
  let n := f64Div (f64Sub (f64OfRat u 65536) o) (f64OfInt 8388608)
  let n2 := f64Mul n n
  let p := f64Add (f64Add n (f64Mul c2 n2)) (f64Mul c3 (f64Mul n2 n))
  sat40 (fToInt (f64v (f64Mul (f64Mul g (f64OfInt 8388608)) p)) 16)

/-- The corrected word of a channel's sample (R255). -/
def State.corrected (s : State) (m : PMem) (ch grid : Nat) (u : Int) : Int :=
  let key := calKey ch (slotRange (m.slot ch))
  let x := fun (i : Nat) => s.calTerm grid key (podOf ch) i
  correct (x 0) (x 1) (x 2) (x 3) u

/-- The raw tap's code of a calibrated word, and 1 where it was clamped (R256). -/
def rawCode (w : Int) : Int × Nat :=
  let v := roundEven w 65536
  let r := clampInt (-8388607) 8388606 v
  (r, if r = v then 0 else 1)

/-! ### Input quantities -/

/-- Full scale of a range in volts is 12 / 4^range; the code step is that over 7,864,320 (R123). -/
def codeStep (range : Nat) : DWord := f64OfRat 12 (4 ^ range * 7864320)

/-- Volts of a calibrated word (R232). -/
def voltsOf (range : Nat) (w : Int) : DWord := f64Mul (f64OfRat w 65536) (codeStep range)

/-- Current of an IX source in amperes with its scale factor (R232, R257). -/
def State.ixCurrent (s : State) (m : PMem) (grid pod n : Nat) : DWord :=
  f64Mul (f64OfRat (ixCode (m.ix pod n)) 2000000) (s.calTerm grid (srcKey pod n) pod 0)

/-- The excitation current of a slot (R232): for a SWAP pair the mean of the two. -/
def State.slotCurrent (s : State) (m : PMem) (ch grid : Nat) : DWord :=
  let pod := podOf ch
  let n := slotExc (m.slot ch)
  if 4 < n then 0
  else
    let a := s.ixCurrent m grid pod n
    if ixSwap (m.ix pod n) then f64Div (f64Add a (s.ixCurrent m grid pod (ixPartner (m.ix pod n)))) f64Two else a

/-- The excitation voltage of a slot (R232). -/
def State.slotVoltage (s : State) (m : PMem) (ch grid : Nat) : DWord :=
  let pod := podOf ch
  let n := slotExc (m.slot ch)
  if n = 8 ∨ n = 9 then
    f64Mul (f64OfRat (fld (m.vx pod (n - 8)) 15 0 : Nat) 1000) (s.calTerm grid (srcKey pod n) pod 0)
  else 0

/-- Input quantity of a curve with its set: 0 volts, 1 ohms, 2 ratio, 3 amperes (R232). -/
def inputKind (m : PMem) (curve set : Nat) : Nat :=
  if curve = 48 ∨ curve = 49 then m.setInput set
  else if 16 ≤ curve ∧ curve ≤ 24 then 1
  else if 32 ≤ curve ∧ curve ≤ 35 then 2
  else if curve = 40 then 3
  else 0

/-- A curve that R234 lists. -/
def curveListed (c : Nat) : Bool :=
  decide (c ≤ 8) || (decide (16 ≤ c) && decide (c ≤ 19)) || c == 24 || (decide (32 ≤ c) && decide (c ≤ 35)) || c == 40
    || c == 48 || c == 49

/-- The kind of set that a curve needs (R234). -/
def setNeeded (c : Nat) : Option Nat :=
  if c = 19 then some 1 else if c = 24 then some 2 else if 32 ≤ c ∧ c ≤ 35 then some 3 else if c = 40 then some 4
  else if c = 48 then some 5 else if c = 49 then some 6 else none

/-- The input quantity of a sample's volts; none where it is undefined (R232, R245 row 5). -/
def State.quantity (s : State) (m : PMem) (ch grid : Nat) (v : DWord) : Option DWord :=
  let k := inputKind m (m.curve ch) (m.setNo ch)
  if k = 0 then some v
  else if k = 1 then
    let i := s.slotCurrent m ch grid
    if fIsZero (f64v i) then none else some (f64Div v i)
  else if k = 2 then
    let x := s.slotVoltage m ch grid
    if fIsZero (f64v x) then none else some (f64Sub (f64Div v x) (f64Of32 (m.aux ch)))
  else some (f64Div v (f64Of32 (m.aux ch)))

/-! ### Curves -/

/-- What a curve gives for an input quantity (R234, R245 rows 5 to 7). -/
inductive CurveOut where
  | value (y : DWord)
  | undefined
  | namur
  | below
  | above
  deriving DecidableEq, Repr

/-- A word of a set as binary64. -/
def setF (m : PMem) (set i : Nat) : DWord := f64Of32 (m.setWord set i)

/-- Domain of a thermocouple type in degrees C, in tenths (R235). -/
def tcDomain (c : Nat) : Int × Int :=
  ([(500, 18200), (-2700, 10000), (-2100, 12000), (-2700, 13720), (-2700, 13000), (-500, 17681), (-500, 17681),
    (-2700, 4000)] : List (Int × Int)).getD (c - 1) (0, 0)

/-- RNOM, A, B, C of curves 16 to 19 (R236). -/
def rtdTerms (m : PMem) (c set : Nat) : DWord × DWord × DWord × DWord :=
  if c = 19 then (setF m set 1, setF m set 2, setF m set 3, setF m set 4)
  else (f64OfInt (if c = 16 then 100 else if c = 17 then 500 else 1000), f64OfRat 39083 10000000,
    f64OfRat (-5775) 10000000000, f64OfRat (-4183) 1000000000000000)

/-- R(T) of R236. -/
def rtdForward (r a b c t : DWord) : DWord :=
  let base := f64Add f64One (f64Add (f64Mul a t) (f64Mul b (f64Mul t t)))
  let cold := f64Mul (f64Mul c (f64Sub t (f64OfInt 100))) (f64Mul t (f64Mul t t))
  f64Mul r (if f64Lt t 0 then f64Add base cold else base)

/-- Inside lo .. hi, or on which side outside. -/
def inside (lo hi x : DWord) (y : DWord) : CurveOut :=
  if f64Lt x lo then .below else if f64Lt hi x then .above else .value y

/-- Strain of a ratio (R238). -/
def bridge (c : Nat) (gf nu x : DWord) : DWord :=
  let four := f64OfInt 4
  let num := if c = 33 then f64Mul f64Two x else if c = 35 then x else f64Mul four x
  let den := if c = 32 then f64Mul gf (f64Sub f64One (f64Mul f64Two x))
    else if c = 34 then f64Mul gf (f64Sub (f64Add f64One nu) (f64Mul (f64Mul f64Two x) (f64Sub f64One nu)))
    else gf
  f64Div (f64Mul (f64OfInt 1000000) num) den

/-- Horner's rule over the coefficients of a polynomial set, c_0 at word 3 (R240, R252). -/
def poly (m : PMem) (set : Nat) (x : DWord) : DWord :=
  (List.range (m.setCount set + 1)).foldr (fun k a => f64Add (setF m set (3 + k)) (f64Mul a x)) 0

/-- The points of a table set (R252). -/
def tablePoints (m : PMem) (set : Nat) : List (DWord × DWord) :=
  (List.range (m.setCount set)).map fun i => (setF m set (1 + 2 * i), setF m set (2 + 2 * i))

/-- Linear interpolation between the neighbouring points (R240). -/
def interpolate : List (DWord × DWord) → DWord → DWord
  | [], _ => 0
  | [p], _ => p.2
  | p :: q :: r, x =>
    if x = p.1 then p.2
    else if f64Lt x q.1 then
      f64Add p.2 (f64Mul (f64Div (f64Sub x p.1) (f64Sub q.1 p.1)) (f64Sub q.2 p.2))
    else interpolate (q :: r) x

/-- A value at or below num / den, and at or above it, exactly. -/
def atMost (v : DWord) (num : Int) (den : Nat) : Bool := !(fLtRat (fNegVal (f64v v)) (-num) den)
def atLeast (v : DWord) (num : Int) (den : Nat) : Bool := !(fLtRat (f64v v) num den)

/-! ### Solving a curve -/

/-- The least point between lo and hi, as far as halving n times finds it, that lies past the solution. -/
def bisect (mid : DWord → DWord → DWord) (past : DWord → Bool) : (n : Nat) → (lo hi : DWord) → DWord
  | 0, _, hi => hi
  | n + 1, lo, hi =>
    let x := mid lo hi
    if past x then bisect mid past n lo x else bisect mid past n x hi

/-- Whether a monotonic function that gives flo at the low end and fhi at the high end has passed y. -/
def passed (flo fhi y fx : DWord) : Bool := if f64Le flo fhi then f64Le y fx else f64Le fx y

/-- The solution of f(x) = y for a function monotonic from lo to hi. -/
def solve (f : DWord → DWord) (lo hi y : DWord) : DWord :=
  bisect (fun a b => f64Div (f64Add a b) f64Two) (fun x => passed (f lo) (f hi) y (f x)) 64 lo hi

/-- The same over all positive normal numbers, by halving their patterns. -/
def solvePos (f : DWord → DWord) (y : DWord) : DWord :=
  let lo : DWord := 0x0010000000000000#64
  let hi : DWord := 0x7FEFFFFFFFFFFFFF#64
  bisect (fun a b => BitVec.ofNat 64 ((a.toNat + b.toNat) / 2)) (fun x => passed (f lo) (f hi) y (f x)) 64 lo hi

/-- x lies within a tolerance of y; and between two points in either order. -/
def nearTo (tol x y : DWord) : Bool := f64Le (f64Abs (f64Sub x y)) tol
def between (a b x : DWord) : Bool := (f64Le a x && f64Le x b) || (f64Le b x && f64Le x a)

/-- The result that the hub delivers where a rule gives its accuracy only (R235, R236, R247): its own where the rule
allows that one, the exact one else. -/
def delivered (ok : DWord → Bool) (own exact : DWord) : DWord := if f64Finite own && ok own then own else exact

/-- 0.001 degrees C, and 0.05 uV. -/
def milliDegree : DWord := f64OfRat 1 1000
def tcTolerance : DWord := f64OfRat 5 100000000

/-- The temperature of a compensated EMF on curves 1 to 8 (R235). -/
def tcSolve (c : Nat) (e : DWord) : DWord :=
  let (lo, hi) := tcDomain c
  let exact := solve (tcForward c) (f64OfRat lo 10) (f64OfRat hi 10) e
  delivered (fun t => nearTo tcTolerance (tcForward c t) e || nearTo milliDegree t exact) (Config.tcInverse c e) exact

/-- The temperature of a resistance on curves 16 to 19 (R236). -/
def rtdSolve (r a b c x : DWord) : DWord :=
  let exact := solve (rtdForward r a b c) (f64OfInt (-200)) (f64OfInt 850) x
  delivered (fun t => nearTo milliDegree t exact) (Config.rtdInverse r a b c x) exact

/-- The inverse of the absolute temperature at a resistance (R237). -/
def steinhart (m : PMem) (set : Nat) (x : DWord) : DWord :=
  let l := f64Ln x
  f64Add (f64Add (setF m set 1) (f64Mul (setF m set 2) l)) (f64Mul (setF m set 3) (f64Mul l (f64Mul l l)))

/-- 0 degrees C, in kelvins. -/
def kelvin : DWord := f64OfRat 27315 100

/-- The curve, forward (R234 to R241): curve, set, cold-junction temperature, input quantity. -/
def curveForward (m : PMem) (c set : Nat) (tcj x : DWord) : CurveOut :=
  if c = 0 then (if f64Finite x then .value x else if f64Lt x 0 then .below else .above)
  else if c ≤ 8 then
    let (lo, hi) := tcDomain c
    let e := f64Add x (tcForward c tcj)
    inside (tcForward c (f64OfRat lo 10)) (tcForward c (f64OfRat hi 10)) e (tcSolve c e)
  else if c ≤ 19 then
    let (r, a, b, k) := rtdTerms m c set
    let low := rtdForward r a b k (f64OfInt (-200))
    let high := rtdForward r a b k (f64OfInt 850)
    if f64Le low high then inside low high x (rtdSolve r a b k x)
    else if f64Lt low x then .below else if f64Lt x high then .above else .value (rtdSolve r a b k x)
  else if c = 24 then
    if f64Le x 0 then .undefined
    else
      let t := f64Sub (f64Div f64One (steinhart m set x)) kelvin
      inside (f64OfInt (-80)) (f64OfInt 300) t t
  else if c ≤ 35 then
    if !(atMost x 1 10) then .above else if !(atLeast x (-1) 10) then .below
    else .value (bridge c (setF m set 1) (setF m set 2) x)
  else if c = 40 then
    if atMost x 36 10000 || atLeast x 210 10000 then .namur
    else
      let lo := setF m set 1
      .value (f64Add lo (f64Mul (f64Div (f64Sub x (f64OfRat 4 1000)) (f64OfRat 16 1000)) (f64Sub (setF m set 2) lo)))
  else if c = 48 then inside (setF m set 1) (setF m set 2) x (poly m set x)
  else
    let ps := tablePoints m set
    inside ((ps.head?.map (·.1)).getD 0) ((ps.getLast?.map (·.1)).getD 0) x (interpolate ps x)

/-- The largest finite binary32 value, and the least normal one, in binary64. -/
def f32Max : DWord := 0x47EFFFFFE0000000#64
def f32MinNormal : DWord := 0x3810000000000000#64

/-- The value word of a result (R245 rows 7 and 8), and whether it is an infinity. -/
def valueWord (y : DWord) : Word × Bool :=
  let neg := y.toNat.testBit 63
  if f64Lt f32Max (f64Abs y) || !(f64Finite y) then (if neg then 0xFF800000#32 else 0x7F800000#32, true)
  else if f64Lt (f64Abs y) f32MinNormal then (if neg then 0x80000000#32 else 0#32, false)
  else (f32Of64 y, false)

/-! ### Cold junctions -/

/-- A cold-junction sample at x serves a sample at a grid instant (R242). -/
def cjReaches (m : PMem) (ch grid x : Nat) : Bool :=
  decide (x ≤ grid ∧ fineOf x + clockFine (m.lookL (m.cjCh ch)) ≤ fineOf grid + clockFine (m.lookL ch))

/-- Forming a thermocouple sample waits for the cold-junction channel's next sample (R242). -/
def State.cjWaits (s : State) (m : PMem) (ch grid : Nat) : Bool :=
  let c := m.cjCh ch
  let x := s.chan c
  decide (1 ≤ m.curve ch ∧ m.curve ch ≤ 8) && m.cjMode ch == 1 && m.chanOn c && x.set.isSome
    && cjReaches m ch grid (m.gridAt (m.group c) (max x.since ((x.delivered.map (· + 1)).getD 0)))

/-- The cold-junction temperature of a sample (R241 to R243): value word, its flags, and the instant of its source;
none where no sample of the cold-junction channel is there. -/
def State.coldJunction (s : State) (m : PMem) (ch grid : Nat) : Option (Word × Byte × Nat) :=
  if m.cjMode ch = 1 then
    let cj := m.cjCh ch
    ((s.chan cj).recent.find? fun x => cjReaches m ch grid x.t).map fun x => (x.eng, x.flags, x.t)
  else if m.cjMode ch = 2 then
    let rs := s.cal.rounds.get (podOf ch)
    (rs.find? fun r => decide (r.1 + 1 ≤ beatAt grid)).map fun r => (r.2, 0, beatTime r.1)
  else if m.cjMode ch = 3 then some (m.cjFixed ch, 0, 0)
  else some (0, 0, 0)

/-- The engineering value of a sample and the flags that forming it adds (R245), with UNS of the cold junction (R242).
-/
structure Formed where
  eng : Word
  flags : Nat
  deriving DecidableEq, Repr

/-- Form the engineering value word (R244, R245, R108): the overrange sign where OVR is set, LEAD, the calibrated
word. -/
def State.formEng (s : State) (m : PMem) (ch grid : Nat) (ovr : Option Bool) (lead : Bool) (w : Int) : Formed :=
  let c := m.curve ch
  let tc := decide (1 ≤ c ∧ c ≤ 8)
  let cj := if tc then s.coldJunction m ch grid else some (0, 0, 0)
  let uns := match cj with
    | some (_, f, _) => if tc && m.cjMode ch == 1 && nbit f.toNat 7 then fUNS else 0
    | none => 0
  let badCj := tc && m.cjMode ch == 1 && (match cj with
    | some (v, _, _) => !(f32Finite v)
    | none => true)
  if lead then { eng := 0x7FC00001#32, flags := uns }
  else if badCj then { eng := 0x7FC00002#32, flags := uns ||| fLEAD }
  else match ovr with
    | some pos => { eng := if pos then 0x7F800000#32 else 0xFF800000#32, flags := uns }
    | none =>
      match s.quantity m ch grid (voltsOf (slotRange (m.slot ch)) w) with
      | none => { eng := 0x7FC00004#32, flags := uns ||| fLEAD }
      | some x =>
        let tcj := f64Of32 ((cj.map (·.1)).getD 0)
        match curveForward m c (m.setNo ch) tcj x with
        | .undefined => { eng := 0x7FC00004#32, flags := uns ||| fLEAD }
        | .namur => { eng := 0x7FC00005#32, flags := uns ||| fLEAD }
        | .below => { eng := 0xFF800000#32, flags := uns ||| fOVR }
        | .above => { eng := 0x7F800000#32, flags := uns ||| fOVR }
        | .value f =>
          let y := f64Add (f64Mul (f64Of32 (m.gain ch)) f) (f64Of32 (m.offset ch))
          let (v, inf) := valueWord y
          { eng := v, flags := if inf then uns ||| fOVR else uns }

/-! ### Inverted curves -/

/-- The input quantity nearest to a target, and whether it was clamped (R246 to R248): the curve's result at the ends
of its domain bounds the target, and an end stands for a target beyond it. -/
def clampBy (lo hi flo fhi y : DWord) (f : DWord → DWord) : DWord × Bool :=
  let up := f64Le flo fhi
  let low := if up then flo else fhi
  let high := if up then fhi else flo
  if f64Lt y low then (if up then lo else hi, true)
  else if f64Lt high y then (if up then hi else lo, true)
  else (f y, false)

/-- The ratio for a strain (R238 solved). -/
def bridgeInverse (c : Nat) (gf nu y : DWord) : DWord :=
  let e := f64Div (f64Mul y gf) (f64OfInt 1000000)
  let four := f64OfInt 4
  if c = 33 then f64Div e f64Two
  else if c = 35 then e
  else if c = 32 then f64Div e (f64Add four (f64Mul f64Two e))
  else f64Div (f64Mul e (f64Add f64One nu)) (f64Add four (f64Mul (f64Mul f64Two e) (f64Sub f64One nu)))

/-- Swap the coordinates of points, rising. -/
def flipPoints (ps : List (DWord × DWord)) : List (DWord × DWord) :=
  let q := ps.map fun p => (p.2, p.1)
  match q.head?, q.getLast? with
  | some a, some b => if f64Lt b.1 a.1 then q.reverse else q
  | _, _ => q

/-- The span of a curve's input from lo to hi, where its result is flo and fhi, and its exact inverse, with how far the
forward curve at the result may lie from the target (R247). -/
structure Inverse where
  lo : DWord
  hi : DWord
  flo : DWord
  fhi : DWord
  back : DWord → DWord
  tol : DWord

/-- 10^-6 of a span of results. -/
def spanTol (flo fhi : DWord) : DWord := f64Mul (f64OfRat 1 1000000) (f64Abs (f64Sub fhi flo))

/-- The inverse of every curve but 0 (R246). -/
def inverseOf (m : PMem) (c set : Nat) (tref : DWord) : Inverse :=
  if c ≤ 8 then
    let (lo, hi) := tcDomain c
    let emf := fun (t : DWord) => f64Sub (tcForward c t) (tcForward c tref)
    { lo := emf (f64OfRat lo 10), hi := emf (f64OfRat hi 10), flo := f64OfRat lo 10, fhi := f64OfRat hi 10, back := emf
      tol := milliDegree }
  else if c ≤ 19 then
    let (r, a, b, k) := rtdTerms m c set
    let f := rtdForward r a b k
    { lo := f (f64OfInt (-200)), hi := f (f64OfInt 850), flo := f64OfInt (-200), fhi := f64OfInt 850, back := f
      tol := milliDegree }
  else if c = 24 then
    let back := fun (t : DWord) => solvePos (steinhart m set) (f64Div f64One (f64Add t kelvin))
    { lo := back (f64OfInt (-80)), hi := back (f64OfInt 300), flo := f64OfInt (-80), fhi := f64OfInt 300, back
      tol := milliDegree }
  else if c ≤ 35 then
    let f := bridge c (setF m set 1) (setF m set 2)
    let lo := f64OfRat (-1) 10
    let hi := f64OfRat 1 10
    { lo, hi, flo := f lo, fhi := f hi, back := bridgeInverse c (setF m set 1) (setF m set 2), tol := spanTol (f lo) (f hi) }
  else if c = 40 then
    let l := setF m set 1
    let h := setF m set 2
    let f := fun (x : DWord) => f64Add l (f64Mul (f64Div (f64Sub x (f64OfRat 4 1000)) (f64OfRat 16 1000)) (f64Sub h l))
    let lo := f64OfRat 36 10000
    let hi := f64OfRat 21 1000
    { lo, hi, flo := f lo, fhi := f hi, tol := spanTol (f lo) (f hi)
      back := fun y => f64Add (f64OfRat 4 1000) (f64Mul (f64OfRat 16 1000) (f64Div (f64Sub y l) (f64Sub h l))) }
  else if c = 48 then
    let lo := setF m set 1
    let hi := setF m set 2
    let f := poly m set
    { lo, hi, flo := f lo, fhi := f hi, back := solve f lo hi, tol := spanTol (f lo) (f hi) }
  else
    let ps := tablePoints m set
    let a := ps.head?.getD (0, 0)
    let b := ps.getLast?.getD (0, 0)
    { lo := a.1, hi := b.1, flo := a.2, fhi := b.2, back := interpolate (flipPoints ps), tol := spanTol a.2 b.2 }

/-- The inverse of a curve at a target f(x) = y (R246 to R248), and whether the target was clamped: none for a target
that is no number. -/
def curveInverse (m : PMem) (c set : Nat) (tref y : DWord) : Option (DWord × Bool) :=
  if !(f64Finite y) then none
  else if c = 0 then some (y, false)
  else
    let v := inverseOf m c set tref
    let (x, clamped) := clampBy v.lo v.hi v.flo v.fhi y v.back
    let ok := fun (q : DWord) =>
      between v.lo v.hi q && between (v.back (f64Sub y v.tol)) (v.back (f64Add y v.tol)) q
    some (if clamped then x
      else delivered ok (Config.curveInverse c ((List.range 129).map (m.setWord set)) tref y) x, clamped)

/-! ### Sets -/

/-- Words 1 to n of a set are finite. -/
def setFinite (m : PMem) (set n : Nat) : Bool := (List.range n).all fun i => f32Finite (m.setWord set (1 + i))

/-- Each value lies strictly above the one before. -/
def rising : List DWord → Bool
  | a :: b :: r => f64Lt a b && rising (b :: r)
  | _ => true

/-- The set tests of step 5 of R249 on a set of its kind. -/
def setOk (m : PMem) (k : Nat) : Bool :=
  let kind := m.setKind k
  let n := m.setCount k
  if kind = 1 then setFinite m k 4
  else if kind = 2 then setFinite m k 3
  else if kind = 3 then setFinite m k 2 && f64Lt 0 (setF m k 1) && f64Le 0 (setF m k 2) && f64Le (setF m k 2) (f64OfRat 1 2)
  else if kind = 4 then setFinite m k 2 && decide (setF m k 1 ≠ setF m k 2) && !(fIsZero (f64v (f64Sub (setF m k 1) (setF m k 2))))
  else if kind = 5 then decide (n ≤ 9) && setFinite m k (n + 3) && f64Lt (setF m k 1) (setF m k 2)
  else if kind = 6 then decide (2 ≤ n ∧ n ≤ 64) && setFinite m k (2 * n) && rising ((tablePoints m k).map (·.1))
  else true

/-- A user curve is strictly monotonic over its domain (R248). -/
def monotonic (m : PMem) (c set : Nat) : Bool :=
  let ys :=
    if c = 48 then
      let a := setF m set 1
      let d := f64Sub (setF m set 2) a
      (List.range 1024).map fun (i : Nat) => poly m set (f64Add a (f64Mul d (f64OfRat (i : Int) 1023)))
    else (tablePoints m set).map (·.2)
  if c = 48 ∨ c = 49 then rising ys || rising ys.reverse else true

/-! ### Commands -/

/-- Outcome code of LIN_EVAL for a value word (R253). -/
def outcomeOf (w : Word) (clamped : Bool) : Nat := if f32IsNan w then 1 else if !(f32Finite w) then 2 else if clamped then 3 else 0

/-- The result word of LIN_EVAL with GAIN 1 and OFFSET 0 (R245, R253). -/
def linForward (m : PMem) (c set : Nat) (tcj x : Word) : Word :=
  if f32IsNan x then 0x7FC00004#32
  else if decide (1 ≤ c ∧ c ≤ 8) && !(f32Finite tcj) then 0x7FC00002#32
  else match curveForward m c set (f64Of32 tcj) (f64Of32 x) with
    | .undefined => 0x7FC00004#32
    | .namur => 0x7FC00005#32
    | .below => 0xFF800000#32
    | .above => 0x7F800000#32
    | .value y => (valueWord y).1

/-- LIN_EVAL (R253, R254). -/
def execLinEval (t : Nat) (rq : Req) (s : State) : Host.Outcome State Fault Refusal :=
  runCmd { code := 0x0600, legal := stRead, standbyNo := false, len := lenIs 12 }
    (reading fun rq s =>
      let c := beAt rq.payload 0 1
      let set := beAt rq.payload 1 1
      let dir := beAt rq.payload 2 1
      let m := s.cfg.force
      let ref : Word := BitVec.ofNat 32 (beAt rq.payload 4 4)
      let x : Word := BitVec.ofNat 32 (beAt rq.payload 8 4)
      if beAt rq.payload 3 1 ≠ 0 then .no 0x0302
      else if dir > 1 then .no 0x0301
      else if set > 15 then .noAt 0x0306 set
      else if !(curveListed c) then .no 0x0301
      else if (match setNeeded c with
        | some k => decide (m.setKind set ≠ k)
        | none => false) then .no 0x0213
      else if (setNeeded c).isSome && !(setOk m set) then .no 0x0301
      else if dir = 1 ∧ monotonic m c set = false then .no 0x0301
      else
        let (w, cl) := if dir = 0 then (linForward m c set ref x, false)
          else match curveInverse m c set (f64Of32 ref) (f64Of32 x) with
            | some (q, k) => ((valueWord q).1, k)
            | none => (0x7FC00004#32, false)
        .done (beWord w ++ beBytes 1 (outcomeOf w cl) ++ zeros 3)) t rq s

/-- The payload of CJ_STATUS (R253): of the channel's newest sample. -/
def cjPayload (ch : Nat) (s : State) : Bytes :=
  let r := ((s.chan ch).cj).getD (0, 0, 0)
  beBytes 1 (s.cfg.force.cjMode ch) ++ zeros 1 ++ beWord r.1 ++ beBytes 8 r.2.2 ++ [r.2.1] ++ zeros 3

/-- CJ_STATUS (R253). -/
def execCjStatus (t : Nat) (rq : Req) (s : State) : Host.Outcome State Fault Refusal :=
  runCmd { code := 0x0601, legal := stRead, standbyNo := false, len := lenIs 2 } (reading (chanRead cjPayload)) t rq s

/-- BRIDGE_ZERO (R253, R254). -/
def execBridgeZero (t : Nat) (rq : Req) (s : State) : Host.Outcome State Fault Refusal :=
  runCmd { code := 0x0602, legal := stLive, standbyNo := false, len := lenIs 4 }
    (fun rq s =>
      let ch := beAt rq.payload 0 2
      let n := beAt rq.payload 2 2
      if ch > 255 then (.noAt 0x0306 ch, s)
      else if n < 16 then (.no 0x0301, s)
      else if inputKind s.cfg.force (s.cfg.force.curve ch) (s.cfg.force.setNo ch) ≠ 2 then (.no 0x020C, s)
      else match newJob 0x0602 0 (.bridgeZero ch n 0 0 0) s with
        | none => (.no 0x0502, s)
        | some (id, s) => (.running id [], s)) t rq s

/-- A sample counts for the bridge-zero jobs of its channel (R254): V / V_X before ZERO, unless it is marked. -/
def feedBridge (m : PMem) (ch grid : Nat) (w : Int) (flags : Nat) (s : State) : State :=
  let marked := flags &&& (fUNS ||| fOVR ||| fLEAD ||| fADJ ||| fSUBST) != 0
  let vx := s.slotVoltage m ch grid
  let ratio := f64Div (voltsOf (slotRange (m.slot ch)) w) vx
  let usable := !marked && !(fIsZero (f64v vx))
  let feed := fun (j : Nat × Job) =>
    if j.2.ended.isSome then j
    else match j.2.work with
      | .bridgeZero c n used skipped sum =>
        if c = ch ∧ used + skipped < n then
          (j.1, { j.2 with work := if usable then .bridgeZero c n (used + 1) skipped (f64Add sum ratio)
            else .bridgeZero c n used (skipped + 1) sum })
        else j
      | _ => j
  { s with sh := { s.sh with jobs := s.sh.jobs.map feed } }

/-- BRIDGE_ZERO_DONE (R253, R254). -/
def execBridgeZeroDone (t job : Nat) (s : State) : Host.Outcome State Fault Refusal :=
  act t s fun s =>
    match s.jobWork job with
    | some (.bridgeZero _ n used skipped sum) =>
      if n ≤ used + skipped then
        let (k, s) := nextFree s
        let mean := if used = 0 then Config.freeWord k else f32Of64 (f64Div sum (f64OfInt used))
        let res := beWord mean ++ beBytes 4 used ++ beBytes 4 skipped
        if 2 * used < n then endJob job 2 0x0606 res 0 s else endJob job 1 0 res 0 s
      else s
    | _ => s

end Sys2Proof.Machine
end

