-- ==== Sys2Proof/Machine/Service.lean ====
section
/-! DEFINITION. Path tests (R139 to R142) and calibration (R262 to R275). -/

namespace Sys2Proof.Machine

open Sys2Proof

/-! ### Capacity of the Reed engines -/

/-- Sum of fractions, in lowest terms. -/
def fracAdd (a b : Nat × Nat) : Nat × Nat :=
  let n := a.1 * b.2 + b.1 * a.2
  let d := a.2 * b.2
  let g := Nat.gcd n d
  if g = 0 then (n, d) else (n / g, d / g)

/-- Load of an engine for these channels, in multiply-accumulates per second, as a fraction (R156). -/
def reedLoad (m : PMem) (chs : List Nat) : Nat × Nat :=
  chs.foldl (fun a ch => fracAdd a (m.ntOf ch (m.pathSet ch) * 25600000, m.reedDec ch)) (0, 1)

/-- The enabled channels of a die with more slots fit in its engine's capacity (R142, R156). -/
def reedFits (m : PMem) (die : Nat) (more : List Nat) : Bool :=
  let chs := ((List.range 64).map (64 * die + ·)).filter fun ch => m.chanOn ch || more.contains ch
  let (n, d) := reedLoad m chs
  decide (n ≤ 6400000000 * d)

/-- So do they beside the slots that are under a test already (R156). -/
def State.reedFits (s : State) (die : Nat) (more : List Nat) : Bool :=
  Machine.reedFits s.cfg.active die (more ++ (List.range 256).filter s.underTest)

/-! ### Channels start and stop -/

/-- A channel starts from zero state at a boundary (R33, R129, R161): its first sample carries STEP. Counters stay. -/
def freshChan (epoch : Nat) (m : PMem) (ch b : Nat) (up : Bool) (c : Chan) : Chan :=
  let p := m.pathSet ch
  let z := multFrom epoch (clockFrom (fineOf b)) p.dec
  let n : Chan :=
    { set := some p, since := b, cicFrom := z, lastRS := c.lastRS, lastCS := c.lastCS, recoveries := c.recoveries
      abandoned := c.abandoned, clamps := c.clamps, delivered := c.delivered, gaps := if up then [] else [(0, none)] }
  registerEvent epoch
    { mode := 0, first := b, step := true, tE := fineOf b, set := p, nt := m.ntOf ch p
      zeroed := .cic z } n

/-- A channel begins to be sampled (R56). -/
def startChan (b : Nat) (s : State) (ch : Nat) : State :=
  chanUpd ch (freshChan s.clk.epoch s.cfg.active ch b (s.dieUp (dieOf ch))) s

/-- A channel's data path stops. -/
def Chan.stop (c : Chan) : Chan :=
  { since := c.since, lastRS := c.lastRS, lastCS := c.lastCS, recoveries := c.recoveries, abandoned := c.abandoned
    clamps := c.clamps, delivered := c.delivered }

/-! ### Slots lent to a test -/

/-- A slot is connected for a test, or returns from it (R96, R141, R264): it switches once its last sample before now
is complete, and the first sample from now on carries STEP (log entry 159). -/
def testEdge (ch : Nat) (s : State) : State :=
  let now := fineOf s.clk.loom
  let sw := switchClock s.cfg.active ch s.clk.loom
  chanUpd ch (fun c => match c.setAt sw with
    | none => c
    | some p => registerEvent s.clk.epoch
        { mode := 1, first := now, step := true, tE := clockFine sw, set := p
          nt := (s.reedBank (dieOf ch) p.bank).ntOf ch p } c) (noteSwitch (podOf ch) (loomOf (clockFine sw)) s)

/-- Slots of a pod that a mask names, as channels. -/
def maskChans (pod mask : Nat) : List Nat := (bitsOf 16 mask).map (16 * pod + ·)

/-- A slot is connected for a test, on a range (R141, R264): its lead detectors restart clear, and a slot that is not
enabled begins to be sampled. -/
def lendSlot (range : PMem → Nat → Nat) (s : State) (ch : Nat) : State :=
  let s := (List.range 4).foldl (fun s d => leadClear ch d false s) s
  let now := fineOf s.clk.loom
  let s := if (s.chan ch).set.isNone then startChan s.clk.loom s ch else s
  testEdge ch (chanUpd ch (fun c => { c with
    testFrom := some (c.testFrom.getD now), tests := (now, none, range s.cfg.active ch) :: c.tests }) s)

/-- A slot returns from a test (R141, R264); one that is not enabled is sampled no more. -/
def returnSlot (s : State) (ch : Nat) : State :=
  let now := fineOf s.clk.loom
  if s.cfg.active.chanOn ch then
    testEdge ch (chanUpd ch (fun c => { c with
      tests := c.tests.map fun x => if x.2.1.isNone then (x.1, some now, x.2.2) else x }) s)
  else chanUpd ch Chan.stop s

/-- Connect slots for a test on their own ranges (R140). -/
def testBegin (chs : List Nat) (s : State) : State := chs.foldl (lendSlot fun m ch => slotRange (m.slot ch)) s

/-- The channels of a calibration run, whose settle counts bound its half-period (R262, R263). -/
def runChans (kind pod mask anchor : Nat) : List Nat :=
  (if kind = 5 then [] else maskChans pod mask) ++ if 4 ≤ kind then [anchor] else []
def CalRun.chans (r : CalRun) : List Nat := runChans r.kind r.pod r.mask r.anchor

/-- The channels that a test job still has (R141, R264). -/
def testChans : JobWork → List Nat
  | .pathTest p => if p.level < p.levels.length then maskChans p.pod p.mask else []
  | .calRun r => if r.returned then [] else r.chans
  | _ => []

/-- A test job ends: its slots return (R141, R264). -/
def testEnd (job st reason : Nat) (result : Bytes) (s : State) : State :=
  match s.jobWork job with
  | some w => (testChans w).foldl returnSlot (endJob job st reason result 0 s)
  | none => s

/-- The recoveries that follow the return of channels are complete (R141, R263). -/
def State.recovered (s : State) (chs : List Nat) : Bool := chs.all fun ch => (s.chan ch).testFrom.isNone

/-- The default levels of a path test, in steps of full scale / 32,768 (R140). -/
def defaultLevels : List Int := [-29491, -16384, 0, 16384, 29491]

/-- PATH_TEST (R140, R142, R145). A slot already under a test is refused with 0x0108 (DESIGN CHOICE, log entry 165). -/
def execPathTest (t : Nat) (rq : Req) (s : State) : Host.Outcome State Fault Refusal :=
  runCmd { code := 0x0205, legal := fun h => h == .service, standbyNo := true, len := fun n => decide (8 ≤ n ∧ n % 2 = 0) }
    (fun rq s =>
      let pod := beAt rq.payload 0 1
      let n := beAt rq.payload 1 1
      let mask := beAt rq.payload 2 2
      let samples := beAt rq.payload 4 2
      let given := (List.range n).map fun i => signedOf 16 (beAt rq.payload (8 + 2 * i) 2)
      if rq.payload.length ≠ 8 + 2 * n then (.no 0x0305, s)
      else if beAt rq.payload 6 2 ≠ 0 then (.no 0x0302, s)
      else if pod > 15 then (.noAt 0x0306 pod, s)
      else if s.podCut pod then (.noAt 0x0105 pod, s)
      else if n = 1 ∨ n > 8 ∨ samples = 0 ∨ samples > 1024 ∨ given.any (fun l => decide (31129 < l.natAbs)) = true then
        (.no 0x0301, s)
      else if (maskChans pod mask).any s.underTest then (.no 0x0108, s)
      else if !(s.reedFits (pod / 4) (maskChans pod mask)) then (.no 0x0208, s)
      else match s.freeBus with
        | none => (.no 0x0203, s)
        | some b =>
          let at_ := ((maskChans pod mask).map fun ch => switchClock s.cfg.active ch s.clk.loom).foldl max 0
          let levels := if n = 0 then defaultLevels else given
          match newJob 0x0205 0 (.pathTest { pod, mask, samples, levels, bus := b, since := clockFine at_ }) s with
          | none => (.no 0x0502, s)
          | some (id, s) => (.running id [], testBegin (maskChans pod mask) s)) t rq s

/-- The result of one slot of a path test (R140, R145): a line fitted through the averages against the readback, in
exact whole-number arithmetic; the outcomes in their order of R140, no response first (log entry 26). A fit through a
single readback has no slope: its figures are free values. -/
def pathResult (range : Nat) (reads : List Int) (sums : List (Int × Nat)) (free : Nat) : Bytes :=
  let dn : Nat := 1000 * (if range = 2 then 16 else if 3 ≤ range then 64 else 1)
  let xs : List Int := reads.map fun r => r * (65536 * 4 ^ range : Nat)
  let k : Int := (min xs.length sums.length : Nat)
  let den : Nat := (sums.map fun y => max 1 y.2).foldl (· * ·) 1
  let ys : List Int := sums.map fun y => y.1 * (den / max 1 y.2 : Nat)
  let xy : List (Int × Int) := xs.zip ys
  let sx := (xy.map (·.1)).foldl (· + ·) (0 : Int)
  let sy := (xy.map (·.2)).foldl (· + ·) (0 : Int)
  let sxy := (xy.map fun q => q.1 * q.2).foldl (· + ·) (0 : Int)
  let sxx := (xy.map fun q => q.1 * q.1).foldl (· + ·) (0 : Int)
  let bn := k * sxy - sx * sy
  let bd := k * sxx - sx * sx
  if bd ≤ 0 then
    beBytes 1 4 ++ zeros 3 ++ (List.range 3).flatMap fun i => beWord (Config.freeWord (free + i))
  else
    let d := bd.toNat
    let gn : Int := bn * dn
    let gd : Nat := d * den
    let off := sy * bd - bn * sx
    let od := k.toNat * den * d
    let res : Nat := (xy.map fun q => (q.2 * k * bd - k * bn * q.1 - off).natAbs).foldl max 0
    let err : Int := gn - gd
    let outcome :=
      if 2 * gn < gd then 4
      else if 5000 * gd < err.natAbs * 1000000 then 1
      else if 78643 * od < off.natAbs then 2
      else if 7864 * od < res then 3
      else 0
    beBytes 1 outcome ++ zeros 3 ++ beSigned 4 (roundEven (err * 1000000) gd) ++ beSigned 4 (roundEven off od)
      ++ beSigned 4 (roundEven (res : Int) od)

/-- The slots of a path test that a level leaves (R140). -/
def PathTest.nextLevel (p : PathTest) (now : Nat) : PathTest :=
  { p with
    level := p.level + 1, since := now
    slots := p.slots.map fun (x : Nat × PathSlot) => (x.1, { done := x.2.done ++ [(x.2.sum, x.2.n)] }) }

/-- An output sample of a slot under a path test (R140): the first 10 us of a level and the settle count pass by, then
the number asked for is averaged; the converter of the bus is asked for its readback with the first such sample (log
entry 201), and once it has come and every slot has that many, the DAC takes the next level. -/
def PathTest.feed (p : PathTest) (m : PMem) (ch : Nat) (tau : Int) (raw : Int) (now : Nat) : PathTest :=
  if p.levels.length ≤ p.level ∨ podOf ch ≠ p.pod ∨ nbit p.mask (ch % 16) = false ∨ tau < p.since + fineOf (usLoom 10) then p
  else
    let x := p.slots.get (ch % 16)
    let x :=
      if x.waited < (settleCounts m ch).2.2 then { x with waited := x.waited + 1 }
      else if x.n < p.samples then { x with n := x.n + 1, sum := x.sum + raw } else x
    let p := { p with slots := p.slots.set (ch % 16) x, asked := max p.asked (p.level + 1) }
    if p.level < p.reads.length && (bitsOf 16 p.mask).all fun sl => (p.slots.get sl).n == p.samples then p.nextLevel now else p

/-- PATH_TEST_DONE (R140, R141): after the last level and the recoveries; slots are those whose own
word failed its husk as the fit used it, husks the other registers that did (R399). -/
def execPathTestDone (t job : Nat) (slots husks : List Nat) (s : State) : Host.Outcome State Fault Refusal :=
  act t s fun s =>
    match s.jobWork job with
    | some (.pathTest p) =>
      if p.level < p.levels.length ∨ s.recovered (maskChans p.pod p.mask) = false then s else
      let one := fun (sl : Nat) =>
        if nbit p.mask sl then
          pathResult (slotRange (s.cfg.active.slot (16 * p.pod + sl))) p.reads (p.slots.get sl).done (s.free + 3 * sl)
        else beBytes 1 0xFF ++ zeros 15
      let worn := fun (s : State) (sl : Nat) =>
        if [1, 3, 4].contains ((one sl).headD 0).toNat then partWorn 0 p.pod (16 * p.pod + sl) s else s
      let failed := (slots.map fun sl => pkey (0x0100 + p.pod) (40 + sl)) ++ husks
      (List.range 16).foldl worn (testEnd job 1 0 ((List.range 16).flatMap one) (usedHusks failed { s with free := s.free + 48 }))
    | _ => s

/-! ### Calibration entries -/

/-- Words of block 0x0700 (R273). -/
def PMem.calW (m : PMem) (i : Nat) : Word := m.word 0x0700 i

/-- A list with the value at an index replaced, padded with zeros. -/
def putAt (l : List DWord) (i : Nat) (v : DWord) : List DWord := (List.range 4).map fun k => if k = i then v else l.getD k 0
def putBeat (l : List Nat) (i v : Nat) : List Nat := (List.range 4).map fun k => if k = i then v else l.getD k 0

/-- Distance of a point from a temperature. -/
def CalPoint.dist (p : CalPoint) (t : DWord) : DWord := f64Abs (f64Sub p.temp t)

/-- The point nearest to a temperature. -/
def nearest (ps : List CalPoint) (t : DWord) : Option CalPoint :=
  ps.foldl (fun b p => match b with
    | some q => if f64Lt (p.dist t) (q.dist t) then some p else b
    | none => some p) none

/-- A new point at a temperature with one result, its other terms interpolated from the points given (R267). -/
def pointAt (key : Nat) (ps : List CalPoint) (r : CalResult) : CalPoint :=
  { temp := r.temp
    terms := putAt ((List.range 4).map fun i => termAt key ps r.temp i) r.term r.value
    confs := putAt [] r.term r.conf, beats := putBeat [] r.term r.beat }

/-- What serves a key at present: the modulator of a channel (R122), or the source itself or IX4 in its place (R461).
-/
def State.serving (s : State) (key : Nat) : Nat :=
  if key < 65536 then s.modulator (key / 8)
  else
    let src := (key - 65536) % 16
    if s.pow.replaced.get ((key - 65536) / 16 * 32) = src + 1 then 4 else src

/-- An accepted result in an entry (R258, R267), which a gain or scale factor formed with what serves the key now
makes good (R271). -/
def applyResult (serving : Nat → Nat) (tol : DWord) (r : CalResult) (e : CalEntry) : CalEntry :=
  let ps := match nearest e.points r.temp with
    | some p =>
      if f64Le (p.dist r.temp) tol then
        e.points.map fun q => if q = p then
          { q with terms := putAt q.terms r.term r.value, confs := putAt q.confs r.term r.conf
                   beats := putBeat q.beats r.term r.beat } else q
      else if e.points.length < 8 then e.points ++ [pointAt r.key e.points r]
      else
        let rest := e.points.filter (· ≠ p)
        rest ++ [pointAt r.key rest r]
    | none => [pointAt r.key [] r]
  let scales := (if 65536 ≤ r.key then r.term == 0 else r.term == 1) && r.modulator == serving r.key
  { points := ps, modulator := r.modulator, stale := e.stale && !scales }

/-- Results in a set of entries, in order. -/
def applyResults (serving : Nat → Nat) (tol : DWord) (rs : List CalResult) (es : Tab CalEntry) : Tab CalEntry :=
  rs.foldl (fun es r => es.set r.key (applyResult serving tol r (entryOf es r.key))) es

/-- POINT_TOL in degrees C (R273). -/
def PMem.pointTol (m : PMem) : DWord := f64OfRat (fld (m.calW 3) 23 16 : Nat) 10

/-- T_d lies more than OUT_TOL beyond the outermost point of an entry in use in a pod (R259). -/
def State.beyondTol (s : State) (pod : Nat) : Bool :=
  let m := s.cfg.active
  let td := f64Of32 (s.cal.td.get pod).value
  let tol := f64OfInt (fld (m.calW 3) 7 0)
  let off := fun (key : Nat) =>
    let ps := (entryOf s.cal.entries key).points
    !ps.isEmpty && (ps.all (fun p => f64Lt (f64Add p.temp tol) td) || ps.all fun p => f64Lt td (f64Sub p.temp tol))
  (s.cal.td.get pod).known && (
    ((List.range 16).any fun sl => m.chanOn (16 * pod + sl) && off (calKey (16 * pod + sl) (slotRange (m.slot (16 * pod + sl)))))
    || ((List.range 5).any fun n => ixEn (m.ix pod n) && off (srcKey pod n))
    || (List.range 2).any fun n => bitAt (m.vx pod n) 31 && off (srcKey pod (8 + n)))

/-- The alarm of R259 follows its condition. -/
def tolAlarm (s : State) : State := setAlarm 10 ((List.range 16).any s.beyondTol) true 0xFFFF 0 s

/-! ### Calibration runs -/

/-- S of R262: the Reed settle count plus 1. -/
def settleS (m : PMem) (ch : Nat) : Nat := (settleCounts m ch).2.2 + 1

/-- A term of a key as a run uses it: pending if present, otherwise in force (R262). -/
def State.runTerm (s : State) (key pod i : Nat) : DWord :=
  match ((s.cal.pending.get pod).filter fun r => r.key == key && r.term == i).getLast? with
  | some r => r.value
  | none => termAt key (entryOf s.cal.entries key).points (f64Of32 (s.cal.td.get pod).value) i

/-- The anchor has an accepted G at its range, pending or in force (R262, R265): one that a run gave, not the factory's
(DEDUCED, log entry 169). -/
def State.anchorOk (s : State) (anchor : Nat) : Bool :=
  let key := calKey anchor (slotRange (s.cfg.active.slot anchor))
  (s.cal.entries.get key).points.any (fun p => p.beats.getD 1 0 != 0)
    || (s.cal.pending.get (podOf anchor)).any fun r => r.key == key && r.term == 1

/-- A run in progress holds what another would use (R265): a slot, source, bus or test DAC of its pod, or its anchor.
-/
def runConflict (kind pod mask anchor : Nat) : JobWork → Bool
  | .calRun r =>
    r.pod == pod || r.chans.any (fun ch => podOf ch == pod) || (runChans kind pod mask anchor).any r.chans.contains
  | .pathTest p => p.pod == pod || (runChans kind pod mask anchor).any (maskChans p.pod p.mask).contains
  | _ => false

/-- The range a run measures a slot on: REF_RANGE for a reference run (R273), the one named, or the slot's (R264,
R274); an anchor measures on its own (R262). -/
def runRange (m : PMem) (kind range anchor ch : Nat) : Nat :=
  if kind = 3 then fld (m.calW 0) 29 27
  else if range = 0xFF ∨ (4 ≤ kind ∧ ch = anchor) then slotRange (m.slot ch) else range

/-- A reference run takes an AC sine of REF_FREQ tenths of a hertz (R273). -/
def PMem.refAc (m : PMem) : Bool := fld (m.calW 0) 31 30 == 1
def PMem.refFreq (m : PMem) : Nat := fld (m.calW 0) 15 0

/-- CAL_RUN (R262 to R265, R274, R275). REF_FREQ is held to the rate of the slots of the run (R273; log entry 170). -/
def execCalRun (t : Nat) (rq : Req) (s : State) : Host.Outcome State Fault Refusal :=
  runCmd { code := 0x0701, legal := fun h => h == .service, standbyNo := true, len := lenIs 16 }
    (fun rq s =>
      let m := s.cfg.active
      let kind := beAt rq.payload 0 1
      let pod := beAt rq.payload 1 1
      let mask := beAt rq.payload 2 2
      let range := beAt rq.payload 4 1
      let anchor := beAt rq.payload 5 1
      let src := beAt rq.payload 6 1
      let half := if beAt rq.payload 12 2 = 0 then 32 else beAt rq.payload 12 2
      let count := if beAt rq.payload 8 4 = 0 then (if kind = 2 then 65536 else 4096) else beAt rq.payload 8 4
      let chs := runChans kind pod mask anchor
      let hasRole := fun (r : Nat) => (List.range 40).any fun k => role (m.thread pod k) == r
      let srcOn := if src ≤ 4 then ixEn (m.ix pod src) else bitAt (m.vx pod (src - 8)) 31
      if beAt rq.payload 7 1 ≠ 0 ∨ beAt rq.payload 14 2 ≠ 0 then (.no 0x0302, s)
      else if kind = 0 ∨ kind > 5 then (.no 0x0301, s)
      else if pod > 15 then (.noAt 0x0306 pod, s)
      else if range > 4 ∧ range ≠ 0xFF then (.noAt 0x0306 range, s)
      else if (kind = 5 ∧ !(src ≤ 4 ∨ src = 8 ∨ src = 9)) ∨ (kind ≠ 5 ∧ src ≠ 0) then (.noAt 0x0306 src, s)
      else if s.podCut pod then (.noAt 0x0105 pod, s)
      else if chs.any (fun ch => decide (half < 2 * settleS m ch)) = true ∨ count / (2 * half) * 2 < 16 then (.no 0x0301, s)
      else if s.liveJobs.any fun j => runConflict kind pod mask anchor j.2.work then (.no 0x0108, s)
      else if (kind = 2 ∨ kind = 4) ∧ s.freeBus = none then (.no 0x0203, s)
      else if (kind = 3 ∨ (kind = 5 ∧ src ≤ 4)) ∧ !(hasRole 8 && hasRole 9) then (.no 0x0202, s)
      else if 4 ≤ kind ∧ s.anchorOk anchor = false then (.no 0x0204, s)
      else if kind = 4 ∧ (maskChans pod mask).any (fun ch =>
          decide (1 < ((runRange m 4 range anchor ch : Int) - slotRange (m.slot anchor)).natAbs)) = true then (.no 0x0204, s)
      else if kind = 5 ∧ srcOn = false then (.no 0x0204, s)
      else if kind = 3 ∧ m.refAc = true ∧ (maskChans pod mask).any (fun ch =>
          decide (2 * m.count (m.group ch) < m.refFreq * m.cycle (m.group ch))) = true then (.no 0x0301, s)
      else if !((List.range 4).all fun d => s.reedFits d chs) then (.no 0x0208, s)
      else
        let bus := if kind = 2 ∨ kind = 4 then s.freeBus.getD 8 else 8
        let run : CalRun :=
          { kind, pod, mask, range, anchor, source := src, count := count / (2 * half) * (2 * half), half, bus }
        match newJob 0x0701 0 (.calRun run) s with
        | none => (.no 0x0502, s)
        | some (id, s) => (.running id [], chs.foldl (lendSlot fun m ch => runRange m kind range anchor ch) s)) t rq s

/-- Sum, mean, and the standard deviation divided by the square root of the number (R266; n - 1 in the divisor, log
entry 27). -/
def sumF (l : List DWord) : DWord := l.foldl f64Add 0
def meanF (l : List DWord) : DWord := f64Div (sumF l) (f64OfInt l.length)
def stdErr (l : List DWord) : DWord :=
  let mu := meanF l
  let ss := sumF (l.map fun x => f64Mul (f64Sub x mu) (f64Sub x mu))
  f64Sqrt (f64Div ss (f64OfInt ((l.length : Int) * ((l.length : Int) - 1))))

/-- Slope of a least-squares line through values against their index, times their number (R266 test 6). -/
def trendF (l : List DWord) : DWord :=
  let n : Int := l.length
  let mid := f64OfRat (n - 1) 2
  let ix := (List.range l.length).map fun (i : Nat) => f64Sub (f64OfInt i) mid
  let num := sumF ((ix.zip l).map fun p => f64Mul p.1 p.2)
  let den := sumF (ix.map fun x => f64Mul x x)
  f64Mul (f64Div num den) (f64OfInt n)

/-- Linearised code of a half mean (R262): the offset and linearity terms with G = 1. -/
def linCode (o c2 c3 u : DWord) : DWord :=
  let n := f64Div (f64Sub u o) (f64OfInt 8388608)
  let n2 := f64Mul n n
  f64Mul (f64OfInt 8388608) (f64Add (f64Add n (f64Mul c2 n2)) (f64Mul c3 (f64Mul n2 n)))

/-- Mean of a half in codes. -/
def halfMean (h : CalHalf) : DWord := f64OfRat h.sum (max 1 h.n * 65536)

/-! ### What a run takes from its samples -/

/-- The bin of a code among 256 across full scale either way (R262); a word is in 2^-16 codes. -/
def codeBin (u : Int) : Nat := (clampInt 0 255 ((u + 7864320 * 65536) * 256 / (2 * 7864320 * 65536))).toNat

/-- The next output sample of a slot under a run (R262 to R264): marked names one that the statistics leave out. -/
def CalPart.feed (p : CalPart) (r : CalRun) (ac : Bool) (settle : Nat) (u : Int) (marked : Bool) : CalPart :=
  if r.count ≤ p.seen then p
  else
    let pos := p.seen % r.half
    let hs := if pos = 0 then {} :: p.halves else p.halves
    let kept := decide (settle ≤ if r.kind = 3 ∧ ac then p.seen else pos)
    let use := kept && !marked
    let add := fun (h : CalHalf) => { h with
      kept := h.kept + b2n kept, n := h.n + b2n use, sum := if use then h.sum + u else h.sum
      sq := if use then h.sq + u.natAbs * u.natAbs else h.sq }
    let halves := match hs with
      | h :: t => add h :: t
      | [] => []
    { seen := p.seen + 1, halves
      bins := if use && r.kind == 2 then p.bins.upd (4 * (p.seen / r.half) / (r.count / r.half) * 256 + codeBin u) (· + 1) else p.bins
      wave := if use && r.kind == 3 && ac then (p.seen, u) :: p.wave else p.wave }

/-- An output sample of a slot under a test (R140, R262): a run ends its measuring once each of its slots has given
COUNT samples, and a path test after its last level; then the slots return. -/
def feedTests (m : PMem) (ch : Nat) (tau : Int) (u : Int) (x : Sample) (s : State) : State :=
  if (s.chan ch).tests.any (fun y => y.2.1.isNone && decide ((y.1 : Int) ≤ tau)) then
    let marked := x.flags.toNat &&& (fOVR ||| fLEAD ||| fADJ ||| fSUBST) != 0
    let feed := fun (w : JobWork) => match w with
      | .pathTest p => JobWork.pathTest (p.feed m ch tau x.raw.toInt (fineOf s.clk.loom))
      | .calRun r =>
        if !r.returned && r.chans.contains ch then
          let parts := r.parts.upd ch fun p => p.feed r m.refAc (settleS m ch) u marked
          .calRun { r with parts, returned := r.chans.all fun c => decide (r.count ≤ (parts.get c).seen) }
        else w
      | _ => w
    let asked := fun (s : State) => s.liveJobs.filterMap fun j => match j.2.work with
      | .pathTest p => if p.reads.length < p.asked then some (j.1, p.bus, p.asked) else none
      | _ => none
    let old := asked s
    let before := s.liveJobs.flatMap fun j => testChans j.2.work
    let s := { s with sh := { s.sh with jobs := s.sh.jobs.map fun j =>
      if j.2.ended.isNone then (j.1, { j.2 with work := feed j.2.work }) else j } }
    let s := ((asked s).filter fun q => !(old.contains q)).foldl
      (fun s q => request q.2.1 { cls := 2, ready := s.clk.loom, what := .readback q.1 } s) s
    let after := s.liveJobs.flatMap fun j => testChans j.2.work
    (before.filter fun c => !(after.contains c)).foldl returnSlot s
  else s

/-- A housekeeping die temperature counts for the runs that use a pod (R266). -/
def feedTemps (pod : Nat) (value : Word) (s : State) : State :=
  let v := f64Of32 value
  let add := fun (x : RunTemps) =>
    { lo := if x.n = 0 ∨ f64Lt v x.lo then v else x.lo, hi := if x.n = 0 ∨ f64Lt x.hi v then v else x.hi
      sum := f64Add x.sum v, n := x.n + 1 : RunTemps }
  let feed := fun (w : JobWork) => match w with
    | .calRun r => if r.returned then w else .calRun { r with temps := r.temps.upd pod add }
    | _ => w
  { s with sh := { s.sh with jobs := s.sh.jobs.map fun j =>
    if j.2.ended.isNone then (j.1, { j.2 with work := feed j.2.work }) else j } }

/-! ### Fits -/

/-- Half-sums, or half-differences, of neighbouring values, from the first or the second one on (R262, R266 test 7). -/
def pairUp (f : DWord → DWord → DWord) : List DWord → List DWord
  | a :: b :: r => f a b :: pairUp f r
  | _ => []
def halfSum (a b : DWord) : DWord := f64Div (f64Add a b) f64Two
def halfDiff (a b : DWord) : DWord := f64Div (f64Sub a b) f64Two

/-- A sine of a number of turns per sample fitted by least squares (R262): the amplitude, its standard uncertainty
from the covariance of the fit (R266), and the rms of what is left. Two terms are fitted, a cosine and a sine (DESIGN
CHOICE, log entry 171). -/
structure SineFit where
  amp : DWord
  conf : DWord
  rms : DWord
  deriving DecidableEq, Repr

/-- cos and sin of num / den turns. -/
def turn (num den : Nat) : DWord × DWord :=
  let x := 2 * fixPi * (num % den : Nat) / den
  (f64OfRat (fixCos x) (2 ^ 160), f64OfRat (fixSin x) (2 ^ 160))

def sineFit (num den : Nat) (wave : List (Nat × DWord)) : SineFit :=
  let pts := wave.map fun p => (turn (num * p.1) den, p.2)
  let dot := fun (f g : (DWord × DWord) × DWord → DWord) => sumF (pts.map fun p => f64Mul (f p) (g p))
  let c := fun (p : (DWord × DWord) × DWord) => p.1.1
  let d := fun (p : (DWord × DWord) × DWord) => p.1.2
  let y := fun (p : (DWord × DWord) × DWord) => p.2
  let cc := dot c c
  let dd := dot d d
  let cd := dot c d
  let det := f64Sub (f64Mul cc dd) (f64Mul cd cd)
  let a := f64Div (f64Sub (f64Mul dd (dot c y)) (f64Mul cd (dot d y))) det
  let b := f64Div (f64Sub (f64Mul cc (dot d y)) (f64Mul cd (dot c y))) det
  let amp := f64Sqrt (f64Add (f64Mul a a) (f64Mul b b))
  let rest := pts.map fun p => f64Sub (y p) (f64Add (f64Mul a (c p)) (f64Mul b (d p)))
  let ss := sumF (rest.map fun e => f64Mul e e)
  let spread := f64Sub (f64Add (f64Mul (f64Mul a a) dd) (f64Mul (f64Mul b b) cc)) (f64Mul (f64Mul f64Two (f64Mul a b)) cd)
  let var := f64Mul (f64Div ss (f64OfInt ((pts.length : Int) - 2))) (f64Div spread (f64Mul det (f64Mul amp amp)))
  { amp, conf := f64Sqrt var, rms := f64Sqrt (f64Div ss (f64OfInt pts.length)) }

/-- c_2 and c_3 from the histograms of a set of passes (R262): levels uniform over the span make the count of codes
below a bin's edge, over all, that edge's place in the transfer curve; a cubic is fitted by least squares to the mean
of the passes' curves over the edges within 0.9 of full scale, each term taken over the slope (DESIGN CHOICE, log
entry 172). Codes are in units of 15 / 2048 of 2^23, the width of a bin. -/
def cubicFit (bins : Tab Nat) (passes : List Nat) : DWord × DWord :=
  let count := fun (p n : Nat) => ((List.range n).map fun k => bins.get (p * 256 + k)).sum
  let totals := passes.map fun p => max 1 (count p 256)
  let all : Nat := totals.foldl (· * ·) 1
  let pts : List (Int × Int) := (List.range 231).map fun (i : Nat) =>
    ((i : Int) - 115, (((passes.zip totals).map fun q => count q.1 (13 + i) * (all / q.2)).sum : Nat))
  let mom := fun (k : Nat) => (pts.map fun q => q.1 ^ k).foldl (· + ·) (0 : Int)
  let dot := fun (k : Nat) => (pts.map fun q => q.1 ^ k * q.2).foldl (· + ·) (0 : Int)
  let even := mom 0 * mom 4 - mom 2 * mom 2
  let b1 := mom 6 * dot 1 - mom 4 * dot 3
  let b2 := mom 0 * dot 2 - mom 2 * dot 0
  let b3 := mom 2 * dot 3 - mom 4 * dot 1
  let odd := mom 2 * mom 6 - mom 4 * mom 4
  let ratio := fun (n : Int) (d : Int) => f64Div (f64OfRat n 1) (f64OfRat d 1)
  (ratio (b2 * odd * 2048) (b1 * even * 15), ratio (b3 * 2048 * 2048) (b1 * 225))

/-- What a run gives for one term of one part before it is judged: per-pair estimates, those of the shifted pairs, the
estimate, the confidence figure, the ratio of the measured reference to the one expected (1 where the run has none),
and the rms of the kept samples (R266). -/
structure RunStat where
  term : Nat
  pairs : List DWord
  shifted : List DWord
  est : DWord
  conf : DWord
  ref : DWord
  rms : DWord
  deriving DecidableEq, Repr

/-- Codes and fractions as ppm (R266); a linearity term as the part of full scale that it moves full scale by. -/
def ppmFS (x : DWord) : DWord := f64Div (f64Mul x (f64OfInt 1000000)) (f64OfInt 7864320)
def ppm (x : DWord) : DWord := f64Mul x (f64OfInt 1000000)
def linPpm (term : Nat) (x : DWord) : DWord := ppm (f64Mul x (if term = 2 then f64OfRat 15 16 else f64OfRat 225 256))

/-- The rms of the kept samples about the mean of their half or level, in codes. -/
def halvesRms (hs : List CalHalf) : DWord :=
  let ss := (hs.map fun h => ((h.sq : Int) * max 1 h.n - h.sum * h.sum, max 1 h.n)).foldl
    (fun a q => f64Add a (f64OfRat q.1 q.2)) 0
  f64Div (f64Sqrt (f64Div ss (f64OfInt (max 1 (hs.map (·.n)).sum : Nat)))) (f64OfInt 65536)

/-- A term of LINEARITY (R262): its estimates are those of the four passes. -/
def linStat (term : Nat) (p : CalPart) : RunStat :=
  let of := fun (ps : List Nat) => let c := cubicFit p.bins ps; if term = 2 then c.1 else c.2
  let each := [0, 1, 2, 3].map fun k => linPpm term (of [k])
  { term, pairs := each, shifted := [], est := of [0, 1, 2, 3], conf := stdErr each, ref := f64One
    rms := halvesRms p.halves.reverse }

/-- The estimates of a run for one channel, or for its source (R262, R266). -/
def State.runStats (s : State) (r : CalRun) (ch : Nat) : List RunStat :=
  let m := s.cfg.active
  let p := r.parts.get ch
  let halves := p.halves.reverse
  let rg := runRange m r.kind r.range r.anchor ch
  let term := fun (c g i : Nat) => s.runTerm (calKey c g) (podOf c) i
  let force := fun (i : Nat) => termAt (calKey ch rg) (entryOf s.cal.entries (calKey ch rg)).points
    (f64Of32 (s.cal.td.get (podOf ch)).value) i
  let linForce := linCode (force 0) (force 2) (force 3)
  let lin := fun (c g : Nat) (o : DWord) (hs : List CalHalf) => hs.map fun h => linCode o (term c g 2) (term c g 3) (halfMean h)
  let o := term ch rg 0
  let step := codeStep rg
  let refV := f64Of32 (m.calW 1)
  let rms := halvesRms halves
  if r.kind = 1 then
    let l := lin ch rg 0 halves
    let ps := pairUp halfSum l
    [{ term := 0, pairs := ps.map ppmFS, shifted := (pairUp halfSum (l.drop 1)).map ppmFS, est := meanF ps
       conf := ppmFS (stdErr ps), ref := f64One, rms }]
  else if r.kind = 2 then [linStat 2 p, linStat 3 p]
  else if r.kind = 3 ∧ m.refAc then
    let wave := p.wave.reverse.map fun q => (q.1, linCode o (term ch rg 2) (term ch rg 3) (f64OfRat q.2 65536))
    let num := m.refFreq * m.cycle (m.group ch)
    let den := 10 * m.count (m.group ch)
    let top := f64Mul (f64Sqrt f64Two) refV
    let gOf := fun (a : DWord) => f64Div top (f64Mul step a)
    let fit := sineFit num den wave
    let seen := sineFit num den (p.wave.reverse.map fun q => (q.1, linForce (f64OfRat q.2 65536)))
    let mid := r.count / 2
    [{ term := 1, shifted := [], est := gOf fit.amp, conf := ppm (f64Mul (gOf fit.amp) (f64Div fit.conf fit.amp))
       pairs := [wave.filter (fun q => decide (q.1 < mid)), wave.filter fun q => decide (mid ≤ q.1)].map fun w =>
         ppm (gOf (sineFit num den w).amp)
       ref := f64Div (f64Mul (force 1) (f64Mul step seen.amp)) top, rms := fit.rms }]
  else if r.kind = 3 then
    let l := lin ch rg o halves
    let gOf := fun (x : DWord) => f64Div refV (f64Mul step x)
    let ps := pairUp halfDiff l
    let sh := (pairUp halfDiff (l.drop 1)).map f64Neg
    let mean := meanF ps
    let seen := meanF (pairUp halfDiff (halves.map fun h => linForce (halfMean h)))
    [{ term := 1, pairs := ps.map fun x => ppm (gOf x), shifted := sh.map fun x => ppm (gOf x), est := gOf mean
       conf := ppm (stdErr (ps.map gOf)), ref := f64Div (f64Mul (force 1) (f64Mul step seen)) refV, rms }]
  else if r.kind = 4 then
    let a := r.anchor
    let ra := slotRange (m.slot a)
    let da := pairUp f64Sub (lin a ra (term a ra 0) (r.parts.get a).halves.reverse)
    let dt := pairUp f64Sub (lin ch rg o halves)
    let top := f64Mul (term a ra 1) (codeStep ra)
    let gOf := fun (x y : DWord) => f64Div (f64Mul top x) (f64Mul step y)
    let ps := (da.zip dt).map fun q => gOf q.1 q.2
    [{ term := 1, pairs := ps.map ppm, shifted := [], est := gOf (meanF da) (meanF dt), conf := ppm (stdErr ps), ref := f64One
       rms }]
  else
    let v := fun (x : DWord) => f64Mul (f64Mul (term ch rg 1) x) step
    let l := lin ch rg o halves
    let expect := if r.source ≤ 4 then f64Mul (f64Of32 (m.calW 2)) (f64OfRat (ixCode (m.ix r.pod r.source)) 2000000)
      else f64OfRat (fld (m.vx r.pod (r.source - 8)) 15 0 : Nat) 1000
    let ps := (pairUp halfDiff l).map fun x => f64Div (v x) expect
    let sh := (pairUp halfDiff (l.drop 1)).map fun x => f64Div (v (f64Neg x)) expect
    [{ term := 0, pairs := ps.map ppm, shifted := sh.map ppm, est := meanF ps, conf := ppm (stdErr ps), ref := meanF ps, rms }]

/-- The slope of the estimates times the run's length, and how the halves of a run differ (R266, tests 6 and 7). -/
def RunStat.trend (x : RunStat) : DWord := f64Abs (trendF x.pairs)
def RunStat.halves (x : RunStat) : DWord :=
  let h := x.pairs.length / 2
  if x.shifted.isEmpty then f64Abs (f64Sub (meanF (x.pairs.take h)) (meanF (x.pairs.drop h)))
  else f64Abs (f64Sub (meanF x.pairs) (meanF x.shifted))

/-- How far the die temperatures of a pod spread over a run. -/
def RunTemps.span (x : RunTemps) : DWord := f64Sub x.hi x.lo

/-- The values of tests 1 to 7 of R266 for a part, of its first term where it has two, and the reason of the first of
all ten tests that a term fails. -/
def State.judge (s : State) (r : CalRun) (p : CalPart) (xs : List RunStat) : List DWord × Nat :=
  let m := s.cfg.active
  let used := (p.halves.map (·.n)).sum
  let kept := (p.halves.map (·.kept)).sum
  let x := xs.headD { term := 0, pairs := [], shifted := [], est := 0, conf := 0, ref := f64One, rms := 0 }
  let v1 := f64OfRat (100 * used : Nat) (max 1 kept)
  let here := (r.temps.get r.pod).span
  let there := (r.temps.get (podOf r.anchor)).span
  let v2 := if 4 ≤ r.kind ∧ f64Lt here there then there else here
  let v3 := f64Abs (f64Sub x.ref f64One)
  let inner := (List.range 230).map fun i => ([0, 1, 2, 3].map fun k => p.bins.get (k * 256 + 13 + i)).sum
  let v4 := f64OfRat (100 * (inner.filter fun b => decide (16 ≤ b)).length : Nat) 230
  let tenth := fun (w : Word) (hi lo : Nat) => f64OfRat (fld w hi lo : Nat) 10
  let acc := if r.kind = 1 ∨ r.kind = 2 then tenth (m.calW 5) 31 16 else tenth (m.calW 5) 15 0
  let trendK := tenth (m.calW 6) 23 16
  let chopK := f64Mul (tenth (m.calW 6) 31 24) (f64Sqrt f64Two)
  let fails : List (Bool × Nat) :=
    [(f64Lt v1 (f64OfInt (fld (m.calW 6) 7 0)), 0x0606),
     (f64Lt (f64OfRat (fld (m.calW 4) 15 0 : Nat) 100) v2, 0x0609),
     (decide (r.kind = 3 ∨ r.kind = 5) && f64Lt (f64OfRat 5 100) v3, 0x060A),
     (r.kind == 2 && f64Lt v4 (f64OfInt (fld (m.calW 6) 15 8)), 0x0607),
     (f64Lt (f64OfInt (fld (m.calW 4) 31 16)) x.rms, 0x0601),
     (xs.any fun y => f64Lt (f64Mul trendK y.conf) y.trend, 0x0602),
     (xs.any fun y => f64Lt (f64Mul chopK y.conf) y.halves, 0x0605),
     (xs.any fun y => f64Lt acc y.conf, 0x0608),
     (r.kind == 1 && f64Lt (f64OfInt 78643) (f64Abs x.est), 0x0603),
     ((decide (3 ≤ r.kind) && (f64Lt x.est (f64OfRat 99 100) || f64Lt (f64OfRat 101 100) x.est))
       || (r.kind == 2 && xs.any fun y => f64Lt (f64OfRat 1 1000) (f64Abs y.est)), 0x0604)]
  ([v1, v2, v3, v4, x.rms, x.trend, x.halves], ((fails.find? (·.1)).map (·.2)).getD 0)

/-- The mean die temperature of a pod over a run (R267); T_d where no round fell into it. -/
def State.runTemp (s : State) (r : CalRun) : DWord :=
  let x := r.temps.get r.pod
  if x.n = 0 then f64Of32 (s.cal.td.get r.pod).value else f64Div x.sum (f64OfInt x.n)

/-- One part of a run is judged and, if accepted, enters the pending set (R266, R267); rejections for implausible
corrections in a row are counted per channel (R459). -/
def judgePart (r : CalRun) (acc : Bytes × State) (ch : Nat) : Bytes × State :=
  let (out, s) := acc
  let p := r.parts.get ch
  let xs := s.runStats r ch
  let (vals, reason) := s.judge r p xs
  let key := if r.kind = 5 then srcKey r.pod r.source else calKey ch (runRange s.cfg.active r.kind r.range r.anchor ch)
  let temp := s.runTemp r
  let results : List CalResult := xs.map fun x =>
    { key, term := x.term, value := x.est, conf := x.conf, temp, beat := s.clk.beat, modulator := s.serving key }
  let bytes := beBytes 1 (if r.kind = 5 then r.source else ch % 16) ++ beBytes 1 (if reason = 0 then 0 else 1) ++ beBytes 2 reason
    ++ (xs.head?.map fun x => beWord (f32Of64 x.est) ++ beWord (f32Of64 x.conf)).getD (zeros 8) ++ beWord (f32Of64 temp)
    ++ beBytes 4 (p.halves.map (·.n)).sum ++ vals.flatMap fun v => beWord (f32Of64 v)
  let bad := reason == 0x0603 || reason == 0x0604
  let pending := if reason = 0 then s.cal.pending.upd r.pod fun l => l ++ results else s.cal.pending
  let rejects := if r.kind = 5 then s.cal.rejects else s.cal.rejects.upd ch fun n => if bad then inc16 n else 0
  let s := { s with cal := { s.cal with pending, rejects } }
  (out ++ bytes, if r.kind ≠ 5 ∧ 2 ≤ rejects.get ch then partWorn 0 r.pod ch s else s)

/-- The parts of a run that it reports on, in order (R274): its slots, or the anchor that measures its source. -/
def CalRun.judged (r : CalRun) : List Nat := if r.kind = 5 then [r.anchor] else maskChans r.pod r.mask

/-- CAL_RUN_DONE (R262, R263, R266, R267): COUNT samples of every slot have come, and the recoveries after the return
are complete; husks are the registers and terms in force that failed as the estimates used them (R399). -/
def execCalRunDone (t job : Nat) (husks : List Nat) (s : State) : Host.Outcome State Fault Refusal :=
  act t s fun s =>
    match s.jobWork job with
    | some (.calRun r) =>
      if r.returned && s.recovered r.chans then
        let (out, s) := r.judged.foldl (judgePart r) ([], usedHusks husks s)
        testEnd job 1 0 out s
      else s
    | _ => s

/-! ### Commit, discard, read -/

/-- A calibration copy is written to a slot (R269). -/
def putCalCopy (toB : Bool) (c : CalCopy) (s : State) : State :=
  let (k, s) := nextFree s
  let writes := slotWrite k 16 s.clk.loom toB (if toB then s.cal.copyB else s.cal.copyA) s.cal.writes
  { s with cal := if toB then { s.cal with copyB := c, writes } else { s.cal with copyA := c, writes } }

/-- Write a calibration copy by the procedure of R69 (R269). -/
def persistCal (es : Tab CalEntry) (seq source : Nat) (s : State) : Bool × State :=
  let (k, s) := nextFree s
  let both := s.cal.rejected || (!s.cal.copyA.valid && !s.cal.copyB.valid)
  let toB := !both && !s.cal.inB
  let c : CalCopy := { valid := true, seq, entries := es }
  if Config.emramWrite k then
    let s := if both then putCalCopy true c (putCalCopy false c s) else putCalCopy toB c s
    (true, setAlarm 12 false false 0xFFFF 0x0406 { s with cal := { s.cal with inB := toB, rejected := s.cal.rejected && !both } })
  else (false, setAlarm 12 true false 0xFFFF 0x0406 (logEvent 0x0406 source (256 + b2n toB) (sectorWorn s)))

/-- Pods with pending results. -/
def State.pendingPods (s : State) : List Nat := (List.range 16).filter fun p => !(s.cal.pending.get p).isEmpty

/-- A calibration commit waits for its beat. -/
def State.calStaged (s : State) : Bool :=
  s.cfg.staged.any fun c => match c.change with
    | .calSet _ => true
    | _ => false

/-- States in which CAL_COMMIT and CAL_DISCARD are legal (R275). -/
def stReadyService : HubState → Bool
  | .ready | .service => true
  | _ => false

/-- CAL_COMMIT (R268, R269, R275). -/
def execCalCommit (t : Nat) (rq : Req) (s : State) : Host.Outcome State Fault Refusal :=
  runCmd { code := 0x0702, legal := stReadyService, standbyNo := true, len := lenIs 0 }
    (fun rq s =>
      if s.pendingMove.isSome then (.no 0x0107, s)
      else if s.calStaged then (.no 0x0108, s)
      else
        let pods := s.pendingPods
        if pods.isEmpty then (.done (beBytes 8 s.clk.beat ++ beBytes 4 s.cal.seq), s)
        else
          let rs := pods.flatMap s.cal.pending.get
          let seq := next32 s.cal.seq
          let es := applyResults s.serving s.cfg.active.pointTol rs s.cal.entries
          let s := { s with cal := { s.cal with committed := rs, pending := [], seq, seqPast := (s.clk.loom, s.cal.seq) :: s.cal.seqPast, ownCopy := true } }
          let (ok, s) := persistCal es seq 0x0702 s
          let s' := stage (.calSet pods) rq s
          ((if ok then .staged s.due (beBytes 4 seq) else .stagedReason 0x0406 s.due (beBytes 4 seq)), s')) t rq s

/-- CAL_DISCARD (R268, R274, R275). -/
def execCalDiscard (t : Nat) (rq : Req) (s : State) : Host.Outcome State Fault Refusal :=
  runCmd { code := 0x0703, legal := stReadyService, standbyNo := true, len := lenIs 0 }
    (fun _ s =>
      (.done (beBytes 2 (s.pendingPods.map fun p => (s.cal.pending.get p).length).sum),
        { s with cal := { s.cal with pending := [] } })) t rq s

/-- An entry of a pod's slots or sources is stale (R271, R274). -/
def State.staleIn (s : State) (pod : Nat) : Bool :=
  s.cal.entries.any fun e => e.2.stale && (if 65536 ≤ e.1 then (e.1 - 65536) / 16 == pod else e.1 / 128 == pod)

/-- CAL_STATUS (R274). -/
def execCalStatus (t : Nat) (rq : Req) (s : State) : Host.Outcome State Fault Refusal :=
  runCmd { code := 0x0700, legal := stRead, standbyNo := false, len := lenIs 0 }
    (reading fun _ s =>
      let c := s.cal
      let one := fun (pod : Nat) =>
        let td := c.td.get pod
        beWord td.value ++ beBytes 8 td.beat ++ beBytes 2 (c.pending.get pod).length
          ++ beBytes 1 (2 * b2n (s.staleIn pod) + b2n (s.beyondTol pod)) ++ zeros 1
      .done (beBytes 4 c.seq ++ beBytes 4 c.copyA.seq ++ beBytes 4 c.copyB.seq
        ++ beBytes 1 (4 * b2n (!c.ownCopy) + 2 * b2n c.copyB.valid + b2n c.copyA.valid) ++ zeros 3
        ++ (List.range 16).flatMap one)) t rq s

/-- An entry as CAL_READ gives it (R274). -/
def entryBytes (e : CalEntry) : Bytes :=
  let ps := e.points.take 8
  let one := fun (p : CalPoint) =>
    beWord (f32Of64 p.temp) ++ (List.range 4).flatMap (fun i => beWord (f32Of64 (p.term i)))
      ++ (List.range 4).flatMap (fun i => beWord (f32Of64 (p.confs.getD i 0))) ++ beBytes 8 (p.beats.foldl max 0)
  beBytes 1 ps.length ++ beBytes 1 (b2n e.stale) ++ beBytes 2 e.modulator ++ ps.flatMap one

/-- CAL_READ (R274). -/
def execCalRead (t : Nat) (rq : Req) (s : State) : Host.Outcome State Fault Refusal :=
  runCmd { code := 0x0704, legal := stRead, standbyNo := false, len := lenIs 4 }
    (reading fun rq s =>
      let a := beAt rq.payload 0 2
      let range := beAt rq.payload 2 1
      let set := beAt rq.payload 3 1
      let isSrc := decide (0xFF00 ≤ a)
      let src := a % 16
      let pod := if isSrc then a % 256 / 16 else a / 16
      if (!isSrc && decide (255 < a)) || (isSrc && !(decide (src ≤ 4) || src == 8 || src == 9)) then .noAt 0x0306 a
      else if !isSrc && decide (4 < range) then .noAt 0x0306 range
      else if set > 2 then .no 0x0301
      else
        let key := if isSrc then srcKey pod src else calKey a range
        let e := if set = 0 then entryOf s.cal.entries key
          else if set = 1 then
            entryOf (applyResults s.serving s.cfg.force.pointTol ((s.cal.pending.get pod).filter fun r => r.key == key) s.cal.entries) key
          else factoryEntry key
        .done (entryBytes e)) t rq s

end Sys2Proof.Machine
end

