-- ==== Sys2Proof/Machine/Frames.lean ====
section
/-! DEFINITION. Weft frames and the retention pool: headers and bodies (R345 to R351), retention, fill and release
(R357, R359, R360, R381), and the record-store allocations (R306, R357). -/

namespace Sys2Proof.Machine

open Sys2Proof

/-! ### Allocations of the record store -/

/-- History of a bobbin in samples (R287). -/
def PMem.historyLen (m : PMem) (b : Nat) : Nat :=
  let g := m.bobGroup b
  (m.bob b 1).toNat + ceilDiv (fld (m.bob b 5) 15 0 * m.count g) (m.cycle g * 1000000)

/-- Number of taps that a TAP field names. -/
def tapCount (tap : Nat) : Nat := if tap = 3 then 2 else 1

/-- A bobbin's history and slots in bytes (R306). -/
def PMem.bobBytes (m : PMem) (b : Nat) : Nat :=
  let n := (m.bobChans b).length
  let per := n * 5 * tapCount (m.bobTap b)
  let slot := 128 + n * (4 + 4 * (m.measCodes b).length) + 1024 + ((m.bob b 1).toNat + (m.bob b 2).toNat) * per
  m.historyLen b * per + fld (m.bob b 0) 15 0 * (ceilDiv slot 64 * 64)

/-- Bytes of the record store that the consistency checks count (R191, R305, R333, R357). -/
def PMem.storeAlloc (m : PMem) : Nat :=
  (m.chansOn.map (holdBytes m)).sum + (((List.range 8).filter m.bobEn).map m.bobBytes).sum
    + (((List.range 16).filter m.tableEn).map fun k => m.tableSize k * 4).sum + 2 ^ 20

/-- The retention pool in bytes (R357). -/
def State.poolSize (s : State) : Nat := 2 ^ 26 - s.cfg.active.storeAlloc

/-! ### Bytes -/

/-- A fill sample (R405): a standby's carries SUBST too (R432). -/
def State.fillSample (s : State) (grid : Nat) : Sample :=
  { t := grid, raw := 0, eng := 0x7FC00003#32
    flags := BitVec.ofNat 8 (fUNS + fSTEP + if s.hub.role = .standby then fSUBST else 0) }

/-- The sample of a channel at a grid instant among those collected. -/
def sampleOf (l : List (Nat × Sample)) (ch grid : Nat) : Option Sample :=
  (l.find? fun x => x.1 == ch && x.2.t == grid).map (·.2)

/-- The value word of a tap: raw 0, engineering 1. -/
def Sample.tap (x : Sample) (eng : Bool) : Word := if eng then x.eng else x.raw

/-- Value blocks per channel, then the flags lane (R349). -/
def tapBody (eng : Bool) (rows : List (List Sample)) : Bytes :=
  (rows.flatMap fun r => r.flatMap fun x => beWord (x.tap eng)) ++ (rows.flatMap fun r => r.map (·.flags))

/-- A frame as it leaves (R349, R350, R372): header, with RETX on a retransmission, encoded body and trailer. -/
def WFrame.wire (f : WFrame) (retx : Bool) : Bytes :=
  let h := if retx then f.header.take 28 ++ ((f.header.drop 28).take 1).map (· ||| 0x20#8) ++ f.header.drop 29 else f.header
  let b := h ++ f.sent
  b ++ beWord (crc32c b)

/-- Bytes that a frame occupies while retained (R359, R372). -/
def WFrame.size (f : WFrame) : Nat := 36 + (if f.stage = 2 then f.sent.length else f.body.length)

/-! ### The pool -/

/-- The transmission is over at the end of which a frame is released (R358, R360). -/
def WFrame.over (f : WFrame) (now : Nat) : Bool := f.goneAt.any fun e => decide (e ≤ now)

/-- Bytes retained in stream frames (R359), and those of the frames that stay so (R360). -/
def State.retained (s : State) : Nat :=
  ((s.weft.pool.filter fun f => decide (f.flow < 16) && !(f.over s.clk.loom)).map (·.size)).sum
def State.kept (s : State) : Nat := ((s.weft.pool.filter fun f => decide (f.flow < 16) && f.goneAt.isNone).map (·.size)).sum

/-- Fill in 0.01 % (R359, R368). -/
def State.fill (s : State) : Nat := s.retained * 10000 / max 1 s.poolSize

/-- Alarms 0 and 1 follow the fill (R359, R360), and the highest fill is kept. -/
def fillAlarms (s : State) : State :=
  let f := s.fill
  let s := { s with weft := { s.weft with highFill := max s.weft.highFill f } }
  let s := if s.retained * 10 ≥ s.poolSize * 9 then setAlarm 0 true true 0xFFFF 0 s
    else if s.retained * 100 < s.poolSize * 85 then setAlarm 0 false true 0xFFFF 0 s else s
  if s.retained * 10 < s.poolSize * 9 then setAlarm 1 false true 0xFFFF 0 s else s

/-- The end of the transmissions in which a data frame is on the wire. -/
def State.wireEnd (s : State) (f : WFrame) : Option Nat :=
  (List.range 2).foldl (fun (e : Option Nat) p =>
    let h := s.weft.ports.get p
    if h.onWire = some (f.flow, f.seq) ∧ s.clk.loom < h.busyUntil then some (max (e.getD 0) h.busyUntil) else e) none

/-- Retained frames leave the pool; one that is on the wire does when its transmission ends, and is not sent again
(R358, R360). -/
def dropFrames (sel : WFrame → Bool) (s : State) : State :=
  let one := fun (f : WFrame) =>
    if sel f = false then some f
    else (s.wireEnd f).map fun e => { f with goneAt := some (f.goneAt.getD e), due := [], again := [] }
  { s with weft := { s.weft with pool := s.weft.pool.filterMap one } }

/-- The frames whose last transmission is over leave the pool (R358, R360). -/
def sweepWire (s : State) : State :=
  if (s.weft.pool.any fun f => f.over s.clk.loom) = true then
    fillAlarms { s with weft := { s.weft with pool := s.weft.pool.filter fun f => !(f.over s.clk.loom) } }
  else s

/-- Consecutive members of a list, in runs of those that a test picks. -/
def runsOf {α : Type} (p : α → Bool) : List α → List (List α)
  | [] => []
  | x :: r =>
    if p x then
      match r, runsOf p r with
      | y :: _, run :: more => if p y then (x :: run) :: more else [x] :: run :: more
      | _, rs => [x] :: rs
    else runsOf p r

/-- A gap notice for frames of a flow, and its count (R353, R360, R368). -/
def raiseGap (sec flow first seq last instants : Nat) (s : State) : State :=
  addNotice { typ := 5, b1 := sec, b23 := flow, loom := first
              tail := beBytes 4 seq ++ beBytes 4 last ++ beBytes 4 instants }
    { s with weft := { s.weft with gapNotices := inc32 s.weft.gapNotices } }

/-- The gap notice of a run of released frames (R353, R360). -/
def gapNotice (run : List WFrame) (s : State) : State :=
  match run with
  | [] => s
  | f :: _ => raiseGap f.sec f.flow f.first f.seq (run.getLastD f).seq (run.map (·.count)).sum s

/-- Change a stream's counters. -/
def streamUpd (k : Nat) (f : Stream → Stream) (s : State) : State :=
  { s with weft := { s.weft with streams := s.weft.streams.upd k f } }

/-- Release retained stream frames (R360, R381, R404, R433): each run of a section gets a gap notice, which a standby
keeps for a later take-over; Winnow drops those it holds. -/
def releaseFrames (sel : WFrame → Bool) (s : State) : State :=
  let out := s.weft.pool.filter fun f => decide (f.flow < 16) && f.goneAt.isNone && sel f
  if out.isEmpty then s
  else
    let now := s.clk.loom
    let keys := (List.range 128).filter fun k => out.any fun f => f.flow == k / 8 && f.sec == k % 8
    let runs := keys.flatMap fun k =>
      runsOf sel (s.weft.pool.filter fun f => f.flow == k / 8 && f.sec == k % 8)
    let gone := fun (fl q : Nat) => out.any fun f => f.flow == fl && f.seq == q
    let dropCur := match s.win.current with
      | some c => gone c.1 c.2.1
      | none => false
    let win := { s.win with
      queue := s.win.queue.filter fun x => !(gone x.1 x.2)
      current := if dropCur then none else s.win.current
      stalled := s.win.stalled && !dropCur
      acc := if dropCur then [] else s.win.acc, outQueue := if dropCur then [] else s.win.outQueue
      counters := if dropCur then s.win.counters.upd 7 inc32 else s.win.counters }
    let s := dropFrames (fun f => decide (f.flow < 16) && sel f) { s with
      win, weft := { s.weft with releases := sat32 (s.weft.releases + out.length), lastRelease := now } }
    let s := out.foldl (fun s f => streamUpd f.flow (fun x => { x with released := inc32 x.released }) s) s
    if s.hub.role = .standby then
      { s with pair := { s.pair with
        released := s.pair.released ++ out.map fun f => (f.flow, f.sec, f.seq, f.first, f.count) } }
    else runs.foldl (fun s r => gapNotice r s) s

/-- The frames to release, the oldest first grid instant first, until a number of bytes is freed (R360). -/
def oldestFrames : Nat → Nat → List WFrame → List (Nat × Nat)
  | 0, _, _ => []
  | fuel + 1, need, l =>
    if need = 0 then []
    else
      match l with
      | [] => []
      | x :: r =>
        let o := r.foldl (fun (b : WFrame) f => if f.first < b.first then f else b) x
        (o.flow, o.seq) :: oldestFrames fuel (need - o.size) (l.filter fun f => !(f.flow == o.flow && f.seq == o.seq))

/-- Store pressure before a frame of a size is retained (R360). -/
def makeRoom (size : Nat) (s : State) : State :=
  let have_ := s.kept + size
  if have_ ≤ s.poolSize then s
  else
    let l := s.weft.pool.filter fun f => decide (f.flow < 16) && f.goneAt.isNone
    let sel := oldestFrames l.length (have_ - s.poolSize * 98 / 100) l
    setAlarm 1 true true 0xFFFF 0 (releaseFrames (fun f => sel.contains (f.flow, f.seq)) s)

/-- The backlog of Winnow (R379): uncompressed body bytes of the frames that wait, and of the one being encoded. -/
def State.backlog (s : State) : Nat :=
  let held := fun (f : WFrame) => s.win.queue.contains (f.flow, f.seq) || (match s.win.current with
    | some c => f.flow == c.1 && f.seq == c.2.1
    | none => false)
  ((s.weft.pool.filter held).map (·.body.length)).sum

/-- The highest backlog since the last read is kept (R390). -/
def keepHigh (s : State) : State := { s with win := { s.win with high := max s.win.high s.backlog } }

/-- Retain a closed frame, and hand it to Winnow where it is compressed (R357, R371, R379). -/
def retain (f : WFrame) (s : State) : State :=
  let s := sweepWire s
  let s := if f.flow < 16 then makeRoom f.size s else s
  let s := { s with weft := { s.weft with pool := s.weft.pool ++ [f] } }
  let s := if f.stage = 0 then keepHigh { s with win := { s.win with queue := s.win.queue ++ [(f.flow, f.seq)] } } else s
  fillAlarms s

/-- Change a retained frame. -/
def frameUpd (flow seq : Nat) (g : WFrame → WFrame) (s : State) : State :=
  { s with weft := { s.weft with pool := s.weft.pool.map fun f => if f.flow = flow ∧ f.seq = seq then g f else f } }

/-! ### Streams -/

/-- A stream's definition (R345): its block, and CYCLE, COUNT and EN of its rate group. -/
def PMem.streamDef (m : PMem) (k : Nat) : List Word :=
  (List.range 11).map (m.streamW k) ++ [m.word 0x0400 (2 * m.streamGroup k), m.word 0x0400 (2 * m.streamGroup k + 1)]

/-- A bobbin's definition (R351): its block, and CYCLE, COUNT and EN of its rate group. -/
def PMem.bobDef (m : PMem) (b : Nat) : List Word :=
  (List.range 18).map (m.bob b) ++ [m.word 0x0400 (2 * m.bobGroup b), m.word 0x0400 (2 * m.bobGroup b + 1)]

/-- The definition in force at an instant, named by the boundary that brought it (R345, R346, R351). -/
def defFrom (changes : List Nat) (t : Nat) : Nat := (changes.find? (· ≤ t)).getD 0

/-- Streams were delivered at a loom time (R56, R57, R347). -/
def State.deliversAt (s : State) (grid : Nat) : Bool := pastAt s.hub.delivPast s.hub.delivering grid

/-- Streams start or stop being delivered at a loom time. -/
def setDelivering (on : Bool) (at_ : Nat) (s : State) : State :=
  if s.hub.delivering = on then s
  else { s with hub := { s.hub with
    delivering := on, delivPast := prunePast s.clk.loom ((at_, s.hub.delivering) :: s.hub.delivPast) } }

/-- A sample joins the open frames of the streams that carry its channel (R344, R345). -/
def feedStreams (m : PMem) (ch : Nat) (x : Sample) (s : State) : State :=
  if s.deliversAt x.t then
    let add := fun (o : OpenFrame) =>
      if o.closedTo < x.t then
        { o with instants := setMem o.instants x.t true, samples := o.samples ++ [(ch, x)] }
      else o
    let put := fun (t : Tab OpenFrame) (k : Nat) =>
      if m.streamEn k && m.streamHas k ch && m.group ch == m.streamGroup k then t.upd (k * 8 + ch / 32) add else t
    { s with weft := { s.weft with opened := (List.range 16).foldl put s.weft.opened } }
  else s

/-- The largest look-ahead of some channels, in modulator clocks. -/
def PMem.lookMax (m : PMem) (chs : List Nat) : Nat := (chs.map m.lookL).foldl max 0

/-- Every sample of a grid instant has been formed where the channels are these (R160). -/
def State.formedAll (s : State) (m : PMem) (chs : List Nat) (grid : Nat) : Bool :=
  let late := (chs.map fun ch => (s.chan ch).shift grid).foldl max 0
  decide (fineOf grid + late + clockFine (m.lookMax chs) ≤ fineOf s.clk.loom)

/-- A frame of a stream may not run on past a grid instant (R345): the next instant of the group is not the next of
the frame, or loom time stepped back there, or the next stands under another definition, or the hub has left RUN,
SERVICE or FAULT before it, or no stream is delivered there. -/
def State.breaksAfter (s : State) (k sec g : Nat) (next : Option Nat) : Bool :=
  let m := s.cfgAt g
  let y := m.gridAt (m.streamGroup k) (g + 1)
  let m' := s.cfgAt y
  (s.weft.opened.get (k * 8 + sec)).breaks.contains g
    || decide (y ≤ s.clk.loom) && (decide (m'.streamDef k ≠ m.streamDef k) || !(s.deliversAt y))
    || s.hub.left.any (fun x => decide (g < x ∧ x ≤ y))
    || (match next with
      | some n => decide (n ≠ y)
      | none => false)

/-- The instants of the front frame of a section, and whether it is broken off after them. -/
def State.frontRun (s : State) (k sec : Nat) : Nat → List Nat → List Nat × Bool
  | 0, _ => ([], false)
  | _, [] => ([], false)
  | n + 1, g :: r =>
    if s.breaksAfter k sec g r.head? then ([g], true)
    else
      let (l, b) := s.frontRun k sec n r
      (g :: l, b)

/-- The frame of a section closes over some instants (R345, R346, R348, R349). -/
def closeFrame (k sec : Nat) (run : List Nat) (s : State) : State :=
  match run with
  | [] => s
  | first :: _ =>
    let last := run.getLastD first
    let m := s.cfgAt last
    let o := s.weft.opened.get (k * 8 + sec)
    let st := s.weft.streams.get k
    let df := defFrom st.changes last
    let rows := (m.secChans k sec).map fun ch => run.map fun g => (sampleOf o.samples ch g).getD (s.fillSample g)
    let w := m.streamW k 0
    let compress := bitAt w 27
    let seq := st.nextSeq
    let g := m.streamGroup k
    let body := tapBody (bitAt w 30) rows
    let header := weftHeader (if bitAt w 30 then 2 else 1) s.weftHub k seq first (m.cycle g * 2 ^ 30 + m.count g)
      (m.streamMask k sec).toNat (128 * b2n compress + (if st.firstOf = some df then 0 else 64)) sec run.length
    let z := s.cfg.active.word 0x0B00 (2 + k)
    let s := streamUpd k (fun x => { x with nextSeq := next32 seq, firstOf := some df, changes := x.changes.filter (df ≤ ·) }) s
    let s := { s with weft := { s.weft with opened := s.weft.opened.set (k * 8 + sec) { o with
      instants := o.instants.filter (last < ·), samples := o.samples.filter (last < ·.2.t), closedTo := last
      breaks := o.breaks.filter (last < ·) } } }
    retain { flow := k, seq, sec, first, count := run.length, header, body, sent := if compress then [] else body
             stage := if compress then 0 else 2, compress, effort := fld z 2 0, huff := fld z 5 4
             due := m.streamPorts k, left := false, recordNo := 0, again := [] } s

/-- The front frame of a section closes if it is whole or broken off, every sample of it has been formed, and the lower
sections have closed that far (R345). -/
def closeFront (k sec : Nat) (s : State) : State :=
  match (s.weft.opened.get (k * 8 + sec)).instants with
  | [] => s
  | g :: r =>
    let m := s.cfgAt g
    let (run, broken) := s.frontRun k sec (m.frameSamples k) (g :: r)
    let last := run.getLastD g
    let lower := (List.range sec).all fun i =>
      (m.secChans k i).isEmpty || decide (last ≤ (s.weft.opened.get (k * 8 + i)).closedTo)
    if (broken || run.length == m.frameSamples k) && lower && s.formedAll m (m.secChans k sec) last then
      closeFrame k sec run s
    else s

/-- FRAME_CLOSE (R345). -/
def execFrameClose (t stream sec : Nat) (s : State) : Host.Outcome State Fault Refusal :=
  act t s fun s => if stream < 16 ∧ sec < 8 then closeFront stream sec s else s

end Sys2Proof.Machine
end

