-- ==== Sys2Proof/Machine/Treadle.lean ====
section
/-! DEFINITION. The Treadle (R276 to R293, R311): comparators, pins, sequencers, their actions and commands; how a
record starts (R294 to R299). -/

namespace Sys2Proof.Machine

open Sys2Proof

def compUpd (c : Nat) (f : Comp → Comp) (s : State) : State :=
  { s with trd := { s.trd with comps := s.trd.comps.upd c f } }
def tioUpd (p : Nat) (f : Tio → Tio) (s : State) : State :=
  { s with trd := { s.trd with tios := s.trd.tios.upd p f } }
def seqUpd (q : Nat) (f : Seqr → Seqr) (s : State) : State :=
  { s with trd := { s.trd with seqs := s.trd.seqs.upd q f } }
def bobUpd (b : Nat) (f : Bobbin → Bobbin) (s : State) : State :=
  { s with trd := { s.trd with bobs := s.trd.bobs.upd b f } }

/-! ### Counters' sources -/

/-- Source events dated at a loom time count for the armed sequencers whose counters name one of these sources (R282,
R283). -/
def dateEvent (srcs : List Nat) (at_ : Nat) (s : State) : State :=
  let add := fun (t : Tab Seqr) (q : Nat) =>
    t.upd q fun x =>
      if x.armed && decide (x.armedAt ≤ at_) then
        { x with dated := x.dated ++ ((List.range 4).filter fun k => srcs.contains (s.cfg.active.cntSrc q k)).map (·, at_) }
      else x
  { s with trd := { s.trd with seqs := (List.range 4).foldl add s.trd.seqs } }

/-! ### Comparators -/

/-- Fields of a comparator word (R307). -/
def compEn (w : Word) : Bool := bitAt w 31
def compKind (w : Word) : Nat := fld w 30 28
def compEng (w : Word) : Bool := bitAt w 27
def compCh (w : Word) : Nat := fld w 7 0

/-- The number that a comparator compares: a raw value as its integer code, an engineering value as it is (R278). -/
def compValue (w : Word) (x : Sample) : FVal :=
  if compEng w then f32v x.eng
  else
    let i := x.raw.toInt
    .fin (decide (i < 0)) i.natAbs 0

/-- The result of R278 and R279 for a sample: v the value, p the previous sample's where it counts. -/
def compResult (kind : Nat) (lo hi hyst v : FVal) (p : Option FVal) (before : Bool) : Bool :=
  if fIsNan v then false
  else if kind = 0 then (if fLt hi v then true else if fLt v (fAddVal hi (fNegVal hyst)) then false else before)
  else if kind = 1 then (if fLt v lo then true else if fLt (fAddVal lo hyst) v then false else before)
  else if kind = 2 then fLe lo v && fLe v hi
  else if kind = 3 then fLt v lo || fLt hi v
  else
    match p with
    | none => false
    | some u => if kind = 4 then fLt hi (fAddVal v (fNegVal u)) else if kind = 5 then fLt hi (fAddVal u (fNegVal v)) else false

/-- A change takes its place among those of a comparator by its grid instant (R280). -/
def placeChange (grid : Nat) (now : Bool) (h : List (Nat × Bool)) : List (Nat × Bool) :=
  (h.takeWhile fun e => decide (grid < e.1)) ++ (grid, now) :: h.dropWhile fun e => decide (grid < e.1)

/-- The result of a comparator changes, or stays, at a sample's grid instant (R280): an onset counts for R283. A
sample of a channel that the comparator watched before may come after later ones of its channel now. -/
def putResult (c : Nat) (now : Bool) (grid : Nat) (s : State) : State :=
  let before := fun (h : List (Nat × Bool)) => ((h.find? fun e => decide (e.1 ≤ grid)).map (·.2)).getD false
  if before (s.trd.comps.get c).history = now then s
  else
    let s := compUpd c (fun x =>
      let h := placeChange grid now x.history
      { x with
        result := (h.head?.map (·.2)).getD false, lastChange := (h.head?.map (·.1)).getD 0, history := h
        onsets := if now then inc16 x.onsets else x.onsets }) s
    if now then dateEvent [0x40 + c] grid s else s

/-- The row of a comparator that a sample belongs to (R279): it began at the latest boundary at or before it that
ended a row. -/
def Comp.rowAt (k : Comp) (t : Nat) : CompRow :=
  let from_ := (k.offs.filter fun b => decide (b ≤ t)).foldl max 0
  (k.rows.find? fun r => r.from_ == from_).getD { from_ }

/-- One comparator meets a sample of a channel (R278 to R280). -/
def feedComp (m : PMem) (ch : Nat) (x : Sample) (s : State) (c : Nat) : State :=
  let w := m.comp c 0
  let k := s.trd.comps.get c
  if compEn w && compCh w == ch then
    let row := k.rowAt x.t
    let newest := k.rows.all fun r => decide (r.from_ ≤ row.from_)
    let bad := fun (y : Sample) => fIsNan (compValue w y) || (y.flags.toNat &&& fld w 15 8) != 0
    let p := (row.prev.filter fun y => !(bad y)).map (compValue w)
    let r := !(bad x)
      && compResult (compKind w) (f32v (m.comp c 1)) (f32v (m.comp c 2)) (f32v (m.comp c 3)) (compValue w x) p row.result
    compUpd c (fun y => { y with
      word := if newest then w else y.word
      rows := ({ row with result := r, prev := some x } :: y.rows.filter fun z => z.from_ != row.from_).take 64
      offs := y.offs.take 64
      lastValue := if !newest then y.lastValue else if compEng w then x.eng else f32OfRat x.raw.toInt 1 }) (putResult c r x.t s)
  else if !(compEn w) && compEn k.word && compCh k.word == ch then
    compUpd c (fun y => { y with word := 0 }) (putResult c false x.t s)
  else s

/-- Every comparator meets a sample (R278), whatever the hub state and role that samples are formed in (R432). -/
def feedComps (m : PMem) (ch : Nat) (x : Sample) (s : State) : State := (List.range 32).foldl (feedComp m ch x) s

/-- A comparator's result at an instant, and whether it became true or false after an earlier one (R280). -/
def Comp.at_ (c : Comp) (prev inst : Nat) : Bool × Bool × Bool :=
  let h := c.history.filter fun e => decide (e.1 ≤ inst)
  ((h.head?.map (·.2)).getD false, h.any fun e => decide (prev < e.1) && e.2, h.any fun e => decide (prev < e.1) && !e.2)

/-! ### Pins -/

def tioEn (w : Word) : Bool := bitAt w 31
def tioInv (w : Word) : Bool := bitAt w 30

/-- TIO_INPUT_CHANGE (R281, R282): a change starts its deglitch time; one that goes back before it is rejected. -/
def execTioInputChange (t pin : Nat) (level : Bool) (s : State) : Host.Outcome State Fault Refusal :=
  act t s fun s =>
    let w := s.cfg.active.tio pin
    tioUpd pin (fun x =>
      let x := { x with ball := level }
      if !(tioEn w) ∨ !(s.domOn 1) then x
      else if (level != tioInv w) = x.level then
        (if x.since.isSome then { x with since := none, rejects := inc16 x.rejects } else x)
      else if x.since.isSome then x
      else { x with since := some s.clk.loom }) s

/-- TIO_LEVEL_ACCEPTED (R18, R281 to R283): while the Treadle's domain is on, the new level has held for DEGLITCH
times 20 ns. -/
def execTioLevelAccepted (t pin : Nat) (s : State) : Host.Outcome State Fault Refusal :=
  act t s fun s =>
    let w := s.cfg.active.tio pin
    let x := s.trd.tios.get pin
    match x.since with
    | none => s
    | some v =>
      if tioEn w ∧ s.domOn 1 = true ∧ v + nsLoom (fld w 15 0 * 20) ≤ s.clk.loom then
        let up := !x.level
        let s := tioUpd pin (fun x => { x with
          level := up, since := none, last := s.clk.loom, history := (s.clk.loom, up, true) :: x.history }) s
        dateEvent [if up then 0x10 + pin else 0x20 + pin, 0x30 + pin] s.clk.loom s
      else s

/-- At a beat boundary a comparator that is not enabled any more, or that watches another channel or tap, ends its row
of samples (R279). -/
def dropComps (old new : PMem) (at_ : Nat) (s : State) : State :=
  let ends := (List.range 32).filter fun c =>
    compEn (old.comp c 0) && !(compEn (new.comp c 0) && compCh (new.comp c 0) == compCh (old.comp c 0)
      && compEng (new.comp c 0) == compEng (old.comp c 0))
  ends.foldl (fun s c => compUpd c (fun k => { k with offs := at_ :: k.offs }) s) s

/-- At a beat boundary a pin that is enabled, or whose INV changes, adopts the level at its ball; a pin that is
disabled reads low (R281). -/
def adoptPins (old new : PMem) (at_ : Nat) (s : State) : State :=
  (List.range 16).foldl (fun s p =>
    let a := old.tio p
    let w := new.tio p
    if tioEn w && (!(tioEn a) || tioInv a != tioInv w) then
      tioUpd p (fun x => { x with
        level := x.ball != tioInv w, since := none, history := (at_, x.ball != tioInv w, false) :: x.history }) s
    else if tioEn a && !(tioEn w) then
      tioUpd p (fun x => { x with level := false, since := none, history := (at_, false, false) :: x.history }) s
    else s) s

/-- A pin's level at an instant, and whether it became true or false after an earlier one (R281). -/
def Tio.at_ (x : Tio) (prev inst : Nat) : Bool × Bool × Bool :=
  let h := x.history.filter fun e => decide (e.1 ≤ inst)
  let edge := fun (v : Bool) => h.any fun e => decide (prev < e.1) && e.2.2 && e.2.1 == v
  ((h.head?.map (·.2.1)).getD false, edge true, edge false)

/-! ### Transitions -/

/-- Fields of a transition's words A and B (R308). -/
def trEn (a : Word) : Bool := bitAt a 31
def trOp (a : Word) : Nat := fld a 30 29
def trNext (a : Word) : Nat := fld a 3 0
def trTrig (b : Word) : Bool := bitAt b 31
def trBob (b : Word) : Nat := fld b 30 28

/-- Every active transition of a sequencer, as (state, index). -/
def PMem.actives (m : PMem) (q : Nat) : List (Nat × Nat) :=
  ((List.range 16).flatMap fun st => (List.range 4).map fun i => (st, i)).filter fun x => trEn (m.trans q x.1 x.2 0)

/-- A sequencer's transitions name a bobbin (R291, R292). -/
def PMem.feeds (m : PMem) (q b : Nat) : Bool :=
  (m.actives q).any fun x => trTrig (m.trans q x.1 x.2 1) && trBob (m.trans q x.1 x.2 1) == b

/-- The sequencer that feeds a bobbin (R292, R305), 0xFF where none does. -/
def PMem.ownSeq (m : PMem) (b : Nat) : Nat := ((List.range 4).find? fun q => m.feeds q b).getD 0xFF

/-- The operands of an active transition. -/
def opnds (a : Word) : List Nat := fld a 26 19 :: (if trOp a = 0 then [] else [fld a 16 9])

/-- The comparators that a sequencer uses (R277). -/
def PMem.seqComps (m : PMem) (q : Nat) : List Nat :=
  (m.actives q).flatMap fun x => (opnds (m.trans q x.1 x.2 0)).flatMap fun o =>
    if o / 32 = 1 then [o % 32]
    else if o / 32 = 3 then
      let c := m.cntSrc q (o % 4)
      if 0x40 ≤ c ∧ c < 0x60 then [c - 0x40] else []
    else []

/-- The largest look-ahead that a sequencer waits for, in modulator clocks (R277). -/
def PMem.seqLook (m : PMem) (q : Nat) : Nat := m.lookMax ((m.seqComps q).map fun c => compCh (m.comp c 0))

/-- L_S in loom units and in ns, rounded up (R277). -/
def PMem.seqLS (m : PMem) (q : Nat) : Nat := ceilDiv (m.seqLook q * 2 ^ 19 * 320 + 4 * 2 ^ 32) 1000000
def PMem.seqLSns (m : PMem) (q : Nat) : Nat := ceilDiv (m.seqLook q * 625) 16 + 4000

/-- Dated source events up to an instant enter the counters (R283). -/
def Seqr.absorb (x : Seqr) (inst : Nat) : Seqr :=
  let due := x.dated.filter fun d => decide (d.2 ≤ inst)
  { x with counters := due.foldl (fun t d => t.upd d.1 inc32) x.counters
           dated := x.dated.filter fun d => !(decide (d.2 ≤ inst)) }

/-- The conditions of counter k and timer k (R283, R284). -/
def cntTrue (m : PMem) (q : Nat) (x : Seqr) (k : Nat) : Bool := decide (m.cntCmp q k ≤ x.counters.get k)
def tmrTrue (x : Seqr) (inst k : Nat) : Bool := (x.timers.get k).running && decide ((x.timers.get k).target ≤ inst)

/-- An event operand matches an event (R285). -/
def evMatches (m : PMem) (q idx : Nat) (e : WarpEv) : Bool :=
  let code := fld (m.seqHead q) 15 8
  if idx = 0 then e.typ == 1 else if idx = 1 then e.typ == 2
  else if idx = 2 then e.typ == 1 && e.code == code else e.typ == 2 && e.code == code

/-- What an evaluation sees (R276, R285): the sequencer before its actions, the instant before, the events consumed. -/
structure SeqView where
  q : Nat
  inst : Nat
  prev : Option Nat
  seq : Seqr
  used : List WarpEv

/-- An operand read with its sense (R288). -/
def State.operand (s : State) (m : PMem) (v : SeqView) (o sense : Nat) : Bool :=
  let i := o % 32
  let p := v.prev.getD 0
  if v.prev.isNone && decide (2 ≤ sense) then false
  else if o / 32 = 5 then
    let hit := v.used.any (evMatches m v.q i)
    if sense % 2 = 0 then hit else !hit
  else
    let x : Bool × Bool × Bool :=
      if o / 32 = 0 then (true, false, false)
      else if o / 32 = 1 then (s.trd.comps.get i).at_ p v.inst
      else if o / 32 = 2 then (s.trd.tios.get i).at_ p v.inst
      else if o / 32 = 3 then
        let now := cntTrue m v.q v.seq i
        (now, now && !(v.seq.prevCnt.get i), !now && v.seq.prevCnt.get i)
      else if o / 32 = 4 then
        let now := tmrTrue v.seq v.inst i
        (now, now && !(v.seq.prevTmr.get i), !now && v.seq.prevTmr.get i)
      else (false, false, false)
    if sense = 0 then x.1 else if sense = 1 then !x.1 else if sense = 2 then x.2.1 else x.2.2

/-- A transition's condition from its operands (R288). -/
def opJoin (op : Nat) (a b : Bool) : Bool := if op = 0 then a else if op = 1 then a && b else if op = 2 then a || b else false

/-- The two operands of a transition as read. -/
def State.opPair (s : State) (m : PMem) (v : SeqView) (a : Word) : Bool × Bool :=
  (s.operand m v (fld a 26 19) (fld a 28 27), s.operand m v (fld a 16 9) (fld a 18 17))

/-- The transitions of the present state that are true, in index order (R289). -/
def State.trueTrans (s : State) (m : PMem) (v : SeqView) : List Nat :=
  (List.range 4).filter fun i =>
    let a := m.trans v.q v.seq.state i 0
    trEn a && opJoin (trOp a) (s.opPair m v a).1 (s.opPair m v a).2

/-- The event that a transition rests on alone (R286): the earliest stamp of those that the operand matches. -/
def State.soleEvent (s : State) (m : PMem) (v : SeqView) (a : Word) : Option WarpEv :=
  let (x, y) := s.opPair m v a
  let isEv := fun (o sense : Nat) => o / 32 == 5 && sense % 2 == 0
  let first := fun (o : Nat) => (v.used.filter (evMatches m v.q (o % 32))).foldl (fun (b : Option WarpEv) e =>
    match b with
    | none => some e
    | some c => if e.stamp < c.stamp then some e else b) none
  if isEv (fld a 26 19) (fld a 28 27) && x && !(opJoin (trOp a) false y) then first (fld a 26 19)
  else if isEv (fld a 16 9) (fld a 18 17) && y && trOp a != 0 && !(opJoin (trOp a) x false) then first (fld a 16 9)
  else none

/-- Counter and timer actions of a transition (R284, R290). -/
def counterOps (m : PMem) (q : Nat) (b : Word) (inst : Nat) (x : Seqr) : Seqr :=
  let cnt := fun (t : Tab Nat) (k : Nat) =>
    let op := fld b (11 + 2 * k) (10 + 2 * k)
    if op = 1 then t.upd k inc32 else if op = 2 then t.set k 0 else t
  let tmr := fun (t : Tab Timer) (k : Nat) =>
    let op := fld b (3 + 2 * k) (2 + 2 * k)
    if op = 1 then t.set k { target := inst + m.timerDur q k, running := true }
    else if op = 2 then t.upd k fun y => { y with running := false } else t
  { x with counters := (List.range 4).foldl cnt x.counters, timers := (List.range 4).foldl tmr x.timers }

/-! ### Records start -/

/-- What starts a record. -/
structure Trigger where
  bob : Nat
  seqr : Nat
  /-- The instant of the action, and the trigger instant (R286). -/
  inst : Nat
  trig : Nat
  cause : Nat
  /-- Record flags of the cause: AUTO 2, FORCED 4, WARP 8, COINC 64. -/
  flags : Nat
  byte10 : Nat := 0
  byte11 : Nat := 0
  coin : Nat := 0
  origin : Nat
  code : Nat := 0
  /-- A shadow record's number (R432). -/
  shadow : Option Nat := none

/-- Grid number of an instant of a bobbin's group, and the instant of a number. -/
def PMem.bobNum (m : PMem) (b t : Nat) : Nat := gridFrom (m.cycle (m.bobGroup b)) (m.count (m.bobGroup b)) t
def PMem.bobInst (m : PMem) (b n : Nat) : Nat := gridInst (m.cycle (m.bobGroup b)) (m.count (m.bobGroup b)) n

/-- A bobbin is in re-arm at an instant (R296). -/
def Bobbin.inRearm (x : Bobbin) (at_ : Nat) : Bool := x.rearm.any fun r => decide (r.1 ≤ at_ ∧ at_ ≤ r.2)

/-- Record slots not occupied (R298). -/
def State.freeSlots (s : State) (m : PMem) (b : Nat) : Nat := fld (m.bob b 0) 15 0 - (s.trd.bobs.get b).records.length

/-- The notice of a trigger (R353). -/
def triggerNotice (g : Trigger) (number flags : Nat) (s : State) : State :=
  addNotice { typ := 1, b1 := g.seqr, b23 := g.bob, loom := g.trig
              tail := beBytes 4 number ++ beBytes 2 flags ++ beBytes 1 (g.byte11 % 16) ++ zeros 5 } s

/-- The slot that a record takes: the lowest that is free (DESIGN CHOICE, log entry 208). -/
def Bobbin.slotFree (x : Bobbin) : Nat :=
  ((List.range (x.records.length + 1)).find? fun n => !(x.records.any fun r => r.slot == n)).getD 0

/-- A record starts (R286, R287, R294 to R299): the samples that the history holds, the ones still to come, its
number. -/
def takeRecord (m : PMem) (g : Trigger) (s : State) : State × Nat :=
  let b := g.bob
  let x := s.trd.bobs.get b
  let pre := (m.bob b 1).toNat
  let nT := m.bobNum b g.trig
  let start := m.bobNum b x.start
  let held := m.bobNum b g.inst - m.historyLen b
  let plain := max (nT - pre) start
  let late := nbit g.flags 3 && decide (plain < held)
  let n0 := if late then held else plain
  let flags := g.flags + b2n (decide (nT < pre + n0)) + 16 * b2n late
  let n1 := nT + (m.bob b 2).toNat - 1
  let number := g.shadow.getD x.nextRecord
  let r : Record :=
    { number, slot := x.slotFree, trigger := g.trig, cause := g.cause, seqr := g.seqr, own := m.ownSeq b, flags, byte10 := g.byte10, byte11 := g.byte11
      coin := g.coin, origin := g.origin, code := g.code, cycle := m.cycle (m.bobGroup b), count := m.count (m.bobGroup b)
      n0, nT, n1, words := (List.range 18).map (m.bob b), compress := bitAt ((s.cfgAt g.trig).word 0x0B00 0) (24 + b)
      missed := x.missed, full := x.full, beat := beatAt g.trig
      samples := x.history.reverse.filter fun c => decide (m.bobInst b n0 ≤ c.2.t ∧ c.2.t ≤ m.bobInst b n1)
      complete := false, unacked := [] }
  let end_ := m.bobInst b (n1 + fld (m.bob b 4) 23 0)
  let s := bobUpd b (fun y => { y with
    records := y.records ++ [r], nextRecord := next32 number, taken := inc32 y.taken
    rearm := ((g.trig, end_) :: y.rearm).take 4, autoFrom := end_, lastTrigger := g.trig, lastRecord := number }) s
  (if g.shadow.isSome then s else triggerNotice g number flags s, number)

/-- A trigger meets a bobbin (R296 to R298): an AUTO record of the same instant becomes its record; in re-arm it is
missed; without a free slot it is counted and announced. The number of the record that it started. -/
def startRecord (m : PMem) (g : Trigger) (s : State) : State × Option Nat :=
  let b := g.bob
  let x := s.trd.bobs.get b
  match x.records.find? fun r => nbit r.flags 1 && r.trigger == g.trig && !(nbit g.flags 1) && !(nbit g.flags 2) with
  | some r =>
    let flags := r.flags - 2 + g.flags
    let put := fun (y : Record) => if y.number = r.number then { y with
      seqr := g.seqr, flags, byte10 := g.byte10, byte11 := g.byte11, coin := g.coin, origin := g.origin, code := g.code
      cause := g.cause } else y
    (triggerNotice g r.number flags (bobUpd b (fun y => { y with records := y.records.map put }) s), some r.number)
  | none =>
    if g.shadow.isNone ∧ x.inRearm g.inst = true then
      (bobUpd b (fun y => { y with missed := inc32 y.missed }) s, none)
    else if g.shadow.isNone ∧ s.freeSlots m b = 0 then
      (alarmNotice true 0x22 b 0 (alarmEvent 0x22 b 0 (bobUpd b (fun y => { y with full := inc32 y.full }) s)), none)
    else
      let (s, n) := takeRecord m g s
      (s, some n)

/-! ### Evaluation -/

/-- The present transition's loop selection (R290, R318). -/
def outerLoop (m : PMem) (v : SeqView) (b : Word) (s : State) : State :=
  if bitAt b 24 then
    { s with drv := { s.drv with loops := s.drv.loops.upd (fld b 23 20) fun l =>
      { l with waiting := l.waiting ++ [(v.inst + m.seqLS v.q, v.q, fld b 19 18)] } } }
  else s

/-- Its mark, announced by a notice unless it is a standby's shadow (R290, R432). -/
def outerMark (v : SeqView) (b : Word) (code hub : Nat) (quiet : Bool) (s : State) : State :=
  if bitAt b 27 then
    let s := { s with trd := { s.trd with
      marks := { t := v.inst, seqr := v.q, state := v.seq.state, code, origin := hub } :: s.trd.marks } }
    if quiet then s
    else addNotice { typ := 2, b1 := code, b23 := v.q, loom := v.inst
                     tail := beBytes 2 hub ++ beBytes 1 v.seq.state ++ zeros 9 } s
  else s

/-- Its event, to this hub's own sequencers and over the Warp (R290). -/
def outerEvent (v : SeqView) (b : Word) (code hub : Nat) (quiet : Bool) (s : State) : State :=
  if bitAt b 26 then
    let typ := if bitAt b 25 then 2 else 1
    let s := offerEvent { typ, origin := hub, stamp := v.inst, code } s
    if quiet then s else originate typ code v.inst s
  else s

/-- The present transition's actions beyond counters and timers (R290): loop selection, mark, event, record. -/
def outerActions (m : PMem) (v : SeqView) (i mask coin : Nat) (shadow : Option Nat) (s : State) : State × Option Nat :=
  let st := v.seq.state
  let a := m.trans v.q st i 0
  let b := m.trans v.q st i 1
  let code := fld (m.trans v.q st i 2) 7 0
  let hub := s.hub.hubId.getD 0x3FF
  let s := outerEvent v b code hub shadow.isSome (outerMark v b code hub shadow.isSome (outerLoop m v b s))
  if trTrig b then
    let ev := s.soleEvent m v a
    let bob := trBob b
    let g : Trigger :=
      { bob, seqr := v.q, inst := v.inst
        trig := match ev with
          | some e => m.gridAt (m.bobGroup bob) e.stamp
          | none => v.inst
        cause := match ev with
          | some e => e.stamp
          | none => v.inst
        flags := 8 * b2n ev.isSome + 64 * b2n (mask != 0), byte10 := st * 16 + trNext a, byte11 := i * 64 + mask, coin
        origin := (ev.map (·.origin)).getD s.hubIdOut, code := (ev.map (·.code)).getD code
        shadow := match shadow with
          | some (n + 1) => some n
          | _ => none }
    let s := if shadow.isSome then s else simTrigger v.q s
    if shadow = some 0 then (s, none) else startRecord m g s
  else (s, none)

/-- A hub of a pair logs a transition for its partner (R427, R432). -/
def logTransition (q i entered : Nat) (rec : Option Nat) (inst : Nat) (s : State) : State :=
  if s.hub.role = .active ∧ s.paired = true then
    { s with pair := { s.pair with
      logOut := s.pair.logOut ++ [{ seqr := q, trans := i, entered, recordNo := rec.getD 0xFFFFFFFF, instant := inst }] } }
  else s

/-- Coalesced events at an instant (R285). -/
def coalesce (used : List WarpEv) : Nat :=
  ((used.filter fun e => e.typ == 1).length - 1) + ((used.filter fun e => e.typ == 2).length - 1)

/-- The evaluation of instant inst (R276, R285, R288 to R290). A standby replays transition i of the log instead, with
the record number (plus one) that it started, or 0 (R432). -/
def evaluate (q inst : Nat) (replay : Option (Nat × Nat)) (s : State) : State :=
  let m := s.cfgAt inst
  let x := (s.trd.seqs.get q).absorb inst
  let used := x.events.filter fun e => decide (x.armedAt ≤ e.stamp ∧ e.stamp ≤ inst)
  let v : SeqView := { q, inst, prev := x.last, seq := x, used }
  let trues := s.trueTrans m v
  let taken := match replay with
    | some (i, _) => some i
    | none => trues.head?
  let others := trues.filter fun i => some i != taken
  let mask := maskOf others
  let coin := if others.isEmpty then x.coin else inc32 x.coin
  let prevCnt := (List.range 4).foldl (fun (t : Tab Bool) k => t.set k (cntTrue m q x k)) []
  let prevTmr := (List.range 4).foldl (fun (t : Tab Bool) k => t.set k (tmrTrue x inst k)) []
  let left := x.events.filter fun e => decide (inst < e.stamp)
  let y := { x with
    last := some inst, coin, events := left, coalesced := sat16 (x.coalesced + coalesce used), prevCnt, prevTmr }
  let trimOne := fun (b : Nat) (z : Bobbin) =>
    let floor := m.bobInst b (m.bobNum b inst - m.historyLen b)
    { z with history := z.history.filter fun c => decide (floor ≤ c.2.t) }
  let trim := fun (s : State) =>
    ((List.range 8).filter (m.feeds q)).foldl (fun (s : State) b => bobUpd b (trimOne b) s) s
  match taken with
  | none => trim (seqUpd q (fun _ => y) s)
  | some i =>
    let next := trNext (m.trans q x.state i 0)
    let y := { counterOps m q (m.trans q x.state i 1) inst y with state := next, taken := inc32 y.taken }
    let (s, rec) := outerActions m v i mask coin (replay.map (·.2)) (seqUpd q (fun _ => y) s)
    trim (logTransition q i next rec inst s)

/-- Notice frames that a state formed are counted late on each port where the evaluation comes later than R364 allows
(R438). -/
def countLate (late : Bool) (before : State) (s : State) : State :=
  if late then
    let one := fun (t : Tab HPort) (p : Nat) => t.upd p fun h =>
      { h with tc0Late := sat32 (h.tc0Late + (h.tc0.length - (before.weft.ports.get p).tc0.length)) }
    { s with weft := { s.weft with ports := one (one s.weft.ports 0) 1 } }
  else s

/-- SEQUENCER_EVALUATION (R276, R277, R293, R432): armed, in RUN, at an instant of CLK_GROUP not evaluated before, at
or after arming, and not before its inputs are available. A standby's sequencers do not evaluate. -/
def execSequencerEvaluation (t seq inst : Nat) (s : State) : Host.Outcome State Fault Refusal :=
  act t s fun s =>
    let x := s.trd.seqs.get seq
    let m := s.cfgAt inst
    let fresh := match x.last with
      | some l => decide (l < inst)
      | none => true
    if seq < 4 ∧ x.armed = true ∧ s.hub.state = .run ∧ s.hub.role ≠ .standby ∧ x.armedAt ≤ inst ∧ fresh = true
        ∧ m.onGrid (m.clkGroup seq) inst = true ∧ inst + m.seqLS seq ≤ s.clk.loom then
      countLate (decide (inst + m.seqLS seq + usLoom 25 < s.clk.loom)) s (evaluate seq inst none s)
    else s

/-- TREADLE_TIMER_EXPIRY (R284): the condition follows from the target and loom time; nothing is stored. -/
def execTreadleTimerExpiry (t _seq _k : Nat) (s : State) : Host.Outcome State Fault Refusal := act t s fun s => s

/-- TREADLE_COUNTER_REACHED (R283): the condition follows from the count and CMP; nothing is stored. -/
def execTreadleCounterReached (t _seq _k : Nat) (s : State) : Host.Outcome State Fault Refusal := act t s fun s => s

/-! ### Arming -/

/-- A bobbin's history starts at a boundary (R292, R295, R296, R298). -/
def startHistory (m : PMem) (at_ : Nat) (s : State) (b : Nat) : State :=
  let first := m.gridAt (m.bobGroup b) at_
  bobUpd b (fun x => { x with
    running := true, start := first, history := [], missed := 0, full := 0
    autoFrom := x.rearm.foldl (fun a r => max a r.2) first }) s

/-- A sequencer is armed at a boundary (R292). -/
def armSeq (at_ : Nat) (s : State) (q : Nat) : State :=
  let m := s.cfg.active
  let s := seqUpd q (fun x =>
    { armed := true, armedAt := at_, state := fld (m.seqHead q) 19 16, taken := x.taken, coalesced := x.coalesced }) s
  ((List.range 8).filter (m.feeds q)).foldl (startHistory m at_) s

/-- A sequencer is disarmed: the histories that it fed stop; records being captured go on (R292). -/
def disarmSeq (s : State) (q : Nat) : State :=
  let s := seqUpd q (fun x => { x with armed := false, events := [], dated := [] }) s
  ((List.range 8).filter (s.cfg.active.feeds q)).foldl (fun s b => bobUpd b (fun x => { x with running := false }) s) s

/-- The hub leaves RUN for READY, CONFIG or FAULT at a loom time (R293): sequencers are disarmed, and records being
captured close at the last sample before it. -/
def leaveRunTreadle (at_ : Nat) (s : State) : State :=
  let cut := fun (r : Record) =>
    let n := gridFrom r.cycle r.count at_ - 1
    if r.complete || decide (r.n1 ≤ n) then r else { r with n1 := n, flags := r.flags ||| 32 }
  let stop := fun (t : Tab Bobbin) (b : Nat) => t.upd b fun x =>
    let old := x.records.find? fun r => !r.complete && r.trigger == x.lastTrigger && decide (gridFrom r.cycle r.count at_ - 1 < r.n1)
    let x := match old with
      | some r =>
        let e := gridInst r.cycle r.count (gridFrom r.cycle r.count at_ - 1 + fld (r.words.getD 4 0) 23 0)
        { x with rearm := x.rearm.map fun (y : Nat × Nat) => if y.1 = r.trigger then (y.1, e) else y }
      | none => x
    { x with running := false, records := x.records.map cut }
  let s := (List.range 4).foldl disarmSeq s
  { s with trd := { s.trd with bobs := (List.range 8).foldl stop s.trd.bobs } }

/-- BOOT (R293): sequencers, histories, records and counters are gone. -/
def bootTreadle (s : State) : State := { s with trd := { tios := s.trd.tios.map fun x => (x.1, { ball := x.2.ball }) } }

/-! ### Commands -/

/-- The payload of TREADLE_STATUS (R311). -/
def treadlePayload (s : State) : Bytes :=
  (List.range 4).flatMap fun q =>
    let x := (s.trd.seqs.get q).absorb s.clk.loom
    beBytes 1 (b2n x.armed) ++ beBytes 1 x.state ++ zeros 2 ++ beBytes 4 x.coin ++ beBytes 4 x.taken
      ++ (x.counters.getList 0 4).flatMap (beBytes 4)
      ++ beBytes 1 (maskOf ((List.range 4).filter fun k => (x.timers.get k).running)) ++ zeros 1
      ++ beBytes 2 x.coalesced ++ beBytes 4 (s.cfg.active.seqLSns q)

/-- TREADLE_STATUS (R311, R312). -/
def execTreadleStatus (t : Nat) (rq : Req) (s : State) : Host.Outcome State Fault Refusal :=
  runCmd { code := 0x0800, legal := stRead, standbyNo := false, len := lenIs 0 } (reading fun _ s => .done (treadlePayload s)) t rq s

/-- RUN only. -/
def stRun : HubState → Bool
  | .run => true
  | _ => false

/-- A sequencer mask is staged (R292, R311). -/
def maskBody (f : Nat → Change) (rq : Req) (s : State) : Reply × State :=
  if beAt rq.payload 0 1 > 15 ∨ beAt rq.payload 1 1 ≠ 0 then (.no 0x0302, s)
  else (.staged s.due [], stage (f (beAt rq.payload 0 1)) rq s)

/-- TREADLE_ARM (R292, R311, R312). -/
def execTreadleArm (t : Nat) (rq : Req) (s : State) : Host.Outcome State Fault Refusal :=
  runCmd { code := 0x0801, legal := stRun, standbyNo := true, len := lenIs 2 } (maskBody .arm) t rq s

/-- TREADLE_DISARM (R292, R311, R312). -/
def execTreadleDisarm (t : Nat) (rq : Req) (s : State) : Host.Outcome State Fault Refusal :=
  runCmd { code := 0x0802, legal := stRun, standbyNo := true, len := lenIs 2 } (maskBody .disarm) t rq s

/-- An armed sequencer feeds a bobbin. -/
def State.armedFeeds (s : State) (b : Nat) : Bool :=
  (List.range 4).any fun q => (s.trd.seqs.get q).armed && s.cfg.active.feeds q b

/-- TREADLE_FORCE (R311, R312): its instant counts from the loom time at which its mailbox took the request. -/
def execTreadleForce (t : Nat) (rq : Req) (s : State) : Host.Outcome State Fault Refusal :=
  runCmd { code := 0x0803, legal := stRun, standbyNo := true, len := lenIs 2 }
    (fun rq s =>
      let b := beAt rq.payload 0 1
      let m := s.cfg.active
      let trig := m.gridAt (m.bobGroup b) (s.sh.mail.get rq.mb).lastTaken
      if beAt rq.payload 1 1 ≠ 0 then (.no 0x0302, s)
      else if b > 7 then (.noAt 0x0306 b, s)
      else if m.bobEn b = false ∨ s.armedFeeds b = false then (.noAt 0x0101 b, s)
      else if (s.trd.bobs.get b).inRearm trig then (.noAt 0x0108 b, s)
      else if s.freeSlots m b = 0 then (.noAt 0x0505 b, s)
      else
        let (s, n) := takeRecord m { bob := b, seqr := 0xFF, inst := trig, trig, cause := trig, flags := 4, origin := s.hubIdOut } s
        (.done (beBytes 8 trig ++ beBytes 4 n), s)) t rq s

/-- Loom time at which a bobbin's AUTO_TO has passed (R297). -/
def Bobbin.autoAt (x : Bobbin) (ms : Nat) : Nat := x.autoFrom + ceilDiv (ms * 2 ^ 32) 1000

/-- Samples of history held (R287, R295): the instants since the start whose time has come, at most the history's
length. -/
def State.heldSamples (s : State) (b : Nat) : Nat :=
  let m := s.cfg.active
  let x := s.trd.bobs.get b
  let newest := x.history.foldl (fun n c => max n (m.bobNum b c.2.t + 1)) 0
  if x.running then min (m.historyLen b) (newest - m.bobNum b x.start) else 0

/-- The payload of BOBBIN_STATUS (R311). -/
def bobbinPayload (b : Nat) (s : State) : Bytes :=
  let m := s.cfg.active
  let x := s.trd.bobs.get b
  let ms := (m.bob b 3).toNat
  let st := if !(m.bobEn b) then 0 else if !x.running then 1 else if x.inRearm s.clk.loom then 3 else 2
  beBytes 1 st ++ zeros 1 ++ beBytes 2 (if m.bobEn b then s.freeSlots m b else 0) ++ beBytes 4 x.taken ++ beBytes 4 x.missed
    ++ beBytes 4 x.full ++ beBytes 4 (s.heldSamples b)
    ++ beBytes 8 (if x.running && ms != 0 then m.gridAt (m.bobGroup b) (x.autoAt ms) else 0)
    ++ beBytes 4 x.lastRecord ++ beBytes 8 x.lastTrigger

/-- BOBBIN_STATUS (R311). -/
def execBobbinStatus (t : Nat) (rq : Req) (s : State) : Host.Outcome State Fault Refusal :=
  runCmd { code := 0x0804, legal := stRead, standbyNo := false, len := lenIs 2 }
    (reading fun rq s =>
      let b := beAt rq.payload 0 1
      if beAt rq.payload 1 1 ≠ 0 then .no 0x0302 else if b > 7 then .noAt 0x0306 b else .done (bobbinPayload b s)) t rq s

/-- COMP_STATUS (R311). -/
def execCompStatus (t : Nat) (rq : Req) (s : State) : Host.Outcome State Fault Refusal :=
  runCmd { code := 0x0805, legal := stRead, standbyNo := false, len := lenIs 0 }
    (reading fun _ s => .done ((List.range 32).flatMap fun c =>
      let x := s.trd.comps.get c
      beBytes 1 (if compEn (s.cfg.active.comp c 0) then 1 + b2n x.result else 0) ++ zeros 1 ++ beBytes 2 x.onsets
        ++ beWord x.lastValue ++ beBytes 8 x.lastChange)) t rq s

/-- TIO_STATUS (R311). -/
def execTioStatus (t : Nat) (rq : Req) (s : State) : Host.Outcome State Fault Refusal :=
  runCmd { code := 0x0806, legal := stRead, standbyNo := false, len := lenIs 0 }
    (reading fun _ s => .done ((List.range 16).flatMap fun p =>
      let x := s.trd.tios.get p
      beBytes 1 (b2n x.level) ++ zeros 1 ++ beBytes 2 x.rejects ++ beBytes 8 x.last)) t rq s

end Sys2Proof.Machine
end

