-- ==== Sys2Proof/Machine/Records.lean ====
section
/-! DEFINITION. Records (R294 to R304, R351): samples collected, measurements, the header, completion, AUTO records and
the end of re-arm. -/

namespace Sys2Proof.Machine

open Sys2Proof

/-! ### Samples -/

/-- Channels of a record, ascending, and its taps, raw before engineering. -/
def Record.chans (r : Record) : List Nat :=
  (List.range 256).filter fun ch => bitAt (r.words.getD (10 + ch / 32) 0) (ch % 32)
def Record.tapCode (r : Record) : Nat := fld (r.words.getD 0 0) 30 29
def Record.taps (r : Record) : List Bool := (if nbit r.tapCode 0 then [false] else []) ++ (if nbit r.tapCode 1 then [true] else [])

/-- Grid instants of a record, and whether one is among them. -/
def Record.inst (r : Record) (n : Nat) : Nat := gridInst r.cycle r.count n
def Record.instants (r : Record) : List Nat := (List.range (r.n1 + 1 - r.n0)).map fun i => r.inst (r.n0 + i)
def Record.spans (r : Record) (t : Nat) : Bool := decide (r.inst r.n0 ≤ t ∧ t ≤ r.inst r.n1)

/-- A sample enters the histories and the records being captured that hold its channel (R294, R295, R301). -/
def feedBobbins (m : PMem) (ch : Nat) (x : Sample) (s : State) : State :=
  let put := fun (r : Record) =>
    if !r.complete && r.spans x.t && bitAt (r.words.getD (10 + ch / 32) 0) (ch % 32)
        && (sampleOf r.samples ch x.t).isNone then
      { r with samples := r.samples ++ [(ch, x)] } else r
  let one := fun (t : Tab Bobbin) (b : Nat) => t.upd b fun y =>
    let y := { y with records := y.records.map put }
    if y.running && m.bobEn b && m.bobHas b ch && m.group ch == m.bobGroup b && decide (y.start ≤ x.t) then
      { y with history := (ch, x) :: y.history } else y
  { s with trd := { s.trd with bobs := (List.range 8).foldl one s.trd.bobs } }

/-- A channel's samples over a record: fill samples where it formed none (R300). -/
def State.recordRow (s : State) (r : Record) (ch : Nat) : List Sample :=
  r.instants.map fun g => (sampleOf r.samples ch g).getD (s.fillSample g)

/-! ### Measurements -/

/-- The value that a measurement sees: a raw code or an engineering value, in binary64. -/
def measValue (eng : Bool) (x : Sample) : DWord := if eng then f64Of32 x.eng else f64OfInt x.raw.toInt

/-- Samples that measurements use, with the others left out (R302): grid instant and value. -/
def usedSamples (r : Record) (row : List Sample) : List (Nat × DWord) :=
  let eng := bitAt (r.words.getD 0 0) 25
  let qual := fld (r.words.getD 7 0) 7 0
  (row.filter fun x => (x.flags.toNat &&& qual) == 0 && !(eng && f32Unusable x.eng)).map fun x => (x.t, measValue eng x)

/-- Mean of values, if any. -/
def meanOpt (l : List DWord) : Option DWord := if l.isEmpty then none else some (meanF l)

/-- The least or greatest of values. -/
def extreme (greatest : Bool) : List DWord → Option DWord
  | [] => none
  | x :: r => some (r.foldl (fun b v => if greatest then (if f64Lt b v then v else b) else (if f64Lt v b then v else b)) x)

/-- Loom time, in seconds after an origin, at which the line between two samples meets a level (R302). -/
def crossAt (origin : Nat) (a b : Nat × DWord) (level : DWord) : DWord :=
  let dt := f64OfRat ((b.1 : Int) - a.1) (2 ^ 32)
  f64Add (f64OfRat ((a.1 : Int) - origin) (2 ^ 32))
    (f64Div (f64Mul dt (f64Sub level a.2)) (f64Sub b.2 a.2))

/-- Rising crossings of a level after the value has been below a lower one (R302, code 6). -/
def risings (origin : Nat) (level low : DWord) : Bool → Option (Nat × DWord) → List (Nat × DWord) → List DWord
  | _, _, [] => []
  | ready, none, x :: r => risings origin level low (ready || f64Lt x.2 low) (some x) r
  | ready, some p, x :: r =>
    if ready && f64Lt p.2 level && f64Le level x.2 then
      crossAt origin p x level :: risings origin level low (f64Lt x.2 low) (some x) r
    else risings origin level low (ready || f64Lt x.2 low) (some x) r

/-- The first crossing of a level, in either direction, at or after the trigger instant (R302, code 8). -/
def firstCross (origin : Nat) (level : DWord) : List (Nat × DWord) → Option DWord
  | a :: b :: r =>
    let hit := (f64Lt a.2 level && f64Le level b.2) || (f64Lt level a.2 && f64Le b.2 level)
    let at_ := crossAt origin a b level
    if hit && f64Le 0 at_ then some at_ else firstCross origin level (b :: r)
  | _ => none

/-- Base and top of R302; none where either has no sample, or where they are equal (R303). -/
def baseTop (r : Record) (used : List (Nat × DWord)) : Option (DWord × DWord) :=
  let nP := r.n1 + 1 - max r.n0 r.nT
  let topFrom := r.inst (r.n1 + 1 - ceilDiv nP 4)
  match meanOpt ((used.filter fun x => decide (x.1 < r.trigger)).map (·.2)),
        meanOpt ((used.filter fun x => decide (topFrom ≤ x.1 ∧ r.trigger ≤ x.1)).map (·.2)) with
  | some b, some t => if f64Le b t && f64Le t b then none else some (b, t)
  | _, _ => none

/-- One measurement (R302), none where it is undefined (R303). -/
def measure (r : Record) (code : Nat) (used : List (Nat × DWord)) : Option DWord :=
  let post := bitAt (r.words.getD 0 0) 24
  let win := if post then used.filter fun x => decide (r.trigger ≤ x.1) else used
  let vs := win.map (·.2)
  if code = 1 then meanOpt vs
  else if code = 2 then (meanOpt (vs.map fun v => f64Mul v v)).map f64Sqrt
  else if code = 3 then extreme false vs
  else if code = 4 then extreme true vs
  else if code = 5 then
    match extreme true vs, extreme false vs with
    | some a, some b => some (f64Sub a b)
    | _, _ => none
  else if code = 6 ∨ code = 7 then
    let level := f64Of32 (r.words.getD 8 0)
    match risings r.trigger level (f64Sub level (f64Of32 (r.words.getD 9 0))) false none win with
    | a :: b :: l =>
      let period := f64Div (f64Sub ((b :: l).getLastD b) a) (f64OfInt (l.length + 1))
      some (if code = 6 then period else f64Div f64One period)
    | _ => none
  else
    match baseTop r used with
    | none => none
    | some (b, t) =>
      let d := f64Sub t b
      let up := f64Lt b t
      if code = 8 then
        let lev := fun (k : Nat) => f64Add b (f64Mul (f64OfRat k 10) d)
        match firstCross r.trigger (lev 1) used, firstCross r.trigger (lev 9) used with
        | some x, some y => some (f64Sub y x)
        | _, _ => none
      else
        match extreme up ((used.filter fun x => decide (r.trigger ≤ x.1)).map (·.2)) with
        | some e => some (f64Div (f64Mul (f64OfInt 100) (f64Sub e t)) d)
        | none => none

/-- The measurement words of a channel, each with whether it is defined (R302, R303). -/
def measures (r : Record) (row : List Sample) : List (Word × Bool) :=
  let codes := ((List.range 8).map fun k => fld (r.words.getD 6 0) (31 - 4 * k) (28 - 4 * k)).filter (· ≠ 0)
  let used := usedSamples r row
  codes.map fun c => match measure r c used with
    | some v => (f32Of64 v, true)
    | none => (0x7FC00004#32, false)

/-! ### The record image -/

/-- Marks of a record (R301): those of the bobbin's own sequencer and those received, whose instants lie within its
span. -/
def State.recordMarks (s : State) (r : Record) : List Mark :=
  s.trd.marks.reverse.filter fun k => (k.seqr == r.own || k.seqr == 0xFF) && r.spans k.t

/-- A mark in the header (R304). -/
def markBytes (k : Mark) : Bytes :=
  beBytes 8 k.t ++ beBytes 1 k.seqr ++ beBytes 1 k.state ++ beBytes 1 k.code ++ zeros 1 ++ beBytes 2 k.origin ++ zeros 2

/-- The final record flags (R300, R301, R304). -/
def finalFlags (r : Record) (rows : List (List Sample)) (marks : Nat) : Nat :=
  let fill := rows.any fun row => row.any fun x => x.raw == 0#32 && x.eng == 0x7FC00003#32 && x.flags.toNat.testBit 7
  r.flags + 128 * b2n (decide (64 < marks)) + 256 * b2n fill

/-- The header of a record (R304), with the configuration and calibration numbers in force at the trigger. -/
def recordHeader (b cfgSeq calSeq : Nat) (r : Record) (rows : List (List Sample)) (meas : List (Nat × List (Word × Bool)))
    (marks : List Mark) : Bytes :=
  let w := fun (i : Nat) => r.words.getD i 0
  let codes := (List.range 8).map fun k => fld (w 6) (31 - 4 * k) (28 - 4 * k)
  let m := (codes.filter (· ≠ 0)).length
  let n := rows.length
  let kept := marks.take 64
  let union := rows.foldl (fun a row => row.foldl (fun (a : Byte) x => a ||| x.flags) a) 0
  let entry := fun (x : Nat × List (Word × Bool)) =>
    beBytes 2 x.1 ++ beBytes 1 (maskOf ((List.range x.2.length).filter fun k => ((x.2.map (·.2)).getD k false)))
      ++ zeros 1 ++ x.2.flatMap fun v => beWord v.1
  beBytes 2 (128 + n * (4 + 4 * m) + 16 * kept.length) ++ beBytes 1 b ++ beBytes 1 r.seqr ++ beBytes 4 r.number
    ++ beBytes 2 (finalFlags r rows marks.length) ++ beBytes 1 r.byte10 ++ beBytes 1 r.byte11 ++ beBytes 4 r.coin
    ++ beBytes 8 r.trigger ++ beBytes 8 r.cause ++ beBytes 2 r.origin ++ beBytes 1 r.code ++ beBytes 1 (fld (w 0) 28 26)
    ++ beBytes 4 r.count ++ beBytes 1 r.cycle ++ beBytes 1 r.tapCode ++ beBytes 2 n
    ++ beBytes 4 (w 1).toNat ++ beBytes 4 (r.nT - r.n0) ++ beBytes 4 (w 2).toNat ++ beBytes 4 (r.n1 + 1 - max r.n0 r.nT)
    ++ beBytes 4 r.missed ++ beBytes 4 r.full ++ beBytes 8 (r.inst r.n0) ++ beBytes 4 cfgSeq ++ beBytes 4 calSeq
    ++ beBytes 2 kept.length ++ beBytes 1 m ++ [union] ++ beBytes 8 r.beat
    ++ codes.flatMap (beBytes 1) ++ zeros 24 ++ meas.flatMap entry ++ kept.flatMap markBytes

/-- The record image (R351). -/
def recordImage (r : Record) (header : Bytes) (rows : List (List Sample)) : Bytes :=
  header ++ r.taps.flatMap fun eng => tapBody eng rows

/-- Cut a string into pieces of at most n bytes. -/
def pieces (n : Nat) : Nat → Bytes → List Bytes
  | 0, _ => []
  | fuel + 1, l => if l.isEmpty then [] else l.take n :: pieces n fuel (l.drop n)

/-- The smallest MTU among the ports of REC_PORTS (R351). -/
def PMem.recMtu (m : PMem) : Nat := (m.recPorts.map m.mtu).foldl min 9000

/-- The frames of a complete record are queued (R351, R378, R383). -/
def queueRecord (b : Nat) (r : Record) (image : Bytes) (s : State) : State :=
  let m := s.cfg.active
  let size := m.recMtu - (if r.compress then 69 else 64)
  let ps := pieces size image.length image
  let x := s.trd.bobs.get b
  let df := defFrom x.changes r.trigger
  let first := x.firstOf != some df
  let z := m.word 0x0B00 0
  let seqOf := fun (i : Nat) => (x.nextSeq + i) % 2 ^ 32
  let one := fun (s : State) (ip : Nat × Bytes) =>
    let flags := 128 * b2n r.compress + 64 * b2n (first && ip.1 == 0) + 16 * b2n (ip.1 + 1 == ps.length)
    retain { flow := 0x100 + b, seq := seqOf ip.1, sec := 0, first := r.inst r.n0, count := 0
             header := weftHeader 3 s.weftHub (0x100 + b) (seqOf ip.1) (r.inst r.n0) r.number (ip.1 * size) flags 0 0
             body := ip.2, sent := if r.compress then [] else ip.2, stage := if r.compress then 0 else 2
             compress := r.compress, effort := fld z 22 20, huff := fld z 17 16
             due := m.recPorts, left := false, recordNo := r.number, again := [] } s
  let s := ((List.range ps.length).zip ps).foldl one s
  bobUpd b (fun x => { x with
    nextSeq := seqOf ps.length, firstOf := some df, changes := x.changes.filter (df ≤ ·)
    records := x.records.map fun y => if y.number = r.number then { y with unacked := (List.range ps.length).map seqOf } else y }) s

/-- Measurement words by position 0 to 7; a position that names none reads as undefined. -/
def byPosition (r : Record) (ms : List (Word × Bool)) : List Word :=
  let codes := (List.range 8).map fun k => fld (r.words.getD 6 0) (31 - 4 * k) (28 - 4 * k)
  (List.range 8).map fun k =>
    if codes.getD k 0 = 0 then 0x7FC00004#32
    else ((ms.map (·.1)).getD ((codes.take k).filter (· ≠ 0)).length 0x7FC00004#32)

/-- A record is complete (R298, R301, R351): its measurements are formed and it is queued, or, with REC_PORTS 0, its
slot is free at once; the supervisor is told (R409). -/
def completeRecord (b : Nat) (r : Record) (s : State) : State :=
  let rows := r.chans.map (s.recordRow r)
  let meas := (r.chans.zip rows).map fun c => (c.1, measures r c.2)
  let cfgSeq := pastAt s.cfg.seqPast s.cfg.seq r.trigger
  let calSeq := pastAt s.cal.seqPast s.cal.seq r.trigger
  let image := recordImage r (recordHeader b cfgSeq calSeq r rows meas (s.recordMarks r)) rows
  let s := bobUpd b (fun x => { x with
    latest := ((s.clk.loom, meas.map fun c => (c.1, byPosition r c.2)) :: x.latest).take 16
    records := x.records.map fun y => if y.number = r.number then { y with complete := true, samples := [] } else y }) s
  let s := shakeEvent 9 b s
  if s.cfg.active.recPorts.isEmpty then
    bobUpd b (fun x => { x with records := x.records.filter fun y => y.number ≠ r.number }) s
  else queueRecord b r image s

/-- RECORD_COMPLETE (R301): the last post-trigger sample has been formed. Records of a bobbin are queued in
record-number order (R351). -/
def execRecordComplete (t bob rec : Nat) (s : State) : Host.Outcome State Fault Refusal :=
  act t s fun s =>
    match (s.trd.bobs.get bob).records.find? fun r => !r.complete with
    | some r =>
      if bob < 8 ∧ r.number = rec ∧ s.formedAll (s.cfgAt (r.inst r.n1)) r.chans (r.inst r.n1) = true then completeRecord bob r s
      else s
    | none => s

/-- AUTO_TIMEOUT (R297, R298). -/
def execAutoTimeout (t bob : Nat) (s : State) : Host.Outcome State Fault Refusal :=
  act t s fun s =>
    let m := s.cfg.active
    let x := s.trd.bobs.get bob
    let ms := (m.bob bob 3).toNat
    if bob < 8 ∧ m.bobEn bob = true ∧ x.running = true ∧ ms ≠ 0 ∧ s.hub.state = .run ∧ s.hub.role ≠ .standby
        ∧ x.autoAt ms ≤ s.clk.loom then
      let trig := m.gridAt (m.bobGroup bob) (x.autoAt ms)
      let g : Trigger := { bob, seqr := 0xFF, inst := trig, trig, cause := trig, flags := 2, origin := s.hubIdOut }
      let (s, n) := startRecord m g s
      if n.isSome then s else bobUpd bob (fun x => { x with autoFrom := trig }) s
    else s

/-- REARM_END (R296): intervals that have passed are forgotten once every instant in them has been evaluated. -/
def execRearmEnd (t bob : Nat) (s : State) : Host.Outcome State Fault Refusal :=
  act t s fun s =>
    let evald := fun (e : Nat) => (List.range 4).all fun q =>
      let x := s.trd.seqs.get q
      !(x.armed && s.cfg.active.feeds q bob) || (match x.last with
        | some l => decide (e ≤ l)
        | none => false)
    bobUpd bob (fun x => { x with rearm := x.rearm.filter fun r => !(decide (r.2 < s.clk.loom) && evald r.2) }) s

end Sys2Proof.Machine
end

