-- ==== Sys2Proof/Machine/Drive.lean ====
section
/-! DEFINITION. Loop drivers, stimulus outputs and stimulus tables (R313 to R338). -/

namespace Sys2Proof.Machine

open Sys2Proof

def loopUpd (n : Nat) (f : Loop → Loop) (s : State) : State :=
  { s with drv := { s.drv with loops := s.drv.loops.upd n f } }
def stimUpd (p : Nat) (f : Stim → Stim) (s : State) : State :=
  { s with drv := { s.drv with stims := s.drv.stims.upd p f } }
def tableUpd (k : Nat) (f : Table → Table) (s : State) : State :=
  { s with drv := { s.drv with tables := s.drv.tables.upd k f } }

/-- The eight points of a table that lie in one codeword are read as NaN (R404). -/
def spoilPoint (k a : Nat) (s : State) : State :=
  tableUpd k (fun x => { x with
    points := ((List.range x.points.length).zip x.points).map fun ip => if ip.1 / 8 = a / 8 then 0x7FC00000#32 else ip.2 }) s

/-- The modulator clock of the grid of R119 that a loom time names. -/
def clockAt (t : Nat) : Nat := fineOf t / fineClock

/-- The latest instant at or before now of those that fall on every n-th modulator clock (R314, R324). -/
def State.lastEvery (s : State) (n : Nat) : Nat := loomOf (clockFine (fineOf s.clk.loom / fineClock / n * n))

/-! ### Tables -/

/-- The value of a table in force (R330): value, point index, passes done, ended. -/
structure Play where
  value : DWord
  point : Nat
  passes : Nat
  ended : Bool

/-- A table that started at modulator clock c0, at clock c (R330). -/
def playAt (m : PMem) (k : Nat) (points : List Word) (c0 c : Nat) : Play :=
  let period := fld (m.tableW k 1) 24 0
  let repeat_ := fld (m.tableW k 2) 15 0
  let n := points.length
  let at_ := fun (i : Nat) => f64Of32 (points.getD i 0)
  let j := (c - c0) / period
  let passes := j / n
  let i := j % n
  if repeat_ ≠ 0 ∧ repeat_ ≤ passes then { value := at_ (n - 1), point := n - 1, passes := repeat_, ended := true }
  else
    let next := if i + 1 < n then some (i + 1) else if repeat_ = 0 ∨ passes + 1 < repeat_ then some 0 else none
    let v := match next with
      | some q =>
        if bitAt (m.tableW k 0) 30 then
          f64Add (at_ i) (f64Mul (f64OfRat (((c - c0) % period : Nat) : Int) period) (f64Sub (at_ q) (at_ i)))
        else at_ i
      | none => at_ i
    { value := v, point := i, passes, ended := false }

/-! ### Loop drivers -/

/-- The latest sample of a channel that had been formed 10 us before an instant (R315, R324). -/
def State.sampleBefore (s : State) (ch u : Nat) : Option Sample :=
  (s.chan ch).recent.find? fun x =>
    decide (x.t + clocksLoom ((s.cfgAt x.t).lookL ch) + usLoom 10 ≤ u)

/-- The value of a slot (R315), or why it gives none: 1 a flag of QUAL (R317), 2 no value. -/
def State.loopValue (s : State) (m : PMem) (n sl u : Nat) : Nat × DWord :=
  let w := m.loopSlot n sl 0
  let kind := fld w 31 30
  let lin := fun (e : Word) => f64Add (f64Mul (f64Of32 (m.loopSlot n sl 1)) (f64Of32 e)) (f64Of32 (m.loopSlot n sl 2))
  if kind = 0 then (0, f64Of32 (m.loopSlot n sl 1))
  else if kind = 1 then
    match s.sampleBefore (fld w 7 0) u with
    | none => (2, 0)
    | some x => if (x.flags.toNat &&& fld w 15 8) != 0 then (1, 0) else (0, lin x.eng)
  else if kind = 2 then
    match (s.trd.bobs.get (fld w 23 21)).latest.find? fun r => decide (r.1 + usLoom 10 ≤ u) with
    | none => (2, 0)
    | some r => (0, lin (((r.2.lookup (fld w 7 0)).getD []).getD (fld w 20 18) 0x7FC00004#32))
  else
    let k := fld w 27 24
    let pts := (s.drv.tables.get k).points
    let held := (s.drv.loops.get n).held
    if s.hub.state = .service ∧ held.isSome = true then (0, held.getD 0)
    else if pts.isEmpty then (2, 0)
    else if s.hub.state = .run then
      (0, (playAt m k pts (clockAt ((s.drv.loops.get n).tableAt.getD u)) (clockAt u)).value)
    else (0, f64Of32 (pts.getD 0 0))

/-- Commanded current in 0.5 uA steps from a value (R316), with the clamps that it took. -/
def loopCurrent (m : PMem) (n kind : Nat) (v : DWord) : Nat × Nat :=
  let w := m.loopW n 0
  let span := bitAt w 28
  let (a, c) := if span then (curveInverse m 40 (fld w 23 20) 0 v).getD (v, false) else (v, false)
  let wide := !span && kind == 0
  let lo : Int := if wide then 36 else 38
  let hi : Int := if wide then 210 else 205
  let low := fLtRat (f64v a) lo 10000
  let high := fLtRat (fNegVal (f64v a)) (-hi) 10000
  let steps := if low then lo * 200 else if high then hi * 200 else roundEven ((fToRat (f64v a)).1 * 2000000) (fToRat (f64v a)).2
  (steps.toNat, b2n c + b2n (low || high))

/-- The fault level in steps (R319). -/
def faultLevel (m : PMem) (n : Nat) : Nat := if bitAt (m.loopW n 0) 30 then 42000 else 7200

/-- The fallback regulators may be armed (R319): a standby's are not, nor an active's while its partner reports itself
able (R440). -/
def State.mayArm (s : State) : Bool := s.hub.role != .standby && !s.yields

/-- The driver itself drives the loop (R97, R319, R322): in a state that does, on an active hub, its pod die on; after
a switch-over from t_T (R440). -/
def State.loopDriven (s : State) (n : Nat) : Bool :=
  bitAt (s.cfg.active.loopW n 0) 31 && s.drives && s.podOn n && s.pair.tT.all fun x => decide (x ≤ s.clk.loom)

/-- Selections at an update instant (R318): staged ones first, then the sequencers' in turn. -/
def applySelections (u : Nat) (run : Bool) (l : Loop) : Loop :=
  let due := l.waiting.filter fun x => decide (x.1 ≤ u)
  let bySeq := (List.range 4).flatMap fun q => (due.filter fun x => x.2.1 == q).map (·.2.2)
  let all := l.stagedSel ++ bySeq
  match all.getLast? with
  | none => if run && l.tableAt.isNone then { l with tableAt := some u } else l
  | some sel =>
    { l with
      sel, stagedSel := [], waiting := l.waiting.filter fun x => !(decide (x.1 ≤ u))
      conflicts := sat16 (l.conflicts + (all.length - 1)), tableAt := if run then some u else none, held := none }

/-- The driver takes a current for an update (R316, R317). -/
def driveLoop (m : PMem) (n : Nat) (v : Nat × DWord) (l : Loop) : Loop :=
  let kind := fld (m.loopSlot n l.sel 0) 31 30
  if v.1 = 1 then { l with holding := true, atFault := false }
  else if v.1 = 2 ∨ f64Finite v.2 = false then
    if bitAt (m.loopW n 0) 29 then { l with holding := true, atFault := false }
    else { l with current := faultLevel m n, holding := false, atFault := true }
  else
    let (a, c) := loopCurrent m n kind v.2
    { l with current := a, clamps := sat16 (l.clamps + c), holding := false, atFault := false }

/-- The hub writes a driver's fallback regulator (R319): the level always, the arm bit once the driver drives the
loop, and clears it where it may not be armed. -/
def writeLatch (n : Nat) (s : State) : State :=
  let w := s.cfg.active.loopW n 0
  loopUpd n (fun l => { l with latchHigh := bitAt w 30, armed := s.mayArm && (l.armed || s.loopDriven n) }) s

/-- Husks that do not match among those of a driver (R321): its commanded current, and the VALUE of each slot, each in
its place of block 0x0900. -/
def loopHusks (bad : List Nat) (n : Nat) : List Nat :=
  (if bad.contains n then [0x00010000 + n] else [])
    ++ ((List.range 4).map fun sl => 14 * n + 3 + 3 * sl).filter fun off => bad.contains (16 + off)

/-- One driver at an update instant (R314 to R322); while its die's ply link is lost it holds (R38). -/
def updateLoop (u : Nat) (bad : List Nat) (s : State) (n : Nat) : State :=
  let m := s.cfg.active
  if s.hub.state = .boot ∨ s.hub.inReset then s
  else if !(bitAt (m.loopW n 0) 31) then loopUpd n (fun l => { l with armed := false, waiting := [], stagedSel := [] }) s
  else if !(s.podOn n) ∨ !(s.linkUp (n / 4)) then s
  else
    let s := writeLatch n s
    let s := if stLive s.hub.state then loopUpd n (applySelections u (s.hub.state == .run)) s else s
    let wrong := if s.hub.state = .config then [] else loopHusks bad n
    if wrong ≠ [] then wrong.foldl (fun s off => huskMismatch 0x0900 off s) s
    else if s.hub.state = .fault then
      loopUpd n (fun l => if s.yields then { l with holding := true }
        else { l with current := faultLevel m n, holding := false }) s
    else if stLive s.hub.state then
      let sel := (s.drv.loops.get n).sel
      let v := s.loopValue m n sel u
      let stays := s.hub.state == .service && fld (m.loopSlot n sel 0) 31 30 == 3 && v.1 == 0
      loopUpd n (fun l => { driveLoop m n v l with held := if stays then some v.2 else l.held }) s
    else s

/-- LOOP_UPDATE (R314 to R322), once for each update instant: bad names the husks that do not match, driver n's
commanded current as n, a VALUE word as 16 + its offset in block 0x0900. -/
def execLoopUpdate (t : Nat) (bad : List Nat) (s : State) : Host.Outcome State Fault Refusal :=
  act t s fun s =>
    let u := s.lastEvery 2560
    if s.drv.updatedAt = some u then s
    else (List.range 16).foldl (updateLoop u bad) { s with drv := { s.drv with updatedAt := some u } }

/-- The current in a loop, in 0.5 uA steps (R319, R322): the commanded one where the driver drives, else the latched
fault level of an armed fallback regulator, else none. -/
def State.loopOut (s : State) (n : Nat) : Nat :=
  let l := s.drv.loops.get n
  if s.loopDriven n then l.current else if l.armed then (if l.latchHigh then 42000 else 7200) else 0

/-- Readback current of a driver in amperes (R313, R337). -/
def State.loopReadback (s : State) (n : Nat) : DWord :=
  f64Div (f64Of32 (s.conv.hk.get (n * 16 + 11))) (f64Of32 (s.cfg.active.loopW n 1))

/-- Commanded current in amperes. -/
def Loop.amps (l : Loop) : DWord := f64OfRat (l.current : Nat) 2000000

/-- A housekeeping round of a pod compares its loop's readback with the commanded current (R320). -/
def loopRound (s : State) (n : Nat) : State :=
  let l := s.drv.loops.get n
  if s.loopDriven n then
    let d := f64Abs (f64Sub (s.loopReadback n) l.amps)
    let off := !(f64Le d (f64OfRat 2 10000))
    let l' := { l with badRounds := if off then l.badRounds + 1 else 0, goodRounds := if off then 0 else l.goodRounds + 1 }
    if !l.openC && decide (2 ≤ l'.badRounds) then
      alarmNotice true 0x21 n 0 (alarmEvent 0x21 n 0 (loopUpd n (fun _ => { l' with openC := true }) s))
    else if l.openC && decide (2 ≤ l'.goodRounds) then
      alarmNotice false 0x21 n 0 (loopUpd n (fun _ => { l' with openC := false }) s)
    else loopUpd n (fun _ => l') s
  else s

/-- On entry to READY every driver's slot becomes INIT_SLOT (R318), and so does that of a driver whose words change;
the selections that still wait apply after it. -/
def initSlot (m : PMem) (s : State) (n : Nat) : State :=
  loopUpd n (fun l => { l with sel := fld (m.loopW n 0) 19 18, stagedSel := [], tableAt := none, held := none }) s

/-- On entry to SERVICE a table slot holds its point (R322). -/
def holdTables (at_ : Nat) (s : State) : State :=
  (List.range 16).foldl (fun (s : State) n =>
    let l := s.drv.loops.get n
    let v := s.loopValue s.cfg.active n l.sel at_
    if fld (s.cfg.active.loopSlot n l.sel 0) 31 30 = 3 ∧ v.1 = 0 then loopUpd n (fun l => { l with held := some v.2 }) s
    else s) s

/-! ### Stimulus outputs -/

def stimMode (w : Word) : Nat := fld w 31 30
def stimTbl (w : Word) : Bool := bitAt w 26
def stimTable (w : Word) : Nat := fld w 25 22

/-- The target of an output at a tick, with its state, point index and passes (R323, R330, R331): none while it
presents none. -/
def State.stimTarget (s : State) (m : PMem) (p u : Nat) : Option (DWord × Nat × Nat × Nat) :=
  let w := m.stimW p 0
  let x := s.drv.stims.get p
  if x.state = 3 ∨ x.state = 4 then some (x.held, x.state, x.point, x.passes)
  else if !(stimTbl w) then some (f64Of32 (m.stimW p 1), 1, 0, 0)
  else
    let pts := (s.drv.tables.get (stimTable w)).points
    if s.hub.state = .run ∧ x.state = 2 ∧ x.start ≤ u ∧ pts.isEmpty = false then
      let y := playAt m (stimTable w) pts (clockAt x.start) (clockAt u)
      some (y.value, if y.ended then 3 else 2, y.point, y.passes)
    else none

/-- The reference temperature of an output (R324), none where it is no number. -/
def State.stimTref (s : State) (m : PMem) (p u : Nat) : Option DWord :=
  let w := m.stimW p 0
  let v := if fld w 28 27 = 1 then (s.sampleBefore (fld (m.stimW p 5) 7 0) u).map (·.eng)
    else if fld w 28 27 = 2 then some (m.stimW p 4) else some 0
  match v with
  | some e => if f32Finite e then some (f64Of32 e) else none
  | none => none

/-- The input quantity of a target (R246, R248, R323), and whether it was clamped; to the ratio that a curve gives,
AUX is ZERO where it is not T_ref (log entry 103). -/
def State.stimQuantity (s : State) (m : PMem) (p u : Nat) (y : DWord) : Option (DWord × Bool) :=
  let w := m.stimW p 0
  let c := fld w 21 16
  let f := f64Div (f64Sub y (f64Of32 (m.stimW p 3))) (f64Of32 (m.stimW p 2))
  match (if 1 ≤ c ∧ c ≤ 8 then s.stimTref m p u else some 0) with
  | none => none
  | some tref =>
    match curveInverse m c (fld w 15 12) tref f with
    | some (x, k) => some (if stimMode w = 3 ∧ c ≠ 0 ∧ fld w 28 27 ≠ 2 then f64Add x (f64Of32 (m.stimW p 4)) else x, k)
    | none => none

/-- One step of the test DAC in volts (R139). -/
def dacStep : DWord := f64OfRat 24 65536

/-- A voltage limited to 12 V either way, and whether that changed it (R328). -/
def limitBy (lim v : DWord) : DWord × Bool :=
  if f64Lt lim v then (lim, true) else if f64Lt v (f64Neg lim) then (f64Neg lim, true) else (v, false)

/-- The DAC code of a voltage, and as the DAC has it. -/
def dacRaw (v : DWord) : Int := roundEven ((fToRat (f64v v)).1 * 65536) ((fToRat (f64v v)).2 * 24)
def dacCode (v : DWord) : Int := clampInt (-32768) 32767 (dacRaw v)

/-- A code no farther from 0 than another: a free value (R328, log entry 203). -/
def codeWithin (k : Nat) (c : Int) : Int :=
  let n : Int := ((Config.freeWord k).toNat % (c.natAbs + 1) : Nat)
  if c < 0 then -n else n

/-- The DAC has latched what was due (R325, R327). -/
def Stim.settle (now : Nat) (x : Stim) : Stim :=
  match x.next with
  | some (at_, code, output, current) => if at_ ≤ now then { x with code, output, current, next := none } else x
  | none => x

/-- The voltage that an output asks of its DAC (R324 to R327), with the quantity presented, the current measured and
whether a limit of the current was met: va and vb are the converters' readings in volts. -/
def stimVolts (m : PMem) (p : Nat) (x va vb : DWord) : DWord × DWord × DWord × Bool :=
  let w := m.stimW p 0
  if stimMode w = 1 then ((if bitAt w 29 then f64Mul x (f64OfInt 64) else x), x, 0, false)
  else if stimMode w = 2 then
    let r := f64Of32 (m.stimW p 4)
    let i := f64Div (f64Sub va vb) r
    let (il, k) := limitBy (f64OfRat 5 1000) i
    (f64Mul il (f64Sub x r), x, i, k)
  else (f64Mul x va, x, 0, false)

/-- An output runs (R98, R322, R323, R442): in READY or RUN, its DAC in use, on a hub that drives. -/
def State.stimRuns (s : State) (p : Nat) : Bool :=
  decide (stimMode (s.cfg.active.stimW p 0) ≠ 0) && s.runsDac && s.dacUsed p && (s.hub.state == .ready || s.hub.state == .run)

/-- One cycle of an output for tick u (R324 to R328), with the converters' codes of V_A and V_B: MODE 1 latches its
code at once, the others at u + 4 us, or as late readings come. A target that is no number leaves the DAC as it is and
counts as a clamp. -/
def stimCycle (u p : Nat) (a b : Int) (s : State) : State :=
  let m := s.cfg.active
  let w := m.stimW p 0
  match s.stimTarget m p u with
  | none => s
  | some (y, st, pt, ps) =>
    let put := fun (x : Stim) => { x with
      state := st, point := pt, passes := sat16 ps, target := f32Of64 y, held := if st = 3 then y else x.held }
    match (if f64Finite y then s.stimQuantity m p u y else none) with
    | none => stimUpd p (fun x => { put x with clamps := inc16 x.clamps }) s
    | some (q, k0) =>
      let (v, pres, i, k1) := stimVolts m p q (f64OfRat a 10000) (f64OfRat b 10000)
      let (v, k2) := limitBy (f64OfInt 12) v
      let k3 := (s.drv.stims.get p).heavy && stimMode w != 2
      let (k, s) := if k3 then nextFree s else (0, s)
      stimUpd p (fun x =>
        let x := x.settle s.clk.loom
        let t := if stimMode w = 1 then v else f64Add v x.residual
        let code := if k3 then codeWithin k (dacCode t) else dacCode t
        let level := f64Mul (f64OfInt code) dacStep
        let res := if stimMode w = 1 ∨ code ≠ dacRaw t then 0 else f64Sub t level
        let v := if k3 then level else v
        let shown := if stimMode w = 1 then (if bitAt w 29 then f64Div v (f64OfInt 64) else v) else pres
        Stim.settle s.clk.loom { put x with
          next := some (if stimMode w = 1 then u else u + usLoom 4, code, f32Of64 shown, f32Of64 i), residual := res
          clamps := if k0 || k1 || k2 || k3 then inc16 x.clamps else x.clamps, compliance := k1 || k2 || k3 }) s

/-- The buses that an emulation cycle reads (R323, R325, R327): that of the sense thread, in MODE 2 that of the output
thread too. -/
def PMem.stimBuses (m : PMem) (p : Nat) : List Nat :=
  let w := m.stimW p 0
  tapBus (m.thread p (fld w 11 6)) :: if stimMode w = 2 then [fld (m.word (0x0100 + p) 64) 30 28] else []

/-- An output is held from its hold instant on (R331), at the value in force there. -/
def holdStim (u : Nat) (s : State) (p : Nat) : State :=
  match (s.drv.stims.get p).holdAt with
  | none => s
  | some h =>
    if u < h then s
    else
      let v := s.stimTarget s.cfg.active p h
      stimUpd p (fun x => match v with
        | some (y, _, pt, ps) => { x with state := 4, held := y, point := pt, passes := sat16 ps, holdAt := none }
        | none => { x with holdAt := none }) s

/-- A tick of one output (R324, R325, R328, R331): MODE 1 latches at once; MODES 2 and 3 ask the converters of their
buses for a class 3 conversion, unless those of the tick before still wait. -/
def tickStim (u : Nat) (heavy : List Nat) (s : State) (p : Nat) : State :=
  let m := s.cfg.active
  let s := holdStim u s p
  if !(s.stimRuns p) then s
  else
    let s := stimUpd p (fun x => { x with heavy := heavy.contains p }) s
    if stimMode (m.stimW p 0) = 1 then stimCycle u p 0 0 s
    else
      let mine := fun (r : ScRequest) => r.cls == 3 && r.a == p
      let buses := m.stimBuses p
      let busy := buses.any fun sc => (s.conv.scs.get sc).queue.any mine || (s.conv.scs.get sc).running.any fun x => mine x.1
      if busy then s
      else
        ((List.range buses.length).zip buses).foldl
          (fun s isc => request isc.2 { cls := 3, ready := u, what := .other, a := p, b := isc.1 } s)
          (stimUpd p (fun x => { x with tick := u, reads := [] }) s)

/-- A codeword of a table's points is read (R402, R404): its index and bytes, the table, and a point that it holds. -/
def readPoints (s : State) (x : Nat × Bytes × Nat × Nat) : State :=
  let (good, s) := readCode (x.1, x.2.1) s
  if good then s else spoilPoint x.2.2.1 x.2.2.2 s

/-- STIMULUS_TICK (R322, R324 to R331), once for each tick: the codewords among the points it reads are checked first
(R404); an output whose thread would need more than 5 mA shows compliance in MODES 1 and 3 too (R328). -/
def execStimulusTick (t : Nat) (found : StimTick) (s : State) : Host.Outcome State Fault Refusal :=
  act t s fun s =>
    let u := s.lastEvery 512
    if s.drv.tickedAt = some u then s
    else
      let s := found.reads.foldl readPoints s
      (List.range 16).foldl (tickStim u found.heavy) { s with drv := { s.drv with tickedAt := some u } }

/-- A class 3 conversion of an output is done (R325, R327): with the last of its cycle the code is formed. -/
def stimRead (p k : Nat) (code : Int) (s : State) : State :=
  if !(s.stimRuns p) then s
  else
    let x := s.drv.stims.get p
    let reads := (k, code) :: x.reads
    let s := stimUpd p (fun x => { x with reads }) s
    if reads.length < (s.cfg.active.stimBuses p).length then s
    else stimCycle x.tick p ((reads.lookup 0).getD 0) ((reads.lookup 1).getD 0) s

/-- The level of a path test in steps of the DAC (R139, R140): ranges 2 to 4 through their dividers, by the lowest
slot's range. -/
def PathTest.dacLevel (p : PathTest) (m : PMem) : Int :=
  let r := slotRange (m.slot (16 * p.pod + (bitsOf 16 p.mask).headD 0))
  let l := p.levels.getD p.level 0
  if r = 1 ∨ r = 4 then roundEven l 4 else l

/-- Full scale of a range in steps of the DAC (R139), and the divider between them (R140). -/
def dacFull (range : Nat) : Nat := 32768 / 4 ^ range
def dacDivider (range : Nat) : Nat := if range = 2 then 16 else if 3 ≤ range then 64 else 1

/-- The level of a calibration run in steps of the DAC (R262): the pseudo-random levels of LINEARITY through the
divider of its range, at four offsets, or TRANSFER's two levels, 0.8 of the smaller full scale; the lowest slot counts
the samples (log entry 204). -/
def CalRun.dacLevel (r : CalRun) (m : PMem) : Int :=
  let slots := maskChans r.pod r.mask
  let n := (r.parts.get (slots.headD r.anchor)).seen / r.half
  let rg := runRange m r.kind r.range r.anchor (slots.headD r.anchor)
  if r.kind = 2 then
    let levels := r.count / r.half
    let pass := 4 * n / levels
    let k := (Config.calLevel (n - ceilDiv (pass * levels) 4)).toNat % 62259
    let x : Int := ((k + pass * 62259 / 4) % 62259 : Nat) - 31129
    roundEven (x * (dacFull rg * dacDivider rg : Nat)) 32768
  else
    let top := (slots.map fun ch => runRange m r.kind r.range r.anchor ch).foldl max (slotRange (m.slot r.anchor))
    let a := roundEven (8 * dacFull top : Nat) 10
    if n % 2 = 0 then a else -a

/-- The level of the test that drives a pod's DAC (R140, R262). -/
def State.testLevel (s : State) (pod : Nat) : Option Int :=
  s.liveJobs.findSome? fun j => match j.2.work with
    | .pathTest p => if p.pod = pod ∧ p.level < p.levels.length then some (p.dacLevel s.cfg.active) else none
    | .calRun r => if r.pod = pod ∧ (r.kind = 2 ∨ r.kind = 4) ∧ r.returned = false then some (r.dacLevel s.cfg.active) else none
    | _ => none

/-- The code of a pod's test DAC on its bus (R139, R140, R262, R322, R323): the level of a test, the level of its word
of block 0x0201, or what the output presents; 0 V while it is off its bus. -/
def State.dacOut (s : State) (pod : Nat) : Int :=
  match s.testLevel pod with
  | some l => l
  | none =>
    if s.dacOn pod = false then 0
    else if stimMode (s.cfg.active.stimW pod 0) = 0 then signedOf 16 (fld (s.cfg.active.word 0x0201 pod) 15 0)
    else ((s.drv.stims.get pod).settle s.clk.loom).code

/-- Every output stops (R322): SERVICE and FAULT put the DAC at 0 V, READY keeps fixed targets running. -/
def stopStims (dacZero : Bool) (s : State) : State :=
  { s with drv := { s.drv with stims := (List.range 16).foldl (fun (t : Tab Stim) p => t.upd p fun x =>
      let x := x.settle s.clk.loom
      { x with state := 0, start := 0, point := 0, passes := 0, compliance := false, held := 0, holdAt := none, next := none
               code := if dacZero then 0 else x.code, residual := if dacZero then 0 else x.residual }) s.drv.stims } }

/-- Emulation stops updating in SAFE (R322): what is not latched yet stays so. -/
def haltStims (s : State) : State :=
  { s with drv := { s.drv with stims := (List.range 16).foldl (fun (t : Tab Stim) p => t.upd p fun x =>
      { x.settle s.clk.loom with next := none }) s.drv.stims } }

/-- An output whose words change begins anew under them (R323): nothing of it is held. -/
def resetStims (old new : PMem) (s : State) : State :=
  ((List.range 16).filter fun p => (List.range 6).any fun o => old.stimW p o != new.stimW p o).foldl
    (fun s p => stimUpd p (fun x => { x.settle s.clk.loom with
      state := 0, start := 0, point := 0, passes := 0, compliance := false, held := 0, holdAt := none, next := none, residual := 0 }) s) s

/-- A table plays (R331, R333, R338): an output plays it, or it is that of a selected KIND 3 slot in RUN. -/
def State.outputPlays (s : State) (p : Nat) : Bool := stimTbl (s.cfg.active.stimW p 0) && (s.drv.stims.get p).state == 2
def State.tablePlays (s : State) (k : Nat) : Bool :=
  ((List.range 16).any fun p => s.outputPlays p && stimTable (s.cfg.active.stimW p 0) == k)
    || (s.hub.state == .run && (List.range 16).any fun n =>
      let w := s.cfg.active.loopSlot n (s.drv.loops.get n).sel 0
      bitAt (s.cfg.active.loopW n 0) 31 && fld w 31 30 == 3 && fld w 27 24 == k)

/-! ### Commands -/

/-- The state that LOOP_STATUS reports (R337): a loop that its fallback regulator holds is at its fault level (R319).
-/
def State.loopState (s : State) (n : Nat) : Nat :=
  let l := s.drv.loops.get n
  if !(s.loopDriven n) then (if l.armed then 2 else 0)
  else if (s.hub.state = .fault ∧ l.holding = false) ∨ l.atFault = true then 2
  else if l.openC then 4
  else if l.holding ∨ s.hub.state = .safe ∨ !(s.linkUp (n / 4)) then 3
  else 1

/-- LOOP_STATUS (R337, R338). -/
def execLoopStatus (t : Nat) (rq : Req) (s : State) : Host.Outcome State Fault Refusal :=
  runCmd { code := 0x0900, legal := stRead, standbyNo := false, len := lenIs 0 }
    (reading fun _ s => .done ((List.range 16).flatMap fun n =>
      let l := s.drv.loops.get n
      beBytes 1 l.sel ++ beBytes 1 (s.loopState n) ++ zeros 2 ++ beWord (f32Of64 l.amps)
        ++ beWord (f32Of64 (s.loopReadback n)) ++ beWord (s.conv.hk.get (n * 16 + 12)) ++ beBytes 2 l.clamps
        ++ beBytes 2 l.conflicts)) t rq s

/-- LOOP_SET (R337, R338, R500). -/
def execLoopSet (t : Nat) (rq : Req) (s : State) : Host.Outcome State Fault Refusal :=
  runCmd { code := 0x0901, legal := stLive, standbyNo := true, len := lenIs 12 }
    (fun rq s =>
      let n := beAt rq.payload 0 1
      let sl := beAt rq.payload 1 1
      match huskAt rq.payload 4 with
      | none => (.no 0x0401, s)
      | some v =>
        if beAt rq.payload 2 2 ≠ 0 then (.no 0x0302, s)
        else if n > 15 then (.noAt 0x0306 n, s)
        else if sl > 3 then (.noAt 0x0306 sl, s)
        else if !(bitAt (s.cfg.force.loopW n 0) 31) then (.noAt 0x020D n, s)
        else if fld (s.cfg.force.loopSlot n sl 0) 31 30 ≠ 0 then (.noAt 0x0301 n, s)
        else
          let s := acceptWords [(pkey 0x0900 (14 * n + 3 + 3 * sl), v)] rq s
          (.staged s.due (beBytes 4 s.cfg.seq), s)) t rq s

/-- LOOP_SELECT (R318, R337, R338). -/
def execLoopSelect (t : Nat) (rq : Req) (s : State) : Host.Outcome State Fault Refusal :=
  runCmd { code := 0x0902, legal := stLive, standbyNo := true, len := lenIs 2 }
    (fun rq s =>
      let n := beAt rq.payload 0 1
      let sl := beAt rq.payload 1 1
      if n > 15 then (.noAt 0x0306 n, s)
      else if sl > 3 then (.noAt 0x0306 sl, s)
      else if !(bitAt (s.cfg.force.loopW n 0) 31) then (.noAt 0x020D n, s)
      else (.staged s.due [], stage (.loopSelect n sl) rq s)) t rq s

/-- STIM_STATUS (R337, R338). -/
def execStimStatus (t : Nat) (rq : Req) (s : State) : Host.Outcome State Fault Refusal :=
  runCmd { code := 0x0903, legal := stRead, standbyNo := false, len := lenIs 2 }
    (reading fun rq s =>
      let p := beAt rq.payload 0 1
      let x := (s.drv.stims.get p).settle s.clk.loom
      let st := if stimMode (s.cfg.active.stimW p 0) = 0 then 0 else x.state
      if beAt rq.payload 1 1 ≠ 0 then .no 0x0302
      else if p > 15 then .noAt 0x0306 p
      else if s.podCut p then .noAt 0x0105 p
      else .done (beBytes 1 (if x.compliance && decide (st ≠ 0) then 5 else st)
        ++ beBytes 1 (stimTable (s.cfg.active.stimW p 0)) ++ zeros 2 ++ beBytes 4 x.point ++ beBytes 2 x.passes
        ++ beBytes 2 x.clamps ++ beWord x.target ++ beWord x.output ++ beWord x.current ++ beBytes 8 x.start)) t rq s

/-- Outputs start, or are to be held from a tick on, for a mask of pods (R331); one that is off does neither (R323). -/
def startStims (mask start : Nat) (s : State) : State :=
  ((bitsOf 16 mask).filter fun p => stimMode (s.cfg.active.stimW p 0) != 0).foldl (fun s p => stimUpd p (fun x => { x with
    state := 2, start, point := 0, passes := 0, compliance := false, holdAt := none }) s) s
def holdStims (mask hold : Nat) (s : State) : State :=
  ((bitsOf 16 mask).filter fun p => stimMode (s.cfg.active.stimW p 0) != 0).foldl
    (fun s p => stimUpd p (fun x => { x with holdAt := some hold }) s) s

/-- STIM_START (R331, R337, R338). -/
def execStimStart (t : Nat) (rq : Req) (s : State) : Host.Outcome State Fault Refusal :=
  runCmd { code := 0x0904, legal := stRun, standbyNo := true, len := lenIs 12 }
    (fun rq s =>
      let mask := beAt rq.payload 0 2
      let at_ := s.instant (beAt rq.payload 4 8)
      let m := s.cfg.active
      let ps := bitsOf 16 mask
      if beAt rq.payload 2 2 ≠ 0 then (.no 0x0302, s)
      else match ps.find? s.podCut with
      | some p => (.noAt 0x0105 p, s)
      | none =>
      match ps.find? fun p => !(stimTbl (m.stimW p 0)) || (s.drv.tables.get (stimTable (m.stimW p 0))).points.isEmpty with
        | some p => (.noAt 0x0210 p, s)
        | none =>
          if at_ < s.takenAt rq.mb + usLoom 2000 then (.no 0x0308, s)
          else match ps.find? s.outputPlays with
            | some p => (.noAt 0x0108 p, s)
            | none =>
              let start := tickFrom at_
              (.done (beBytes 8 start), sendDelta (.stimStart mask start) s.due (startStims mask start s))) t rq s

/-- STIM_STOP (R331, R337, R338). -/
def execStimStop (t : Nat) (rq : Req) (s : State) : Host.Outcome State Fault Refusal :=
  runCmd { code := 0x0905, legal := stRun, standbyNo := true, len := lenIs 2 }
    (fun rq s =>
      let mask := beAt rq.payload 0 2
      let hold := tickFrom (s.takenAt rq.mb + 1)
      match (bitsOf 16 mask).find? s.podCut with
      | some p => (.noAt 0x0105 p, s)
      | none => (.done (beBytes 8 hold), sendDelta (.stimStop mask hold) s.due (holdStims mask hold s))) t rq s

/-- The staging area holds another table's stream, or, for a compressed load, an image (R332, R338, R458). -/
def State.stagingOther (s : State) (k flags : Nat) : Bool :=
  match s.drv.stagingFor with
  | .free => false
  | .table j => j != k
  | .image => flags == 1

/-- What refuses a table load or its end (R332, R337, R338), but for offset and length. -/
def State.tableFault (s : State) (k flags : Nat) : Option Reply :=
  if flags > 1 then some (.no 0x0302)
  else if k > 15 then some (.noAt 0x0306 k)
  else if !(s.cfg.active.tableEn k) then some (.noAt 0x0210 k)
  else if s.tablePlays k || s.win.job.isSome || s.stagingOther k flags then some (.noAt 0x0108 k)
  else none

/-- The most bytes that a load may reach to (R332). -/
def State.loadLimit (s : State) (k flags : Nat) : Nat := if flags = 1 then 2 ^ 20 else s.cfg.active.tableSize k * 4

/-- STIM_LOAD (R329, R332, R337, R338). -/
def execStimLoad (t : Nat) (rq : Req) (s : State) : Host.Outcome State Fault Refusal :=
  runCmd { code := 0x0906, legal := stStage, standbyNo := true, len := lenIn 9 1000 }
    (fun rq s =>
      let k := beAt rq.payload 0 1
      let flags := beAt rq.payload 1 1
      let off := beAt rq.payload 4 4
      let data := rq.payload.drop 8
      if beAt rq.payload 2 2 ≠ 0 then (.no 0x0302, s)
      else match s.tableFault k flags with
        | some r => (r, s)
        | none =>
          if s.loadLimit k flags < off + data.length then (.noAt 0x0301 k, s)
          else if s.needsDomain [2] then (.no 0x0105, s)
          else
            let s := tableUpd k (fun x => { x with points := [], loading := true }) s
            (.done [], if flags = 1 then { s with drv := { s.drv with
                staging := s.drv.staging.setList off data, stagingFor := .table k
                stagingBad := s.drv.stagingBad && s.drv.stagingFor != .free && off != 0 } }
              else tableUpd k (fun x => { x with bytes := x.bytes.setList off data }) s)) t rq s

/-- The points that bytes spell (R329). -/
def pointsOf : Nat → Bytes → List Word
  | 0, _ => []
  | n + 1, b => BitVec.ofNat 32 (beNat (b.take 4)) :: pointsOf n (b.drop 4)

/-- A table's load ends with these bytes (R329, R332); check unit 4 runs over them (R395). -/
def fillTable (k : Nat) (b : Bytes) (s : State) : State :=
  unitHolds 4 (crc32Run 0xFFFFFFFF#32 b).toNat <| tableUpd k (fun x => { x with
    bytes := x.bytes.setList 0 b, points := pointsOf (b.length / 4) b, loading := false }) s

/-- STIM_TABLE_END (R332, R337, R338, R384). -/
def execStimTableEnd (t : Nat) (rq : Req) (s : State) : Host.Outcome State Fault Refusal :=
  runCmd { code := 0x0907, legal := stStage, standbyNo := true, len := lenIs 8 }
    (fun rq s =>
      let k := beAt rq.payload 0 1
      let flags := beAt rq.payload 1 1
      let n := beAt rq.payload 4 4
      if beAt rq.payload 2 2 ≠ 0 then (.no 0x0302, s)
      else match s.tableFault k flags with
        | some r => (r, s)
        | none =>
          if s.loadLimit k flags < n ∨ (flags = 0 ∧ n % 4 ≠ 0) then (.noAt 0x0301 k, s)
          else if s.needsDomain (if flags = 0 then [2] else [1, 2]) then (.no 0x0105, s)
          else if flags = 0 then
            let b := (s.drv.tables.get k).bytes.getList 0 n
            (.done (beBytes 4 (n / 4)), fillTable k b s)
          else match newJob 0x0907 0 (.tableLoad k n) s with
            | none => (.no 0x0502, s)
            | some (id, s) =>
              let s := tableUpd k (fun x => { x with points := [], loading := true }) s
              (.running id [], { s with
                win := { s.win with job := some id }, drv := { s.drv with stagingFor := .table k } })) t rq s

/-- Tables whose directory entry changes become empty (R329), and free the staging area. -/
def clearTables (old new : PMem) (s : State) : State :=
  (List.range 16).foldl (fun (s : State) k =>
    if (List.range 3).any fun i => old.tableW k i != new.tableW k i then
      let s := tableUpd k (fun x => { x with points := [], loading := false }) s
      if s.drv.stagingFor = .table k then { s with drv := { s.drv with stagingFor := .free } } else s
    else s) s

end Sys2Proof.Machine
end

