-- ==== Sys2Proof/Machine/Weft.lean ====
section
/-! DEFINITION. The host ports (R339 to R343, R361 to R364), acknowledgement and retransmission (R355 to R358), and the
Weft commands (R368, R369). -/

namespace Sys2Proof.Machine

open Sys2Proof

def portUpd (p : Nat) (f : HPort → HPort) (s : State) : State :=
  { s with weft := { s.weft with ports := s.weft.ports.upd p f } }

/-! ### Next hops -/

/-- A multicast or broadcast address needs no ARP (R341). -/
def noArp (ip : Nat) : Bool := decide (224 ≤ ip / 2 ^ 24)

/-- The next hop of a destination on a port (R341); none where there is no route. -/
def PMem.nextHop (m : PMem) (p ip : Nat) : Option Nat :=
  let mask := (m.portW p 2).toNat
  if (ip &&& mask) = ((m.portW p 1).toNat &&& mask) then some ip
  else if (m.portW p 3).toNat = 0 then none
  else some (m.portW p 3).toNat

/-- A frame for a destination can leave a port now. -/
def State.hopReady (s : State) (p ip : Nat) : Bool :=
  noArp ip || match s.cfg.active.nextHop p ip with
    | none => false
    | some h => (s.weft.ports.get p).arp.any fun a => a.ip == h && a.mac.isSome

/-- A next hop that the port has no entry for is asked for (R341): 64 entries, the oldest making room. -/
def arpAsk (p : Nat) (s : State) (ip : Nat) : State :=
  if noArp ip then s
  else match s.cfg.active.nextHop p ip with
    | none => s
    | some h =>
      if (s.weft.ports.get p).arp.any fun a => a.ip == h then s
      else portUpd p (fun x => { x with
        arp := ({ ip := h, mac := none, learnt := 0, requests := 1, asked := s.clk.loom } :: x.arp).take 64
        tc2 := x.tc2 ++ [.arp 1 0 h] }) s

/-- Destination of a flow's frames (R344, R351). -/
def PMem.flowIp (m : PMem) (flow : Nat) : Nat :=
  if flow < 16 then (m.streamW flow 1).toNat else (m.word 0x0A00 18).toNat

/-- Destination of a frame in a port's queue; none where no hop is needed. -/
def frameIp (m : PMem) : PortFrame → Option Nat
  | .udp ip _ _ _ => some ip
  | .notice _ => some (m.word 0x0A00 16).toNat
  | .icmp ip _ => some ip
  | .arp _ _ _ => none
  | .ptp _ _ _ => none

/-- A queued frame can leave. -/
def State.canLeave (s : State) (p : Nat) (f : PortFrame) : Bool :=
  match frameIp s.cfg.active f with
  | some ip => s.hopReady p ip
  | none => true

/-- Frames that wait for an unresolved address, as they turn up for it, are counted (R341): data frames, and those of
the port's queues. -/
def countWaits (p : Nat) (s : State) : State :=
  let m := s.cfg.active
  let h := s.weft.ports.get p
  let stuck := fun (ip : Nat) => !(noArp ip) && match m.nextHop p ip with
    | some x => h.arp.any fun a => a.ip == x && decide (3 < a.requests)
    | none => false
  let data := (s.weft.pool.filter fun f => (f.due.contains p || f.again.contains p) && stuck (m.flowIp f.flow)).map
    fun f => (f.flow, f.seq)
  let queued := (((h.tc0 ++ h.tc2).filterMap (frameIp m)).filter stuck).length
  let more := (data.filter fun x => !(h.waiting.contains x)).length + (queued - h.waitingQ)
  portUpd p (fun h => { h with arpWaits := sat32 (h.arpWaits + more), waiting := data, waitingQ := queued }) s

/-- Next hops of every frame that waits on a port are asked for. -/
def askHops (p : Nat) (s : State) : State :=
  let m := s.cfg.active
  let h := s.weft.ports.get p
  let data := (s.weft.pool.filter fun f => f.due.contains p || f.again.contains p).map fun f => m.flowIp f.flow
  countWaits p ((((h.tc0 ++ h.tc2).filterMap (frameIp m)) ++ data).foldl (arpAsk p) s)

/-! ### Transmission -/

/-- Time of a frame with n bytes of Ethernet payload on the wire, in ns (R361): preamble, header, tag, FCS and gap. -/
def wireNs (m : PMem) (p n : Nat) : Nat :=
  let bits := (max 46 n + 38 + (if bitAt (m.portW p 0) 28 then 4 else 0)) * 8
  if m.portMode p = 0 then ceilDiv bits 10 else bits

/-- Ethernet payload of a queued frame. -/
def payloadLen : PortFrame → Nat
  | .udp _ _ _ b => 28 + b.length
  | .notice b => 28 + b.length
  | .arp _ _ _ => 28
  | .icmp _ m => 24 + m.length
  | .ptp kind _ _ => 28 + if kind = 1 then 44 else 54

/-- Ones-complement sum of 16-bit words. -/
def onesSum : Nat → Bytes → Nat
  | 0, _ => 0
  | _, [] => 0
  | n + 1, b =>
    let v := beNat (b.take 2) * (if b.length = 1 then 256 else 1) + onesSum n (b.drop 2)
    v % 65536 + v / 65536

/-- A checksum over bytes that include it is valid. -/
def sumOk (b : Bytes) : Bool := onesSum b.length b == 0xFFFF

/-- A checksum that makes bytes with a field of zeros valid. -/
def checksum (b : Bytes) : Nat := 0xFFFF - onesSum b.length b

/-- The MAC address that a destination is reached at (R341): its multicast group's (RFC 1112), broadcast, or its next
hop's. -/
def State.macFor (s : State) (p ip : Nat) : Nat :=
  if ip = 0xFFFFFFFF then 0xFFFFFFFFFFFF
  else if noArp ip then 0x01005E000000 + ip % 2 ^ 23
  else match s.cfg.active.nextHop p ip with
    | none => 0
    | some h => (((s.weft.ports.get p).arp.find? fun a => a.ip == h && a.mac.isSome).bind (·.mac)).getD 0

/-- An Ethernet frame of a class (R342), but for its FCS: tagged with VLAN_ID and the class's priority where VLAN_EN
is 1. -/
def etherFrame (m : PMem) (p cls dst typ : Nat) (body : Bytes) : Bytes :=
  let w := m.portW p 4
  let tag := if bitAt (m.portW p 0) 28 then
      beBytes 2 0x8100 ++ beBytes 2 (fld w (15 - 3 * cls) (13 - 3 * cls) * 2 ^ 13 + fld w 27 16)
    else []
  beBytes 6 dst ++ beBytes 6 (macOf p) ++ tag ++ beBytes 2 typ ++ body

/-- An IPv4 datagram of the hub (R341): TTL 64, DSCP 0, DF set, identification 0. -/
def ipDatagram (m : PMem) (p proto dst : Nat) (body : Bytes) : Bytes :=
  let head := fun (sum : Nat) => beBytes 2 0x4500 ++ beBytes 2 (20 + body.length) ++ beBytes 4 0x4000 ++ [64#8] ++ beBytes 1 proto
    ++ beBytes 2 sum ++ beWord (m.portW p 1) ++ beBytes 4 dst
  head (checksum (head 0)) ++ body

/-- A UDP datagram of the hub, its checksum filled in (R341). -/
def udpDatagram (m : PMem) (p src dst udpPort : Nat) (body : Bytes) : Bytes :=
  let n := 8 + body.length
  let head := fun (sum : Nat) => beBytes 2 src ++ beBytes 2 udpPort ++ beBytes 2 n ++ beBytes 2 sum
  let sum := checksum (beWord (m.portW p 1) ++ beBytes 4 dst ++ beBytes 2 17 ++ beBytes 2 n ++ head 0 ++ body)
  ipDatagram m p 17 dst (head (if sum = 0 then 0xFFFF else sum) ++ body)

/-- The UDP port that Weft frames leave from (R341). -/
def weftPort : Nat := 47102

/-- PTP multicast addresses of R343: 224.0.1.129 and 224.0.0.107, and their MAC addresses. -/
def ptpIps : List Nat := [0xE0000181, 0xE000006B]
def ptpMacs : List Nat := [0x01005E000181, 0x01005E00006B]

/-- The balls H0_TXDIS and H1_TXDIS are high (R485). -/
def State.txDis (s : State) (p : Nat) : Bool :=
  s.hub.inReset || s.hub.state == .boot || !(s.domOn 3) || !(s.cfg.active.portEn p)

/-- A PTP message that a port sends (R343), of the kinds 1 Delay_Req, 2 Pdelay_Req, 3 one-step Pdelay_Resp, 4 two-step
Pdelay_Resp, 5 Pdelay_Resp_Follow_Up, laid out as IEEE 1588-2019 has it (PRESUMED, log entry 205); its correction and
its time-stamp are free values. -/
def State.ptpMessage (s : State) (p kind peer seqId : Nat) : Bytes :=
  let typ := if kind = 1 then 1 else if kind = 2 then 2 else if kind = 5 then 10 else 3
  let stamp := (List.range 5).map fun i => Config.freeWord (s.free + i)
  beBytes 1 typ ++ [0x12#8] ++ beBytes 2 (if kind = 1 then 44 else 54) ++ beBytes 1 (fld (s.cfg.active.portW p 6) 31 24) ++ zeros 1
    ++ beBytes 2 (if kind = 4 then 0x0200 else 0) ++ (stamp.take 2).flatMap beWord ++ zeros 4
    ++ beBytes 10 (Config.ptpIdentity p) ++ beBytes 2 seqId ++ [if kind = 1 then 1#8 else 5#8, 0x7F#8]
    ++ ((stamp.drop 2).flatMap beWord).take 10
    ++ (if kind = 1 then [] else if kind = 2 then zeros 10 else beBytes 10 peer)

/-- The Ethernet bytes of a queued frame (R340 to R343, R348). -/
def State.ether (s : State) (p cls : Nat) (f : PortFrame) : Bytes :=
  let m := s.cfg.active
  let ip := fun (dst : Nat) (d : Bytes) => etherFrame m p cls (s.macFor p dst) 0x0800 d
  match f with
  | .udp dst udpPort src b => ip dst (udpDatagram m p src dst udpPort b)
  | .notice b =>
    let dst := (m.word 0x0A00 16).toNat
    ip dst (udpDatagram m p weftPort dst (fld (m.word 0x0A00 17) 15 0) b)
  | .arp oper mac target =>
    etherFrame m p cls (if oper = 1 then 0xFFFFFFFFFFFF else mac) 0x0806
      (beBytes 2 1 ++ beBytes 2 0x0800 ++ beBytes 2 0x0604 ++ beBytes 2 oper ++ beBytes 6 (macOf p) ++ beWord (m.portW p 1)
        ++ beBytes 6 mac ++ beBytes 4 target)
  | .icmp dst msg =>
    let body := fun (sum : Nat) => beBytes 2 0 ++ beBytes 2 sum ++ msg
    ip dst (ipDatagram m p 1 dst (body (checksum (body 0))))
  | .ptp kind peer seqId =>
    let udp := if kind = 5 then 320 else 319
    let dst := if kind = 1 then 0xE0000181 else 0xE000006B
    ip dst (udpDatagram m p udp dst udp (s.ptpMessage p kind peer seqId))

/-- The Ethernet bytes of a data frame (R344, R348, R351). -/
def State.dataEther (s : State) (p cls flow : Nat) (b : Bytes) : Bytes :=
  let m := s.cfg.active
  let dst := m.flowIp flow
  let udpPort := if flow < 16 then fld (m.streamW flow 2) 15 0 else fld (m.word 0x0A00 19) 15 0
  etherFrame m p cls (s.macFor p dst) 0x0800 (udpDatagram m p weftPort dst udpPort b)

/-- A queued frame leaves in its class. -/
def sendQueued (p cls : Nat) (f : PortFrame) (s : State) : State :=
  let ns := wireNs s.cfg.active p (payloadLen f)
  let stamps := match f with
    | .ptp _ _ _ => 5
    | _ => 0
  emit (.frame s.clk.loom p cls f (s.ether p cls f)) (portUpd p (fun h => { h with
    sent := inc32 h.sent, tc0Sent := if cls = 0 then inc32 h.tc0Sent else h.tc0Sent
    busyUntil := s.clk.loom + nsLoom ns, onWire := none }) { s with free := s.free + stamps })

/-- Note the last number sent of a flow. -/
def noteSent (flow seq : Nat) (s : State) : State :=
  let newest := fun (l : Option Nat) => match l with
    | some x => if newer32 seq x then some seq else some x
    | none => some seq
  if flow < 16 then streamUpd flow (fun x => { x with lastSent := newest x.lastSent }) s
  else bobUpd (flow - 0x100) (fun x => { x with lastSent := newest x.lastSent }) s

/-- A data frame leaves (R357, R358, R372): first transmissions skip ports that are down while this one is up. -/
def sendData (p : Nat) (f : WFrame) (again : Bool) (s : State) : State :=
  let bytes := f.wire again
  let ns := wireNs s.cfg.active p (28 + bytes.length)
  let keep := fun (l : List Nat) => l.filter fun q => q != p && s.portUp q
  let s' := portUpd p (fun h => { h with
    sent := inc32 h.sent, busyUntil := s.clk.loom + nsLoom ns, onWire := some (f.flow, f.seq)
    tc3Times := if again then (s.clk.loom, ns) :: h.tc3Times else h.tc3Times }) s
  let s' := frameUpd f.flow f.seq (fun f =>
    if again then { f with again := keep f.again } else { f with due := keep f.due, left := true }) s'
  let s' := if again then
      (if f.flow < 16 then streamUpd f.flow (fun x => { x with retx := inc32 x.retx }) s'
       else bobUpd (f.flow - 0x100) (fun x => { x with retx := inc32 x.retx }) s')
    else noteSent f.flow f.seq s'
  let cls := if again then 3 else 1
  emit (.data s.clk.loom p cls f.flow f.seq bytes (s.dataEther p cls f.flow bytes)) s'

/-- Remove the first frame of a queue that can leave. -/
def takeFrom (ok : PortFrame → Bool) : List PortFrame → Option (PortFrame × List PortFrame)
  | [] => none
  | f :: r =>
    if ok f then some (f, r)
    else match takeFrom ok r with
      | some (g, q) => some (g, f :: q)
      | none => none

/-- The instant by which a data frame belongs to one hub or the other: a frame's first instant, a record's trigger
instant (R442). -/
def State.sideInstant (s : State) (f : WFrame) : Nat :=
  if f.flow < 16 then f.first
  else match (s.trd.bobs.get (f.flow - 0x100)).records.find? fun r => r.number == f.recordNo with
    | some r => r.trigger
    | none => f.first

/-- This hub sends a data frame (R432, R442): an active hub does; around a make-before-break switch frames, and records
by their trigger, go by their side of the boundary. -/
def State.sendsFrame (s : State) (f : WFrame) : Bool :=
  match s.pair.switching with
  | .mbb b incoming => if incoming then decide (beatTime b ≤ s.sideInstant f) else decide (s.sideInstant f < beatTime b)
  | _ => s.hub.role != .standby || (match s.pair.sendBefore with
    | some e => decide (s.sideInstant f < e)
    | none => false)

/-- Of the frames that may be sent again, the one that WEFT_RESEND queued first (R358, R362). -/
def firstAgain (l : List WFrame) : Option WFrame :=
  l.foldl (fun (b : Option WFrame) f => match b with
    | some x => if f.turn < x.turn then some f else b
    | none => some f) none

/-- TC3 has had less than a tenth of a port's last millisecond (R362). -/
def HPort.short (h : HPort) (now : Nat) : Bool :=
  let part := fun (x : Nat × Nat) => min now (x.1 + nsLoom x.2) - max x.1 (now - usLoom 1000)
  decide (10 * (h.tc3Times.map part).sum < usLoom 1000)

/-- PORT_TRANSMIT (R361, R362, R410): unless the crossing to HCLK holds, the next frame of the highest class that has
one, TC3 before TC1 while it has had less than a tenth of the last millisecond. A standby sends TC2 and PTP frames
only (R432). -/
def execPortTransmit (t port : Nat) (s : State) : Host.Outcome State Fault Refusal :=
  act t s fun s =>
    if port > 1 ∨ s.portUp port = false ∨ s.clk.loom < (s.weft.ports.get port).busyUntil ∨ s.hub.inReset = true
        ∨ (s.itg.crossings.get 5).holds = true then s
    else
      let s := portUpd port (fun h => { h with
        tc3Times := h.tc3Times.filter fun x => decide (s.clk.loom < x.1 + nsLoom x.2 + usLoom 1000) }) (askHops port (sweepWire s))
      let h := s.weft.ports.get port
      let active := s.hub.role != .standby
      let isPtp := fun (f : PortFrame) => match f with
        | .ptp _ _ _ => true
        | _ => false
      match takeFrom (fun f => s.canLeave port f && (active || isPtp f)) h.tc0, takeFrom (s.canLeave port) h.tc2 with
      | some (f, r), _ => sendQueued port 0 f (portUpd port (fun h => { h with tc0 := r }) s)
      | none, some (f, r) => sendQueued port 2 f (portUpd port (fun h => { h with tc2 := r }) s)
      | none, none =>
          let ready := fun (f : WFrame) => f.stage == 2 && s.sendsFrame f && s.hopReady port (s.cfg.active.flowIp f.flow)
          let first := s.weft.pool.find? fun f => ready f && f.due.contains port
          let again := firstAgain (s.weft.pool.filter fun f => ready f && f.again.contains port)
          match first, again with
          | some f, none => sendData port f false s
          | none, some g => sendData port g true s
          | some f, some g => if h.short s.clk.loom then sendData port g true s else sendData port f false s
          | none, none => s

/-- Loom time at which a port's shaper gains its next token (R363). -/
def State.tokenDue (s : State) (p : Nat) : Nat :=
  (s.weft.ports.get p).tokenAt + ceilDiv (2 ^ 32) (fld (s.cfg.active.portW p 5) 19 0)

/-- TC0_TOKEN (R363, R364): the shaper, TC0_RATE times a second until it is full, gains a token, and what waited for
it is formed, notices before PTP messages. -/
def execTc0Token (t port : Nat) (s : State) : Host.Outcome State Fault Refusal :=
  act t s fun s =>
    if port > 1 ∨ (s.weft.ports.get port).tokensUsed = 0 ∨ s.clk.loom < s.tokenDue port then s
    else
      let due := s.tokenDue port
      let s := portUpd port (fun h => { h with tokensUsed := h.tokensUsed - 1, tokenAt := due }) s
      let s := formNotice true port s
      let h := s.weft.ports.get port
      match h.ptpWait with
      | f :: r =>
        if h.tokensUsed < 4 then
          portUpd port (fun h => { h.useToken s.clk.loom with
            ptpWait := r, tc0 := h.tc0 ++ [f], tc0Late := inc32 h.tc0Late }) s
        else s
      | [] => s

/-- A PTP message enters TC0, or waits for a token (R363). -/
def sendPtp (p : Nat) (f : PortFrame) (s : State) : State :=
  portUpd p (fun h =>
    if h.tokensUsed < 4 then { h.useToken s.clk.loom with tc0 := h.tc0 ++ [f] }
    else { h with ptpWait := h.ptpWait ++ [f] }) s

/-! ### Ports, ARP, ICMP -/

/-- The ports of a flow (R344, R351). -/
def PMem.flowPorts (m : PMem) (flow : Nat) : List Nat := if flow < 16 then m.streamPorts flow else m.recPorts

/-- A frame that has left one of its ports does not wait for another that is down while one is up (R357, R358). -/
def skipPorts (s : State) : State :=
  let one := fun (f : WFrame) =>
    let ports := s.cfg.active.flowPorts f.flow
    if ports.any s.portUp then
      { f with
        due := if f.left then f.due.filter s.portUp else f.due
        again := if f.again.length < ports.length then f.again.filter s.portUp else f.again }
    else f
  { s with weft := { s.weft with pool := s.weft.pool.map one } }

/-- A port's link is gone (R339, R363): its notices are passed over. -/
def portDown (port : Nat) (s : State) : State :=
  let notNotice := fun (f : PortFrame) => match f with
    | .notice _ => false
    | _ => true
  skipPorts (portUpd port (fun h => { h with
    link := false, noticeFrom := s.weft.nextNotice, tc0 := h.tc0.filter notNotice }) s)

/-- A port comes up (R339, R341): counted, and its address is announced by one gratuitous ARP. -/
def portRises (port : Nat) (s : State) : State :=
  skipPorts (portUpd port (fun h => { h with
    linkUps := inc16 h.linkUps, noticeFrom := s.weft.nextNotice
    tc2 := h.tc2 ++ [.arp 1 0 (s.cfg.active.portW port 1).toNat] }) s)

/-- PORT_LINK_CHANGE (R339, R363). -/
def execPortLinkChange (t port : Nat) (up : Bool) (s : State) : Host.Outcome State Fault Refusal :=
  act t s fun s =>
    if port > 1 ∨ (s.weft.ports.get port).link = up ∨ (up = true ∧ s.domOn 3 = false) then s
    else if up then
      let s := portUpd port (fun h => { h with link := true }) s
      if s.cfg.active.portEn port then portRises port s else s
    else portDown port s

/-- A port whose EN changes at a boundary comes up or goes down with it (R339). -/
def portEnabled (old new : PMem) (s : State) (port : Nat) : State :=
  if old.portEn port = new.portEn port ∨ (s.weft.ports.get port).link = false then s
  else if new.portEn port then portRises port s
  else portUpd port (fun h => { h with link := true }) (portDown port s)

/-- ARP_REQUEST (R341). -/
def execArpRequest (t port senderMac senderIp targetIp : Nat) (s : State) : Host.Outcome State Fault Refusal :=
  received t port (.arpRequest t port senderMac senderIp targetIp) s fun s =>
    if s.portUp port ∧ targetIp = (s.cfg.active.portW port 1).toNat then
      portUpd port (fun h => { h with tc2 := h.tc2 ++ [.arp 2 senderMac senderIp] }) s
    else s

/-- ARP_REFRESH (R341): an entry learnt 60 s ago is asked for again. -/
def execArpRefresh (t port ip : Nat) (s : State) : Host.Outcome State Fault Refusal :=
  act t s fun s =>
    let old := fun (a : Arp) => a.ip == ip && a.mac.isSome && a.requests == 0 && decide (a.learnt + secLoom 60 ≤ s.clk.loom)
    if s.portUp port ∧ (s.weft.ports.get port).arp.any old = true then
      let one := fun (a : Arp) => if old a then { a with requests := 1, asked := s.clk.loom } else a
      portUpd port (fun h => { h with arp := h.arp.map one, tc2 := h.tc2 ++ [.arp 1 0 ip] }) s
    else s

/-- ARP_RETRY (R341): asked again 1 s after the last request; after three requests the address is unresolved, and its
frames wait. -/
def execArpRetry (t port ip : Nat) (s : State) : Host.Outcome State Fault Refusal :=
  act t s fun s =>
    match (s.weft.ports.get port).arp.find? fun a => a.ip == ip with
    | none => s
    | some a =>
      let put := fun (b : Arp) => portUpd port (fun h => { h with arp := h.arp.map fun x => if x.ip = ip then b else x })
      if a.requests = 0 ∨ 3 < a.requests ∨ s.clk.loom < a.asked + secLoom 1 ∨ s.portUp port = false then s
      else if a.requests < 3 then
        portUpd port (fun h => { h with tc2 := h.tc2 ++ [.arp 1 0 ip] })
          (put { a with requests := a.requests + 1, asked := s.clk.loom } s)
      else countWaits port (put { a with mac := none, requests := 4 } s)

/-- An ARP reply resolves an address that was asked for (R341). -/
def arpLearn (port ip mac : Nat) (s : State) : State :=
  let one := fun (a : Arp) => if a.ip = ip then { a with mac := some mac, learnt := s.clk.loom, requests := 0 } else a
  portUpd port (fun h => { h with arp := h.arp.map one }) s

/-- ICMP_ECHO_REQUEST (R341): msg is the request after its type, code and checksum, an identifier, a number and data,
which the answer returns; at most 100 a second and 1,472 bytes of data. -/
def execIcmpEchoRequest (t port srcIp : Nat) (msg : Bytes) (s : State) : Host.Outcome State Fault Refusal :=
  received t port (.icmpEchoRequest t port srcIp msg) s fun s =>
    if s.portUp port then
      portUpd port (fun h =>
        let times := h.icmpTimes.filter fun x => decide (s.clk.loom < x + secLoom 1)
        if msg.length ≤ 1476 ∧ times.length < 100 then
          { h with icmpTimes := s.clk.loom :: times, icmpAnswered := inc32 h.icmpAnswered, tc2 := h.tc2 ++ [.icmp srcIp msg] }
        else { h with icmpTimes := times, icmpDiscards := inc32 h.icmpDiscards }) s
    else s

/-- The IPv4 and protocol layers of R340. -/
def ipOk (m : PMem) (p : Nat) (b : Bytes) : Bool :=
  let ptp := bitAt (m.portW p 0) 27
  let dst := beAt b 16 4
  let seg := slice b 20 (beAt b 2 2 - 20)
  let udp := beAt seg 2 2
  let pseudo := slice b 12 8 ++ [0x00#8, 0x11#8] ++ beBytes 2 seg.length
  decide (20 ≤ b.length) && beAt b 0 1 == 0x45 && sumOk (b.take 20) && beAt b 6 2 % 0x4000 == 0
    && (dst == (m.portW p 1).toNat || (ptp && ptpIps.contains dst))
    && (if beAt b 9 1 = 1 then beAt seg 0 2 == 0x0800
        else beAt b 9 1 == 17 && (udp == 47100 || udp == 47101 || (ptp && (udp == 319 || udp == 320)))
          && (beAt seg 6 2 == 0 || sumOk (pseudo ++ seg)))

/-- A received frame passes every test of R340; an ARP payload comes out with it. -/
def frameOk (m : PMem) (p : Nat) (f : Bytes) : Bool × Option Bytes :=
  let dst := beAt f 0 6
  let tagged := beAt f 12 2 == 0x8100
  let vid := beAt f 14 2 % 4096
  let typ := beAt f (if tagged then 16 else 12) 2
  let body := f.drop (if tagged then 18 else 14)
  let vlan := bitAt (m.portW p 0) 28
  let tagOk := if vlan then tagged && (vid == fld (m.portW p 4) 27 16 || vid == 0) else !tagged || vid == 0
  let macOk := dst == macOf p || dst == 0xFFFFFFFFFFFF || ptpMacs.contains dst
  if !(macOk && tagOk) then (false, none)
  else if typ = 0x0806 then (true, some body)
  else (typ == 0x0800 && ipOk m p body, none)

/-- HOST_FRAME_RECEIVED (R339 to R341): checked, counted, discarded where it fails. What an accepted frame brings is
the matter of its own command; an ARP reply resolves its address here. -/
def execHostFrameReceived (t port : Nat) (frame : Bytes) (fcsOk : Bool) (s : State) : Host.Outcome State Fault Refusal :=
  received t port (.hostFrameReceived t port frame fcsOk) s fun s =>
    if port > 1 ∨ s.portUp port = false then s
    else
      let s := portUpd port (fun h => { h with received := inc32 h.received }) s
      let (ok, arp) := frameOk s.cfg.active port frame
      if fcsOk ∧ beAt frame 12 2 = 0x8808 then portUpd port (fun h => { h with pauses := inc32 h.pauses }) s
      else if !(fcsOk && ok) then portUpd port (fun h => { h with discarded := inc32 h.discarded }) s
      else match arp with
        | some b => if beAt b 6 2 = 2 then arpLearn port (beAt b 14 4) (beAt b 8 6) s else s
        | none => s

/-! ### PTP -/

/-- PTP_ANNOUNCE (R343): the best data set heard stays, and its own source refreshes it. -/
def execPtpAnnounce (t port : Nat) (m : PtpAnnounce) (s : State) : Host.Outcome State Fault Refusal :=
  received t port (.ptpAnnounce t port m) s fun s =>
    if s.ptpOn port ∧ m.domain = fld (s.cfg.active.portW port 6) 31 24 then
      portUpd port (fun h =>
        let take := match h.announce with
          | none => true
          | some a => a.source == m.source || ptpBetter m a
        if take then { h with announce := some m } else h) s
    else s

/-- PTP_SYNC (R225, R343): TS_CORR corrects the time-stamps; only the port that hears the best master feeds the servo.
-/
def execPtpSync (t port : Nat) (m : PtpSync) (s : State) : Host.Outcome State Fault Refusal :=
  received t port (.ptpSync t port m) s fun s =>
    if s.ptpOn port ∧ m.domain = fld (s.cfg.active.portW port 6) 31 24 ∧ -7 ≤ m.logInterval ∧ m.logInterval ≤ 0 then
      let theta := m.offsetPs + signedOf 32 (s.cfg.active.portW port 7).toNat
      let s := portUpd port (fun h => { h with
        syncs := inc32 h.syncs, meanPath := m.meanPathPs, ptpOffset := theta, logSync := m.logInterval
        logDelay := m.logDelayReq }) s
      let own := match (s.weft.ports.get port).announce with
        | some a => a.source == m.source
        | none => false
      let src := s.cfg.active.timeSrc
      if s.ptpBest = some port ∧ own = true ∧ (src = 1 ∨ (src = 3 ∧ s.warp.lost = true)) then servo theta 1 s else s
    else s

/-- PDELAY_REQ (R343): answered one-step or two-step. Message kinds: 1 Delay_Req, 2 Pdelay_Req, 3 one-step Pdelay_Resp,
4 two-step Pdelay_Resp, 5 Pdelay_Resp_Follow_Up. -/
def execPdelayReq (t port srcId seqId domain : Nat) (s : State) : Host.Outcome State Fault Refusal :=
  received t port (.pdelayReq t port srcId seqId domain) s fun s =>
    let w := s.cfg.active.portW port 0
    if s.ptpOn port ∧ bitAt w 26 = true ∧ domain = fld (s.cfg.active.portW port 6) 31 24 then
      if bitAt w 25 then sendPtp port (.ptp 5 srcId seqId) (sendPtp port (.ptp 4 srcId seqId) s)
      else sendPtp port (.ptp 3 srcId seqId) s
    else s

/-- The interval of the delay requests of a port (R343): once per second under P2P, else the master's
logMinDelayReqInterval. -/
def State.delayEvery (s : State) (p : Nat) : Nat :=
  let l := (s.weft.ports.get p).logDelay
  if bitAt (s.cfg.active.portW p 0) 26 then secLoom 1
  else if 0 ≤ l then secLoom (2 ^ l.toNat) else secLoom 1 / 2 ^ (-l).toNat

/-- PTP_DELAY_REQ_SEND (R343): a Delay_Req to the master under E2E, a Pdelay_Req under P2P, at its interval. -/
def execPtpDelayReqSend (t port : Nat) (s : State) : Host.Outcome State Fault Refusal :=
  act t s fun s =>
    let h := s.weft.ports.get port
    let due := match h.delayAt with
      | some a => decide (a + s.delayEvery port ≤ s.clk.loom)
      | none => true
    if s.ptpOn port ∧ due = true then
      let next := portUpd port (fun h => { h with ptpSeq := (h.ptpSeq + 1) % 65536, delayAt := some s.clk.loom }) s
      if bitAt (s.cfg.active.portW port 0) 26 then sendPtp port (.ptp 2 0 h.ptpSeq) next
      else match h.announce with
        | some a => sendPtp port (.ptp 1 a.source h.ptpSeq) next
        | none => s
    else s

/-! ### Acknowledgement -/

/-- Forget retained frames that need no notice: acknowledged ones (R356, R358, R432). -/
def forgetFrames (sel : WFrame → Bool) (s : State) : State :=
  let gone := fun (fl q : Nat) => s.weft.pool.any fun f => f.flow == fl && f.seq == q && sel f
  let dropCur := match s.win.current with
    | some c => gone c.1 c.2.1
    | none => false
  fillAlarms (dropFrames sel { s with win := { s.win with
    queue := s.win.queue.filter fun x => !(gone x.1 x.2)
    current := if dropCur then none else s.win.current, stalled := s.win.stalled && !dropCur
    acc := if dropCur then [] else s.win.acc, outQueue := if dropCur then [] else s.win.outQueue } })

/-- a acknowledges b (R356). -/
def ackCovers (a b : Nat) : Bool := decide (diff32 a b < 2 ^ 31)

/-- Every frame of a flow up to a number is acknowledged (R351, R356): a record slot whose frames are all acknowledged
is free. -/
def ackFlow (flow a : Nat) (s : State) : State :=
  let now := s.clk.loom
  let newest := fun (l : Option Nat) => match l with
    | some x => if newer32 a x then some a else some x
    | none => some a
  let s := forgetFrames (fun f => f.flow == flow && ackCovers a f.seq) s
  if flow < 16 then streamUpd flow (fun x => { x with newestAck := newest x.newestAck, ackTime := now }) s
  else
    let clear := fun (r : Record) => { r with unacked := r.unacked.filter fun q => !(ackCovers a q) }
    let kept := fun (r : Record) => !(r.complete && r.unacked.isEmpty)
    bobUpd (flow - 0x100) (fun x => { x with
      newestAck := newest x.newestAck, ackTime := now, records := (x.records.map clear).filter kept }) s

/-- The last number sent of a flow since BOOT. -/
def State.lastSent (s : State) (flow : Nat) : Option Nat :=
  if flow < 16 then (s.weft.streams.get flow).lastSent
  else if 0x100 ≤ flow ∧ flow < 0x108 then (s.trd.bobs.get (flow - 0x100)).lastSent else none

/-- One entry of an acknowledgement (R356). -/
def ackEntry (port : Nat) (s : State) (e : Nat × Nat) : State :=
  let ignored := portUpd port (fun h => { h with ackIgnored := inc32 h.ackIgnored }) s
  match s.lastSent e.1 with
  | none => ignored
  | some l => if newer32 e.2 l then ignored else ackFlow e.1 e.2 s

/-- ACKNOWLEDGEMENT (R355, R356). -/
def execAcknowledgement (t port : Nat) (msg : Bytes) (s : State) : Host.Outcome State Fault Refusal :=
  received t port (.acknowledgement t port msg) s fun s =>
    if s.portUp port = false ∨ s.hub.inReset then s else
    let k := beAt msg 3 1
    let hub := beAt msg 4 2
    let s := unitChecks 1 msg (if crcPasses msg then s else unitMismatch 1 s)
    if msg.length = 12 + 8 * k ∧ 1 ≤ k ∧ k ≤ 62 ∧ beAt msg 0 2 = 0x5741 ∧ beAt msg 2 1 = 1
        ∧ (hub = 0xFFFF ∨ some hub = s.hub.hubId ∨ (s.paired = true ∧ hub = s.cfg.active.pairId)) ∧ crcPasses msg = true then
      ((List.range k).map fun i => (beAt msg (8 + 8 * i) 2, beAt msg (12 + 8 * i) 4)).foldl (ackEntry port) s
    else portUpd port (fun h => { h with ackDiscards := inc32 h.ackDiscards }) s

/-! ### Commands -/

/-- PORT_STATUS (R368). -/
def execPortStatus (t : Nat) (rq : Req) (s : State) : Host.Outcome State Fault Refusal :=
  runCmd { code := 0x0A00, legal := stRead, standbyNo := false, len := lenIs 2 }
    (fun rq s =>
      let p := beAt rq.payload 0 1
      let clear := beAt rq.payload 1 1
      let m := s.cfg.active
      let h := s.weft.ports.get p
      if clear > 1 then (.no 0x0301, s)
      else if p > 1 then (.noAt 0x0306 p, s)
      else
        (.done (beBytes 1 (if !(m.portEn p) then 0 else if h.link then 2 else 1) ++ beBytes 1 (m.portMode p) ++ zeros 2
          ++ beWord (m.portW p 1) ++ beBytes 2 h.linkUps ++ zeros 2
          ++ [h.sent, h.received, h.discarded, h.pauses, h.ackDiscards, h.ackIgnored, h.arpWaits, h.icmpAnswered,
              h.icmpDiscards, h.tc0Sent, h.tc0Late].flatMap (beBytes 4)),
          if clear = 1 then portUpd p (fun h => { h with
            linkUps := 0, sent := 0, received := 0, discarded := 0, pauses := 0, ackDiscards := 0, ackIgnored := 0
            arpWaits := 0, icmpAnswered := 0, icmpDiscards := 0, tc0Sent := 0, tc0Late := 0 }) s
          else s)) t rq s

/-- A flow that commands may name (R368). -/
def flowOk (f : Nat) : Bool := decide (f < 16) || (decide (0x100 ≤ f) && decide (f < 0x108))

/-- A flow is enabled, forms frames, and its ports (R368). -/
def State.flowState (s : State) (flow : Nat) : Nat :=
  if flow < 16 then (if !(s.cfg.active.streamEn flow) then 0 else if s.hub.delivering then 2 else 1)
  else
    let b := flow - 0x100
    if !(s.cfg.active.bobEn b) then 0
    else if (s.trd.bobs.get b).running && !s.cfg.active.recPorts.isEmpty then 2 else 1

/-- STREAM_STATUS (R368). -/
def execStreamStatus (t : Nat) (rq : Req) (s : State) : Host.Outcome State Fault Refusal :=
  runCmd { code := 0x0A01, legal := stRead, standbyNo := false, len := lenIs 2 }
    (reading fun rq s =>
      let f := beAt rq.payload 0 2
      if !(flowOk f) then .noAt 0x0306 f
      else
        let held := s.weft.pool.filter fun x => x.flow == f && !(x.over s.clk.loom)
        let st := s.weft.streams.get f
        let b := s.trd.bobs.get (f - 0x100)
        let next := if f < 16 then st.nextSeq else b.nextSeq
        let ack := (if f < 16 then st.newestAck else b.newestAck).getD 0
        .done (beBytes 1 (s.flowState f) ++ beBytes 1 (maskOf ((s.cfg.active.flowPorts f).filter s.portUp)) ++ zeros 2
          ++ beBytes 4 next ++ beBytes 4 ((held.head?.map (·.seq)).getD 0) ++ beBytes 4 ack ++ beBytes 4 held.length
          ++ beBytes 4 (held.map (·.size)).sum ++ beBytes 4 (if f < 16 then st.retx else b.retx)
          ++ beBytes 4 (if f < 16 then st.released else 0) ++ beBytes 8 (if f < 16 then st.ackTime else b.ackTime))) t rq s

/-- STORE_STATUS (R368): the highest fill starts again with the read. -/
def execStoreStatus (t : Nat) (rq : Req) (s : State) : Host.Outcome State Fault Refusal :=
  runCmd { code := 0x0A02, legal := stRead, standbyNo := false, len := lenIs 0 }
    (fun _ s =>
      (.done (beBytes 4 s.poolSize ++ beBytes 4 s.retained ++ beBytes 2 (sat16 s.fill)
        ++ beBytes 2 (sat16 (max s.weft.highFill s.fill)) ++ beBytes 4 s.weft.releases ++ beBytes 4 s.weft.gapNotices
        ++ beBytes 8 s.weft.lastRelease), { s with weft := { s.weft with highFill := s.fill } })) t rq s

/-- WEFT_RESEND (R358, R368, R369). -/
def execWeftResend (t : Nat) (rq : Req) (s : State) : Host.Outcome State Fault Refusal :=
  runCmd { code := 0x0A03, legal := stLive, standbyNo := true, len := lenIs 12 }
    (fun rq s =>
      let f := beAt rq.payload 0 2
      let a := beAt rq.payload 4 4
      let b := beAt rq.payload 8 4
      let held := s.weft.pool.filter fun x => x.flow == f && x.goneAt.isNone
      let span := diff32 b a + 1
      let tooNew := match s.lastSent f with
        | none => true
        | some l => newer32 b l
      if beAt rq.payload 2 2 ≠ 0 then (.no 0x0302, s)
      else if !(flowOk f) then (.noAt 0x0306 f, s)
      else if s.flowState f = 0 ∧ held.isEmpty = true then (.noAt 0x0101 f, s)
      else if newer32 a b ∨ 65536 < span ∨ tooNew = true then (.noAt 0x0301 f, s)
      else
        let inRange := fun (q : Nat) => decide (diff32 q a < span)
        let ports := s.cfg.active.flowPorts f
        let pick := fun (x : WFrame) =>
          x.flow == f && inRange x.seq && x.left && x.again.isEmpty && x.goneAt.isNone && !ports.isEmpty
        let n := (s.weft.pool.filter pick).length
        let put := fun (x : WFrame) =>
          if pick x then { x with again := ports, turn := s.weft.turns + diff32 x.seq a } else x
        let lost := ((List.range span).map fun i => (a + i) % 2 ^ 32).filter fun q => !(held.any fun x => x.seq == q)
        let s := { s with weft := { s.weft with pool := s.weft.pool.map put, turns := s.weft.turns + span } }
        let answer := fun (x y : Nat) => beBytes 4 n ++ beBytes 4 x ++ beBytes 4 y
        match lost with
        | [] => (.done (answer 0 0), s)
        | q :: r => (.doneReason 0x080C (answer q (r.getLastD q)),
            logEvent 0x080C 0x0A03 (f * 65536 + min lost.length 65535) s)) t rq s

/-- NOTICE_READ (R352, R368). -/
def execNoticeRead (t : Nat) (rq : Req) (s : State) : Host.Outcome State Fault Refusal :=
  runCmd { code := 0x0A04, legal := stRead, standbyNo := false, len := lenIs 8 }
    (reading fun rq s =>
      let n := beAt rq.payload 4 1
      if beAt rq.payload 5 3 ≠ 0 then .no 0x0302
      else if n = 0 ∨ n > 41 then .no 0x0301
      else
        let ns := ringFrom s.weft.notices s.weft.nextNotice (beAt rq.payload 0 4) n
        .done (beBytes 4 (diff32 s.weft.nextNotice 1) ++ beBytes 1 ns.length ++ zeros 3 ++ ns.flatMap noticeBytes)) t rq s

/-- portState of a slaveOnly port as IEEE 1588-2019 codes it: 3 disabled, 2 faulty, 4 listening, 8 uncalibrated, 9
slave. -/
def State.ptpState (s : State) (p : Nat) : Nat :=
  if !(s.cfg.active.portEn p && bitAt (s.cfg.active.portW p 0) 27) then 3
  else if !(s.portUp p) then 2
  else if s.ptpBest ≠ some p then 4
  else if (s.weft.ports.get p).syncs = 0 then 8 else 9

/-- PTP_STATUS (R368). -/
def execPtpStatus (t : Nat) (rq : Req) (s : State) : Host.Outcome State Fault Refusal :=
  runCmd { code := 0x0A05, legal := stRead, standbyNo := false, len := lenIs 2 }
    (reading fun rq s =>
      let p := beAt rq.payload 0 1
      let h := s.weft.ports.get p
      if beAt rq.payload 1 1 ≠ 0 then .no 0x0302
      else if p > 1 then .noAt 0x0306 p
      else
        let gm := (h.announce.map (·.grandmaster)).getD 0
        let src := (h.announce.map (·.source)).getD 0
        let steps := (h.announce.map (·.steps)).getD 0
        .done (beBytes 1 (s.ptpState p) ++ beBytes 1 (b2n (bitAt (s.cfg.active.portW p 0) 26)) ++ zeros 2 ++ beBytes 8 gm
          ++ beBytes 10 src ++ zeros 2 ++ beBytes 2 steps ++ beSigned 1 h.logSync ++ zeros 1 ++ beBytes 4 h.meanPath
          ++ beSigned 4 h.ptpOffset ++ beBytes 4 h.syncs)) t rq s

end Sys2Proof.Machine
end

