-- ==== Sys2Proof/Machine/Winnow.lean ====
section
/-! DEFINITION. Winnow (R370 to R391): frames encoded in turn, forcing, stalls, decompression jobs and their
destinations (R332, R387, R458), and its commands. -/

namespace Sys2Proof.Machine

open Sys2Proof

/-- Count in a counter of R390. -/
def countWin (i : Nat) (s : State) : State :=
  { s with win := { s.win with counters := s.win.counters.upd i inc32 } }

/-- Thresholds in bytes (R379, R388). -/
def PMem.backlogHi (m : PMem) : Nat := fld (m.word 0x0B00 1) 31 16 * 1024
def PMem.backlogLo (m : PMem) : Nat := fld (m.word 0x0B00 1) 15 0 * 1024

/-- Winnow compares its backlog with the thresholds (R379). -/
def checkForcing (s : State) : State :=
  let b := s.backlog
  if b ≥ s.cfg.active.backlogHi then
    (if s.win.forcing then s else countWin 5 { s with win := { s.win with forcing := true } })
  else if b ≤ s.cfg.active.backlogLo then { s with win := { s.win with forcing := false } }
  else s

/-- Winnow runs: the domains of the engine and of the record store are on (R18). -/
def State.winnowOn (s : State) : Bool := s.domOn 1 && s.domOn 2

/-- WINNOW_FRAME_START (R379): the frame that has waited longest. -/
def execWinnowFrameStart (t : Nat) (s : State) : Host.Outcome State Fault Refusal :=
  act t s fun s =>
    if s.winnowOn = false then s else
    match s.win.current, s.win.queue with
    | none, q :: rest =>
      let s := checkForcing s
      let s := { s with win := { s.win with queue := rest, current := some (q.1, q.2, s.win.forcing) } }
      frameUpd q.1 q.2 (fun f => { f with stage := 1 }) s
    | _, _ => s

/-- Winnow stops at a bit of its output (R382): the words before it but the last have passed into the full queue, the
accumulator keeps the rest. -/
def stallAt (out : Bytes) (bit : Nat) (s : State) : State :=
  let words := bit / 32 - 1
  let bits := unpackBits (out.drop (4 * words))
  countWin 6 { s with win := { s.win with
    stalled := true, acc := bits.take (bit - 32 * words), outQueue := (out.take (4 * words)).drop (4 * words - 2048) } }

/-- WINNOW_FRAME_DONE (R371 to R376, R379, R382): the frame is encoded and its trailer appended, or, stalled at a bit,
its output queue is full before the end. -/
def execWinnowFrameDone (t : Nat) (stalled : Option Nat) (s : State) : Host.Outcome State Fault Refusal :=
  act t s fun s =>
    match s.win.current with
    | none => s
    | some (flow, seq, forced) =>
      if s.winnowOn = false ∨ s.win.stalled then s
      else
        match s.weft.pool.find? fun f => f.flow == flow && f.seq == seq with
        | none => { s with win := { s.win with current := none } }
        | some f =>
          let (typ, out) := if forced then (0, storedBlock f.body) else deflate f.body f.effort f.huff
          match stalled with
          | some bit => stallAt out (min bit (8 * out.length)) s
          | none =>
          let s := { s with win := { s.win with
            current := none, bytesIn := sat64 (s.win.bytesIn + f.body.length)
            bytesOut := sat64 (s.win.bytesOut + out.length) } }
          let s := countWin (1 + typ) (countWin 0 s)
          let s := if forced then countWin 4 s else s
          let s := unitHolds 0 (crc32Run 0xFFFFFFFF#32 (f.header ++ out)).toNat s
          fillAlarms (frameUpd flow seq (fun f => { f with sent := out, stage := 2 }) s)

/-- WINNOW_STALL_RESUME (R382): space has returned, and what was kept is written. -/
def execWinnowStallResume (t : Nat) (s : State) : Host.Outcome State Fault Refusal :=
  act t s fun s => { s with win := { s.win with stalled := false, jobStalled := false, acc := [], outQueue := [] } }

/-! ### Decompression jobs -/

/-- A firmware image slot, A 0 or B 1, and a change of it. -/
def State.imageOf (s : State) (slot : Nat) : Image := if slot = 0 then s.pow.imageA else s.pow.imageB
def imageUpd (slot : Nat) (f : Image → Image) (s : State) : State :=
  { s with pow := if slot = 0 then { s.pow with imageA := f s.pow.imageA } else { s.pow with imageB := f s.pow.imageB } }

/-- The slot that does not hold the running image (R458); A while the recovery image runs (log entry 31). -/
def State.idleSlot (s : State) : Nat := if s.hub.runImage = 0 then 1 else 0

/-- The result of a decompression job that failed (R384). -/
def failResult (code consumed produced : Nat) : Bytes :=
  beBytes 1 code ++ zeros 1 ++ beBytes 4 consumed ++ beBytes 4 produced

/-- The job that Winnow ran has failed: the destination stays uncommitted and the staged bytes stay (R387). -/
def jobFails (id reason code consumed produced : Nat) (s : State) : State :=
  endJob id 2 reason (failResult code consumed produced) code (countWin 9 s)

/-- A decompressed image is written to its slot (R458): its version, its CRC-32C by check unit 5, the running image's
number plus 1, and the check value last. Whether the eMRAM takes the write is open (Config.emramWrite). -/
def endImage (id n : Nat) (out : Bytes) (s : State) : State :=
  let slot := s.idleSlot
  let s := unitHolds 5 (crc32Run 0xFFFFFFFF#32 (out.take (out.length - 4))).toNat s
  let (k, s) := nextFree s
  if crcPasses out && Config.emramWrite k then
    let seq := next32 (s.imageOf s.hub.runImage).seq
    let version := beAt out 0 4
    let s := imageUpd slot (fun _ => { invalid := false, seq, version, writeEnds := s.clk.loom + Config.writeTime k }) s
    let s := { s with drv := { s.drv with stagingFor := .free } }
    endJob id 1 0 (beBytes 4 version ++ beBytes 1 slot ++ zeros 3 ++ beBytes 4 seq) 0 (countWin 8 s)
  else jobFails id 0x040B 0 n out.length (if crcPasses out then sectorWorn s else s)

/-- A decompressed table takes its points (R329, R332); an output that is not whole points fails (log entry 32). -/
def endTable (id k n : Nat) (out : Bytes) (s : State) : State :=
  if out.length % 4 ≠ 0 then
    jobFails id 0x0301 0 n out.length (tableUpd k (fun x => { x with loading := false }) s)
  else
    let s := fillTable k out { s with drv := { s.drv with stagingFor := .free } }
    endJob id 1 0 (beBytes 4 (out.length / 4)) 0 (countWin 8 s)

/-- Check unit 4 runs over the staging area as a table load from it completes (R395). -/
def stagingRun (w : Option JobWork) (s : State) : State :=
  match w with
  | some (.tableLoad _ n) => unitHolds 4 (crc32Run 0xFFFFFFFF#32 (s.drv.staging.getList 0 n)).toNat s
  | _ => s

/-- DECOMPRESSION_DONE (R332, R382, R384 to R387, R458): the job ends, or, stalled, its destination can take no more
for now. -/
def execDecompressionDone (job : JobEnd) (s : State) : Host.Outcome State Fault Refusal :=
  act job.t s fun s =>
    if s.winnowOn = false ∨ s.win.jobStalled = true then s else
    match s.win.job with
    | none => s
    | some id =>
      if job.stalled then countWin 6 { s with win := { s.win with jobStalled := true } } else
      let w := s.jobWork id
      let bad := s.drv.stagingBad
      let s := stagingRun w s
      let s := { s with win := { s.win with job := none } }
      match w with
      | some (.tableLoad k n) =>
        if bad then jobFails id 0x040A 0 0 0 (tableUpd k (fun x => { x with loading := false }) s)
        else match inflate (s.drv.staging.getList 0 n) (s.cfg.active.tableSize k * 4) with
        | .done out => endTable id k n out s
        | .failed c i o =>
          jobFails id (if c = 1 then 0x0507 else 0x0301) c i o (tableUpd k (fun x => { x with loading := false }) s)
      | some (.imageLoad n) =>
        if bad then jobFails id 0x040A 0 0 0 s
        else match inflate (s.drv.staging.getList 0 n) (2 ^ 21) with
        | .done out => endImage id n out s
        | .failed c i o => jobFails id (if c = 1 then 0x0507 else 0x040B) c i o s
      | _ => s

/-! ### Commands -/

/-- WINNOW_STATUS (R390). -/
def execWinnowStatus (t : Nat) (rq : Req) (s : State) : Host.Outcome State Fault Refusal :=
  runCmd { code := 0x0B00, legal := stRead, standbyNo := false, len := lenIs 2 }
    (fun rq s =>
      let clear := beAt rq.payload 0 1
      if clear > 1 then (.no 0x0301, s)
      else if beAt rq.payload 1 1 ≠ 0 then (.no 0x0302, s)
      else
        let w := s.win
        let p := beBytes 4 s.backlog ++ beBytes 4 (max w.high s.backlog) ++ beBytes 1 (b2n w.forcing)
          ++ beBytes 1 (b2n w.job.isSome) ++ zeros 2 ++ beBytes 8 w.bytesIn ++ beBytes 8 w.bytesOut
          ++ (w.counters.getList 0 10).flatMap (beBytes 4)
        let w := { w with high := s.backlog }
        (.done p, { s with win := if clear = 1 then { w with bytesIn := 0, bytesOut := 0, counters := [] } else w })) t rq s

/-- WINNOW_PROBE (R390, R391). -/
def execWinnowProbe (t : Nat) (rq : Req) (s : State) : Host.Outcome State Fault Refusal :=
  runCmd { code := 0x0B01, legal := stRead, standbyNo := false, len := lenIn 4 1004 }
    (reading fun rq s =>
      let effort := beAt rq.payload 0 1
      let huff := beAt rq.payload 1 1
      let n := beAt rq.payload 2 2
      if rq.payload.length ≠ 4 + n then .no 0x0305
      else if n = 0 ∨ n > 992 ∨ effort > 7 ∨ huff > 3 then .no 0x0301
      else if s.needsDomain [1] then .no 0x0105
      else
        let (typ, out) := deflate (rq.payload.drop 4) effort huff
        .done (beBytes 1 typ ++ zeros 1 ++ beBytes 2 out.length ++ out)) t rq s

end Sys2Proof.Machine
end

