-- ==== Sys2Proof/Machine/Sample.lean ====
section
/-! DEFINITION. Output samples (R160 to R168, R405, R406): how each is formed and where it goes; ply-link words and
lanes (R24, R25). -/

namespace Sys2Proof.Machine

open Sys2Proof

/-! ### Ply links -/

/-- Words lost before word k (R24): by the slot counter where a word of the stream has come, else by the words due
after the modulator clock from which they are formed (log entry 168). -/
def wordsMissing (epoch : Nat) (expected : Option Nat) (from_ slot k d : Nat) : Nat :=
  match expected with
  | some e => (slot + 65536 - e) % 65536
  | none => k - ((from_ - epoch) / d + 1)

/-- Words lost before word k leave a gap from the word before them, and the channel resumes at this word's instant
(R24, R161). -/
def wordGap (ch missing k d : Nat) (s : State) : State :=
  if missing = 0 then s
  else
    let at_ := fun (n : Nat) => clockFine (s.clk.epoch + n * d)
    let dest := at_ k
    let start := at_ (k - 1 - missing)
    let ends := fun (g : Nat × Option Nat) => match g.2 with
      | some b => decide (dest ≤ b)
      | none => true
    let gaps := (s.chan ch).gaps
    let s := if gaps.any fun g => ends g && decide (g.1 ≤ start) then s
      else chanUpd ch (fun c => { c with gaps := (start, some dest) :: c.gaps }) s
    if gaps.any ends then s else eventOn ch 1 dest dest true s

/-- A ply link's crossing holds its words, a receiving clock being stopped (R38, R410). -/
def State.plyHolds (s : State) (die : Nat) : Bool := s.crossHolds die

/-- The decimation of a stream of a channel at word k (R128, R130), past the switches up to it. -/
def State.streamDec (s : State) (ch k : Nat) (reed : Bool) : Nat :=
  let c := (takeSwitches s.clk.epoch k (clockFrom (fineOf s.clk.loom)) reed (s.chan ch)).1
  (c.set.map fun p => if reed then p.reedDec else p.dec).getD 0

/-- Word k of a channel's CIC or pre-decimator stream comes out of the ply link (R22, R24, R124 to R130, R147 to
R157), with the modulator codes that it is formed from (R118: -7 to +7). The pre-decimator produces words only on the
Reed path (R130, R148). -/
def plyWord (ch : Nat) (reed : Bool) (slot k : Nat) (codes : List Int) (s : State) : State :=
  let codes := codes.map (clampInt (-7) 7)
  let c := s.chan ch
  let d := s.streamDec ch k reed
  if reed && !c.onReed then chanUpd ch (fun c => { c with reedSlot := none }) s
  else if reed then
    let s := wordGap ch (wordsMissing s.clk.epoch c.reedSlot c.reedFrom slot k d) k d s
    chanUpd ch (fun c => { reedArrive s ch k codes c with reedSlot := some ((slot + 1) % 65536) }) s
  else
    let s := wordGap ch (wordsMissing s.clk.epoch c.cicSlot c.cicFrom slot k d) k d s
    let (c, mains) := cicArrive s ch k codes (s.chan ch)
    chanUpd ch (fun _ => { c with cicSlot := some ((slot + 1) % 65536) })
      { s with filt := { s.filt with mains } }

/-- The words of one channel's stream, or the scan results of one converter, among those that a ply link's crossing
holds. -/
def sameStream : Held → Held → Bool
  | .word ch reed _ _ _, .word ch' reed' _ _ _ => ch == ch' && reed == reed'
  | .scan sc _ _ _ _, .scan sc' _ _ _ _ => sc == sc'
  | _, _ => false

/-- A word of a ply link waits, its crossing holding (R409, R410): 64 of each stream. -/
def holdPly (die : Nat) (i : Held) (s : State) : State := crossUpd die (Crossing.enqueue 64 (sameStream i) i) s

/-- PLY_WORD_ARRIVAL (R18, R22, R24, R409): the loom fabric takes the word, or the crossing holds it. -/
def execPlyWordArrival (t ch : Nat) (reed : Bool) (slot k : Nat) (codes : List Int) (s : State) :
    Host.Outcome State Fault Refusal :=
  act t s fun s =>
    if s.running = false ∨ s.domOn 1 = false ∨ s.dieUp (dieOf ch) = false ∨ (s.chan ch).set.isNone = true then s
    else if s.plyHolds (dieOf ch) then holdPly (dieOf ch) (.word ch reed slot k codes) s
    else plyWord ch reed slot k codes s

/-- Enabled channels of a die. -/
def State.dieChans (s : State) (die : Nat) : List Nat := s.cfg.active.chansOn.filter fun ch => dieOf ch == die

/-- A die's words no longer arrive (R25, R452): its channels deliver fill samples from now on. -/
def dieLost (die : Nat) (s : State) : State :=
  let now := fineOf s.clk.loom
  (s.dieChans die).foldl (fun s ch => chanUpd ch (openGap now) s) s

/-- A die's words arrive again: each channel resumes at its next CIC word (R161). -/
def dieResumes (die : Nat) (s : State) : State :=
  let now := clockFrom (fineOf s.clk.loom)
  (s.dieChans die).foldl (fun s ch =>
    match (s.chan ch).set with
    | some p =>
      if (s.chan ch).gaps.any (·.2.isNone) then
        let dest := clockFine (multFrom s.clk.epoch now p.dec)
        eventOn ch 1 dest dest true (chanUpd ch (fun c => { closeGap dest c with
          cicSlot := none, reedSlot := none, cicFrom := now - 1, reedFrom := now - 1 }) s)
      else s
    | none => s) s

/-- Change a power domain. -/
def domUpd (d : Nat) (f : Domain → Domain) (s : State) : State :=
  { s with pow := { s.pow with domains := s.pow.domains.upd d f } }

/-- Alarms 4 and 5 follow the lanes of the ply links that should carry words (R25, R76). -/
def plyAlarms (die : Nat) (s : State) : State :=
  let out := fun (d : Nat) => if s.domOn (4 + d) then (s.pow.domains.get (4 + d)).lanesOut.length else 0
  let s := setAlarm 4 ((List.range 4).any fun d => decide (1 ≤ out d)) true die 0 s
  setAlarm 5 ((List.range 4).any fun d => decide (3 ≤ out d)) true die 0 s

/-- PLY_LANE_FAILURE (R25): the link retrains without the lane, or is down on fewer than 2. -/
def execPlyLaneFailure (t die lane : Nat) (s : State) : Host.Outcome State Fault Refusal :=
  act t s fun s =>
    if die > 3 ∨ lane > 3 then s
    else
      plyAlarms die (dieLost die (domUpd (4 + die) (fun d => { d with
        lanesOut := setMem d.lanesOut lane true, trained := false }) s))

/-- PLY_LINK_TRAINED (R25, R454): on the lanes of the mask. A die that has come on is aligned by a catch-up reset at
the first boundary at least 2 ms ahead, in BOOT by the reset that follows the end of BOOT (R456); one that was in step
resumes. -/
def execPlyLinkTrained (t die lanes : Nat) (s : State) : Host.Outcome State Fault Refusal :=
  act t s fun s =>
    if die > 3 ∨ s.domOn (4 + die) = false then s
    else
      let s := domUpd (4 + die) (fun d => { d with
        trained := true, lanesOut := (List.range 4).filter fun l => !(nbit lanes l)
        align := if d.aligned || s.hub.state == .boot then none else some (d.align.getD (beatTime s.ahead2ms)) }) s
      let s := plyAlarms die s
      if s.dieUp die then dieResumes die s else s

/-! ### What a sample is formed under -/

/-- Samples formed now carry SUBST (R432, R439): of a standby, and of a new active up to its takeover instant. -/
def State.substNow (s : State) : Bool :=
  s.hub.role == .standby || (match s.pair.tT with
    | some b => decide (s.clk.loom < b)
    | none => false)

/-- A test has the slot at a signal instant (R141, R264): on which range. -/
def Chan.testAt (c : Chan) (tau : Int) : Option Nat :=
  (c.tests.find? fun x => decide ((x.1 : Int) ≤ tau) && (match x.2.1 with
    | some e => decide (tau < e)
    | none => true)).map (·.2.2)

/-- The configuration with the range that a calibration run has put in place of a slot's own (R264). -/
def State.runMap (s : State) (m : PMem) (ch : Nat) (tau : Int) : PMem :=
  match (s.chan ch).testAt tau with
  | some r => m.put (pkey (0x0100 + podOf ch) (40 + ch % 16)) ((m.slot ch &&& 0x8FFFFFFF#32) ||| BitVec.ofNat 32 (r * 2 ^ 28))
  | none => m

/-- A sample's data has been lost (R184, R404, R405): its signal instant lies in a gap, or a forward step of loom time
passed over its grid instant. -/
def Chan.lostAt (c : Chan) (grid : Nat) (tau : Int) : Bool :=
  (c.gaps.any fun g => decide ((g.1 : Int) ≤ tau) && (match g.2 with
    | none => true
    | some e => decide (tau < e)))
  || c.skipped.any fun g => decide (g.1 < grid ∧ grid < g.2)

/-- A channel's flags and the word of a sample that is not filled, before correction (R161 to R165, R141, R171). -/
structure Placed where
  chan : Chan
  flags : Nat
  word : Int

/-- The next sample's place on its channel: a slot under test stays on the Reed path and carries UNS and PATH until the
recovery after its return is complete (R141, R264). -/
def State.place (s : State) (m : PMem) (ch grid : Nat) (tau : Int) (c : Chan) : Placed :=
  let test := match c.testFrom with
    | some f => decide ((f : Int) ≤ tau)
    | none => false
  let keep := test && ((c.testAt tau).isSome || c.entries.any (·.mode == 1))
  let swap := s.filt.deferred.any (fun d => d.1 == dieOf ch) || decide (grid < s.filt.swapAt.get (dieOf ch))
  let len := m.fadeLen ch
  let (who, fl, c) := placeSample c len (keep || swap) tau s.clk.loom (grid + clocksLoom (m.lookL ch))
  let (w, n) := sampleWord c who tau
  let c := { c with waiting := c.waiting && swap, clamps := sat16 (c.clamps + n) }
  let c := if test && c.recovery.isNone then { c with testFrom := none } else c
  { chan := c, flags := if test then fl ||| (fUNS + fPATH) else fl, word := w }

/-- Samples that later ones look back on (R242, R280, R315). -/
def keepRecent (grid : Nat) (l : List Sample) : List Sample :=
  l.take 8 ++ (l.drop 8).filter fun x => decide (grid < x.t + 2 ^ 28)

/-- The channel after a sample with a grid instant has been delivered. -/
def Chan.deliver (c : Chan) (x : Sample) (tau : Int) : Chan :=
  { c with
    delivered := some x.t, lastTau := some tau, recent := keepRecent x.t (x :: c.recent)
    gaps := c.gaps.filter fun g => match g.2 with
      | some e => decide (tau < e)
      | none => true
    tests := c.tests.filter fun g => match g.2.1 with
      | some e => decide (tau < e)
      | none => true
    skipped := c.skipped.filter fun g => decide (x.t < g.2) }

/-- The value words and flags of a formed sample (R108, R245, R255, R256, R404). -/
def State.formSample (s : State) (m : PMem) (ch grid : Nat) (tau : Int) (step : Bool) (p : Placed) : Sample × Nat × Int :=
  let m := s.runMap m ch tau
  let ovr := ovrSpan (s.hed.ovr.get ch) tau p.chan.lastTau p.chan.since
  let lead := s.leadAt ch tau
  let w := s.corrected m ch grid p.word
  let (v, k) := rawCode w
  let f := s.formEng m ch grid (ovr.map (·.positive)) lead w
  let flags := formedFlags p.flags f.flags ovr.isSome lead (s.adjAt m ch tau) step s.substNow
  let raw : Word := match ovr with
    | some o => if o.positive then 0x007FFFFF#32 else 0xFF800000#32
    | none => BitVec.ofInt 32 v
  ({ t := grid, raw, eng := f.eng, flags }, if ovr.isSome then 0 else k, w)

/-- A delivered sample goes to the comparators, the bobbins and the streams (R22). -/
def spreadSample (m : PMem) (ch : Nat) (x : Sample) (s : State) : State :=
  feedStreams m ch x (feedBobbins m ch x (feedComps m ch x s))

/-- A channel's next sample, at a grid instant (R160): lost names a loss in its own memory (R404). -/
def outputSample (ch grid : Nat) (lost : Bool) (s : State) : State :=
  let m := s.cfgAt grid
  let tau : Int := (fineOf grid : Int) - fineOf (m.phase ch) + (s.chan ch).shift grid
  let (c, step) := takeEntries (s.chan ch) grid tau
  if lost || c.lostAt grid tau then
    let x := { s.fillSample grid with flags := fillFlags s.substNow }
    let s := chanUpd ch (fun _ => c.deliver x tau) s
    let s := spreadSample m ch x (feedTests m ch tau 0 { x with flags := 0xFF } (feedBridge m ch grid 0 x.flags.toNat s))
    if lost then eventOn ch 1 (tau + 1) (fineOf s.clk.loom) true s else s
  else
    let p := s.place m ch grid tau c
    let (x, k, w) := s.formSample m ch grid tau step p
    let cj := s.coldJunction m ch grid
    let s := chanUpd ch (fun _ => { p.chan.deliver x tau with clamps := sat16 (p.chan.clamps + k), cj }) s
    spreadSample m ch x (feedTests m ch tau p.word x (feedBridge m ch grid w x.flags.toNat s))

/-- A sample of a channel is due (R33, R56, R160, R184, R242): the channel is sampled and on the group's grid, the
grid instant lies after the last one delivered, the look-ahead has passed, the sample of its cold junction is formed,
and its ply link's crossing does not hold (R410). -/
def State.sampleDue (s : State) (ch grid : Nat) : Bool :=
  let m := s.cfgAt grid
  let c := s.chan ch
  s.running && s.domOn 1 && s.domOn 2 && decide (ch < 256) && c.set.isSome && (m.chanOn ch || s.underTest ch)
    && m.onGrid (m.group ch) grid && decide (c.since ≤ grid)
    && (match c.delivered with
      | some d => decide (d < grid)
      | none => true)
    && s.formedAll m [ch] grid && !(s.cjWaits m ch grid) && !(s.plyHolds (dieOf ch))

/-- OUTPUT_SAMPLE (R160): reads are the codewords of the delay memory that held the sample, with their index; one that
cannot be corrected loses it (R402, R404). -/
def execOutputSample (t ch grid : Nat) (reads : List (Nat × Bytes)) (s : State) : Host.Outcome State Fault Refusal :=
  act t s fun s =>
    if s.sampleDue ch grid then
      let (good, s) := readStore reads s
      outputSample ch grid (!good) s
    else s

end Sys2Proof.Machine
end

