-- ==== Sys2Proof/Machine/Check.lean ====
section
/-! DEFINITION. The consistency check of a configuration, steps 5 to 7 of R67: field ranges, cross-block rules and
resources, each as its own chapter states it. -/

namespace Sys2Proof.Machine

open Sys2Proof

/-- A test that fails: its reason and place (R48, R67). -/
abbrev CheckFail := Nat × Locator

/-- The channel, thread, source or other part that a word belongs to, for the locator (R48; log entry 14). -/
def partIx (b o : Nat) : Nat :=
  if 0x0100 ≤ b ∧ b ≤ 0x010F then
    (if o < 40 then o else if o < 56 then 16 * (b - 0x0100) + (o - 40) else if o < 61 then o - 56
     else if o < 63 then o - 61 else 0xFFFF)
  else if b = 0x0200 ∨ b = 0x0300 ∨ b = 0x0401 ∨ b = 0x0600 ∨ b = 0x0805 then o
  else if b = 0x0201 then (if o < 16 then o else if o = 16 then 0xFFFF else (o - 17) / 17)
  else if b = 0x0301 then (if o < 4 then o else 0xFFFF)
  else if b = 0x0400 then o / 2
  else if b = 0x0601 ∨ b = 0x0800 then o / 4
  else if 0x0610 ≤ b ∧ b ≤ 0x061F then b - 0x0610
  else if 0x0801 ≤ b ∧ b ≤ 0x0804 then b - 0x0801
  else if 0x0810 ≤ b ∧ b ≤ 0x0817 then b - 0x0810
  else if b = 0x0900 then o / 14
  else if b = 0x0901 then o / 6
  else if b = 0x0902 then o / 3
  else if b = 0x0A00 ∧ o < 16 then o / 8
  else if 0x0A10 ≤ b ∧ b ≤ 0x0A1F then b - 0x0A10
  else 0xFFFF

/-- A failure at a word. -/
def failAt (reason b o : Nat) : CheckFail := (reason, { block := b, off := o, idx := partIx b o })

/-- One test of the check, on a word. -/
def need (ok : Bool) (reason block off : Nat) : Option CheckFail :=
  if ok then none else some (failAt reason block off)

/-- One test on what many blocks need together. -/
def needAll (ok : Bool) (reason : Nat) : Option CheckFail :=
  if ok then none else some (reason, {})

/-- One test that concerns a part by its index. -/
def needAt (ok : Bool) (reason block off idx : Nat) : Option CheckFail :=
  if ok then none else some (reason, { block, off, idx })

/-- The first failure among parts 0 to n - 1. -/
def firstOf (n : Nat) (f : Nat → Option CheckFail) : Option CheckFail := (List.range n).findSome? f

/-- v lies in lo to hi. -/
def within (lo hi v : Nat) : Bool := decide (lo ≤ v ∧ v ≤ hi)

/-! ### Step 5: ranges -/

/-- Thread, slot, source, controller and driver words of a pod (R85, R101, R110 to R114). -/
def podWordOk (m : PMem) (pod o : Nat) (w : Word) : Bool :=
  if o < 40 then
    let src := source w
    match role w with
    | 3 => decide (src ≤ 4) || src == 8 || src == 9
    | 4 => decide (src ≤ 4) || src == 8 || src == 9 || src == 15
    | 5 => decide (src ≤ 3)
    | 6 => src == 8 || src == 9
    | 7 => src == 8 || src == 9
    | r => decide (r ≤ 9) && src == 0
  else if o < 56 then
    let top := if slotXpod w then 7 else 39
    let e := slotExc w
    let t := m.word (0x0100 + pod) 63
    decide (slotRange w ≤ 4) && decide (slotP w ≤ top) && decide (slotN w ≤ top)
      && (decide (e ≤ 4) || e == 8 || e == 9 || e == 15)
      && !(slotXpod w && (slotLw w || decide (1 < slotRange w)))
      && (!(slotLw w) || (role (m.thread pod (slotP w)) == 1 && role (m.thread pod (slotN w)) == 2
        && decide (fld t 23 16 * fld t 15 0 * 4 ^ slotRange w ≤ 600000)))
  else if o < 61 then decide (ixPartner w ≤ 4) && decide (ixCode w ≤ 4000)
  else if o < 63 then !(bitAt w 31) || within 500 10000 (fld w 15 0)
  else if o = 63 then within 1 100 (fld w 23 16) && within 1 10000 (fld w 15 0)
  else if o = 65 then decide ((signedOf 16 (fld w 15 0)).natAbs ≤ 10000)
  else true

/-- Words of the simultaneous group and of scan lists (R144): SCn serves pods 2n and 2n + 1 (R131). -/
def scanWordOk (m : PMem) (o : Nat) (w : Word) : Bool :=
  if o < 16 then true
  else if o = 16 then decide (fld w 3 0 ≤ 5)
  else
    let k := (o - 17) / 17
    let h := m.word 0x0201 (17 + 17 * k)
    if (o - 17) % 17 = 0 then !(bitAt w 31) || (within 1 16 (fld w 24 20) && within 1 100000 (fld w 19 0))
    else if bitAt w 15 then decide (fld w 5 0 ≤ 15) && fld w 11 8 / 2 == fld h 30 28
    else decide (fld w 5 0 ≤ 39)

/-- A bank's coefficients have gain 1 at 0 Hz (R157). -/
def bankOk (m : PMem) (b : Nat) : Bool :=
  let nt := fld (m.word b 0) 9 0
  let sum := (List.range nt).foldl (fun (a : Int) i => a + signedOf 24 (fld (m.word b (i + 1)) 23 0)) 0
  within 16 512 nt && decide ((sum - 2 ^ 23).natAbs ≤ 128)

/-- A binary32 word lies in num1 / den to num2 / den. -/
def f32In (w : Word) (lo hi : Int) (den : Nat) : Bool :=
  f32Finite w && !(fLtRat (f32v w) lo den) && !(fLtRat (fNegVal (f32v w)) (-hi) den)

/-- A binary32 word is finite and above 0, or finite and not 0. -/
def f32Pos (w : Word) : Bool := f32Finite w && fLt (f32v 0) (f32v w)
def f32NotZero (w : Word) : Bool := f32Finite w && !(fIsZero (f32v w))
/-- A binary32 word is 0 or more. -/
def f32NotNeg (w : Word) : Bool := !(f32IsNan w) && !(fLt (f32v w) (f32v 0))

/-- Linearisation of an enabled channel (R249, R251). -/
def linWordOk (m : PMem) (ch part : Nat) (w : Word) : Bool :=
  !(m.chanOn ch) || (
    if part = 0 then f32NotZero w
    else if part = 3 then m.curve ch != 40 || f32Pos w
    else f32Finite w)

/-- A user parameter set that an enabled channel, an output or a loop names (R249, R254, R316, R323). -/
def PMem.setUsed (m : PMem) (k : Nat) : Bool :=
  (m.chansOn.any fun ch => m.setNo ch == k && (setNeeded (m.curve ch)).isSome)
    || (List.range 16).any fun n =>
      (bitAt (m.loopW n 0) 31 && bitAt (m.loopW n 0) 28 && fld (m.loopW n 0) 23 20 == k)
        || (stimMode (m.stimW n 0) != 0 && fld (m.stimW n 0) 15 12 == k && (setNeeded (fld (m.stimW n 0) 21 16)).isSome)

/-- The header of a user parameter set, and the tests of a set in use (R249, R252). -/
def setWordOk (m : PMem) (k : Nat) : Bool :=
  let kind := m.setKind k
  let both := kind == 5 || kind == 6
  decide (kind ≤ 6) && (if both then decide (m.setInput k ≤ 2) else m.setInput k == 0 && m.setCount k == 0) && (!(m.setUsed k) || setOk m k)

/-- Calibration words (R273). -/
def calWordOk (m : PMem) (o : Nat) (w : Word) : Bool :=
  if o = 0 then
    let f := fld w 15 0
    decide (fld w 31 30 ≤ 1) && decide (fld w 29 27 ≤ 4) && ((f == 0 && fld w 31 30 == 0) || within 10 10000 f)
  else if o = 1 then
    let den := 4 ^ fld (m.calW 0) 29 27 * 100
    f32Pos w && f32In w 120 1140 den
  else if o = 2 then f32Pos w
  else if o = 3 then within 5 100 (fld w 23 16) && within 1 50 (fld w 15 8) && decide (fld w 7 0 ≤ 50)
  else if o = 4 then decide (1 ≤ fld w 31 16) && within 10 1000 (fld w 15 0)
  else if o = 5 then within 1 10000 (fld w 31 16) && within 1 10000 (fld w 15 0)
  else within 10 100 (fld w 31 24) && within 10 100 (fld w 23 16) && within 50 100 (fld w 15 8) && within 50 100 (fld w 7 0)

/-- Comparator words (R278, R307). -/
def compWordOk (part : Nat) (w : Word) : Bool :=
  if part = 0 then decide (compKind w ≤ 5)
  else if part = 3 then f32NotNeg w
  else true

/-- A counter source that R283 lists. -/
def cntSrcOk (v : Nat) : Bool := v == 0 || within 0x10 0x5F v

/-- An operand's class and index are listed (R288); the index of a constant is tested at step 6 (R305). -/
def operandIn (x : Nat) : Bool :=
  let i := x % 32
  match x / 32 with
  | 0 => true
  | 1 => true
  | 2 => decide (i < 16)
  | c => decide (c ≤ 5 ∧ i ≤ 3)

/-- Sequencer words (R283, R288, R308). -/
def seqWordOk (m : PMem) (q o : Nat) (w : Word) : Bool :=
  if o = 0 then true
  else if o < 9 then o % 2 == 0 || cntSrcOk (fld w 31 24)
  else if o < 17 then decide (m.timerDur q ((o - 9) / 2) ≤ 86400 * 2 ^ 32)
  else
    if (o - 17) % 3 = 0 then trOp w != 3 && operandIn (fld w 26 19) && operandIn (fld w 16 9)
    else if (o - 17) % 3 = 1 then (List.range 4).all fun k => fld w (11 + 2 * k) (10 + 2 * k) != 3 && fld w (3 + 2 * k) (2 + 2 * k) != 3
    else true

/-- Bobbin words (R305, R310). -/
def bobWordOk (m : PMem) (b o : Nat) (w : Word) : Bool :=
  if o = 0 then decide (fld w 15 0 ≤ 4096) && (!(m.bobEn b) || (m.bobTap b != 0 && fld w 15 0 != 0))
  else if o = 1 then decide (w.toNat ≤ 1048576)
  else if o = 2 then decide (w.toNat ≤ 16777216) && (!(m.bobEn b) || w != 0)
  else if o = 3 then decide (w.toNat ≤ 3600000)
  else if o = 6 then (List.range 8).all fun k => decide (m.measAt b k ≤ 9)
  else if o = 9 then f32NotNeg w
  else if o = 10 then !(m.bobEn b) || !(m.bobChans b).isEmpty
  else true

/-- Loop words (R315, R316, R333, R334). -/
def loopWordOk (m : PMem) (n o : Nat) (w : Word) : Bool :=
  if o = 1 then f32In w 10 250 1
  else
    !(bitAt (m.loopW n 0) 31) || o == 0 || (
      let kind := fld (m.loopSlot n ((o - 2) / 3) 0) 31 30
      if (o - 2) % 3 = 1 then kind == 3 || f32Finite w
      else if (o - 2) % 3 = 2 then kind == 0 || kind == 3 || f32Finite w
      else true)

/-- Words of a stimulus output (R323, R333, R335). -/
def stimWordOk (m : PMem) (p o : Nat) (w : Word) : Bool :=
  let h := m.stimW p 0
  let off := stimMode h == 0
  if o = 0 then
    let c := fld h 21 16
    fld h 28 27 != 3 && (!(bitAt h 29) || stimMode h == 1) && decide (fld h 11 6 ≤ 39) && curveListed c
      && (off || c == 0 || inputKind m c (fld h 15 12) == stimMode h - 1)
  else if o = 1 then off || stimTbl h || f32Finite w
  else if o = 2 then f32NotZero w
  else if o = 3 then off || f32Finite w
  else if o = 4 then off || ((stimMode h != 2 || f32In w 10 10000 1) && (fld h 28 27 != 2 || f32Finite w)
    && (stimMode h != 3 || fld h 21 16 == 0 || f32Finite w))
  else true

/-- Ones from the top, then zeros. -/
def contiguous (w : Word) : Bool :=
  let z := 2 ^ 32 - 1 - w.toNat
  z &&& (z + 1) == 0

/-- Words of a host port (R365, R366). -/
def portWordOk (m : PMem) (p o : Nat) (w : Word) : Bool :=
  if o = 0 then
    (if m.portMode p = 0 then within 1500 9000 (m.mtu p) && !(bitAt w 29) else m.mtu p == 1500)
  else if o = 1 then
    let mask := (m.portW p 2).toNat
    w != 0 && w.toNat / 2 ^ 28 != 14
      && (decide (2 ^ 32 - 2 ≤ mask) || w.toNat % 2 ^ 32 ||| (2 ^ 32 - 1 - mask) != w.toNat)
  else if o = 2 then contiguous w
  else if o = 4 then !(bitAt (m.portW p 0) 28) || within 1 4094 (fld w 27 16)
  else if o = 5 then within 1 488281 (fld w 19 0)
  else if o = 6 then decide (fld w 31 24 ≤ 127)
  else if o = 7 then decide ((signedOf 32 w.toNat).natAbs ≤ 100000)
  else true

/-- Channels of a stream's largest section. -/
def PMem.widest (m : PMem) (k : Nat) : Nat := ((List.range 8).map fun i => (m.secChans k i).length).foldl max 0

/-- A compressed stream's frames are counted 5 bytes longer (R378). -/
def PMem.slack (m : PMem) (k : Nat) : Nat := if bitAt (m.streamW k 0) 27 then 5 else 0

/-- Words of a stream (R365, R367, R378). -/
def streamWordOk (m : PMem) (k o : Nat) (w : Word) : Bool :=
  if o = 0 then
    within 1 4096 (m.frameSamples k) && (!(m.streamEn k) || (!(m.streamPorts k).isEmpty && (m.streamPorts k).all fun p =>
      m.portEn p && decide (32 + 5 * m.frameSamples k * m.widest k + m.slack k + 4 + 28 ≤ m.mtu p)))
  else if o = 2 then !(m.streamEn k) || decide (1 ≤ fld w 15 0)
  else true

/-- A field of a word lies in its range (step 5). A range that the factory default itself lies outside of is tested on
a part that is enabled only (log entry 11). -/
def wordOk (m : PMem) (b o : Nat) : Bool :=
  let w := m.word b o
  if b = 0x0000 then o != 2 || within 1 600 (fld w 15 0)
  else if 0x0100 ≤ b ∧ b ≤ 0x010F then podWordOk m (b - 0x0100) o w
  else if b = 0x0200 then within 3 5 (m.order o) && within 64 4096 (m.reedDec o) && within 32 4096 (m.dec o)
  else if b = 0x0201 then scanWordOk m o w
  else if b = 0x0300 then decide (fld w 28 26 ≤ 4) && decide (fld w 24 22 ≤ 6)
  else if b = 0x0301 then o != 4 || within 1 100 (fld w 23 16)
  else if 0x0310 ≤ b ∧ b ≤ 0x0317 then o != 0 || bankOk m b
  else if b = 0x0400 then
    !(m.groupEn (o / 2)) || (if o % 2 = 0 then within 1 2 (fld w 1 0)
      else decide (1 ≤ fld w 18 0) && decide (fld w 18 0 ≤ 200000 * m.cycle (o / 2)))
  else if b = 0x0401 then decide (fld w 26 0 ≤ 68719476)
  else if b = 0x0500 then
    (if o = 0 then true
     else if o = 1 then fld w 25 16 == 0 && decide ((signedOf 16 (fld w 15 0)).natAbs ≤ 2000)
     else fld w 15 0 == 0)
  else if b = 0x0501 then (if o = 0 then within 1 1000000 (fld w 19 0) else within 1 100 (fld w 6 0))
  else if b = 0x0600 then !(m.chanOn o) || curveListed (m.curve o)
  else if b = 0x0601 then linWordOk m (o / 4) (o % 4) w
  else if 0x0610 ≤ b ∧ b ≤ 0x061F then o != 0 || setWordOk m (b - 0x0610)
  else if b = 0x0700 then calWordOk m o w
  else if b = 0x0800 then compWordOk (o % 4) w
  else if 0x0801 ≤ b ∧ b ≤ 0x0804 then seqWordOk m (b - 0x0801) o w
  else if b = 0x0805 then within 1 50000 (fld w 15 0)
  else if 0x0810 ≤ b ∧ b ≤ 0x0817 then bobWordOk m (b - 0x0810) o w
  else if b = 0x0900 then loopWordOk m (o / 14) (o % 14) w
  else if b = 0x0901 then stimWordOk m (o / 6) (o % 6) w
  else if b = 0x0902 then
    (if o % 3 = 0 then within 2 262144 (fld w 18 0)
     else if o % 3 = 1 then within 512 25600000 (fld w 24 0) && fld w 24 0 % 512 == 0 else true)
  else if b = 0x0A00 then
    (if o < 16 then portWordOk m (o / 8) (o % 8) w
     else if o = 17 then m.word b 16 == 0 || decide (1 ≤ fld w 15 0)
     else if o = 19 then m.recPorts.all m.portEn && (m.recPorts.isEmpty || decide (1 ≤ fld w 15 0))
     else true)
  else if 0x0A10 ≤ b ∧ b ≤ 0x0A1F then streamWordOk m (b - 0x0A10) o w
  else if b = 0x0B00 then
    o != 1 || (within 64 4096 (fld w 31 16) && decide (16 ≤ fld w 15 0) && decide (2 * fld w 15 0 ≤ fld w 31 16))
  else if b = 0x0C00 then (if o = 0 then within 1 60 (fld w 15 0) else within 1 255 (fld w 7 0))
  else if b = 0x0D00 then
    (if o = 0 then within 1 3600 (fld w 25 14)
     else if o = 1 then within 5 255 (fld w 31 24) && within 10 50 (fld w 7 0)
     else decide (fld w 21 16 ≤ 39) && decide (fld w 13 8 ≤ 39) && decide (1 ≤ fld w 7 0)
       && (!(bitAt w 31) || fld w 21 16 != fld w 13 8))
  else if b = 0x0E00 then o != 2 || (decide (1 ≤ fld w 31 16) && within 2 100 (fld w 7 0))
  else true

/-- Step 5 on a word. -/
def wordFail (m : PMem) (b o : Nat) : Option CheckFail :=
  if wordOk m b o = false then some (failAt 0x0301 b o)
  else if (m.word b o).toNat &&& reservedMask b o ≠ 0 then some (failAt 0x0302 b o)
  else none

/-- Step 5: blocks and words in ascending order. -/
def checkFields (m : PMem) : Option CheckFail :=
  allBlocks.findSome? fun b => firstOf ((blockSize b).getD 0) (wordFail m b)

/-! ### Step 6: threads (R80 to R94) -/

/-- Slots of a pod that are enabled and take their taps in the pod itself. -/
def PMem.localSlots (m : PMem) (pod : Nat) : List Nat :=
  (List.range 16).filter fun s => slotEn (m.slot (16 * pod + s)) && !(slotXpod (m.slot (16 * pod + s)))

/-- Enabled cross-pod slots, as channels. -/
def PMem.crossSlots (m : PMem) : List Nat := m.chansOn.filter fun ch => slotXpod (m.slot ch)

/-- Threads that tap a bus (pod and thread), test DACs on it, and slot inputs that it feeds (R82). -/
def PMem.busTaps (m : PMem) (bus : Nat) : List (Nat × Nat) :=
  (List.range 16).flatMap fun pod =>
    ((List.range 40).filter fun tt => tapEn (m.thread pod tt) && tapBus (m.thread pod tt) == bus).map (pod, ·)
def PMem.busDacs (m : PMem) (bus : Nat) : List Nat :=
  (List.range 16).filter fun p => bitAt (m.word (0x0100 + p) 64) 31 && fld (m.word (0x0100 + p) 64) 30 28 == bus
def PMem.busLegs (m : PMem) (bus : Nat) : List Nat :=
  m.crossSlots.flatMap fun ch =>
    (if slotP (m.slot ch) = bus then [ch] else []) ++ (if slotN (m.slot ch) = bus then [ch] else [])

/-- A bus is claimed by the configuration (R82). -/
def PMem.busUsed (m : PMem) (bus : Nat) : Bool :=
  !(m.busTaps bus).isEmpty || !(m.busDacs bus).isEmpty || !(m.busLegs bus).isEmpty

/-- A bus carries at most one use of R82, and a cross-pod bus exactly one tap. -/
def PMem.busOk (m : PMem) (bus : Nat) : Bool :=
  let t := (m.busTaps bus).length
  let d := (m.busDacs bus).length
  let x := (m.busLegs bus).length
  decide (t ≤ 1 ∧ d ≤ 1 ∧ x ≤ 1) && (x == 0 || (d == 0 && t == 1))

/-- Where a bus fails: the last slot, thread or test DAC that claims it. -/
def PMem.busPlace (m : PMem) (bus : Nat) : Nat × Nat :=
  match (m.busLegs bus).getLast?, (m.busTaps bus).getLast?, (m.busDacs bus).getLast? with
  | some ch, _, _ => (0x0100 + ch / 16, 40 + ch % 16)
  | none, some (pod, tt), _ => (0x0100 + pod, tt)
  | none, none, some p => (0x0100 + p, 64)
  | none, none, none => (0x0100, 0)

/-- Threads of a pod with a role, and with a role and a source. -/
def PMem.roleThreads (m : PMem) (pod r : Nat) : List Nat := (List.range 40).filter fun tt => role (m.thread pod tt) == r
def PMem.roleSource (m : PMem) (pod r src : Nat) : List Nat :=
  (m.roleThreads pod r).filter fun tt => source (m.thread pod tt) == src

/-- A source of a pod is enabled (IX 0 to 4, VX 8 and 9). -/
def PMem.srcEn (m : PMem) (pod src : Nat) : Bool :=
  if src ≤ 4 then ixEn (m.ix pod src) else (src == 8 || src == 9) && bitAt (m.vx pod (src - 8)) 31

/-- Row 1 of R84. -/
def heddle1 (m : PMem) (pod : Nat) : Option CheckFail :=
  (firstOf 16 fun sl =>
    let w := m.slot (16 * pod + sl)
    let off := fun (tt : Nat) => role (m.thread pod tt) == 0
    need (!((m.localSlots pod).contains sl && (off (slotP w) || off (slotN w)))) 0x0202 (0x0100 + pod) (40 + sl))
  <|> [8, 9].findSome? fun r =>
    match m.roleThreads pod r with
    | _ :: tt :: _ => some (failAt 0x0202 (0x0100 + pod) tt)
    | _ => none

/-- Uses of a P thread as a P tap: by slots of its pod, and by the cross-pod slot that its bus feeds (R80, R83). -/
def PMem.pUses (m : PMem) (pod tt : Nat) : Nat :=
  let w := m.thread pod tt
  ((m.localSlots pod).filter fun sl => slotP (m.slot (16 * pod + sl)) == tt).length
    + (if tapEn w && (m.busTaps (tapBus w)).length == 1 then
        (m.crossSlots.filter fun ch => slotP (m.slot ch) == tapBus w).length else 0)

/-- Row 2 of R84. -/
def heddle2 (m : PMem) (pod : Nat) : Option CheckFail :=
  (firstOf 40 fun tt =>
    need (role (m.thread pod tt) != 1 || m.pUses pod tt == 1) 0x0201 (0x0100 + pod) tt)
  <|> firstOf 16 fun sl =>
    let w := m.slot (16 * pod + sl)
    let rp := fun (tt : Nat) => role (m.thread pod tt)
    let legOk := fun (bus r : Nat) => match m.busTaps bus with
      | [(p, tt)] => role (m.thread p tt) == r
      | _ => true
    let ok :=
      if slotEn w = false then true
      else if slotXpod w then legOk (slotP w) 1 && legOk (slotN w) 2
      else [1, 3, 4].contains (rp (slotP w)) && [2, 3, 4].contains (rp (slotN w))
    need ok 0x0201 (0x0100 + pod) (40 + sl)

/-- Row 3 of R84. -/
def heddle3 (m : PMem) (pod : Nat) : Option CheckFail :=
  firstOf 16 fun sl =>
    let w := m.slot (16 * pod + sl)
    need (!(slotEn w && slotP w == slotN w)) 0x0201 (0x0100 + pod) (40 + sl)

/-- Row 4 of R84. -/
def heddle4 (m : PMem) : Option CheckFail :=
  firstOf 8 fun bus => need (m.busOk bus) 0x0203 (m.busPlace bus).1 (m.busPlace bus).2

/-- An enabled current source of row 5 of R84: IX4 only once a substitution has brought it in (R461). -/
def ixRuleOk (m : PMem) (pod n : Nat) (ix4 : Bool) : Bool :=
  let w := m.ix pod n
  let p := m.ix pod (ixPartner w)
  !(ixEn w) || ((m.roleSource pod 3 n).length == 1 && (n != 4 || ix4)
    && (!(ixSwap w) || (ixEn p && ixSwap p && ixPartner p == n && ixCode p == ixCode w && ixTh p == ixTh w
      && ixReverse p == ixReverse w))
    && (!(ixReverse w) || !(m.roleSource pod 4 n).isEmpty))

/-- Row 5 of R84. -/
def heddle5 (m : PMem) (ix4 : Nat → Bool) (pod : Nat) : Option CheckFail :=
  (firstOf 40 fun tt =>
    let w := m.thread pod tt
    need ((role w != 3 || m.srcEn pod (source w)) && ((role w != 3 && role w != 4) || source w != 4 || ix4 pod))
      0x0204 (0x0100 + pod) tt)
  <|> (firstOf 5 fun n => need (ixRuleOk m pod n (ix4 pod)) 0x0204 (0x0100 + pod) (56 + n))
  <|> firstOf 16 fun sl =>
    let w := m.slot (16 * pod + sl)
    need (!(slotEn w) || slotExc w == 15 || m.srcEn pod (slotExc w)) 0x0204 (0x0100 + pod) (40 + sl)

/-- Row 6 of R84. -/
def heddle6 (m : PMem) (pod : Nat) : Option CheckFail :=
  firstOf 2 fun k =>
    need (!(bitAt (m.vx pod k) 31) || ((m.roleSource pod 6 (8 + k)).length == 1 && (m.roleSource pod 7 (8 + k)).length == 1))
      0x0205 (0x0100 + pod) (61 + k)

/-- Row 7 of R84: T_H is 2^k / 2000 s. -/
def heddle7 (m : PMem) (pod : Nat) : Option CheckFail :=
  firstOf 16 fun sl =>
    let ch := 16 * pod + sl
    let w := m.slot ch
    let x := m.ix pod (slotExc w)
    let g := m.group ch
    need (!(slotEn w && decide (slotExc w ≤ 4) && (ixSwap x || ixReverse x))
      || decide (m.count g * 2 ^ ixTh x ≤ 500 * m.cycle g)) 0x0206 (0x0100 + pod) (40 + sl)

/-- R84: rule by rule, pods ascending. -/
def checkHeddle (m : PMem) (ix4 : Nat → Bool) : Option CheckFail :=
  firstOf 16 (heddle1 m) <|> firstOf 16 (heddle2 m) <|> firstOf 16 (heddle3 m) <|> heddle4 m
    <|> firstOf 16 (heddle5 m ix4) <|> firstOf 16 (heddle6 m) <|> firstOf 16 (heddle7 m)

/-! ### Step 6: conversion, filters, rates, Warp -/

/-- Scan lists and the simultaneous group (R138). -/
def checkScan (m : PMem) : Option CheckFail :=
  (firstOf 8 fun k =>
    let o := 17 + 17 * k
    let h := m.word 0x0201 o
    let threads := (List.range (fld h 24 20)).any fun i => !(bitAt (m.word 0x0201 (o + 1 + i)) 15)
    need (!(bitAt h 31 && threads && m.busUsed (fld h 30 28))) 0x0203 0x0201 o)
  <|> firstOf 8 fun n =>
    let g := m.word 0x0201 16
    need (!(bitAt g 31 && bitAt g (16 + n)) || m.busUsed n) 0x0203 0x0201 16

/-- Notch rate f_N as modulator clocks per word (R148). -/
def PMem.notchSpan (m : PMem) (ch : Nat) : Nat := if m.firByp ch then m.dec ch else 2 * m.dec ch

/-- A channel's notch (R153, R154). -/
def checkNotch (m : PMem) (ch : Nat) : Option CheckFail :=
  needAt (m.notch ch == 0 || decide (1000 ≤ m.notchSpan ch)) 0x0206 0x0300 ch ch
  <|> needAt (m.notch ch != 3 || (bitAt m.mains 31 && m.chanOn (fld m.mains 7 0))) 0x0211 0x0300 ch ch

/-- A channel's rates (R183): f_N and f_R are at least twice f_O. -/
def checkRates (m : PMem) (ch : Nat) : Option CheckFail :=
  let g := m.group ch
  let fast := fun (span : Nat) => decide (2 * m.count g * span ≤ 25600000 * m.cycle g)
  if m.chanOn ch = false then none
  else needAt (m.groupEn g) 0x0207 0x0401 ch ch <|> needAt (fast (m.notchSpan ch) && fast (m.reedDec ch)) 0x0206 0x0401 ch ch

/-- PTP_EN of an enabled port (R366). -/
def PMem.ptpPorts (m : PMem) : List Nat := [0, 1].filter fun p => m.portEn p && bitAt (m.portW p 0) 27

/-- The Warp's roles (R203). -/
def checkWarp (m : PMem) : Option CheckFail :=
  need (!(m.isRoot && (m.wportEn 0 || decide (2 ≤ m.timeSrc)))) 0x0212 0x0500 0
  <|> need (m.isRoot || (m.wportEn 0 && decide (2 ≤ m.timeSrc))) 0x0212 0x0500 0
  <|> need (m.timeSrc % 2 == 0 || !m.ptpPorts.isEmpty) 0x0212 0x0500 0

/-! ### Step 6: linearisation, Treadle, loops, Weft, pairing -/

/-- A curve that can serve as a cold junction (R241, R333). -/
def junctionCurve (c : Nat) : Bool := within 16 19 c || c == 24

/-- Linearisation of a channel (R249). -/
def checkLin (m : PMem) (ch : Nat) : Option CheckFail :=
  let c := m.curve ch
  let k := inputKind m c (m.setNo ch)
  let e := slotExc (m.slot ch)
  let j := m.cjCh ch
  if m.chanOn ch = false then none
  else
    needAt (!(within 1 8 c) || (m.cjMode ch != 0 && (m.cjMode ch != 1 || (j != ch && m.chanOn j && junctionCurve (m.curve j)))))
      0x020C 0x0600 ch ch
    <|> needAt ((k != 1 || decide (e ≤ 4)) && (k != 2 || e == 8 || e == 9)) 0x020C 0x0600 ch ch
    <|> needAt ((setNeeded c).all fun n => m.setKind (m.setNo ch) == n) 0x0213 0x0600 ch ch

/-- An operand of a transition is defined (R288, R305). -/
def operandOk (m : PMem) (x : Nat) : Bool :=
  let i := x % 32
  match x / 32 with
  | 0 => i == 0
  | 1 => compEn (m.comp i 0)
  | 2 => decide (i < 16) && tioEn (m.tio i)
  | _ => decide (i ≤ 3)

/-- Where transition part `part` of a pair of state and number lies. -/
def transOff (x : Nat × Nat) (part : Nat) : Nat := 17 + 12 * x.1 + 3 * x.2 + part

/-- The Treadle (R305). -/
def checkTreadle (m : PMem) : Option CheckFail :=
  (firstOf 4 fun q => (m.actives q).findSome? fun x =>
    let a := m.trans q x.1 x.2 0
    let b := m.trans q x.1 x.2 1
    need ((opnds a).all (operandOk m)) 0x020E (0x0801 + q) (transOff x 0)
    <|> need (!(trTrig b) || m.bobEn (trBob b)) 0x020E (0x0801 + q) (transOff x 1))
  <|> (firstOf 8 fun b =>
    need (decide (((List.range 4).filter fun q => m.feeds q b).length ≤ 1)) 0x020E (0x0810 + b) 0)
  <|> (firstOf 32 fun c => needAt (!(compEn (m.comp c 0)) || m.chanOn (compCh (m.comp c 0))) 0x020E 0x0800 (4 * c) c)
  <|> (firstOf 8 fun b =>
    let feeders := (List.range 4).filter fun q => m.feeds q b
    if m.bobEn b = false then none
    else
      ((m.bobChans b).findSome? fun ch =>
        needAt (m.chanOn ch && m.group ch == m.bobGroup b) 0x0207 (0x0810 + b) (10 + ch / 32) ch)
      <|> need (feeders.all fun q => m.clkGroup q == m.bobGroup b) 0x0207 (0x0810 + b) 0)
  <|> (firstOf 4 fun q => needAt ((m.actives q).isEmpty || m.groupEn (m.clkGroup q)) 0x0207 (0x0801 + q) 0 q)
  <|> firstOf 4 fun q => (m.actives q).findSome? fun x =>
    let b := m.trans q x.1 x.2 1
    need (!(bitAt b 24) || bitAt (m.loopW (fld b 23 20) 0) 31) 0x020D (0x0801 + q) (transOff x 1)

/-- Slots of an enabled loop driver (R333). -/
def checkLoop (m : PMem) (n : Nat) : Option CheckFail :=
  if bitAt (m.loopW n 0) 31 = false then none
  else firstOf 4 fun sl =>
    let w := m.loopSlot n sl 0
    let kind := fld w 31 30
    let ch := fld w 7 0
    let b := fld w 23 21
    needAt (kind != 1 || m.chanOn ch) 0x020D 0x0900 (14 * n + 2 + 3 * sl) n
    <|> needAt (kind != 2 || (m.bobEn b && m.measAt b (fld w 20 18) != 0 && m.bobHas b ch)) 0x020D 0x0900 (14 * n + 2 + 3 * sl) n

/-- Tables that loops and outputs name, and the outputs' test DACs (R333). -/
def checkTables (m : PMem) : Option CheckFail :=
  (firstOf 16 fun n => firstOf 4 fun sl =>
    let w := m.loopSlot n sl 0
    needAt (!(bitAt (m.loopW n 0) 31 && fld w 31 30 == 3) || m.tableEn (fld w 27 24)) 0x0210 0x0900 (14 * n + 2 + 3 * sl) n)
  <|> firstOf 16 fun p =>
    let h := m.stimW p 0
    needAt ((!(stimTbl h) || m.tableEn (stimTable h)) && (stimMode h == 0 || bitAt (m.word (0x0100 + p) 64) 31))
      0x0210 0x0901 (6 * p) p

/-- Buses of an output (R323, R333): its one tap is an OFF thread, and its sense thread is alone on another bus. -/
def checkOutput (m : PMem) (p : Nat) : Option CheckFail :=
  let h := m.stimW p 0
  let bus := fld (m.word (0x0100 + p) 64) 30 28
  let out := match m.busTaps bus with
    | [(q, tt)] => role (m.thread q tt) == 0
    | _ => false
  let w := m.thread p (fld h 11 6)
  let sense := tapEn w && tapBus w != bus && (m.busTaps (tapBus w)).length == 1 && (m.busDacs (tapBus w)).isEmpty
    && (m.busLegs (tapBus w)).isEmpty
  needAt (stimMode h == 0 || (out && (decide (stimMode h < 2) || sense))) 0x0203 0x0901 (6 * p) p

/-- The curve of an output (R248, R249, R333). -/
def checkOutCurve (m : PMem) (p : Nat) : Option CheckFail :=
  let h := m.stimW p 0
  let c := fld h 21 16
  let set := fld h 15 12
  let j := fld (m.stimW p 5) 7 0
  let tm := fld h 28 27
  if stimMode h = 0 then none
  else
    needAt ((setNeeded c).all fun n => m.setKind set == n) 0x0213 0x0901 (6 * p) p
    <|> needAt (monotonic m c set) 0x0301 0x0901 (6 * p) p
    <|> needAt (!(within 1 8 c) || tm == 2 || (tm == 1 && m.chanOn j && junctionCurve (m.curve j))) 0x020C 0x0901 (6 * p) p

/-- Loops, outputs and tables (R333). -/
def checkDrive (m : PMem) : Option CheckFail :=
  (firstOf 16 fun n =>
    let w := m.loopW n 0
    needAt (!(bitAt w 31 && bitAt w 28) || m.setKind (fld w 23 20) == 4) 0x0213 0x0900 (14 * n) n)
  <|> firstOf 16 (checkLoop m) <|> checkTables m <|> firstOf 16 (checkOutput m) <|> firstOf 16 (checkOutCurve m)

/-- Port rate in bit/s (R365). -/
def PMem.portRate (m : PMem) (p : Nat) : Nat := if m.portMode p = 0 then 10000000000 else 1000000000

/-- Streams and ports (R365). -/
def checkWeft (m : PMem) : Option CheckFail :=
  (firstOf 16 fun k =>
    if m.streamEn k = false then none
    else firstOf 256 fun ch =>
      needAt (!(m.streamHas k ch) || (m.chanOn ch && m.group ch == m.streamGroup k && m.groupEn (m.streamGroup k)))
        0x0207 (0x0A10 + k) (3 + ch / 32) ch)
  <|> firstOf 2 fun p =>
    needAt (decide (fld (m.portW p 5) 19 0 * 256 * 8 * 10 ≤ m.portRate p)) 0x020F 0x0A00 (8 * p + 5) p

/-- Anything that a hub drives is configured (R447). -/
def PMem.anyDriver (m : PMem) : Bool :=
  (List.range 16).any fun p =>
    (List.range 5).any (fun n => ixEn (m.ix p n)) || (List.range 2).any (fun k => bitAt (m.vx p k) 31)
      || bitAt (m.word (0x0100 + p) 65) 31 || bitAt (m.loopW p 0) 31 || stimMode (m.stimW p 0) != 0

/-- Pairing (R447). -/
def checkPair (m : PMem) : Option CheckFail :=
  need (!(m.pairEn && m.anyDriver) || (List.range 4).any fun w => bitAt (m.word 0x0D00 (2 + w)) 31) 0x0204 0x0D00 0

/-- Step 6, in the order of the chapters. -/
def checkRules (m : PMem) (ix4 : Nat → Bool) : Option CheckFail :=
  checkHeddle m ix4 <|> checkScan m <|> firstOf 256 (checkNotch m) <|> firstOf 256 (checkRates m) <|> checkWarp m
    <|> firstOf 256 (checkLin m) <|> checkTreadle m <|> checkDrive m <|> checkWeft m <|> checkPair m

/-! ### Step 7: resources -/

/-- Sum of fractions. -/
def sumFrac (l : List (Nat × Nat)) : Nat × Nat := l.foldl fracAdd (0, 1)

/-- A converter's load in conversions per beat (R138, R333). -/
def PMem.scLoad (m : PMem) (n : Nat) : Nat × Nat :=
  let lists := (List.range 8).filterMap fun k =>
    let h := m.word 0x0201 (17 + 17 * k)
    if bitAt h 31 && fld h 30 28 == n then some (fld h 24 20 * 100, max 1 (fld h 19 0)) else none
  let outs := (List.range 16).map fun p =>
    let h := m.stimW p 0
    if 2 ≤ stimMode h then
      50 * (b2n (fld (m.word (0x0100 + p) 64) 30 28 == n) + b2n (tapBus (m.thread p (fld h 11 6)) == n))
    else 0
  sumFrac ((32 + outs.sum, 1) :: lists)

/-- Load of the loom fabric in multiply-accumulates per second (R173, R189). -/
def PMem.macLoad (m : PMem) : Nat × Nat :=
  sumFrac (m.chansOn.flatMap fun ch =>
    let g := m.group ch
    let nb := if m.notch ch = 0 then 0 else if m.h3 ch then 2 else 1
    (if m.firByp ch then [] else [(16 * 25600000, m.dec ch)]) ++ [(6 * nb * 25600000, m.notchSpan ch)]
      ++ [(130 * m.count g, max 1 (m.cycle g))])

/-- The load fits a number of lanes of 400 MHz. -/
def PMem.macFits (m : PMem) (lanes : Nat) : Bool := decide (m.macLoad.1 ≤ 400000000 * lanes * m.macLoad.2)

/-- Frames of a stream's sections as bytes, with what each adds on the wire or in the store (R365, R378). -/
def PMem.streamBytes (m : PMem) (k span : Nat) : Nat :=
  ((List.range 8).map fun i =>
    let n := (m.secChans k i).length
    if n = 0 then 0 else span + 32 + 5 * m.frameSamples k * n + m.slack k + 4).sum

/-- Bytes per second of a stream, as a fraction: f_O / FRAME_SAMPLES frames of each section. -/
def PMem.streamRate (m : PMem) (k span : Nat) : Nat × Nat :=
  (m.streamBytes k span * m.count (m.streamGroup k), max 1 (m.cycle (m.streamGroup k) * m.frameSamples k))

/-- Enabled streams. -/
def PMem.streamsOn (m : PMem) : List Nat := (List.range 16).filter m.streamEn

/-- Delivery rates (R365). -/
def checkRate (m : PMem) : Option CheckFail :=
  let samples := sumFrac (m.streamsOn.map fun k =>
    let g := m.streamGroup k
    ((((List.range 256).filter (m.streamHas k)).length * 5 * m.count g), max 1 (m.cycle g)))
  needAll (decide (samples.1 ≤ 256000000 * samples.2)) 0x020A
  <|> firstOf 2 fun p =>
    let w := sumFrac ((m.streamsOn.filter fun k => (m.streamPorts k).contains p).map fun k => m.streamRate k 74)
    needAt (decide (w.1 * 8 * 10 ≤ m.portRate p * 8 * w.2)) 0x020A 0x0A00 (8 * p) p

/-- The record store (R183, R305, R333, R365): allocations, then a retention pool of 4 MiB and of 200 ms. -/
def checkStore (m : PMem) : Option CheckFail :=
  let pool := 2 ^ 26 - m.storeAlloc
  let w := sumFrac (m.streamsOn.map fun k => m.streamRate k 0)
  needAll (decide (m.storeAlloc ≤ 2 ^ 26) && decide (2 ^ 22 ≤ pool) && decide (w.1 ≤ 5 * pool * w.2)) 0x020B

/-- Step 7, in the order of the chapters. -/
def checkResources (m : PMem) : Option CheckFail :=
  (firstOf 8 fun n => needAt (decide ((m.scLoad n).1 ≤ 4000 * (m.scLoad n).2)) 0x0508 0x0201 17 n)
    <|> (firstOf 4 fun die => needAt (reedFits m die []) 0x0208 0x0301 die die)
    <|> needAll (m.macFits 64) 0x0209 <|> checkRate m <|> checkStore m

/-- Steps 5 to 7 of the consistency check (R67) on a configuration; none where it passes. -/
def State.check (s : State) (m : PMem) : Option CheckFail :=
  checkFields m <|> checkRules m (fun pod => s.pow.replaced.get (pod * 32) != 0) <|> checkResources m

end Sys2Proof.Machine
end

