-- ==== Sys2Proof/Machine/Moves.lean ====
section
/-! DEFINITION. Moves of the hub state (R56, R57), entry to FAULT and its clearing (R497), COMMIT (R63, R66 to R68) and
JOB_CANCEL (R55). -/

namespace Sys2Proof.Machine

open Sys2Proof

/-! ### Sampling starts and stops -/

/-- Enabled channels that do not run yet begin to be sampled. -/
def startSampling (b : Nat) (s : State) : State :=
  (s.cfg.active.chansOn.filter fun ch => (s.chan ch).set.isNone).foldl (startChan b) s

/-- A slot is no longer watched: its lead detectors fall back to clear, and its overrange ends. -/
def quietSlot (ch : Nat) (s : State) : State :=
  let s := (List.range 4).foldl (fun s d => leadClear ch d false s) s
  let now := fineOf s.clk.loom
  let end_ := fun (p : OvrSpan) => if p.ended.isNone then { p with ended := some (max p.onset now) } else p
  ovrUpd ch (fun o => { o with spans := o.spans.map end_, level := false, satUntil := 0 }) s

/-- Sampling stops (R56): every channel, its detectors with it. -/
def stopSampling (s : State) : State :=
  let chs := (List.range 256).filter fun ch => (s.chan ch).set.isSome
  let s := chs.foldl (fun s ch => quietSlot ch s) s
  chs.foldl (fun s ch => chanUpd ch Chan.stop s) s

/-- Path tests and calibration runs end where the hub leaves SERVICE but for READY: the slots return (log entry 34). -/
def endTests (s : State) : State :=
  (s.liveJobs.filter fun j => match j.2.work with
    | .pathTest .. => true
    | .calRun .. => true
    | _ => false).foldl (fun s j => testEnd j.1 3 0 [] s) s

/-! ### Moves -/

/-- A staged change that is a commanded state change (R57): a move, or a detachment, which is a move to CONFIG (R445).
-/
def isMove (c : Staged) : Bool := match c.change with
  | .move _ => true
  | .detach => true
  | _ => false

/-- A staged change is cancelled (R57, R77, R293). -/
def cancelEvent (s : State) (c : Staged) : State := logEvent 0x0101 c.cmd (reqDetail c.mb c.seq) s

/-- A commanded move that waits is cancelled (R57). -/
def cancelMoves (s : State) : State :=
  let cs := s.cfg.staged.filter isMove
  cs.foldl cancelEvent { s with cfg := { s.cfg with staged := s.cfg.staged.filter fun c => !(isMove c) } }

/-- So is an arming or disarming that BOOT discards (R293). -/
def cancelArms (s : State) : State :=
  let arms := fun (c : Staged) => match c.change with
    | .arm _ => true
    | .disarm _ => true
    | _ => false
  (s.cfg.staged.filter arms).foldl cancelEvent { s with cfg := { s.cfg with staged := s.cfg.staged.filter fun c => !(arms c) } }

/-- The threads of those pods that have a role or tap switch at a loom time (R96, R97). -/
def podsSwitch (pods : List Nat) (at_ : Nat) (s : State) : State :=
  let used := pods.filter fun pod => (List.range 40).any fun tt =>
    role (s.cfg.active.thread pod tt) != 0 || tapEn (s.cfg.active.thread pod tt)
  used.foldl (fun s pod => noteSwitch pod at_ s) s

/-- The threads of every pod switch. -/
def rolesSwitch (at_ : Nat) (s : State) : State := podsSwitch (List.range 16) at_ s

/-- The threads of a pod die switch as its domain goes off or comes on (R97), in the states that apply roles. -/
def dieSwitch (die : Nat) (s : State) : State :=
  if s.running then podsSwitch ((List.range 4).map (4 * die + ·)) s.clk.loom s else s

/-- What stops as the hub leaves a state for another (R56, R57). -/
def leaveState (old new : HubState) (at_ : Nat) (s : State) : State :=
  let s := if new = .fault ∨ new = .safe ∨ new = .boot then cancelMoves s else s
  let s := if new = .boot then cancelArms s else s
  let s := if old = .run ∨ old = .service ∨ old = .fault then
      { s with hub := { s.hub with left := at_ :: s.hub.left.filter fun x => decide (s.clk.loom < x + 2 ^ 31) } }
    else s
  let s := if stSampling old != stSampling new && new != .boot && new != .safe then
      rolesSwitch at_ (if stSampling new then listsFrom at_ (List.range 8) s else s)
    else s
  let s := if new = .run ∨ new = .service then setDelivering true at_ s
    else if new = .fault ∨ new = .safe then s
    else setDelivering false at_ s
  let s := if old = .run ∧ new ≠ .safe ∧ new ≠ .boot then leaveRunTreadle at_ s else s
  if old = .service ∧ (new = .config ∨ new = .fault) then endTests s else s

/-- What starts and stops as the hub arrives in a state (R56, R57). -/
def arriveState (old new : HubState) (reason at_ : Nat) (s : State) : State :=
  match new with
  | .ready =>
    let s := startSampling at_ s
    let s := if old = .run ∨ old = .fault then stopStims false s else s
    (List.range 16).foldl (initSlot s.cfg.active) (if old = .fault then { s with hub := { s.hub with causes := [] } } else s)
  | .run => startSampling at_ s
  | .service => holdTables at_ (stopStims true s)
  | .config => stopStims true (stopSampling s)
  | .fault => alarmNotice true 0x24 0xFFFF reason (if s.yields then s else stopStims true s)
  | .boot => s
  | .safe => haltStims s

/-- The hub state changes at a loom time (R56, R57, R76, R77): logged, with what starts and stops there. SAFE is left
for BOOT only (R61). -/
def enterState (new : HubState) (reason source at_ : Nat) (s : State) : State :=
  let old := s.hub.state
  if old = new ∨ (old = .safe ∧ new ≠ .boot) then s
  else
    let s := logEvent reason source (stateCode old * 16 + stateCode new)
      { s with hub := { s.hub with
        state := new, safeFrom := if new = .safe then old else s.hub.safeFrom
        lastCause := if reason = 0 then s.hub.lastCause else reason } }
    cutLeads (arriveState old new reason at_ (leaveState old new at_ s))

/-! ### FAULT (R497) -/

/-- Reason of a cause of FAULT. -/
def causeReason : FaultCause → Nat
  | .xiLost => 0x0408
  | .domainLost _ => 0x0105
  | .stagedHusk _ => 0x0407
  | .macLoad _ => 0x0209

/-- A cause arises: recorded, and the hub enters FAULT from CONFIG, READY, RUN or SERVICE. -/
def enterFault (c : FaultCause) (s : State) : State :=
  let add := fun (s : State) =>
    if s.hub.causes.contains c then s else { s with hub := { s.hub with causes := s.hub.causes ++ [c] } }
  match s.hub.state with
  | .fault => add s
  | .config | .ready | .run | .service => add (enterState .fault (causeReason c) 0 s.clk.loom s)
  | .boot | .safe => s

/-- Rails that feed a domain (R450), in the order of that table: 0 VDD_KA to 7 VHN. -/
def domainRails (d : Nat) : List Nat :=
  if d = 0 then [0, 3, 4] else if d = 1 then [1, 3, 4] else if d = 2 then [2, 4] else if d = 3 then [1, 3, 4]
  else [3, 4, 5, 6, 7]

/-- Every rail that feeds a domain is in window. -/
def State.railsIn (s : State) (d : Nat) : Bool := (domainRails d).all fun r => (s.pow.rails.get r).state == 0

/-- MAC lanes in service (R173, R459, R460): 64, less those retired and not replaced. -/
def State.macLanes (s : State) : Nat := 64 - (s.pow.worn.filter fun w => w.kind == 2 && w.state != 2).length

/-- The MAC load is a cause of FAULT where it exceeds the lanes in service (R460). -/
def macFault (s : State) : State :=
  if s.cfg.active.macFits s.macLanes then s else enterFault (.macLoad (s.pow.used.get 2)) s

/-- A recorded cause has cleared. -/
def State.cleared (s : State) : FaultCause → Bool
  | .xiLost => s.hub.clocks.isEmpty && s.hub.clocksGood.all fun c => decide (c.2 + usLoom 1000 ≤ s.clk.loom)
  | .domainLost d => s.domOn d && (s.pow.domains.get d).good && s.railsIn d
  | .stagedHusk k =>
    if k / 65536 = 0x0700 ∧ 0x7000 ≤ k % 65536 then s.cfg.huskFails.get k == 0
    else s.cfg.active.word (k / 65536) (k % 65536) == s.cfg.force.word (k / 65536) (k % 65536)
  | .macLoad spares => decide (spares < s.pow.used.get 2) || s.cfg.active.macFits s.macLanes

/-- The reason of the first recorded cause that has not cleared, in the order of the table. -/
def State.uncleared (s : State) : Option Nat :=
  [0x0408, 0x0105, 0x0407, 0x0209].find? fun r => s.hub.causes.any fun c => causeReason c == r && !(s.cleared c)

/-! ### State commands (R57 to R60, R74) -/

/-- Stage a move (R57). -/
def stageMove (target : HubState) (rq : Req) (s : State) : Reply × State :=
  if s.pendingMove.isSome then (.no 0x0107, s) else (.staged s.due [], stage (.move target) rq s)

/-- A domain that sampling needs is switched off (R453). -/
def State.coreCut (s : State) : Bool := (s.pow.domains.get 1).state == 0 || (s.pow.domains.get 2).state == 0

/-- ENTER_CONFIG. -/
def execEnterConfig (t : Nat) (rq : Req) (s : State) : Host.Outcome State Fault Refusal :=
  runCmd { code := 0x0020, legal := (fun h => h == .ready || h == .service || h == .fault), standbyNo := true, len := lenIs 0 }
    (stageMove .config) t rq s

/-- START: refused on a detached hub (R445). -/
def execStart (t : Nat) (rq : Req) (s : State) : Host.Outcome State Fault Refusal :=
  runCmd { code := 0x0021, legal := (· == .ready), standbyNo := true, len := lenIs 0 }
    (fun rq s =>
      if s.pair.detached then (.no 0x0101, s)
      else if s.coreCut then (.no 0x0105, s)
      else stageMove .run rq s) t rq s

/-- STOP. -/
def execStop (t : Nat) (rq : Req) (s : State) : Host.Outcome State Fault Refusal :=
  runCmd { code := 0x0022, legal := (· == .run), standbyNo := true, len := lenIs 0 } (stageMove .ready) t rq s

/-- ENTER_SERVICE. -/
def execEnterService (t : Nat) (rq : Req) (s : State) : Host.Outcome State Fault Refusal :=
  runCmd { code := 0x0023, legal := (· == .ready), standbyNo := true, len := lenIs 0 } (stageMove .service) t rq s

/-- A path test or a calibration run is in progress (R142, R265). -/
def State.testing (s : State) : Bool :=
  s.liveJobs.any fun j => match j.2.work with
    | .pathTest .. => true
    | .calRun .. => true
    | _ => false

/-- LEAVE_SERVICE. -/
def execLeaveService (t : Nat) (rq : Req) (s : State) : Host.Outcome State Fault Refusal :=
  runCmd { code := 0x0024, legal := (· == .service), standbyNo := true, len := lenIs 0 }
    (fun rq s => if s.testing then (.no 0x0108, s) else stageMove .ready rq s) t rq s

/-- FAULT_CLEAR (R60, R497): every cause must have cleared, and the configuration in force pass its check. -/
def execFaultClear (t : Nat) (rq : Req) (s : State) : Host.Outcome State Fault Refusal :=
  runCmd { code := 0x0025, legal := (· == .fault), standbyNo := false, len := lenIs 0 }
    (fun rq s =>
      match s.uncleared, s.check s.cfg.force with
      | some e, _ => (.no e, s)
      | none, some (e, l) => (.refused e l, s)
      | none, none => stageMove .ready rq s) t rq s

/-! ### COMMIT -/

/-- LIVE keeps its value in force: only REED_SWAP changes it (R8, R175). -/
def keepLive (force m : PMem) : PMem :=
  (List.range 4).foldl (fun m d =>
    m.put (pkey 0x0301 d) ((m.word 0x0301 d &&& 0x7FFFFFFF#32) ||| (force.word 0x0301 d &&& 0x80000000#32))) m

/-- A word belongs to a slot, source or thread that a running test uses (R142, R265): a slot's own words are its slot,
conversion, filter and timing words. -/
def runHolds (m : PMem) (w : JobWork) (key : Nat) : Bool :=
  let slot := fun (ch : Nat) =>
    key == pkey (0x0100 + podOf ch) (40 + ch % 16) || [0x0200, 0x0300, 0x0401].any fun b => key == pkey b ch
  let slots := fun (chs : List Nat) =>
    chs.any fun ch =>
      let x := m.slot ch
      slot ch
        || (!(slotXpod x) && (key == pkey (0x0100 + podOf ch) (slotP x) || key == pkey (0x0100 + podOf ch) (slotN x)))
        || (decide (slotExc x ≤ 4) && key == pkey (0x0100 + podOf ch) (56 + slotExc x))
        || ((slotExc x == 8 || slotExc x == 9) && key == pkey (0x0100 + podOf ch) (53 + slotExc x))
  match w with
  | .pathTest p => (maskChans p.pod p.mask).any slot
  | .calRun r =>
    slots r.chans
      || ((r.kind == 3 || r.kind == 5) && [8, 9].any fun q => (m.roleThreads r.pod q).any fun tt => key == pkey (0x0100 + r.pod) tt)
      || (r.kind == 5 && (if r.source ≤ 4 then key == pkey (0x0100 + r.pod) (56 + r.source)
        else key == pkey (0x0100 + r.pod) (53 + r.source) || [6, 7].any fun q => (m.roleThreads r.pod q).any fun tt =>
          source (m.thread r.pod tt) == r.source && key == pkey (0x0100 + r.pod) tt))
  | _ => false

/-- A changed word's target is held by a running operation (0x0108: R142, R158, R265, R305, R333). -/
def State.held (s : State) (key : Nat) : Bool :=
  let m := s.cfg.active
  let b := key / 65536
  let o := key % 65536
  let die := (b - 0x0310) / 2
  (s.liveJobs.any fun j => runHolds m j.2.work key)
    || (decide (0x0310 ≤ b ∧ b ≤ 0x0317) && (m.liveBank die == (b - 0x0310) % 2 || s.cfg.force.liveBank die == (b - 0x0310) % 2))
    || (decide (0x0801 ≤ b ∧ b ≤ 0x0804) && (s.trd.seqs.get (b - 0x0801)).armed)
    || (decide (0x0810 ≤ b ∧ b ≤ 0x0817) && s.armedFeeds (b - 0x0810))
    || (b == 0x0901 && s.outputPlays (o / 6))
    || (b == 0x0902 && (s.tablePlays (o / 3) || (s.drv.tables.get (o / 3)).loading))

/-- Where a held word lies: rules on a bank, a sequencer or a bobbin name its block, the others the word. -/
def heldPlace (key : Nat) : Locator :=
  let b := key / 65536
  let o := key % 65536
  if 0x0310 ≤ b ∧ b ≤ 0x0817 then { block := b } else { block := b, off := o, idx := partIx b o }

/-- Step 4 of R67 and the refusals 0x0105 and 0x0108, then steps 5 to 7. -/
def State.commitFail (s : State) (ws : List (Nat × Word)) (new : PMem) (checkOnly : Bool) : Option CheckFail :=
  let held := ws.find? fun kw => s.hub.state == .run && blockHeld (kw.1 / 65536)
  let busy := ws.find? fun kw => s.held kw.1
  match held, busy with
  | some kw, _ => some (0x0104, { block := kw.1 / 65536 })
  | none, b =>
    if s.pendingMove.isSome then some (0x0107, {})
    else
      match b with
      | some kw => some (0x0108, heldPlace kw.1)
      | none =>
        if s.hub.state = .config ∧ checkOnly = false ∧ s.coreCut = true then some (0x0105, {}) else s.check new

/-- After a COMMIT that succeeded the lock is free, unless KEEP_LOCK is set (R66, R68). -/
def afterCommit (keep : Bool) (s : State) : State :=
  { s with sh := if keep then { s.sh with work := some { words := s.cfg.force, seq := s.cfg.seq } }
                 else { s.sh with lock := none, work := none } }

/-- What COMMIT answers DONE with: the present beat and the number in force (log entry 35). -/
def State.commitDone (s : State) : Bytes := beBytes 8 s.clk.beat ++ beBytes 4 s.cfg.seq

/-- A COMMIT whose check passed (R68). -/
def commitTake (ws : List (Nat × Word)) (word : Word) (rq : Req) (s : State) : Reply × State :=
  let save := bitAt word 2
  let keep := bitAt word 3
  if ws.isEmpty then
    if save then
      let (ok, s) := persistForce 0x0013 s
      ((if ok then .done s.commitDone else .doneReason 0x0406 s.commitDone), afterCommit keep s)
    else (.done s.commitDone, afterCommit keep s)
  else
    let due := s.due
    let config := s.hub.state == .config
    let s := acceptWords ws rq s
    let s := if config then stage (.move .ready) rq s else s
    if save then
      let (ok, s) := persistForce 0x0013 s
      ((if ok then .staged due (beBytes 4 s.cfg.seq) else .stagedReason 0x0406 due (beBytes 4 s.cfg.seq)), afterCommit keep s)
    else (.staged due (beBytes 4 s.cfg.seq), afterCommit keep s)

/-- The body of COMMIT (R60, R66 to R68), by its COMMIT word: EN 0 does nothing, whichever mailbox holds the lock (log
entry 36); CHECK_ONLY checks; otherwise it commits. Steps 1 to 3 of R67 come in their order. -/
def commitBody (rq : Req) (s : State) : Reply × State :=
  match huskAt rq.payload 0 with
  | none => (.no 0x0401, s)
  | some word =>
    if word &&& 0xFFFFFFF0#32 ≠ 0 then (.no 0x0302, s)
    else if bitAt word 0 = false then (if s.hub.role = .standby then .no 0x0701 else .done s.commitDone, s)
    else
      match lockFault rq.mb s, s.sh.work with
      | some e, _ => (.no e, s)
      | none, none => (.no 0x0106, s)
      | none, some w =>
        if s.hub.role = .standby then (.no 0x0701, s)
        else
        let new := keepLive s.cfg.force w.words
        let ws := s.cfg.force.changes new
        match s.commitFail ws new (bitAt word 1) with
        | some (e, l) => (.refused e l, s)
        | none => if bitAt word 1 then (.done s.commitDone, s) else commitTake ws word rq s

/-- What the three rows of COMMIT need (R59, R60, R66). -/
def commitRules : Rules := { code := 0x0013, legal := stStage, standbyNo := false, len := lenIs 8 }

/-- COMMIT with EN (R66 to R68). -/
def execCommit (t : Nat) (rq : Req) (s : State) : Host.Outcome State Fault Refusal := runCmd commitRules commitBody t rq s

/-- COMMIT with CHECK_ONLY (R66, R67): the same command; its COMMIT word decides (log entry 36). -/
def execCheckOnly (t : Nat) (rq : Req) (s : State) : Host.Outcome State Fault Refusal := runCmd commitRules commitBody t rq s

/-- COMMIT without EN (R66): the same command; its COMMIT word decides (log entry 36). -/
def execCommitNoEn (t : Nat) (rq : Req) (s : State) : Host.Outcome State Fault Refusal := runCmd commitRules commitBody t rq s

/-! ### JOB_CANCEL -/

/-- A deferred swap is withdrawn (R170, R178). -/
def withdrawSwap (id die mb : Nat) (s : State) : State :=
  let staged := s.cfg.staged.filter fun c => match c.change with
    | .reedSwap d _ => d != die
    | _ => true
  let s := { s with
    cfg := { s.cfg with staged }, filt := { s.filt with deferred := s.filt.deferred.filter fun d => d.1 != die } }
  endJob id 3 0 [] 0 (putLive die (1 - s.cfg.force.liveBank die) (some mb) s)

/-- A synchronising reset that has been told to nobody is not performed (R231). -/
def withdrawReset (id : Nat) (s : State) : State :=
  let left := fun (l : List WarpEv) => l.filter fun e => e.typ != 3
  let ports := s.warp.ports.map fun (p : Nat × WPort) => (p.1, { p.2 with queue := left p.2.queue })
  endJob id 3 0 [] 0 { s with warp := { s.warp with reset := none, origin := left s.warp.origin, ports } }

/-- A decompression job is cancelled (R384, R387). -/
def cancelWinnow (id : Nat) (s : State) : State := endJob id 3 0 [] 0 { s with win := { s.win with job := none, jobStalled := false } }

/-- JOB_CANCEL (R55, R74, and the chapters that own jobs). -/
def execJobCancel (t : Nat) (rq : Req) (s : State) : Host.Outcome State Fault Refusal :=
  runCmd { code := 0x0005, legal := stRead, standbyNo := false, len := lenIs 2 }
    (fun rq s =>
      let id := beAt rq.payload 0 2
      match findJob id s, s.jobWork id with
      | none, _ => (.no 0x0307, s)
      | some _, none => (.done [], s)
      | some _, some w =>
        match w with
        | .reedSwap die => (.done [], withdrawSwap id die rq.mb s)
        | .pathTest .. => (.done [], testEnd id 3 0 [] s)
        | .calRun .. => (.done [], testEnd id 3 0 [] s)
        | .syncReset ts =>
          if s.warp.resetTold ∨ ts < s.clk.loom + usLoom 20 then (.no 0x0108, s) else (.done [], withdrawReset id s)
        | .tableLoad k _ => (.done [], tableUpd k (fun x => { x with loading := false }) (cancelWinnow id s))
        | .imageLoad _ => (.done [], cancelWinnow id s)
        | .bridgeZero .. => (.done [], endJob id 3 0 [] 0 s)
        | .storeCrc .. => (.done [], endJob id 3 0 [] 0 s)
        | .other => (.done [], endJob id 3 0 [] 0 s)) t rq s

end Sys2Proof.Machine
end

