-- ==== Sys2Proof/Machine/Integrity.lean ====
section
/-! DEFINITION. Integrity (R392 to R417): scrubbing and what an uncorrectable
codeword does, retired MAC lanes, the voter, clock monitors and crossings, and the commands of the chapter. -/

namespace Sys2Proof.Machine

open Sys2Proof

/-! ### Scrubbing and uncorrectable codewords (R402 to R404) -/

/-- Samples from index a on, at most n of them, become fill samples. -/
def fillRun (fill : Nat → Sample) (a n : Nat) (l : List (Nat × Sample)) : List (Nat × Sample) :=
  ((List.range l.length).zip l).map fun x => if a ≤ x.1 ∧ x.1 < a + n then (x.2.1, fill x.2.2.t) else x.2

/-- The frames of a complete record are changed byte by byte, by offset in the record image (R351); an encoded body is
encoded again. -/
def editRecord (b number : Nat) (g : Nat → Byte → Byte) (s : State) : State :=
  let one := fun (f : WFrame) =>
    if f.flow = 0x100 + b ∧ f.recordNo = number then
      let off := beAt f.header 24 4
      let body := ((List.range f.body.length).zip f.body).map fun ib => g (off + ib.1) ib.2
      { f with body, sent := if f.stage ≠ 2 then f.sent else if f.compress then (deflate body f.effort f.huff).2 else body }
    else f
  { s with weft := { s.weft with pool := s.weft.pool.map one } }

/-- The byte of a word at an offset from its first one. -/
def wordByte (w : Word) (i : Nat) : Byte := (beWord w).getD i 0

/-- What the 32 bytes of a complete record from byte a on held is lost (R300, R301, R303, R404): samples of which a
value word or a flags byte lies there become fill samples, on every tap, and FILL is set; measurements become NaN with
their valid bits clear; marks are lost under MARKOVF, their bytes in the list being free values. -/
def loseWindow (b : Nat) (r : Record) (codes marks a : Nat) (s : State) : State :=
  let hit := fun (lo len : Nat) => decide (a < lo + len ∧ lo < a + 32)
  let n := r.chans.length * r.instants.length
  let entry := 4 + 4 * codes
  let list := 128 + r.chans.length * entry
  let header := list + 16 * marks
  let lane := 5 * n
  let lost := fun (i : Nat) => (List.range r.taps.length).any fun q =>
    hit (header + q * lane + 4 * i) 4 || hit (header + q * lane + 4 * n + i) 1
  let flags := (s.fillSample 0).flags
  let f := s.free
  editRecord b r.number (fun o v =>
    if o = 8 then (if (List.range n).any lost then v ||| 1 else v)
    else if o = 9 then (if (List.range marks).any fun k => hit (list + 16 * k) 16 then v ||| 0x80 else v)
    else if o < 128 then v
    else if o < list then
      let at_ := 128 + (o - 128) / entry * entry
      let j := (o - 128) % entry
      if j = 2 then (List.range codes).foldl (fun v k => if hit (at_ + 4 + 4 * k) 4 then v &&& ~~~(1#8 <<< k) else v) v
      else if 4 ≤ j ∧ hit (at_ + j / 4 * 4) 4 = true then wordByte 0x7FC00004#32 (j % 4)
      else v
    else if o < header then
      (if hit (list + (o - list) / 16 * 16) 16 then (Config.freeWord (f + (o - list))).setWidth 8 else v)
    else
      let q := (o - header) / lane
      let k := (o - header) % lane
      if k < 4 * n then
        (if lost (k / 4) then wordByte (if r.taps.getD q false then 0x7FC00003#32 else 0) (k % 4) else v)
      else if lost (k - 4 * n) then flags else v)
    { s with free := f + 16 * marks }

/-- Some samples of a channel that are still to come, n of them after k others, are filled, and the channel recovers
(R404, R405, R460). -/
def fillNext (ch k n : Nat) (s : State) : State :=
  let m := s.cfg.active
  let step := fun (g : Nat) => m.gridAt (m.group ch) (g + 1)
  let first := m.gridAt (m.group ch) (match (s.chan ch).delivered with
    | some d => d + 1
    | none => (s.chan ch).since)
  let g := stepN step k first
  let z := stepN step (n - 1) g
  let tau := (fineOf z : Int) - fineOf (m.phase ch)
  eventOn ch 1 (tau + 1) (fineOf s.clk.loom) true (chanUpd ch (fun c => { c with skipped := (g - 1, z + 1) :: c.skipped }) s)

/-- What an uncorrectable codeword held (R404): where the store's contents lie is open, so free values choose it.
Word 0 chooses the row of the table of R404, the others the part. -/
def damage (w : Nat → Nat) (s : State) : State :=
  let bob := w 1 % 8
  let x := s.trd.bobs.get bob
  match w 0 % 7 with
  | 0 => s
  | 1 =>
    match s.weft.pool.filter fun f => decide (f.flow < 16) with
    | [] => s
    | f :: l =>
      let hit := (f :: l).getD (w 1 % (l.length + 1)) f
      releaseFrames (fun g => g.flow == hit.flow && g.seq == hit.seq) s
  | 2 =>
    match x.records with
    | [] => s
    | r :: l =>
      let r := (r :: l).getD (w 2 % (l.length + 1)) r
      if r.complete then
        let codes := ((List.range 8).filter fun k => fld (r.words.getD 6 0) (31 - 4 * k) (28 - 4 * k) != 0).length
        let marks := min 64 (s.recordMarks r).length
        let size := r.chans.length * (4 + 4 * codes) + 16 * marks + r.taps.length * (5 * r.chans.length * r.instants.length)
        loseWindow bob r codes marks (128 + w 3 % max 1 size) s
      else
        let hit := fun (y : Record) => if y.number = r.number then
          { y with samples := fillRun s.fillSample (w 3 % max 1 y.samples.length) (w 4 % 33) y.samples } else y
        bobUpd bob (fun x => { x with records := x.records.map hit }) s
  | 3 => bobUpd bob (fun x => { x with history := fillRun s.fillSample (w 2 % max 1 x.history.length) (w 3 % 33) x.history }) s
  | 4 => spoilPoint (w 1 % 16) (w 2 % 2 ^ 18) s
  | 5 => { s with drv := { s.drv with stagingBad := s.drv.stagingBad || s.drv.stagingFor != .free } }
  | _ =>
    match s.cfg.active.chansOn.filter fun ch => s.cfg.active.phase ch != 0 with
    | [] => s
    | ch :: l => fillNext ((ch :: l).getD (w 1 % (l.length + 1)) ch) (w 2 % 2 ^ 16) (1 + w 3 % 8) s

/-- One codeword that the scrubber reads (R402 to R404, R416): one that cannot be corrected is rewritten as zeros, and
what it held is lost. -/
def scrubOne (s : State) (x : Nat × Bytes) : State :=
  let (good, s) := readCode x s
  if good then s
  else
    let f := s.free
    damage (fun i => (Config.freeWord (f + i)).toNat) (writeBack x.1 (zeros 32) { s with free := f + 6 })

/-- SCRUB_PASS (R402 to R404): reads are the codewords read, with their index, those that hold no error left out; a
pass is complete SCRUB_PASS after it began (log entry 46), and what was held against its ROW_LIMIT starts anew. -/
def execScrubPass (t : Nat) (reads : List (Nat × Bytes)) (s : State) : Host.Outcome State Fault Refusal :=
  act t s fun s =>
    if s.domOn 2 then
      let s := (reads.filter fun x => decide (x.1 < 2097152)).foldl scrubOne s
      let s := (s.itg.rowCount.map Prod.fst).foldl rowCheck s
      if s.itg.passFrom + secLoom (fld (s.cfg.active.word 0x0C00 0) 15 0) ≤ s.clk.loom then
        { s with itg := { s.itg with
          passes := inc32 s.itg.passes, lastPass := sat32 ((s.clk.loom - s.itg.passFrom) * 1000 / 2 ^ 32)
          passFrom := s.clk.loom, rowCount := [], rowsTold := [] } }
      else s
    else s

/-! ### MAC lanes and the voter -/

/-- MAC_RESIDUE_FAILURE (R459, R460, R497): the lane is retired, the sample filled; a load above the lanes left is a
cause of FAULT. -/
def execMacResidueFailure (t lane ch : Nat) (s : State) : Host.Outcome State Fault Refusal :=
  act t s fun s =>
    if lane < 72 ∧ s.running = true then
      let s := partWorn 2 0xFF lane s
      let s := if s.cfg.active.chanOn ch ∧ (s.chan ch).set.isSome then fillNext ch 0 1 s else s
      macFault s
    else s

/-- VOTER_DISAGREEMENT (R414): the dissenter of three leaves the set; where no two agree the hub enters SAFE. -/
def execVoterDisagreement (t : Nat) (dissenter : Option Nat) (s : State) : Host.Outcome State Fault Refusal :=
  act t s fun s =>
    let set := s.voters
    let safe := fun (s : State) =>
      if s.hub.state = .boot then s
      else enterState .safe 0x040C 0 s.clk.loom (logEvent 0x040C 0 (maskOf set) s)
    match dissenter with
    | some c =>
      if set.length = 3 ∧ set.contains c = true then
        partWorn 4 0xFF c { s with hub := { s.hub with
          coresOut := if c < 3 then setMem s.hub.coresOut c true else s.hub.coresOut
          coreIn := s.hub.coreIn.filter (· ≠ c) } }
      else if set.length = 2 then safe s
      else s
    | none => safe s

/-! ### Clocks and crossings -/

/-- The clocks that receive at a crossing (R409): a crossing of both ways has both. -/
def receivers (x : Nat) : List Clock :=
  let ply := (List.range 4).flatMap fun k => [Clock.pclk k false, .pclk k true]
  if x ≤ 3 then [.pclk x true, .pclk x false, .lclk] else if x = 4 then [.lclk] else if x = 5 then [.hclk] else if x = 6 then [.lclk]
  else if x = 7 then [.mclk, .lclk] else if x = 8 then [.sclk, .lclk, .hclk, .wclk, .mclk] ++ ply
  else if x = 9 ∨ x = 11 then [.qclk] else [.sclk, .lclk, .hclk, .mclk, .qclk] ++ ply

/-- A receiving clock of a crossing is stopped; without XI all are (R28, R410). -/
def stoppedAt (clocks : List (Clock × ClockReport)) (x : Nat) : Bool :=
  clocks.any fun c => c.2 == .stopped && (c.1 == .xi || (receivers x).contains c.1)

/-- An event handshake whose receiving clock is back (R408, R410): its request is acknowledged from now on. -/
def Shake.wake (x now : Nat) (h : Shake) : Shake := { h with ackAt := h.ackAt.map fun a => max a (now + ackLoom x now) }

/-- The crossings hold their data while a receiving clock is stopped; a stop is counted (R410, R416). -/
def holdCrossings (s : State) : State :=
  let now := s.clk.loom
  let one := fun (t : Tab Crossing) (x : Nat) =>
    let stop := stoppedAt s.hub.clocks x
    t.upd x fun c => { c with
      holds := stop, stops := if stop && !c.holds then inc16 c.stops else c.stops
      shakes := if c.holds && !stop then c.shakes.map fun h => (h.1, h.2.wake x now) else c.shakes }
  { s with itg := { s.itg with crossings := (List.range 12).foldl one s.itg.crossings } }

/-- Alarm 3 follows the clocks reported (R27, R76); XI lost has an event of its own. -/
def clockAlarm (logged : Bool) (s : State) : State := setAlarm 3 (!s.hub.clocks.isEmpty) logged 0xFFFF 0 s

/-- The monitored clocks in order: each has a handshake of its own at crossing 11 (R409). -/
def clockIndex : Clock → Nat
  | .sclk => 0 | .lclk => 1 | .hclk => 2 | .wclk => 3 | .mclk => 4 | .qclk => 5 | .xi => 6
  | .pclk k pod => 7 + 2 * k + b2n pod

/-- QCLK_RESTORE (R28): QCLK has been within tolerance for 1 ms. -/
def execQclkRestore (t : Nat) (s : State) : Host.Outcome State Fault Refusal :=
  act t s fun s =>
    let off := s.hub.clocks.any fun c => c.1 == .qclk || c.1 == .xi
    let fresh := s.hub.clocksGood.any fun c => c.1 == .qclk && decide (s.clk.loom < c.2 + usLoom 1000)
    if off || fresh then s else { s with hub := { s.hub with onKclk := false } }

/-- A staged change is written to the domains through crossing 8 (R31, R409); a change of the hub state or of a power
domain is the supervisor's own. -/
def staysStaged (c : Change) : Bool := match c with
  | .move _ | .detach | .domains _ | .resync | .yield | .mbb => true
  | _ => false

/-- Scan results that a crossing discards are converted again (DESIGN CHOICE, log entry 202). -/
def askAgain (gone : List Held) (s : State) : State :=
  gone.foldl (fun s i => match i with
    | .scan sc r _ _ _ => request sc { r with ready := s.clk.loom } s
    | _ => s) s

/-- A crossing loses the words in flight (R411): its queues are empty, and its pending bits clear. -/
def emptyCrossing (x : Nat) (s : State) : State :=
  let gone := (s.itg.crossings.get x).held
  let clear := fun (h : Shake) => { h with pend := false }
  let s := crossUpd x (fun c => { c with held := [], shakes := c.shakes.map fun h => (h.1, clear h.2) }) s
  let s := if x = 4 then { s with warp := { s.warp with toTreadle := [] } }
    else if x = 7 then { s with pair := { s.pair with out := [] } } else s
  askAgain gone s

/-- A restart of crossing 8 loses the staged writes (R412): the supervisor writes them again before the next cut-off
of R31, so a change whose own cut-off is past takes effect at the boundary after that. -/
def rewriteStaged (s : State) : State :=
  let late := fun (c : Staged) => !(staysStaged c.change) && decide (c.due < s.due)
  { s with cfg := { s.cfg with staged := s.cfg.staged.map fun c => if late c then { c with due := s.due } else c } }

/-- CROSSING_RESTART (R411, R412, R416): both sides empty, the restart is counted, and alarm 14 is set until the next
STATUS. -/
def execCrossingRestart (t x : Nat) (s : State) : Host.Outcome State Fault Refusal :=
  act t s fun s =>
    if x < 12 then
      let s := emptyCrossing x (if x = 8 then rewriteStaged s else s)
      setAlarm 14 true true 0xFFFF 0 (crossUpd x (fun c => { c with restarts := inc16 c.restarts }) s)
    else s

/-! ### Commands -/

/-- A request of a clear byte and a reserved byte (R416). -/
def clearRead (f : State → Bytes) (wipe : State → State) (rq : Req) (s : State) : Reply × State :=
  let clear := beAt rq.payload 0 1
  if clear > 1 then (.no 0x0301, s)
  else if beAt rq.payload 1 1 ≠ 0 then (.no 0x0302, s)
  else (.done (f s), if clear = 1 then wipe s else s)

/-- The payload of INTEGRITY_STATUS (R416). -/
def integrityPayload (s : State) : Bytes :=
  let g := s.itg
  beBytes 4 g.corrected ++ beBytes 4 g.uncorrectable ++ beBytes 4 g.passes ++ beBytes 4 g.lastPass ++ beBytes 8 g.lastBad
    ++ beBytes 2 g.rows ++ beBytes 2 g.husks ++ beBytes 2 g.svRepeats ++ beBytes 2 g.svMissing ++ beBytes 2 g.svStale
    ++ zeros 2 ++ (g.mismatches.getList 0 8).flatMap (beBytes 2)

/-- INTEGRITY_STATUS (R416, R417): what is cleared is every counter. -/
def execIntegrityStatus (t : Nat) (rq : Req) (s : State) : Host.Outcome State Fault Refusal :=
  runCmd { code := 0x0C00, legal := stRead, standbyNo := false, len := lenIs 2 }
    (clearRead integrityPayload fun s => { s with itg := { s.itg with
      corrected := 0, uncorrectable := 0, passes := 0, rows := 0, husks := 0, svRepeats := 0, svMissing := 0, svStale := 0
      mismatches := [] } }) t rq s

/-- The payload of CROSS_STATUS (R416). -/
def crossPayload (s : State) : Bytes :=
  (List.range 12).flatMap fun x =>
    let c := s.itg.crossings.get x
    beBytes 2 c.merged ++ beBytes 2 c.restarts ++ beBytes 2 c.stops ++ beBytes 2 c.dropped

/-- The counters of the crossings start anew. -/
def clearCrossings (s : State) : State :=
  { s with itg := { s.itg with crossings := (List.range 12).foldl (fun (t : Tab Crossing) x => t.upd x fun c =>
    { c with merged := 0, restarts := 0, stops := 0, dropped := 0 }) s.itg.crossings } }

/-- CROSS_STATUS (R408, R416, R417). -/
def execCrossStatus (t : Nat) (rq : Req) (s : State) : Host.Outcome State Fault Refusal :=
  runCmd { code := 0x0C01, legal := stRead, standbyNo := false, len := lenIs 2 } (clearRead crossPayload clearCrossings) t rq s

/-- A pool unit is occupied by a STORE_CRC job (R395, R417). -/
def State.unitBusy (s : State) (u : Nat) : Bool :=
  s.liveJobs.any fun j => match j.2.work with
    | .storeCrc _ _ _ v => v == u
    | _ => false

/-- The running value over more bytes, by algorithm (R392, R394). -/
def unitRun (crc16_ : Bool) (ctx : Word) (d : Bytes) : Word :=
  if crc16_ then (crc16Run (ctx.setWidth 16) d).setWidth 32 else crc32Run ctx d

/-- What CHK_STEP answers with (R393, R394, R416): unit, verdict, running value, final value; and whether mode 2 found
a mismatch. -/
def chkAnswer (unit alg mode : Nat) (ctx : Word) (data : Bytes) : Bytes × Bool :=
  let n := if alg = 1 then 2 else 4
  let body := if mode = 2 then data.take (data.length - n) else data
  let run := unitRun (alg == 1) ctx body
  let fin := if alg = 1 then run else run ^^^ 0xFFFFFFFF#32
  let bad := mode == 2 && beNat (data.drop (data.length - n)) != fin.toNat
  (beBytes 1 unit ++ beBytes 1 (if mode ≠ 2 then 0 else if bad then 2 else 1) ++ zeros 2 ++ beWord run ++ beWord fin, bad)

/-- CHK_STEP (R393, R394, R416, R417): it keeps no state in the hub, since the context travels with the request. -/
def execChkStep (t : Nat) (rq : Req) (s : State) : Host.Outcome State Fault Refusal :=
  runCmd { code := 0x0C02, legal := stRead, standbyNo := false, len := lenIn 13 1004 }
    (fun rq s =>
      let u := beAt rq.payload 0 1
      let alg := beAt rq.payload 1 1
      let mode := beAt rq.payload 2 1
      let n := beAt rq.payload 8 2
      let data := rq.payload.drop 12
      let unit := if u = 0xFF then (if s.unitBusy 6 then 7 else 6) else u
      if data.length ≠ n then (.no 0x0305, s)
      else if u ≠ 6 ∧ u ≠ 7 ∧ u ≠ 0xFF then (.noAt 0x0306 u, s)
      else if alg > 1 ∨ mode > 2 ∨ n = 0 ∨ n > 992 ∨ (mode = 2 ∧ n ≤ (if alg = 1 then 2 else 4)) then (.no 0x0301, s)
      else if beAt rq.payload 3 1 ≠ 0 ∨ beAt rq.payload 10 2 ≠ 0 then (.no 0x0302, s)
      else if s.needsDomain [1] then (.no 0x0105, s)
      else if s.unitBusy unit then (.no 0x0509, s)
      else
        let (p, bad) := chkAnswer unit alg mode (BitVec.ofNat 32 (beAt rq.payload 4 4)) data
        (.done p, if bad then unitMismatch unit s else s)) t rq s

/-- A load or decompression job writes a table or the staging area (R417; log entry 47). -/
def State.storeWriting (s : State) (table : Bool) (k : Nat) : Bool :=
  if table then (s.drv.tables.get k).loading
  else s.drv.stagingFor != .free && (s.win.job.isSome || (List.range 16).any fun k =>
    (s.drv.tables.get k).loading && s.drv.stagingFor == .table k)

/-- STORE_CRC (R416, R417). -/
def execStoreCrc (t : Nat) (rq : Req) (s : State) : Host.Outcome State Fault Refusal :=
  runCmd { code := 0x0C03, legal := stRead, standbyNo := false, len := lenIs 8 }
    (fun rq s =>
      let kind := beAt rq.payload 0 1
      let k := beAt rq.payload 1 1
      let n := beAt rq.payload 4 4
      if beAt rq.payload 2 2 ≠ 0 then (.no 0x0302, s)
      else if kind > 1 then (.no 0x0301, s)
      else if (if kind = 0 then decide (15 < k) else k != 0) = true then (.noAt 0x0306 k, s)
      else if kind = 0 ∧ s.cfg.active.tableEn k = false then (.noAt 0x0210 k, s)
      else if (if kind = 0 then s.cfg.active.tableSize k * 4 else 2 ^ 20) < n then (.no 0x0301, s)
      else if s.needsDomain [1, 2] then (.no 0x0105, s)
      else if s.storeWriting (kind == 0) k then (.no 0x0108, s)
      else if s.unitBusy 6 && s.unitBusy 7 then (.no 0x0509, s)
      else
        match newJob 0x0C03 0 (.storeCrc (kind == 0) k n (if s.unitBusy 6 then 7 else 6)) s with
        | none => (.no 0x0502, s)
        | some (id, s) => (.running id [], s)) t rq s

/-- STORE_CRC_DONE (R18, R416, R417): while D1 and D2 are on. -/
def execStoreCrcDone (t job : Nat) (s : State) : Host.Outcome State Fault Refusal :=
  act t s fun s =>
    match s.jobWork job with
    | some (.storeCrc table k n unit) =>
      if s.domOn 1 = false ∨ s.domOn 2 = false then s else
      let b := if table then (s.drv.tables.get k).bytes.getList 0 n else s.drv.staging.getList 0 n
      let run := crc32Run 0xFFFFFFFF#32 b
      endJob job 1 0 (beWord (run ^^^ 0xFFFFFFFF#32) ++ beBytes 4 n) 0 (unitHolds unit run.toNat s)
    | _ => s

end Sys2Proof.Machine
end

