-- ==== Sys2Proof/Machine/Power.lean ====
section
/-! DEFINITION. Rails and power domains (R450 to R454), the seed bank (R459 to R462), firmware images (R458) and the
commands of the chapter (R464, R465). BOOT stands in Boot.lean. -/

namespace Sys2Proof.Machine

open Sys2Proof

/-! ### Losing and starting domains -/

/-- The detectors of a die's channels are quiet, and its channels deliver fill samples (R452). -/
def quietDie (die : Nat) (s : State) : State :=
  dieLost die ((s.dieChans die).foldl (fun s ch => quietSlot ch s) (dropConverters die s))

/-- The tables hold no points, and the bobbins no history and no record. -/
def emptyTables (x : Tab Table) : Tab Table :=
  (List.range 16).foldl (fun (t : Tab Table) k => t.upd k fun y => { y with points := [], bytes := [] }) x
def emptyBobs (x : Tab Bobbin) : Tab Bobbin :=
  (List.range 8).foldl (fun (t : Tab Bobbin) b => t.upd b fun y => { y with history := [], records := [], running := false }) x

/-- Everything that D2 held is gone (R452): retained frames, histories, records, tables and the staging area. -/
def storeGone (s : State) : State :=
  fillAlarms { s with
    weft := { s.weft with pool := [], opened := [] }
    win := { s.win with queue := [], current := none, stalled := false, jobStalled := false, acc := [], outQueue := [] }
    trd := { s.trd with bobs := emptyBobs s.trd.bobs }
    drv := { s.drv with tables := emptyTables s.drv.tables, staging := [], stagingBad := false }
    itg := { s.itg with words := [], rowCount := [], rowsTold := [] } }

/-- Every sampled channel delivers fill samples (R452); with the store go the words of samples that it held until their
instant (R191). -/
def allLost (store : Bool) (s : State) : State :=
  let now := fineOf s.clk.loom
  s.cfg.active.chansOn.foldl (fun s ch => chanUpd ch (openGap (if store && s.cfg.active.phase ch != 0 then 0 else now)) s) s

/-- What stops with a domain (R452, R453). -/
def domainStops (d : Nat) (s : State) : State :=
  if d = 1 then allLost false ([0, 1, 2, 3, 4, 6, 7].foldl (fun s x => emptyCrossing x s) s)
  else if d = 2 then allLost true (storeGone s)
  else if d = 3 then portDown 1 (portDown 0 s)
  else if 4 ≤ d ∧ d ≤ 7 then plyAlarms (d - 4) (quietDie (d - 4) (dieSwitch (d - 4) s))
  else s

/-- A domain is lost (R452): reported, and D1 or D2 is a cause of FAULT. -/
def loseDomain (d : Nat) (s : State) : State :=
  let x := s.pow.domains.get d
  if x.state = 0 ∨ x.state = 3 then s
  else
    let s := domUpd d (fun x => { x with
      state := 3, losses := inc16 x.losses, good := false, trained := false, aligned := false, align := none }) s
    let s := domainStops d (logEvent 0x0105 0x0E00 d s)
    if d = 1 ∨ d = 2 then enterFault (.domainLost d) s else s

/-- What a loss of power leaves of the writes of the eMRAM that run (R69, R269, R458): their copies and images are
invalid. -/
def tearWrites (s : State) : State :=
  let now := s.clk.loom
  let copy := fun (c : Copy) => { c with valid := false }
  let cal := fun (c : CalCopy) => { c with valid := false }
  let image := fun (x : Image) => { x with invalid := x.invalid || decide (now < x.writeEnds) }
  { s with
    cfg := { s.cfg with
      copyA := tornSlot copy now false s.cfg.copyA s.cfg.writes, copyB := tornSlot copy now true s.cfg.copyB s.cfg.writes
      writes := [] }
    cal := { s.cal with
      copyA := tornSlot cal now false s.cal.copyA s.cal.writes, copyB := tornSlot cal now true s.cal.copyB s.cal.writes
      writes := [] }
    pow := { s.pow with imageA := image s.pow.imageA, imageB := image s.pow.imageB } }

/-- The hub enters BOOT at once (R44, R57, R97): claims end, a commanded move is cancelled, every dynamic tap opens,
and the change is logged. -/
def dropToBoot (source : Nat) (s : State) : State :=
  enterState .boot 0 source s.clk.loom (endClaims (endXi (releaseTaps (List.range 16) s)))

/-- D0 is lost (R44, R57, R77, R452): everything stops, and the hub is held until D0 returns. -/
def loseD0 (s : State) : State :=
  let s := domUpd 0 (fun x => { x with state := 3, losses := inc16 x.losses, good := false }) s
  let s := tearWrites (if s.hub.inReset then s else dropToBoot 0 (logEvent 0x0105 0x0E00 0 s))
  { s with hub := { s.hub with state := .boot, inReset := true }, pair := { s.pair with hbOn := false } }

/-- A domain begins to switch on (R454): held off until its rails are in window. -/
def startDomain (d : Nat) (s : State) : State :=
  if s.railsIn d then
    domUpd d (fun x => { x with state := 1, since := s.clk.loom, good := false, wanted := true, givenUp := false }) s
  else domUpd d (fun x => { x with state := 3, good := false, wanted := true, givenUp := false }) s

/-- A domain is switched off by command (R453, R454). -/
def stopDomain (d : Nat) (s : State) : State :=
  if (s.pow.domains.get d).state = 0 then s
  else
    domainStops d (domUpd d (fun x => { x with
      state := 0, good := false, wanted := false, givenUp := false, trained := false, aligned := false, align := none }) s)

/-- At its beat a DOMAIN_SET takes effect (R454): bit n - 1 for Dn. -/
def applyDomains (mask : Nat) (s : State) : State :=
  [1, 2, 3, 4, 5, 6, 7].foldl (fun s d =>
    let st := (s.pow.domains.get d).state
    if nbit mask (d - 1) then (if st = 0 ∨ st = 3 then startDomain d s else s) else stopDomain d s) s

/-- At a beat boundary a lost domain whose rails are back in window is restarted (R454). -/
def restartDomains (s : State) : State :=
  [1, 2, 3, 4, 5, 6, 7].foldl (fun s d =>
    let x := s.pow.domains.get d
    if x.state = 3 ∧ x.wanted = true ∧ x.givenUp = false ∧ s.railsIn d = true then startDomain d s else s) s

/-- The fabric or the store is back (R452): the channels resume after fill samples (R161) from here on. -/
def fabricResumes (s : State) : State :=
  if s.domOn 1 && s.domOn 2 then
    let now := s.clk.loom
    s.cfg.active.chansOn.foldl (fun s ch =>
      match (s.chan ch).set with
      | some p =>
        let dest := clockFine (multFrom s.clk.epoch (clockFrom (fineOf now)) p.dec)
        let s := chanUpd ch (fun c => { c with
          since := now, cicSlot := none, reedSlot := none
          cicFrom := clockFrom (fineOf now) - 1, reedFrom := clockFrom (fineOf now) - 1 }) s
        if s.dieUp (dieOf ch) then eventOn ch 1 dest dest true (chanUpd ch (closeGap dest) s) else s
      | none => s) s
  else s

/-- A domain is on (R454). -/
def domainOn (d : Nat) (s : State) : State :=
  let s := domUpd d (fun x => { x with state := 2, good := true }) s
  if d = 1 ∨ d = 2 then fabricResumes s else if 4 ≤ d then dieSwitch (d - 4) s else s

/-- DOMAIN_POWER_GOOD (R454): D2 is on once its store is written with zeros. -/
def execDomainPowerGood (t dom : Nat) (s : State) : Host.Outcome State Fault Refusal :=
  act t s fun s =>
    let x := s.pow.domains.get dom
    if x.state = 1 ∧ dom < 8 ∧ x.since ≤ s.clk.loom ∧ s.railsIn dom = true then
      (if dom = 2 then domUpd 2 (fun x => { x with good := true }) s else domainOn dom s)
    else s

/-- STORE_ZEROED (R454): every codeword of the record store holds zeros. -/
def execStoreZeroed (t : Nat) (s : State) : Host.Outcome State Fault Refusal :=
  act t s fun s =>
    let x := s.pow.domains.get 2
    if x.state = 1 ∧ x.good = true then
      domainOn 2 { s with itg := { s.itg with words := [], rowCount := [], rowsTold := [], passFrom := s.clk.loom } }
    else s

/-- DOMAIN_POWER_GOOD_TIMEOUT (R454): lost, and no further attempt. -/
def execDomainPowerGoodTimeout (t dom : Nat) (s : State) : Host.Outcome State Fault Refusal :=
  act t s fun s =>
    let x := s.pow.domains.get dom
    if dom < 8 ∧ x.state = 1 ∧ x.good = false ∧ x.since + usLoom 5000 ≤ s.clk.loom then
      domUpd dom (fun x => { x with givenUp := true }) (loseDomain dom s)
    else s

/-- DOMAIN_SWITCH_FAULT (R452). -/
def execDomainSwitchFault (t dom : Nat) (s : State) : Host.Outcome State Fault Refusal :=
  act t s fun s => if dom = 0 then loseD0 s else if dom < 8 then loseDomain dom s else s

/-! ### Rails -/

def railUpd (r : Nat) (f : Rail → Rail) (s : State) : State :=
  { s with pow := { s.pow with rails := s.pow.rails.upd r f } }

/-- Alarm 13 holds while a rail is out of window (R452). -/
def railAlarm (s : State) : State := setAlarm 13 ((List.range 8).any fun r => (s.pow.rails.get r).state != 0) true 0xFFFF 0 s

/-- RAIL_OUT_OF_WINDOW (R450, R452): the domains that the rail feeds are lost. -/
def execRailOutOfWindow (t rail : Nat) (span : Bool) (s : State) : Host.Outcome State Fault Refusal :=
  act t s fun s =>
    if rail < 8 then
      let s := railAlarm (railUpd rail (fun r => {
        state := if span then 2 else 1, excursions := if r.state = 0 then inc16 r.excursions else r.excursions }) s)
      let s := [1, 2, 3, 4, 5, 6, 7].foldl (fun s d => if (domainRails d).contains rail then loseDomain d s else s) s
      if (domainRails 0).contains rail ∧ s.domOn 0 = true then loseD0 s else s
    else s

/-! ### Commands of power -/

/-- The payload of POWER_STATUS (R464). -/
def powerPayload (s : State) : Bytes :=
  ((List.range 8).flatMap fun d =>
    let x := s.pow.domains.get d
    beBytes 1 x.state ++ zeros 1 ++ beBytes 2 x.losses)
  ++ (List.range 8).flatMap fun r =>
    let x := s.pow.rails.get r
    beBytes 1 x.state ++ zeros 1 ++ beBytes 2 x.excursions

/-- POWER_STATUS (R464, R465). -/
def execPowerStatus (t : Nat) (rq : Req) (s : State) : Host.Outcome State Fault Refusal :=
  runCmd { code := 0x0E00, legal := stRead, standbyNo := false, len := lenIs 2 }
    (clearRead powerPayload fun s => { s with pow := { s.pow with
      domains := (List.range 8).foldl (fun (t : Tab Domain) d => t.upd d fun x => { x with losses := 0 }) s.pow.domains
      rails := (List.range 8).foldl (fun (t : Tab Rail) r => t.upd r fun x => { x with excursions := 0 }) s.pow.rails } })
    t rq s

/-- A domain that a mask would switch off may not be switched off in the present state (R453). -/
def State.mayNotSwitch (s : State) (mask : Nat) : Bool :=
  let off := [1, 2, 3, 4, 5, 6, 7].filter fun d => (s.pow.domains.get d).state != 0 && !(nbit mask (d - 1))
  off.any fun d => (decide (d ≤ 3) && s.hub.state != .config) || (d == 2 && nbit mask 0)

/-- DOMAIN_SET (R453, R454, R464, R465). -/
def execDomainSet (t : Nat) (rq : Req) (s : State) : Host.Outcome State Fault Refusal :=
  runCmd { code := 0x0E01, legal := stHeld, standbyNo := true, len := lenIs 2 }
    (fun rq s =>
      let mask := beAt rq.payload 0 1
      if mask > 127 ∨ beAt rq.payload 1 1 ≠ 0 then (.no 0x0302, s)
      else if (List.range 8).any fun d => (s.pow.domains.get d).state == 1 then (.no 0x0108, s)
      else if s.mayNotSwitch mask then (.no 0x0101, s)
      else (.staged s.due [], stage (.domains mask) rq s)) t rq s

/-! ### The seed bank -/

/-- Ply-link lanes in use (R25, R464). -/
def State.lanesInUse (s : State) (die : Nat) : Nat :=
  let x := s.pow.domains.get (4 + die)
  if x.trained then 4 - x.lanesOut.length else 0

/-- The payload of SEED_STATUS (R464). -/
def seedPayload (s : State) : Bytes :=
  ((List.range 7).flatMap fun k =>
    beBytes 2 (spareTotal k) ++ beBytes 2 (s.pow.used.get k)
      ++ beBytes 2 (s.pow.worn.filter fun w => w.kind == k && decide (w.state < 2)).length ++ zeros 2)
  ++ (List.range 4).flatMap (fun d => beBytes 1 (s.lanesInUse d))
  ++ (s.pow.worn.take 32).flatMap fun w =>
    beBytes 1 w.kind ++ beBytes 1 w.pod ++ beBytes 2 w.idx ++ beBytes 1 w.state ++ zeros 3

/-- SEED_STATUS (R464, R465). -/
def execSeedStatus (t : Nat) (rq : Req) (s : State) : Host.Outcome State Fault Refusal :=
  runCmd { code := 0x0E02, legal := stRead, standbyNo := false, len := lenIs 0 } (reading fun _ s => .done (seedPayload s)) t rq s

/-- Parts of a digital kind (R459). -/
def partLimit (kind : Nat) : Nat := [0, 0, 72, 65536, 4, 3, emramSectors].getD kind 0

/-- SEED_SUBST (R460, R462, R464, R465). -/
def execSeedSubst (t : Nat) (rq : Req) (s : State) : Host.Outcome State Fault Refusal :=
  runCmd { code := 0x0E03, legal := stRead, standbyNo := true, len := lenIs 4 }
    (fun rq s =>
      let kind := beAt rq.payload 0 1
      let idx := beAt rq.payload 2 2
      if beAt rq.payload 1 1 ≠ 0 then (.no 0x0302, s)
      else if kind < 2 ∨ kind > 6 then (.noAt 0x0306 kind, s)
      else if partLimit kind ≤ idx then (.noAt 0x0306 idx, s)
      else if !(s.pow.worn.any fun w => w.kind == kind && w.idx == idx && w.state == 0) then (.noAt 0x0301 idx, s)
      else if !(s.spareLeft kind) then (.no 0x0504, s)
      else (.staged s.due [], stage (.subst kind idx) rq s)) t rq s

/-- A worn part of a kind takes a state. -/
def wornPut (kind pod idx st : Nat) (s : State) : State :=
  let hit := fun (w : Worn) => w.kind == kind && w.pod == pod && w.idx == idx && w.state != 2
  let worn := if s.pow.worn.any hit then s.pow.worn.map fun w => if hit w then { w with state := st } else w
    else s.pow.worn ++ [{ kind, pod, idx, state := st }]
  { s with pow := { s.pow with worn } }

/-- At its beat a digital spare comes in (R460): a core loads its state for a beat and joins at the boundary after. -/
def applySubst (kind idx : Nat) (s : State) : State :=
  if s.pow.worn.any (fun w => w.kind == kind && w.idx == idx && w.state == 0) && decide (s.pow.used.get kind < spareTotal kind) then
    let s := wornPut kind 0xFF idx 2 (logEvent 0 0x0E00 (seedDetail kind 0xFF idx) s)
    let s := { s with pow := { s.pow with used := s.pow.used.upd kind (· + 1) } }
    if kind = 4 then { s with hub := { s.hub with coreJoin := some (s.clk.beat + 1) } }
    else if kind = 5 then { s with pair := { s.pair with lanesOut := s.pair.lanesOut.filter (· ≠ idx) } }
    else s
  else s

/-- The spare core joins the voter set at its beat (R460). -/
def joinCore (s : State) : State :=
  match s.hub.coreJoin with
  | some b => if b ≤ s.clk.beat then { s with hub := { s.hub with coreIn := setMem s.hub.coreIn 3 true, coreJoin := none } } else s
  | none => s

/-- The spare that a consent would use in a pod: modulator slot 16 or 17, or IX4 (R459, R461). -/
def State.freeSpare (s : State) (kind pod : Nat) : Option Nat :=
  let waits := fun (sp : Nat) => s.cfg.staged.any fun c => match c.change with
    | .consent k p _ n => k == kind && p == pod && n == sp
    | _ => false
  let free := fun (key sp : Nat) => s.pow.replaced.get key == 0 && !(waits sp)
  if kind = 0 then [16, 17].find? fun sp => free (pod * 32 + sp) sp
  else if free (pod * 32) 4 then some 4 else none

/-- A path test or calibration run uses a pod (R465). -/
def State.podTested (s : State) (pod : Nat) : Bool :=
  s.liveJobs.any fun j => match j.2.work with
    | .pathTest p => p.pod == pod
    | .calRun r => r.pod == pod || (decide (4 ≤ r.kind) && podOf r.anchor == pod)
    | _ => false

/-- SEED_CONSENT (R461, R462, R464, R465). -/
def execSeedConsent (t : Nat) (rq : Req) (s : State) : Host.Outcome State Fault Refusal :=
  runCmd { code := 0x0E04, legal := stHeld, standbyNo := true, len := lenIs 4 }
    (fun rq s =>
      let kind := beAt rq.payload 0 1
      let pod := beAt rq.payload 1 1
      let part := beAt rq.payload 2 1
      if beAt rq.payload 3 1 ≠ 0 then (.no 0x0302, s)
      else if kind > 1 then (.noAt 0x0306 kind, s)
      else if pod > 15 then (.noAt 0x0306 pod, s)
      else if (if kind = 0 then 15 else 3) < part then (.noAt 0x0306 part, s)
      else if s.podCut pod then (.noAt 0x0105 pod, s)
      else if s.podTested pod then (.no 0x0108, s)
      else match s.freeSpare kind pod with
        | none => (.no 0x0504, s)
        | some sp => (.staged s.due (beBytes 1 sp ++ zeros 3), stage (.consent kind pod part sp) rq s)) t rq s

/-- Calibration entries become stale (R271): every range of a slot, or a source. -/
def staleEntries (keys : List Nat) (s : State) : State :=
  let one := fun (es : Tab CalEntry) (k : Nat) => es.set k { entryOf es k with stale := true }
  { s with cal := { s.cal with entries := keys.foldl one s.cal.entries } }

/-- At its beat an analogue spare comes in (R122, R461): the part awaits recalibration. What the channels do about it
follows the configuration's own change (Boundary.lean). -/
def applyConsent (kind pod part spare : Nat) (s : State) : State :=
  let idx := if kind = 0 then 16 * pod + part else part
  let s := wornPut kind pod idx 3 (logEvent 0 0x0E00 (seedDetail kind pod idx) s)
  let s := { s with pow := { s.pow with
    used := s.pow.used.upd kind (· + 1)
    replaced := s.pow.replaced.set (pod * 32 + if kind = 0 then spare else 0) (part + 1) } }
  let s := if kind = 0 then
      staleEntries ((List.range 5).map (calKey idx)) { s with conv := { s.conv with spare := s.conv.spare.set idx spare } }
    else staleEntries [srcKey pod part] s
  seedAlarm idx s

/-- Parts whose entries are no longer stale are substituted for good (R271, R461). -/
def settleWorn (s : State) : State :=
  let open_ := fun (w : Worn) =>
    if w.kind = 0 then (List.range 5).any fun r => (entryOf s.cal.entries (calKey w.idx r)).stale
    else (entryOf s.cal.entries (srcKey w.pod w.idx)).stale
  let worn := s.pow.worn.map fun w => if w.kind < 2 ∧ w.state = 3 ∧ open_ w = false then { w with state := 2 } else w
  seedAlarm 0xFFFF { s with pow := { s.pow with worn } }

/-! ### Firmware images -/

/-- The staging area holds a table's stream, or a decompression job runs (R465). -/
def State.stagingHeld (s : State) : Bool :=
  s.win.job.isSome || (s.drv.stagingFor != .free && s.drv.stagingFor != .image)

/-- IMAGE_LOAD (R458, R464, R465). -/
def execImageLoad (t : Nat) (rq : Req) (s : State) : Host.Outcome State Fault Refusal :=
  runCmd { code := 0x0E05, legal := stHeld, standbyNo := false, len := lenIn 9 1000 }
    (fun rq s =>
      let off := beAt rq.payload 4 4
      let data := rq.payload.drop 8
      if beAt rq.payload 0 4 ≠ 0 then (.no 0x0302, s)
      else if s.stagingHeld then (.no 0x0108, s)
      else if 2 ^ 20 < off + data.length then (.no 0x0301, s)
      else if s.needsDomain [2] then (.no 0x0105, s)
      else (.done [], { s with drv := { s.drv with
        staging := s.drv.staging.setList off data, stagingFor := .image
        stagingBad := s.drv.stagingBad && s.drv.stagingFor != .free && off != 0 } })) t rq s

/-- IMAGE_END (R384, R458, R464, R465). -/
def execImageEnd (t : Nat) (rq : Req) (s : State) : Host.Outcome State Fault Refusal :=
  runCmd { code := 0x0E06, legal := stHeld, standbyNo := false, len := lenIs 4 }
    (fun rq s =>
      let n := beAt rq.payload 0 4
      if s.stagingHeld then (.no 0x0108, s)
      else if 2 ^ 20 < n then (.no 0x0301, s)
      else if s.needsDomain [1, 2] then (.no 0x0105, s)
      else match newJob 0x0E06 0 (.imageLoad n) s with
        | none => (.no 0x0502, s)
        | some (id, s) =>
          let s := imageUpd s.idleSlot (fun x => { x with invalid := true }) s
          (.running id [], { s with win := { s.win with job := some id }, drv := { s.drv with stagingFor := .image } })) t rq s

end Sys2Proof.Machine
end

