-- ==== Sys2Proof/Machine/Pairing.lean ====
section
/-! DEFINITION. Redundant pairs (R418 to R449): Selvedge frames, the mirror, evidence of the partner, switch-overs, and
the commands of the chapter; how a role is settled and BOOT ends (R422, R456). -/

namespace Sys2Proof.Machine

open Sys2Proof

/-- Change the pairing state. -/
def pairUpd (f : Pair → Pair) (s : State) : State := { s with pair := f s.pair }

/-- Count in a counter of PAIR_STATUS: 0 switch-overs, 1 coordinated switches, 2 HB_IN losses, 3 Selvedge losses, 4
deltas resent, 5 resyncs (R448). -/
def countPair (i : Nat) : State → State := pairUpd fun p => { p with counters := p.counters.upd i inc16 }

/-- A pair event (R77): the partner's hub ID is unknown, since no frame carries it (log entry 50). -/
def pairEvent (reason : Nat) (s : State) : State :=
  logEvent reason 0x0D00 (0xFFFF * 65536 + roleCode s.hub.role) s

/-- Alarms 8 and 9 with their events (R437). -/
def mirrorAlarm (on : Bool) (s : State) : State :=
  let s := if on && !(s.sh.alarms.contains 8) then pairEvent 0x0703 s else s
  setAlarm 8 on false 0xFFFF 0x0703 s
def uncertainAlarm (on : Bool) (s : State) : State :=
  let s := if on && !(s.sh.alarms.contains 9) then pairEvent 0x0704 s else s
  setAlarm 9 on false 0xFFFF 0x0704 s

/-! ### Fields and conditions -/

/-- Witness words of block 0x0D00 (R446). -/
def PMem.witness (m : PMem) (w : Nat) : Word := m.word 0x0D00 (2 + w)
def PMem.returnEn (m : PMem) : Bool := bitAt (m.word 0x0D00 0) 30
def PMem.holdOff (m : PMem) : Nat := fld (m.word 0x0D00 0) 25 14
def PMem.joinWait (m : PMem) : Nat := fld (m.word 0x0D00 1) 31 24

/-- Excitation is present while any enabled witness pair is (R435). -/
def State.excited (s : State) : Bool :=
  (List.range 4).any fun w => bitAt (s.cfg.active.witness w) 31 && (s.pair.wits.get w).present

/-- This hub reports itself able (R432). -/
def State.able (s : State) : Bool := s.paired && stLive s.hub.state

/-- The rule of R422 on straps and MAC addresses prefers this hub; it is the primary of the pair (R443). -/
def State.preferred (s : State) : Bool :=
  if s.hub.rolePri = Config.partnerPrimary then Config.macLower else s.hub.rolePri
def State.primary (s : State) : Bool := s.hub.rolePri && !Config.partnerPrimary

/-- The hub takes part in the Selvedge link: PAIR_EN 1 and D3 on (R422, R453). A detached hub still reports SOLO
(R445). -/
def State.onSelvedge (s : State) : Bool := s.cfg.active.pairEn && s.domOn 3 && !s.hub.inReset

/-! ### Frames (R397, R426, R427) -/

/-- A frame of plain bytes leaves. -/
def svSend (typ : Nat) (payload : Bytes) (s : State) : State :=
  let (f, s) := svForm typ payload s
  emitSv (.selvedge s.clk.loom typ s.cfg.seq s.pair.txAlive f) s

/-- Switch control leaves (R441, R442). -/
def sendSwitch (tT : Nat) (s : State) : State :=
  let (f, s) := svForm 5 (Config.switchPayload tT) s
  emitSv (.switchControl s.clk.loom tT f) s

/-- The alive rule of R397 for a frame that came: whether it is accepted. -/
def svAccept (alive : Nat) (crcOk : Bool) (s : State) : Bool × State :=
  let stale := fun (s : State) => pairUpd (fun p => { p with row := 0 }) { s with itg := { s.itg with svStale := inc16 s.itg.svStale } }
  if crcOk = false then (false, stale (unitMismatch 3 s))
  else
    let d := match s.pair.rxAlive with
      | some l => (alive + 16 - l % 16) % 16
      | none => 1
    if d = 0 then (false, { s with itg := { s.itg with svRepeats := inc16 s.itg.svRepeats } })
    else if 9 ≤ d then (false, stale s)
    else
      let s := { s with itg := { s.itg with svMissing := sat16 (s.itg.svMissing + (d - 1)) } }
      (true, pairUpd (fun p => { p with
        rxAlive := some (alive % 16), lastValid := s.clk.loom, row := if d = 1 then p.row else 0 }) s)

/-- Check unit 3 checks a frame that came (R394, R395); the bytes of one that fails are open. -/
def svCheck (typ : Nat) (h : SvHeader) (payload : Bytes) (s : State) : State :=
  if h.crcOk then unitHolds 3 (svRun (svFrame typ h.alive h.cfgSeq (payload.take 4096))) s
  else
    let (k, s) := nextFree s
    unitHolds 3 (Config.freeWord k).toNat s

/-- A frame other than a heartbeat passes the check value and the alive rule (R397, R425), and acts on a hub whose
link is up. -/
def onFrame (typ : Nat) (h : SvHeader) (payload : Bytes) (f : State → State) (s : State) : State :=
  if s.onSelvedge then
    let (ok, s) := svAccept h.alive h.crcOk (svCheck typ h payload s)
    if ok && s.pair.linkUp then f (pairUpd (fun p => { p with partner := { p.partner with cfgSeq := h.cfgSeq } }) s) else s
  else s

/-- A Selvedge frame that came passes crossing 7, or waits there (R409, R410). -/
def crosses (t : Nat) (i : Instr) (s : State) (f : State → State) : Host.Outcome State Fault Refusal :=
  act t s fun s => if s.crossHolds 7 && s.onSelvedge then crossUpd 7 (fun c => { c with held := c.held ++ [.row i] }) s else f s

/-- A standby asks for a resync (R430), at most once in a beat. -/
def askResync (s : State) : State :=
  let s := pairUpd (fun p => { p with inSync := false }) s
  if s.pair.askedAt = some s.clk.beat ∨ s.pair.linkUp = false then s
  else svSend 6 [] (countPair 5 (pairUpd (fun p => { p with askedAt := some s.clk.beat }) s))

/-- A switch must wait for what runs on this hub (R444). -/
def State.switchBusy (s : State) : Bool := s.testing || s.win.job.isSome

/-- A sequence number as a heartbeat gives it; while there is none, the one before 0 (log entry 51). -/
def numOut (x : Option Nat) : Bytes := beBytes 4 (x.getD 0xFFFFFFFF)

/-- The payload of a heartbeat (R427): a hub that listens reports BOOT and SOLO (R422), and one that cannot switch yet
no request (R444). -/
def heartbeatBody (entries : List LogEntry) (s : State) : Bytes :=
  let st := s.weft.streams
  let bo := s.trd.bobs
  let n16 := List.range 16
  let n8 := List.range 8
  beBytes 1 ((if s.hub.state = .boot then 0 else roleCode s.hub.role) * 16 + stateCode s.hub.state)
    ++ beBytes 1 (128 * b2n s.able + 64 * b2n s.pair.inSync + 32 * b2n (s.pair.wants && !s.switchBusy) + 16 * b2n s.excited) ++ zeros 2
    ++ beBytes 8 s.clk.loom ++ beBytes 8 s.pair.snapBeat ++ beBytes 4 s.weft.nextNotice
    ++ n16.flatMap (fun k => numOut (st.get k).lastSent) ++ n8.flatMap (fun k => numOut (bo.get k).lastSent)
    ++ n16.flatMap (fun k => numOut (st.get k).newestAck) ++ n8.flatMap (fun k => numOut (bo.get k).newestAck)
    ++ (List.range 4).flatMap (fun q => beBytes 8 ((s.trd.seqs.get q).last.getD 0))
    ++ beBytes 2 entries.length ++ zeros 2
    ++ entries.flatMap fun e => beBytes 1 e.seqr ++ beBytes 1 e.trans ++ beBytes 1 e.entered ++ zeros 1
      ++ beBytes 4 e.recordNo ++ beBytes 8 e.instant

/-- The square wave of HB_OUT runs (R422, R445): from the end of BOOT until nRESET or the loss of D0. -/
def State.hbOut (s : State) : Bool := s.pair.hbOn && !s.hub.inReset

/-- A heartbeat frame is due (R422, R427): every 4 us, in BOOT only while the hub listens. -/
def State.heartbeatDue (s : State) : Bool :=
  s.onSelvedge && (s.hub.state != .boot || s.pair.listening.isSome) && s.pair.hbSent.all fun x => decide (x + usSpan 4 ≤ s.clk.loom)

/-- HEARTBEAT_SEND (R427). -/
def execHeartbeatSend (t : Nat) (s : State) : Host.Outcome State Fault Refusal :=
  act t s fun s =>
    if s.heartbeatDue then
      let out := if s.hub.role = .active then s.pair.logOut.take 16 else []
      svSend 1 (heartbeatBody out s) (pairUpd (fun p => { p with logOut := p.logOut.drop out.length, hbSent := some s.clk.loom }) s)
    else s

/-- Role and hub state of a code; a reserved code reads as SOLO and BOOT. -/
def roleOf (c : Nat) : Role := if c = 1 then .active else if c = 2 then .standby else .solo
def stateOf (c : Nat) : HubState :=
  [HubState.boot, .config, .ready, .run, .service, .fault, .safe].getD c .boot

/-- What a heartbeat's payload reports (R427); near names the instant of a 64-bit loom time. -/
def readPartner (near : Nat → Nat) (p : Bytes) (cfgSeq : Nat) (old : Partner) : Partner :=
  { old with
    heard := true, role := roleOf (beAt p 0 1 / 16), state := stateOf (beAt p 0 1 % 16)
    able := nbit (beAt p 1 1) 7, inSync := nbit (beAt p 1 1) 6, wants := nbit (beAt p 1 1) 5, excited := nbit (beAt p 1 1) 4
    cfgSeq, beat := beAt p 12 8, notice := beAt p 20 4
    lastSent := (List.range 24).map fun i => beAt p (24 + 4 * i) 4
    acked := (List.range 24).map fun i => beAt p (120 + 4 * i) 4
    instants := (List.range 4).map fun q => near (beAt p (216 + 8 * q) 8) }

/-- The log entries of a heartbeat (R427). -/
def readEntries (near : Nat → Nat) (p : Bytes) : List LogEntry :=
  (List.range (min 16 (beAt p 248 2))).map fun i =>
    let o := 252 + 16 * i
    { seqr := beAt p o 1, trans := beAt p (o + 1) 1, entered := beAt p (o + 2) 1, recordNo := beAt p (o + 4) 4
      instant := near (beAt p (o + 8) 8) }

/-- The flow of entry i of a heartbeat's lists. -/
def flowOf (i : Nat) : Nat := if i < 16 then i else 0x100 + (i - 16)

/-! ### Replay on a standby (R432) -/

/-- A log entry is replayed: the transition is taken, and a record that it started gets a shadow record, once. The
source events that it counts are kept until a snapshot has counted them. -/
def replayOne (s : State) (e : LogEntry) : State :=
  let x := s.trd.seqs.get e.seqr
  let fresh := match x.last with
    | some l => decide (l < e.instant)
    | none => true
  if e.seqr < 4 ∧ x.armed = true ∧ fresh = true then
    let b := trBob ((s.cfgAt e.instant).trans e.seqr x.state e.trans 1)
    let has := (s.trd.bobs.get b).records.any fun r => r.number == e.recordNo
    let s := seqUpd e.seqr (fun x => { x with
      counted := x.counted ++ x.dated.filter fun d => decide (d.2 ≤ e.instant) }) s
    evaluate e.seqr e.instant (some (e.trans, if e.recordNo = 0xFFFFFFFF ∨ has = true then 0 else e.recordNo + 1)) s
  else s

/-- A standby follows a heartbeat of the active (R432): acknowledged frames go, logged transitions are replayed. -/
def followActive (es : List LogEntry) (s : State) : State :=
  let s := (List.range 24).foldl (fun s i =>
    let a := s.pair.partner.acked.getD i 0xFFFFFFFF
    if a = 0xFFFFFFFF then s else ackFlow (flowOf i) a s) s
  es.foldl replayOne (pairUpd (fun p => { p with logIn := p.logIn ++ es }) s)

/-! ### Switches -/

/-- A hub takes a role (R448). -/
def setRole (r : Role) (s : State) : State :=
  if s.hub.role = r then s
  else
    pairUpd (fun p => { p with
      roleSince := s.clk.loom, deltas := [], logOut := [], logIn := [], rxDeltas := [], lateTo := 0, holdFrom := none, wants := false
      inSync := false, askedAt := none })
      { s with hub := { s.hub with role := r } }

/-- The first boundary at least 2 ms ahead at which no staged change takes effect (R442). -/
def State.quietBeat (s : State) : Nat :=
  let b := s.ahead2ms
  let n := (List.range (s.cfg.staged.length + 1)).find? fun n => !(s.cfg.staged.any fun c => c.due == b + n)
  b + n.getD 0

/-- The outgoing hub names the boundary of a make-before-break switch (R442). -/
def startMbb (b cmd mb seq : Nat) (s : State) : State :=
  stageAt b .mbb cmd mb seq (sendSwitch (beatTime b) (pairUpd (fun p => { p with switching := .mbb b false }) s))

/-- A slot's excitation comes on with the new active (R161, R439): LEAD from t_A to the switch-on of its source, which
lies from t_D to t_T, then a recovery with its entry instant 20 us, or 200 us for a VX controller, later. -/
def takeExcitation (tA tD tT base : Nat) (s : State) (ch : Nat) : State :=
  let src := slotExc (s.cfg.active.slot ch)
  if src ≤ 4 ∨ src = 8 ∨ src = 9 then
    let on := tD + (Config.freeWord (base + podOf ch * 16 + src)).toNat % (tT - tD + 1)
    let s := leadUpd ch 0 (fun l => { l with spans := keepSince Prod.fst s.clk.loom ((tA, some on) :: l.spans) }) s
    eventOn ch 1 (fineOf on) (fineOf on + clockFine (if src ≤ 4 then 512 else 5120)) false s
  else s

/-- The frames that a new active sends (R433, R438): stream frames newer than the partner's last, and every shadow
record that is not acknowledged; the others stay retained for WEFT_RESEND; frames released meanwhile get their gap
notices. -/
def takeFrames (s : State) : State :=
  let last := fun (flow : Nat) => s.pair.partner.lastSent.getD (if flow < 16 then flow else flow - 0x100 + 16) 0xFFFFFFFF
  let newer := fun (flow q : Nat) => last flow == 0xFFFFFFFF || newer32 q (last flow)
  let pool := s.weft.pool.map fun f => if 16 ≤ f.flow ∨ newer f.flow f.seq = true then f else { f with due := [], left := true }
  let s := (List.range 24).foldl (fun s i =>
    if last (flowOf i) = 0xFFFFFFFF then s else noteSent (flowOf i) (last (flowOf i)) s) { s with weft := { s.weft with pool } }
  let s := (s.pair.released.filter fun r => newer r.1 r.2.2.1).foldl (fun s r =>
    raiseGap r.2.1 r.1 r.2.2.2.1 r.2.2.1 r.2.2.1 r.2.2.2.2 s) s
  pairUpd (fun p => { p with released := [] }) s

/-- The notice index that a new active starts at (R438). -/
def startNotices (n : Nat) (s : State) : State :=
  let go := fun (h : HPort) => { h with noticeFrom := n }
  { s with weft := { s.weft with notices := [], nextNotice := n, ports := (s.weft.ports.upd 0 go).upd 1 go } }

/-- A sequencer as it stands after the evaluation of an instant (R283, R284): the source events up to it are counted,
once, and the conditions hold their truth of then. -/
def Seqr.standsAt (m : PMem) (q inst : Nat) (x : Seqr) : Seqr :=
  let x := { x.absorb inst with last := some inst, counted := [] }
  { x with
    prevCnt := (List.range 4).foldl (fun (t : Tab Bool) k => t.set k (cntTrue m q x k)) []
    prevTmr := (List.range 4).foldl (fun (t : Tab Bool) k => t.set k (tmrTrue x inst k)) [] }

/-- Sequencers go on from the instant after the latest one that the partner evaluated (R438). -/
def resumeSequencers (s : State) : State :=
  let one := fun (t : Tab Seqr) (q : Nat) => t.upd q fun x =>
    let l := s.pair.partner.instants.getD q 0
    if x.armed && decide (x.last.getD 0 < l) then x.standsAt s.cfg.active q l else { x with counted := [] }
  { s with trd := { s.trd with seqs := (List.range 4).foldl one s.trd.seqs } }

/-- A standby becomes ACTIVE at t_D (R438, R439): its last driver comes on at t_T, a free value at most 50 us after
t_D. In a prompt switch-over t_T is named, and its drivers come on there (R441). -/
def takeOver (tA tD : Nat) (named : Option Nat) (s : State) : State :=
  let k := s.free
  let tT := named.getD (tD + (Config.freeWord k).toNat % (usLoom 50 + 1))
  let s := { s with free := k + 257 }
  let notice := s.pair.partner.notice
  let s := pairEvent 0x0705 (setRole .active s)
  let switching := match named with
    | some x => .prompt x true
    | none => .idle
  let s := pairUpd (fun p => { p with tA := some tA, tT := some tT, switching, sendBefore := none }) s
  let s := if named.isSome then s else countPair 0 s
  let s := uncertainAlarm false (mirrorAlarm (!s.pair.linkUp) s)
  let from_ := if named.isSome then tT else tD
  let s := if s.running then s.cfg.active.chansOn.foldl (takeExcitation tA from_ tT (k + 1)) s else s
  takeFrames (resumeSequencers (startNotices ((notice + 64) % 2 ^ 32) s))

/-- A hub gives its drivers up and becomes STANDBY (R441). -/
def giveUp (s : State) : State :=
  countPair 1 (pairUpd (fun p => { p with switching := .idle, tT := none }) (setRole .standby s))

/-! ### The mirror (R428 to R431) -/

/-- A list in pieces of at most n, one at least. -/
def listPieces {α : Type} (n : Nat) (l : List α) : List (List α) :=
  (List.range (max 1 (ceilDiv l.length n))).map fun i => (l.drop (i * n)).take n

/-- The snapshot of a boundary (R428). -/
def snapshotItems (s : State) : List SnapItem :=
  ((List.range 4).map fun q =>
    let x := s.trd.seqs.get q
    .sequencer false q x.armed x.state (x.counters.getList 0 4)
      ((List.range 4).map fun k => ((x.timers.get k).target, (x.timers.get k).running)) x.coin)
  ++ ((List.range 8).flatMap fun b =>
    let x := s.trd.bobs.get b
    (listPieces 200 (x.records.map fun r => (r.slot, r.number))).map fun l => .bobbin false b x.nextRecord x.missed x.full l)
  ++ ((List.range 16).map fun n =>
    let l := s.drv.loops.get n
    .loop false n l.sel (BitVec.ofNat 32 l.current) ((List.range 4).map fun sl => s.cfg.active.loopSlot n sl 1))
  ++ ((List.range 16).map fun p =>
    let x := s.drv.stims.get p
    .stim false p x.state x.start x.passes)
  ++ ((List.range 16).map fun k =>
    let m := s.cfg.active
    let plays := fun (n : Nat) => s.hub.state == .run && bitAt (m.loopW n 0) 31
      && fld (m.loopSlot n (s.drv.loops.get n).sel 0) 31 30 == 3 && fld (m.loopSlot n (s.drv.loops.get n).sel 0) 27 24 == k
    match (List.range 16).findSome? fun n => if plays n then (s.drv.loops.get n).tableAt else none with
    | some at_ =>
      let x := playAt m k (s.drv.tables.get k).points (clockAt at_) (clockAt s.clk.loom)
      .table false k (if x.ended then 3 else 2) at_ x.passes
    | none => .table false k 0 0 0)
  ++ [.weft false ((List.range 16).map fun k => (s.weft.streams.get k).nextSeq)
        ((List.range 8).map fun b => (s.trd.bobs.get b).nextSeq) s.weft.nextNotice,
      .calibration false s.cal.seq, .configuration false s.cfg.seq]

/-- The words of an item (R428), each a husk of eight bytes: its kind and place, and what it holds. -/
def itemWords : SnapItem → Nat
  | .sequencer _ _ _ _ counters timers _ => 4 + counters.length + 3 * timers.length
  | .bobbin _ _ _ _ _ occupied => 4 + 2 * occupied.length
  | .loop _ _ _ _ values => 3 + values.length
  | .stim .. => 5
  | .table .. => 5
  | .weft _ streams bobbins _ => 2 + streams.length + bobbins.length
  | .calibration .. => 2
  | .configuration .. => 2

/-- Items in fragments of at most 4,096 bytes (R426, R428): 508 husks, and 32 bytes for what the fragment is of. -/
def inFragments (items : List SnapItem) : List (List SnapItem) :=
  (items.foldl (fun (a : List (List SnapItem)) i => match a with
    | [] => [[i]]
    | l :: r => if 508 < ((i :: l).map itemWords).sum then [i] :: l :: r else (i :: l) :: r) []).reverse.map List.reverse

/-- The active sends the snapshot latched at a boundary, fragment by fragment (R34, R428). -/
def sendSnapshot (s : State) : State :=
  if s.hub.role = .active ∧ s.paired = true ∧ s.pair.linkUp = true then
    let beat := s.clk.beat
    let frags := inFragments (snapshotItems s)
    ((List.range frags.length).zip frags).foldl (fun s f =>
      let (b, s) := svForm 2 (Config.snapshotPayload beat f.1 f.2) s
      emitSv (.snapshot s.clk.loom beat f.1 f.2 (f.1 + 1 == frags.length) b) s)
      (pairUpd (fun p => { p with snapBeat := beat }) s)
  else s

/-- An item whose husks do not match. -/
def itemBad : SnapItem → Bool
  | .sequencer b .. => b
  | .bobbin b .. => b
  | .loop b .. => b
  | .stim b .. => b
  | .table b .. => b
  | .weft b .. => b
  | .calibration b _ => b
  | .configuration b _ => b

/-- The VALUE of a loop slot as a snapshot gives it (R428): the active copy takes it, and the configuration in force
where no change of it waits. -/
def loadValue (n sl : Nat) (v : Word) (s : State) : State :=
  let key := pkey 0x0900 (14 * n + 3 + 3 * sl)
  let was := s.cfg.active.loopSlot n sl 1
  if was = v then s
  else
    let force := if s.cfg.force.loopSlot n sl 1 = was then s.cfg.force.put key v else s.cfg.force
    { s with cfg := { s.cfg with active := s.cfg.active.put key v, force } }

/-- The occupied slots of a bobbin that a snapshot gives, with their record numbers. -/
def occupiedIn (items : List SnapItem) (b : Nat) : List (Nat × Nat) :=
  items.flatMap fun i => match i with
    | .bobbin _ k _ _ _ l => if k = b then l else []
    | _ => []

/-- A standby loads an item of a complete snapshot of boundary at_ (R428, R432); numbers of frames only where the
mirror had not been in sync, since a standby numbers its own frames on (log entry 52). -/
def loadItem (at_ : Nat) (synced : Bool) (items : List SnapItem) (s : State) : SnapItem → State
  | .sequencer _ q armed state counters timers coin =>
    let m := s.cfg.active
    let last := m.gridBefore (m.clkGroup q) (at_ - m.seqLS q)
    seqUpd q (fun x =>
      let x := { x with
        armed, state, coin, counters := Tab.setList ([] : Tab Nat) 0 counters
        timers := Tab.setList ([] : Tab Timer) 0 (timers.map fun (y : Nat × Bool) => { target := y.1, running := y.2 })
        armedAt := if x.armed then x.armedAt else at_, last := if armed then some last else x.last
        dated := (x.counted ++ x.dated).filter fun d => decide (last < d.2), counted := [] }
      { x with
        prevCnt := (List.range 4).foldl (fun (t : Tab Bool) k => t.set k (cntTrue m q x k)) []
        prevTmr := (List.range 4).foldl (fun (t : Tab Bool) k => t.set k (tmrTrue x last k)) [] }) s
  | .bobbin _ b next missed full _ =>
    let occupied := occupiedIn items b
    let slotOf := fun (r : Record) => (occupied.find? fun o => o.2 == r.number).map (·.1)
    bobUpd b (fun x => { x with
      nextRecord := next, missed, full
      records := (x.records.filter fun r => !r.complete || (slotOf r).isSome || newer32 r.number (diff32 next 1)).map fun r =>
        { r with slot := (slotOf r).getD r.slot } }) s
  | .loop _ n slot current values =>
    ((List.range 4).zip values).foldl (fun s v => loadValue n v.1 v.2 s)
      (loopUpd n (fun l => { l with sel := slot, current := current.toNat }) s)
  | .stim _ p state start passes => stimUpd p (fun x => { x with state, start, passes }) s
  | .table _ k state start _ =>
    let m := s.cfg.active
    (List.range 16).foldl (fun (s : State) n =>
      let w := m.loopSlot n (s.drv.loops.get n).sel 0
      if fld w 31 30 = 3 ∧ fld w 27 24 = k ∧ state ≠ 0 then loopUpd n (fun l => { l with tableAt := some start }) s else s) s
  | .weft _ streams bobbins notice =>
    let s := pairUpd (fun p => { p with partner := { p.partner with notice } }) s
    if synced then s
    else
      let s := ((List.range 16).zip streams).foldl (fun s kn => streamUpd kn.1 (fun x => { x with nextSeq := kn.2 }) s) s
      ((List.range 8).zip bobbins).foldl (fun s bn => bobUpd bn.1 (fun x => { x with nextSeq := bn.2 }) s) s
  | .calibration _ seq => pairUpd (fun p => { p with partner := { p.partner with calSeq := seq } }) s
  | .configuration _ seq => pairUpd (fun p => { p with snapCfg := seq }) s

/-- A complete snapshot takes effect at a standby (R424, R430, R432). -/
def takeSnapshot (beat : Nat) (items : List SnapItem) (s : State) : State :=
  let synced := s.pair.inSync
  let at_ := beatTime beat
  let s := pairUpd (fun p => { p with snapshot := items, snapBeat := beat, fragments := [], snapCfg := p.partner.cfgSeq }) s
  let s := items.foldl (loadItem at_ synced items) s
  let m := s.cfg.active
  let follow := s.pair.logIn.filter fun e => decide (at_ ≤ e.instant + m.seqLS e.seqr)
  let s := follow.foldl replayOne (pairUpd (fun p => { p with logIn := follow }) s)
  let ok := decide (s.clk.loom ≤ at_ + usLoom 500) && s.pair.snapCfg == s.cfg.seq && s.pair.linkUp && beat == s.clk.beat
  let s := if ok then pairUpd (fun p => { p with inSync := decide (p.lateTo ≤ beat) }) s else askResync s
  let p := s.pair.partner
  let go := p.role == .active && (stLive p.state || p.state == .config) && p.state != s.hub.state
    && (stLive s.hub.state || s.hub.state == .config) && s.pendingMove.isNone
  if go then stageOwn (.move p.state) s else s

/-- SNAPSHOT_FRAGMENT (R399, R428, R430): an item that does not check keeps its previous value; a snapshot that lacks
a fragment is not complete. -/
def execSnapshotFragment (t : Nat) (hdr : SvHeader) (place : SnapPlace) (items : List SnapItem) (last : Bool) (s : State) :
    Host.Outcome State Fault Refusal :=
  let beat := place.beat
  let index := place.index
  crosses t (.snapshotFragment t hdr place items last) s <| onFrame 2 hdr (Config.snapshotPayload beat index items) fun s =>
    if s.hub.role = .standby then
      let s := (items.filter itemBad).foldl (fun s _ => huskMismatch 0x0D00 0 s) s
      let good := items.filter fun i => !itemBad i
      let whole := index == 0 || (s.pair.fragBeat == beat && s.pair.fragNext == index)
      let s := pairUpd (fun p => { p with
        fragments := if index = 0 then good else if whole then p.fragments ++ good else [], fragBeat := beat
        fragNext := if whole then index + 1 else 0 }) s
      if !last then s else if whole then takeSnapshot beat s.pair.fragments s else askResync s
    else s

/-- The mirrored words of a configuration, every one of them (R421, R430). -/
def PMem.mirrorWords (m : PMem) : List (Nat × Word) :=
  (allBlocks.filter fun b => !(blockOwn b)).flatMap fun b =>
    (List.range ((blockSize b).getD 0)).map fun o => (pkey b o, m.word b o)

/-- Words that a delta carries enter the configuration in force under the number that the active names (R429, R500).
The whole configuration is an adoption (R413, R431): 0x0706 where the two differed, and the copies are written. -/
def acceptDelta (ws : List (Nat × Word)) (seq : Nat) (s : State) : State :=
  let force := s.cfg.force.putAll ws
  let whole := decide ((PMem.mirrorWords []).length ≤ ws.length)
  let differs := decide (force ≠ s.cfg.force)
  let s := { s with cfg := { s.cfg with force : Cfg }.renumber s.clk.loom seq }
  if whole then
    let s := if differs then pairEvent 0x0706 s else s
    (persist force seq 0x0D00 s).2
  else s

/-- A delta that comes too late for its beat leaves the mirror out of sync until the next boundary (R429). -/
def lateDelta (inTime : Bool) (due : Nat) (s : State) : State :=
  if inTime then s else pairUpd (fun p => { p with inSync := false, lateTo := max p.lateTo due }) s

/-- A delta's change waits for its beat: one sent before others that were taken stands before what waits. -/
def waitDelta (first : Bool) (c : Change) (due : Nat) (s : State) : State :=
  let x : Staged := { change := c, due }
  { s with cfg := { s.cfg with staged := if first then x :: s.cfg.staged else s.cfg.staged ++ [x] } }

/-- A Reed swap of the active's (R429). -/
def swapDelta (die bank seq : Nat) (s : State) : State :=
  let s := putLive die bank none s
  { s with cfg := s.cfg.renumber s.clk.loom seq }

/-- The words that a change names, as mirrored. -/
def changeKeys : Change → List Nat
  | .words ws => ws.map (·.1)
  | .reedSwap die _ => [pkey 0x0301 die]
  | _ => []

/-- The boundary that a delta is staged for (R429): its own at least 50 us ahead, else the next that is. -/
def State.deltaDue (s : State) (due : Nat) : Nat :=
  if s.clk.loom + usLoom 50 ≤ beatTime due then due
  else max (due + 1) (max (beatAt (s.clk.loom + usLoom 50 - 1)) (beatAt s.clk.boundary) + 1)

/-- A delta at a standby (R429): what it names at once, and what waits for its boundary. One that was lost and comes
after deltas sent later leaves what those have changed. -/
def takeDelta (d : Delta) (s : State) : State :=
  let later := s.pair.rxDeltas.filter fun x => newer32 x.1 d.id
  let first := !later.isEmpty
  let keys := later.flatMap (·.2)
  let due := s.deltaDue d.due
  let seq := if keys.isEmpty then d.cfgSeq else s.cfg.seq
  let s := lateDelta (decide (due = d.due)) due s
  let s := pairUpd (fun p => { p with rxDeltas := ((d.id, changeKeys d.change) :: p.rxDeltas).take 4096 }) s
  match d.change with
  | .words ws =>
    let ws := ws.filter fun kw => !(keys.contains kw.1)
    waitDelta first (.words ws) due (acceptDelta ws seq s)
  | .reedSwap die bank =>
    if keys.contains (pkey 0x0301 die) then s else waitDelta first d.change due (swapDelta die bank seq s)
  | .stimStart mask start => startStims mask start s
  | .stimStop mask hold => holdStims mask hold s
  | c => waitDelta first c due s

/-- What of a delta passes its husk checks (R399): words whose husk fails keep their mirrored value; so does what
another change names. -/
def goodChange (bad : List Nat) : Change → Option Change
  | .words ws => some (.words (ws.filter fun kw => !(bad.contains kw.1)))
  | c => if bad.isEmpty then some c else none

/-- DELTA (R399, R429): acknowledged, and taken once; words whose husk fails keep their value. -/
def execDelta (t : Nat) (hdr : SvHeader) (frame : DeltaFrame) (s : State) : Host.Outcome State Fault Refusal :=
  let d := frame.delta
  let bad := frame.bad
  crosses t (.delta t hdr frame) s <| onFrame 3 hdr (Config.deltaPayload d) fun s =>
    if s.hub.role = .standby then
      let s := svSend 4 (beBytes 4 d.id) s
      if (s.pair.rxDeltas.any fun x => x.1 == d.id) = true then s
      else
        let s := bad.foldl (fun s _ => huskMismatch 0x0D00 0 s) s
        match goodChange bad d.change with
        | some change => takeDelta { d with change } s
        | none => s
    else s

/-- DELTA_ACKNOWLEDGEMENT (R429). -/
def execDeltaAcknowledgement (t : Nat) (hdr : SvHeader) (id : Nat) (s : State) : Host.Outcome State Fault Refusal :=
  crosses t (.deltaAcknowledgement t hdr id) s <| onFrame 4 hdr (beBytes 4 id) (pairUpd fun p => { p with deltas := p.deltas.filter fun d => d.id != id })

/-- DELTA_RESEND (R429): every 20 us the active sends again what is not acknowledged. -/
def execDeltaResend (t : Nat) (s : State) : Host.Outcome State Fault Refusal :=
  act t s fun s =>
    if s.hub.role = .active ∧ s.onSelvedge = true ∧ s.pair.lastResend + usLoom 20 ≤ s.clk.loom then
      let ds := s.pair.deltas
      let s := pairUpd (fun p => { p with lastResend := s.clk.loom }) s
      ds.foldl (fun s d => countPair 4 (emitDelta s d)) s
    else s

/-- RESYNC_REQUEST (R430): the whole mirrored configuration as a delta for the first boundary that can be met; the
snapshot of the next boundary follows. -/
def execResyncRequest (t : Nat) (hdr : SvHeader) (s : State) : Host.Outcome State Fault Refusal :=
  crosses t (.resyncRequest t hdr) s <| onFrame 6 hdr [] fun s =>
    if s.hub.role = .active then
      let d : Delta := { id := s.pair.nextDelta, change := .words s.cfg.force.mirrorWords, due := s.due, cfgSeq := s.cfg.seq }
      emitDelta (countPair 5 (pairUpd (fun p => { p with deltas := p.deltas ++ [d], nextDelta := next32 p.nextDelta }) s)) d
    else s

/-- MIRROR_STALE (R430): the snapshot of the latest boundary has not come complete within 500 us. -/
def execMirrorStale (t : Nat) (s : State) : Host.Outcome State Fault Refusal :=
  act t s fun s =>
    if s.hub.role = .standby ∧ s.paired = true ∧ s.pair.snapBeat ≠ s.clk.beat
        ∧ beatTime s.clk.beat + usLoom 500 ≤ s.clk.loom then askResync s
    else s

/-! ### Roles and the end of BOOT (R422, R456) -/

/-- A role as R422 settles it, with the alarms it brings. -/
structure Settled where
  role : Role
  uncertain : Bool := false
  mirror : Bool := false
  bothPrimary : Bool := false

/-- The first row of R422 that applies; the last three only once JOIN_WAIT has passed. -/
def State.settledRole (s : State) (waited : Bool) : Option Settled :=
  let p := s.pair.partner
  if s.pair.linkUp && p.heard then
    (match p.role with
    | .active => some { role := .standby }
    | .standby => some { role := .active }
    | .solo =>
      if p.state = .boot then
        some { role := if s.preferred then .active else .standby, bothPrimary := s.hub.rolePri && Config.partnerPrimary }
      else if s.excited then some { role := .standby, uncertain := true }
      else some { role := .active })
  else if waited then
    (if s.pair.hbIn then some { role := .standby, mirror := true }
    else if s.excited then some { role := .standby, uncertain := true }
    else some { role := .active })
  else none

/-- The hub ID that BOOT ends with (R10, R205). Which level of the strap HUBID_SEL selects the Warp no rule says: high
does, and low selects eMRAM (DESIGN CHOICE, log entry 153). -/
def State.bootId (s : State) : Option Nat :=
  if s.hub.hubidSel && !s.cfg.active.isRoot then s.warp.announced else some s.cfg.active.hubIdF

/-- BOOT can end: out of reset, XI there, no domain still in the steps of R454, a hub ID held (R205, R456). -/
def State.bootReady (s : State) : Bool :=
  s.hub.state == .boot && !s.hub.inReset && s.hub.xiWait.isNone && !(s.hub.clocks.any fun c => c.1 == .xi)
    && ((List.range 8).all fun d => (s.pow.domains.get d).state != 1) && s.bootId.isSome

/-- BOOT ends in a role (R57, R422, R456): the first reset of the pod dies is set for the first boundary at least 2 ms
later, a catch-up reset on a LOCKED Warp hub; D1 or D2 that did not come up is a cause of FAULT. -/
def endBoot (x : Settled) (s : State) : State :=
  let s := { s with hub := { s.hub with hubId := s.bootId } }
  let s := pairUpd (fun p => { p with listening := none, hbOn := s.cfg.active.pairEn }) (setRole x.role s)
  let s := if x.bothPrimary then pairEvent 0x0707 s else s
  let s := freeLock (enterState s.hub.bootTo 0 0 s.clk.loom s)
  let s := mirrorAlarm x.mirror (uncertainAlarm x.uncertain s)
  let s := if x.role = .standby then askResync s else s
  let at_ := beatTime s.ahead2ms
  let s := if s.warp.lock = .locked ∧ s.warp.source = 2 ∧ s.cfg.active.isRoot = false then
      { s with warp := { s.warp with catchUp := some at_ } }
    else { s with warp := { s.warp with bootReset := some at_ } }
  [1, 2].foldl (fun s d =>
    if (s.pow.domains.get d).wanted && (s.pow.domains.get d).state != 2 then enterFault (.domainLost d) s else s)
    (macFault s)

/-! ### Evidence (R425, R434, R435) -/

/-- The conditions of a return (R443). -/
def State.returns (s : State) : Bool :=
  let p := s.pair.partner
  s.hub.role == .standby && s.paired && s.primary && s.cfg.active.returnEn && p.role == .active && p.able && s.pair.inSync
    && s.pair.linkUp && s.pair.hbIn && stLive s.hub.state && p.state == s.hub.state

/-- The hold-off runs while they hold (R443). -/
def holdCheck (s : State) : State :=
  pairUpd (fun p => { p with
    holdFrom := if s.returns then some (p.holdFrom.getD s.clk.loom) else none, wants := p.wants && s.returns }) s

/-- Two ACTIVE hubs hear each other (R423): the younger yields at the next boundary that it can meet; not while a
prompt switch-over is named (R441). -/
def twoActives (s : State) : State :=
  let other := Config.partnerSince s.pair.roleSince
  let younger := decide (other < s.pair.roleSince) || (other == s.pair.roleSince && !s.preferred)
  let waits := s.cfg.staged.any fun c => c.change == .yield
  if s.hub.role = .active ∧ s.pair.partner.role = .active ∧ younger = true ∧ waits = false ∧ s.pair.switching = .idle then stageOwn .yield s else s

/-- A requested switch starts at the active once nothing stands in its way (R442 to R444). -/
def servePartner (s : State) : State :=
  let p := s.pair.partner
  if s.hub.role = .active ∧ s.able = true ∧ p.role = .standby ∧ p.wants = true ∧ p.able = true
      ∧ s.pair.switching = .idle ∧ s.switchBusy = false then startMbb s.quietBeat 0 0 0 s
  else s

/-- SELVEDGE_HEARTBEAT (R397, R422 to R427): the link is up after 16 in a row. A frame begins with K28.5; check unit 3
checks it. -/
def execSelvedgeHeartbeat (t : Nat) (frame : Bytes) (s : State) : Host.Outcome State Fault Refusal :=
  crosses t (.selvedgeHeartbeat t frame) s fun s =>
    if s.onSelvedge && beAt frame 0 1 == 0xBC then
      let n := beAt frame 2 2
      let s := unitHolds 3 (svRun frame) s
      let good := frame.length == 12 + n && decide (252 ≤ n) && decide (n ≤ 4096)
        && (crc32c (slice frame 1 (7 + n))).toNat == beAt frame (8 + n) 4 && beAt frame 1 1 % 16 == 1
      let (ok, s) := svAccept (beAt frame 1 1 / 16) good s
      if ok then
        let body := slice frame 8 n
        let s := pairUpd (fun p => { p with
          row := p.row + 1, linkUp := p.linkUp || decide (16 ≤ p.row + 1)
          partner := readPartner s.instant body (beAt frame 4 4) p.partner }) s
        let s := if s.pair.linkUp then mirrorAlarm false s else s
        if s.hub.state = .boot then
          (if s.pair.listening.isSome ∧ s.bootReady = true then
            match s.settledRole false with
            | some x => endBoot x s
            | none => s
          else s)
        else if s.hub.role = .standby then holdCheck (followActive (readEntries s.instant body) s)
        else servePartner (twoActives s)
      else s
    else s

/-- SELVEDGE_LOST (R425, R437): no valid frame for 20 us. -/
def execSelvedgeLost (t : Nat) (s : State) : Host.Outcome State Fault Refusal :=
  act t s fun s =>
    if s.pair.linkUp ∧ s.pair.lastValid + usLoom 20 ≤ s.clk.loom then
      let s := countPair 3 (pairUpd (fun p => { p with linkUp := false, row := 0, rxAlive := none, inSync := false, askedAt := none }) s)
      let s := holdCheck s
      if s.hub.role = .active ∧ s.paired = true then mirrorAlarm true s else s
    else s

/-- SELVEDGE_LANE_FAILURE (R425, R459). -/
def execSelvedgeLaneFailure (t lane : Nat) (s : State) : Host.Outcome State Fault Refusal :=
  act t s fun s =>
    if lane < 3 then partWorn 5 0xFF lane (pairUpd (fun p => { p with lanesOut := setMem p.lanesOut lane true }) s) else s

/-- HB_IN_EDGE (R434): an edge within 5 us of the one before it is ignored; 16 periods in a row bring HB_IN back. -/
def execHbInEdge (t : Nat) (s : State) : Host.Outcome State Fault Refusal :=
  act t s fun s =>
    if s.cfg.active.pairEn ∧ s.hub.inReset = false then
      let now := s.clk.loom
      let close := s.pair.hbEdge.any fun e => decide (now < e + usLoom 5)
      let s := pairUpd (fun p => { p with hbEdge := some now }) s
      if close then s
      else match s.pair.hbLast with
        | some l =>
          let n := if now ≤ l + usLoom 30 then s.pair.hbRow + 1 else 0
          pairUpd (fun p => { p with hbLast := some now, hbRow := n, hbIn := p.hbIn || decide (16 ≤ n) }) s
        | none => pairUpd (fun p => { p with hbLast := some now, hbRow := 0 }) s
    else s

/-- HB_IN_LOST (R434). -/
def execHbInLost (t : Nat) (s : State) : Host.Outcome State Fault Refusal :=
  act t s fun s =>
    if s.pair.hbIn ∧ s.pair.hbLast.getD 0 + usLoom 30 ≤ s.clk.loom then
      holdCheck (countPair 2 (pairUpd (fun p => { p with hbIn := false, hbRow := 0 }) s))
    else s

def witUpd (w : Nat) (on : Bool) : State → State :=
  pairUpd fun p => { p with wits := p.wits.set w { present := on } }

/-- WITNESS_ABSENT (R435, R438): the last instant at which excitation was present is kept. -/
def execWitnessAbsent (t w : Nat) (s : State) : Host.Outcome State Fault Refusal :=
  act t s fun s =>
    if w < 4 ∧ bitAt (s.cfg.active.witness w) 31 = true then
      let before := s.excited
      let s := witUpd w false s
      if before && !s.excited then pairUpd (fun p => { p with lastExcited := some s.clk.loom }) s else s
    else s

/-- WITNESS_PRESENT (R435). -/
def execWitnessPresent (t w : Nat) (s : State) : Host.Outcome State Fault Refusal :=
  act t s fun s => if w < 4 ∧ bitAt (s.cfg.active.witness w) 31 = true then witUpd w true s else s

/-! ### Decisions (R437, R438, R441) -/

/-- What a standby's evidence calls for (R437). -/
inductive Verdict where
  | stay
  | prompt
  | takeOver (tA : Option Nat)
  | uncertain
  | mirrorLost
  deriving DecidableEq, Repr

/-- The first row of R437 that applies. -/
def State.verdict (s : State) : Verdict :=
  let p := s.pair.partner
  if s.pair.linkUp then
    if p.role = .active ∧ p.able = true then .stay
    else if p.state = .fault ∨ p.state = .safe ∨ p.wants = true then .prompt
    else if p.role = .active ∧ p.state = .config then .stay
    else if p.state = .boot then .stay
    else if p.role = .active then .stay
    else if s.excited then .uncertain
    else if p.role = .standby ∧ p.able = true ∧ s.preferred = false then .stay
    else .takeOver s.pair.lastExcited
  else if s.pair.hbIn then .mirrorLost
  else if s.excited then .uncertain
  else .takeOver (some (max s.pair.lastValid (s.pair.hbLast.getD 0)))

/-- A prompt switch-over is named 20 us ahead, and the hub is ACTIVE from its naming, t_D, on (R441). -/
def startPrompt (s : State) : State :=
  let tT := s.clk.loom + usLoom 20
  takeOver tT s.clk.loom (some tT) (sendSwitch tT s)

/-- STANDBY_EVALUATION (R437, R438): an active changes no role on lost evidence. A prompt switch-over waits for a
switch in progress and for what runs on this hub (R444). -/
def execStandbyEvaluation (t : Nat) (s : State) : Host.Outcome State Fault Refusal :=
  act t s fun s =>
    if s.hub.role = .standby ∧ s.paired = true ∧ s.hub.inReset = false ∧ s.hub.state ≠ .boot then
      let s := holdCheck s
      match s.verdict with
      | .stay => uncertainAlarm false s
      | .prompt =>
        let s := uncertainAlarm false s
        if s.able = true ∧ s.pair.switching = .idle ∧ s.switchBusy = false then startPrompt s else s
      | .uncertain => uncertainAlarm true s
      | .mirrorLost => pairUpd (fun p => { p with inSync := false }) (mirrorAlarm true (uncertainAlarm false s))
      | .takeOver tA => if s.able then takeOver (tA.getD s.clk.loom) s.clk.loom none s else uncertainAlarm false s
    else s

/-- SWITCH_CONTROL (R441, R442): an active releases at t_T; a standby learns the boundary of a make-before-break
switch. -/
def execSwitchControl (t : Nat) (hdr : SvHeader) (tT : Nat) (s : State) : Host.Outcome State Fault Refusal :=
  crosses t (.switchControl t hdr tT) s <| onFrame 5 hdr (Config.switchPayload tT) fun s =>
    if s.hub.role = .active then pairUpd (fun p => { p with switching := .prompt tT false }) s
    else if s.hub.role = .standby then
      let b := beatAt tT
      stageAt b .mbb 0 0 0 (pairUpd (fun p => { p with switching := .mbb b true, wants := false }) s)
    else s

/-- A prompt switch-over is confirmed (R441): the link is up, and a frame of the partner's has passed since t_D; no
frame says more (DESIGN CHOICE, log entry 207). -/
def State.confirmed (s : State) (tT : Nat) : Bool := s.pair.linkUp && decide (tT < s.pair.lastValid + usLoom 20)

/-- PROMPT_SWITCH_INSTANT (R441): the outgoing hub releases its drivers, and the incoming one drives. One that is not
confirmed is a STANDBY again, and goes on under R437. -/
def execPromptSwitchInstant (t : Nat) (s : State) : Host.Outcome State Fault Refusal :=
  act t s fun s =>
    match s.pair.switching with
    | .prompt tT incoming =>
      if s.clk.loom < tT then s
      else if incoming = false then giveUp s
      else if s.confirmed tT then countPair 1 (pairUpd (fun p => { p with switching := .idle }) s)
      else pairUpd (fun p => { p with switching := .idle, tT := none }) (setRole .standby s)
    | _ => s

/-- A COMMIT that changes PAIR_EN (R422): HB_OUT follows it; with PAIR_EN 0 the hub is SOLO, and its Selvedge and
HB_IN balls are ignored. -/
def pairChange (old new : PMem) (s : State) : State :=
  if old.pairEn = new.pairEn then s
  else if new.pairEn then pairUpd (fun p => { p with hbOn := true }) s
  else
    pairUpd (fun p => { p with
      hbOn := false, linkUp := false, row := 0, rxAlive := none, hbIn := false, hbRow := 0, hbLast := none, hbEdge := none
      switching := .idle, tT := none, listening := none }) (setRole .solo (mirrorAlarm false (uncertainAlarm false s)))

/-- The exchange of IX sources at the boundary of a make-before-break switch (R161, R442). -/
def exchangeSources (b : Nat) (s : State) : State :=
  let at_ := beatTime b
  if s.running then
    (s.cfg.active.chansOn.filter fun ch => decide (slotExc (s.cfg.active.slot ch) ≤ 4)).foldl
      (fun s ch => eventOn ch 1 (fineOf at_) (fineOf at_ + clockFine 512) false s) s
  else s

/-- MBB_ROLE_CHANGE (R442): 1 ms after b the roles change. -/
def execMbbRoleChange (t : Nat) (s : State) : Host.Outcome State Fault Refusal :=
  act t s fun s =>
    match s.pair.switching with
    | .mbb b incoming =>
      if beatTime b + usLoom 1000 ≤ s.clk.loom ∧ b ≤ s.clk.beat then
        let notice := s.pair.partner.notice
        let early := fun (f : WFrame) => if s.sideInstant f < beatTime b then { f with due := [], left := true } else f
        if incoming then
          let s := { s with weft := { s.weft with pool := s.weft.pool.map early } }
          let s := countPair 1 (pairUpd (fun p => { p with switching := .idle, tT := none, sendBefore := none }) (setRole .active s))
          resumeSequencers (startNotices notice s)
        else pairUpd (fun p => { p with sendBefore := some (beatTime b) }) (giveUp s)
      else s
    | _ => s

/-- RETURN_HOLDOFF_EXPIRY (R443): the primary asks for a switch. -/
def execReturnHoldoffExpiry (t : Nat) (s : State) : Host.Outcome State Fault Refusal :=
  act t s fun s =>
    match s.pair.holdFrom with
    | some h =>
      if s.returns ∧ s.pair.switching = .idle ∧ s.switchBusy = false ∧ h + secLoom s.cfg.active.holdOff ≤ s.clk.loom then
        pairUpd (fun p => { p with wants := true }) s
      else s
    | none => s

/-! ### Commands (R448, R449) -/

/-- Seconds left in the hold-off (R448). -/
def State.holdLeft (s : State) : Nat :=
  match s.pair.holdFrom with
  | some h => s.cfg.active.holdOff - (s.clk.loom - h) / 2 ^ 32
  | none => 0

/-- The payload of PAIR_STATUS (R448); no frame carries the partner's hub ID (log entry 50). -/
def pairPayload (s : State) : Bytes :=
  let p := s.pair
  beBytes 1 (roleCode s.hub.role) ++ beBytes 1 (roleCode p.partner.role) ++ beBytes 1 (stateCode p.partner.state)
    ++ beBytes 1 (128 * b2n s.able + 64 * b2n p.partner.able + 32 * b2n p.inSync + 16 * b2n p.linkUp + 8 * b2n p.hbIn
      + 4 * b2n s.excited + 2 * b2n p.detached + b2n (p.switching != .idle))
    ++ beBytes 2 (Config.partnerId % 65536) ++ beBytes 2 s.cfg.active.pairId ++ beBytes 8 p.snapBeat ++ beBytes 4 p.partner.cfgSeq
    ++ beBytes 4 p.partner.calSeq ++ beBytes 2 s.holdLeft ++ zeros 2 ++ (p.counters.getList 0 6).flatMap (beBytes 2)
    ++ beBytes 8 p.roleSince

/-- PAIR_STATUS (R448, R449). -/
def execPairStatus (t : Nat) (rq : Req) (s : State) : Host.Outcome State Fault Refusal :=
  runCmd { code := 0x0D00, legal := stRead, standbyNo := false, len := lenIs 2 }
    (clearRead pairPayload (pairUpd fun p => { p with counters := [] })) t rq s

/-- PAIR_SWITCH (R442, R444, R448, R449). -/
def execPairSwitch (t : Nat) (rq : Req) (s : State) : Host.Outcome State Fault Refusal :=
  runCmd { code := 0x0D01, legal := stLive, standbyNo := true, len := lenIs 0 }
    (fun rq s =>
      if s.hub.role = .solo then (.no 0x0702, s)
      else if s.pair.switching ≠ .idle then (.no 0x0705, s)
      else if s.switchBusy then (.no 0x0108, s)
      else if s.pair.partner.able = false ∨ s.pair.linkUp = false ∨ s.pair.partner.inSync = false then (.no 0x0708, s)
      else
        let b := s.quietBeat
        (.staged b [], startMbb b rq.cmd rq.mb rq.seq s)) t rq s

/-- What refuses a command that only a standby takes (R449). -/
def State.standbyOnly (s : State) : Option Reply :=
  if s.hub.role = .solo then some (.no 0x0702)
  else if s.hub.role = .active then some (.no 0x0101)
  else if s.pair.switching ≠ .idle then some (.no 0x0705)
  else none

/-- PAIR_DETACH (R445, R448, R449). -/
def execPairDetach (t : Nat) (rq : Req) (s : State) : Host.Outcome State Fault Refusal :=
  runCmd { code := 0x0D02, legal := stLive, standbyNo := false, len := lenIs 0 }
    (fun rq s =>
      match s.standbyOnly with
      | some r => (r, s)
      | none => (.staged s.due [], stage .detach rq s)) t rq s

/-- MIRROR_RESYNC (R430, R448, R449): the request goes out at once. -/
def execMirrorResync (t : Nat) (rq : Req) (s : State) : Host.Outcome State Fault Refusal :=
  runCmd { code := 0x0D03, legal := stLive, standbyNo := false, len := lenIs 0 }
    (fun rq s =>
      match s.standbyOnly with
      | some r => (r, s)
      | none => (.staged s.due [], stage .resync rq (askResync s))) t rq s

end Sys2Proof.Machine
end

