-- ==== Sys2Proof/Machine/Boundary.lean ====
section
/-! DEFINITION. Beat boundaries (R29 to R37): staged changes take effect (R31, R33, R96, R161, R167, R182), the beat
counter rises, the housekeeping round is read (R136, R260, R320, R459); steps of loom time (R36, R37, R184, R199 to
R201). -/

namespace Sys2Proof.Machine

open Sys2Proof

/-! ### What a change of the configuration means for a channel -/

/-- A thread's role or tap belongs to a slot: it is a tap of the slot, or carries its excitation (R80, R83, R88). -/
def PMem.usesThread (m : PMem) (ch pod tt : Nat) : Bool :=
  let w := m.slot ch
  let th := m.thread pod tt
  let own := pod == podOf ch
  let tap := if slotXpod w then
      tapEn th && ((role th == 1 && tapBus th == slotP w) || (role th == 2 && tapBus th == slotN w))
    else own && (tt == slotP w || tt == slotN w)
  let exc := (m.excSources ch).contains (source th) || (role th == 4 && source th == 15 && decide (slotExc w ≤ 4))
  tap || (own && [3, 4, 6, 7].contains (role th) && exc)

/-- The threads whose word two configurations give differently: pod and thread. -/
def changedThreads (old new : PMem) : List (Nat × Nat) :=
  (List.range 640).filterMap fun k =>
    if old.thread (k / 40) (k % 40) = new.thread (k / 40) (k % 40) then none else some (k / 40, k % 40)

/-- The rows of R161 and R167 that a change of the configuration brings to a channel. -/
structure ChanDiff where
  /-- Front end: range, taps, roles, XPOD, NBIAS, EXC_SRC. -/
  front : Bool := false
  /-- Its excitation source: an IX source, a VX controller. -/
  ix : Bool := false
  vx : Bool := false
  /-- ORDER or DEC. -/
  cic : Bool := false
  /-- FIR_BYP, NOTCH, NOTCH_BW, H3_EN, rate group, phase delay. -/
  chain : Bool := false
  /-- REED_DEC or the live bank. -/
  reed : Bool := false
  /-- What applies at output forming, and the rest: a STEP sample only. -/
  out : Bool := false
  deriving DecidableEq, Repr, Inhabited

/-- What the change from one configuration to another means for a channel that both enable (R33, R161, R167, R182). -/
def PMem.chanDiff (old new : PMem) (threads : List (Nat × Nat)) (ch : Nat) : ChanDiff :=
  let pod := podOf ch
  let g := new.group ch
  let slot := old.slot ch ^^^ new.slot ch
  let srcs := old.excSources ch ++ new.excSources ch
  let differs := fun (b o : Nat) => old.word b o != new.word b o
  let taps := fun (m : PMem) (k : Nat) => if m.streamEn k && m.streamHas k ch then 1 + fld (m.streamW k 0) 30 30 else 0
  let bobs := fun (m : PMem) (k : Nat) => if m.bobEn k && m.bobHas k ch then m.bobTap k else 0
  { front := (slot &&& 0xF7FFFFFF#32) != 0 || threads.any fun p => old.usesThread ch p.1 p.2 || new.usesThread ch p.1 p.2
    ix := srcs.any fun n => decide (n ≤ 4) && old.ix pod n != new.ix pod n
    vx := srcs.any fun n => decide (8 ≤ n) && old.vx pod (n - 8) != new.vx pod (n - 8)
    cic := old.order ch != new.order ch || old.dec ch != new.dec ch
    chain := old.firByp ch != new.firByp ch || old.notch ch != new.notch ch || old.notchBw ch != new.notchBw ch
      || old.h3 ch != new.h3 ch || differs 0x0401 ch || differs 0x0400 (2 * g) || differs 0x0400 (2 * g + 1)
    reed := old.reedDec ch != new.reedDec ch || old.liveBank (dieOf ch) != new.liveBank (dieOf ch)
    out := bitAt slot 27 || (slotLw (new.slot ch) && differs (0x0100 + pod) 63) || old.fadeLen ch != new.fadeLen ch
      || differs 0x0600 ch || ((List.range 4).any fun i => differs 0x0601 (4 * ch + i))
      || ((setNeeded (new.curve ch)).isSome && (List.range 129).any fun i => differs (0x0610 + new.setNo ch) i)
      || (new.notch ch == 3 && differs 0x0301 4)
      || ((List.range 16).any fun k => taps old k != taps new k) || (List.range 8).any fun k => bobs old k != bobs new k }

/-- The switching instant of a channel (R96): its own, or the latest of the slots that share a thread that changes. -/
def sharedClock (old new : PMem) (b : Nat) (threads : List (Nat × Nat)) (ch : Nat) : Nat :=
  let uses := fun (c : Nat) (p : Nat × Nat) =>
    (old.chanOn c && old.usesThread c p.1 p.2) || (new.chanOn c && new.usesThread c p.1 p.2)
  let mine := threads.filter (uses ch)
  let others := (List.range 256).filter fun c => old.chanOn c && mine.any (uses c)
  others.foldl (fun a c => max a (switchClock old c b)) (switchClock old ch b)

/-- A running channel takes the changes of a boundary (R33, R161 to R163, R167) at its switching instant. -/
def changeChan (epoch : Nat) (new : PMem) (b : Nat) (d : ChanDiff) (sw ch : Nat) (c : Chan) : Chan :=
  let p := new.pathSet ch
  let event := fun (tE : Nat) (zeroed : Zeroed) (cond : Option Nat) (c : Chan) =>
    registerEvent epoch
      { mode := 0, first := b, cond, step := true, tE := clockFine tE, zeroed, set := p, fresh := true
        nt := new.ntOf ch p } c
  let c := if d.cic then event sw (.cic (multFrom epoch sw p.dec)) none c
    else if d.chain then event sw (.chain sw) none c
    else if d.front then event sw .reed none c
    else c
  let c := if d.ix then event (sw + 512) .reed none c else c
  let c := if d.vx then event (sw + 5120) .reed none c else c
  if d.cic || d.chain || d.front || d.ix || d.vx then c
  else
    let c := if d.reed then event sw .reed (some (clockFine sw)) c else c
    if d.out then registerStep b c else c

/-- A channel at a boundary that changes the configuration (R33, R56): one newly enabled starts, one disabled is
watched no more and goes on until its last sample before the boundary is formed, and the others change. -/
def channelChange (old new : PMem) (b : Nat) (threads : List (Nat × Nat)) (s : State) (ch : Nat) : State :=
  if new.chanOn ch then
    let running := (s.chan ch).set.isSome
    if !running then startChan b s ch
    else
      let d := if old.chanOn ch then old.chanDiff new threads ch else { cic := true }
      let s := (List.range 4).foldl (fun s k =>
        if old.watched ch k && !(new.watched ch k) then leadClear ch k false s else s) s
      chanUpd ch (changeChan s.clk.epoch new b d (sharedClock old new b threads ch) ch) s
  else if old.chanOn ch then quietSlot ch s
  else s

/-- The instant at which a changed thread switches (R96): the latest of the slots that share it; the boundary where no
slot that is sampled uses it (log entry 67). -/
def State.threadSwitch (s : State) (old new : PMem) (b : Nat) (p : Nat × Nat) : Nat :=
  let users := (List.range 256).filter fun c =>
    old.chanOn c && (s.chan c).set.isSome && (old.usesThread c p.1 p.2 || (new.chanOn c && new.usesThread c p.1 p.2))
  (users.map fun c => loomOf (clockFine (switchClock old c b))).foldl max b

/-- The switches of a boundary (R96): changed threads, whose old word applies until then, and slots whose routing
changes; a slot that starts switches at the boundary (log entry 67). -/
def podSwitches (old new : PMem) (b : Nat) (threads : List (Nat × Nat)) (s : State) : State :=
  let slots := (List.range 256).filter fun ch =>
    (old.chanOn ch || new.chanOn ch) && ((old.slot ch ^^^ new.slot ch) &&& 0xF7FFFFFF#32) != 0
  let s := slots.foldl (fun s ch => noteSwitch (podOf ch)
    (if (s.chan ch).set.isSome then loomOf (clockFine (sharedClock old new b threads ch)) else b) s) s
  threads.foldl (fun (s : State) p =>
    let at_ := s.threadSwitch old new b p
    let word := let l := s.hed.late.get (p.1 * 40 + p.2); if s.clk.loom < l.1 then l.2 else old.thread p.1 p.2
    let s := noteSwitch p.1 at_ s
    { s with hed := { s.hed with late := s.hed.late.set (p.1 * 40 + p.2) (if s.clk.loom < at_ then (at_, word) else default) } }) s

/-- A disabled channel's data path stops once no boundary that it may still form samples before is kept (R33). -/
def stopIdle (s : State) : State :=
  let idle := (s.filt.chans.map (·.1)).filter fun ch =>
    (s.chan ch).set.isSome && !(s.cfg.active.chanOn ch) && !(s.underTest ch) && !(s.cfg.past.any fun p => PMem.chanOn p.2 ch)
  idle.foldl (fun s ch => chanUpd ch Chan.stop s) s

/-! ### Words and bank swaps -/

/-- Loop drivers whose words a COMMIT changes (R318): LOOP_SET is none; on a standby a lone VALUE word is a LOOP_SET.
-/
def driversOf (c : Staged) : List Nat :=
  match c.change with
  | .words ws =>
    let offs := (ws.filter fun kw => kw.1 / 65536 == 0x0900).map fun kw => kw.1 % 65536
    let lone := match ws with
      | [kw] => kw.1 / 65536 == 0x0900 && decide (2 ≤ kw.1 % 65536 % 14) && (kw.1 % 65536 % 14 - 2) % 3 == 1
      | _ => false
    if c.cmd = 0x0901 ∨ (c.cmd = 0 ∧ lone = true) then [] else (List.range 16).filter fun n => offs.any fun o => o / 14 == n
  | _ => []

/-- The parameter words of staged changes, in the order staged. -/
def stagedWords (cs : List Staged) : List (Nat × Word) :=
  cs.flatMap fun c => match c.change with
    | .words ws => ws
    | _ => []

/-- The bank swaps among staged changes. -/
def stagedSwaps (cs : List Staged) : List (Nat × Nat) :=
  cs.filterMap fun c => match c.change with
    | .reedSwap d b => some (d, b)
    | _ => none

/-- A staged register fails its husk check (R400): its value stays, and the supervisor stages it again. -/
def huskFail (s : State) (kw : Nat × Word) : State :=
  let key := kw.1
  let s := huskMismatch (key / 65536) (key % 65536) s
  let n := s.cfg.huskFails.get key + 1
  let again : Staged := { change := .words [kw], due := s.due }
  { s with cfg := { s.cfg with huskFails := s.cfg.huskFails.set key n, staged := again :: s.cfg.staged } }

/-- A deferred swap of an engine takes effect (R169, R171): its job is done. -/
def endDeferred (at_ beat die : Nat) (s : State) : State :=
  let js := s.filt.deferred.filter fun d => d.1 == die
  if js.isEmpty then s
  else
    let s := js.foldl (fun s d => endJob d.2 1 0 [] 0 (jobUpd d.2 (fun j => { j with beat }) s)) s
    { s with filt := { s.filt with
      deferred := s.filt.deferred.filter fun d => d.1 != die, swapAt := s.filt.swapAt.set die at_ } }

/-- A configuration after Reed banks have become live (R169). -/
def liveBanks (swaps : List (Nat × Nat)) (m : PMem) : PMem :=
  swaps.foldl (fun (m : PMem) d =>
    m.put (pkey 0x0301 d.1) ((m.word 0x0301 d.1 &&& 0x7FFFFFFF#32) ||| (if d.2 = 1 then 0x80000000#32 else 0#32))) m

/-- The active copies change at a boundary (R31); those before it are kept for samples still to be formed under them
(R33). -/
def putActive (at_ : Nat) (new : PMem) (fails : Tab Nat) (s : State) : State :=
  let old := s.cfg.active
  { s with cfg := { s.cfg with
    active := new, huskFails := fails
    past := prunePast s.clk.loom (if new = old then s.cfg.past else (at_, old) :: s.cfg.past) } }

/-- Another channel is designated for the mains measurement (R154): it begins anew. -/
def restartMains (s : State) : State :=
  { s with filt := { s.filt with mains := { s.filt.mains with crossings := [], armed := false, awaitHigh := false, prev := none, used := none } } }

/-- Streams and bobbins whose definition changes at a boundary (R345, R346, R351), and the records whose trigger lies
at or after it, which take REC_COMPRESS from there (R383). -/
def noteDefs (old new : PMem) (at_ : Nat) (s : State) : State :=
  let s := ((List.range 16).filter fun k => old.streamDef k != new.streamDef k).foldl
    (fun s k => streamUpd k (fun x => { x with changes := at_ :: x.changes }) s) s
  let s := ((List.range 8).filter fun b => old.bobDef b != new.bobDef b).foldl
    (fun s b => bobUpd b (fun x => { x with changes := at_ :: x.changes }) s) s
  if old.word 0x0B00 0 = new.word 0x0B00 0 then s
  else (List.range 8).foldl (fun s b => bobUpd b (fun x => { x with records := x.records.map fun r =>
    if at_ ≤ r.trigger ∧ r.complete = false then { r with compress := bitAt (new.word 0x0B00 0) (24 + b) } else r }) s) s

/-- The staged words and bank swaps become active, all together (R31, R33, R170, R400): bad names the words whose
staged husk fails its check. -/
def applyWords (at_ beat : Nat) (bad : List Nat) (due : List Staged) (s : State) : State :=
  let old := s.cfg.active
  let ws := stagedWords due
  let good := ws.filter fun kw => !(bad.contains kw.1)
  let last := (ws.filter fun kw => bad.contains kw.1).foldl (fun (t : List (Nat × Word)) kw =>
    t.filter (fun x => x.1 != kw.1) ++ [kw]) []
  let swaps := stagedSwaps due
  let new := liveBanks swaps (old.putAll good)
  let fails := good.foldl (fun (t : Tab Nat) kw => t.set kw.1 0) s.cfg.huskFails
  let s := putActive at_ new fails s
  let s := swaps.foldl (fun s d => endDeferred at_ beat d.1 s) s
  let s := last.foldl huskFail s
  if new = old then s
  else
    let threads := changedThreads old new
    let s := if s.running then
        cutLeads ((List.range 256).foldl (channelChange old new at_ threads) (podSwitches old new at_ threads s))
      else s
    let moved := (List.range 8).filter fun l => (List.range 17).any fun o => old.word 0x0201 (17 + 17 * l + o) != new.word 0x0201 (17 + 17 * l + o)
    let s := if fld old.mains 7 0 = fld new.mains 7 0 ∧ bitAt old.mains 31 = bitAt new.mains 31 then s else restartMains s
    let s := noteDefs old new at_ ([0, 1].foldl (portEnabled old new) s)
    let s := if old.storeAlloc = new.storeAlloc then s else fillAlarms s
    let s := clearTables old new (dropComps old new at_ (adoptPins old new at_ (listsFrom at_ moved s)))
    let drivers := (due.flatMap driversOf).filter fun n => (List.range 14).any fun o => old.loopW n o != new.loopW n o
    let s := resetStims old new (drivers.foldl (initSlot new) s)
    let s := pairChange old new s
    if new.timeSrc = old.timeSrc then s else freeLock s

/-! ### The other staged changes -/

/-- The moves of R57 that wait for a beat. -/
def moveListed : HubState → HubState → Bool
  | .config, .ready | .ready, .run | .run, .ready | .ready, .service | .service, .ready | .ready, .config
  | .service, .config | .fault, .config | .fault, .ready => true
  | _, _ => false

/-- A staged move takes effect (R57, R424): a standby follows its active, but leaves a FAULT of its own only by its own
FAULT_CLEAR. -/
def State.takesMove (s : State) (h : HubState) (cmd : Nat) : Bool :=
  if s.hub.role = .standby then
    (if s.hub.state = .fault then cmd == 0x0025 else stLive s.hub.state || s.hub.state == .config)
  else moveListed s.hub.state h

/-- Every running channel of some pods carries STEP on its first sample from a boundary on (R33, R167). -/
def stepPods (pods : List Nat) (b : Nat) (s : State) : State :=
  (s.cfg.active.chansOn.filter fun ch => pods.contains (podOf ch) && (s.chan ch).set.isSome).foldl
    (fun s ch => chanUpd ch (registerStep b) s) s

/-- What calibration was before a boundary is kept for the samples that come before it (R33). -/
def keepCal (at_ : Nat) (s : State) : State :=
  { s with cal := { s.cal with past := prunePast s.clk.loom ((at_, s.cal.entries, s.cal.td) :: s.cal.past) } }

/-- The results that a CAL_COMMIT staged come into force (R267, R268, R271, R461). -/
def applyCal (at_ : Nat) (pods : List Nat) (s : State) : State :=
  if s.hub.state = .safe then s else
  let s := keepCal at_ s
  let s := { s with cal := { s.cal with
    entries := applyResults s.serving s.cfg.active.pointTol s.cal.committed s.cal.entries, committed := [] } }
  settleWorn (stepPods pods at_ s)

/-- A pod's new T_d takes effect (R260); in SAFE the corrections are frozen. -/
def applyTemp (at_ beat pod : Nat) (value : Word) (s : State) : State :=
  if s.hub.state = .safe then s
  else
    let s := keepCal at_ s
    stepPods [pod] at_ { s with cal := { s.cal with td := s.cal.td.set pod { known := true, value, beat } } }

/-- An analogue spare comes in (R122, R461): the slot recovers as a front-end change, or the slots on the source as an
excitation change. -/
def consentChange (at_ kind pod part spare : Nat) (s : State) : State :=
  let m := s.cfg.active
  let s := applyConsent kind pod part spare s
  let chs := m.chansOn.filter fun ch =>
    podOf ch == pod && (if kind = 0 then ch % 16 == part else (m.excSources ch).contains part)
  if s.running then
    chs.foldl (fun s ch =>
      if (s.chan ch).set.isSome then
        chanUpd ch (changeChan s.clk.epoch m at_ { front := kind == 0, ix := kind != 0 } (switchClock m ch at_) ch) s
      else s) s
  else s

/-- A staged change other than words and bank swaps takes effect (R31, R57, R268, R292, R293, R318, R445, R454, R460,
R461). -/
def applyOther (at_ beat : Nat) (s : State) (c : Staged) : State :=
  match c.change with
  | .words _ => s
  | .reedSwap _ _ => s
  | .move h => if s.takesMove h c.cmd then enterState h 0 c.cmd at_ s else s
  | .loopSelect d sl => loopUpd d (fun l => { l with stagedSel := l.stagedSel ++ [sl] }) s
  | .arm mask => if s.hub.state = .run then (bitsOf 4 mask).foldl (armSeq at_) s else cancelEvent s c
  | .disarm mask => if s.hub.state = .run then (bitsOf 4 mask).foldl disarmSeq s else cancelEvent s c
  | .stimStart mask start => startStims mask start s
  | .stimStop mask hold => holdStims mask hold s
  | .calSet pods => applyCal at_ pods s
  | .temp pod v => applyTemp at_ beat pod v s
  | .domains mask => applyDomains mask s
  | .subst kind idx => applySubst kind idx s
  | .consent kind pod part sp => consentChange at_ kind pod part sp s
  | .detach => enterState .config 0 c.cmd at_ (setRole .solo (pairUpd (fun p => { p with detached := true }) s))
  | .mbb => match s.pair.switching with
    | .mbb _ _ => exchangeSources beat s
    | _ => s
  | .resync => s
  | .yield => if s.hub.role = .active then askResync (setRole .standby s) else s

/-- A staged calibration set or T_d (R400) takes effect, or, its husk failing, stays as it was and is staged again. -/
def takeOther (at_ beat : Nat) (bad : List Nat) (s : State) (c : Staged) : State :=
  match huskKey c.change with
  | none => applyOther at_ beat s c
  | some key =>
    let put := fun (n : Nat) (s : State) => { s with cfg := { s.cfg with huskFails := s.cfg.huskFails.set key n } }
    if bad.contains key then
      let s := put (s.cfg.huskFails.get key + 1) (huskMismatch (key / 65536) (key % 65536) s)
      { s with cfg := { s.cfg with staged := { c with due := s.due } :: s.cfg.staged } }
    else applyOther at_ beat (put 0 s) c

/-- The causes of FAULT that a boundary brings (R400, R460, R497), once its changes have taken effect: a register that
failed its husk check at the third boundary in a row, and a MAC load above the lanes in service. -/
def boundaryCauses (old : PMem) (bad : List Nat) (s : State) : State :=
  let s := (bad.filter fun k => decide (3 ≤ s.cfg.huskFails.get k)).foldl (fun s k => enterFault (.stagedHusk k) s) s
  if s.cfg.active = old then s else macFault s

/-- The staged changes due at a boundary take effect there (R31, R33): words and swaps together, then the others in
the order staged; then the causes of FAULT that they bring. While crossing 8 holds, its writer waits, and the writes
that it carries take effect at no boundary (R409, R410; log entry 123). -/
def applyStaged (at_ beat : Nat) (bad : List Nat) (s : State) : State :=
  let takes := fun (c : Staged) => decide (c.due ≤ beat) && (staysStaged c.change || !(s.crossHolds 8))
  let due := s.cfg.staged.filter takes
  let old := s.cfg.active
  let s := { s with cfg := { s.cfg with staged := s.cfg.staged.filter fun c => !(takes c) } }
  boundaryCauses old bad (due.foldl (takeOther at_ beat bad) (applyWords at_ beat bad due s))

/-! ### The housekeeping round (R132, R136) -/

/-- A die-temperature reading of a pod at a boundary (R243, R260): the first since its domain came on is adopted at
once; later ones are staged for the next boundary where they differ from T_d by TEMP_STEP or more. -/
def readTemp (beat pod : Nat) (r : Word) (s : State) : State :=
  let s := feedTemps pod r s
  let s := { s with cal := { s.cal with rounds := s.cal.rounds.upd pod fun l => ((beat, r) :: l).take 200 } }
  let td := s.cal.td.get pod
  if !td.known then { s with cal := { s.cal with td := s.cal.td.set pod { known := true, value := r, beat } } }
  else
    let step := f64OfRat (fld (s.cfg.active.calW 3) 15 8 : Nat) 10
    let far := f64Le step (f64Abs (f64Sub (f64Of32 r) (f64Of32 td.value)))
    if far && (stLive s.hub.state || s.hub.state == .fault) then stageAt (beat + 1) (.temp pod r) 0 0 0 s else s

/-- A current source's readback in a round (R459): the eighth in a row beyond IX_DEV off compliance finds it worn. -/
def readSource (pod : Nat) (s : State) (n : Nat) : State :=
  let w := s.cfg.active.ix pod n
  let x := s.hed.sources.get (pod * 16 + n)
  if ixEn w && s.drivesIx then
    let i := f64Abs (f64Of32 (s.conv.hk.get (pod * 16 + s.sourcePoint pod n)))
    let nominal := f64OfRat (ixCode w : Nat) 2000000
    let off := f64Lt (f64OfRat (ixCode w * s.cfg.active.ixDev : Nat) 2000000000) (f64Abs (f64Sub i nominal))
    let rounds := if off && !(s.compliance pod n) then x.devRounds + 1 else 0
    let s := { s with hed := { s.hed with sources := s.hed.sources.set (pod * 16 + n) { x with devRounds := min rounds 8 } } }
    if rounds = 8 then partWorn 1 pod n s else s
  else { s with hed := { s.hed with sources := s.hed.sources.set (pod * 16 + n) { x with devRounds := 0 } } }

/-- A reading of the housekeeping round takes effect (R136, R260, R320, R459). -/
def readPoint (pod point : Nat) (value : Word) (s : State) : State :=
  if point = 0 then tolAlarm (readTemp s.clk.beat pod value s)
  else if point = 11 then loopRound s pod
  else ((List.range 5).filter fun n => s.sourcePoint pod n == point).foldl (readSource pod) s

/-- What a result of the housekeeping round or of a stimulus output's cycle does. -/
def finishScan (sc : Nat) (r : ScRequest) (code : Int) (value : Word) (s : State) : State :=
  if r.cls = 4 then readPoint (roundPlace sc r.a).1 (roundPlace sc r.a).2 value s
  else if r.cls = 3 then stimRead r.a r.b code s else s

/-- SCAN_CONVERSION_DONE (R131 to R137, R146): the conversion's result goes where it belongs, or waits at its ply
link's crossing (R409), and the converter grants the pending request of the lowest class. -/
def execScanConversionDone (t sc : Nat) (code : Int) (value : Word) (s : State) : Host.Outcome State Fault Refusal :=
  act t s fun s =>
    match s.ending sc with
    | none => s
    | some (r, acq) =>
      if s.crossHolds (sc / 2) then holdResult sc r acq code value s
      else finishScan sc r code value (endConversion sc r acq code value s)

/-- A pod whose die is off has no die temperature (R260). -/
def forgetTemp (s : State) (pod : Nat) : State :=
  if s.podOn pod then s
  else { s with cal := { s.cal with
    td := s.cal.td.upd pod fun x => { x with known := false }, rounds := s.cal.rounds.set pod [] } }

/-- The housekeeping of a boundary (R34, R136): every converter requests its round. -/
def houseKeep (s : State) : State := tolAlarm (startRounds ((List.range 16).foldl forgetTemp s))

/-! ### Mains (R154, R155) -/

/-- The measurement of a boundary: 10 over the time from the crossing ten before the latest one, where the latest is
new. -/
def mainsMeasure (at_ : Nat) (x : Mains) : Mains :=
  match x.crossings with
  | [] => x
  | c :: _ =>
    match x.crossings[10]? with
    | some z =>
      let d := (c - z).toNat
      let num := 10 * 3125 * 2 ^ 32
      if x.used = some c then x
      else
        let f := f64OfRat (num : Nat) d
        let x := { x with used := some c, last := f }
        if 45 * d ≤ num ∧ num ≤ 65 * d then { x with valid := f, lastValid := some at_, lost := false } else x
    | none => x

/-- f_m moves toward the last valid measurement by at most 0.1 Hz (R155); while tracking is lost it holds. -/
def mainsBeat (at_ : Nat) (s : State) : State :=
  if bitAt s.cfg.active.mains 31 then
    let x := mainsMeasure at_ s.filt.mains
    let tenth := f64OfRat 1 10
    let fm := s.mainsFor s.cfg.active 3
    let d := f64Sub x.valid fm
    let fm' := if f64Le (f64Abs d) tenth then x.valid else if f64Lt d 0 then f64Sub fm tenth else f64Add fm tenth
    let x := if x.lastValid.isSome && !x.lost then { x with fm := fm', fmPast := prunePast at_ ((at_, x.fm) :: x.fmPast) } else x
    { s with filt := { s.filt with mains := x } }
  else s

/-! ### The boundary -/

/-- A beat boundary at a loom time (R29, R31 to R34): staged changes become active, the counter takes its number, and
the work of the beat follows. -/
def boundaryAt (at_ beat : Nat) (bad : List Nat) (s : State) : State :=
  let s := applyStaged at_ beat bad { s with clk := { s.clk with beat, boundary := at_ } }
  let s := mainsBeat at_ (warpBeat (simTrigger 4 (houseKeep s)))
  let s := stopIdle (restartDomains (joinCore s))
  sendSnapshot (holdCheck { s with cal := { s.cal with past := prunePast s.clk.loom s.cal.past } })

/-- Overruns of the supervisor's beat work (R35). -/
def overrun (late : Bool) (s : State) : State :=
  let n := s.clk.overrunRow + 1
  if late then
    let s := { s with clk := { s.clk with overruns := inc16 s.clk.overruns, overrunRow := n } }
    if 100 ≤ n then setAlarm 2 true true 0xFFFF 0 s else s
  else setAlarm 2 false true 0xFFFF 0 { s with clk := { s.clk with overrunRow := 0 } }

/-- BEAT_BOUNDARY (R29 to R37, R399): none occurs up to the highest boundary taken (R37). -/
def execBeatBoundary (t : Nat) (husks : List Nat) (late : Bool) (bad : List Nat) (s : State) : Host.Outcome State Fault Refusal :=
  act t s <| unlessReset fun s =>
    let beat := beatAt s.clk.loom
    if beatTime beat ≤ s.clk.boundary then s
    else boundaryAt (beatTime beat) beat bad (overrun late (usedHusks husks s))

/-! ### Steps of loom time -/

/-- A fine instant, and a loom time, on the new loom time after a step of k modulator clocks. -/
def stepFine (k : Int) (x : Nat) : Nat := ((x : Int) + k * 2 ^ 19).toNat
def stepLoom (k : Int) (x : Nat) : Nat := ((x : Int) + clocksUnits k).toNat

/-- A data path keeps its modulator counts, and with them its words and instants (R199, R200). -/
def stepChan (k : Int) (c : Chan) : Chan :=
  let f := stepFine k
  let g := fun (x : Nat) => ((x : Int) + k).toNat
  let word := fun (w : InWord) => { w with centre2 := w.centre2 + 2 * k, gen := g w.gen }
  let entry := fun (e : Entry) => { e with
    first := if e.mode = 0 then e.first else e.first + k * 2 ^ 19, cond := e.cond.map f, tE := f e.tE, tRS := f e.tRS, tCS := f e.tCS
    cGen := e.cGen.map g, rGen := e.rGen.map g }
  { c with
    pend := c.pend.map fun (w : Switch) => { w with clock := g w.clock }
    cGen := g c.cGen, rGen := g c.rGen, cGenS := g c.cGenS, rGenS := g c.rGenS, cicFrom := g c.cicFrom, reedFrom := g c.reedFrom
    cicIn := c.cicIn.map word, reedIn := c.reedIn.map word
    recovery := c.recovery.map fun (r : Recovery) => { r with tRS := f r.tRS, tCS := f r.tCS, tSync := r.tSync.map f }
    entries := c.entries.map entry
    recEnded := stepLoom k c.recEnded, fadeAt := stepLoom k c.fadeAt
    lastRS := stepLoom k c.lastRS, lastCS := stepLoom k c.lastCS
    testFrom := c.testFrom.map f, tests := c.tests.map fun x => (f x.1, x.2.1.map f, x.2.2)
    gaps := c.gaps.map fun (g : Nat × Option Nat) => (if g.1 = 0 then 0 else f g.1, g.2.map f)
    lastTau := c.lastTau.map fun (x : Int) => x + k * 2 ^ 19 }

/-- The instants that modulator counts date, those of switches to come among them, move with the epoch (R96, R200):
loom time is still the old one. -/
def stepCounts (k : Int) (s : State) : State :=
  let f := stepFine k
  let l := stepLoom k
  let chans := s.filt.chans.map fun (x : Nat × Chan) => (x.1, stepChan k x.2)
  let span := fun (p : OvrSpan) => { p with onset := f p.onset, ended := p.ended.map f }
  let ovr := s.hed.ovr.map fun (x : Nat × Ovr) => (x.1, { x.2 with spans := x.2.spans.map span, satUntil := f x.2.satUntil })
  let ahead := fun (x : Nat) => if s.clk.loom < x then l x else x
  let switched := s.hed.switched.map fun (x : Nat × List Nat) => (x.1, x.2.map ahead)
  let late := s.hed.late.map fun (x : Nat × Nat × Word) => (x.1, ahead x.2.1, x.2.2)
  let leads := s.hed.leads.map fun (x : Nat × Lead) =>
    (x.1, { x.2 with
      spans := x.2.spans.map fun (p : Nat × Option Nat) => (l p.1, p.2.map l), since := l x.2.since
      lastMean := x.2.lastMean.map fun (b : Nat × Int) => (((b.1 : Int) + k).toNat, b.2) })
  let m := s.filt.mains
  let mains := { m with
    crossings := m.crossings.map fun (x : Int) => x + k * 2 ^ 19, used := m.used.map fun (x : Int) => x + k * 2 ^ 19
    prev := m.prev.map fun (p : Int × Int) => (p.1 + 2 * k, p.2) }
  { s with
    clk := { s.clk with epoch := ((s.clk.epoch : Int) + k).toNat }
    filt := { s.filt with chans := chans, mains }
    hed := { s.hed with ovr, leads, switched, late } }

/-- The sampled channels of an enabled group. -/
def State.groupRuns (s : State) (g : Nat) : List Nat :=
  if s.cfg.active.groupEn g then
    s.cfg.active.chansOn.filter fun ch => s.cfg.active.group ch == g && (s.chan ch).set.isSome
  else []

/-- Grid instants of a group after one loom time and up to another. -/
def PMem.instantsIn (m : PMem) (g a b : Nat) : Nat :=
  gridFrom (m.cycle g) (m.count g) (b + 1) - gridFrom (m.cycle g) (m.count g) (a + 1)

/-- After a forward step (R184): the instants passed over are fill samples, and each channel recovers. -/
def skipInstants (old new : Nat) (s : State) (g : Nat) : State :=
  let chs := s.groupRuns g
  if chs.isEmpty then s
  else
    let n := s.cfg.active.instantsIn g old (new - 1)
    let s := { s with filt := { s.filt with filled := s.filt.filled.upd g fun x => sat16 (x + n) } }
    chs.foldl (fun s ch =>
      eventOn ch 0 new (fineOf new) true (chanUpd ch (fun c => { c with skipped := (old, new) :: c.skipped }) s)) s

/-- The frames being filled from a group end at the latest instant delivered before a backward step (R345). -/
def breakFrames (g last : Nat) (s : State) : State :=
  let m := s.cfg.active
  let cut := fun (t : Tab OpenFrame) (k : Nat) =>
    if m.streamEn k && m.streamGroup k == g then
      (List.range 8).foldl (fun t sec => t.upd (k * 8 + sec) fun o =>
        if o.instants.contains last then { o with breaks := setMem o.breaks last true } else o) t
    else t
  { s with weft := { s.weft with opened := (List.range 16).foldl cut s.weft.opened } }

/-- After a backward step (R184): nothing is delivered up to the latest instant delivered, and each channel recovers.
-/
def withholdInstants (new : Nat) (s : State) (g : Nat) : State :=
  let chs := s.groupRuns g
  if chs.isEmpty then s
  else
    let last := chs.foldl (fun a ch => max a ((s.chan ch).delivered.getD 0)) 0
    let n := if new < last then s.cfg.active.instantsIn g new last else 0
    let s := { s with filt := { s.filt with withheld := s.filt.withheld.upd g fun x => sat16 (x + n) } }
    let s := if 0 < n then breakFrames g last s else s
    chs.foldl (fun s ch => eventOn ch 0 ((s.chan ch).delivered.getD 0 + 1) (fineOf new) true s) s

/-- Loom time steps by whole modulator clocks (R36, R37, R184, R199, R200). A forward step over a boundary is a
boundary, with its housekeeping round, its overrun and its husk checks as at any other (R34, R35, R400). -/
def stepTime (k : Int) (work : BeatWork) (s : State) : State :=
  let old := s.clk.loom
  let new := stepLoom k old
  let us := roundEven (clocksUnits k * 1000000) (2 ^ 32)
  let s := warpEvent 0 1 (sat28 us) (let s := stepCounts k s; { s with clk := { s.clk with loom := new } })
  let live := s.running
  if old < new then
    let s := if live then (List.range 8).foldl (skipInstants old new) s else s
    let beat := beatAt new
    if beatTime beat ≤ s.clk.boundary then s
    else
      let span := beat - beatAt (max old s.clk.boundary) - (if beatTime beat = new then 1 else 0)
      boundaryAt new beat work.bad (overrun work.late <| usedHusks work.husks { s with clk := { s.clk with skipped := sat16 (s.clk.skipped + span) } })
  else
    let s := { s with clk := { s.clk with boundary := max s.clk.boundary (beatTime (beatAt old)) } }
    if live ∧ new < old then (List.range 8).foldl (withholdInstants new) s else s

/-- LOOM_TIME_STEP (R199, R201): the step that the servo, TIME_SET or the root has decided acts once its instant has
come; there is no other (log entry 53). -/
def execLoomTimeStep (t : Nat) (work : BeatWork) (s : State) : Host.Outcome State Fault Refusal :=
  act t s <| unlessReset fun s =>
    match s.warp.step with
    | some (at_, d) =>
      if at_ ≤ s.clk.loom then
        stepTime (roundEven (d * 3125) (2 ^ 19)) work { s with warp := { s.warp with step := none, stepped := some (at_, d) } }
      else s
    | none => s

end Sys2Proof.Machine
end

