-- ==== Sys2Proof/Machine/Boot.lean ====
section
/-! DEFINITION. Reset and BOOT: nRESET and the straps (R455), RESTART (R74), the return of D0 (R450, R452), and what
BOOT chooses and starts (R71, R72, R76, R270, R456, R457), and how it ends (R205, R422). -/

namespace Sys2Proof.Machine

open Sys2Proof

/-! ### What BOOT begins with -/

/-- The state that BOOT begins with: what eMRAM, the seed bank, the clocks and the balls hold stays, everything else
is as after reset (R77, R293, R319, R346, R454, R457; log entry 54). -/
def bootBase (s : State) : State :=
  let latch := fun (l : Loop) => { latchHigh := l.latchHigh, armed := l.armed : Loop }
  let rail := fun (r : Rail) => { r with excursions := 0 }
  let line := fun (w : WPort) => { state := w.state : WPort }
  let wits := s.pair.wits
  bootTreadle
    { pending := s.pending, wire := s.wire, free := s.free, trd := s.trd
      clk := { s.clk with overruns := 0, overrunRow := 0, skipped := 0 }
      hub := { inReset := false, rolePri := s.hub.rolePri, hubidSel := s.hub.hubidSel, bootSel := s.hub.bootSel
               runImage := s.hub.runImage, onKclk := s.hub.onKclk, clocks := s.hub.clocks, clocksGood := s.hub.clocksGood
               coresOut := s.hub.coresOut, coreIn := s.hub.coreIn }
      sh := { log := s.sh.log.take 256, nextEvent := s.sh.nextEvent, alarms := s.sh.alarms.filter [3, 11, 13].contains }
      cfg := { copyA := s.cfg.copyA, copyB := s.cfg.copyB, inB := s.cfg.inB }
      cal := { copyA := s.cal.copyA, copyB := s.cal.copyB, inB := s.cal.inB }
      conv := { spare := s.conv.spare }
      warp := { ports := (List.range 4).foldl (fun (t : Tab WPort) p => t.upd p line) s.warp.ports }
      drv := { loops := (List.range 16).foldl (fun (t : Tab Loop) n => t.upd n latch) s.drv.loops }
      itg := { crossings := (List.range 12).foldl (fun (t : Tab Crossing) x =>
        t.upd x fun c => { c with holds := stoppedAt s.hub.clocks x }) [] }
      pair := { wits, hbIn := s.pair.hbIn, hbLast := s.pair.hbLast, hbEdge := s.pair.hbEdge, hbOn := s.pair.hbOn, lanesOut := s.pair.lanesOut }
      pow := { s.pow with
        domains := [(0, { s.pow.domains.get 0 with state := 2, good := true, wanted := true })]
        rails := (List.range 8).foldl (fun (t : Tab Rail) r => t.upd r rail) s.pow.rails } }

/-- A choice of BOOT that has a reason (R76, R77): logged, and LAST_CAUSE. -/
def bootChoice (reason source loaded : Nat) (s : State) : State :=
  let s := logEvent reason source loaded s
  { s with hub := { s.hub with lastCause := reason } }

/-! ### The firmware image (R457) -/

/-- The image that BOOT starts (0 A, 1 B, 2 recovery), and whether that is logged (log entry 221); named is the image of
a RESTART. -/
def State.imageChoice (s : State) (named : Nat) : Nat × Bool :=
  let a := !s.pow.imageA.invalid
  let b := !s.pow.imageB.invalid
  if !a && !b then (2, true)
  else if named = 1 then (if a then (0, false) else (1, true))
  else if named = 2 then (if b then (1, false) else (0, true))
  else if s.hub.bootSel then (if a then (0, false) else (1, true))
  else if a && b then ((if newer32 s.pow.imageB.seq s.pow.imageA.seq then 1 else 0), false)
  else ((if a then 0 else 1), false)

/-- An image that alone is valid is copied into the other slot (R457); whether the eMRAM takes it is open. -/
def copyImage (s : State) : State :=
  if s.pow.imageA.invalid = s.pow.imageB.invalid then s
  else
    let (k, s) := nextFree s
    if Config.emramWrite k then
      let ends := s.clk.loom + Config.writeTime k
      { s with pow :=
          if s.pow.imageA.invalid then { s.pow with imageA := { s.pow.imageB with writeEnds := ends } }
          else { s.pow with imageB := { s.pow.imageA with writeEnds := ends } } }
    else sectorWorn s

/-- The firmware image is chosen and started. -/
def bootImage (named : Nat) (s : State) : State :=
  let (i, logged) := s.imageChoice named
  let s := { s with hub := { s.hub with runImage := i } }
  copyImage (if logged then bootChoice 0x040B 0x0E00 i s else s)

/-! ### The copies (R71, R72, R270) -/

/-- The copy that R71 loads (false A, true B; none rejects both), and the reason of the choice. -/
def copyChoice (va vb same : Bool) (sa sb : Nat) : Option Bool × Nat :=
  if va && vb then
    (if same then (some false, 0)
    else if newer32 sb sa then (some true, 0)
    else if newer32 sa sb then (some false, 0)
    else if sa = sb then (none, 0x0403)
    else (none, 0x0404))
  else if va then (some false, 0x0402)
  else if vb then (some true, 0x0402)
  else (none, 0x0405)

/-- Detail of a choice (R77): 0 A, 1 B, 2 defaults. -/
def choiceDetail (c : Option Bool) : Nat := match c with
  | some true => 1
  | some false => 0
  | none => 2

/-- A choice with a reason is logged. -/
def logChoice (reason source : Nat) (c : Option Bool) (s : State) : State :=
  if reason = 0 then s else bootChoice reason source (choiceDetail c) s

/-- A copy rewritten in BOOT (R69, R71, R270): where the eMRAM does not take it, the failure is logged. -/
def rewrite (cal toB : Bool) (put : State → State) (s : State) : State :=
  let (k, s) := nextFree s
  if Config.emramWrite k then put s
  else setAlarm 12 true false 0xFFFF 0x0406 (logEvent 0x0406 0 (256 * b2n cal + b2n toB) (sectorWorn s))

/-- A copy chosen at BOOT is loaded (R71, R72): one that fails its check becomes the working set. -/
def loadCopy (inB : Bool) (x : Copy) (s : State) : State :=
  let s := { s with cfg := { s.cfg with seq := x.seq, inB } }
  match s.check x.words with
  | some (e, _) => bootChoice e 0 (b2n inB) { s with sh := { s.sh with work := some { words := x.words, seq := x.seq } } }
  | none => adoptPins [] x.words s.clk.loom { s with
      cfg := { s.cfg with force := x.words, active := x.words }
      hub := { s.hub with bootTo := if PMem.autostart x.words then .run else .ready } }

/-- A copy is written over the one that it does not come from (R71). The beat of writing that COPY_STATUS shows for it
is the source copy's: R71 copies the copy, and R74 does not say (DESIGN CHOICE, log entry 155). -/
def copyOver (inB : Bool) (x : Copy) (s : State) : State := putCopy (!inB) x s

/-- The configuration copy is chosen and loaded (R71, R72). -/
def bootConfig (s : State) : State :=
  let a := s.cfg.copyA
  let b := s.cfg.copyB
  let (c, reason) := copyChoice a.valid b.valid (decide (a.words = b.words)) a.seq b.seq
  let s := logChoice reason 0 c s
  match c with
  | none => { s with cfg := { s.cfg with seq := if a.valid then a.seq else 0, rejected := true } }
  | some inB =>
    let x := if inB then b else a
    let s := loadCopy inB x s
    if reason = 0x0402 then rewrite false (!inB) (copyOver inB x) s else s

/-- Entries whose modulator or source is no longer the one in service are stale (R271). -/
def restale (s : State) : State :=
  let keys := s.cal.entries.map (·.1) ++ s.conv.spare.flatMap (fun x => (List.range 5).map (calKey x.1))
    ++ s.pow.replaced.flatMap fun x => (List.range 5).map (srcKey (x.1 / 32))
  staleEntries (keys.filter fun k => (entryOf s.cal.entries k).modulator != s.serving k) s

/-- The calibration copy is chosen and loaded (R270). -/
def bootCal (s : State) : State :=
  let a := s.cal.copyA
  let b := s.cal.copyB
  let (c, reason) := copyChoice a.valid b.valid (decide (a.entries = b.entries)) a.seq b.seq
  let s := logChoice reason 0x0700 c s
  match c with
  | none => restale { s with cal := { s.cal with seq := if a.valid then a.seq else 0, rejected := true } }
  | some inB =>
    let x := if inB then b else a
    let s := restale { s with cal := { s.cal with entries := x.entries, seq := x.seq, ownCopy := true, inB } }
    if reason = 0x0402 then
      rewrite true (!inB) (putCalCopy (!inB) x) s
    else s

/-- The domains that D_REQ names are switched on (R454, R456, R463): D1 to D3 together, D4 to D7 at 2 ms intervals
after them, which puts off the instants from which their steps are timed. -/
def bootDomains (s : State) : State :=
  let req := fld (s.cfg.active.word 0x0E00 0) 6 0
  [1, 2, 3, 4, 5, 6, 7].foldl (fun s d =>
    if nbit req (d - 1) then domUpd d (fun x => { x with since := x.since + usLoom (2000 * (d - 3)) }) (startDomain d s) else s) s

/-- A sector whose read needed correction (R459): worn at the sixteenth. -/
def mendSector (sec : Nat) (s : State) : State :=
  let s := { s with pow := { s.pow with mended := s.pow.mended.upd sec (· + 1) } }
  if s.pow.mended.get sec % 16 = 0 then partWorn 6 0xFF sec s else s

/-- An eMRAM read, which may find a sector that cannot be corrected (R77), or needs correction (R459): whether what
was read is good. -/
def readMram (s : State) : Bool × State :=
  let (k, s) := nextFree s
  let s := match Config.mendedSector k with
    | some sec => mendSector (sec % emramSectors) s
    | none => s
  match Config.badSector k with
  | some sec => (false, logEvent 0x0409 0x0E00 (sec % emramSectors) s)
  | none => (true, s)

/-- What eMRAM holds is read and checked (R71, R270, R396, R457): a copy or an image that cannot be read whole is
invalid. -/
def readStored (s : State) : State :=
  let (a, s) := readMram s
  let (b, s) := readMram s
  let (ca, s) := readMram s
  let (cb, s) := readMram s
  let (ka, s) := readMram s
  let (kb, s) := readMram s
  { s with
    pow := { s.pow with
      imageA := { s.pow.imageA with invalid := s.pow.imageA.invalid || !a }
      imageB := { s.pow.imageB with invalid := s.pow.imageB.invalid || !b } }
    cfg := { s.cfg with
      copyA := { s.cfg.copyA with valid := s.cfg.copyA.valid && ca }, copyB := { s.cfg.copyB with valid := s.cfg.copyB.valid && cb } }
    cal := { s.cal with
      copyA := { s.cal.copyA with valid := s.cal.copyA.valid && ka }, copyB := { s.cal.copyB with valid := s.cal.copyB.valid && kb } } }

/-- BOOT makes its choices, in their order (R76, R456), and switches the domains on. -/
def bootGo (named : Nat) (s : State) : State :=
  bootDomains (bootCal (bootConfig (bootImage named (readStored { s with hub := { s.hub with xiWait := none } }))))

/-- XI is reported absent. -/
def State.xiOut (s : State) : Bool := s.hub.clocks.any fun c => c.1 == .xi

/-- BOOT begins (R456): with XI absent it waits in its first step, which is logged. -/
def bootStart (named : Nat) (s : State) : State :=
  let s := bootBase s
  if s.xiOut then
    logEvent 0x0408 0 0 { s with hub := { s.hub with xiWait := some named }, sh := { s.sh with xiFrom := some s.clk.loom } }
  else bootGo named s

/-- A BOOT that waits for XI logs that each second, and goes on once XI is there (R456). -/
def bootWaits (s : State) : State :=
  if s.xiOut then logXi s
  else
    match s.hub.xiWait with
    | some named => bootGo named (endXi s)
    | none => endXi s

/-! ### Commands -/

/-- NRESET_ASSERT (R455): held low for 1 us, it resets the hub, whose threads and drivers are released (R97, R436). -/
def execNresetAssert (t : Nat) (s : State) : Host.Outcome State Fault Refusal :=
  act t s fun s =>
    let s := if s.hub.inReset then s else dropToBoot 0 s
    { s with
      hub := { s.hub with state := .boot, nresetLow := true, inReset := true }, pair := { s.pair with hbOn := false } }

/-- NRESET_RELEASE (R455, R456): the straps are latched, and BOOT begins where D0's rails are in window. -/
def execNresetRelease (t : Nat) (rolePri hubidSel bootSel : Bool) (s : State) : Host.Outcome State Fault Refusal :=
  act t s fun s =>
    if s.hub.nresetLow then
      let s := { s with hub := { s.hub with nresetLow := false, rolePri, hubidSel, bootSel } }
      if s.railsIn 0 then bootStart 0 s else s
    else s

/-- RAIL_IN_WINDOW (R450, R452, R456): D0 comes back once its rails are in window, and the hub starts from BOOT. -/
def execRailInWindow (t rail : Nat) (s : State) : Host.Outcome State Fault Refusal :=
  act t s fun s =>
    if rail < 8 then
      let s := railAlarm (railUpd rail (fun r => { r with state := 0 }) s)
      if (s.pow.domains.get 0).state = 3 ∧ s.railsIn 0 = true then
        let s := domUpd 0 (fun x => { x with state := 2, good := true }) s
        if s.hub.nresetLow then s else bootStart 0 s
      else s
    else s

/-- RESTART_ENTRY (R57, R74): 1 ms after the response the hub enters BOOT, with the image named; a hub that has
entered SAFE meanwhile stays there (R61). -/
def execRestartEntry (t : Nat) (s : State) : Host.Outcome State Fault Refusal :=
  act t s <| unlessReset fun s =>
    match s.hub.restart with
    | some (image, sent) =>
      if sent + usLoom 1000 ≤ s.clk.loom ∧ s.hub.state ≠ .safe then
        bootStart image (dropToBoot 0x0006 s)
      else s
    | none => s

/-- The next state that an outcome answers, else the state as it is. -/
def nextOr (s : State) (o : Host.Outcome State Fault Refusal) : State :=
  match o with
  | .next s' => s'
  | _ => s

/-- What a crossing held comes out of it, at its clock's return (R410). -/
def deliverHeld (s : State) (i : Held) : State :=
  let now := s.clk.loom
  match i with
  | .word ch reed slot k codes => plyWord ch reed slot k codes s
  | .scan sc r acq code value => finishScan sc r code value (grant sc (deliverResult sc r acq code value s))
  | .row (.shuttleRequest _ port ip udp msg) => nextOr s (execShuttleRequest now port ip udp msg s)
  | .row (.hostFrameReceived _ port frame fcs) => nextOr s (execHostFrameReceived now port frame fcs s)
  | .row (.acknowledgement _ port msg) => nextOr s (execAcknowledgement now port msg s)
  | .row (.arpRequest _ port mac ip target) => nextOr s (execArpRequest now port mac ip target s)
  | .row (.icmpEchoRequest _ port ip msg) => nextOr s (execIcmpEchoRequest now port ip msg s)
  | .row (.ptpSync _ port m) => nextOr s (execPtpSync now port m s)
  | .row (.ptpAnnounce _ port m) => nextOr s (execPtpAnnounce now port m s)
  | .row (.pdelayReq _ port src q domain) => nextOr s (execPdelayReq now port src q domain s)
  | .row (.selvedgeHeartbeat _ frame) => nextOr s (execSelvedgeHeartbeat now frame s)
  | .row (.snapshotFragment _ hdr place items last) => nextOr s (execSnapshotFragment now hdr place items last s)
  | .row (.delta _ hdr frame) => nextOr s (execDelta now hdr frame s)
  | .row (.deltaAcknowledgement _ hdr id) => nextOr s (execDeltaAcknowledgement now hdr id s)
  | .row (.resyncRequest _ hdr) => nextOr s (execResyncRequest now hdr s)
  | .row (.switchControl _ hdr tT) => nextOr s (execSwitchControl now hdr tT s)
  | .row _ => s

/-- A crossing whose receiving clock runs again delivers what it held, in order (R410); staged writes that waited are
for the first boundary that they can meet (R412). -/
def drainCrossing (s : State) (x : Nat) : State :=
  let held := (s.itg.crossings.get x).held
  let s := held.foldl deliverHeld (crossUpd x (fun c => { c with held := [] }) s)
  let out := s.pair.out
  if x = 4 then drainEvents s
  else if x = 7 then out.foldl (fun s e => emit e s) { s with pair := { s.pair with out := [] } }
  else if x = 8 then rewriteStaged s else s

/-- The reports of a clock monitor change (R27, R410): the crossings hold, or deliver once they hold no longer, and
the report itself crosses to the supervisor. -/
def clocksChange (clk : Clock) (s : State) : State :=
  let back := (List.range 12).filter fun x => s.crossHolds x && !(stoppedAt s.hub.clocks x)
  back.foldl drainCrossing (shakeEvent 11 (clockIndex clk) (holdCrossings s))

/-- CLOCK_MONITOR_REPORT (R27, R28, R410, R456, R497): XI lost in BOOT holds BOOT up until it is back (log entry 197).
-/
def execClockMonitorReport (t : Nat) (clk : Clock) (kind : ClockReport) (s : State) : Host.Outcome State Fault Refusal :=
  act t s fun s =>
    let known := s.hub.clocks.any fun c => c.1 == clk
    let clocks := s.hub.clocks.filter (fun c => c.1 != clk) ++ [(clk, kind)]
    let s := clocksChange clk { s with hub := { s.hub with
      clocks, clocksGood := s.hub.clocksGood.filter fun c => c.1 != clk
      onKclk := s.hub.onKclk || clk == .qclk || clk == .xi } }
    let s := clockAlarm (clk != .xi) s
    if clk = .xi ∧ known = false then
      let s := enterFault .xiLost (logEvent 0x0408 0 0 s)
      if s.hub.state = .boot ∧ s.hub.inReset = false then { s with sh := { s.sh with xiFrom := some s.clk.loom } } else s
    else s

/-- All the monitored clocks. -/
def allClocks : List Clock :=
  [.sclk, .lclk, .hclk, .wclk, .mclk, .qclk, .xi] ++ (List.range 4).flatMap fun k => [Clock.pclk k false, .pclk k true]

/-- CLOCK_RESTORED (R27, R28, R410, R497): the crossings deliver what they held; with XI every clock comes back, and
a BOOT that waited for it goes on (R456). -/
def execClockRestored (t : Nat) (clk : Clock) (s : State) : Host.Outcome State Fault Refusal :=
  act t s fun s =>
    if s.hub.clocks.any fun c => c.1 == clk then
      let back := if clk = .xi then allClocks else [clk]
      let left := s.hub.clocks.filter fun c => c.1 != clk
      let since := s.clk.loom
      let good := s.hub.clocksGood.filter (fun c => !(back.contains c.1)) ++ back.map (·, since)
      bootWaits (clockAlarm true (clocksChange clk { s with hub := { s.hub with clocks := left, clocksGood := good } }))
    else s

/-- END_OF_BOOT (R205, R422, R456): a hub that pairs settles its role first, and listens where nothing decides it yet.
While XI is absent BOOT cannot end. -/
def execEndOfBoot (t : Nat) (s : State) : Host.Outcome State Fault Refusal :=
  act t s <| unlessReset fun s =>
    let s := bootWaits s
    if s.bootReady then
      if s.cfg.active.pairEn then
        match s.settledRole false with
        | some x => endBoot x s
        | none => pairUpd (fun p => { p with listening := some (p.listening.getD s.clk.loom) }) s
      else endBoot { role := .solo } s
    else s

/-- JOIN_WAIT_EXPIRY (R422). -/
def execJoinWaitExpiry (t : Nat) (s : State) : Host.Outcome State Fault Refusal :=
  act t s fun s =>
    match s.pair.listening with
    | some l =>
      if s.bootReady ∧ l + usLoom (s.cfg.active.joinWait * 100000) ≤ s.clk.loom then
        match s.settledRole true with
        | some x => endBoot x s
        | none => s
      else s
    | none => s

end Sys2Proof.Machine
end

