-- ==== Sys2Proof/Machine/Dispatch.lean ====
section
/-! DEFINITION. The dispatch: one arm per command, each one direct call of its meaning. -/

namespace Sys2Proof.Machine

open Sys2Proof

/-- The effect of a command on everything but the queue. -/
def exec (i : Instr) (s : State) : Host.Outcome State Fault Refusal :=
  match i with
  | .shuttleRequest t port ip udp msg => Sys2Proof.Machine.execShuttleRequest t port ip udp msg s
  | .spiWrite t msg => Sys2Proof.Machine.execSpiWrite t msg s
  | .spiRead t mb clocked => Sys2Proof.Machine.execSpiRead t mb clocked s
  | .spiPoll t => Sys2Proof.Machine.execSpiPoll t s
  | .spiInvalidOpcode t op => Sys2Proof.Machine.execSpiInvalidOpcode t op s
  | .spiFrameTimeout t => Sys2Proof.Machine.execSpiFrameTimeout t s
  | .claimIdleLapse t mb => Sys2Proof.Machine.execClaimIdleLapse t mb s
  | .jobResultExpiry t job => Sys2Proof.Machine.execJobResultExpiry t job s
  | .identify t rq => Sys2Proof.Machine.execIdentify t rq s
  | .status t rq => Sys2Proof.Machine.execStatus t rq s
  | .ping t rq => Sys2Proof.Machine.execPing t rq s
  | .release t rq => Sys2Proof.Machine.execRelease t rq s
  | .jobStatus t rq => Sys2Proof.Machine.execJobStatus t rq s
  | .jobCancel t rq => Sys2Proof.Machine.execJobCancel t rq s
  | .restart t rq => Sys2Proof.Machine.execRestart t rq s
  | .restartEntry t => Sys2Proof.Machine.execRestartEntry t s
  | .eventRead t rq => Sys2Proof.Machine.execEventRead t rq s
  | .countersRead t rq => Sys2Proof.Machine.execCountersRead t rq s
  | .cfgOpen t rq => Sys2Proof.Machine.execCfgOpen t rq s
  | .paramRead t rq => Sys2Proof.Machine.execParamRead t rq s
  | .paramWrite t rq => Sys2Proof.Machine.execParamWrite t rq s
  | .commit t rq => Sys2Proof.Machine.execCommit t rq s
  | .checkOnly t rq => Sys2Proof.Machine.execCheckOnly t rq s
  | .commitNoEn t rq => Sys2Proof.Machine.execCommitNoEn t rq s
  | .cfgAbort t rq => Sys2Proof.Machine.execCfgAbort t rq s
  | .copyStatus t rq => Sys2Proof.Machine.execCopyStatus t rq s
  | .cfgSave t rq => Sys2Proof.Machine.execCfgSave t rq s
  | .enterConfig t rq => Sys2Proof.Machine.execEnterConfig t rq s
  | .start t rq => Sys2Proof.Machine.execStart t rq s
  | .stop t rq => Sys2Proof.Machine.execStop t rq s
  | .enterService t rq => Sys2Proof.Machine.execEnterService t rq s
  | .leaveService t rq => Sys2Proof.Machine.execLeaveService t rq s
  | .faultClear t rq => Sys2Proof.Machine.execFaultClear t rq s
  | .heddleState t rq => Sys2Proof.Machine.execHeddleState t rq s
  | .leadStatus t rq => Sys2Proof.Machine.execLeadStatus t rq s
  | .excStatus t rq => Sys2Proof.Machine.execExcStatus t rq s
  | .ovrCounters t rq => Sys2Proof.Machine.execOvrCounters t rq s
  | .threadProbe t rq => Sys2Proof.Machine.execThreadProbe t rq s
  | .convStatus t rq => Sys2Proof.Machine.execConvStatus t rq s
  | .scSpot t rq => Sys2Proof.Machine.execScSpot t rq s
  | .scanRead t rq => Sys2Proof.Machine.execScanRead t rq s
  | .simulRead t rq => Sys2Proof.Machine.execSimulRead t rq s
  | .scCounters t rq => Sys2Proof.Machine.execScCounters t rq s
  | .pathTest t rq => Sys2Proof.Machine.execPathTest t rq s
  | .pathTestDone t job slots husks => Sys2Proof.Machine.execPathTestDone t job slots husks s
  | .leadRes t rq => Sys2Proof.Machine.execLeadRes t rq s
  | .filterStatus t rq => Sys2Proof.Machine.execFilterStatus t rq s
  | .settleInfo t rq => Sys2Proof.Machine.execSettleInfo t rq s
  | .reedSwap t rq => Sys2Proof.Machine.execReedSwap t rq s
  | .reedSwapRelease t die => Sys2Proof.Machine.execReedSwapRelease t die s
  | .mainsStatus t rq => Sys2Proof.Machine.execMainsStatus t rq s
  | .coefRead t rq => Sys2Proof.Machine.execCoefRead t rq s
  | .groupStatus t rq => Sys2Proof.Machine.execGroupStatus t rq s
  | .chTiming t rq => Sys2Proof.Machine.execChTiming t rq s
  | .instantCalc t rq => Sys2Proof.Machine.execInstantCalc t rq s
  | .timeStatus t rq => Sys2Proof.Machine.execTimeStatus t rq s
  | .warpPorts t rq => Sys2Proof.Machine.execWarpPorts t rq s
  | .syncReset t rq => Sys2Proof.Machine.execSyncReset t rq s
  | .timeSet t rq => Sys2Proof.Machine.execTimeSet t rq s
  | .eventSend t rq => Sys2Proof.Machine.execEventSend t rq s
  | .censusRead t rq => Sys2Proof.Machine.execCensusRead t rq s
  | .linEval t rq => Sys2Proof.Machine.execLinEval t rq s
  | .cjStatus t rq => Sys2Proof.Machine.execCjStatus t rq s
  | .bridgeZero t rq => Sys2Proof.Machine.execBridgeZero t rq s
  | .bridgeZeroDone t job => Sys2Proof.Machine.execBridgeZeroDone t job s
  | .calStatus t rq => Sys2Proof.Machine.execCalStatus t rq s
  | .calRun t rq => Sys2Proof.Machine.execCalRun t rq s
  | .calRunDone t job husks => Sys2Proof.Machine.execCalRunDone t job husks s
  | .calCommit t rq => Sys2Proof.Machine.execCalCommit t rq s
  | .calDiscard t rq => Sys2Proof.Machine.execCalDiscard t rq s
  | .calRead t rq => Sys2Proof.Machine.execCalRead t rq s
  | .treadleStatus t rq => Sys2Proof.Machine.execTreadleStatus t rq s
  | .treadleArm t rq => Sys2Proof.Machine.execTreadleArm t rq s
  | .treadleDisarm t rq => Sys2Proof.Machine.execTreadleDisarm t rq s
  | .treadleForce t rq => Sys2Proof.Machine.execTreadleForce t rq s
  | .bobbinStatus t rq => Sys2Proof.Machine.execBobbinStatus t rq s
  | .compStatus t rq => Sys2Proof.Machine.execCompStatus t rq s
  | .tioStatus t rq => Sys2Proof.Machine.execTioStatus t rq s
  | .loopStatus t rq => Sys2Proof.Machine.execLoopStatus t rq s
  | .loopSet t rq => Sys2Proof.Machine.execLoopSet t rq s
  | .loopSelect t rq => Sys2Proof.Machine.execLoopSelect t rq s
  | .stimStatus t rq => Sys2Proof.Machine.execStimStatus t rq s
  | .stimStart t rq => Sys2Proof.Machine.execStimStart t rq s
  | .stimStop t rq => Sys2Proof.Machine.execStimStop t rq s
  | .stimLoad t rq => Sys2Proof.Machine.execStimLoad t rq s
  | .stimTableEnd t rq => Sys2Proof.Machine.execStimTableEnd t rq s
  | .portStatus t rq => Sys2Proof.Machine.execPortStatus t rq s
  | .streamStatus t rq => Sys2Proof.Machine.execStreamStatus t rq s
  | .storeStatus t rq => Sys2Proof.Machine.execStoreStatus t rq s
  | .weftResend t rq => Sys2Proof.Machine.execWeftResend t rq s
  | .noticeRead t rq => Sys2Proof.Machine.execNoticeRead t rq s
  | .ptpStatus t rq => Sys2Proof.Machine.execPtpStatus t rq s
  | .winnowStatus t rq => Sys2Proof.Machine.execWinnowStatus t rq s
  | .winnowProbe t rq => Sys2Proof.Machine.execWinnowProbe t rq s
  | .integrityStatus t rq => Sys2Proof.Machine.execIntegrityStatus t rq s
  | .crossStatus t rq => Sys2Proof.Machine.execCrossStatus t rq s
  | .chkStep t rq => Sys2Proof.Machine.execChkStep t rq s
  | .storeCrc t rq => Sys2Proof.Machine.execStoreCrc t rq s
  | .storeCrcDone t job => Sys2Proof.Machine.execStoreCrcDone t job s
  | .pairStatus t rq => Sys2Proof.Machine.execPairStatus t rq s
  | .pairSwitch t rq => Sys2Proof.Machine.execPairSwitch t rq s
  | .pairDetach t rq => Sys2Proof.Machine.execPairDetach t rq s
  | .mirrorResync t rq => Sys2Proof.Machine.execMirrorResync t rq s
  | .powerStatus t rq => Sys2Proof.Machine.execPowerStatus t rq s
  | .domainSet t rq => Sys2Proof.Machine.execDomainSet t rq s
  | .seedStatus t rq => Sys2Proof.Machine.execSeedStatus t rq s
  | .seedSubst t rq => Sys2Proof.Machine.execSeedSubst t rq s
  | .seedConsent t rq => Sys2Proof.Machine.execSeedConsent t rq s
  | .imageLoad t rq => Sys2Proof.Machine.execImageLoad t rq s
  | .imageEnd t rq => Sys2Proof.Machine.execImageEnd t rq s
  | .decompressionDone job => Sys2Proof.Machine.execDecompressionDone job s
  | .beatBoundary t husks late bad => Sys2Proof.Machine.execBeatBoundary t husks late bad s
  | .mbbRoleChange t => Sys2Proof.Machine.execMbbRoleChange t s
  | .domainPowerGood t dom => Sys2Proof.Machine.execDomainPowerGood t dom s
  | .domainPowerGoodTimeout t dom => Sys2Proof.Machine.execDomainPowerGoodTimeout t dom s
  | .storeZeroed t => Sys2Proof.Machine.execStoreZeroed t s
  | .plyLinkTrained t die lanes => Sys2Proof.Machine.execPlyLinkTrained t die lanes s
  | .synchronisingReset t => Sys2Proof.Machine.execSynchronisingReset t s
  | .catchUpReset t => Sys2Proof.Machine.execCatchUpReset t s
  | .loomTimeStep t work => Sys2Proof.Machine.execLoomTimeStep t work s
  | .plyWordArrival t ch reed slot k codes => Sys2Proof.Machine.execPlyWordArrival t ch reed slot k codes s
  | .plyLaneFailure t die lane => Sys2Proof.Machine.execPlyLaneFailure t die lane s
  | .outputSample t ch grid reads => Sys2Proof.Machine.execOutputSample t ch grid reads s
  | .frameClose t stream sec => Sys2Proof.Machine.execFrameClose t stream sec s
  | .winnowFrameStart t => Sys2Proof.Machine.execWinnowFrameStart t s
  | .winnowFrameDone t stalled => Sys2Proof.Machine.execWinnowFrameDone t stalled s
  | .winnowStallResume t => Sys2Proof.Machine.execWinnowStallResume t s
  | .portTransmit t port => Sys2Proof.Machine.execPortTransmit t port s
  | .tc0Token t port => Sys2Proof.Machine.execTc0Token t port s
  | .acknowledgement t port msg => Sys2Proof.Machine.execAcknowledgement t port msg s
  | .hostFrameReceived t port frame fcsOk => Sys2Proof.Machine.execHostFrameReceived t port frame fcsOk s
  | .arpRequest t port senderMac senderIp targetIp => Sys2Proof.Machine.execArpRequest t port senderMac senderIp targetIp s
  | .arpRefresh t port ip => Sys2Proof.Machine.execArpRefresh t port ip s
  | .arpRetry t port ip => Sys2Proof.Machine.execArpRetry t port ip s
  | .icmpEchoRequest t port srcIp msg => Sys2Proof.Machine.execIcmpEchoRequest t port srcIp msg s
  | .ptpSync t port m => Sys2Proof.Machine.execPtpSync t port m s
  | .ptpAnnounce t port m => Sys2Proof.Machine.execPtpAnnounce t port m s
  | .pdelayReq t port srcId seqId domain => Sys2Proof.Machine.execPdelayReq t port srcId seqId domain s
  | .portLinkChange t port up => Sys2Proof.Machine.execPortLinkChange t port up s
  | .warpTimeFrame t frame ext => Sys2Proof.Machine.execWarpTimeFrame t frame ext s
  | .timeFrameSend t port => Sys2Proof.Machine.execTimeFrameSend t port s
  | .delayRequestSend t => Sys2Proof.Machine.execDelayRequestSend t s
  | .delayRequest t port frame ext => Sys2Proof.Machine.execDelayRequest t port frame ext s
  | .warpEvent t port ev => Sys2Proof.Machine.execWarpEvent t port ev s
  | .resendRequest t port first => Sys2Proof.Machine.execResendRequest t port first s
  | .eventOrigination t => Sys2Proof.Machine.execEventOrigination t s
  | .warpEventTransmit t port => Sys2Proof.Machine.execWarpEventTransmit t port s
  | .warpPortStateChange t port line => Sys2Proof.Machine.execWarpPortStateChange t port line s
  | .warpLost t => Sys2Proof.Machine.execWarpLost t s
  | .warpReturn t => Sys2Proof.Machine.execWarpReturn t s
  | .censusLapse t hub => Sys2Proof.Machine.execCensusLapse t hub s
  | .modulatorRestart t ch positive => Sys2Proof.Machine.execModulatorRestart t ch positive s
  | .overrangeOnset t ch positive => Sys2Proof.Machine.execOverrangeOnset t ch positive s
  | .overrangeEnd t ch => Sys2Proof.Machine.execOverrangeEnd t ch s
  | .overvoltageTrip t pod thread => Sys2Proof.Machine.execOvervoltageTrip t pod thread s
  | .overvoltageClear t pod thread => Sys2Proof.Machine.execOvervoltageClear t pod thread s
  | .driverReconnect t pod thread => Sys2Proof.Machine.execDriverReconnect t pod thread s
  | .leadWatchHalfPeriod t ch mean husks => Sys2Proof.Machine.execLeadWatchHalfPeriod t ch mean husks s
  | .leadSuspect t ch det => Sys2Proof.Machine.execLeadSuspect t ch det s
  | .leadConfirmed t ch det => Sys2Proof.Machine.execLeadConfirmed t ch det s
  | .leadCleared t ch det => Sys2Proof.Machine.execLeadCleared t ch det s
  | .excitationExchange t pod src => Sys2Proof.Machine.execExcitationExchange t pod src s
  | .scanConversionDone t sc code value => Sys2Proof.Machine.execScanConversionDone t sc code value s
  | .simultaneousTrigger t => Sys2Proof.Machine.execSimultaneousTrigger t s
  | .scanListPass t list => Sys2Proof.Machine.execScanListPass t list s
  | .loopUpdate t bad => Sys2Proof.Machine.execLoopUpdate t bad s
  | .stimulusTick t found => Sys2Proof.Machine.execStimulusTick t found s
  | .sequencerEvaluation t seq inst => Sys2Proof.Machine.execSequencerEvaluation t seq inst s
  | .treadleTimerExpiry t seq k => Sys2Proof.Machine.execTreadleTimerExpiry t seq k s
  | .treadleCounterReached t seq k => Sys2Proof.Machine.execTreadleCounterReached t seq k s
  | .tioInputChange t pin level => Sys2Proof.Machine.execTioInputChange t pin level s
  | .tioLevelAccepted t pin => Sys2Proof.Machine.execTioLevelAccepted t pin s
  | .autoTimeout t bob => Sys2Proof.Machine.execAutoTimeout t bob s
  | .rearmEnd t bob => Sys2Proof.Machine.execRearmEnd t bob s
  | .recordComplete t bob rec => Sys2Proof.Machine.execRecordComplete t bob rec s
  | .scrubPass t reads => Sys2Proof.Machine.execScrubPass t reads s
  | .macResidueFailure t lane ch => Sys2Proof.Machine.execMacResidueFailure t lane ch s
  | .voterDisagreement t dissenter => Sys2Proof.Machine.execVoterDisagreement t dissenter s
  | .clockMonitorReport t clk kind => Sys2Proof.Machine.execClockMonitorReport t clk kind s
  | .qclkRestore t => Sys2Proof.Machine.execQclkRestore t s
  | .clockRestored t clk => Sys2Proof.Machine.execClockRestored t clk s
  | .crossingRestart t x => Sys2Proof.Machine.execCrossingRestart t x s
  | .railOutOfWindow t rail span => Sys2Proof.Machine.execRailOutOfWindow t rail span s
  | .railInWindow t rail => Sys2Proof.Machine.execRailInWindow t rail s
  | .domainSwitchFault t dom => Sys2Proof.Machine.execDomainSwitchFault t dom s
  | .nresetAssert t => Sys2Proof.Machine.execNresetAssert t s
  | .nresetRelease t rolePri hubidSel bootSel => Sys2Proof.Machine.execNresetRelease t rolePri hubidSel bootSel s
  | .joinWaitExpiry t => Sys2Proof.Machine.execJoinWaitExpiry t s
  | .endOfBoot t => Sys2Proof.Machine.execEndOfBoot t s
  | .heartbeatSend t => Sys2Proof.Machine.execHeartbeatSend t s
  | .selvedgeHeartbeat t frame => Sys2Proof.Machine.execSelvedgeHeartbeat t frame s
  | .snapshotFragment t hdr place items last => Sys2Proof.Machine.execSnapshotFragment t hdr place items last s
  | .delta t hdr frame => Sys2Proof.Machine.execDelta t hdr frame s
  | .deltaAcknowledgement t hdr id => Sys2Proof.Machine.execDeltaAcknowledgement t hdr id s
  | .deltaResend t => Sys2Proof.Machine.execDeltaResend t s
  | .resyncRequest t hdr => Sys2Proof.Machine.execResyncRequest t hdr s
  | .switchControl t hdr tT => Sys2Proof.Machine.execSwitchControl t hdr tT s
  | .promptSwitchInstant t => Sys2Proof.Machine.execPromptSwitchInstant t s
  | .selvedgeLost t => Sys2Proof.Machine.execSelvedgeLost t s
  | .selvedgeLaneFailure t lane => Sys2Proof.Machine.execSelvedgeLaneFailure t lane s
  | .hbInEdge t => Sys2Proof.Machine.execHbInEdge t s
  | .hbInLost t => Sys2Proof.Machine.execHbInLost t s
  | .witnessAbsent t w => Sys2Proof.Machine.execWitnessAbsent t w s
  | .standbyEvaluation t => Sys2Proof.Machine.execStandbyEvaluation t s
  | .returnHoldoffExpiry t => Sys2Proof.Machine.execReturnHoldoffExpiry t s
  | .mainsTrackingLost t => Sys2Proof.Machine.execMainsTrackingLost t s
  | .ptpSourceLost t => Sys2Proof.Machine.execPtpSourceLost t s
  | .ptpDelayReqSend t port => Sys2Proof.Machine.execPtpDelayReqSend t port s
  | .mirrorStale t => Sys2Proof.Machine.execMirrorStale t s
  | .witnessPresent t w => Sys2Proof.Machine.execWitnessPresent t w s

end Sys2Proof.Machine
end

