-- ==== Sys2Proof/Safety.lean ====
section
/-! DEFINITION. What a safe run of the hub keeps: the bounds that the spec gives its rings, the pin that follows the
mailboxes, and the one form in which its addressed memories are held. -/

namespace Sys2Proof.Machine

/-- Shuttle: the event log holds 4,096 entries (R77), SPI_nIRQ is low exactly while a mailbox claimed by SPI holds an
unread response (R41), and the working set is canonical. -/
structure ShOk (x : Shuttle) : Prop where
  log : x.log.length ≤ 4096
  irq : x.nIrqLow = x.irqDue
  work : ∀ w, x.work = some w → Tab.wf w.words = true

/-- The configurations in force, active and stored are canonical parameter memories (R62, R69, R500). -/
structure CfgOk (x : Cfg) : Prop where
  force : Tab.wf x.force = true
  active : Tab.wf x.active = true
  copyA : Tab.wf x.copyA.words = true
  copyB : Tab.wf x.copyB.words = true
  writes : ∀ w ∈ x.writes, Tab.wf w.before.words = true

/-- The staging area and the stimulus tables are canonical byte memories (R329, R332). -/
structure DrvOk (x : Drive) : Prop where
  staging : Tab.wf x.staging = true
  tables : ∀ k, Tab.wf (x.tables.get k).bytes = true

/-- The hub keeps at most 1,024 notices (R352). -/
structure WeftOk (x : Weft) : Prop where
  notices : x.notices.length ≤ 1024

/-- The invariant that every step keeps. -/
structure State.Inv (s : State) : Prop where
  sh : ShOk s.sh
  cfg : CfgOk s.cfg
  drv : DrvOk s.drv
  weft : WeftOk s.weft

/-- The hub is held in reset while nRESET is low (R455), and while D0, which is either on or lost, is lost (R452); the
request that waits in front is of the command set, for one of no command is answered as soon as it stands there (R39,
R50). -/
structure State.Held (s : State) : Prop where
  nreset : s.hub.nresetLow = true → s.hub.inReset = true
  d0 : (s.pow.domains.get 0).state = 2 ∨ ((s.pow.domains.get 0).state = 3 ∧ s.hub.inReset = true)
  front : ∀ q, s.sh.taken.head? = some q → cmdKnown q.cmd = true

/-! ### The command set -/

/-- The request that a row of the command set (R16, R74) carries: when it happens, the request, and the command code.
-/
def requestOf : Instr → Option (Nat × Req × Nat)
  | .identify t rq => some (t, rq, 0x0000)
  | .status t rq => some (t, rq, 0x0001)
  | .ping t rq => some (t, rq, 0x0002)
  | .release t rq => some (t, rq, 0x0003)
  | .jobStatus t rq => some (t, rq, 0x0004)
  | .jobCancel t rq => some (t, rq, 0x0005)
  | .restart t rq => some (t, rq, 0x0006)
  | .eventRead t rq => some (t, rq, 0x0008)
  | .countersRead t rq => some (t, rq, 0x0009)
  | .cfgOpen t rq => some (t, rq, 0x0010)
  | .paramRead t rq => some (t, rq, 0x0011)
  | .paramWrite t rq => some (t, rq, 0x0012)
  | .checkOnly t rq => some (t, rq, 0x0013)
  | .commit t rq => some (t, rq, 0x0013)
  | .commitNoEn t rq => some (t, rq, 0x0013)
  | .cfgAbort t rq => some (t, rq, 0x0014)
  | .copyStatus t rq => some (t, rq, 0x0015)
  | .cfgSave t rq => some (t, rq, 0x0016)
  | .enterConfig t rq => some (t, rq, 0x0020)
  | .start t rq => some (t, rq, 0x0021)
  | .stop t rq => some (t, rq, 0x0022)
  | .enterService t rq => some (t, rq, 0x0023)
  | .leaveService t rq => some (t, rq, 0x0024)
  | .faultClear t rq => some (t, rq, 0x0025)
  | .heddleState t rq => some (t, rq, 0x0100)
  | .leadStatus t rq => some (t, rq, 0x0101)
  | .excStatus t rq => some (t, rq, 0x0102)
  | .ovrCounters t rq => some (t, rq, 0x0103)
  | .threadProbe t rq => some (t, rq, 0x0104)
  | .convStatus t rq => some (t, rq, 0x0200)
  | .scSpot t rq => some (t, rq, 0x0201)
  | .scanRead t rq => some (t, rq, 0x0202)
  | .simulRead t rq => some (t, rq, 0x0203)
  | .scCounters t rq => some (t, rq, 0x0204)
  | .pathTest t rq => some (t, rq, 0x0205)
  | .leadRes t rq => some (t, rq, 0x0206)
  | .filterStatus t rq => some (t, rq, 0x0300)
  | .settleInfo t rq => some (t, rq, 0x0301)
  | .reedSwap t rq => some (t, rq, 0x0302)
  | .mainsStatus t rq => some (t, rq, 0x0303)
  | .coefRead t rq => some (t, rq, 0x0304)
  | .groupStatus t rq => some (t, rq, 0x0400)
  | .chTiming t rq => some (t, rq, 0x0401)
  | .instantCalc t rq => some (t, rq, 0x0402)
  | .timeStatus t rq => some (t, rq, 0x0500)
  | .warpPorts t rq => some (t, rq, 0x0501)
  | .syncReset t rq => some (t, rq, 0x0502)
  | .timeSet t rq => some (t, rq, 0x0503)
  | .eventSend t rq => some (t, rq, 0x0504)
  | .censusRead t rq => some (t, rq, 0x0505)
  | .linEval t rq => some (t, rq, 0x0600)
  | .cjStatus t rq => some (t, rq, 0x0601)
  | .bridgeZero t rq => some (t, rq, 0x0602)
  | .calStatus t rq => some (t, rq, 0x0700)
  | .calRun t rq => some (t, rq, 0x0701)
  | .calCommit t rq => some (t, rq, 0x0702)
  | .calDiscard t rq => some (t, rq, 0x0703)
  | .calRead t rq => some (t, rq, 0x0704)
  | .treadleStatus t rq => some (t, rq, 0x0800)
  | .treadleArm t rq => some (t, rq, 0x0801)
  | .treadleDisarm t rq => some (t, rq, 0x0802)
  | .treadleForce t rq => some (t, rq, 0x0803)
  | .bobbinStatus t rq => some (t, rq, 0x0804)
  | .compStatus t rq => some (t, rq, 0x0805)
  | .tioStatus t rq => some (t, rq, 0x0806)
  | .loopStatus t rq => some (t, rq, 0x0900)
  | .loopSet t rq => some (t, rq, 0x0901)
  | .loopSelect t rq => some (t, rq, 0x0902)
  | .stimStatus t rq => some (t, rq, 0x0903)
  | .stimStart t rq => some (t, rq, 0x0904)
  | .stimStop t rq => some (t, rq, 0x0905)
  | .stimLoad t rq => some (t, rq, 0x0906)
  | .stimTableEnd t rq => some (t, rq, 0x0907)
  | .portStatus t rq => some (t, rq, 0x0A00)
  | .streamStatus t rq => some (t, rq, 0x0A01)
  | .storeStatus t rq => some (t, rq, 0x0A02)
  | .weftResend t rq => some (t, rq, 0x0A03)
  | .noticeRead t rq => some (t, rq, 0x0A04)
  | .ptpStatus t rq => some (t, rq, 0x0A05)
  | .winnowStatus t rq => some (t, rq, 0x0B00)
  | .winnowProbe t rq => some (t, rq, 0x0B01)
  | .integrityStatus t rq => some (t, rq, 0x0C00)
  | .crossStatus t rq => some (t, rq, 0x0C01)
  | .chkStep t rq => some (t, rq, 0x0C02)
  | .storeCrc t rq => some (t, rq, 0x0C03)
  | .pairStatus t rq => some (t, rq, 0x0D00)
  | .pairSwitch t rq => some (t, rq, 0x0D01)
  | .pairDetach t rq => some (t, rq, 0x0D02)
  | .mirrorResync t rq => some (t, rq, 0x0D03)
  | .powerStatus t rq => some (t, rq, 0x0E00)
  | .domainSet t rq => some (t, rq, 0x0E01)
  | .seedStatus t rq => some (t, rq, 0x0E02)
  | .seedSubst t rq => some (t, rq, 0x0E03)
  | .seedConsent t rq => some (t, rq, 0x0E04)
  | .imageLoad t rq => some (t, rq, 0x0E05)
  | .imageEnd t rq => some (t, rq, 0x0E06)
  | _ => none

/-- Where a command is legal (R59, with what the chapters narrow): by its code and the hub state. -/
def legalIn (code : Nat) (h : HubState) : Bool :=
  match h with
  | .safe => false
  | .boot => [0x0000, 0x0001, 0x0002, 0x0006].contains code
  | .config => !(readyRunService.contains code || runOnly.contains code || serviceOnly.contains code
      || readyService.contains code || [0x0020, 0x0021, 0x0022, 0x0023, 0x0024, 0x0025].contains code)
  | .ready => !(runOnly.contains code || serviceOnly.contains code || [0x0022, 0x0024, 0x0025].contains code)
  | .run => !(serviceOnly.contains code || readyService.contains code || configReadyService.contains code
      || [0x0020, 0x0021, 0x0023, 0x0024, 0x0025].contains code)
  | .service => !(runOnly.contains code || [0x0021, 0x0022, 0x0023, 0x0025].contains code)
  | .fault => !(staging.contains code || readyRunService.contains code || runOnly.contains code
      || serviceOnly.contains code || readyService.contains code || configReadyService.contains code
      || [0x0021, 0x0022, 0x0023, 0x0024].contains code)
where
  /-- The configuration session, COMMIT and save, REED_SWAP and the table loads: refused in BOOT and FAULT. -/
  staging : List Nat := [0x0010, 0x0012, 0x0013, 0x0014, 0x0016, 0x0302, 0x0906, 0x0907]
  readyRunService : List Nat :=
    [0x0206, 0x0502, 0x0503, 0x0504, 0x0602, 0x0901, 0x0902, 0x0A03, 0x0D01, 0x0D02, 0x0D03]
  runOnly : List Nat := [0x0801, 0x0802, 0x0803, 0x0904, 0x0905]
  serviceOnly : List Nat := [0x0205, 0x0701]
  readyService : List Nat := [0x0702, 0x0703]
  configReadyService : List Nat := [0x0E01, 0x0E04, 0x0E05, 0x0E06]

/-- The commands that a standby refuses before any other test of theirs (R60); COMMIT meets its role at step 3 of R67.
-/
def standbyRefuses : List Nat :=
  [0x0010, 0x0012, 0x0020, 0x0021, 0x0022, 0x0023, 0x0024, 0x0205, 0x0302, 0x0502, 0x0503, 0x0504, 0x0701,
   0x0702, 0x0703, 0x0801, 0x0802, 0x0803, 0x0901, 0x0902, 0x0904, 0x0905, 0x0906, 0x0907, 0x0A03, 0x0D01, 0x0E01,
   0x0E03, 0x0E04]

/-- The bytes of a request (R45). -/
def reqBytes (rq : Req) (rev hub : Nat) : Bytes :=
  withCrc (beBytes 1 (rq.alive * 16 + rq.mb) ++ beBytes 1 rev ++ beBytes 2 rq.cmd ++ beBytes 2 rq.payload.length
    ++ beBytes 2 hub ++ beBytes 4 rq.seq ++ beBytes 4 rq.b12 ++ rq.payload)

/-- A request whose fields fit their places (R45). -/
structure Fits (rq : Req) : Prop where
  mb : rq.mb < 8
  alive : rq.alive < 16
  cmd : rq.cmd < 2 ^ 16
  seq : rq.seq < 2 ^ 32
  b12 : rq.b12 < 2 ^ 32
  len : rq.payload.length ≤ 1004

/-- A message arrives from a requester (R40, R41). -/
def arrival (t port : Nat) (src : Requester) (m : Bytes) : Instr :=
  match src with
  | .spi => .spiWrite t m
  | .udp ip u => .shuttleRequest t port ip u m

/-- The hub listens to a requester: it is out of reset, and the requester reaches it (R40, R73, R455). -/
def State.Listens (s : State) (src : Requester) (port : Nat) : Prop := s.hub.inReset = false ∧ s.hears src port = true

/-- A response of this hub to a request, in its present state (R45, R49). -/
def State.response (s : State) (rq : Req) (status reason : Nat) (payload : Bytes) : Response :=
  { cmd := rq.cmd, seq := rq.seq, alive := rq.alive, status, reason, state := s.stateByte, hub := s.hubIdOut, payload }

/-- The response to a request that is not taken leaves, and its mailbox's record stays (R50, R52). -/
def untaken (rq : Req) (reason : Nat) (s : State) : State :=
  deliver rq.src rq.port rq.mb (respBytes (s.response rq 4 reason [0, 0, 0, 0, 0xFF#8, 0xFF#8, 0, 0]) rq.mb false) s

/-! ### What a command does to the machine -/

/-- A command takes effect: exec answers a next state that leaves the queue as it was, and of which P holds. -/
def Does (c : Instr) (s : State) (P : State → Prop) : Prop :=
  ∃ s', exec c s = .next s' ∧ s'.pending = s.pending ∧ P s'

/-- A mailbox takes a request (R43, R50): it is not kept for SPI, and it is unclaimed, or claimed by this requester
with no request waiting, the next ALIVE and another SEQ. -/
structure State.Admits (s : State) (rq : Req) : Prop where
  reserve : rq.src ≠ .spi → s.cfg.active.spiReserve rq.mb = false
  claim : (s.sh.mail.get rq.mb).claim = none ∨ (s.sh.mail.get rq.mb).claim = some rq.src
    ∧ (rq.alive + 16 - (s.sh.mail.get rq.mb).alive % 16) % 16 = 1 ∧ rq.seq ≠ (s.sh.mail.get rq.mb).seq
    ∧ (s.sh.mail.get rq.mb).busy = false

/-- This hub takes a request and executes it at once: it is out of reset and not in SAFE, its state is one of those
given, the request reaches it and its mailbox takes it, no other request waits for the supervisor, and bytes 12 to 15
are zero (R39, R43, R50, R59, R61). -/
structure State.Takes (s : State) (rq : Req) (legal : HubState → Bool) : Prop where
  reset : s.hub.inReset = false
  safe : s.hub.state ≠ .safe
  legal : legal s.hub.state = true
  hears : s.hears rq.src rq.port = true
  admits : s.Admits rq
  front : s.sh.taken = []
  b12 : rq.b12 = 0

/-- A state is another but for what answering a request touches: the request's mailbox, the SPI interrupt pin, the TC2
queue of the port where the request arrived, and the running value of check unit 2 (R395). -/
structure Quiet (rq : Req) (u s' : State) : Prop where
  rest : ∃ mail low ports units, s' = { u with
    sh := { u.sh with mail := mail, nIrqLow := low }, weft := { u.weft with ports := ports }, itg := { u.itg with units } }
  units : ∀ k, k ≠ 2 → s'.itg.units.get k = u.itg.units.get k
  mail : ∀ m, m ≠ rq.mb → s'.sh.mail.get m = u.sh.mail.get m
  other : ∀ p, p ≠ rq.port → s'.weft.ports.get p = u.weft.ports.get p
  port : ∃ q, s'.weft.ports.get rq.port = { u.weft.ports.get rq.port with tc2 := q }

/-- The mailbox holds a request's claim and alive record (R43, R50, R51). -/
def Holds (rq : Req) (b : Mailbox) : Prop := b.claim = some rq.src ∧ b.alive = rq.alive ∧ b.seq = rq.seq

/-- A response has left for its requester (R40, R41). -/
def Sent (rq : Req) (r : Response) (s' : State) : Prop :=
  match rq.src with
  | .udp ip u => (s'.weft.ports.get rq.port).tc2.getLast? = some (.udp ip u shuttlePort (respBytes r rq.mb false))
  | .spi => (s'.sh.mail.get rq.mb).unread = some (respBytes r rq.mb false)

/-- A taken request has been answered: the response is its mailbox's record and has left (R45, R48, R51). -/
def Answered (rq : Req) (code status reason : Nat) (payload : Bytes) (s' : State) : Prop :=
  let r : Response := { cmd := code, seq := rq.seq, alive := rq.alive, status, reason, state := s'.stateByte
                        hub := s'.hubIdOut, payload }
  Holds rq (s'.sh.mail.get rq.mb) ∧ (s'.sh.mail.get rq.mb).busy = false ∧ (s'.sh.mail.get rq.mb).resp = some r
    ∧ Sent rq r s'

/-- A request command is taken and answered at once, and leaves the machine as u but for the answer itself. -/
def Answers (c : Instr) (s : State) (rq : Req) (code status reason : Nat) (payload : Bytes) (u : State) : Prop :=
  Does c s fun s' => Answered rq code status reason payload s' ∧ Quiet rq u s'

/-- A request is taken and waits for the supervisor (R39, R50, R51). -/
def Waits (c : Instr) (t : Nat) (s : State) (rq : Req) : Prop :=
  Does c s fun s' => Holds rq (s'.sh.mail.get rq.mb) ∧ (s'.sh.mail.get rq.mb).busy = true
    ∧ (s'.sh.mail.get rq.mb).resp = none ∧ (s'.sh.mail.get rq.mb).lastTaken = (tick t s).clk.loom
    ∧ Quiet rq { tick t s with sh := { s.sh with taken := s.sh.taken ++ [rq] } } s'

/-- A request command is taken, and its response follows later (R134, R146): its mailbox stays busy. -/
def Awaits (c : Instr) (s : State) (rq : Req) (u : State) : Prop :=
  Does c s fun s' => Holds rq (s'.sh.mail.get rq.mb) ∧ (s'.sh.mail.get rq.mb).busy = true
    ∧ (s'.sh.mail.get rq.mb).resp = none ∧ Quiet rq u s'

/-- A read answers DONE with a payload of which P holds, and changes nothing else. -/
def Reads (c : Instr) (t : Nat) (s : State) (rq : Req) (code : Nat) (P : Bytes → Prop) : Prop :=
  ∃ p, P p ∧ Answers c s rq code 0 0 p (tick t s)

/-- The payload of a refusal that names an index (R48). -/
def atIndex (i : Nat) : Bytes := zeros 4 ++ beBytes 2 i ++ zeros 2

/-- A taken request is refused: the refusal is logged (R77), and nothing else changes. -/
def Refuses (c : Instr) (t : Nat) (s : State) (rq : Req) (code reason : Nat) (payload : Bytes) : Prop :=
  Answers c s rq code 4 reason payload (logEvent reason code (reqDetail rq.mb rq.seq) (tick t s))

/-- A change stands among the staged ones for the beat of R31, with the request that staged it; an active hub of a pair
sends it to its partner besides (R429). -/
def Stages (c : Instr) (t : Nat) (s : State) (rq : Req) (code : Nat) (ch : Change) (tail : Bytes) (u : State) : Prop :=
  Answers c s rq code 1 0 (beBytes 8 (tick t s).due ++ tail) (stageAt (tick t s).due ch code rq.mb rq.seq u)

end Sys2Proof.Machine
end

