-- ==== Sys2Proof/Certificates/Slice0/Obligations.lean ====
section
/-! DEFINITION. The statements for the provers: what the block does with its queue, the rules of the spec on numbers
and bytes, the transport of requests, every command of the command set and every event, and what BOOT, pairs and power
do. -/

open Sys2Proof Sys2Proof.Machine

/-! ### The block -/

/-- A step executes the command at the front of the queue on the machine with the rest of the queue; every command
takes effect in every state and leaves the queue as it is; with nothing waiting the block idles, the model's choice
(log 12). -/
def Obligations.StepRunsFrontCommand : Prop :=
  (∀ (s : State) (c : Instr) (rest : List Instr), s.pending = c :: rest → step s = exec c { s with pending := rest })
    ∧ (∀ (c : Instr) (s : State), Does c s fun _ => True)
    ∧ ∀ s : State, s.pending = [] → step s = .next s

/-- Every step keeps the invariant, whatever command stands in front: the event log and the notices keep within their
bounds (R77, R352), SPI_nIRQ follows the unread responses (R41), and the configurations, the working set, the copies,
the stimulus tables and the staging area keep the one canonical form. -/
def Obligations.StepKeepsInvariant : Prop := ∀ s s' : State, s.Inv → step s = .next s' → s'.Inv

/-- The machine after reset meets the invariant (R41, R77, R352). -/
def Obligations.ResetMeetsInvariant : Prop := State.reset.Inv

/-- What reset leaves (R39, R43, R64, R77, R293, R455): nRESET low, the hub held in BOOT, nothing claimed, locked or
logged, no sequencer armed, and only D0 switched on. The factory defaults in force are the model's reading (R62, R71,
log entries 1, 5, 11). -/
def Obligations.ResetState : Prop :=
  let s := State.reset
  s.hub.state = .boot ∧ s.hub.nresetLow = true ∧ s.hub.inReset = true ∧ s.pending = [] ∧ s.sh.log = []
    ∧ s.sh.taken = [] ∧ s.sh.jobs = [] ∧ s.sh.lock = none ∧ s.sh.alarms = [] ∧ s.cfg.staged = []
    ∧ (∀ m, (s.sh.mail.get m).claim = none) ∧ (∀ n, s.sh.counters.get n = 0) ∧ (∀ k, (s.trd.seqs.get k).armed = false)
    ∧ (∀ b o, s.cfg.force.word b o = factory b o ∧ s.cfg.active.word b o = factory b o)
    ∧ ∀ d, s.domOn d = true ↔ d = 0

/-! ### Numbers and bytes -/

/-- R29: beat m of a second begins at the smallest whole number at or above m * 2^32 / 1000, and the beat number is
the seconds times 1000 plus m; every instant lies in one beat; the beat counter, which takes the number of each
boundary, is what STATUS reads. -/
def Obligations.BeatBoundaryInstants : Prop :=
  (∀ sec m : Nat, m < 1000 →
    beatTime (sec * 1000 + m) / 2 ^ 32 = sec
      ∧ m * 2 ^ 32 ≤ beatTime (sec * 1000 + m) % 2 ^ 32 * 1000
      ∧ beatTime (sec * 1000 + m) % 2 ^ 32 * 1000 < m * 2 ^ 32 + 1000)
    ∧ (∀ n : Nat, beatAt (beatTime n) = n)
    ∧ (∀ t : Nat, beatTime (beatAt t) ≤ t ∧ t < beatTime (beatAt t + 1))
    ∧ (∀ (s : State) (t : Nat) (husks : List Nat) (late : Bool) (bad : List Nat), s.hub.inReset = false →
      s.clk.boundary < beatTime (beatAt (tick t s).clk.loom) → Does (.beatBoundary t husks late bad) s fun s' =>
        s'.clk.beat = beatAt (tick t s).clk.loom)
    ∧ ∀ (s : State) (t : Nat) (rq : Req), s.Takes rq (fun _ => true) → rq.payload = [] →
      ∃ p u, Answers (.status t rq) s rq 0x0001 0 0 p u ∧ beAt p 8 8 = s.clk.beat % 2 ^ 64

/-- R70: a is newer than b exactly when (a - b) mod 2^32 lies in 1 to 2^31 - 1, equal when the difference is 0, and at
2^31 neither is newer; the choices among configuration, calibration and firmware copies that differ follow it. -/
def Obligations.SerialNumbersCompare : Prop :=
  ∀ a b : Nat, a < 2 ^ 32 → b < 2 ^ 32 →
    (newer32 a b = true ↔ 1 ≤ ((a : Int) - b) % 2 ^ 32 ∧ ((a : Int) - b) % 2 ^ 32 ≤ 2 ^ 31 - 1)
      ∧ (((a : Int) - b) % 2 ^ 32 = 0 ↔ a = b)
      ∧ (((a : Int) - b) % 2 ^ 32 = 2 ^ 31 → newer32 a b = false ∧ newer32 b a = false)
      ∧ ((copyChoice true true false a b).1 = some true ↔ newer32 b a = true)
      ∧ ((copyChoice true true false a b).1 = some false ↔ newer32 a b = true)
      ∧ ∀ s : State, s.pow.imageA.invalid = false → s.pow.imageA.seq = a → s.pow.imageB.invalid = false →
        s.pow.imageB.seq = b → s.hub.bootSel = false → s.imageChoice 0 = (if newer32 b a then 1 else 0, false)

/-- R392, R394, R398, R65: the check values of both algorithms; a stream computed in pieces gives the running value of
the stream computed without a break, whatever its pieces; a word's husk is read back as the word, and bytes in which
either half differs are refused. The addressed memories (R62, R329, R458): a read after a write gives the value
written, every other index reads as before, the canonical form is kept, and memories that read alike are equal. -/
def Obligations.CheckValuesHusksAndTables : Prop :=
  (crc32c (ascii [0x31, 0x32, 0x33, 0x34, 0x35, 0x36, 0x37, 0x38, 0x39]) = 0xE3069283#32
    ∧ crc16 (ascii [0x31, 0x32, 0x33, 0x34, 0x35, 0x36, 0x37, 0x38, 0x39]) = 0x29B1#16)
    ∧ (∀ (alg : Bool) (v : Word) (a b : Bytes), unitRun alg v (a ++ b) = unitRun alg (unitRun alg v a) b)
    ∧ (∀ (w c : Word) (a b : Bytes),
      huskAt (a ++ beWord w ++ beWord c ++ b) a.length = (if c = ~~~ w then some w else none))
    ∧ (∀ (m : PMem) (k j : Nat) (v : Word), (m.set k v).get k = v ∧ (j ≠ k → (m.set k v).get j = m.get j)
      ∧ (m.wf = true → (m.set k v).wf = true))
    ∧ ∀ (m n : PMem), m.wf = true → n.wf = true → ((∀ k, m.get k = n.get k) ↔ m = n)

/-! ### Shuttle -/

/-- R47, R395, for SHUTTLE_REQUEST and SPI_WRITE: the tests run in the order listed; a message that fails one is
discarded without a response, and counted once, under the first it fails. A CRC that fails over UDP counts in check
unit 2 too (R393), which checks a message of the right length. Rests on the readings and choices of log entries 10,
150. -/
def Obligations.MessagesDiscardedInOrder : Prop :=
  ∀ (s : State) (t port : Nat) (src : Requester) (m : Bytes), s.Listens src port →
    let drop := fun (k : Nat) (u : State) => exec (arrival t port src m) s
      = .next { u with sh := { u.sh with counters := u.sh.counters.upd (if src = .spi then k + 1 else k) inc16 } }
    let u := checked src m (tick t s)
    let bad := if src = .spi then u else { u with itg := { u.itg with mismatches := u.itg.mismatches.upd 2 inc16 } }
    (m.length ≠ 16 + beAt m 4 2 + 4 ∨ 1004 < beAt m 4 2 → drop 2 u)
      ∧ (m.length = 16 + beAt m 4 2 + 4 → beAt m 4 2 ≤ 1004 →
        (crcPasses m = false → drop 0 bad)
          ∧ (crcPasses m = true → nbit (beAt m 0 1) 3 = true → drop 2 u)
          ∧ (crcPasses m = true → nbit (beAt m 0 1) 3 = false → beAt m 6 2 ≠ 0xFFFF → some (beAt m 6 2) ≠ s.hub.hubId →
            drop 4 u))

/-- R43, R46, R50, R61: what a request that SHUTTLE_REQUEST or SPI_WRITE brings and that survives R47 meets before its
alive counter is judged. One that a claim or a reservation turns away leaves the mailbox's record (R52); one that is
taken claims the mailbox. Rests on the readings and choices of log entries 10, 16, 60. -/
def Obligations.RequestsMeetClaimsFirst : Prop :=
  ∀ (s : State) (t rev hub : Nat) (rq : Req), s.Listens rq.src rq.port → s.Held → Fits rq → rev < 256 → hub < 2 ^ 16 →
    (hub = 0xFFFF ∨ s.hub.hubId = some hub) → (rq.src = .spi → rq.port = 0) →
    let c := arrival t rq.port rq.src (reqBytes rq rev hub)
    let u := checked rq.src (reqBytes rq rev hub) (tick t s)
    let m := s.sh.mail.get rq.mb
    (s.hub.state = .safe →
        exec c s = .next (deliver rq.src rq.port rq.mb (respBytes (u.response rq 5 0x0102 []) rq.mb false) u))
      ∧ (s.hub.state ≠ .safe → rev ≠ 4 → exec c s = .next (untaken rq 0x0806 u))
      ∧ (s.hub.state ≠ .safe → rev = 4 → m.claim ≠ none → m.claim ≠ some rq.src →
        exec c s = .next (untaken rq 0x0807 (count78 (15 + rq.mb) u)))
      ∧ (s.hub.state ≠ .safe → rev = 4 → m.claim = none ∨ m.claim = some rq.src → rq.src ≠ .spi →
        s.cfg.active.spiReserve rq.mb = true → exec c s = .next (untaken rq 0x080B (count78 (15 + rq.mb) u)))
      ∧ (s.hub.state ≠ .safe → rev = 4 → m.claim = none → rq.src = .spi ∨ s.cfg.active.spiReserve rq.mb = false →
        (cmdKnown rq.cmd = true ∨ s.sh.taken ≠ [] → Waits c t s rq)
          ∧ (cmdKnown rq.cmd = false → s.sh.taken = [] → Refuses c t s rq rq.cmd (if rq.b12 = 0 then 0x0809 else 0x0302) (atIndex 0xFFFF)))

/-- R50 to R52: a request to a mailbox that its requester has claimed is judged by d = (ALIVE - recorded ALIVE) mod
16. Rests on the readings and choices of log entries 10, 16. -/
def Obligations.AliveRuleJudgesRequests : Prop :=
  ∀ (s : State) (t hub : Nat) (rq : Req), s.Listens rq.src rq.port → s.Held → Fits rq → hub < 2 ^ 16 →
    (hub = 0xFFFF ∨ s.hub.hubId = some hub) → (rq.src = .spi → rq.port = 0) → s.hub.state ≠ .safe →
    (s.sh.mail.get rq.mb).claim = some rq.src → rq.src = .spi ∨ s.cfg.active.spiReserve rq.mb = false →
    let c := arrival t rq.port rq.src (reqBytes rq 4 hub)
    let u := checked rq.src (reqBytes rq 4 hub) (tick t s)
    let m := s.sh.mail.get rq.mb
    let d := ((rq.alive : Int) - m.alive) % 16
    let refused := fun (reason : Nat) => exec c s = .next (untaken rq reason (count78 (7 + rq.mb) u))
    (d = 1 → rq.seq ≠ m.seq → m.busy = true → exec c s = .next (untaken rq 0x0503 (count78 (31 + rq.mb) u)))
      ∧ (d = 1 → rq.seq ≠ m.seq → m.busy = false → cmdKnown rq.cmd = true ∨ s.sh.taken ≠ [] → Waits c t s rq)
      ∧ (d = 1 → rq.seq ≠ m.seq → m.busy = false → cmdKnown rq.cmd = false → s.sh.taken = [] →
        Refuses c t s rq rq.cmd (if rq.b12 = 0 then 0x0809 else 0x0302) (atIndex 0xFFFF))
      ∧ (d = 1 → rq.seq = m.seq → refused 0x0805)
      ∧ (d = 0 → rq.seq = m.seq → m.busy = true → exec c s = .next u)
      ∧ (∀ r, d = 0 → rq.seq = m.seq → m.busy = false → m.resp = some r →
        exec c s = .next (deliver rq.src rq.port rq.mb (respBytes r rq.mb true) (count78 (23 + rq.mb) u)))
      ∧ (d = 0 → rq.seq ≠ m.seq → refused 0x0805)
      ∧ (2 ≤ d → d ≤ 8 → refused 0x0804)
      ∧ (9 ≤ d → refused 0x0803)

/-- R39, R46, R50, R58 to R61, R455: the tests that every request command meets before its own, in their order, and
what it does where it is not its turn; where none waits it brings its own request, which a hub that it does not reach
does not hear, and which is judged first as one that arrives (R43, R50). That the test of bytes 12 to 15 in BOOT comes
first is log entry 15's reading. Rests on the readings and choices of log entries 10, 14, 16, 22. -/
def Obligations.RequestTestsInOrder : Prop :=
  ∀ (c : Instr) (s : State) (t : Nat) (rq : Req) (code : Nat), requestOf c = some (t, rq, code) →
    let refused := fun (reason : Nat) => Refuses c t s rq code reason (atIndex 0xFFFF)
    (s.hub.inReset = true → exec c s = .next (tick t s))
      ∧ (s.hub.inReset = false → s.sh.taken ≠ [] → s.sh.taken.head? ≠ some { rq with cmd := code } →
        exec c s = .next (tick t s))
      ∧ (s.hub.inReset = false → s.sh.taken = [] → s.hears rq.src rq.port = false → exec c s = .next (tick t s))
      ∧ (s.hub.inReset = false → s.sh.taken = [] → s.hears rq.src rq.port = true → s.hub.state ≠ .safe → ¬ s.Admits rq →
        exec c s = .next (judge 4 { rq with cmd := code } (tick t s)))
      ∧ (s.hub.inReset = false → s.sh.taken = [] → s.hears rq.src rq.port = true → s.hub.state = .safe →
        Does c s fun s' => Sent rq ((tick t s).response { rq with cmd := code } 5 0x0102 []) s' ∧ Quiet rq (tick t s) s')
      ∧ (s.hub.inReset = false → s.sh.taken = [] → s.hears rq.src rq.port = true → s.hub.state ≠ .safe → s.Admits rq →
        (rq.b12 ≠ 0 → refused 0x0302)
          ∧ (rq.b12 = 0 → legalIn code s.hub.state = false → refused (if s.hub.state = .boot then 0x0103 else 0x0101))
          ∧ (rq.b12 = 0 → legalIn code s.hub.state = true → standbyRefuses.contains code = true → s.hub.role = .standby →
            refused 0x0701))

/-- R39, R57, R61, R452, R455: every step keeps the hub in reset while nRESET is low or D0 is lost, and a request of
the command set in front of those taken; SAFE is left only through nRESET or a loss of D0, which hold the hub in
reset, in BOOT. While a hub is held in reset, HB_OUT stands still and both TXDIS balls are high (R422, R485). Rests on
the readings and choices of log entries 56, 124. -/
def Obligations.ResetHoldsAndSafeLatches : Prop :=
  State.reset.Held ∧ (∀ s s' : State, s.Held → step s = .next s' → s'.Held)
    ∧ ∀ (c : Instr) (s s' : State), s.Held → s.hub.state = .safe → s.hub.inReset = false → exec c s = .next s' →
      s'.hub.state = .safe ∨ (s'.hub.state = .boot ∧ s'.hub.inReset = true
        ∧ ((∃ t, c = .nresetAssert t) ∨ (∃ t r o, c = .railOutOfWindow t r o) ∨ ∃ t d, c = .domainSwitchFault t d))
    ∧ ∀ s : State, s.hub.inReset = true → s.hbOut = false ∧ s.txDis 0 = true ∧ s.txDis 1 = true

/-- R41, R42, R73: the other frames of the SPI port. READ clocks out the length and the unread response, which is read
once its last byte has gone; POLL shows the unread responses and the claims; an unknown opcode is counted as a length
error, a frame that stops as a timeout. Rests on the readings and choices of log entry 150. -/
def Obligations.SpiFramesAct : Prop :=
  ∀ (s : State) (t mb op clocked : Nat), s.Listens .spi 0 →
    let u := tick t s
    let m := s.sh.mail.get mb
    (m.unread = none →
      exec (.spiRead t mb clocked) s = .next { u with wire := .spi u.clk.loom ((zeros 2).take clocked) :: s.wire })
      ∧ (∀ b, m.unread = some b →
        let v := { u with wire := .spi u.clk.loom ((beBytes 2 b.length ++ b).take clocked) :: s.wire }
        (clocked < 2 + b.length → exec (.spiRead t mb clocked) s = .next v)
          ∧ (2 + b.length ≤ clocked →
            exec (.spiRead t mb clocked) s = .next (irq (mailUpd mb (fun m => { m with unread := none }) v))))
      ∧ (∃ a b, exec (.spiPoll t) s = .next { u with wire := .spi u.clk.loom [a, b] :: s.wire }
        ∧ ∀ n, n < 8 → a.getLsbD n = (s.sh.mail.get n).unread.isSome
          ∧ (b.getLsbD n = true ↔ (s.sh.mail.get n).claim = some .spi))
      ∧ exec (.spiInvalidOpcode t op) s
        = .next { u with sh := { s.sh with counters := s.sh.counters.upd 3 inc16 } }
      ∧ exec (.spiFrameTimeout t) s
        = .next { u with sh := { s.sh with counters := s.sh.counters.upd 6 inc16 } }

/-- R77, R76, R352, R354, R456: an event enters the log's front with the next index, after those that a BOOT held up
by XI has logged each second; an alarm bit is set or cleared, a notice of the change is numbered and kept, and an
onset is logged where its event has no row of its own; nothing happens where the bit stands already. The bits that
arise under LCLK cross to the supervisor at crossing 9, and check unit 1 runs over the notice frames (R395, R409; log
entry 123). -/
def Obligations.EventsAndAlarms : Prop :=
  (∀ (s : State) (reason source detail : Nat),
    let s' := logEvent reason source detail s
    let x := s.sh.caughtUp s.clk.loom s.clk.beat
    s'.sh.log = ({ beat := s.clk.beat, reason, source, detail } :: x.log).take 4096
      ∧ s'.sh.nextEvent = (x.nextEvent + 1) % 2 ^ 32 ∧ (s.sh.xiFrom = none → x = s.sh)
      ∧ (∀ last, s.sh.xiFrom = some last → let n := (s.clk.loom - last) / 2 ^ 32
        x.nextEvent = (s.sh.nextEvent + n) % 2 ^ 32 ∧ x.xiFrom = some (last + n * 2 ^ 32)
          ∧ ∀ i, i < n → i < 4096 → x.log[i]? = some { beat := s.clk.beat, reason := 0x0408, source := 0, detail := 0 })
      ∧ s' = { s with sh := { s.sh with log := s'.sh.log, nextEvent := s'.sh.nextEvent, xiFrom := x.xiFrom } })
    ∧ ∀ (s : State) (bit part reason : Nat) (on logged : Bool),
      let s' := setAlarm bit on logged part reason s
      (s.sh.alarms.contains bit = on → s' = s)
        ∧ (s.sh.alarms.contains bit ≠ on →
          (∀ b, s'.sh.alarms.contains b = if b = bit then on else s.sh.alarms.contains b)
            ∧ s'.weft.nextNotice = (s.weft.nextNotice + 1) % 2 ^ 32
            ∧ s'.weft.notices.head? = some { typ := if on then 3 else 4, b1 := bit, b23 := part, loom := s.clk.loom
                                             tail := beBytes 2 reason ++ zeros 10 }
            ∧ s'.weft.notices.tail = (s.weft.notices.take 1023)
            ∧ s'.sh.log = (if on && logged
              then (logEvent reason 0 (bit % 256 * 65536 + part % 65536) s).sh.log else s.sh.log)
            ∧ (∀ p, (s'.weft.ports.get p).tc2 = (s.weft.ports.get p).tc2)
            ∧ (∀ k, k ≠ 1 → s'.itg.units.get k = s.itg.units.get k)
            ∧ (∀ x, x ≠ 9 ∨ bit ∉ [0, 1, 4, 5] → s'.itg.crossings.get x = s.itg.crossings.get x)
            ∧ ∃ alarms log ev xi ports notices nx crossings units, s' = { s with
                sh := { s.sh with alarms := alarms, log := log, nextEvent := ev, xiFrom := xi }
                weft := { s.weft with ports := ports, notices := notices, nextNotice := nx }
                itg := { s.itg with crossings := crossings, units := units } })

/-- R44, R55: a claim whose owner has sent nothing for CLAIM_IDLE ends: its record is cleared, and a working set that
it held is discarded, the lock freed and event 0x0506 logged, which raises alarm 15; one that has not idled stays.
RELEASE ends its own claim after its answer. A job's ID becomes unknown 60 s after the job's end, and not before.
Rests on the readings and choices of log entry 17. -/
def Obligations.ClaimsAndResultsEnd : Prop :=
  ∀ (s : State) (t : Nat),
    let u := tick t s
    (∀ mb, (s.sh.mail.get mb).claim.isSome = true →
      (s.sh.mail.get mb).lastTaken + s.cfg.active.claimIdle * 2 ^ 32 ≤ u.clk.loom →
      let v := irq { u with sh := { s.sh with mail := s.sh.mail.set mb { } } }
      exec (.claimIdleLapse t mb) s = .next (if s.sh.lock = some mb then
        setAlarm 15 true false 0xFFFF 0x0506
          (logEvent 0x0506 0 mb { v with sh := { v.sh with lock := none, work := none } }) else v))
      ∧ (∀ mb, (s.sh.mail.get mb).claim = none
          ∨ u.clk.loom < (s.sh.mail.get mb).lastTaken + s.cfg.active.claimIdle * 2 ^ 32 →
        exec (.claimIdleLapse t mb) s = .next u)
      ∧ (∀ rq, s.Takes rq stRead → rq.payload = [] → Does (.release t rq) s fun s' =>
        s'.sh.mail.get rq.mb = { unread := (s'.sh.mail.get rq.mb).unread }
          ∧ Sent rq (u.response { rq with cmd := 0x0003 } 0 0 []) s'
          ∧ (s.sh.lock ≠ some rq.mb → Quiet rq u s')
          ∧ (s.sh.lock = some rq.mb →
            Quiet rq (logEvent 0x0506 0x0003 rq.mb { u with sh := { s.sh with lock := none, work := none } }) s'))
      ∧ (∀ job e, (findJob job s).bind (·.ended) = some e → e + 60 * 2 ^ 32 ≤ u.clk.loom →
        Does (.jobResultExpiry t job) s fun s' => findJob job s' = none
          ∧ (∀ j, j ≠ job → findJob j s' = findJob j s)
          ∧ s' = { u with sh := { s.sh with jobs := s'.sh.jobs } })
      ∧ ∀ job, (∀ e, (findJob job s).bind (·.ended) = some e → u.clk.loom < e + 60 * 2 ^ 32) →
        exec (.jobResultExpiry t job) s = .next u

/-! ### General commands -/

/-- R74 to R78, R65, R500: what the general reads answer. EVENT_READ gives the index of the newest entry and up to its
count of entries, oldest first, from the first index asked for, or from the oldest entry kept where that is older, and
none where it is newer than the newest; entry j back from the next index is the log's entry j - 1. STATUS ends alarm
14, and COUNTERS_READ clears where it is asked to. A read of words answers a husk for each word of the source named,
whose reserved fields read as 0 (R9). IDENTIFY names the die set B (R2). Rests on the readings and choices of log
entries 14, 18, 19. -/
def Obligations.GeneralReadsAnswer : Prop :=
  ∀ (s : State) (t : Nat) (rq : Req),
    let u := tick t s
    (∀ back count, s.Takes rq stRead → s.sh.log.length ≤ 4096 → s.sh.nextEvent < 2 ^ 32 → 0 < count → count ≤ 62 →
      back < 2 ^ 31 → rq.payload = beBytes 4 ((s.sh.nextEvent + 2 ^ 32 - back) % 2 ^ 32) ++ beBytes 1 count →
      Reads (.eventRead t rq) t s rq 0x0008 fun p =>
        let held := min back s.sh.log.length
        let k := min count held
        p.length = 8 + 16 * k ∧ beAt p 0 4 = (s.sh.nextEvent + 2 ^ 32 - 1) % 2 ^ 32 ∧ beAt p 4 1 = k
          ∧ ∀ i e, i < k → s.sh.log[held - 1 - i]? = some e → slice p (8 + 16 * i) 16
            = beBytes 8 e.beat ++ beBytes 2 e.reason ++ beBytes 2 e.source ++ beBytes 4 e.detail)
      ∧ (s.Takes rq (fun _ => true) → rq.payload = [] →
      Reads (.identify t rq) t s rq 0x0000 fun p => p.length = 68 ∧ beAt p 40 1 = 0x42 ∧ beAt p 41 1 = 4 ∧ beAt p 42 2 = s.hubIdOut % 2 ^ 16
        ∧ beAt p 45 1 = s.hub.runImage % 2 ^ 8 ∧ beAt p 48 4 = s.pow.imageA.version % 2 ^ 32
        ∧ beAt p 52 4 = s.pow.imageB.version % 2 ^ 32)
      ∧ (s.Takes rq (fun _ => true) → rq.payload = [] →
        ∃ p, Answers (.status t rq) s rq 0x0001 0 0 p (setAlarm 14 false false 0xFFFF 0 u) ∧ p.length = 48
          ∧ beAt p 0 8 = u.clk.loom % 2 ^ 64 ∧ beAt p 8 8 = s.clk.beat % 2 ^ 64 ∧ beAt p 16 1 = stateCode s.hub.state
          ∧ beAt p 17 1 = roleCode s.hub.role ∧ beAt p 20 2 = s.hub.lastCause % 2 ^ 16 ∧ beAt p 24 4 = s.cfg.seq % 2 ^ 32
          ∧ (s.pendingMove = none → beAt p 18 1 = 0)
          ∧ (∀ h x, s.pendingMove = some (h, x) → beAt p 18 1 = 128 + stateCode h)
          ∧ beAt p 40 4 = maskOf s.sh.alarms % 2 ^ 32 ∧ beAt p 44 2 = s.clk.overruns % 2 ^ 16
          ∧ beAt p 46 2 = s.clk.skipped % 2 ^ 16)
      ∧ (s.Takes rq (fun _ => true) → rq.payload.length ≤ 1004 → Answers (.ping t rq) s rq 0x0002 0 0 rq.payload u)
      ∧ (∀ id j, s.Takes rq stRead → id < 2 ^ 16 → rq.payload = beBytes 2 id → findJob id s = some j →
        Answers (.jobStatus t rq) s rq 0x0004 0 0
          (beBytes 1 j.state ++ zeros 1 ++ beBytes 2 j.reason ++ beBytes 8 j.beat ++ j.result) u)
      ∧ (∀ id, s.Takes rq stRead → id < 2 ^ 16 → rq.payload = beBytes 2 id → findJob id s = none →
        Refuses (.jobStatus t rq) t s rq 0x0004 0x0307 (atIndex 0xFFFF))
      ∧ (∀ clear, s.Takes rq stRead → clear < 2 → rq.payload = beBytes 1 clear →
        ∃ p, p.length = 78 ∧ (∀ i, i < 39 → beAt p (2 * i) 2 = s.sh.counters.get i % 2 ^ 16)
          ∧ Answers (.countersRead t rq) s rq 0x0009 0 0 p
            (if clear = 1 then { u with sh := { s.sh with counters := [] } } else u))
      ∧ (s.Takes rq stRead → rq.payload = [] →
        Reads (.copyStatus t rq) t s rq 0x0015 fun p => p.length = 40
          ∧ ∀ k (c : Copy), (k = 0 ∧ c = s.cfg.copyA) ∨ (k = 20 ∧ c = s.cfg.copyB) →
            beAt p k 4 = c.seq % 2 ^ 32 ∧ beAt p (k + 4) 1 = b2n c.valid ∧ beAt p (k + 12) 8 = c.beat % 2 ^ 64)
      ∧ ∀ src block off count n (m : PMem), s.Takes rq stRead →
        rq.payload = beBytes 1 src ++ zeros 1 ++ beBytes 2 block ++ beBytes 2 off ++ beBytes 2 count →
        src < 5 → block < 2 ^ 16 → blockSize block = some n → 0 < count → count ≤ 125 → off + count ≤ n →
        ((src = 0 ∧ m = s.cfg.force) ∨ (src = 1 ∧ s.sh.work.map (·.words) = some m)
          ∨ (src = 2 ∧ s.cfg.copyA.valid = true ∧ m = s.cfg.copyA.words)
          ∨ (src = 3 ∧ s.cfg.copyB.valid = true ∧ m = s.cfg.copyB.words) ∨ (src = 4 ∧ m = [])) →
        Reads (.paramRead t rq) t s rq 0x0011 fun p => p.length = 8 * count
          ∧ ∀ i, i < count → huskAt p (8 * i) = some (m.shown block (off + i))

/-! ### The configuration session -/

/-- R64, R65, R500, R8: CFG_OPEN takes the lock and loads the source, ending alarm 15; PARAM_WRITE checks every husk
before it writes a word, and writes nothing where one does not match; CFG_ABORT discards and frees. Rests on the
readings and choices of log entries 14, 18. -/
def Obligations.EditSessionEdits : Prop :=
  ∀ (s : State) (t : Nat) (rq : Req), s.Takes rq stStage → s.hub.role ≠ .standby →
    let u := tick t s
    (∀ src (w : Work), rq.payload = beBytes 1 src → s.sh.lock = none ∨ s.sh.lock = some rq.mb →
      ((src = 0 ∧ w = { words := s.cfg.force, seq := s.cfg.seq })
        ∨ (src = 1 ∧ s.cfg.copyA.valid = true ∧ w = { words := s.cfg.copyA.words, seq := s.cfg.copyA.seq })
        ∨ (src = 2 ∧ s.cfg.copyB.valid = true ∧ w = { words := s.cfg.copyB.words, seq := s.cfg.copyB.seq })
        ∨ (src = 3 ∧ w = { words := [], seq := 0 })) →
      Answers (.cfgOpen t rq) s rq 0x0010 0 0 (beBytes 4 w.seq)
        (setAlarm 15 false false 0xFFFF 0x0506 { u with sh := { s.sh with lock := some rq.mb, work := some w } }))
      ∧ (∀ block off n (ws : List Word) (w : Work), block < 2 ^ 16 → blockSize block = some n → ws ≠ [] →
        ws.length ≤ 124 → off + ws.length ≤ n → s.sh.lock = some rq.mb → s.sh.work = some w →
        rq.payload = beBytes 2 block ++ beBytes 2 off ++ beBytes 2 ws.length ++ zeros 2 ++ ws.flatMap huskBytes →
        ∃ m : PMem, Answers (.paramWrite t rq) s rq 0x0012 0 0 []
            { u with sh := { s.sh with work := some { w with words := m } } }
          ∧ (∀ i v, ws[i]? = some v → m.word block (off + i) = writable w.words block (off + i) v)
          ∧ ∀ b o, (b ≠ block ∨ o < off ∨ off + ws.length ≤ o) → o < 65536 → m.word b o = w.words.word b o)
      ∧ (∀ block off count n, blockSize block = some n → block < 2 ^ 16 → 0 < count → count ≤ 124 → off + count ≤ n →
        rq.payload.length = 8 + 8 * count → s.sh.lock = some rq.mb → s.sh.work ≠ none →
        slice rq.payload 0 8 = beBytes 2 block ++ beBytes 2 off ++ beBytes 2 count ++ zeros 2 →
        ∀ i, i < count → huskAt rq.payload (8 + 8 * i) = none → (∀ j, j < i → huskAt rq.payload (8 + 8 * j) ≠ none) →
        Refuses (.paramWrite t rq) t s rq 0x0012 0x0401 (beBytes 2 block ++ beBytes 2 (off + i) ++ beBytes 2 0xFFFF ++ zeros 2))
      ∧ (rq.payload = [] → s.sh.lock = some rq.mb → Answers (.cfgAbort t rq) s rq 0x0014 0 0 []
        { u with sh := { s.sh with lock := none, work := none } })
      ∧ (∀ other, s.sh.lock = some other → other ≠ rq.mb →
        (rq.payload.length = 1 → Refuses (.cfgOpen t rq) t s rq 0x0010 0x0501 (atIndex 0xFFFF))
          ∧ (rq.payload = [] → Refuses (.cfgAbort t rq) t s rq 0x0014 0x0501 (atIndex 0xFFFF))
          ∧ (rq.payload = [] → Refuses (.cfgSave t rq) t s rq 0x0016 0x0501 (atIndex 0xFFFF)))

/-- R66 to R68, R500, R31: what COMMIT does by its COMMIT word. EN 0 does nothing; CHECK_ONLY checks only; a COMMIT
whose check passes raises the number by 1 and stages the words that differ, and from CONFIG the move to READY too, and
frees the lock unless KEEP_LOCK is set. A check that fails changes nothing. A standby refuses it at step 3 (R60). The
payload of DONE is log entry 35's. Rests on the readings and choices of log entries 36, 61. -/
def Obligations.CommitStagesWhatDiffers : Prop :=
  ∀ (s : State) (t : Nat) (rq : Req) (word : Word), s.Takes rq stStage →
    rq.payload = huskBytes word → word &&& 0xFFFFFFF0#32 = 0#32 →
    let u := tick t s
    let done := beBytes 8 s.clk.beat ++ beBytes 4 s.cfg.seq
    (s.hub.role = .standby → (bitAt word 0 = true → s.sh.lock = some rq.mb ∧ s.sh.work ≠ none) →
      ∀ c ∈ [Instr.commit t rq, .checkOnly t rq, .commitNoEn t rq], Refuses c t s rq 0x0013 0x0701 (atIndex 0xFFFF))
      ∧ (s.hub.role ≠ .standby → bitAt word 0 = false → Answers (.commitNoEn t rq) s rq 0x0013 0 0 done u)
      ∧ ∀ w : Work, s.hub.role ≠ .standby → bitAt word 0 = true → s.sh.lock = some rq.mb → s.sh.work = some w →
        let new := keepLive s.cfg.force w.words
        let ws := s.cfg.force.changes new
        let kept := fun (v : State) => { v.sh with work := some { words := v.cfg.force, seq := v.cfg.seq } }
        let own := fun (v : State) =>
          { v with sh := if bitAt word 3 = true then kept v else { v.sh with lock := none, work := none } }
        (bitAt word 1 = true → u.commitFail ws new true = none → Answers (.checkOnly t rq) s rq 0x0013 0 0 done u)
          ∧ (∀ e l, u.commitFail ws new (bitAt word 1) = some (e, l) →
            ∀ c ∈ [Instr.commit t rq, .checkOnly t rq], Refuses c t s rq 0x0013 e
              (beBytes 2 l.block ++ beBytes 2 l.off ++ beBytes 2 l.idx ++ zeros 2))
          ∧ (bitAt word 1 = false → bitAt word 2 = false → u.commitFail ws new false = none → ws = [] →
            Answers (.commit t rq) s rq 0x0013 0 0 done (own u))
          ∧ (bitAt word 1 = false → bitAt word 2 = false → u.commitFail ws new false = none → ws ≠ [] →
            let v := stageAt u.due (.words ws) 0x0013 rq.mb rq.seq
              { u with cfg := { s.cfg with
                force := s.cfg.force.putAll ws, seq := (s.cfg.seq + 1) % 2 ^ 32
                seqPast := (u.clk.loom, s.cfg.seq) :: s.cfg.seqPast } }
            Answers (.commit t rq) s rq 0x0013 1 0 (beBytes 8 u.due ++ beBytes 4 ((s.cfg.seq + 1) % 2 ^ 32))
              (own (if s.hub.state = .config then stageAt u.due (.move .ready) 0x0013 rq.mb rq.seq v else v)))

/-- R69, R500: CFG_SAVE writes the configuration in force with its present number to the slot that does not hold the
copy in force, or to both where neither is usable. A write that fails leaves both copies and is answered DONE with
0x0406, logged, and raises alarm 12; whether the eMRAM takes a write is open. Rests on the readings and choices of log
entries 19, 20. -/
def Obligations.SaveWritesTheOtherSlot : Prop :=
  ∀ (s : State) (t : Nat) (rq : Req), s.Takes rq stStage → rq.payload = [] → s.sh.lock = none ∨ s.sh.lock = some rq.mb →
    let u := tick t s
    let both := s.cfg.rejected = true ∨ (s.cfg.copyA.valid = false ∧ s.cfg.copyB.valid = false)
    let c : Copy := { valid := true, seq := s.cfg.seq, words := s.cfg.force, beat := s.clk.beat }
    ∃ ok : Bool, Does (.cfgSave t rq) s fun s' =>
      Answered rq 0x0016 0 (if ok then 0 else 0x0406) (beBytes 4 s.cfg.seq) s'
        ∧ (ok = true → both → s'.cfg.copyA = c ∧ s'.cfg.copyB = c ∧ s'.cfg.inB = false)
        ∧ (ok = true → ¬ both → s.cfg.inB = true →
          s'.cfg.copyA = c ∧ s'.cfg.copyB = s.cfg.copyB ∧ s'.cfg.inB = false)
        ∧ (ok = true → ¬ both → s.cfg.inB = false →
          s'.cfg.copyB = c ∧ s'.cfg.copyA = s.cfg.copyA ∧ s'.cfg.inB = true)
        ∧ (ok = false → s'.cfg.copyA = s.cfg.copyA ∧ s'.cfg.copyB = s.cfg.copyB ∧ s'.cfg.inB = s.cfg.inB)
        ∧ s'.sh.alarms.contains 12 = !ok
        ∧ s'.cfg.force = s.cfg.force ∧ s'.cfg.active = s.cfg.active ∧ s'.cfg.seq = s.cfg.seq ∧ s'.hub = s.hub
        ∧ s'.clk = u.clk ∧ s'.hed = s.hed ∧ s'.filt = s.filt ∧ s'.trd = s.trd ∧ s'.drv = s.drv

/-! ### Hub states -/

/-- R57 to R60, R32, R77, R445, R497: the commanded moves are staged for the beat of R31; a second one is refused
while one waits, START on a detached hub, LEAVE_SERVICE while a test runs, and FAULT_CLEAR while a cause has not
cleared or the configuration fails its check. A change of the hub state is logged with its cause, and nothing happens
for a change to the present state; SAFE is left only for BOOT; a commanded move that waits when the hub enters FAULT,
SAFE or BOOT is cancelled. Rests on the readings and choices of log entries 14, 57, 146. -/
def Obligations.HubStateMoves : Prop :=
  (∀ (s : State) (t : Nat) (rq : Req) (h : HubState), s.Takes rq (· == h) → rq.payload = [] →
      let u := tick t s
      let stages := fun (c : Instr) (code : Nat) (target : HubState) =>
        (s.pendingMove = none → Stages c t s rq code (.move target) [] u)
          ∧ (s.pendingMove ≠ none → Refuses c t s rq code 0x0107 (atIndex 0xFFFF))
      (s.hub.role ≠ .standby → h = .ready ∨ h = .service ∨ h = .fault → stages (.enterConfig t rq) 0x0020 .config)
        ∧ (s.hub.role ≠ .standby → h = .run → stages (.stop t rq) 0x0022 .ready)
        ∧ (s.hub.role ≠ .standby → h = .ready → stages (.enterService t rq) 0x0023 .service)
        ∧ (s.hub.role ≠ .standby → h = .ready → s.pair.detached = false → s.coreCut = false → stages (.start t rq) 0x0021 .run)
        ∧ (s.hub.role ≠ .standby → h = .ready → s.pair.detached = true →
          Refuses (.start t rq) t s rq 0x0021 0x0101 (atIndex 0xFFFF))
        ∧ (s.hub.role ≠ .standby → h = .service → s.testing = false → stages (.leaveService t rq) 0x0024 .ready)
        ∧ (s.hub.role ≠ .standby → h = .service → s.testing = true →
          Refuses (.leaveService t rq) t s rq 0x0024 0x0108 (atIndex 0xFFFF))
        ∧ (h = .fault → u.uncleared = none → u.check s.cfg.force = none → stages (.faultClear t rq) 0x0025 .ready)
        ∧ (∀ e, h = .fault → u.uncleared = some e → Refuses (.faultClear t rq) t s rq 0x0025 e (atIndex 0xFFFF))
        ∧ ∀ e l, h = .fault → u.uncleared = none → u.check s.cfg.force = some (e, l) →
          Refuses (.faultClear t rq) t s rq 0x0025 e (beBytes 2 l.block ++ beBytes 2 l.off ++ beBytes 2 l.idx ++ zeros 2))
    ∧ ∀ (s : State) (new : HubState) (reason source at_ : Nat),
      let s' := enterState new reason source at_ s
      (s.hub.state = new ∨ (s.hub.state = .safe ∧ new ≠ .boot) → s' = s)
        ∧ (s.hub.state ≠ new → (s.hub.state = .safe → new = .boot) →
          s'.hub.state = new ∧ s'.hub.lastCause = (if reason = 0 then s.hub.lastCause else reason)
            ∧ ({ beat := s.clk.beat, reason, source, detail := stateCode s.hub.state * 16 + stateCode new : Event } ∈ s'.sh.log
              ∨ 4096 ≤ s'.sh.log.length)
            ∧ (new = .fault ∨ new = .safe ∨ new = .boot → s'.pendingMove = none)
            ∧ (new = .run ∨ new = .service → s'.hub.delivering = true)
            ∧ (new = .config ∨ new = .ready ∨ new = .boot → s'.hub.delivering = false)
            ∧ (new = .fault ∨ new = .safe → s'.hub.delivering = s.hub.delivering)
            ∧ s'.clk = s.clk ∧ s'.cfg.force = s.cfg.force ∧ s'.cfg.active = s.cfg.active ∧ s'.hub.role = s.hub.role)

/-- R74, R57, R44, R55: RESTART is answered DONE, and 1 ms later the hub enters BOOT with no claim, lock, job or
request left; in SAFE it stays (R61). JOB_CANCEL of a job that has ended answers DONE and changes nothing; of one that
runs, it ends it as cancelled with what its kind leaves undone: a table stays empty, a staged or deferred bank swap is
withdrawn, a reset that nobody has been told is not performed, the slots of a test return; an unknown job is refused.
The end of a job crosses to the supervisor at crossing 9 (R409). Rests on the readings and choices of log entries 54,
56, 141. -/
def Obligations.RestartAndCancel : Prop :=
  ∀ (s : State) (t : Nat) (rq : Req),
    let u := tick t s
    (∀ image, s.Takes rq (fun _ => true) → image < 256 → rq.payload = beBytes 1 image →
      (image ≤ 2 → Answers (.restart t rq) s rq 0x0006 0 0 []
        { u with hub := { s.hub with restart := some (image, u.clk.loom) } })
        ∧ (2 < image → Refuses (.restart t rq) t s rq 0x0006 0x0301 (atIndex 0xFFFF)))
      ∧ (∀ image sent, s.hub.inReset = false → s.hub.restart = some (image, sent) → sent + usLoom 1000 ≤ u.clk.loom →
        s.hub.state ≠ .safe → Does (.restartEntry t) s fun s' => s'.hub.state = .boot ∧ s'.hub.restart = none
          ∧ s'.hub.inReset = false ∧ s'.sh.taken = [] ∧ s'.sh.lock = none ∧ s'.sh.jobs = []
          ∧ (∀ m, s'.sh.mail.get m = { }) ∧ s'.clk.loom = u.clk.loom ∧ s'.clk.beat = s.clk.beat)
      ∧ (s.hub.restart = none ∨ s.hub.state = .safe ∨ s.hub.inReset = true → exec (.restartEntry t) s = .next u)
      ∧ (∀ id, s.Takes rq stRead → id < 2 ^ 16 → rq.payload = beBytes 2 id → findJob id s = none →
        Refuses (.jobCancel t rq) t s rq 0x0005 0x0307 (atIndex 0xFFFF))
      ∧ ∀ id j, s.Takes rq stRead → id < 2 ^ 16 → rq.payload = beBytes 2 id → findJob id s = some j →
        let cancels := fun (v : State) => Answers (.jobCancel t rq) s rq 0x0005 0 0 [] v
        let gone := shakeEvent 9 notifyJob { u with sh := { s.sh with jobs := s.sh.jobs.map fun x =>
          if x.1 = id then (x.1, { x.2 with state := 3, reason := 0, result := [], ended := some u.clk.loom }) else x } }
        let noJob := { gone with win := { s.win with job := none, jobStalled := false } }
        (j.ended ≠ none → cancels u)
          ∧ (j.ended = none → match j.work with
            | .other | .bridgeZero .. | .storeCrc .. => cancels gone
            | .imageLoad _ => cancels noJob
            | .tableLoad k _ => cancels (tableUpd k (fun x => { x with loading := false }) noJob)
            | .reedSwap die => cancels (withdrawSwap id die rq.mb u)
            | .pathTest .. | .calRun .. => cancels (testEnd id 3 0 [] u)
            | .syncReset at_ =>
              if s.warp.resetTold = true ∨ at_ < u.clk.loom + usLoom 20 then
                Refuses (.jobCancel t rq) t s rq 0x0005 0x0108 (atIndex 0xFFFF)
              else cancels (withdrawReset id u))

/-! ### Threads, detectors and excitation -/

/-- R115, R116: what the reads of the threads answer for a pod; OVR_COUNTERS clears where it is asked to. A pod whose
die is switched off is refused (R453). Rests on the readings and choices of log entries 14, 23, 55, 199. -/
def Obligations.HeddleReadsAnswer : Prop :=
  ∀ (s : State) (t : Nat) (rq : Req) (pod : Nat), s.Takes rq stRead → pod < 16 →
    let u := tick t s
    (s.podCut pod = false → rq.payload = beBytes 1 pod ++ zeros 1 →
      Reads (.heddleState t rq) t s rq 0x0100 (fun p => p.length = 88
        ∧ beAt p 80 8 = lastSwitch u.clk.loom (s.hed.switched.get pod) % 2 ^ 64
        ∧ ∀ tt, tt < 40 →
          beAt p (2 * tt) 1 = u.roleOn pod tt
            ∧ nbit (beAt p (2 * tt + 1) 1) 7 = (s.thr pod tt).tripped
            ∧ nbit (beAt p (2 * tt + 1) 1) 6 = ((s.thr pod tt).disconnected && u.threadDrives pod tt)
            ∧ nbit (beAt p (2 * tt + 1) 1) 5
              = ((s.thr pod tt).tapClosed || (s.rolesOn pod && tapEn (u.threadWord pod tt))))
        ∧ (∃ p, Answers (.leadStatus t rq) s rq 0x0101 0 0 p { u with free := s.free + 16 } ∧ p.length = 128
          ∧ ∀ sl, sl < 16 → beAt p (8 * sl + 2) 4 = (s.lead (pod * 16 + sl) 0).ohms % 2 ^ 32
            ∧ beAt p (8 * sl + 1) 1 = u.worstLead (pod * 16 + sl)
            ∧ ((∀ d, d < 4 → s.cfg.active.watched (pod * 16 + sl) d = false) → beAt p (8 * sl) 1 = 0xFF)
            ∧ (∀ d, d < 4 → s.cfg.active.watched (pod * 16 + sl) d = true →
              beAt p (8 * sl) 1 = u.leadShown (pod * 16 + sl) (u.worstLead (pod * 16 + sl))))
        ∧ Reads (.excStatus t rq) t s rq 0x0102 (fun p => p.length = 56
          ∧ (∀ n, n < 5 → beAt p (8 * n) 2 = ixCode (s.cfg.force.ix pod n)
            ∧ beAt p (8 * n + 2) 1 = u.sourceState pod n (ixEn (s.cfg.force.ix pod n)))
          ∧ ∀ n, n < 2 → beAt p (40 + 8 * n) 2 = fld (s.cfg.force.vx pod n) 15 0
            ∧ beAt p (42 + 8 * n) 1 = u.sourceState pod (8 + n) (bitAt (s.cfg.force.vx pod n) 31)))
      ∧ (∀ clear, clear < 2 → s.podCut pod = false → rq.payload = beBytes 1 pod ++ beBytes 1 clear →
        ∃ (p : Bytes) (ovr : Tab Ovr), p.length = 192
          ∧ (∀ sl, sl < 16 → beAt p (12 * sl) 2 = (s.hed.ovr.get (pod * 16 + sl)).onsets % 2 ^ 16
            ∧ beAt p (12 * sl + 2) 2 = (s.hed.ovr.get (pod * 16 + sl)).adjOnsets % 2 ^ 16
            ∧ beAt p (12 * sl + 4) 8 = (s.hed.ovr.get (pod * 16 + sl)).last % 2 ^ 64)
          ∧ Answers (.ovrCounters t rq) s rq 0x0103 0 0 p { u with hed := { s.hed with ovr := ovr } }
          ∧ ∀ ch, ovr.get ch = if clear = 1 ∧ ch / 16 = pod
              then { s.hed.ovr.get ch with onsets := 0, adjOnsets := 0, last := 0 } else s.hed.ovr.get ch)
      ∧ (s.podCut pod = true → rq.payload = beBytes 1 pod ++ zeros 1 →
        Refuses (.heddleState t rq) t s rq 0x0100 0x0105 (atIndex pod)
          ∧ Refuses (.leadStatus t rq) t s rq 0x0101 0x0105 (atIndex pod)
          ∧ Refuses (.excStatus t rq) t s rq 0x0102 0x0105 (atIndex pod)
          ∧ Refuses (.ovrCounters t rq) t s rq 0x0103 0x0105 (atIndex pod))

/-- R86, R106, R107, R115, R121: an overrange begins at the first modulator clock at or after the report; its onset is
counted once, and marks the neighbours' ADJ; a report while the activity goes on, or at its end, is no onset, and a
change of sign begins a stretch. It ends with the later of the level detector's activity and the modulator's
saturation, and the slot recovers. A modulator restart is counted, and is activity from the first of its 16 extreme
clocks to the end of the discharge. Rests on the readings and choices of log entries 69, 70. -/
def Obligations.OverrangeMarksAndRecovers : Prop :=
  ∀ (s : State) (t ch : Nat) (positive : Bool),
    let u := tick t s
    let c := clockFrom (fineOf u.clk.loom)
    let now := clockFine c
    let o := s.hed.ovr.get ch
    let e := max now o.satUntil
    let quiet := s.hed.ovr.upd ch fun o => { o with level := false }
    let ends := fun (p : OvrSpan) (r : List OvrSpan) =>
      let ovr := quiet.upd ch fun o => { o with spans := { p with ended := some e } :: r }
      { u with hed := { s.hed with ovr := ovr } }
    (s.running = true → s.podOn (ch / 16) = true →
      (ovrGoesOn o now = none →
        ∃ ovr : Tab Ovr, exec (.overrangeOnset t ch positive) s = .next { u with hed := { s.hed with ovr := ovr } }
          ∧ (ovr.get ch).spans.head? = some { onset := now, ended := none, positive } ∧ (ovr.get ch).level = true
          ∧ (ovr.get ch).onsets = inc16 o.onsets ∧ (ovr.get ch).last = loomOf now
          ∧ ∀ k, k ≠ ch → (ovr.get k).spans = (s.hed.ovr.get k).spans ∧ (ovr.get k).onsets = (s.hed.ovr.get k).onsets
            ∧ (ovr.get k).last = (s.hed.ovr.get k).last
            ∧ ((s.cfg.active.aggressors k).contains ch = false → ovr.get k = s.hed.ovr.get k))
        ∧ (∀ p, ovrGoesOn o now = some p → Does (.overrangeOnset t ch positive) s fun s' =>
          (s'.hed.ovr.get ch).spans.head? = some (if p.positive = positive then { p with onset := min p.onset now, ended := none }
              else { onset := max p.onset now, ended := none, positive })
            ∧ (s'.hed.ovr.get ch).level = true ∧ (s'.hed.ovr.get ch).onsets = o.onsets ∧ (s'.hed.ovr.get ch).last = o.last
            ∧ (∀ k, k ≠ ch → s'.hed.ovr.get k = s.hed.ovr.get k ∧ s'.chan k = s.chan k)
            ∧ (p.ended = none → s'.filt = s.filt) ∧ s'.hub = s.hub ∧ s'.cfg = s.cfg ∧ s'.conv = s.conv ∧ s'.clk = u.clk)
        ∧ Does (.modulatorRestart t ch positive) s fun s' =>
          s'.conv.restarts.get ch = inc16 (s.conv.restarts.get ch)
            ∧ (∀ k, k ≠ ch → s'.conv.restarts.get k = s.conv.restarts.get k)
            ∧ (s'.hed.ovr.get ch).satUntil = clockFine (c + 17) ∧ ovrOpen (s'.hed.ovr.get ch) = o.level
            ∧ s'.hub = s.hub ∧ s'.cfg = s.cfg ∧ s'.conv.scs = s.conv.scs ∧ s'.trd = s.trd ∧ s'.drv = s.drv ∧ s'.warp = s.warp)
      ∧ (s.running = false ∨ s.podOn (ch / 16) = false →
        exec (.overrangeOnset t ch positive) s = .next u ∧ exec (.modulatorRestart t ch positive) s = .next u)
      ∧ (∀ (p : OvrSpan) (r : List OvrSpan), o.spans = p :: r → p.ended = none →
        exec (.overrangeEnd t ch) s = .next (eventOn ch 2 e e false (ends p r)))
      ∧ (ovrOpen o = false →
        exec (.overrangeEnd t ch) s = .next { u with hed := { s.hed with ovr := quiet } })

/-- R100: a trip is counted once per pod, and disconnects the thread's drivers; the slots whose source is
disconnected, and they alone, have the detector off clear. The detector clears, and 1 ms later, not before, the
drivers reconnect. -/
def Obligations.OvervoltageDisconnectsDrivers : Prop :=
  ∀ (s : State) (t pod tt : Nat), tt < 40 →
    let u := tick t s
    let h := s.thr pod tt
    let follows := fun (x : Thread) (s' : State) => s'.thr pod tt = x
      ∧ (∀ k, k ≠ pod * 40 + tt → s'.hed.threads.get k = s.hed.threads.get k)
      ∧ (∀ sl, sl < 16 → ((s'.lead (16 * pod + sl) 3).state = 0 ↔ s'.excCut (16 * pod + sl) = false))
      ∧ (u.drivesIx = true → s.podOn pod = true → x.disconnected = true → ∀ ch ∈ s.cfg.active.threadSlots pod tt,
        s'.excCut ch = true)
      ∧ (∀ k, k % 4 ≠ 3 ∨ k / 64 ≠ pod → s'.hed.leads.get k = s.hed.leads.get k)
      ∧ s'.hub = s.hub ∧ s'.sh = s.sh ∧ s'.cfg = s.cfg ∧ s'.conv = s.conv ∧ s'.trd = s.trd ∧ s'.drv = s.drv ∧ s'.clk = u.clk
    (h.tripped = true → exec (.overvoltageTrip t pod tt) s = .next u)
      ∧ (h.tripped = false → Does (.overvoltageTrip t pod tt) s fun s' =>
        s'.hed.trips.get pod = inc16 (s.hed.trips.get pod) ∧ follows { h with tripped := true, disconnected := true } s')
      ∧ (h.tripped = true → exec (.overvoltageClear t pod tt) s
        = .next { u with hed := { s.hed with threads := s.hed.threads.upd (pod * 40 + tt) (fun h =>
            { h with tripped := false, cleared := u.clk.loom }) } })
      ∧ (h.tripped = false → exec (.overvoltageClear t pod tt) s = .next u)
      ∧ (h.disconnected = true → h.tripped = false → h.cleared + usSpan 1000 ≤ u.clk.loom →
        Does (.driverReconnect t pod tt) s fun s' => s'.hed.trips = s.hed.trips ∧ follows { h with disconnected := false } s')
      ∧ (h.disconnected = false ∨ h.tripped = true ∨ u.clk.loom < h.cleared + usSpan 1000 →
        exec (.driverReconnect t pod tt) s = .next u)

/-- R103, R104, R115, R354: the compliance and the sense detector of a slot they watch become suspect, are confirmed
once the condition has held for the second interval, which is logged and announced once, and fall back to clear once
it has been gone for 1.28 ms, after which a slot whose fault was confirmed recovers. Lead watch and overvoltage have
rows of their own. Rests on the readings and choices of log entries 23, 152. -/
def Obligations.LeadDetectorsChangeState : Prop :=
  ∀ (s : State) (t ch : Nat) (det : Detector),
    let u := tick t s
    let d := detCode det
    let l := s.lead ch d
    let now := u.clk.loom
    let put := fun (f : Lead → Lead) => { u with hed := { s.hed with leads := s.hed.leads.upd (ch * 4 + d) f } }
    let v := put fun l => { l with state := 2, wasConfirmed := true, since := now }
    (det = .ixCompliance ∨ det = .vxSense →
      (s.cfg.active.watched ch d = true → s.running = true →
        (l.state = 0 → exec (.leadSuspect t ch det) s = .next (put fun l =>
          { l with state := 1, since := now, suspects := inc16 l.suspects, spans := keepSince Prod.fst now ((now, none) :: l.spans) }))
          ∧ (l.state ≠ 0 → exec (.leadSuspect t ch det) s = .next (put fun l => { l with since := now })))
        ∧ (l.state = 1 → l.since + (if det = .ixCompliance then usSpan 160 else usSpan 300) ≤ now →
          exec (.leadConfirmed t ch det) s = .next (if l.wasConfirmed then v
            else alarmNotice true 0x20 ch 0 (logEvent 0 0 (0x20 * 65536 + ch % 65536) v)))
        ∧ (l.state ≠ 1 ∨ now < l.since + (if det = .ixCompliance then usSpan 160 else usSpan 300) →
          exec (.leadConfirmed t ch det) s = .next u)
        ∧ (l.state ≠ 0 → l.since + usSpan 1280 ≤ now → Does (.leadCleared t ch det) s fun s' =>
          (s'.lead ch d).state = 0 ∧ (s'.lead ch d).wasConfirmed = false ∧ (s'.lead ch d).suspects = l.suspects
            ∧ (∀ p ∈ (s'.lead ch d).spans, p.2 ≠ none) ∧ (∀ k, k ≠ ch * 4 + d → s'.hed.leads.get k = s.hed.leads.get k)
            ∧ (l.wasConfirmed = false → s'.filt = s.filt ∧ s'.weft = s.weft)
            ∧ (l.wasConfirmed = true → s'.weft.nextNotice = (s.weft.nextNotice + 1) % 2 ^ 32)
            ∧ (∀ p, (s.chan ch).set = some p → l.wasConfirmed = true →
              (s'.chan ch).entries.length = (s.chan ch).entries.length + 1)
            ∧ s'.hub = s.hub ∧ s'.cfg = s.cfg ∧ s'.conv = s.conv ∧ s'.trd = s.trd ∧ s'.drv = s.drv ∧ s'.clk = u.clk)
        ∧ (l.state = 0 ∨ now < l.since + usSpan 1280 → exec (.leadCleared t ch det) s = .next u))
      ∧ (det = .leadWatch ∨ det = .overvoltage ∨ s.cfg.active.watched ch d = false ∨ s.running = false →
        exec (.leadSuspect t ch det) s = .next u)
      ∧ (det = .leadWatch ∨ det = .overvoltage →
        exec (.leadConfirmed t ch det) s = .next u ∧ exec (.leadCleared t ch det) s = .next u)

/-- R101 to R103: at the end of a half-period of 4,096 clocks, in which the current flows the other way than in the
one before, the loop resistance is the difference of the two half means over twice the test current, where the half
before it was measured, and it is over threshold where it exceeds the pod's threshold or the slot was overrange at a
clock of the half; the third in a row confirms, the eighth in a row that is not clears. Rests on the readings and
choices of log entry 21. -/
def Obligations.LeadWatchComputesLoopResistance : Prop :=
  ∀ (s : State) (t ch : Nat) (mean : Int) (husks : List Nat),
    let u := tick t s
    let c := clockFrom (fineOf u.clk.loom)
    let ovr := s.ovrIn ch (c - 4096) c
    let diff := fun (before : Int) => (if (c - s.clk.epoch) / 4096 % 2 = 1 then mean - before else before - mean).toNat
    let w := s.cfg.active.word (0x0100 + ch / 16) 63
    let current := fld w 23 16
    let l := s.lead ch 0
    let runs := s.cfg.active.watched ch 0 = true ∧ s.rolesOn (ch / 16) = true ∧ s.underTest ch = false
      ∧ s.clk.epoch ≤ c ∧ (c - s.clk.epoch) % 4096 = 0
    (runs → ∀ (ohms : Nat) (span : Bool),
      (ovr = true ∧ ohms = 0xFFFFFFFF ∧ span = true)
        ∨ (ovr = false ∧ ∃ before, l.lastMean = some (c - 4096, before) ∧ 4096 ≤ c
          ∧ ohms = min (diff before / (200 * current)) 0xFFFFFFFF
          ∧ span = decide (fld w 15 0 * 100 * (200 * current) < diff before)) →
      Does (.leadWatchHalfPeriod t ch mean husks) s fun s' =>
        (s'.lead ch 0).lastMean = some (c, mean) ∧ (s'.lead ch 0).ohms = ohms
          ∧ (span = true → l.state = 0 → (s'.lead ch 0).state = 1)
          ∧ (span = true → l.state = 1 → 2 ≤ l.overRow → (s'.lead ch 0).state = 2)
          ∧ (span = true → l.state = 1 → l.overRow < 2 → (s'.lead ch 0).state = 1 ∧ (s'.lead ch 0).overRow = l.overRow + 1)
          ∧ (span = true → l.state = 3 → (s'.lead ch 0).state = (if l.wasConfirmed = true ∨ 2 ≤ l.overRow then 2 else 1))
          ∧ (span = false → l.state = 0 → (s'.lead ch 0).state = 0)
          ∧ (span = false → l.state ≠ 0 → l.underRow < 7 → (s'.lead ch 0).state = 3
            ∧ (s'.lead ch 0).overRow = 0 ∧ (s'.lead ch 0).underRow = l.underRow + 1)
          ∧ (span = false → l.state ≠ 0 → 7 ≤ l.underRow → (s'.lead ch 0).state = 0)
          ∧ (∀ k, k ≠ ch * 4 → s'.hed.leads.get k = s.hed.leads.get k)
          ∧ s'.hub = s.hub ∧ s'.cfg = s.cfg ∧ s'.conv = s.conv ∧ s'.trd = s.trd ∧ s'.clk = u.clk)
      ∧ (runs → ovr = false → (∀ before, l.lastMean ≠ some (c - 4096, before)) ∨ c < 4096 →
        exec (.leadWatchHalfPeriod t ch mean husks) s = .next (usedHusks husks { u with hed := { s.hed with
          leads := s.hed.leads.upd (ch * 4) fun l => { l with lastMean := some (c, mean) } } }))
      ∧ (¬ runs → exec (.leadWatchHalfPeriod t ch mean husks) s = .next u)

/-- R89 to R91: the phase of a SWAP or REVERSE source is the parity of the half-periods since the synchronising reset;
at the clock that ends one, the affected inputs are held for 5 us, of its partner too for SWAP, on a standby too
(R90). A source that does neither, a pod whose threads are high impedance, or another instant, holds nothing. Rests on
the readings and choices of log entry 80. -/
def Obligations.ExchangeSetsThePhase : Prop :=
  ∀ (s : State) (t pod src : Nat),
    let u := tick t s
    let w := s.cfg.active.ix pod src
    let half := 12800 * 2 ^ ixTh w
    let since := clockFrom (fineOf u.clk.loom) - s.clk.epoch
    let ends := s.clk.epoch ≤ clockFrom (fineOf u.clk.loom) ∧ since % half = 0
    (ixSwap w = true ∨ ixReverse w = true → u.excPhase w = decide (since / half % 2 = 1))
      ∧ (ixSwap w = false → ixReverse w = false → u.excPhase w = false)
      ∧ (ixEn w = true → ixSwap w = true ∨ ixReverse w = true → u.rolesOn pod = true → ends →
        ∃ sources : Tab Source, exec (.excitationExchange t pod src) s = .next { u with hed := { s.hed with sources := sources } }
          ∧ (sources.get (pod * 16 + src)).heldUntil = u.clk.loom + usLoom 5
          ∧ (ixSwap w = true → (sources.get (pod * 16 + ixPartner w)).heldUntil = u.clk.loom + usLoom 5)
          ∧ (∀ k, (sources.get k).devRounds = (s.hed.sources.get k).devRounds)
          ∧ ∀ k, k ≠ pod * 16 + src → (ixSwap w = true → k ≠ pod * 16 + ixPartner w) → sources.get k = s.hed.sources.get k)
      ∧ (ixEn w = false ∨ (ixSwap w = false ∧ ixReverse w = false) ∨ u.rolesOn pod = false ∨ ¬ ends →
        exec (.excitationExchange t pod src) s = .next u)

/-! ### Conversion -/

/-- R137, R145: what the reads of the converters answer; SC_COUNTERS clears where it is asked to. Rests on the
readings and choices of log entries 14, 55. -/
def Obligations.ConversionReadsAnswer : Prop :=
  ∀ (s : State) (t : Nat) (rq : Req), s.Takes rq stRead →
    (∀ pod, pod < 16 → s.podCut pod = false → rq.payload = beBytes 1 pod ++ zeros 1 →
      Reads (.convStatus t rq) t s rq 0x0200 fun p => p.length = 130 ∧ ∀ sl, sl < 16 →
        beAt p (8 * sl) 2 = s.modulator (16 * pod + sl) % 2 ^ 16
          ∧ beAt p (8 * sl + 2) 2 = s.conv.restarts.get (16 * pod + sl) % 2 ^ 16
          ∧ beAt p (8 * sl + 4) 1 = s.cfg.force.order (16 * pod + sl) % 2 ^ 8
          ∧ beAt p (8 * sl + 6) 2 = s.cfg.force.dec (16 * pod + sl) % 2 ^ 16)
      ∧ (∀ l, l < 8 → rq.payload = beBytes 1 l ++ zeros 1 →
        let n := fld (s.cfg.active.word 0x0201 (17 + 17 * l)) 24 20
        Reads (.scanRead t rq) t s rq 0x0202 fun p => p.length = 4 + 12 * n ∧ beAt p 0 4 = s.conv.passes.get l % 2 ^ 32
          ∧ ∀ e, e < n → slice p (4 + 12 * e) 4 = beWord (s.conv.scan.get (16 * l + e)).value
            ∧ beAt p (8 + 12 * e) 8 = (s.conv.scan.get (16 * l + e)).time % 2 ^ 64)
      ∧ (rq.payload = [] →
        Reads (.simulRead t rq) t s rq 0x0203 fun p => p.length = 136 ∧ beAt p 0 4 = s.conv.simTaken % 2 ^ 32
          ∧ beAt p 4 2 = s.conv.simMissed % 2 ^ 16
          ∧ ∀ n, n < 8 → slice p (8 + 16 * n) 4 = beWord (s.conv.simul.get n).value
            ∧ beAt p (16 + 16 * n) 8 = (s.conv.simul.get n).time % 2 ^ 64)
      ∧ ∀ clear, clear < 2 → rq.payload = beBytes 1 clear →
        ∃ (p : Bytes) (scs : Tab Converter), p.length = 64
          ∧ (∀ n, n < 8 → beAt p (8 * n) 2 = (s.conv.scs.get n).longWaits % 2 ^ 16
            ∧ beAt p (8 * n + 2) 2 = (s.conv.scs.get n).refusals % 2 ^ 16
            ∧ beAt p (8 * n + 4) 2 = (s.conv.scs.get n).overruns % 2 ^ 16
            ∧ beAt p (8 * n + 6) 2 = (s.conv.scs.get n).missed % 2 ^ 16)
          ∧ Answers (.scCounters t rq) s rq 0x0204 0 0 p { tick t s with conv := { s.conv with scs := scs } }
          ∧ ∀ n, scs.get n = if clear = 1 ∧ n < 8
              then { s.conv.scs.get n with longWaits := 0, refusals := 0, overruns := 0, missed := 0 } else s.conv.scs.get n

/-- R117, R133, R134, R146: a spot conversion, a thread probe or a lead measurement queues at its converter, and its
response follows; a fifth spot there is refused with 0x0508, and counted, and one at a converter whose own die is off
with 0x0105 (R18, R453). Without a free bus a probe is refused. Rests on the readings and choices of log entries 14,
73, 200. -/
def Obligations.SpotsQueueAtTheConverter : Prop :=
  ∀ (s : State) (t : Nat) (rq : Req),
    let u := tick t s
    let spot := fun (w : SpotFor) => { cls := 2, ready := u.clk.loom, what := w : ScRequest }
    let full := fun (c : Instr) (code sc : Nat) => Answers c s rq code 4 0x0508 (atIndex 0xFFFF)
      (logEvent 0x0508 code (reqDetail rq.mb rq.seq) { u with conv := { s.conv with
        scs := s.conv.scs.upd sc fun c => { c with refusals := inc16 c.refusals } } })
    (∀ sc kind pod ix, s.Takes rq stRead → sc < 8 → pod < 16 → s.podCut pod = false →
      rq.payload = beBytes 1 sc ++ beBytes 1 kind ++ beBytes 1 pod ++ beBytes 1 ix →
      (kind = 0 ∧ ix < 40 ∧ (s.tapped pod ix sc = true ∨ s.busClaimed sc = false)) ∨ (kind = 1 ∧ ix < 16 ∧ pod / 2 = sc) →
      (s.podOn (2 * sc) = true → (s.conv.scs.get sc).spots u.clk.loom < 4 →
          Awaits (.scSpot t rq) s rq (request sc (spot (.spot { rq with cmd := 0x0201 } kind pod ix)) u))
        ∧ (s.podOn (2 * sc) = true → 4 ≤ (s.conv.scs.get sc).spots u.clk.loom → full (.scSpot t rq) 0x0201 sc)
        ∧ (s.podOn (2 * sc) = false → Refuses (.scSpot t rq) t s rq 0x0201 0x0105 (atIndex sc)))
      ∧ (∀ pod tt b, s.Takes rq stRead → pod < 16 → tt < 40 → s.podCut pod = false →
        rq.payload = beBytes 1 pod ++ beBytes 1 tt → s.freeBus = some b →
        (s.podOn (2 * b) = true → (s.conv.scs.get b).spots u.clk.loom < 4 →
            Awaits (.threadProbe t rq) s rq (request b (spot (.probe { rq with cmd := 0x0104 } pod tt b)) u))
          ∧ (s.podOn (2 * b) = true → 4 ≤ (s.conv.scs.get b).spots u.clk.loom → full (.threadProbe t rq) 0x0104 b)
          ∧ (s.podOn (2 * b) = false → Refuses (.threadProbe t rq) t s rq 0x0104 0x0105 (atIndex b)))
      ∧ (∀ pod tt, s.Takes rq stRead → pod < 16 → tt < 40 → s.podCut pod = false →
        rq.payload = beBytes 1 pod ++ beBytes 1 tt → s.freeBus = none →
        Refuses (.threadProbe t rq) t s rq 0x0104 0x0203 (atIndex 0xFFFF))
      ∧ ∀ pod slot p ps b, s.Takes rq stLive → pod < 16 → slot < 16 → s.podCut pod = false →
        rq.payload = beBytes 1 pod ++ beBytes 1 slot → leadPoints s.cfg.active pod slot = some (p :: ps) →
        s.freeBus = some b → s.podOn (2 * b) = true → (s.conv.scs.get b).spots u.clk.loom < 4 →
        Awaits (.leadRes t rq) s rq (request b (spot (.leadRes { rq with cmd := 0x0206 } pod slot p [] 0)) u)

/-- R133, R134: an idle converter grants, of the waiting requests whose input is ready, one of the lowest class, and
where none is ready the one that is ready first; a busy one goes on. The dynamic tap of the lowest class that waits
for one is placed unless a request of that class or a lower one holds the bus, and its input is ready 4 us later.
Rests on the readings and choices of log entry 71. -/
def Obligations.ConvertersGrantTheLowestClass : Prop :=
  ∀ (s : State) (sc : Nat),
    let c := s.conv.scs.get sc
    let now := s.clk.loom
    let s' := grant sc s
    let grants := fun (r : ScRequest) => s' = { s with conv := { s.conv with
      scs := s.conv.scs.upd sc fun c => { c with queue := swapFirst r [] c.queue, running := some (r, max now r.ready) } } }
    (c.running ≠ none ∨ c.queue = [] → s' = s)
      ∧ (c.running = none → c.queue ≠ [] → (∀ x ∈ c.queue, x.tap ≠ 1) → ∃ r ∈ c.queue, grants r
        ∧ (∀ x ∈ c.queue, x.ready ≤ now → r.ready ≤ now ∧ r.cls ≤ x.cls)
        ∧ (now < r.ready → ∀ x ∈ c.queue, r.ready ≤ x.ready))
      ∧ (∀ r pod tt, c.running = none → pickRequest (c.queue.filter fun x => x.tap == 1) = some r →
        requestThread s sc r = some (pod, tt) → (∀ x ∈ c.queue, x.tap = 2 → r.cls < x.cls) →
        let r' := { r with tap := 2, ready := now + usLoom 4 }
        (s'.thr pod tt).tapClosed = true ∧ (s'.thr pod tt).tapBus = sc ∧ now ∈ s'.hed.switched.get pod
          ∧ (r' ∈ (s'.conv.scs.get sc).queue ∨ (s'.conv.scs.get sc).running = some (r', now + usLoom 4)))
      ∧ (∀ n, n ≠ sc → s'.conv.scs.get n = s.conv.scs.get n)
      ∧ ∃ scs threads switched, s' = { s with
          conv := { s.conv with scs := scs }, hed := { s.hed with threads := threads, switched := switched } }

/-- R131, R133 to R137: a conversion that ends, 200 ns after its acquisition, delivers its result where it belongs: a
held sample of the simultaneous group, a place of the housekeeping round, which requests the next one, an entry of a
scan list, or a spot; the converter goes on to the next request. Nothing happens where none ends. While the pod die's
ply link holds, the result waits there, behind 64 of its converter at most (R409, R410). Rests on the readings and
choices of log entries 71, 72, 160, 161, 202. -/
def Obligations.ScanConversionsDeliver : Prop :=
  ∀ (s : State) (t sc : Nat) (code : Int) (value : Word),
    let u := tick t s
    let c := s.conv.scs.get sc
    let done := fun (r : ScRequest) (acq : Nat) => sc < 8 ∧ s.podOn (2 * sc) = true ∧ c.running = some (r, acq)
      ∧ acq + convLoom ≤ u.clk.loom
    let ends := fun (r : ScRequest) (acq : Nat) => done r acq ∧ s.crossHolds (sc / 2) = false
    let x := s.itg.crossings.get (sc / 2)
    let held := x.held.filter fun i => match i with
      | .scan k _ _ _ _ => k == sc
      | _ => false
    let frame := fun (s' : State) => s'.hub = s.hub ∧ s'.cfg = s.cfg ∧ s'.filt = s.filt
      ∧ ∀ n, n ≠ sc → s'.conv.scs.get n = s.conv.scs.get n
    ((∀ r acq, ¬ done r acq) → exec (.scanConversionDone t sc code value) s = .next u)
      ∧ (∀ r acq, done r acq → s.crossHolds (sc / 2) = true →
        Does (.scanConversionDone t sc code value) s fun s' =>
          s'.itg = { s.itg with crossings := s.itg.crossings.set (sc / 2) (if held.length < 64
              then { x with held := x.held ++ [.scan sc r acq code value] } else { x with dropped := inc16 x.dropped }) }
            ∧ s'.conv.scan = s.conv.scan ∧ s'.conv.simul = s.conv.simul ∧ s'.conv.hk = s.conv.hk ∧ s'.sh = s.sh
            ∧ s'.weft = s.weft ∧ frame s')
      ∧ (∀ r acq, ends r acq → r.cls = 1 → r.what = .other →
        Does (.scanConversionDone t sc code value) s fun s' =>
          s'.conv.simul.get sc = { value := busValue code, code, time := c.held.getD acq }
            ∧ (∀ n, n ≠ sc → s'.conv.simul.get n = s.conv.simul.get n) ∧ (s'.conv.scs.get sc).held = none
            ∧ s'.conv.scan = s.conv.scan ∧ s'.sh = s.sh ∧ s'.weft = s.weft ∧ frame s')
      ∧ (∀ r acq, ends r acq → r.cls = 4 → r.what = .other →
        let k := 16 * (2 * sc + r.a % 2) + r.a / 2
        Does (.scanConversionDone t sc code value) s fun s' =>
          s'.conv.hk.get k = value ∧ (∀ n, n ≠ k → s'.conv.hk.get n = s.conv.hk.get n)
            ∧ (r.a < 31 → ∃ x : ScRequest, x.cls = 4 ∧ x.a = r.a + 1
              ∧ (x ∈ (s'.conv.scs.get sc).queue ∨ ∃ at_, (s'.conv.scs.get sc).running = some (x, at_)))
            ∧ s'.conv.scan = s.conv.scan ∧ s'.conv.simul = s.conv.simul ∧ s'.hub = s.hub ∧ s'.clk = u.clk)
      ∧ (∀ r acq, ends r acq → r.cls = 5 → r.what = .other →
        let w := s.cfg.active.word 0x0201 (18 + 17 * r.a + r.b)
        Does (.scanConversionDone t sc code value) s fun s' =>
          s'.conv.scan.get (16 * r.a + r.b)
              = { value := if bitAt w 15 then value else busValue code, code, time := acq }
            ∧ (∀ k, k ≠ 16 * r.a + r.b → s'.conv.scan.get k = s.conv.scan.get k)
            ∧ s'.conv.passLeft.get r.a = s.conv.passLeft.get r.a - 1
            ∧ s'.conv.passes.get r.a = (if s.conv.passLeft.get r.a ≤ 1 then next32 (s.conv.passes.get r.a)
              else s.conv.passes.get r.a)
            ∧ s'.conv.simul = s.conv.simul ∧ s'.sh = s.sh ∧ s'.weft = s.weft ∧ frame s')
      ∧ ∀ r acq rq kind pod ix, ends r acq → r.cls = 2 → r.what = .spot rq kind pod ix →
        Holds rq (s.sh.mail.get rq.mb) → (s.sh.mail.get rq.mb).busy = true →
        let ns := (acq - r.ready) * 1000000000 / 2 ^ 32
        Does (.scanConversionDone t sc code value) s fun s' =>
          Answered rq rq.cmd 0 0 (beWord (if kind = 0 then busValue code else value) ++ beSigned 4 code ++ beBytes 8 acq
              ++ beBytes 2 (min ns 0xFFFF) ++ zeros 2) s'
            ∧ (s'.conv.scs.get sc).longWaits = (if 200 < ns then inc16 c.longWaits else c.longWaits)
            ∧ s'.conv.scan = s.conv.scan ∧ s'.conv.simul = s.conv.simul ∧ frame s'

/-- R135, R137, R144: the source that TRIG_SRC names decides a trigger of the simultaneous group, which acquires at
one instant in every member, unless one still holds a sample, which is counted as a missed trigger. A scan-list pass
begins with its COUNT of entries once it is due, unless the pass before still runs, which is counted as an overrun.
Rests on the readings and choices of log entries 72, 162. -/
def Obligations.TriggersAndPassesStart : Prop :=
  ∀ (s : State) (t list : Nat),
    let u := tick t s
    let g := s.cfg.active.word 0x0201 16
    let members := bitsOf 8 (fld g 23 16)
    let h := s.cfg.active.word 0x0201 (17 + 17 * list)
    let sc := fld h 30 28
    let p := s.conv.passAt.get list
    let begins := s.running = true ∧ bitAt h 31 = true ∧ list < 8 ∧ passDue p.1 (fld h 19 0) p.2 ≤ u.clk.loom
    let next := { s.conv with passAt := s.conv.passAt.set list (p.1, p.2 + 1) }
    (∀ src, simTrigger src s = if bitAt g 31 = true ∧ fld g 3 0 = src ∧ fld g 23 16 ≠ 0 ∧ s.running = true
        then { s with conv := { s.conv with simDue := s.conv.simDue + 1 } } else s)
      ∧ (s.conv.simDue ≠ 0 → (∀ n ∈ members, (s.conv.scs.get n).held = none) → Does (.simultaneousTrigger t) s fun s' =>
        s'.conv.simTaken = next32 s.conv.simTaken ∧ s'.conv.simMissed = s.conv.simMissed
          ∧ s'.conv.simDue = s.conv.simDue - 1 ∧ (∀ n ∈ members, (s'.conv.scs.get n).held = some u.clk.loom)
          ∧ (∀ n, n ∉ members → s'.conv.scs.get n = s.conv.scs.get n)
          ∧ s'.hub = s.hub ∧ s'.cfg = s.cfg ∧ s'.sh = s.sh ∧ s'.filt = s.filt ∧ s'.clk = u.clk)
      ∧ (s.conv.simDue ≠ 0 → (∃ n ∈ members, (s.conv.scs.get n).held ≠ none) → Does (.simultaneousTrigger t) s fun s' =>
        (∀ n, s'.conv.scs.get n = if n ∈ members ∧ (s.conv.scs.get n).held ≠ none
            then { s.conv.scs.get n with missed := inc16 (s.conv.scs.get n).missed } else s.conv.scs.get n)
          ∧ ∃ scs, s' = { u with conv := { s.conv with
            simMissed := inc16 s.conv.simMissed, simDue := s.conv.simDue - 1, scs := scs } })
      ∧ (s.conv.simDue = 0 → exec (.simultaneousTrigger t) s = .next u)
      ∧ (begins → s.conv.passLeft.get list = 0 → exec (.scanListPass t list) s = .next (request sc
          { cls := 5, ready := u.clk.loom, what := .other, a := list, b := 0 }
          { u with conv := { next with passLeft := s.conv.passLeft.set list (fld h 24 20) } }))
      ∧ (begins → s.conv.passLeft.get list ≠ 0 → exec (.scanListPass t list) s = .next
          { u with conv := { next with scs := s.conv.scs.upd sc fun c => { c with overruns := inc16 c.overruns } } })
      ∧ (¬ begins → exec (.scanListPass t list) s = .next u)

/-! ### Filters, samples and timing -/

/-- R180: the cycles of a group begin at the whole seconds that are multiples of CYCLE, and sample k of a cycle has
its instant k * CYCLE * 2^32 / COUNT units later, rounded up. Of these instants the hub takes the first at or after a
loom time. -/
def Obligations.GridInstantsFollowTheCycle : Prop :=
  ∀ cycle count : Nat, 0 < cycle → 0 < count → count ≤ cycle * 2 ^ 32 →
    (∀ c k : Nat, k < count →
      let start := c * cycle * 2 ^ 32
      let g := gridInst cycle count (c * count + k)
      start ≤ g ∧ k * cycle * 2 ^ 32 ≤ (g - start) * count ∧ (g - start) * count < k * cycle * 2 ^ 32 + count)
      ∧ ∀ t n : Nat, gridFrom cycle count t ≤ n ↔ t ≤ gridInst cycle count n

/-- R177, R193, R196: what the reads of the filters and of timing answer. COEF_READ gives the coefficients asked for,
and INSTANT_CALC the first grid instant at or after a loom time. Rests on the readings and choices of log entries 14,
24, 68, 69. -/
def Obligations.FilterReadsAnswer : Prop :=
  ∀ (s : State) (t : Nat) (rq : Req), s.Takes rq stRead →
    (∀ ch, ch < 256 → rq.payload = beBytes 2 ch →
      let c := s.chan ch
      Reads (.filterStatus t rq) t s rq 0x0300 (fun p => p.length = 28 ∧ (c.recovery = none → beAt p 0 1 = 0)
          ∧ beAt p 4 8 = c.lastRS % 2 ^ 64 ∧ beAt p 12 8 = c.lastCS % 2 ^ 64 ∧ beAt p 20 2 = c.recoveries % 2 ^ 16
          ∧ beAt p 22 2 = c.abandoned % 2 ^ 16 ∧ beAt p 24 2 = c.clamps % 2 ^ 16)
        ∧ Reads (.settleInfo t rq) t s rq 0x0301 (fun p => p.length = 28
          ∧ beAt p 0 4 = lookC (s.cfg.force.pathSet ch) % 2 ^ 32 ∧ beAt p 12 4 = s.cfg.force.lookL ch % 2 ^ 32)
        ∧ Reads (.chTiming t rq) t s rq 0x0401 (fun p => p.length = 26 ∧ beAt p 0 1 = s.cfg.force.group ch % 2 ^ 8
          ∧ beAt p 2 4 = s.cfg.force.phase ch % 2 ^ 32 ∧ beAt p 6 4 = s.cfg.force.lookL ch % 2 ^ 32))
      ∧ (∀ ch, 256 ≤ ch → ch < 2 ^ 16 → rq.payload = beBytes 2 ch →
        Refuses (.filterStatus t rq) t s rq 0x0300 0x0306 (atIndex ch)
          ∧ Refuses (.settleInfo t rq) t s rq 0x0301 0x0306 (atIndex ch)
          ∧ Refuses (.chTiming t rq) t s rq 0x0401 0x0306 (atIndex ch))
      ∧ (rq.payload = [] → Reads (.mainsStatus t rq) t s rq 0x0303 fun p => p.length = 20
        ∧ (bitAt s.cfg.force.mains 31 = false → beAt p 8 1 = 0)
        ∧ (bitAt s.cfg.force.mains 31 = true → s.filt.mains.lost = true ∨ s.filt.mains.lastValid = none → beAt p 8 1 = 2)
        ∧ (∀ v, s.filt.mains.lastValid = some v → beAt p 12 8 = v % 2 ^ 64))
      ∧ (∀ set ch first n, rq.payload = beBytes 1 set ++ zeros 1 ++ beBytes 2 ch ++ beBytes 2 first ++ beBytes 2 n →
        set < 5 → ch < 256 → (set ≤ 3 → ch = 0) → 0 < n → n ≤ 248 →
        first + n ≤ (if set ≤ 2 then 63 else if set = 3 then 2048 else 10) →
        Reads (.coefRead t rq) t s rq 0x0304 fun p => p.length = 4 * n
          ∧ ∀ i, i < n → slice p (4 * i) 4 = beSigned 4 (coefAt (tick t s) set ch (first + i)))
      ∧ (∀ g, g < 8 → rq.payload = beBytes 1 g ++ zeros 1 →
        (s.cfg.force.groupEn g = true → Reads (.groupStatus t rq) t s rq 0x0400 fun p => p.length = 32
          ∧ beAt p 1 1 = s.cfg.force.cycle g % 2 ^ 8 ∧ beAt p 4 4 = s.cfg.force.count g % 2 ^ 32
          ∧ beAt p 28 2 = s.filt.filled.get g % 2 ^ 16 ∧ beAt p 30 2 = s.filt.withheld.get g % 2 ^ 16)
        ∧ (s.cfg.force.groupEn g = false → Refuses (.groupStatus t rq) t s rq 0x0400 0x0207 (atIndex 0xFFFF)))
      ∧ ∀ g at_, g < 8 → at_ < 2 ^ 64 → s.cfg.force.groupEn g = true → rq.payload = beBytes 1 g ++ zeros 1 ++ beBytes 8 at_ →
        let n := gridFrom (s.cfg.force.cycle g) (s.cfg.force.count g) at_
        Reads (.instantCalc t rq) t s rq 0x0402 fun p => p.length = 16
          ∧ beAt p 0 8 = gridInst (s.cfg.force.cycle g) (s.cfg.force.count g) n % 2 ^ 64
          ∧ beAt p 8 4 = n % s.cfg.force.count g % 2 ^ 32

/-- R169, R170, R178, R500: REED_SWAP enters the configuration in force when it is taken. It is staged where no
channel of the engine fades, else deferred as a job, and staged once the last fade sample has been formed. A second
swap of the engine is refused while one waits. Rests on the readings and choices of log entries 67, 69. -/
def Obligations.ReedSwapWaitsForFades : Prop :=
  ∀ (s : State) (t die : Nat) (rq : Req),
    let u := tick t s
    let bank := 1 - s.cfg.force.liveBank die
    (s.Takes rq stStage → s.hub.role ≠ .standby → die < 4 → rq.payload = beBytes 1 die ++ zeros 1 →
      s.sh.lock = none ∨ s.sh.lock = some rq.mb →
      let v := putLive die bank (some rq.mb) u
      (s.swapPending die = false → s.fading die = false →
          Answers (.reedSwap t rq) s rq 0x0302 1 0 (beBytes 8 u.due ++ beBytes 4 (next32 s.cfg.seq))
            (stageAt u.due (.reedSwap die bank) 0x0302 rq.mb rq.seq v))
        ∧ (s.swapPending die = false → s.fading die = true → s.jobsRunning < 16 →
          ∃ id w, newJob 0x0302 4 (.reedSwap die) u = some (id, w)
            ∧ Answers (.reedSwap t rq) s rq 0x0302 2 0 (beBytes 2 id)
              (let v := putLive die bank (some rq.mb) w
               { v with filt := { v.filt with deferred := v.filt.deferred ++ [(die, id)] } }))
        ∧ (s.swapPending die = true → Refuses (.reedSwap t rq) t s rq 0x0302 0x0108 (atIndex 0xFFFF)))
      ∧ (s.filt.deferred.any (·.1 == die) = true →
        (∀ c ∈ s.cfg.staged, ∀ b, c.change ≠ .reedSwap die b) → s.fading die = false → s.lastFade die ≤ u.clk.loom →
        Does (.reedSwapRelease t die) s fun s' =>
          s'.cfg.staged = s.cfg.staged ++ [{ change := .reedSwap die (s.cfg.force.liveBank die), due := u.due }]
            ∧ (∀ d ∈ s.filt.deferred, d.1 = die → ∀ j, findJob d.2 s = some j → findJob d.2 s' = some { j with beat := u.due })
            ∧ s'.cfg.force = s.cfg.force ∧ s'.cfg.active = s.cfg.active ∧ s'.filt = s.filt ∧ s'.hub = s.hub ∧ s'.hed = s.hed
            ∧ s'.trd = s.trd)
      ∧ (s.filt.deferred.any (·.1 == die) = false ∨ (∃ c ∈ s.cfg.staged, ∃ b, c.change = .reedSwap die b)
          ∨ s.fading die = true ∨ u.clk.loom < s.lastFade die →
        exec (.reedSwapRelease t die) s = .next u)

/-- R155: no valid mains measurement for 100 ms loses tracking, and f_m holds; before then nothing happens. Rests on
the readings and choices of log entry 133. -/
def Obligations.MainsTrackingIsLost : Prop :=
  ∀ (s : State) (t : Nat),
    (∀ v, s.filt.mains.lastValid = some v → v + usLoom 100000 ≤ (tick t s).clk.loom →
      exec (.mainsTrackingLost t) s = .next { tick t s with filt := { s.filt with mains := { s.filt.mains with
        lost := true, crossings := [], armed := false, awaitHigh := false } } })
      ∧ ((∀ v, s.filt.mains.lastValid = some v → (tick t s).clk.loom < v + usLoom 100000) →
        exec (.mainsTrackingLost t) s = .next (tick t s))

/-- R24, R25, R118: a word that arrives sets the slot counter expected next; one that shows words lost before it, by
its counter or, as the first of its stream, by its own instant, opens a gap of samples to be filled; codes lie in -7
to +7. A lane that fails leaves the link, whose channels fill until it is trained again; alarms 4 and 5 follow the
lanes. Words of a channel that does not run, of a die whose link is down and of a hub whose D1 is off (R18) are
dropped, and pre-decimator words off the Reed path too (R130). Words that come while the crossing holds wait there, 64
of a stream; a further one is dropped and counted (R409, R410). Rests on the readings and choices of log entries 65,
168. -/
def Obligations.PlyLinksFillWhatIsLost : Prop :=
  ∀ (s : State) (t : Nat),
    let u := tick t s
    let comes := fun (ch : Nat) => s.running = true ∧ s.domOn 1 = true ∧ s.dieUp (dieOf ch) = true
    let arrives := fun (ch : Nat) => comes ch ∧ s.plyHolds (dieOf ch) = false
    (∀ ch reed slot k codes, (s.chan ch).set = none ∨ ¬ comes ch →
      exec (.plyWordArrival t ch reed slot k codes) s = .next u)
      ∧ (∀ ch reed slot k codes p, (s.chan ch).set = some p → comes ch → s.plyHolds (dieOf ch) = true →
        let x := s.itg.crossings.get (dieOf ch)
        let before := (x.held.filter (sameStream (.word ch reed slot k codes))).length
        let waits := fun (y : Crossing) => exec (.plyWordArrival t ch reed slot k codes) s
          = .next { u with itg := { s.itg with crossings := s.itg.crossings.set (dieOf ch) y } }
        (before < 64 → waits { x with held := x.held ++ [.word ch reed slot k codes] })
          ∧ (64 ≤ before → waits { x with dropped := inc16 x.dropped }))
      ∧ (∀ ch reed slot k codes, arrives ch → exec (.plyWordArrival t ch reed slot k codes) s
        = exec (.plyWordArrival t ch reed slot k (codes.map (clampInt (-7) 7))) s)
      ∧ (∀ ch slot k codes p, (s.chan ch).set = some p → arrives ch → (s.chan ch).onReed = false →
        exec (.plyWordArrival t ch true slot k codes) s = .next (chanUpd ch (fun c => { c with reedSlot := none }) u))
      ∧ (∀ ch reed slot k codes p, (s.chan ch).set = some p → arrives ch → reed = false ∨ (s.chan ch).onReed = true →
        Does (.plyWordArrival t ch reed slot k codes) s fun s' =>
          let was := if reed then (s.chan ch).reedSlot else (s.chan ch).cicSlot
          let d := u.streamDec ch k reed
          let begun := ((if reed then (s.chan ch).reedFrom else (s.chan ch).cicFrom) - s.clk.epoch) / d + 1
          let missing := match was with
            | some e => (slot + 65536 - e) % 65536
            | none => k - begun
          (if reed then (s'.chan ch).reedSlot else (s'.chan ch).cicSlot) = some ((slot + 1) % 65536)
            ∧ (missing = 0 → (s'.chan ch).gaps = (s.chan ch).gaps)
            ∧ (missing ≠ 0 → (s.chan ch).gaps = [] → (s'.chan ch).gaps
              = [(clockFine (s.clk.epoch + (k - 1 - missing) * d), some (clockFine (s.clk.epoch + k * d)))])
            ∧ (∀ n, n ≠ ch → s'.filt.chans.get n = s.filt.chans.get n)
            ∧ ∃ chans mains, s' = { u with filt := { s.filt with chans := chans, mains := mains } })
      ∧ (∀ die lane, die < 4 → lane < 4 → Does (.plyLaneFailure t die lane) s fun s' =>
        let d := s'.pow.domains.get (4 + die)
        (∀ l, l ∈ d.lanesOut ↔ l = lane ∨ l ∈ (s.pow.domains.get (4 + die)).lanesOut) ∧ d.trained = false
          ∧ (∀ ch ∈ s.dieChans die, (s'.chan ch).gaps.any (·.2.isNone) = true)
          ∧ (∀ ch, ch ∉ s.dieChans die → s'.filt.chans.get ch = s.filt.chans.get ch)
          ∧ (∀ n, n ≠ 4 + die → s'.pow.domains.get n = s.pow.domains.get n)
          ∧ (s'.sh.alarms.contains 4 = true ↔ ∃ k, k < 4 ∧ s'.domOn (4 + k) = true ∧ (s'.pow.domains.get (4 + k)).lanesOut ≠ [])
          ∧ (s'.sh.alarms.contains 5 = true ↔
            ∃ k, k < 4 ∧ s'.domOn (4 + k) = true ∧ 3 ≤ (s'.pow.domains.get (4 + k)).lanesOut.length)
          ∧ s'.hub = s.hub ∧ s'.cfg = s.cfg ∧ s'.hed = s.hed ∧ s'.trd = s.trd ∧ s'.drv = s.drv)
      ∧ (∀ die lane, 4 ≤ die ∨ 4 ≤ lane → exec (.plyLaneFailure t die lane) s = .next u)
      ∧ (∀ die lanes, 4 ≤ die ∨ s.domOn (4 + die) = false → exec (.plyLinkTrained t die lanes) s = .next u)
      ∧ ∀ die lanes, die < 4 → s.domOn (4 + die) = true → Does (.plyLinkTrained t die lanes) s fun s' =>
        let d := s'.pow.domains.get (4 + die)
        d.trained = true ∧ d.lanesOut = (List.range 4).filter (fun l => !(nbit lanes l))
          ∧ d.aligned = (s.pow.domains.get (4 + die)).aligned
          ∧ (d.align = none ↔ d.aligned = true ∨ s.hub.state = .boot)
          ∧ (∀ n, n ≠ 4 + die → s'.pow.domains.get n = s.pow.domains.get n)
          ∧ (∀ ch, ch ∉ s.dieChans die → s'.filt.chans.get ch = s.filt.chans.get ch)
          ∧ s'.hub = s.hub ∧ s'.cfg = s.cfg ∧ s'.hed = s.hed ∧ s'.trd = s.trd ∧ s'.drv = s.drv

/-- R12, R33, R106, R107, R160, R402, R404, R405: a sample that is due is formed at its grid instant and delivered.
One whose data was lost, of the store's codewords that held it one that cannot be corrected among them, is a fill
sample; one that lies in an overrange has the raw value of its sign; its flags name the overrange, lead and neighbour
conditions at its signal instant and a standby's SUBST. Rests on the readings and choices of log entries 65, 134, 135.
While a test has the slot, its sample may end the test, whose slots then return (R141). -/
def Obligations.OutputSamplesCarryTheirFlags : Prop :=
  ∀ (s : State) (t ch grid : Nat) (reads : List (Nat × Bytes)),
    let u := tick t s
    let m := s.cfgAt grid
    let tau : Int := (fineOf grid : Int) - fineOf (m.phase ch) + (s.chan ch).shift grid
    let ovr := ovrSpan (s.hed.ovr.get ch) tau (s.chan ch).lastTau (s.chan ch).since
    let bad := reads.any fun x => !(codeValid x.2) && (rsDecode x.2).isNone
    (u.sampleDue ch grid = false → exec (.outputSample t ch grid reads) s = .next u)
      ∧ (u.sampleDue ch grid = true → Does (.outputSample t ch grid reads) s fun s' => (s'.chan ch).delivered = some grid)
      ∧ (u.sampleDue ch grid = true → (∀ y ∈ (s.chan ch).tests, y.2.1 = none → tau < y.1) →
        Does (.outputSample t ch grid reads) s fun s' => (s'.chan ch).lastTau = some tau
          ∧ (∀ n, n ≠ ch → s'.filt.chans.get n = s.filt.chans.get n)
          ∧ ((∀ x ∈ reads, codeValid x.2 = true) → s'.hub = s.hub ∧ s'.cfg = s.cfg ∧ s'.hed = s.hed ∧ s'.conv = s.conv
            ∧ s'.warp = s.warp ∧ s'.cal = s.cal ∧ s'.drv = s.drv ∧ s'.pair = s.pair ∧ s'.pow = s.pow ∧ s'.clk = u.clk
            ∧ s'.itg = { s.itg with crossings := s'.itg.crossings, units := s'.itg.units })
          ∧ ∃ x : Sample, (s'.chan ch).recent.head? = some x ∧ x.t = grid
            ∧ nbit x.flags.toNat 1 = u.substNow
            ∧ (bad = true ∨ (s.chan ch).lostAt grid tau = true →
              x.raw = 0#32 ∧ x.eng = 0x7FC00003#32 ∧ x.flags = if u.substNow then 0x8A#8 else 0x88#8)
            ∧ (bad = false → (s.chan ch).lostAt grid tau = false →
              (∀ o, ovr = some o → nbit x.flags.toNat 6 = true
                ∧ x.raw = if o.positive then 0x007FFFFF#32 else 0xFF800000#32)
                ∧ (s.leadAt ch tau = true → nbit x.flags.toNat 5 = true)
                ∧ nbit x.flags.toNat 4 = s.adjAt (s.runMap m ch tau) ch tau))

/-! ### Time and the Warp -/

/-- R230, R253, R254, R274: what the reads of time, of the linearisation and of calibration answer; WARP_PORTS clears
where it is asked to. Rests on the readings and choices of log entries 14, 55, 76. -/
def Obligations.TimeAndCalibrationReadsAnswer : Prop :=
  ∀ (s : State) (t : Nat) (rq : Req), s.Takes rq stRead →
    let u := tick t s
    let w := s.warp
    let m := s.cfg.force
    (rq.payload = [] →
      Reads (.timeStatus t rq) t s rq 0x0500 (fun p => p.length = 44 ∧ beAt p 0 8 = u.clk.loom % 2 ^ 64
          ∧ beAt p 8 1 = lockCode w.lock ∧ beAt p 9 1 = w.source % 2 ^ 8 ∧ nbit (beAt p 10 1) 7 = s.traceOn
          ∧ nbit (beAt p 10 1) 6 = w.holdAbove ∧ nbit (beAt p 10 1) 5 = w.step.isSome
          ∧ nbit (beAt p 10 1) 4 = s.resetPending ∧ slice p 12 4 = beSigned 4 w.offset ∧ slice p 16 4 = beSigned 4 w.freq
          ∧ beAt p 24 8 = s.epochLoom % 2 ^ 64 ∧ beAt p 32 1 = s.depthOf % 2 ^ 8 ∧ beAt p 36 4 = s.pathNs % 2 ^ 32)
        ∧ Reads (.calStatus t rq) t s rq 0x0700 (fun p => p.length = 272 ∧ beAt p 0 4 = s.cal.seq % 2 ^ 32
          ∧ beAt p 12 1 = 4 * b2n (!s.cal.ownCopy) + 2 * b2n s.cal.copyB.valid + b2n s.cal.copyA.valid
          ∧ ∀ pod, pod < 16 → slice p (16 + 16 * pod) 4 = beWord (s.cal.td.get pod).value
            ∧ beAt p (28 + 16 * pod) 2 = (s.cal.pending.get pod).length % 2 ^ 16))
      ∧ (∀ clear, clear < 2 → rq.payload = beBytes 1 clear → ∃ (p : Bytes) (ports : Tab WPort), p.length = 96
        ∧ (∀ n, n < 4 → let x := w.ports.get n
          beAt p (24 * n) 1 = s.wstate n % 2 ^ 8 ∧ slice p (24 * n + 4) 4 = beSigned 4 (x.delay.getD 0)
            ∧ slice p (24 * n + 8) 4 = beSigned 4 x.offset ∧ beAt p (24 * n + 12) 2 = x.badCrc % 2 ^ 16
            ∧ beAt p (24 * n + 14) 2 = x.resent % 2 ^ 16 ∧ beAt p (24 * n + 16) 2 = x.lost % 2 ^ 16
            ∧ beAt p (24 * n + 18) 2 = x.late % 2 ^ 16 ∧ beAt p (24 * n + 20) 2 = x.high % 2 ^ 16
            ∧ beAt p (24 * n + 22) 2 = x.dup % 2 ^ 16)
        ∧ Answers (.warpPorts t rq) s rq 0x0501 0 0 p { u with warp := { w with ports := ports } }
        ∧ ∀ n, ports.get n = if clear = 1 ∧ n < 4 then
            { w.ports.get n with badCrc := 0, resent := 0, lost := 0, late := 0, high := 0, dup := 0 } else w.ports.get n)
      ∧ (∀ first n, first < 2 ^ 16 → n < 2 ^ 8 → rq.payload = beBytes 2 first ++ beBytes 1 n ++ zeros 1 →
        (s.cfg.active.isRoot = false → Refuses (.censusRead t rq) t s rq 0x0505 0x0212 (atIndex 0xFFFF))
          ∧ (s.cfg.active.isRoot = true → 0 < n → n ≤ 125 →
            let all := censusPut u.ownRecord w.census
            Reads (.censusRead t rq) t s rq 0x0505 fun p => p.length = 4 + 8 * min n (all.length - first)
              ∧ beAt p 0 2 = all.length % 2 ^ 16
              ∧ ∀ i c, i < n → all[first + i]? = some c → slice p (4 + 8 * i) 8
                = beBytes 2 c.hub ++ beBytes 1 c.depth ++ beBytes 1 c.lock ++ beBytes 4 c.path))
      ∧ (∀ c set dir (ref x : Word), dir < 2 → set < 16 → c < 2 ^ 8 → curveListed c = true →
        (∀ k, setNeeded c = some k → m.setKind set = k ∧ setOk m set = true) → (dir = 1 → monotonic m c set = true) →
        rq.payload = beBytes 1 c ++ beBytes 1 set ++ beBytes 1 dir ++ zeros 1 ++ beWord ref ++ beWord x →
        Reads (.linEval t rq) t s rq 0x0600 fun p => p.length = 8
          ∧ (dir = 0 → slice p 0 4 = beWord (linForward m c set ref x)
            ∧ beAt p 4 1 = outcomeOf (linForward m c set ref x) false)
          ∧ ∀ q k, dir = 1 → curveInverse m c set (f64Of32 ref) (f64Of32 x) = some (q, k) →
            slice p 0 4 = beWord (valueWord q).1 ∧ beAt p 4 1 = outcomeOf (valueWord q).1 k)
      ∧ (∀ ch, ch < 256 → rq.payload = beBytes 2 ch → Reads (.cjStatus t rq) t s rq 0x0601 fun p => p.length = 18
        ∧ beAt p 0 1 = m.cjMode ch % 2 ^ 8
        ∧ ∀ r, (s.chan ch).cj = some r →
          slice p 2 4 = beWord r.1 ∧ beAt p 6 8 = r.2.2 % 2 ^ 64 ∧ slice p 14 1 = [r.2.1])
      ∧ ∀ a range set key pod src, range ≤ 4 → set < 3 →
        (a < 256 ∧ key = calKey a range ∧ pod = a / 16)
          ∨ (pod < 16 ∧ (src ≤ 4 ∨ src = 8 ∨ src = 9) ∧ a = 0xFF00 + 16 * pod + src ∧ key = srcKey pod src) →
        rq.payload = beBytes 2 a ++ beBytes 1 range ++ beBytes 1 set →
        let e := if set = 0 then entryOf s.cal.entries key
          else if set = 1 then
            entryOf (applyResults s.serving m.pointTol ((s.cal.pending.get pod).filter fun r => r.key == key) s.cal.entries) key
          else factoryEntry key
        Reads (.calRead t rq) t s rq 0x0704 fun p => p.length = 4 + 44 * min 8 e.points.length
          ∧ beAt p 0 1 = min 8 e.points.length ∧ beAt p 1 1 = b2n e.stale ∧ beAt p 2 2 = e.modulator % 2 ^ 16
          ∧ ∀ i x, i < 8 → e.points[i]? = some x → slice p (4 + 44 * i) 4 = beWord (f32Of64 x.temp)
            ∧ ∀ j, j < 4 → slice p (8 + 44 * i + 4 * j) 4 = beWord (f32Of64 (x.term j))

/-- R206, R208, R215 to R218: an event is originated, spread to the ports that are up, and leaves a port's queue with
the next link number. A port that is up takes an event with the number expected, asks once for what is missing, counts
what is lost where the events come again without them, counts one that it has had, and refuses one whose CRC does not
match; it sends again what it is asked for. Rests on the readings and choices of log entries 25, 78, 86. -/
def Obligations.WarpEventsCross : Prop :=
  ∀ (s : State) (t port : Nat),
    let u := tick t s
    let w := s.warp.ports.get port
    (∀ rq code, s.Takes rq stLive → s.hub.role ≠ .standby → code < 2 ^ 8 → rq.payload = beBytes 1 code ++ zeros 1 →
      Answers (.eventSend t rq) s rq 0x0504 0 0 (beBytes 8 u.clk.loom)
        { u with warp := { s.warp with origin := s.warp.origin
          ++ [{ typ := 4, origin := s.hub.hubId.getD 0x3FF, stamp := u.clk.loom, code }] } })
      ∧ (∀ e r, s.warp.origin = e :: r → (∀ l, s.warp.lastOrigin = some l → l + usLoom 100 ≤ u.clk.loom) →
        Does (.eventOrigination t) s fun s' =>
          s'.warp.origin = r ∧ s'.warp.lastOrigin = some u.clk.loom
            ∧ (∀ p, p < 4 → s.wup p = true → (s.warp.ports.get p).queue.length < 1024 →
              (s'.warp.ports.get p).queue = (s.warp.ports.get p).queue ++ [e])
            ∧ (∀ p, p < 4 → s.wup p = true → 1024 ≤ (s.warp.ports.get p).queue.length →
              (s'.warp.ports.get p).queue = (s.warp.ports.get p).queue
                ∧ (s'.warp.ports.get p).lost = inc16 (s.warp.ports.get p).lost)
            ∧ (∀ p, 4 ≤ p ∨ s.wup p = false → s'.warp.ports.get p = s.warp.ports.get p)
            ∧ s'.hub = s.hub ∧ s'.cfg = s.cfg ∧ s'.trd = s.trd ∧ s'.filt = s.filt ∧ s'.clk = u.clk)
      ∧ (s.warp.origin = [] ∨ (∃ l, s.warp.lastOrigin = some l ∧ u.clk.loom < l + usLoom 100) →
        exec (.eventOrigination t) s = .next u)
      ∧ (∀ e r, w.queue = e :: r → s.wup port = true → port = 0 ∨ s.warp.lock = .locked ∨ s.warp.lock = .holdover →
        let out := { e with link := w.txNext }
        let ports := s.warp.ports.set port
          { w with queue := r, txNext := (w.txNext + 1) % 256, history := (out :: w.history).take 256 }
        exec (.warpEventTransmit t port) s = .next { u with
          warp := { s.warp with ports := ports, resetTold := if e.typ = 3 then true else s.warp.resetTold }
          wire := .warpEvent u.clk.loom port (eventChars out) :: s.wire })
      ∧ (w.queue = [] ∨ s.wup port = false ∨ (port ≠ 0 ∧ s.warp.lock ≠ .locked ∧ s.warp.lock ≠ .holdover) →
        exec (.warpEventTransmit t port) s = .next u)
      ∧ (s.wup port = false → ∀ ev first, exec (.warpEvent t port ev) s = .next u
        ∧ exec (.resendRequest t port first) s = .next u)
      ∧ (s.wup port = true →
        (∀ first, Does (.resendRequest t port first) s fun s' =>
          let held := (w.history.take ((w.txNext + 256 - first % 256) % 256)).reverse
          let out := held.map fun e => Emission.warpEvent u.clk.loom port (eventChars e)
          (s.sendsEvents port = true → s'.wire = out.reverse ++ s.wire ∧ (s'.warp.ports.get port).queue = w.queue)
            ∧ (s.sendsEvents port = false → s'.wire = s.wire ∧ (s'.warp.ports.get port).queue = held ++ w.queue
              ∧ (s'.warp.ports.get port).txNext = (w.txNext + 256 - held.length) % 256)
            ∧ (s'.warp.ports.get port).resent = min (w.resent + held.length) 0xFFFF
            ∧ (s'.warp.ports.get port).lost = w.lost
            ∧ (∀ p, p ≠ port → s'.warp.ports.get p = s.warp.ports.get p) ∧ s'.warp.origin = s.warp.origin
            ∧ s'.hub = s.hub ∧ s'.cfg = s.cfg ∧ s'.trd = s.trd ∧ s'.filt = s.filt ∧ s'.clk = u.clk)
        ∧ (∀ ev, ev.length ≠ 16 ∨ (crc16 (slice ev 1 13)).toNat ≠ beAt ev 14 2 →
          exec (.warpEvent t port ev) s = .next (askResend port
            { u with warp := { s.warp with ports := s.warp.ports.set port { w with badCrc := inc16 w.badCrc, ahead := none } } }))
        ∧ (∀ e : WarpEv, e.link < 256 → e.typ < 256 → e.typ ≠ 0x10 → e.origin < 1024 → e.stamp < 2 ^ 64 → e.code < 256 →
          w.rxNext < 256 →
          let d := ((e.link : Int) - w.rxNext) % 256
          let taken := { e with stamp := u.instant e.stamp }
          let ahead := { u with warp := { s.warp with ports := s.warp.ports.set port { w with ahead := some e.link } } }
          let passed := { u with warp := { s.warp with ports := s.warp.ports.set port { w with rxNext := e.link } } }
          (d = 0 → exec (.warpEvent t port (eventChars e)) s = .next (acceptEvent port taken u))
            ∧ (1 ≤ d → d ≤ 127 → w.asked = false → exec (.warpEvent t port (eventChars e)) s = .next (askResend port ahead))
            ∧ (1 ≤ d → d ≤ 127 → w.asked = true → (∀ a, w.ahead = some a → ((a : Int) - w.rxNext) % 256 < d) →
              exec (.warpEvent t port (eventChars e)) s = .next ahead)
            ∧ (∀ a, 1 ≤ d → d ≤ 127 → w.asked = true → w.ahead = some a → d ≤ ((a : Int) - w.rxNext) % 256 →
              exec (.warpEvent t port (eventChars e)) s
                = .next (acceptEvent port taken ((List.range d.toNat).foldl (fun v _ => eventLost port v) passed)))
            ∧ (128 ≤ d → exec (.warpEvent t port (eventChars e)) s = .next { u with
              warp := { s.warp with ports := s.warp.ports.set port { w with dup := inc16 w.dup } } }))
        ∧ ∀ e : WarpEv, let s' := acceptEvent port e u
          (s'.warp.ports.get port).rxNext = (w.rxNext + 1) % 256 ∧ (s'.warp.ports.get port).asked = false
            ∧ (s'.warp.ports.get port).late
              = (if e.stamp + nsLoom s.eventBound < u.clk.loom then inc16 w.late else w.late)
            ∧ (∀ p, p < 4 → p ≠ port → s.wup p = true → (s.warp.ports.get p).queue.length < 1024 →
              (s'.warp.ports.get p).queue = (s.warp.ports.get p).queue ++ [e])
            ∧ (e.typ = 3 → s.warp.reset = none → u.clk.loom + usLoom 20 ≤ e.stamp → s'.warp.reset = some e.stamp)
            ∧ (e.typ = 3 → s.warp.reset = none → e.stamp < u.clk.loom + usLoom 20 → s'.warp.reset = none)
            ∧ (e.typ = 1 ∨ e.typ = 2 → s.warp.toTreadle = [] → (s.itg.crossings.get 4).holds = false →
              ∀ k, k < 4 → (s.trd.seqs.get k).armed = true → (s'.trd.seqs.get k).events = (s.trd.seqs.get k).events ++ [e])
            ∧ (e.typ = 2 → s.warp.toTreadle = [] → (s.itg.crossings.get 4).holds = false →
              s'.trd.marks = { t := e.stamp, seqr := 0xFF, state := 0, code := e.code, origin := e.origin } :: s.trd.marks)
            ∧ s'.hub = s.hub ∧ s'.cfg = s.cfg ∧ s'.filt = s.filt ∧ s'.clk = u.clk)

/-- R204, R206, R207, R210, R211, R216, R224: the time frames that a port sends and takes, the delay requests, the
census and the ports' states. A frame whose CRC fails is counted and not used; the offset of an exchange is that of
its four stamps. Rests on the readings and choices of log entries 77, 78, 85. -/
def Obligations.TimeFramesCarryTime : Prop :=
  ∀ (s : State) (t port : Nat),
    let u := tick t s
    let w := s.warp.ports.get port
    let w0 := s.warp.ports.get 0
    let put := fun (x : WPort) => { s.warp with ports := s.warp.ports.set port x }
    let gone := if w.state = 3 then some u.clk.loom else w.downSince
    (port ≠ 0 → s.wup port = true → s.warp.lock = .locked ∨ s.warp.lock = .holdover →
        (∃ f, exec (.timeFrameSend t port) s = .next { u with
            free := s.free + 1
            wire := .warpFrame u.clk.loom port f :: s.wire
            warp := { s.warp with resetTold := if s.warp.reset.isSome then true else s.warp.resetTold } }
          ∧ f.length = 64 ∧ beAt f 0 2 = 0xBC01 ∧ beAt f 60 4 = (crc32c (slice f 1 59)).toNat
          ∧ beAt f 6 8 = u.clk.loom % 2 ^ 64 ∧ beAt f 28 8 = s.epochLoom % 2 ^ 64 ∧ beAt f 52 4 = s.pathNs % 2 ^ 32
          ∧ (∀ x n, w.lastReq = some (x, n) → beAt f 16 10 = x % 2 ^ 80 ∧ beAt f 26 2 = n % 2 ^ 16)
          ∧ (∀ i a, s.warp.step = some (i, a) → beAt f 36 8 = i % 2 ^ 64 ∧ slice f 44 8 = beSigned 8 a)
          ∧ ∀ r, s.warp.step = none → s.warp.reset = some r → beAt f 36 8 = r % 2 ^ 64))
      ∧ (port = 0 ∨ s.wup port = false ∨ (s.warp.lock ≠ .locked ∧ s.warp.lock ≠ .holdover) →
        exec (.timeFrameSend t port) s = .next u)
      ∧ (s.wup 0 = true → Does (.delayRequestSend t) s fun s' => ∃ (f : Bytes) (ext : Nat),
        let all := u.ownRecord :: s.warp.census
        let c := all.getD (s.warp.censusTurn % all.length) u.ownRecord
        s' = { u with
            free := s.free + 1
            wire := .warpFrame u.clk.loom 0 f :: s.wire
            warp := { s.warp with
              censusTurn := (s.warp.censusTurn + 1) % all.length
              ports := s.warp.ports.set 0 { w0 with
                reqNext := (w0.reqNext + 1) % 65536, reqSent := ((w0.reqNext, u.clk.loom * 65536 + ext) :: w0.reqSent).take 16 } } }
          ∧ ext < 65536 ∧ f.length = 32 ∧ beAt f 0 2 = 0xBC02 ∧ beAt f 28 4 = (crc32c (slice f 1 27)).toNat
          ∧ beAt f 4 2 = w0.reqNext % 2 ^ 16 ∧ beAt f 14 2 = s.subtreeSize % 2 ^ 16
          ∧ slice f 6 8 = beBytes 2 c.hub ++ beBytes 1 c.depth ++ beBytes 1 c.lock ++ beBytes 4 c.path)
      ∧ (s.wup 0 = false → exec (.delayRequestSend t) s = .next u)
      ∧ (∀ f ext, port ≠ 0 → s.cfg.active.wportEn port = true → s.hub.inReset = false → f.length = 32 →
        (crc32c (slice f 1 27)).toNat = beAt f 28 4 → beAt f 1 1 = 2 → beAt f 3 1 ≠ s.cfg.active.domain →
        exec (.delayRequest t port f ext) s = .next (countHubs { u with warp := { s.warp with
          subtree := s.warp.subtree.set port 0
          ports := s.warp.ports.set port { w with state := 5, frames := 0, downSince := gone } } }))
      ∧ (∀ f ext, port ≠ 0 → s.cfg.active.wportEn port = true → s.hub.inReset = false → f.length = 32 →
        (crc32c (slice f 1 27)).toNat = beAt f 28 4 → beAt f 1 1 = 2 → beAt f 3 1 = s.cfg.active.domain →
        Does (.delayRequest t port f ext) s fun s' =>
          s'.warp.ports.get port = { w with
              state := 3, downSince := none, lastReq := some (u.clk.loom * 65536 + ext % 65536, beAt f 4 2) }
            ∧ s'.warp.subtree.get port = beAt f 14 2 ∧ (∀ p, p ≠ port → s'.warp.ports.get p = s.warp.ports.get p)
            ∧ { hub := beAt f 6 2, depth := beAt f 8 1, lock := beAt f 9 1, path := beAt f 10 4
                seen := u.clk.loom, via := port : Census } ∈ s'.warp.census
            ∧ s'.warp.over1024 = decide (1024 < s'.subtreeSize)
            ∧ ∃ census subtree many, s' = { u with warp := { s.warp with
              ports := s'.warp.ports, census := census, subtree := subtree, over1024 := many } })
      ∧ (∀ f ext, port ≠ 0 → s.cfg.active.wportEn port = true → s.hub.inReset = false →
        f.length ≠ 32 ∨ (crc32c (slice f 1 27)).toNat ≠ beAt f 28 4 →
        exec (.delayRequest t port f ext) s = .next { u with warp := put { w with badCrc := inc16 w.badCrc } })
      ∧ (∀ f ext, s.cfg.active.wportEn 0 = true → s.hub.inReset = false →
        f.length ≠ 64 ∨ (crc32c (slice f 1 59)).toNat ≠ beAt f 60 4 →
        exec (.warpTimeFrame t f ext) s = .next { u with warp := { s.warp with
          ports := s.warp.ports.set 0 { w0 with badCrc := inc16 w0.badCrc, frames := 0 } } })
      ∧ (∀ f (ext : Nat), s.cfg.active.wportEn 0 = true → s.hub.inReset = false → f.length = 64 →
        (crc32c (slice f 1 59)).toNat = beAt f 60 4 → beAt f 1 1 = 1 → beAt f 3 1 = s.cfg.active.domain →
        beAt f 4 2 / 1024 < 32 → w0.delay.getD 0 ≤ 10000000 →
        let t1 : Int := u.instant (beAt f 6 8) * 65536 + beAt f 14 2
        let t4 : Int := u.instant (beAt f 16 8) * 65536 + beAt f 24 2
        let t2 : Int := u.clk.loom * 65536 + ext % 65536
        Does (.warpTimeFrame t f ext) s fun s' =>
          s'.warp.trace = nbit (beAt f 2 1) 6 ∧ s'.warp.holdAbove = nbit (beAt f 2 1) 7
            ∧ s'.warp.depth = beAt f 4 2 / 1024 + 1 ∧ s'.warp.parentEpoch = some (u.instant (beAt f 28 8)) ∧ s'.warp.bE = beAt f 56 4
            ∧ s'.warp.path = beAt f 52 4 + (roundEven (w0.delay.getD 0) 1000).toNat + 120
            ∧ s'.warp.announced = (if nbit (beAt f 2 1) 3 then some (beAt f 4 2 % 1024) else none)
            ∧ (∀ t3, w0.reqSent.lookup (beAt f 26 2) = some t3 →
              let d := roundEven (stampPs ((t4 - t1) - ((t3 : Int) - t2)) + s.cfg.active.asym 0) 2
              (s'.warp.ports.get 0).dSum = w0.dSum + d ∧ (s'.warp.ports.get 0).dCount = w0.dCount + 1
                ∧ (s'.warp.ports.get 0).offset = stampPs (t2 - t1) - w0.delay.getD d)
            ∧ (w0.reqSent.lookup (beAt f 26 2) = none → (s'.warp.ports.get 0).offset = w0.offset
              ∧ (s'.warp.ports.get 0).dCount = w0.dCount ∧ s'.warp.lock = s.warp.lock)
            ∧ (s'.warp.ports.get 0).state = 3 ∧ (s'.warp.ports.get 0).frames = w0.frames + 1
            ∧ (∀ p, p ≠ 0 → s'.warp.ports.get p = s.warp.ports.get p)
            ∧ s'.hub = s.hub ∧ s'.cfg = s.cfg ∧ s'.clk = u.clk ∧ s'.filt = s.filt ∧ s'.trd = s.trd)
      ∧ (∀ hub, exec (.censusLapse t hub) s = .next (countHubs { u with warp := { s.warp with
        census := s.warp.census.filter fun c => !(c.hub == hub && decide (c.seen + usLoom 100000 ≤ u.clk.loom)) } }))
      ∧ ∀ line, let st := if s.cfg.active.wportEn port = true then lineState port line else 1
        let v := { u with warp := put { w with
          state := st
          frames := if st = 3 then w.frames else 0
          delay := if st ≤ 2 then none else w.delay
          downSince := if st = 3 then none else gone } }
        exec (.warpPortStateChange t port line) s
          = .next (if st = 3 then v else countHubs { v with warp := { v.warp with subtree := s.warp.subtree.set port 0 } })

/-- R198, R199, R219 to R223, R231: the lock state and the source follow the Warp and PTP; a synchronising reset and a
step are accepted, wait for their instant, and act there on the epoch and on loom time. Rests on the readings and
choices of log entries 53, 78, 142. -/
def Obligations.LockStatesAndResets : Prop :=
  ∀ (s : State) (t : Nat),
    let u := tick t s
    let w := s.warp
    (∀ d, (w.ports.get 0).downSince = some d → w.lost = false → s.wstate 0 ≠ 3 → d + usLoom 10 ≤ u.clk.loom →
        2 ≤ s.cfg.active.timeSrc → Does (.warpLost t) s fun s' =>
          s'.warp.lost = true ∧ s'.warp.trace = false ∧ s'.warp.holdAbove = false ∧ s'.sh.alarms.contains 6 = true
            ∧ (s.cfg.active.timeSrc = 2 → s'.warp.lock = (if w.lock = .locked then .holdover else w.lock)
              ∧ s'.warp.source = w.source)
            ∧ (s.cfg.active.timeSrc ≠ 2 → s'.warp.lock = .acquire ∧ s'.warp.source = 1)
            ∧ s'.warp.ports = w.ports ∧ s'.hub = s.hub ∧ s'.cfg = s.cfg ∧ s'.clk = u.clk ∧ s'.trd = s.trd)
      ∧ (w.lost = true ∨ s.wstate 0 = 3 ∨ s.cfg.active.timeSrc < 2 ∨ (w.ports.get 0).downSince = none → exec (.warpLost t) s = .next u)
      ∧ (w.lost = true → s.wup 0 = true → 16 ≤ (w.ports.get 0).frames → Does (.warpReturn t) s fun s' =>
        s'.warp.lost = false ∧ s'.warp.lock = .acquire ∧ s'.warp.source = 2 ∧ s'.sh.alarms.contains 6 = false
          ∧ s'.warp.ports = w.ports ∧ s'.hub = s.hub ∧ s'.cfg = s.cfg ∧ s'.clk = u.clk ∧ s'.trd = s.trd)
      ∧ (w.lost = false ∨ s.wup 0 = false ∨ (w.ports.get 0).frames < 16 → exec (.warpReturn t) s = .next u)
      ∧ Does (.ptpSourceLost t) s (fun s' =>
        s'.warp.lock = (if w.lock = .locked ∧ w.source = 1 then .holdover else w.lock) ∧ s'.warp.freq = w.freq
          ∧ (∀ p, s.ptpBest = some p → (s'.weft.ports.get p).announce = none
            ∧ ∀ q, q ≠ p → (s'.weft.ports.get q).announce = (s.weft.ports.get q).announce)
          ∧ s'.hub = s.hub ∧ s'.cfg = s.cfg ∧ s'.clk = u.clk ∧ s'.trd = s.trd)
      ∧ (∀ rq n, s.Takes rq stLive → s.hub.role ≠ .standby → n < 2 ^ 64 → rq.payload = beBytes 8 n →
        let ts := u.instant n
        (s.cfg.active.isRoot = false → 2 ≤ s.cfg.active.timeSrc →
            Refuses (.syncReset t rq) t s rq 0x0502 0x0212 (atIndex 0xFFFF))
          ∧ (s.cfg.active.isRoot = true ∨ s.cfg.active.timeSrc < 2 →
            (ts < u.clk.loom + usLoom 2000 → Refuses (.syncReset t rq) t s rq 0x0502 0x0308 (atIndex 0xFFFF))
              ∧ (u.clk.loom + usLoom 2000 ≤ ts → s.timePending = true →
                Refuses (.syncReset t rq) t s rq 0x0502 0x0108 (atIndex 0xFFFF))
              ∧ (u.clk.loom + usLoom 2000 ≤ ts → s.timePending = false → s.jobsRunning < 16 →
                ∃ id v, newJob 0x0502 0 (.syncReset ts) u = some (id, v)
                  ∧ Answers (.syncReset t rq) s rq 0x0502 3 0 (beBytes 2 id) { v with warp := { w with
                    reset := some ts, resetTold := false
                    origin := if s.downUp = [] then w.origin
                      else w.origin ++ [{ typ := 3, origin := s.hub.hubId.getD 0x3FF, stamp := ts, code := 0 }] } })))
      ∧ (∀ rq (d : Int), s.Takes rq stLive → s.hub.role ≠ .standby → -(2 ^ 63) ≤ d → d < 2 ^ 63 → rq.payload = beSigned 8 d →
        let n := roundEven (d * 3125) (2 ^ 19)
        (s.timePending = true → Refuses (.timeSet t rq) t s rq 0x0503 0x0108 (atIndex 0xFFFF))
          ∧ (s.timePending = false → s.cfg.active.timeSrc ≠ 0 →
            Refuses (.timeSet t rq) t s rq 0x0503 0x0212 (atIndex 0xFFFF))
          ∧ (s.timePending = false → s.cfg.active.timeSrc = 0 → s.hub.state ≠ .run ∨ s.cfg.active.stepRun = true → n ≠ 0 →
            Answers (.timeSet t rq) s rq 0x0503 1 0 (beBytes 8 u.ahead2ms ++ beSigned 8 (clocksUnits n))
              { u with warp := { w with step := some (beatTime u.ahead2ms, clocksUnits n) } }))
      ∧ (∀ ts, w.reset = some ts → ts ≤ u.clk.loom → Does (.synchronisingReset t) s fun s' =>
        s'.clk = { u.clk with epoch := clockFrom (fineOf ts) }
          ∧ s'.warp = { w with reset := none, resetTold := false, catchUp := none
                               bootReset := if (w.bootReset.filter (· ≤ u.clk.loom)).isSome then none else w.bootReset }
          ∧ (∀ id j, findJob id s = some j → j.ended = none → j.work = .syncReset ts → ∃ k, findJob id s' = some k
            ∧ k.state = 1 ∧ k.beat = beatAt ts ∧ k.ended = some u.clk.loom)
          ∧ (∀ ch ∈ s.cfg.active.chansOn, ∀ p, s.domOn (4 + dieOf ch) = true → (s.chan ch).set = some p →
            (s'.chan ch).entries.length = (s.chan ch).entries.length + 1)
          ∧ (∀ d, d < 4 → s.domOn (4 + d) = true → (s'.pow.domains.get (4 + d)).aligned = true)
          ∧ (∀ ch, ch < 256 → s.domOn (4 + dieOf ch) = true →
            (s'.lead ch 0).lastMean = none ∧ ovrOpen (s'.hed.ovr.get ch) = false)
          ∧ s'.hub = s.hub ∧ s'.cfg = s.cfg ∧ s'.conv = s.conv ∧ s'.cal = s.cal ∧ s'.trd = s.trd ∧ s'.drv = s.drv)
      ∧ (∀ b, (∀ ts, w.reset = some ts → u.clk.loom < ts) → w.bootReset = some b → b ≤ u.clk.loom →
        Does (.synchronisingReset t) s fun s' => s'.clk = { u.clk with epoch := clockFrom (fineOf b) }
          ∧ s'.warp = { w with bootReset := none, catchUp := none }
          ∧ (∀ d, d < 4 → s.domOn (4 + d) = true → (s'.pow.domains.get (4 + d)).aligned = true)
          ∧ s'.hub = s.hub ∧ s'.cfg = s.cfg ∧ s'.sh = s.sh ∧ s'.conv = s.conv ∧ s'.trd = s.trd ∧ s'.drv = s.drv)
      ∧ ((∀ ts, w.reset = some ts → u.clk.loom < ts) → (∀ b, w.bootReset = some b → u.clk.loom < b) →
        exec (.synchronisingReset t) s = .next u)
      ∧ (∀ b e, w.catchUp = some b → w.parentEpoch = some e → b ≤ u.clk.loom → Does (.catchUpReset t) s fun s' =>
        s'.warp = { w with catchUp := none } ∧ s'.clk = { u.clk with epoch := epochClock e }
          ∧ (∀ d, d < 4 → s.domOn (4 + d) = true → (s'.pow.domains.get (4 + d)).aligned = true)
          ∧ s'.hub = s.hub ∧ s'.cfg = s.cfg ∧ s'.conv = s.conv ∧ s'.cal = s.cal ∧ s'.trd = s.trd ∧ s'.drv = s.drv)
      ∧ (w.catchUp = none → Does (.catchUpReset t) s fun s' => s'.clk = u.clk ∧ s'.warp = w
          ∧ (∀ d b, d < 4 → s.domOn (4 + d) = true → (s.pow.domains.get (4 + d)).align = some b → b ≤ u.clk.loom →
            (s'.pow.domains.get (4 + d)).aligned = true ∧ (s'.pow.domains.get (4 + d)).align = none)
          ∧ s'.hub = s.hub ∧ s'.cfg = s.cfg ∧ s'.conv = s.conv ∧ s'.cal = s.cal ∧ s'.trd = s.trd ∧ s'.drv = s.drv)
      ∧ (∀ work, s.hub.inReset = true ∨ (∀ i d, w.step = some (i, d) → u.clk.loom < i) →
        exec (.loomTimeStep t work) s = .next u)
      ∧ ∀ work i d, s.hub.inReset = false → w.step = some (i, d) → i ≤ u.clk.loom → Does (.loomTimeStep t work) s fun s' =>
        let k := roundEven (d * 3125) (2 ^ 19)
        let new := ((u.clk.loom : Int) + clocksUnits k).toNat
        s'.clk.loom = new ∧ s'.clk.epoch = ((s.clk.epoch : Int) + k).toNat
          ∧ s'.warp.step = none ∧ s'.warp.stepped = some (i, d)
          ∧ (new ≤ u.clk.loom → s'.clk.beat = s.clk.beat ∧ s'.clk.skipped = s.clk.skipped
            ∧ s'.clk.boundary = max s.clk.boundary (beatTime (beatAt u.clk.loom)) ∧ s'.hub = s.hub ∧ s'.cfg = s.cfg)
          ∧ (u.clk.loom < new → s.clk.boundary < beatTime (beatAt new) →
            s'.clk.beat = beatAt new ∧ s'.clk.boundary = new)
          ∧ (u.clk.loom < new → beatTime (beatAt new) ≤ s.clk.boundary →
            s'.clk.beat = s.clk.beat ∧ s'.clk.boundary = s.clk.boundary)

/-! ### Beat boundaries -/

/-- R29, R31, R33, R35, R37, R57: a change whose staging ends at a loom time is due at the first boundary at least 200
us later that has not been taken yet. At a boundary the beat counter takes its number, the staged changes that are due
take effect together, words before the others, and those due later stay, as do those that crossing 8 carries while it
holds (R409, R410); none occurs up to the highest boundary taken. Rests on the readings and choices of log entries 70,
123, 139. -/
def Obligations.BoundariesApplyStagedChanges : Prop :=
  (∀ t b n : Nat, dueBeat t b ≤ n ↔ t + usLoom 200 ≤ beatTime n ∧ b < beatTime n)
    ∧ ∀ (s : State) (t : Nat) (husks : List Nat) (late : Bool) (bad : List Nat), s.hub.inReset = false →
    let u := tick t s
    let beat := beatAt u.clk.loom
    let due := s.cfg.staged.filter fun c => decide (c.due ≤ beat) && (staysStaged c.change || !(s.crossHolds 8))
    (beatTime beat ≤ s.clk.boundary → exec (.beatBoundary t husks late bad) s = .next u)
      ∧ (s.clk.boundary < beatTime beat → Does (.beatBoundary t husks late bad) s fun s' =>
        s'.clk = { u.clk with
            beat := beat, boundary := beatTime beat
            overruns := if late then inc16 s.clk.overruns else s.clk.overruns
            overrunRow := if late then s.clk.overrunRow + 1 else 0 }
          ∧ (late = true → 99 ≤ s.clk.overrunRow → s'.sh.alarms.contains 2 = true)
          ∧ (late = false → s'.sh.alarms.contains 2 = false)
          ∧ s'.cfg.force = s.cfg.force ∧ s'.cfg.seq = s.cfg.seq ∧ s'.cfg.copyA = s.cfg.copyA ∧ s'.cfg.copyB = s.cfg.copyB
          ∧ (∀ c ∈ s.cfg.staged, beat < c.due ∨ s.crossHolds 8 = true → (∃ ws, c.change = .words ws) → c ∈ s'.cfg.staged)
          ∧ (bad = [] → stagedSwaps due = [] → s'.cfg.active = s.cfg.active.putAll (stagedWords due))
          ∧ (∀ c h, bad = [] → s.cfg.staged = [c] → c.change = .move h → c.due ≤ beat → s.takesMove h c.cmd = true → s.hub.state ≠ .safe →
            s'.hub.state = h ∧ s'.pendingMove = none ∧ s'.cfg.active = s.cfg.active)
          ∧ (bad = [] → s.cfg.staged = [] → s'.hub.state = s.hub.state ∧ s'.hub.role = s.hub.role ∧ s'.cfg.active = s.cfg.active
            ∧ s'.trd = s.trd ∧ s'.drv.stims = s.drv.stims ∧ s'.drv.tables = s.drv.tables ∧ s'.win = s.win))

/-! ### Tests and calibration -/

/-- R140, R141, R145, R253, R254: BRIDGE_ZERO and PATH_TEST begin a job; a path test connects its slots, whose lead
detectors restart clear. 10 us into a level its bus is read back, and the next level follows no sooner; once its
levels are through and its slots have recovered, it is judged, slot by slot, and each job keeps its result. Rests on
the readings and choices of log entries 26, 34, 165, 201. -/
def Obligations.TestsRunAsJobs : Prop :=
  ∀ (s : State) (t : Nat) (rq : Req),
    let u := tick t s
    (∀ ch n, s.Takes rq stLive → ch < 2 ^ 16 → n < 2 ^ 16 → rq.payload = beBytes 2 ch ++ beBytes 2 n →
        let ratio := inputKind s.cfg.force (s.cfg.force.curve ch) (s.cfg.force.setNo ch) = 2
        (255 < ch → Refuses (.bridgeZero t rq) t s rq 0x0602 0x0306 (atIndex ch))
          ∧ (ch < 256 → 16 ≤ n → ¬ ratio → Refuses (.bridgeZero t rq) t s rq 0x0602 0x020C (atIndex 0xFFFF))
          ∧ (ch < 256 → 16 ≤ n → ratio → s.jobsRunning < 16 →
            ∃ id v, newJob 0x0602 0 (.bridgeZero ch n 0 0 0) u = some (id, v)
              ∧ Answers (.bridgeZero t rq) s rq 0x0602 3 0 (beBytes 2 id) v)
          ∧ (ch < 256 → 16 ≤ n → ratio → 16 ≤ s.jobsRunning →
            Refuses (.bridgeZero t rq) t s rq 0x0602 0x0502 (atIndex 0xFFFF)))
      ∧ (∀ job ch n used skipped sum, s.jobWork job = some (.bridgeZero ch n used skipped sum) →
        let v := { u with free := s.free + 1 }
        let mean := if used = 0 then Config.freeWord s.free else f32Of64 (f64Div sum (f64OfInt used))
        let result := beWord mean ++ beBytes 4 used ++ beBytes 4 skipped
        (n ≤ used + skipped → 2 * used < n → exec (.bridgeZeroDone t job) s = .next (endJob job 2 0x0606 result 0 v))
          ∧ (n ≤ used + skipped → n ≤ 2 * used → exec (.bridgeZeroDone t job) s = .next (endJob job 1 0 result 0 v))
          ∧ (used + skipped < n → exec (.bridgeZeroDone t job) s = .next u))
      ∧ (∀ pod n mask samples (levels : List Int), s.Takes rq (· == .service) → s.hub.role ≠ .standby → pod < 16 →
        s.podCut pod = false → (n = 0 ∧ levels = []) ∨ (2 ≤ n ∧ n ≤ 8 ∧ levels.length = n) →
        (∀ l ∈ levels, l.natAbs ≤ 31129) → 0 < samples → samples ≤ 1024 → mask < 2 ^ 16 →
        rq.payload = beBytes 1 pod ++ beBytes 1 n ++ beBytes 2 mask ++ beBytes 2 samples ++ zeros 2
          ++ levels.flatMap (beSigned 2) →
        let chs := maskChans pod mask
        let from_ := clockFine ((chs.map fun ch => switchClock s.cfg.active ch u.clk.loom).foldl max 0)
        (chs.any s.underTest = true → Refuses (.pathTest t rq) t s rq 0x0205 0x0108 (atIndex 0xFFFF))
          ∧ (chs.any s.underTest = false → s.reedFits (pod / 4) chs = false →
            Refuses (.pathTest t rq) t s rq 0x0205 0x0208 (atIndex 0xFFFF))
          ∧ (chs.any s.underTest = false → s.reedFits (pod / 4) chs = true → s.freeBus = none →
            Refuses (.pathTest t rq) t s rq 0x0205 0x0203 (atIndex 0xFFFF))
          ∧ ∀ b, chs.any s.underTest = false → s.reedFits (pod / 4) chs = true → s.freeBus = some b →
            s.jobsRunning < 16 →
            let p : PathTest := { pod, mask, samples, levels := if n = 0 then defaultLevels else levels, bus := b, since := from_ }
            ∃ id v, newJob 0x0205 0 (.pathTest p) u = some (id, v)
              ∧ Answers (.pathTest t rq) s rq 0x0205 3 0 (beBytes 2 id) (testBegin chs v)
              ∧ ∀ ch ∈ chs, ((testBegin chs v).chan ch).testFrom.isSome = true
                ∧ ∀ d, d < 4 → ((testBegin chs v).lead ch d).state = 0)
      ∧ (∀ job p slots husks, s.jobWork job = some (.pathTest p) → p.levels.length ≤ p.level →
        s.recovered (maskChans p.pod p.mask) = true →
        Does (.pathTestDone t job slots husks) s fun s' => ∃ j, findJob job s' = some j ∧ j.state = 1 ∧ j.reason = 0
          ∧ j.ended = some u.clk.loom ∧ j.result.length = 256
          ∧ (∀ sl, sl < 16 → nbit p.mask sl = false → slice j.result (16 * sl) 16 = beBytes 1 0xFF ++ zeros 15)
          ∧ (∀ sl, sl < 16 → nbit p.mask sl = true → slice j.result (16 * sl) 16
            = pathResult (slotRange (s.cfg.active.slot (16 * p.pod + sl))) p.reads (p.slots.get sl).done (s.free + 3 * sl))
          ∧ s'.filt = s.filt ∧ s'.hed = s.hed ∧ s'.hub = s.hub ∧ s'.cfg = s.cfg ∧ s'.cal = s.cal ∧ s'.trd = s.trd
          ∧ s'.drv = s.drv ∧ s'.clk = u.clk)
      ∧ (∀ (p : PathTest) (m : PMem) (ch : Nat) (tau raw : Int) (now : Nat), podOf ch = p.pod → nbit p.mask (ch % 16) = true → p.level < p.levels.length →
        (tau < p.since + fineOf (usLoom 10) → p.feed m ch tau raw now = p)
          ∧ (p.since + fineOf (usLoom 10) ≤ tau → p.level < (p.feed m ch tau raw now).asked
            ∧ (p.feed m ch tau raw now).reads = p.reads
            ∧ (p.reads.length ≤ p.level → (p.feed m ch tau raw now).level = p.level)))
      ∧ ∀ job slots husks, (∀ p, s.jobWork job = some (.pathTest p) → p.level < p.levels.length
          ∨ s.recovered (maskChans p.pod p.mask) = false) →
        exec (.pathTestDone t job slots husks) s = .next u

/-- R262 to R269, R274, R275: CAL_RUN begins a job on its slots; once they have returned and recovered, each part's
result is judged and, where it passes, waits among the pending results. CAL_COMMIT stages them all under the next
calibration number and writes the copies; CAL_DISCARD drops them. Rests on the readings and choices of log entries 27,
34, 84. -/
def Obligations.CalibrationRunsAndCommits : Prop :=
  ∀ (s : State) (t : Nat) (rq : Req),
    let u := tick t s
    let m := s.cfg.active
    (∀ kind pod mask range anchor src n h, s.Takes rq (· == .service) → s.hub.role ≠ .standby → 0 < kind → kind ≤ 5 →
        pod < 16 → mask < 2 ^ 16 → range ≤ 4 ∨ range = 0xFF → anchor < 2 ^ 8 → n < 2 ^ 32 → h < 2 ^ 16 →
        (kind = 5 ∧ (src ≤ 4 ∨ src = 8 ∨ src = 9)) ∨ (kind ≠ 5 ∧ src = 0) → s.podCut pod = false →
        rq.payload = beBytes 1 kind ++ beBytes 1 pod ++ beBytes 2 mask ++ beBytes 1 range ++ beBytes 1 anchor
          ++ beBytes 1 src ++ zeros 1 ++ beBytes 4 n ++ beBytes 2 h ++ zeros 2 →
        let chs := runChans kind pod mask anchor
        let half := if h = 0 then 32 else h
        let count := if n = 0 then (if kind = 2 then 65536 else 4096) else n
        let settled := (∀ ch ∈ chs, 2 * settleS m ch ≤ half) ∧ 16 ≤ count / (2 * half) * 2
        let clash := ∃ j ∈ s.liveJobs, runConflict kind pod mask anchor j.2.work = true
        let reference := (∃ k, k < 40 ∧ role (m.thread pod k) = 8) ∧ ∃ k, k < 40 ∧ role (m.thread pod k) = 9
        (¬ settled → Refuses (.calRun t rq) t s rq 0x0701 0x0301 (atIndex 0xFFFF))
          ∧ (settled → clash → Refuses (.calRun t rq) t s rq 0x0701 0x0108 (atIndex 0xFFFF))
          ∧ (settled → ¬ clash → kind = 2 ∨ kind = 4 → s.freeBus = none →
            Refuses (.calRun t rq) t s rq 0x0701 0x0203 (atIndex 0xFFFF))
          ∧ ∀ bus, settled → ¬ clash → (kind = 3 → m.refAc = true → ∀ ch ∈ maskChans pod mask,
              m.refFreq * m.cycle (m.group ch) ≤ 2 * m.count (m.group ch)) →
            ((kind = 2 ∨ kind = 4) ∧ s.freeBus = some bus) ∨ (¬ (kind = 2 ∨ kind = 4) ∧ bus = 8) →
            (kind = 3 ∨ (kind = 5 ∧ src ≤ 4) → reference) → (4 ≤ kind → s.anchorOk anchor = true) →
            (kind = 4 → ∀ ch ∈ maskChans pod mask,
              ((runRange m 4 range anchor ch : Int) - slotRange (m.slot anchor)).natAbs ≤ 1) →
            (kind = 5 → if src ≤ 4 then ixEn (m.ix pod src) = true else bitAt (m.vx pod (src - 8)) 31 = true) →
            (∀ d, d < 4 → s.reedFits d chs = true) → s.jobsRunning < 16 →
            let r : CalRun := { kind, pod, mask, range, anchor, source := src, count := count / (2 * half) * (2 * half), half, bus }
            ∃ id v, newJob 0x0701 0 (.calRun r) u = some (id, v)
              ∧ Answers (.calRun t rq) s rq 0x0701 3 0 (beBytes 2 id)
                (chs.foldl (lendSlot fun m ch => runRange m kind range anchor ch) v))
      ∧ (∀ job r husks, s.jobWork job = some (.calRun r) → r.returned = true → s.recovered r.chans = true →
        Does (.calRunDone t job husks) s fun s' =>
          (∃ j, findJob job s' = some j ∧ j.state = 1 ∧ j.ended = some u.clk.loom ∧ j.result.length = 48 * r.judged.length)
            ∧ (∀ q, q ≠ r.pod → s'.cal.pending.get q = s.cal.pending.get q)
            ∧ s'.cal.entries = s.cal.entries ∧ s'.cal.seq = s.cal.seq ∧ s'.hub = s.hub ∧ s'.cfg = s.cfg ∧ s'.filt = s.filt
            ∧ s'.trd = s.trd ∧ s'.drv = s.drv ∧ s'.clk = u.clk)
      ∧ (∀ job r husks ch, s.jobWork job = some (.calRun r) → r.returned = true → s.recovered r.chans = true → r.judged = [ch] →
        let xs := s.runStats r ch
        let v := s.judge r (r.parts.get ch) xs
        let key := if r.kind = 5 then srcKey r.pod r.source else calKey ch (runRange m r.kind r.range r.anchor ch)
        Does (.calRunDone t job husks) s fun s' =>
          (∃ j, findJob job s' = some j ∧ beAt j.result 1 1 = (if v.2 = 0 then 0 else 1) ∧ beAt j.result 2 2 = v.2 % 2 ^ 16
            ∧ ∀ x, xs.head? = some x →
              slice j.result 4 4 = beWord (f32Of64 x.est) ∧ slice j.result 8 4 = beWord (f32Of64 x.conf))
          ∧ (v.2 ≠ 0 → s'.cal.pending = s.cal.pending)
          ∧ (v.2 = 0 → s'.cal.pending.get r.pod = s.cal.pending.get r.pod ++ xs.map fun x =>
            { key, term := x.term, value := x.est, conf := x.conf, temp := s.runTemp r, beat := s.clk.beat
              modulator := s.serving key }))
      ∧ (∀ job husks, (∀ r, s.jobWork job = some (.calRun r) → r.returned = false ∨ s.recovered r.chans = false) →
        exec (.calRunDone t job husks) s = .next u)
      ∧ (s.Takes rq stReadyService → s.hub.role ≠ .standby → rq.payload = [] →
        let n := (s.pendingPods.map fun p => (s.cal.pending.get p).length).sum
        Answers (.calDiscard t rq) s rq 0x0703 0 0 (beBytes 2 n) { u with cal := { s.cal with pending := [] } }
          ∧ (s.pendingMove ≠ none → Refuses (.calCommit t rq) t s rq 0x0702 0x0107 (atIndex 0xFFFF))
          ∧ (s.pendingMove = none → s.calStaged = true → Refuses (.calCommit t rq) t s rq 0x0702 0x0108 (atIndex 0xFFFF))
          ∧ (s.pendingMove = none → s.calStaged = false → s.pendingPods = [] →
            Answers (.calCommit t rq) s rq 0x0702 0 0 (beBytes 8 s.clk.beat ++ beBytes 4 s.cal.seq) u)
          ∧ (s.pendingMove = none → s.calStaged = false → s.pendingPods ≠ [] → ∃ ok : Bool,
            Does (.calCommit t rq) s fun s' =>
              let seq := (s.cal.seq + 1) % 2 ^ 32
              let rs := s.pendingPods.flatMap s.cal.pending.get
              let es := applyResults s.serving m.pointTol rs s.cal.entries
              let copy : CalCopy := { valid := true, seq, entries := es }
              let both := s.cal.rejected = true ∨ (s.cal.copyA.valid = false ∧ s.cal.copyB.valid = false)
              Answered rq 0x0702 1 (if ok then 0 else 0x0406) (beBytes 8 u.due ++ beBytes 4 seq) s'
                ∧ s'.cal.seq = seq ∧ s'.cal.pending = [] ∧ s'.cal.committed = rs ∧ s'.cal.entries = s.cal.entries
                ∧ { change := .calSet s.pendingPods, due := u.due, cmd := 0x0702, mb := rq.mb, seq := rq.seq : Staged }
                  ∈ s'.cfg.staged
                ∧ (ok = true → both → s'.cal.copyA = copy ∧ s'.cal.copyB = copy)
                ∧ (ok = true → ¬ both → s.cal.inB = true → s'.cal.copyA = copy ∧ s'.cal.copyB = s.cal.copyB)
                ∧ (ok = true → ¬ both → s.cal.inB = false → s'.cal.copyB = copy ∧ s'.cal.copyA = s.cal.copyA)
                ∧ (ok = false → s'.cal.copyA = s.cal.copyA ∧ s'.cal.copyB = s.cal.copyB)
                ∧ s'.sh.alarms.contains 12 = !ok
                ∧ s'.cfg.force = s.cfg.force ∧ s'.cfg.active = s.cfg.active ∧ s'.hub = s.hub ∧ s'.hed = s.hed
                ∧ s'.filt = s.filt ∧ s'.trd = s.trd ∧ s'.drv = s.drv ∧ s'.clk = u.clk))

/-! ### Reads of the engines and of the system -/

/-- R311, R337, R338, R352, R368: what the reads of the Treadle, the drivers and the Weft answer; PORT_STATUS clears
where it is asked to, and STORE_STATUS starts the highest fill anew. Rests on the readings and choices of log entries
14, 55, 94, 109. -/
def Obligations.EngineReadsAnswer : Prop :=
  ∀ (s : State) (t : Nat) (rq : Req), s.Takes rq stRead →
    let u := tick t s
    let m := s.cfg.active
    (rq.payload = [] →
      Reads (.treadleStatus t rq) t s rq 0x0800 (fun p => p.length = 144 ∧ ∀ q, q < 4 →
          let x := (s.trd.seqs.get q).absorb u.clk.loom
          beAt p (36 * q) 1 = b2n x.armed ∧ beAt p (36 * q + 1) 1 = x.state % 2 ^ 8
            ∧ beAt p (36 * q + 4) 4 = x.coin % 2 ^ 32 ∧ beAt p (36 * q + 8) 4 = x.taken % 2 ^ 32
            ∧ (∀ k, k < 4 → beAt p (36 * q + 12 + 4 * k) 4 = x.counters.get k % 2 ^ 32
              ∧ nbit (beAt p (36 * q + 28) 1) k = (x.timers.get k).running)
            ∧ beAt p (36 * q + 30) 2 = x.coalesced % 2 ^ 16 ∧ beAt p (36 * q + 32) 4 = m.seqLSns q % 2 ^ 32)
        ∧ Reads (.compStatus t rq) t s rq 0x0805 (fun p => p.length = 512 ∧ ∀ c, c < 32 → let x := s.trd.comps.get c
          beAt p (16 * c) 1 = (if compEn (m.comp c 0) then 1 + b2n x.result else 0)
            ∧ beAt p (16 * c + 2) 2 = x.onsets % 2 ^ 16 ∧ slice p (16 * c + 4) 4 = beWord x.lastValue
            ∧ beAt p (16 * c + 8) 8 = x.lastChange % 2 ^ 64)
        ∧ Reads (.tioStatus t rq) t s rq 0x0806 (fun p => p.length = 192 ∧ ∀ n, n < 16 → let x := s.trd.tios.get n
          beAt p (12 * n) 1 = b2n x.level ∧ beAt p (12 * n + 2) 2 = x.rejects % 2 ^ 16
            ∧ beAt p (12 * n + 4) 8 = x.last % 2 ^ 64)
        ∧ Reads (.loopStatus t rq) t s rq 0x0900 (fun p => p.length = 320 ∧ ∀ n, n < 16 → let l := s.drv.loops.get n
          beAt p (20 * n) 1 = l.sel % 2 ^ 8 ∧ beAt p (20 * n + 1) 1 = u.loopState n
            ∧ slice p (20 * n + 4) 4 = beWord (f32Of64 l.amps)
            ∧ slice p (20 * n + 8) 4 = beWord (f32Of64 (s.loopReadback n))
            ∧ slice p (20 * n + 12) 4 = beWord (s.conv.hk.get (n * 16 + 12))
            ∧ beAt p (20 * n + 16) 2 = l.clamps % 2 ^ 16 ∧ beAt p (20 * n + 18) 2 = l.conflicts % 2 ^ 16)
        ∧ ∃ p : Bytes, p.length = 28 ∧ beAt p 0 4 = s.poolSize % 2 ^ 32 ∧ beAt p 4 4 = u.retained % 2 ^ 32
          ∧ beAt p 8 2 = min u.fill 0xFFFF ∧ beAt p 10 2 = min (max s.weft.highFill u.fill) 0xFFFF
          ∧ beAt p 12 4 = s.weft.releases % 2 ^ 32 ∧ beAt p 16 4 = s.weft.gapNotices % 2 ^ 32
          ∧ Answers (.storeStatus t rq) s rq 0x0A02 0 0 p { u with weft := { s.weft with highFill := u.fill } })
      ∧ (∀ n, n < 2 ^ 8 → rq.payload = beBytes 1 n ++ zeros 1 →
        let b := s.trd.bobs.get n
        let x := (s.drv.stims.get n).settle u.clk.loom
        let st := if stimMode (m.stimW n 0) = 0 then 0 else x.state
        let h := s.weft.ports.get n
        (n < 8 → Reads (.bobbinStatus t rq) t s rq 0x0804 fun p => p.length = 40
          ∧ beAt p 0 1 = (if m.bobEn n = false then 0 else if b.running = false then 1 else if b.inRearm u.clk.loom then 3 else 2)
          ∧ beAt p 4 4 = b.taken % 2 ^ 32 ∧ beAt p 8 4 = b.missed % 2 ^ 32 ∧ beAt p 12 4 = b.full % 2 ^ 32
          ∧ beAt p 28 4 = b.lastRecord % 2 ^ 32 ∧ beAt p 32 8 = b.lastTrigger % 2 ^ 64)
        ∧ (8 ≤ n → Refuses (.bobbinStatus t rq) t s rq 0x0804 0x0306 (atIndex n))
        ∧ (n < 16 → s.podCut n = true → Refuses (.stimStatus t rq) t s rq 0x0903 0x0105 (atIndex n))
        ∧ (n < 16 → s.podCut n = false → Reads (.stimStatus t rq) t s rq 0x0903 fun p => p.length = 32
          ∧ (st = 0 → beAt p 0 1 = 0) ∧ (st ≠ 0 → x.compliance = true → beAt p 0 1 = 5)
          ∧ (x.compliance = false → beAt p 0 1 = st % 2 ^ 8) ∧ beAt p 4 4 = x.point % 2 ^ 32
          ∧ beAt p 8 2 = x.passes % 2 ^ 16 ∧ beAt p 10 2 = x.clamps % 2 ^ 16 ∧ slice p 12 4 = beWord x.target
          ∧ slice p 16 4 = beWord x.output ∧ slice p 20 4 = beWord x.current ∧ beAt p 24 8 = x.start % 2 ^ 64)
        ∧ (n < 2 → Reads (.ptpStatus t rq) t s rq 0x0A05 fun p => p.length = 40 ∧ beAt p 0 1 = s.ptpState n
          ∧ (∀ a, h.announce = some a → beAt p 4 8 = a.grandmaster % 2 ^ 64 ∧ beAt p 12 10 = a.source % 2 ^ 80
            ∧ beAt p 24 2 = a.steps % 2 ^ 16)
          ∧ beAt p 28 4 = h.meanPath % 2 ^ 32 ∧ slice p 32 4 = beSigned 4 h.ptpOffset ∧ beAt p 36 4 = h.syncs % 2 ^ 32))
      ∧ (∀ n clear, n < 2 → clear < 2 → rq.payload = beBytes 1 n ++ beBytes 1 clear →
        let h := s.weft.ports.get n
        ∃ (p : Bytes) (ports : Tab HPort), p.length = 56
          ∧ beAt p 0 1 = (if m.portEn n = false then 0 else if h.link then 2 else 1) ∧ beAt p 8 2 = h.linkUps % 2 ^ 16
          ∧ beAt p 12 4 = h.sent % 2 ^ 32 ∧ beAt p 16 4 = h.received % 2 ^ 32 ∧ beAt p 20 4 = h.discarded % 2 ^ 32
          ∧ beAt p 52 4 = h.tc0Late % 2 ^ 32
          ∧ Answers (.portStatus t rq) s rq 0x0A00 0 0 p { u with weft := { s.weft with ports := ports } }
          ∧ ∀ k, ports.get k = if clear = 1 ∧ k = n then { h with
              linkUps := 0, sent := 0, received := 0, discarded := 0, pauses := 0, ackDiscards := 0, ackIgnored := 0
              arpWaits := 0, icmpAnswered := 0, icmpDiscards := 0, tc0Sent := 0, tc0Late := 0 } else s.weft.ports.get k)
      ∧ (∀ f, f < 16 → rq.payload = beBytes 2 f →
        let held := s.weft.pool.filter fun x => x.flow == f && !(x.over u.clk.loom)
        let st := s.weft.streams.get f
        Reads (.streamStatus t rq) t s rq 0x0A01 fun p => p.length = 40 ∧ beAt p 0 1 = s.flowState f
          ∧ beAt p 4 4 = st.nextSeq % 2 ^ 32 ∧ (∀ x, held.head? = some x → beAt p 8 4 = x.seq % 2 ^ 32)
          ∧ (∀ a, st.newestAck = some a → beAt p 12 4 = a % 2 ^ 32) ∧ beAt p 16 4 = held.length % 2 ^ 32
          ∧ beAt p 24 4 = st.retx % 2 ^ 32 ∧ beAt p 28 4 = st.released % 2 ^ 32)
      ∧ (∀ f, flowOk f = false → f < 2 ^ 16 → rq.payload = beBytes 2 f →
        Refuses (.streamStatus t rq) t s rq 0x0A01 0x0306 (atIndex f))
      ∧ ∀ back count, s.weft.notices.length ≤ 1024 → s.weft.nextNotice < 2 ^ 32 → 0 < count → count ≤ 41 → back < 2 ^ 31 →
        (∀ n ∈ s.weft.notices, n.tail.length = 12) →
        rq.payload = beBytes 4 ((s.weft.nextNotice + 2 ^ 32 - back) % 2 ^ 32) ++ beBytes 1 count ++ zeros 3 →
        Reads (.noticeRead t rq) t s rq 0x0A04 fun p =>
          let held := min back s.weft.notices.length
          let k := min count held
          p.length = 8 + 24 * k ∧ beAt p 0 4 = (s.weft.nextNotice + 2 ^ 32 - 1) % 2 ^ 32 ∧ beAt p 4 1 = k
            ∧ ∀ i n, i < k → s.weft.notices[held - 1 - i]? = some n → slice p (8 + 24 * i) 24 = noticeBytes n

/-- R390, R391, R416, R417, R448, R449, R464, R465: what the reads of the Winnow, of integrity, of the pair, of power
and of the seed bank answer, and what they clear where they are asked to; the highest backlog starts anew from the one
that stands. WINNOW_PROBE compresses the bytes it is given, while D1 is on. Rests on the readings and choices of log
entries 14, 55, 90, 122, 123. -/
def Obligations.SystemReadsAnswer : Prop :=
  ∀ (s : State) (t : Nat) (rq : Req), s.Takes rq stRead →
    let u := tick t s
    let w := s.win
    let g := s.itg
    let p := s.pair
    (∀ clear, clear < 2 → rq.payload = beBytes 1 clear ++ zeros 1 →
      (∃ b : Bytes, b.length = 68 ∧ beAt b 0 4 = s.backlog % 2 ^ 32 ∧ beAt b 4 4 = max w.high s.backlog % 2 ^ 32
          ∧ beAt b 8 1 = b2n w.forcing ∧ beAt b 9 1 = b2n w.job.isSome ∧ beAt b 12 8 = w.bytesIn % 2 ^ 64
          ∧ beAt b 20 8 = w.bytesOut % 2 ^ 64 ∧ (∀ k, k < 10 → beAt b (28 + 4 * k) 4 = w.counters.get k % 2 ^ 32)
          ∧ Answers (.winnowStatus t rq) s rq 0x0B00 0 0 b { u with win := if clear = 1
            then { w with high := s.backlog, bytesIn := 0, bytesOut := 0, counters := [] } else { w with high := s.backlog } })
        ∧ (∃ b : Bytes, b.length = 52 ∧ beAt b 0 4 = g.corrected % 2 ^ 32 ∧ beAt b 4 4 = g.uncorrectable % 2 ^ 32
          ∧ beAt b 8 4 = g.passes % 2 ^ 32 ∧ beAt b 16 8 = g.lastBad % 2 ^ 64 ∧ beAt b 24 2 = g.rows % 2 ^ 16
          ∧ beAt b 26 2 = g.husks % 2 ^ 16 ∧ (∀ k, k < 8 → beAt b (36 + 2 * k) 2 = g.mismatches.get k % 2 ^ 16)
          ∧ Answers (.integrityStatus t rq) s rq 0x0C00 0 0 b { u with itg := if clear = 1
            then { g with corrected := 0, uncorrectable := 0, passes := 0, rows := 0, husks := 0, svRepeats := 0
                          svMissing := 0, svStale := 0, mismatches := [] } else g })
        ∧ (∃ (b : Bytes) (xs : Tab Crossing), b.length = 96
          ∧ (∀ k, k < 12 → beAt b (8 * k) 2 = (g.crossings.get k).merged % 2 ^ 16
            ∧ beAt b (8 * k + 2) 2 = (g.crossings.get k).restarts % 2 ^ 16
            ∧ beAt b (8 * k + 4) 2 = (g.crossings.get k).stops % 2 ^ 16
            ∧ beAt b (8 * k + 6) 2 = (g.crossings.get k).dropped % 2 ^ 16)
          ∧ Answers (.crossStatus t rq) s rq 0x0C01 0 0 b { u with itg := { g with crossings := xs } }
          ∧ ∀ k, xs.get k = if clear = 1 ∧ k < 12
            then { g.crossings.get k with merged := 0, restarts := 0, stops := 0, dropped := 0 } else g.crossings.get k)
        ∧ (∃ b : Bytes, b.length = 48 ∧ beAt b 0 1 = roleCode s.hub.role ∧ beAt b 1 1 = roleCode p.partner.role
          ∧ beAt b 2 1 = stateCode p.partner.state ∧ nbit (beAt b 3 1) 7 = s.able ∧ nbit (beAt b 3 1) 5 = p.inSync
          ∧ nbit (beAt b 3 1) 4 = p.linkUp ∧ nbit (beAt b 3 1) 1 = p.detached ∧ beAt b 6 2 = s.cfg.active.pairId % 2 ^ 16
          ∧ beAt b 8 8 = p.snapBeat % 2 ^ 64 ∧ (∀ k, k < 6 → beAt b (28 + 2 * k) 2 = p.counters.get k % 2 ^ 16)
          ∧ Answers (.pairStatus t rq) s rq 0x0D00 0 0 b
            { u with pair := if clear = 1 then { p with counters := [] } else p })
        ∧ ∃ (b : Bytes) (domains : Tab Domain) (rails : Tab Rail), b.length = 64
          ∧ (∀ k, k < 8 → beAt b (4 * k) 1 = (s.pow.domains.get k).state % 2 ^ 8
            ∧ beAt b (4 * k + 2) 2 = (s.pow.domains.get k).losses % 2 ^ 16
            ∧ beAt b (32 + 4 * k) 1 = (s.pow.rails.get k).state % 2 ^ 8
            ∧ beAt b (34 + 4 * k) 2 = (s.pow.rails.get k).excursions % 2 ^ 16)
          ∧ Answers (.powerStatus t rq) s rq 0x0E00 0 0 b { u with pow := { s.pow with domains := domains, rails := rails } }
          ∧ ∀ k, domains.get k = (if clear = 1 ∧ k < 8 then { s.pow.domains.get k with losses := 0 } else s.pow.domains.get k)
            ∧ rails.get k = if clear = 1 ∧ k < 8 then { s.pow.rails.get k with excursions := 0 } else s.pow.rails.get k)
      ∧ (∀ clear, 2 ≤ clear → clear < 2 ^ 8 → rq.payload = beBytes 1 clear ++ zeros 1 →
        ∀ c ∈ [(Instr.winnowStatus t rq, 0x0B00), (.integrityStatus t rq, 0x0C00), (.crossStatus t rq, 0x0C01),
          (.pairStatus t rq, 0x0D00), (.powerStatus t rq, 0x0E00)], Refuses c.1 t s rq c.2 0x0301 (atIndex 0xFFFF))
      ∧ (rq.payload = [] → Reads (.seedStatus t rq) t s rq 0x0E02 fun b =>
        b.length = 60 + 8 * min 32 s.pow.worn.length
          ∧ (∀ k, k < 7 → beAt b (8 * k) 2 = spareTotal k ∧ beAt b (8 * k + 2) 2 = s.pow.used.get k % 2 ^ 16)
          ∧ (∀ d, d < 4 → beAt b (56 + d) 1 = s.lanesInUse d)
          ∧ ∀ i x, i < 32 → s.pow.worn[i]? = some x → slice b (60 + 8 * i) 8
            = beBytes 1 x.kind ++ beBytes 1 x.pod ++ beBytes 2 x.idx ++ beBytes 1 x.state ++ zeros 3)
      ∧ ∀ effort huff (data : Bytes), effort < 8 → huff < 4 → data ≠ [] → data.length ≤ 992 →
        rq.payload = beBytes 1 effort ++ beBytes 1 huff ++ beBytes 2 data.length ++ data →
        (s.domOn 1 = true → Reads (.winnowProbe t rq) t s rq 0x0B01 fun b =>
          b = beBytes 1 (deflate data effort huff).1 ++ zeros 1 ++ beBytes 2 (deflate data effort huff).2.length
            ++ (deflate data effort huff).2)
          ∧ (s.domOn 1 = false → Refuses (.winnowProbe t rq) t s rq 0x0B01 0x0105 (atIndex 0xFFFF))

/-! ### The Treadle -/

/-- R18, R281 to R299, R301, R311, R312: arming, disarming and forced records; pins and their deglitch time; an
evaluation of a sequencer takes the first true transition of its state, with its counter and timer actions; records
start by force and by AUTO, and are complete once their last sample is formed. Rests on the readings and choices of
log entries 95, 96, 97, 98, 143. -/
def Obligations.TreadleActs : Prop :=
  ∀ (s : State) (t : Nat) (rq : Req),
    let u := tick t s
    let m := s.cfg.active
    (∀ mask, s.Takes rq stRun → s.hub.role ≠ .standby → mask < 16 → rq.payload = beBytes 1 mask ++ zeros 1 →
        Stages (.treadleArm t rq) t s rq 0x0801 (.arm mask) [] u
          ∧ Stages (.treadleDisarm t rq) t s rq 0x0802 (.disarm mask) [] u)
      ∧ (∀ at_ beat mask (c : Staged), mask < 16 → s.hub.state = .run →
        (c.change = .arm mask → let s' := applyOther at_ beat s c
          (∀ q, q < 4 → nbit mask q = true → s'.trd.seqs.get q
              = { armed := true, armedAt := at_, state := fld (m.seqHead q) 19 16, taken := (s.trd.seqs.get q).taken
                  coalesced := (s.trd.seqs.get q).coalesced })
            ∧ (∀ q, nbit mask q = false → s'.trd.seqs.get q = s.trd.seqs.get q)
            ∧ ∀ b, b < 8 → (∃ q, nbit mask q = true ∧ m.feeds q b = true) →
              (s'.trd.bobs.get b).running = true ∧ (s'.trd.bobs.get b).history = []
                ∧ (s'.trd.bobs.get b).start = m.gridAt (m.bobGroup b) at_)
        ∧ (c.change = .disarm mask → let s' := applyOther at_ beat s c
          (∀ q, q < 4 → nbit mask q = true → (s'.trd.seqs.get q).armed = false)
            ∧ (∀ q, nbit mask q = false → s'.trd.seqs.get q = s.trd.seqs.get q)
            ∧ ∀ b, b < 8 → (∃ q, nbit mask q = true ∧ m.feeds q b = true) → (s'.trd.bobs.get b).running = false))
      ∧ (∀ b, s.Takes rq stRun → s.hub.role ≠ .standby → b < 8 → rq.payload = beBytes 1 b ++ zeros 1 →
        let x := s.trd.bobs.get b
        let trig := m.gridAt (m.bobGroup b) u.clk.loom
        let fed := m.bobEn b = true ∧ s.armedFeeds b = true
        (¬ fed → Refuses (.treadleForce t rq) t s rq 0x0803 0x0101 (atIndex b))
          ∧ (fed → x.inRearm trig = true → Refuses (.treadleForce t rq) t s rq 0x0803 0x0108 (atIndex b))
          ∧ (fed → x.inRearm trig = false → s.freeSlots m b = 0 →
            Refuses (.treadleForce t rq) t s rq 0x0803 0x0505 (atIndex b))
          ∧ (fed → x.inRearm trig = false → s.freeSlots m b ≠ 0 → Does (.treadleForce t rq) s fun s' =>
            Answered rq 0x0803 0 0 (beBytes 8 trig ++ beBytes 4 x.nextRecord) s'
              ∧ (∃ r, (s'.trd.bobs.get b).records = x.records ++ [r] ∧ r.number = x.nextRecord ∧ r.trigger = trig
                ∧ nbit r.flags 2 = true ∧ r.complete = false)
              ∧ (s'.trd.bobs.get b).taken = inc32 x.taken ∧ (s'.trd.bobs.get b).lastTrigger = trig
              ∧ (s'.trd.bobs.get b).nextRecord = (x.nextRecord + 1) % 2 ^ 32
              ∧ (∀ k, k ≠ b → s'.trd.bobs.get k = s.trd.bobs.get k) ∧ s'.trd.seqs = s.trd.seqs
              ∧ s'.weft.nextNotice = (s.weft.nextNotice + 1) % 2 ^ 32 ∧ s'.hub = s.hub ∧ s'.cfg = s.cfg ∧ s'.filt = s.filt
              ∧ s'.drv = s.drv ∧ s'.warp = s.warp ∧ s'.clk = u.clk))
      ∧ (∀ pin level,
        let x := s.trd.tios.get pin
        let put := fun (y : Tio) => exec (.tioInputChange t pin level) s
          = .next { u with trd := { s.trd with tios := s.trd.tios.set pin y } }
        let w := m.tio pin
        let works := tioEn w = true ∧ s.domOn 1 = true
        (¬ works → put { x with ball := level })
          ∧ (works → (level != tioInv w) = x.level → x.since ≠ none →
            put { x with ball := level, since := none, rejects := inc16 x.rejects })
          ∧ (works → (level != tioInv w) = x.level → x.since = none → put { x with ball := level })
          ∧ (works → (level != tioInv w) ≠ x.level → x.since = none →
            put { x with ball := level, since := some u.clk.loom })
          ∧ (works → (level != tioInv w) ≠ x.level → x.since ≠ none → put { x with ball := level }))
      ∧ (∀ pin v, (s.trd.tios.get pin).since = some v →
        let x := s.trd.tios.get pin
        let held := tioEn (m.tio pin) = true ∧ s.domOn 1 = true ∧ v + nsLoom (fld (m.tio pin) 15 0 * 20) ≤ u.clk.loom
        (held → Does (.tioLevelAccepted t pin) s fun s' =>
          s'.trd.tios.get pin = { x with
              level := !x.level, since := none, last := u.clk.loom, history := (u.clk.loom, !x.level, true) :: x.history }
            ∧ (∀ k, k ≠ pin → s'.trd.tios.get k = s.trd.tios.get k)
            ∧ (∀ q, q < 4 → (s.trd.seqs.get q).armed = true → (s.trd.seqs.get q).armedAt ≤ u.clk.loom →
              (s'.trd.seqs.get q).dated = (s.trd.seqs.get q).dated ++ ((List.range 4).filter fun k =>
                m.cntSrc q k == (if x.level then 0x20 + pin else 0x10 + pin) || m.cntSrc q k == 0x30 + pin).map
                  fun k => (k, u.clk.loom))
            ∧ (∀ q, (s.trd.seqs.get q).armed = false → s'.trd.seqs.get q = s.trd.seqs.get q)
            ∧ ∃ tios seqs, s' = { u with trd := { s.trd with tios := tios, seqs := seqs } })
          ∧ (¬ held → exec (.tioLevelAccepted t pin) s = .next u))
      ∧ (∀ pin, (s.trd.tios.get pin).since = none → exec (.tioLevelAccepted t pin) s = .next u)
      ∧ (∀ q k, exec (.treadleTimerExpiry t q k) s = .next u ∧ exec (.treadleCounterReached t q k) s = .next u)
      ∧ (∀ q inst,
        let m := s.cfgAt inst
        let y := s.trd.seqs.get q
        let x := y.absorb inst
        let used := x.events.filter fun e => decide (x.armedAt ≤ e.stamp ∧ e.stamp ≤ inst)
        let trues := u.trueTrans m { q, inst, prev := x.last, seq := x, used }
        let ready := y.armed = true ∧ s.hub.state = .run ∧ s.hub.role ≠ .standby ∧ y.armedAt ≤ inst
          ∧ (∀ l, y.last = some l → l < inst) ∧ m.onGrid (m.clkGroup q) inst = true ∧ inst + m.seqLS q ≤ u.clk.loom
        (q < 4 → ready → Does (.sequencerEvaluation t q inst) s fun s' =>
          (s'.trd.seqs.get q).last = some inst
            ∧ (trues = [] → (s'.trd.seqs.get q).state = x.state ∧ (s'.trd.seqs.get q).taken = x.taken
              ∧ (s'.trd.seqs.get q).coin = x.coin ∧ (s'.trd.seqs.get q).counters = x.counters
              ∧ (s'.trd.seqs.get q).timers = x.timers)
            ∧ (∀ i r, trues = i :: r →
              (s'.trd.seqs.get q).state = trNext (m.trans q x.state i 0) ∧ (s'.trd.seqs.get q).taken = inc32 x.taken
                ∧ (s'.trd.seqs.get q).coin = (if r = [] then x.coin else inc32 x.coin)
                ∧ (s'.trd.seqs.get q).counters = (counterOps m q (m.trans q x.state i 1) inst x).counters
                ∧ (s'.trd.seqs.get q).timers = (counterOps m q (m.trans q x.state i 1) inst x).timers)
            ∧ (∀ k, k ≠ q → (s'.trd.seqs.get k).state = (s.trd.seqs.get k).state
              ∧ (s'.trd.seqs.get k).armed = (s.trd.seqs.get k).armed
              ∧ (s'.trd.seqs.get k).counters = (s.trd.seqs.get k).counters)
            ∧ s'.trd.comps = s.trd.comps ∧ s'.trd.tios = s.trd.tios ∧ s'.hub = s.hub ∧ s'.cfg = s.cfg ∧ s'.filt = s.filt
            ∧ s'.hed = s.hed ∧ s'.clk = u.clk)
          ∧ (4 ≤ q ∨ ¬ ready → exec (.sequencerEvaluation t q inst) s = .next u))
      ∧ (∀ b,
        let x := s.trd.bobs.get b
        let ms := (m.bob b 3).toNat
        let trig := m.gridAt (m.bobGroup b) (x.autoAt ms)
        let ready := b < 8 ∧ m.bobEn b = true ∧ x.running = true ∧ ms ≠ 0 ∧ s.hub.state = .run ∧ s.hub.role ≠ .standby
          ∧ x.autoAt ms ≤ u.clk.loom
        (ready → x.inRearm trig = false → s.freeSlots m b ≠ 0 → Does (.autoTimeout t b) s fun s' =>
            (∃ r, (s'.trd.bobs.get b).records = x.records ++ [r] ∧ r.number = x.nextRecord ∧ r.trigger = trig
              ∧ nbit r.flags 1 = true)
              ∧ (s'.trd.bobs.get b).taken = inc32 x.taken ∧ (∀ k, k ≠ b → s'.trd.bobs.get k = s.trd.bobs.get k)
              ∧ s'.trd.seqs = s.trd.seqs ∧ s'.hub = s.hub ∧ s'.cfg = s.cfg ∧ s'.filt = s.filt ∧ s'.clk = u.clk)
          ∧ (ready → x.inRearm trig = true → exec (.autoTimeout t b) s
            = .next { u with trd := { s.trd with bobs := s.trd.bobs.set b { x with missed := inc32 x.missed, autoFrom := trig } } })
          ∧ (¬ ready → exec (.autoTimeout t b) s = .next u)
          ∧ Does (.rearmEnd t b) s fun s' =>
            (∀ p ∈ x.rearm, u.clk.loom ≤ p.2 → p ∈ (s'.trd.bobs.get b).rearm)
              ∧ (∀ p ∈ (s'.trd.bobs.get b).rearm, p ∈ x.rearm)
              ∧ s' = { u with trd := { s.trd with
                bobs := s.trd.bobs.set b { x with rearm := (s'.trd.bobs.get b).rearm } } })
      ∧ ∀ b rec r, (s.trd.bobs.get b).records.find? (fun r => !r.complete) = some r →
        let x := s.trd.bobs.get b
        let formed := b < 8 ∧ r.number = rec ∧ s.formedAll (s.cfgAt (r.inst r.n1)) r.chans (r.inst r.n1) = true
        (formed → Does (.recordComplete t b rec) s fun s' =>
          (∃ y ys, (s'.trd.bobs.get b).latest = (u.clk.loom, y) :: ys)
            ∧ (m.recPorts = [] → (s'.trd.bobs.get b).records = x.records.filter (fun y => y.number ≠ rec)
              ∧ s'.weft = s.weft ∧ s'.itg = { s.itg with crossings := s'.itg.crossings })
            ∧ (m.recPorts ≠ [] → (∀ y ∈ x.records, y.number ≠ rec → y ∈ (s'.trd.bobs.get b).records)
              ∧ (∃ y ∈ (s'.trd.bobs.get b).records, y.number = rec ∧ y.complete = true ∧ y.trigger = r.trigger)
              ∧ ∃ fs : List WFrame, fs ≠ [] ∧ s'.weft.pool = (s.weft.pool.filter fun f => !(f.over u.clk.loom)) ++ fs
                ∧ ∀ f ∈ fs, f.flow = 0x100 + b ∧ f.recordNo = rec)
            ∧ (∀ k, k ≠ b → s'.trd.bobs.get k = s.trd.bobs.get k) ∧ s'.trd.seqs = s.trd.seqs ∧ s'.hub = s.hub
            ∧ s'.cfg = s.cfg ∧ s'.filt = s.filt ∧ s'.clk = u.clk)
          ∧ (¬ formed → exec (.recordComplete t b rec) s = .next u)

/-! ### Loop drivers and stimulus -/

/-- R314 to R319, R321 to R332, R337, R338, R500: LOOP_SET enters the configuration in force and is staged,
LOOP_SELECT is staged; each update instant is taken once, writes each driver's fallback regulator, checks its husks,
and gives a driver the current of its selected slot. Stimulus outputs start at a tick, are held from a tick on, and
follow their targets, those of MODES 2 and 3 with class 3 conversions that they ask for; tables are loaded and ended
while their domains are on, under check unit 4 (R395). Rests on the readings and choices of log entries 32, 101, 104,
138, 178, 181, 184, 203. -/
def Obligations.DriversAndStimulus : Prop :=
  ∀ (s : State) (t : Nat) (rq : Req),
    let u := tick t s
    let m := s.cfg.active
    let now := u.clk.loom
    (∀ n sl, s.Takes rq stLive → s.hub.role ≠ .standby → n < 16 → sl < 4 →
        let off := 14 * n + 3 + 3 * sl
        let on := bitAt (s.cfg.force.loopW n 0) 31 = true
        (∀ v : Word, rq.payload = beBytes 1 n ++ beBytes 1 sl ++ zeros 2 ++ huskBytes v →
          (¬ on → Refuses (.loopSet t rq) t s rq 0x0901 0x020D (atIndex n))
            ∧ (on → fld (s.cfg.force.loopSlot n sl 0) 31 30 ≠ 0 → Refuses (.loopSet t rq) t s rq 0x0901 0x0301 (atIndex n))
            ∧ (on → fld (s.cfg.force.loopSlot n sl 0) 31 30 = 0 →
              let force := s.cfg.force.putAll [(pkey 0x0900 off, v)]
              force.word 0x0900 off = v
                ∧ Answers (.loopSet t rq) s rq 0x0901 1 0 (beBytes 8 u.due ++ beBytes 4 ((s.cfg.seq + 1) % 2 ^ 32))
                  (stageAt u.due (.words [(pkey 0x0900 off, v)]) 0x0901 rq.mb rq.seq
                    { u with cfg := { s.cfg with
                      force := force, seq := (s.cfg.seq + 1) % 2 ^ 32
                      seqPast := (now, s.cfg.seq) :: s.cfg.seqPast } })))
          ∧ (rq.payload.length = 12 → huskAt rq.payload 4 = none →
            Refuses (.loopSet t rq) t s rq 0x0901 0x0401 (atIndex 0xFFFF))
          ∧ (rq.payload = beBytes 1 n ++ beBytes 1 sl → (on → Stages (.loopSelect t rq) t s rq 0x0902 (.loopSelect n sl) [] u)
            ∧ (¬ on → Refuses (.loopSelect t rq) t s rq 0x0902 0x020D (atIndex n))))
      ∧ (∀ bad, let upd := u.lastEvery 2560
        (s.drv.updatedAt = some upd → exec (.loopUpdate t bad) s = .next u)
          ∧ (s.drv.updatedAt ≠ some upd → Does (.loopUpdate t bad) s fun s' => s'.drv.updatedAt = some upd
            ∧ (bad = [] → ∃ loops, s' = { u with drv := { s.drv with loops := loops, updatedAt := some upd } })
            ∧ (∀ n, 16 ≤ n → s'.drv.loops.get n = s.drv.loops.get n)
            ∧ ∀ n, n < 16 →
              let w := m.loopW n 0
              let l := s.drv.loops.get n
              let l' := s'.drv.loops.get n
              let off := s.hub.state = .boot ∨ s.hub.inReset = true
              let there := ¬ off ∧ bitAt w 31 = true ∧ s.podOn n = true ∧ s.linkUp (n / 4) = true
              let live := there ∧ stLive s.hub.state = true
              let set := { l with latchHigh := bitAt w 30, armed := u.mayArm && (l.armed || u.loopDriven n) }
              let a := applySelections upd (s.hub.state == .run) set
              let right := loopHusks bad n = []
              (off → l' = l) ∧ (bitAt w 31 = true → s.podOn n = false ∨ s.linkUp (n / 4) = false → l' = l)
                ∧ (¬ off → bitAt w 31 = false → l' = { l with armed := false, waiting := [], stagedSel := [] })
                ∧ (there → s.hub.state = .config ∨ s.hub.state = .safe → l' = set)
                ∧ (there → s.hub.state = .fault → right → s.yields = true → l' = { set with holding := true })
                ∧ (there → s.hub.state = .fault → right → s.yields = false → l' = { set with
                  current := faultLevel m n, holding := false })
                ∧ (there → s.hub.state = .fault → ¬ right → l' = set)
                ∧ (live → ¬ right → l' = a)
                ∧ (live → right →
                  let v := (loopUpd n (fun _ => a) u).loopValue m n a.sel upd
                  let stays := s.hub.state = .service ∧ fld (m.loopSlot n a.sel 0) 31 30 = 3 ∧ v.1 = 0
                  (stays → l' = { driveLoop m n v a with held := some v.2 }) ∧ (¬ stays → l' = driveLoop m n v a))
                ∧ ∀ k, bad = [k] → there → s.hub.state ≠ .config → k = n ∨ (∃ sl, sl < 4 ∧ k = 16 + (14 * n + 3 + 3 * sl)) →
                  s'.itg.husks = inc16 s.itg.husks))
      ∧ (∀ mask n, s.Takes rq stRun → s.hub.role ≠ .standby → mask < 2 ^ 16 → n < 2 ^ 64 →
        rq.payload = beBytes 2 mask ++ zeros 2 ++ beBytes 8 n →
        let at_ := u.instant n
        let loaded := fun (p : Nat) =>
          stimTbl (m.stimW p 0) = true ∧ (s.drv.tables.get (stimTable (m.stimW p 0))).points ≠ []
        let start := tickFrom at_
        let on := ∀ p, p < 16 → nbit mask p = true → s.podCut p = false
        (∀ p, p < 16 → nbit mask p = true → s.podCut p = true → (∀ q, q < p → nbit mask q = true → s.podCut q = false) →
            Refuses (.stimStart t rq) t s rq 0x0904 0x0105 (atIndex p))
          ∧ (∀ p, on → p < 16 → nbit mask p = true → ¬ loaded p → (∀ q, q < p → nbit mask q = true → loaded q) →
            Refuses (.stimStart t rq) t s rq 0x0904 0x0210 (atIndex p))
          ∧ (on → (∀ p, p < 16 → nbit mask p = true → loaded p) →
            (at_ < now + usLoom 2000 → Refuses (.stimStart t rq) t s rq 0x0904 0x0308 (atIndex 0xFFFF))
              ∧ (now + usLoom 2000 ≤ at_ → (∀ p, p < 16 → nbit mask p = true → s.outputPlays p = false) →
                Answers (.stimStart t rq) s rq 0x0904 0 0 (beBytes 8 start)
                    (sendDelta (.stimStart mask start) u.due (startStims mask start u))
                  ∧ ∀ p, (startStims mask start u).drv.stims.get p =
                    if p < 16 ∧ nbit mask p = true ∧ stimMode (m.stimW p 0) ≠ 0 then { s.drv.stims.get p with
                      state := 2, start := start, point := 0, passes := 0, compliance := false, holdAt := none }
                    else s.drv.stims.get p)))
      ∧ (∀ mask, s.Takes rq stRun → s.hub.role ≠ .standby → mask < 2 ^ 16 → rq.payload = beBytes 2 mask →
        let hold := tickFrom (now + 1)
        (∀ p, p < 16 → nbit mask p = true → s.podCut p = true → (∀ q, q < p → nbit mask q = true → s.podCut q = false) →
            Refuses (.stimStop t rq) t s rq 0x0905 0x0105 (atIndex p))
          ∧ ((∀ p, p < 16 → nbit mask p = true → s.podCut p = false) →
            Answers (.stimStop t rq) s rq 0x0905 0 0 (beBytes 8 hold)
              (sendDelta (.stimStop mask hold) u.due (holdStims mask hold u)))
          ∧ ∀ p, (holdStims mask hold u).drv.stims.get p =
            if p < 16 ∧ nbit mask p = true ∧ stimMode (m.stimW p 0) ≠ 0 then { s.drv.stims.get p with holdAt := some hold }
            else s.drv.stims.get p)
      ∧ (∀ k flags off (data : Bytes), s.Takes rq stStage → s.hub.role ≠ .standby → k < 2 ^ 8 → flags < 2 → off < 2 ^ 32 →
        data ≠ [] → data.length ≤ 992 → s.tableFault k flags = none →
        rq.payload = beBytes 1 k ++ beBytes 1 flags ++ zeros 2 ++ beBytes 4 off ++ data →
        let x := s.drv.tables.get k
        (s.loadLimit k flags < off + data.length → Refuses (.stimLoad t rq) t s rq 0x0906 0x0301 (atIndex k))
          ∧ (off + data.length ≤ s.loadLimit k flags → s.domOn 2 = false →
            Refuses (.stimLoad t rq) t s rq 0x0906 0x0105 (atIndex 0xFFFF))
          ∧ (off + data.length ≤ s.loadLimit k flags → s.domOn 2 = true → ∃ (tables : Tab Table) (bad : Bool),
            Answers (.stimLoad t rq) s rq 0x0906 0 0 [] { u with drv := { s.drv with
                tables := tables
                staging := if flags = 1 then s.drv.staging.setList off data else s.drv.staging
                stagingFor := if flags = 1 then .table k else s.drv.stagingFor, stagingBad := bad } }
              ∧ tables.get k = { x with points := [], loading := true
                                        bytes := if flags = 1 then x.bytes else x.bytes.setList off data }
              ∧ ∀ j, j ≠ k → tables.get j = s.drv.tables.get j))
      ∧ (∀ k flags n, s.Takes rq stStage → s.hub.role ≠ .standby → k < 2 ^ 8 → flags < 2 → n < 2 ^ 32 →
        s.tableFault k flags = none → rq.payload = beBytes 1 k ++ beBytes 1 flags ++ zeros 2 ++ beBytes 4 n →
        let x := s.drv.tables.get k
        (n ≤ s.loadLimit k flags → flags = 0 → n % 4 = 0 → s.domOn 2 = true → ∃ tables : Tab Table,
            Answers (.stimTableEnd t rq) s rq 0x0907 0 0 (beBytes 4 (n / 4)) { u with
                drv := { s.drv with tables := tables }
                itg := { s.itg with units := s.itg.units.set 4 (crc32Run 0xFFFFFFFF#32 (x.bytes.getList 0 n)).toNat } }
              ∧ (tables.get k).points = pointsOf (n / 4) (x.bytes.getList 0 n) ∧ (tables.get k).loading = false
              ∧ ∀ j, j ≠ k → tables.get j = s.drv.tables.get j)
          ∧ (n ≤ s.loadLimit k flags → flags = 1 → s.domOn 1 = true → s.domOn 2 = true → s.jobsRunning < 16 →
            ∃ id v, newJob 0x0907 0 (.tableLoad k n) u = some (id, v)
              ∧ Answers (.stimTableEnd t rq) s rq 0x0907 3 0 (beBytes 2 id) { v with
                win := { s.win with job := some id }
                drv := { s.drv with
                  tables := s.drv.tables.set k { x with points := [], loading := true }, stagingFor := .table k } })
          ∧ (s.loadLimit k flags < n ∨ (flags = 0 ∧ n % 4 ≠ 0) →
            Refuses (.stimTableEnd t rq) t s rq 0x0907 0x0301 (atIndex k)))
      ∧ (∀ p (x : Stim) h, s.drv.stims.get p = x → x.holdAt = some h → ∀ tk,
        (tk < h → holdStim tk u p = u)
          ∧ ∀ y st pt ps, h ≤ tk → u.stimTarget m p h = some (y, st, pt, ps) →
            (holdStim tk u p).drv.stims.get p
              = { x with state := 4, held := y, point := pt, passes := min ps 0xFFFF, holdAt := none })
      ∧ ∀ heavy reads, let tk := u.lastEvery 512
        (s.drv.tickedAt = some tk → exec (.stimulusTick t { heavy, reads }) s = .next u)
          ∧ (s.drv.tickedAt ≠ some tk → ∀ i b k a, reads = [(i, b, k, a)] → codeValid b = false → rsDecode b = none →
            Does (.stimulusTick t { heavy, reads }) s fun s' =>
              s'.drv.tickedAt = some tk ∧ s'.itg.uncorrectable = inc32 s.itg.uncorrectable
                ∧ ∀ j, (s'.drv.tables.get k).points[j]?
                  = (s.drv.tables.get k).points[j]?.map fun x => if j / 8 = a / 8 then 0x7FC00000#32 else x)
          ∧ (s.drv.tickedAt ≠ some tk → (∀ x ∈ reads, codeValid x.2.1 = true) →
            Does (.stimulusTick t { heavy, reads }) s fun s' =>
            (∃ conv hed stims f, s' = { u with
                free := f, conv := conv, hed := hed, drv := { s.drv with stims := stims, tickedAt := some tk } })
              ∧ (∀ p, 16 ≤ p → s'.drv.stims.get p = s.drv.stims.get p)
              ∧ ∀ p, p < 16 →
                let w := m.stimW p 0
                let v := holdStim tk u p
                let x := v.drv.stims.get p
                let x' := s'.drv.stims.get p
                let run := u.stimRuns p = true
                let much := heavy.contains p
                let waits := fun (v : State) (sc : Nat) (ok : ScRequest → Prop) =>
                  (∃ r ∈ (v.conv.scs.get sc).queue, r.cls = 3 ∧ r.a = p ∧ ok r)
                    ∨ ∃ r acq, (v.conv.scs.get sc).running = some (r, acq) ∧ r.cls = 3 ∧ r.a = p ∧ ok r
                let busy := ∃ sc ∈ m.stimBuses p, waits s sc fun _ => True
                (¬ run → x' = x)
                  ∧ (run → stimMode w ≠ 1 → busy → x' = { x with heavy := much })
                  ∧ (run → stimMode w ≠ 1 → ¬ busy → x' = { x with heavy := much, tick := tk, reads := [] }
                    ∧ ∀ i sc, (m.stimBuses p)[i]? = some sc → waits s' sc fun r => r.b = i)
                  ∧ ∀ y st pt ps, run → stimMode w = 1 → v.stimTarget m p tk = some (y, st, pt, ps) →
                    x'.state = st ∧ x'.point = pt ∧ x'.passes = min ps 0xFFFF ∧ x'.target = f32Of64 y
                      ∧ (f64Finite y = false → x'.code = x.code ∧ x'.clamps = inc16 x.clamps ∧ x'.compliance = x.compliance)
                      ∧ ∀ q k0, f64Finite y = true → v.stimQuantity m p tk y = some (q, k0) →
                        let lim := limitBy (f64OfInt 12) (if bitAt w 29 then f64Mul q (f64OfInt 64) else q)
                        (much = false → x'.code = dacCode lim.1) ∧ x'.code.natAbs ≤ (dacCode lim.1).natAbs ∧ x'.residual = 0
                          ∧ x'.compliance = (lim.2 || much)
                          ∧ x'.clamps = (if k0 || lim.2 || much then inc16 x.clamps else x.clamps))

/-! ### Weft -/

/-- R339 to R347, R355 to R358, R361 to R364, R368, R409, R410, R432: a port's link, its ARP, ICMP and PTP traffic,
its shaper and its choice of the next frame; frames close, are acknowledged and are sent again; what a port receives
while crossing 6 holds waits there. Rests on the readings and choices of log entries 81, 91, 92, 102, 110, 112, 123,
205, 206. -/
def Obligations.WeftDelivers : Prop :=
  ∀ (s : State) (t port : Nat),
    let u := tick t s
    let m := s.cfg.active
    let now := u.clk.loom
    let h := s.weft.ports.get port
    let up := s.portUp port = true
    let pass := s.crossHolds 6 = false ∨ s.hub.inReset = true
    let x6 := s.itg.crossings.get 6
    let puts := fun (c : Instr) (x : HPort) =>
      exec c s = .next { u with weft := { s.weft with ports := s.weft.ports.set port x } }
    let same := fun (c : Instr) => exec c s = .next u
    let shaped := fun (f : PortFrame) (h : HPort) =>
      if h.tokensUsed < 4 then { h.useToken now with tc0 := h.tc0 ++ [f] } else { h with ptpWait := h.ptpWait ++ [f] }
    let ptp := s.ptpOn port = true
    let dom := fld (m.portW port 6) 31 24
    (port < 2 → h.link = false → s.domOn 3 = true → Does (.portLinkChange t port true) s fun s' =>
        (m.portEn port = false → s' = { u with weft := { s.weft with ports := s.weft.ports.set port { h with link := true } } })
          ∧ (m.portEn port = true → s' = skipPorts { u with weft := { s.weft with ports := s.weft.ports.set port { h with
            link := true, linkUps := inc16 h.linkUps, noticeFrom := s.weft.nextNotice
            tc2 := h.tc2 ++ [.arp 1 0 (m.portW port 1).toNat] } } }))
      ∧ (port < 2 → h.link = true → Does (.portLinkChange t port false) s fun s' => ∃ tc0,
        s' = skipPorts { u with weft := { s.weft with ports := s.weft.ports.set port { h with
            link := false, noticeFrom := s.weft.nextNotice, tc0 := tc0 } } }
          ∧ ∀ f, f ∈ tc0 ↔ f ∈ h.tc0 ∧ ∀ b, f ≠ .notice b)
      ∧ (∃ pool, skipPorts s = { s with weft := { s.weft with pool := pool } } ∧ pool.length = s.weft.pool.length
        ∧ ∀ (i : Nat) (f : WFrame), s.weft.pool[i]? = some f → ∃ g, pool[i]? = some g
          ∧ g = { f with due := g.due, again := g.again }
          ∧ let ports := m.flowPorts f.flow
            ((∀ p ∈ ports, s.portUp p = false) → g = f)
              ∧ ((∃ p ∈ ports, s.portUp p = true) →
                g.due = (if f.left then f.due.filter s.portUp else f.due)
                  ∧ g.again = if f.again.length < ports.length then f.again.filter s.portUp else f.again))
      ∧ (up → s.hub.inReset = false → s.crossHolds 6 = true → ∀ i : Instr,
        (∃ ip udp b, i = .shuttleRequest t port ip udp b) ∨ (∃ f ok, i = .hostFrameReceived t port f ok)
          ∨ (∃ b, i = .acknowledgement t port b) ∨ (∃ mac ip x, i = .arpRequest t port mac ip x)
          ∨ (∃ ip b, i = .icmpEchoRequest t port ip b) ∨ (∃ x, i = .ptpSync t port x) ∨ (∃ x, i = .ptpAnnounce t port x)
          ∨ (∃ src q d, i = .pdelayReq t port src q d) →
        (x6.held.length < Config.rxDepth → exec i s = .next { u with itg := { s.itg with
            crossings := s.itg.crossings.set 6 { x6 with held := x6.held ++ [.row i] } } })
          ∧ (Config.rxDepth ≤ x6.held.length → puts i { h with discarded := inc32 h.discarded }))
      ∧ (∀ dest, 2 ≤ port ∨ h.link = dest ∨ (dest = true ∧ s.domOn 3 = false) → same (.portLinkChange t port dest))
      ∧ (pass → ∀ mac ip target, (up → target = (m.portW port 1).toNat →
          puts (.arpRequest t port mac ip target) { h with tc2 := h.tc2 ++ [.arp 2 mac ip] })
        ∧ (¬ up ∨ target ≠ (m.portW port 1).toNat → same (.arpRequest t port mac ip target)))
      ∧ (∀ ip,
        let old := fun (a : Arp) => a.ip == ip && a.mac.isSome && a.requests == 0 && decide (a.learnt + secLoom 60 ≤ now)
        (up → h.arp.any old = true → puts (.arpRefresh t port ip) { h with
            arp := h.arp.map fun a => if old a then { a with requests := 1, asked := now } else a
            tc2 := h.tc2 ++ [.arp 1 0 ip] })
          ∧ (¬ up ∨ h.arp.any old = false → same (.arpRefresh t port ip)))
      ∧ (∀ ip a, h.arp.find? (fun a => a.ip == ip) = some a →
        let due := 1 ≤ a.requests ∧ a.requests ≤ 3 ∧ a.asked + secLoom 1 ≤ now ∧ up
        (due → Does (.arpRetry t port ip) s fun s' => ∃ ports, s' = { u with weft := { s.weft with ports := ports } }
            ∧ (∀ p, p ≠ port → ports.get p = s.weft.ports.get p)
            ∧ (a.requests < 3 → ports.get port = { h with
              arp := h.arp.map fun x => if x.ip = ip then { a with requests := a.requests + 1, asked := now } else x
              tc2 := h.tc2 ++ [.arp 1 0 ip] })
            ∧ (a.requests = 3 → ∃ n ws q, ports.get port = { h with
                arp := h.arp.map fun x => if x.ip = ip then { a with mac := none, requests := 4 } else x
                arpWaits := sat32 (h.arpWaits + n), waiting := ws, waitingQ := q }
              ∧ (h.tc0 = [] → h.tc2 = [] → s.weft.pool = [] → n = 0)
              ∧ ∀ f, h.tc0 = [] → h.tc2 = [] → s.weft.pool = [f] → f.due.contains port = true → h.waiting = [] →
                noArp (m.flowIp f.flow) = false → m.nextHop port (m.flowIp f.flow) = some ip → n = 1))
          ∧ (¬ due → same (.arpRetry t port ip)))
      ∧ (pass → ∀ ip (msg : Bytes),
        let times := h.icmpTimes.filter fun x => decide (now < x + secLoom 1)
        (up → msg.length ≤ 1476 → times.length < 100 → puts (.icmpEchoRequest t port ip msg) { h with
            icmpTimes := now :: times, icmpAnswered := inc32 h.icmpAnswered, tc2 := h.tc2 ++ [.icmp ip msg] })
          ∧ (up → 1476 < msg.length ∨ 100 ≤ times.length → puts (.icmpEchoRequest t port ip msg)
            { h with icmpTimes := times, icmpDiscards := inc32 h.icmpDiscards })
          ∧ (¬ up → same (.icmpEchoRequest t port ip msg)))
      ∧ (pass → ∀ frame fcs, let ok := frameOk m port frame
        let pause := fcs = true ∧ beAt frame 12 2 = 0x8808
        (port < 2 → up → Does (.hostFrameReceived t port frame fcs) s fun s' => ∃ ports,
          s' = { u with weft := { s.weft with ports := ports } } ∧ (∀ p, p ≠ port → ports.get p = s.weft.ports.get p)
            ∧ (pause → ports.get port = { h with received := inc32 h.received, pauses := inc32 h.pauses })
            ∧ (¬ pause → fcs = false ∨ ok.1 = false →
              ports.get port = { h with received := inc32 h.received, discarded := inc32 h.discarded })
            ∧ (¬ pause → fcs = true → ok.1 = true → ok.2 = none → ports.get port = { h with received := inc32 h.received })
            ∧ ∀ b, ¬ pause → fcs = true → ok.1 = true → ok.2 = some b → beAt b 6 2 = 2 → ports.get port = { h with
              received := inc32 h.received
              arp := h.arp.map fun a => if a.ip = beAt b 14 4
                then { a with mac := some (beAt b 8 6), learnt := now, requests := 0 } else a })
          ∧ (2 ≤ port ∨ ¬ up → same (.hostFrameReceived t port frame fcs)))
      ∧ (pass → ∀ a : PtpAnnounce,
        (ptp → a.domain = dom → puts (.ptpAnnounce t port a) (match h.announce with
            | none => { h with announce := some a }
            | some b => if b.source = a.source ∨ ptpBetter a b = true then { h with announce := some a } else h))
          ∧ (¬ ptp ∨ a.domain ≠ dom → same (.ptpAnnounce t port a)))
      ∧ (pass → ∀ x : PtpSync,
        let taken := ptp ∧ x.domain = dom ∧ -7 ≤ x.logInterval ∧ x.logInterval ≤ 0
        let h' := { h with
          syncs := inc32 h.syncs, meanPath := x.meanPathPs, logSync := x.logInterval, logDelay := x.logDelayReq
          ptpOffset := x.offsetPs + signedOf 32 (m.portW port 7).toNat }
        let feeds := s.ptpBest = some port ∧ (∃ a, h.announce = some a ∧ a.source = x.source)
          ∧ (m.timeSrc = 1 ∨ (m.timeSrc = 3 ∧ s.warp.lost = true))
        (taken → ¬ feeds → puts (.ptpSync t port x) h')
          ∧ (taken → feeds → Does (.ptpSync t port x) s fun s' => s'.warp.source = 1
            ∧ (s'.warp.lock = .acquire ∨ s'.warp.lock = .locked) ∧ s'.warp.ports = s.warp.ports
            ∧ (s'.weft.ports.get port).syncs = inc32 h.syncs ∧ (s'.weft.ports.get port).ptpOffset = h'.ptpOffset
            ∧ s'.hub = s.hub ∧ s'.cfg = s.cfg ∧ s'.clk = u.clk ∧ s'.trd = s.trd ∧ s'.filt = s.filt)
          ∧ (¬ taken → same (.ptpSync t port x)))
      ∧ (pass → ∀ src seq d, let taken := ptp ∧ bitAt (m.portW port 0) 26 = true ∧ d = dom
        (taken → bitAt (m.portW port 0) 25 = false → puts (.pdelayReq t port src seq d) (shaped (.ptp 3 src seq) h))
          ∧ (taken → bitAt (m.portW port 0) 25 = true → Does (.pdelayReq t port src seq d) s fun s' => ∃ ports,
            s' = { u with weft := { s.weft with ports := ports } } ∧ (∀ p, p ≠ port → ports.get p = s.weft.ports.get p)
              ∧ ports.get port = shaped (.ptp 5 src seq) (shaped (.ptp 4 src seq) h))
          ∧ (¬ taken → same (.pdelayReq t port src seq d)))
      ∧ (let p2p := bitAt (m.portW port 0) 26 = true
        let every := if bitAt (m.portW port 0) 26 then secLoom 1
          else if 0 ≤ h.logDelay then secLoom (2 ^ h.logDelay.toNat) else secLoom 1 / 2 ^ (-h.logDelay).toNat
        let due := ∀ a, h.delayAt = some a → a + every ≤ now
        (ptp → due → ∀ f, (p2p ∧ f = .ptp 2 0 h.ptpSeq) ∨ (¬ p2p ∧ ∃ a, h.announce = some a ∧ f = .ptp 1 a.source h.ptpSeq) →
            Does (.ptpDelayReqSend t port) s fun s' => ∃ ports, s' = { u with weft := { s.weft with ports := ports } }
              ∧ (∀ p, p ≠ port → ports.get p = s.weft.ports.get p)
              ∧ ports.get port = shaped f { h with ptpSeq := (h.ptpSeq + 1) % 65536, delayAt := some now })
          ∧ (¬ ptp ∨ ¬ due ∨ (¬ p2p ∧ h.announce = none) → same (.ptpDelayReqSend t port)))
      ∧ (let waiting := min (diff32 s.weft.nextNotice h.noticeFrom) s.weft.notices.length
        let due := s.tokenDue port
        let gains := port < 2 ∧ h.tokensUsed ≠ 0 ∧ due ≤ now
        let h1 := { h with tokensUsed := h.tokensUsed - 1, tokenAt := due }
        (gains → Does (.tc0Token t port) s fun s' => ∃ ports, s' = { u with weft := { s.weft with ports := ports } }
          ∧ (∀ p, p ≠ port → ports.get p = s.weft.ports.get p)
          ∧ (waiting = 0 → h.ptpWait = [] → ports.get port = h1)
          ∧ (∀ f r, waiting = 0 → h.ptpWait = f :: r → h.tokensUsed ≤ 4 → ports.get port = { h1.useToken now with
            ptpWait := r, tc0 := h.tc0 ++ [f], tc0Late := inc32 h.tc0Late })
          ∧ (0 < waiting → s.noticePort port = true → h.tokensUsed ≤ 4 → ∃ b rest,
            (ports.get port).tc0 = h.tc0 ++ .notice b :: rest
              ∧ (ports.get port).noticeFrom = (diff32 s.weft.nextNotice waiting + min 6 waiting) % 2 ^ 32))
          ∧ (¬ gains → same (.tc0Token t port)))
      ∧ (let v := askHops port (sweepWire u)
        let hv := v.weft.ports.get port
        let ready := port < 2 ∧ up ∧ h.busyUntil ≤ now ∧ s.hub.inReset = false ∧ (s.itg.crossings.get 5).holds = false
        let part := fun (x : Nat × Nat) => min now (x.1 + nsLoom x.2) - max x.1 (now - usLoom 1000)
        let short := 10 * ((hv.tc3Times.filter fun x => decide (now < x.1 + nsLoom x.2 + usLoom 1000)).map part).sum < usLoom 1000
        let fresh := fun (f : WFrame) =>
          Emission.data now port 1 f.flow f.seq (f.wire false) (v.dataEther port 1 f.flow (f.wire false))
        let old := fun (f : WFrame) =>
          Emission.data now port 3 f.flow f.seq (f.wire true) (v.dataEther port 3 f.flow (f.wire true))
        let tc0 := takeFrom (v.canLeave port) hv.tc0
        let tc2 := takeFrom (v.canLeave port) hv.tc2
        let may := fun (f : WFrame) => f.stage == 2 && v.sendsFrame f && v.hopReady port (m.flowIp f.flow)
        let first := v.weft.pool.find? fun f => may f && f.due.contains port
        let again := firstAgain (v.weft.pool.filter fun f => may f && f.again.contains port)
        (∀ l g, firstAgain l = some g → g ∈ l ∧ ∀ x ∈ l, g.turn ≤ x.turn) ∧ (¬ ready → same (.portTransmit t port))
          ∧ (ready → Does (.portTransmit t port) s fun s' =>
            s'.hub = s.hub ∧ s'.cfg = s.cfg ∧ s'.clk = u.clk ∧ s'.filt = s.filt ∧ s'.drv = s.drv
              ∧ (∀ f r, s.hub.role ≠ .standby → tc0 = some (f, r) →
                s'.wire = .frame now port 0 f (v.ether port 0 f) :: s.wire ∧ (s'.weft.ports.get port).tc0 = r
                  ∧ (s'.weft.ports.get port).tc0Sent = inc32 h.tc0Sent ∧ s'.weft.pool = v.weft.pool)
              ∧ (∀ f r, s.hub.role ≠ .standby → tc0 = none → tc2 = some (f, r) →
                s'.wire = .frame now port 2 f (v.ether port 2 f) :: s.wire ∧ (s'.weft.ports.get port).tc2 = r ∧ s'.weft.pool = v.weft.pool)
              ∧ (∀ f, s.hub.role ≠ .standby → tc0 = none → tc2 = none → first = some f → again = none →
                s'.wire = fresh f :: s.wire
                  ∧ (s'.weft.ports.get port).sent = inc32 h.sent)
              ∧ (∀ f, s.hub.role ≠ .standby → tc0 = none → tc2 = none → first = none → again = some f →
                s'.wire = old f :: s.wire ∧ (s'.weft.ports.get port).sent = inc32 h.sent)
              ∧ (∀ f g, s.hub.role ≠ .standby → tc0 = none → tc2 = none → first = some f → again = some g →
                (short → s'.wire = old g :: s.wire) ∧ (¬ short → s'.wire = fresh f :: s.wire))
              ∧ (s.hub.role ≠ .standby → tc0 = none → tc2 = none → first = none → again = none → s'.wire = s.wire)
              ∧ (s.hub.role = .standby → s.pair.switching = .idle → s.pair.sendBefore = none →
                s'.wire = s.wire
                  ∨ (∃ k a b, s'.wire = .frame now port 0 (.ptp k a b) (v.ether port 0 (.ptp k a b)) :: s.wire)
                  ∨ ∃ f, s'.wire = .frame now port 2 f (v.ether port 2 f) :: s.wire)))
      ∧ (∀ msg : Bytes, ¬ up ∨ s.hub.inReset = true → same (.acknowledgement t port msg))
      ∧ (∀ msg : Bytes, up → s.hub.inReset = false → s.crossHolds 6 = false →
        msg.length ≠ 12 + 8 * beAt msg 3 1 ∨ beAt msg 0 2 ≠ 0x5741 ∨ crcPasses msg = false →
        Does (.acknowledgement t port msg) s fun s' =>
          (s'.weft.ports.get port) = { h with ackDiscards := inc32 h.ackDiscards } ∧ s'.weft.pool = s.weft.pool
            ∧ s'.itg.mismatches.get 1 = (if crcPasses msg then s.itg.mismatches.get 1 else inc16 (s.itg.mismatches.get 1))
            ∧ s'.weft.streams = s.weft.streams ∧ s'.trd = s.trd ∧ s'.hub = s.hub ∧ s'.cfg = s.cfg ∧ s'.clk = u.clk)
      ∧ (∀ flow a l, up → s.hub.inReset = false → s.crossHolds 6 = false → flow < 16 → a < 2 ^ 32 →
        (s.weft.streams.get flow).lastSent = some l →
        let msg := withCrc (beBytes 2 0x5741 ++ [0x01#8, 0x01#8] ++ beBytes 2 0xFFFF ++ zeros 2 ++ beBytes 2 flow ++ zeros 2
          ++ beBytes 4 a)
        let covered := fun (f : WFrame) => f.flow == flow && ackCovers a f.seq
        (newer32 a l = true → exec (.acknowledgement t port msg) s = .next { u with
            itg := { s.itg with units := s.itg.units.set 1 (crc32Run 0xFFFFFFFF#32 (msg.take 16)).toNat }
            weft := { s.weft with ports := s.weft.ports.set port { h with ackIgnored := inc32 h.ackIgnored } } })
          ∧ (newer32 a l = false → Does (.acknowledgement t port msg) s fun s' =>
            (∀ f ∈ s.weft.pool, covered f = false → f ∈ s'.weft.pool)
              ∧ (∀ g ∈ s'.weft.pool, covered g = true → g.goneAt.isSome = true ∧ g.due = [] ∧ g.again = [])
              ∧ ((∀ p, p < 2 → (s.weft.ports.get p).onWire = none) →
                s'.weft.pool = s.weft.pool.filter fun f => !(covered f))
              ∧ (s'.weft.streams.get flow).ackTime = now
              ∧ (∀ n, n ≠ flow → s'.weft.streams.get n = s.weft.streams.get n)
              ∧ s'.trd = s.trd ∧ s'.hub = s.hub ∧ s'.cfg = s.cfg ∧ s'.filt = s.filt ∧ s'.clk = u.clk))
      ∧ (∀ rq flow a b l, s.Takes rq stLive → s.hub.role ≠ .standby → flow < 2 ^ 16 → a < 2 ^ 32 → b < 2 ^ 32 →
        rq.payload = beBytes 2 flow ++ zeros 2 ++ beBytes 4 a ++ beBytes 4 b →
        let held := s.weft.pool.filter fun x => x.flow == flow && x.goneAt.isNone
        let pick := fun (x : WFrame) => x.flow == flow && decide (diff32 x.seq a < diff32 b a + 1) && x.left
          && x.again.isEmpty && x.goneAt.isNone && !(m.flowPorts flow).isEmpty
        let again := fun (x : WFrame) =>
          if pick x then { x with again := m.flowPorts flow, turn := s.weft.turns + diff32 x.seq a } else x
        (flowOk flow = false → Refuses (.weftResend t rq) t s rq 0x0A03 0x0306 (atIndex flow))
          ∧ (flowOk flow = true → s.flowState flow = 0 → held = [] →
            Refuses (.weftResend t rq) t s rq 0x0A03 0x0101 (atIndex flow))
          ∧ (flowOk flow = true → s.flowState flow ≠ 0 ∨ held ≠ [] → newer32 a b = true →
            Refuses (.weftResend t rq) t s rq 0x0A03 0x0301 (atIndex flow))
          ∧ (flowOk flow = true → s.flowState flow ≠ 0 ∨ held ≠ [] → newer32 a b = false → diff32 b a < 65536 →
            s.lastSent flow = some l → newer32 b l = false →
            (∀ i, i ≤ diff32 b a → ∃ f ∈ held, f.seq = (a + i) % 2 ^ 32) →
            Answers (.weftResend t rq) s rq 0x0A03 0 0 (beBytes 4 (s.weft.pool.filter pick).length ++ zeros 8)
              { u with weft := { s.weft with
                pool := s.weft.pool.map again, turns := s.weft.turns + (diff32 b a + 1) } }))
      ∧ ∀ k sec,
        (16 ≤ k ∨ 8 ≤ sec ∨ (s.weft.opened.get (k * 8 + sec)).instants = [] → same (.frameClose t k sec))
          ∧ ∀ g r, k < 16 → sec < 8 → (s.weft.opened.get (k * 8 + sec)).instants = g :: r →
            let m := s.cfgAt g
            let run := u.frontRun k sec (m.frameSamples k) (g :: r)
            let last := run.1.getLastD g
            let closes := (run.2 = true ∨ run.1.length = m.frameSamples k) ∧ u.formedAll m (m.secChans k sec) last = true
              ∧ ∀ i, i < sec → m.secChans k i = [] ∨ last ≤ (s.weft.opened.get (k * 8 + i)).closedTo
            (0 < m.frameSamples k → closes → Does (.frameClose t k sec) s fun s' =>
                (s'.weft.opened.get (k * 8 + sec)).closedTo = last
                  ∧ (∀ j, j ≠ k * 8 + sec → s'.weft.opened.get j = s.weft.opened.get j)
                  ∧ (s'.weft.streams.get k).nextSeq = ((s.weft.streams.get k).nextSeq + 1) % 2 ^ 32
                  ∧ (∃ f, s'.weft.pool.getLast? = some f ∧ f.flow = k ∧ f.sec = sec ∧ f.seq = (s.weft.streams.get k).nextSeq
                    ∧ f.first = g ∧ f.count = run.1.length ∧ f.left = false)
                  ∧ s'.hub = s.hub ∧ s'.cfg = s.cfg ∧ s'.filt = s.filt ∧ s'.trd = s.trd ∧ s'.drv = s.drv ∧ s'.clk = u.clk)
              ∧ (¬ closes → same (.frameClose t k sec))

/-! ### Winnow and integrity -/

/-- R332, R371 to R376, R379, R382, R384, R387, R390, R394, R395, R458: Winnow takes the frame that has waited
longest, under the forcing of its thresholds, and encodes it; a stall stops it until it resumes, and keeps what is not
written. A decompression job commits its table or its image whole, or fails and commits nothing. Rests on the readings
and choices of log entries 32, 88, 89, 91, 106. -/
def Obligations.WinnowEncodesAndDecompresses : Prop :=
  ∀ (s : State) (t : Nat),
    let u := tick t s
    let m := s.cfg.active
    let w := s.win
    let same := fun (c : Instr) => exec c s = .next u
    let ends := fun (id : Nat) (st reason : Nat) (result : Bytes) (s' : State) =>
      ∃ j, findJob id s' = some j ∧ j.state = st ∧ j.reason = reason ∧ j.result = result ∧ j.ended = some u.clk.loom
    let failed := fun (code i o : Nat) => beBytes 1 code ++ zeros 1 ++ beBytes 4 i ++ beBytes 4 o
    (s.winnowOn = false → same (.winnowFrameStart t) ∧ (∀ stall, same (.winnowFrameDone t stall))
        ∧ ∀ stall, same (.decompressionDone { t, stalled := stall }))
      ∧ (∀ q rest, s.winnowOn = true → w.current = none → w.queue = q :: rest →
      let forcing := if m.backlogHi ≤ s.backlog then true else if s.backlog ≤ m.backlogLo then false else w.forcing
      exec (.winnowFrameStart t) s = .next { u with
        win := { w with
          queue := rest, current := some (q.1, q.2, forcing), forcing := forcing
          counters := if forcing && !w.forcing then w.counters.upd 5 inc32 else w.counters }
        weft := { s.weft with
          pool := s.weft.pool.map fun f => if f.flow = q.1 ∧ f.seq = q.2 then { f with stage := 1 } else f } })
      ∧ (w.current ≠ none ∨ w.queue = [] → same (.winnowFrameStart t))
      ∧ (∀ flow seq forced f, s.winnowOn = true → w.current = some (flow, seq, forced) → w.stalled = false →
        s.weft.pool.find? (fun f => f.flow == flow && f.seq == seq) = some f →
        let coded := if forced then (0, storedBlock f.body) else deflate f.body f.effort f.huff
        (∀ bit, 32 ≤ bit → bit ≤ 8 * coded.2.length →
          let words := bit / 32 - 1
          exec (.winnowFrameDone t (some bit)) s = .next { u with win := { w with
            stalled := true, counters := w.counters.upd 6 inc32
            acc := (unpackBits (coded.2.drop (4 * words))).take (bit - 32 * words)
            outQueue := (coded.2.take (4 * words)).drop (4 * words - 2048) } })
          ∧ Does (.winnowFrameDone t none) s fun s' =>
            s'.weft.pool = s.weft.pool.map (fun f =>
              if f.flow = flow ∧ f.seq = seq then { f with sent := coded.2, stage := 2 } else f)
            ∧ s'.win.current = none ∧ s'.win.queue = w.queue ∧ s'.win.stalled = false
            ∧ s'.win.bytesIn = sat64 (w.bytesIn + f.body.length) ∧ s'.win.bytesOut = sat64 (w.bytesOut + coded.2.length)
            ∧ s'.win.counters.get 0 = inc32 (w.counters.get 0)
            ∧ (coded.1 < 3 → s'.win.counters.get (1 + coded.1) = inc32 (w.counters.get (1 + coded.1)))
            ∧ s'.win.counters.get 4 = (if forced then inc32 (w.counters.get 4) else w.counters.get 4)
            ∧ s'.itg.units.get 0 = (crc32Run 0xFFFFFFFF#32 (f.header ++ coded.2)).toNat
            ∧ s'.hub = s.hub ∧ s'.cfg = s.cfg ∧ s'.trd = s.trd ∧ s'.drv = s.drv ∧ s'.clk = u.clk)
      ∧ (w.current = none ∨ w.stalled = true → ∀ stall, same (.winnowFrameDone t stall))
      ∧ exec (.winnowStallResume t) s = .next { u with
          win := { w with stalled := false, jobStalled := false, acc := [], outQueue := [] } }
      ∧ (w.job = none ∨ w.jobStalled = true → ∀ stall, same (.decompressionDone { t, stalled := stall }))
      ∧ (∀ id, s.winnowOn = true → w.job = some id → w.jobStalled = false →
        exec (.decompressionDone { t, stalled := true }) s = .next { u with
          win := { w with jobStalled := true, counters := w.counters.upd 6 inc32 } })
      ∧ (∀ id k n, s.winnowOn = true → w.job = some id → w.jobStalled = false → s.jobWork id = some (.tableLoad k n) →
        let r := inflate (s.drv.staging.getList 0 n) (m.tableSize k * 4)
        Does (.decompressionDone { t }) s fun s' =>
          s'.win.job = none ∧ (s'.drv.tables.get k).loading = false
            ∧ (∀ j, j ≠ k → s'.drv.tables.get j = s.drv.tables.get j)
            ∧ s'.hub = s.hub ∧ s'.cfg = s.cfg ∧ s'.drv.staging = s.drv.staging ∧ s'.drv.stims = s.drv.stims
            ∧ s'.clk = u.clk ∧ s'.trd = s.trd ∧ s'.weft = s.weft
            ∧ (s.drv.stagingBad = true → ends id 2 0x040A (failed 0 0 0) s')
            ∧ (∀ c i o, s.drv.stagingBad = false → r = .failed c i o →
              ends id 2 (if c = 1 then 0x0507 else 0x0301) (failed c i o) s')
            ∧ (s.drv.stagingBad = true ∨ (∃ c i o, r = .failed c i o) →
              (s'.drv.tables.get k).points = (s.drv.tables.get k).points ∧ s'.win.counters.get 9 = inc32 (w.counters.get 9)
                ∧ s'.itg.units.get 4 = (crc32Run 0xFFFFFFFF#32 (s.drv.staging.getList 0 n)).toNat)
            ∧ (∀ out : Bytes, s.drv.stagingBad = false → r = .done out → out.length % 4 = 0 →
              ends id 1 0 (beBytes 4 (out.length / 4)) s' ∧ s'.win.counters.get 8 = inc32 (w.counters.get 8)
                ∧ (s'.drv.tables.get k).points = pointsOf (out.length / 4) out ∧ s'.drv.stagingFor = .free
                ∧ s'.itg.units.get 4 = (crc32Run 0xFFFFFFFF#32 out).toNat))
      ∧ ∀ id n, s.winnowOn = true → w.job = some id → w.jobStalled = false → s.jobWork id = some (.imageLoad n) →
        let r := inflate (s.drv.staging.getList 0 n) (2 ^ 21)
        let slot := s.idleSlot
        Does (.decompressionDone { t }) s fun s' =>
          s'.win.job = none ∧ s'.drv.tables = s.drv.tables ∧ s'.drv.staging = s.drv.staging
            ∧ s'.hub = s.hub ∧ s'.cfg.active = s.cfg.active ∧ s'.cfg.force = s.cfg.force ∧ s'.trd = s.trd ∧ s'.clk = u.clk
            ∧ (s.drv.stagingBad = true → ends id 2 0x040A (failed 0 0 0) s')
            ∧ (∀ c i o, s.drv.stagingBad = false → r = .failed c i o →
              ends id 2 (if c = 1 then 0x0507 else 0x040B) (failed c i o) s')
            ∧ (∀ out : Bytes, s.drv.stagingBad = false → r = .done out →
              let good := crcPasses out && Config.emramWrite s.free
              let image : Image := { invalid := false, seq := next32 (s.imageOf s.hub.runImage).seq, version := beAt out 0 4
                                     writeEnds := u.clk.loom + Config.writeTime s.free }
              (good = false → ends id 2 0x040B (failed 0 n out.length) s')
                ∧ (good = true → s'.pow.imageA = (if slot = 0 then image else s.pow.imageA)
                  ∧ s'.pow.imageB = (if slot = 0 then s.pow.imageB else image) ∧ s'.drv.stagingFor = .free
                  ∧ ends id 1 0 (beBytes 4 image.version ++ beBytes 1 slot ++ zeros 3 ++ beBytes 4 image.seq) s'))
            ∧ (s.drv.stagingBad = true ∨ (∃ c i o, r = .failed c i o)
                ∨ (∃ out, r = .done out ∧ (crcPasses out && Config.emramWrite s.free) = false) →
              s'.pow.imageA = s.pow.imageA ∧ s'.pow.imageB = s.pow.imageB
                ∧ s'.win.counters.get 9 = inc32 (w.counters.get 9))

/-- R27, R28, R393 to R395, R402 to R404, R409 to R411, R414, R416, R417, R459, R497: the scrubber corrects a codeword
of at most three erroneous bytes and counts one that it cannot; a retired MAC lane, a dissenting core, clock reports
and crossings act, and a restart of crossing 8 has the staged changes written again (R412); CHK_STEP and STORE_CRC
compute. Rests on the readings and choices of log entries 45, 46, 121, 148, 179. -/
def Obligations.IntegrityActs : Prop :=
  ∀ (s : State) (t : Nat),
    let u := tick t s
    let m := s.cfg.active
    let now := u.clk.loom
    let g := s.itg
    let same := fun (c : Instr) => exec c s = .next u
    let scrubs := s.domOn 2 = true
    let passes := g.passFrom + secLoom (fld (m.word 0x0C00 0) 15 0) ≤ now
    (¬ scrubs → ∀ reads, same (.scrubPass t reads))
      ∧ (scrubs → passes → Does (.scrubPass t []) s fun s' => s'.itg.passes = inc32 g.passes
        ∧ s'.itg.lastPass = sat32 ((now - g.passFrom) * 1000 / 2 ^ 32) ∧ s'.itg.passFrom = now ∧ s'.itg.rowCount = []
        ∧ s'.itg.rowsTold = [] ∧ s'.itg.words = g.words ∧ s'.itg.corrected = g.corrected
        ∧ (g.rowCount = [] → s'.itg.rows = g.rows) ∧ s'.weft.pool = s.weft.pool ∧ s'.trd = s.trd ∧ s'.drv = s.drv
        ∧ s'.hub = s.hub ∧ s'.cfg.active = s.cfg.active ∧ s'.clk = u.clk)
      ∧ (scrubs → ¬ passes → ∀ i w, i < 2097152 →
        let row := i / 32
        let told := fun (n : Nat) (r : Nat) => m.rowLimit ≤ n ∧ g.rowsTold.contains r = false
        let quiet := ∀ r, r ≠ row → r ∈ g.rowCount.map Prod.fst → ¬ told (g.rowCount.get r) r
        (codeValid w = true → quiet → ¬ told (g.rowCount.get row) row → same (.scrubPass t [(i, w)]))
          ∧ (∀ v, codeValid w = false → rsDecode w = some v →
            Does (.scrubPass t [(i, w)]) s fun s' =>
              s'.itg.words.get i = (if (v.take 32).all (· == 0) then [] else rsEncode (v.take 32))
              ∧ (∀ j, j ≠ i → s'.itg.words.get j = g.words.get j) ∧ s'.itg.corrected = inc32 g.corrected
              ∧ s'.itg.rowCount.get row = g.rowCount.get row + 1
              ∧ s'.itg.uncorrectable = g.uncorrectable ∧ s'.weft.pool = s.weft.pool ∧ s'.trd = s.trd ∧ s'.drv = s.drv
              ∧ (quiet → (told (g.rowCount.get row + 1) row → s'.itg.rows = inc16 g.rows)
                ∧ (¬ told (g.rowCount.get row + 1) row → s'.itg.rows = g.rows)))
          ∧ (codeValid w = false → rsDecode w = none → Does (.scrubPass t [(i, w)]) s fun s' =>
            s'.itg.uncorrectable = inc32 g.uncorrectable ∧ s'.itg.lastBad = now ∧ s'.itg.corrected = g.corrected
              ∧ (quiet → s'.itg.rows = inc16 g.rows) ∧ (∃ x ∈ s'.pow.worn, x.kind = 3 ∧ x.idx = row)
              ∧ s'.itg.words.get i = [] ∧ s'.hub = s.hub ∧ s'.clk = u.clk))
      ∧ (∀ lane ch,
        (72 ≤ lane ∨ s.running = false → same (.macResidueFailure t lane ch))
          ∧ (lane < 72 → s.running = true → (∀ x ∈ s.pow.worn, x.kind = 2 → x.idx ≠ lane) →
            Does (.macResidueFailure t lane ch) s fun s' =>
              s'.pow.worn = s.pow.worn ++ [{ kind := 2, pod := 0xFF, idx := lane, state := 0 }]
                ∧ (m.chanOn ch = true → (s.chan ch).set.isSome = true →
                  m.macFits (s.macLanes - 1) = true →
                  (s'.chan ch).entries.length = (s.chan ch).entries.length + 1
                    ∧ (s'.chan ch).skipped.length = (s.chan ch).skipped.length + 1)
                ∧ (m.macFits (s.macLanes - 1) = true → s'.hub = s.hub)
                ∧ (m.macFits (s.macLanes - 1) = false → s.hub.state ≠ .safe →
                  s'.hub.state = .fault ∧ s'.hub.causes.contains (.macLoad (s.pow.used.get 2)) = true)))
      ∧ (let set := s.voters
        (∀ c, c ∈ set → set.length = 3 → Does (.voterDisagreement t (some c)) s fun s' =>
            s'.voters = set.filter (· ≠ c) ∧ s'.hub.state = s.hub.state
              ∧ ((∀ x ∈ s.pow.worn, x.kind = 4 → x.idx ≠ c) →
                s'.pow.worn = s.pow.worn ++ [{ kind := 4, pod := 0xFF, idx := c, state := 0 }]))
          ∧ (∀ d, d = none ∨ set.length = 2 → s.hub.state ≠ .boot → s.hub.state ≠ .safe →
            Does (.voterDisagreement t d) s fun s' => s'.hub.state = .safe ∧ s'.hub.lastCause = 0x040C)
          ∧ ∀ c, set.length ≠ 2 → set.length ≠ 3 ∨ c ∉ set → same (.voterDisagreement t (some c)))
      ∧ (∀ clk kind, Does (.clockMonitorReport t clk kind) s fun s' =>
        s'.hub.clocks = s.hub.clocks.filter (fun c => c.1 != clk) ++ [(clk, kind)]
          ∧ s'.hub.onKclk = (s.hub.onKclk || clk == .qclk || clk == .xi) ∧ s'.sh.alarms.contains 3 = true
          ∧ (∀ x, x < 12 → (s'.itg.crossings.get x).holds = stoppedAt s'.hub.clocks x
            ∧ (s'.itg.crossings.get x).stops = if stoppedAt s'.hub.clocks x && !(g.crossings.get x).holds
              then inc16 (g.crossings.get x).stops else (g.crossings.get x).stops)
          ∧ ((∀ x, x < 12 → s.crossHolds x = true → stoppedAt s'.hub.clocks x = true) →
            (clk ≠ .xi → s'.hub.state = s.hub.state ∧ s'.cfg = s.cfg ∧ s'.filt = s.filt ∧ s'.drv = s.drv)
              ∧ (clk = .xi → (∀ k, (Clock.xi, k) ∉ s.hub.clocks) → s.hub.state = .config ∨ stLive s.hub.state = true →
                s'.hub.state = .fault ∧ s'.hub.causes.contains .xiLost = true ∧ s'.hub.lastCause = 0x0408)))
      ∧ (let off := s.hub.clocks.any fun c => c.1 == .qclk || c.1 == .xi
        let fresh := s.hub.clocksGood.any fun c => c.1 == .qclk && decide (now < c.2 + usLoom 1000)
        ((off || fresh) = true → same (.qclkRestore t))
          ∧ ((off || fresh) = false → exec (.qclkRestore t) s = .next { u with hub := { s.hub with onKclk := false } }))
      ∧ (∀ clk,
        ((∀ k, (clk, k) ∉ s.hub.clocks) → same (.clockRestored t clk))
          ∧ (∀ k, (clk, k) ∈ s.hub.clocks → s.hub.xiWait = none → Does (.clockRestored t clk) s fun s' =>
            s'.hub.clocks = s.hub.clocks.filter (fun c => c.1 != clk) ∧ (clk, now) ∈ s'.hub.clocksGood
              ∧ s'.sh.alarms.contains 3 = !s'.hub.clocks.isEmpty
              ∧ ((∀ x, x < 12 → (g.crossings.get x).held = []) → s'.hub.state = s.hub.state)
              ∧ ∀ x, x < 12 → (s'.itg.crossings.get x).holds = stoppedAt s'.hub.clocks x
                ∧ (s.crossHolds x = true → stoppedAt s'.hub.clocks x = false → (s'.itg.crossings.get x).held = []
                  ∧ (x = 4 → s'.warp.toTreadle = []) ∧ (x = 7 → s'.pair.out = [])))
          ∧ (∀ k image, (clk, k) ∈ s.hub.clocks → s.hub.xiWait = some image → s.hub.state = .boot →
            Does (.clockRestored t clk) s fun s' => s'.hub.clocks = s.hub.clocks.filter (fun c => c.1 != clk)
              ∧ (clk = .xi → s'.hub.xiWait = none) ∧ (clk ≠ .xi → (∃ k, (Clock.xi, k) ∈ s.hub.clocks) → s'.hub.xiWait ≠ none)))
      ∧ (∀ x, (12 ≤ x → same (.crossingRestart t x))
        ∧ (x < 12 → Does (.crossingRestart t x) s fun s' =>
          (s'.itg.crossings.get x).restarts = inc16 (g.crossings.get x).restarts ∧ s'.sh.alarms.contains 14 = true
            ∧ (∀ y, y ≠ x → s'.itg.crossings.get y = g.crossings.get y)
            ∧ (s'.itg.crossings.get x).held = [] ∧ (∀ k, ((s'.itg.crossings.get x).shakes.get k).pend = false)
            ∧ s'.pair = { s.pair with out := if x = 7 then [] else s.pair.out }
            ∧ s'.warp.toTreadle = (if x = 4 then [] else s.warp.toTreadle)
            ∧ (let late := fun (c : Staged) => !(staysStaged c.change) && decide (c.due < u.due)
              s'.cfg = { s.cfg with staged := if x = 8
                then s.cfg.staged.map fun c => if late c then { c with due := u.due } else c else s.cfg.staged })
            ∧ s'.hub = s.hub ∧ s'.trd = s.trd ∧ s'.clk = u.clk))
      ∧ (∀ rq alg mode (ctx : Word) (data : Bytes), s.Takes rq stRead → alg < 2 → mode < 3 → data ≠ [] → data.length ≤ 992 →
        (mode = 2 → (if alg = 1 then 2 else 4) < data.length) →
        rq.payload = beBytes 1 6 ++ beBytes 1 alg ++ beBytes 1 mode ++ zeros 1 ++ beWord ctx ++ beBytes 2 data.length
          ++ zeros 2 ++ data →
        let n := if alg = 1 then 2 else 4
        let body := if mode = 2 then data.take (data.length - n) else data
        let run := if alg = 1 then (crc16Run (ctx.setWidth 16) body).setWidth 32 else crc32Run ctx body
        let fin := if alg = 1 then run else run ^^^ 0xFFFFFFFF#32
        let bad := mode = 2 ∧ beNat (data.drop (data.length - n)) ≠ fin.toNat
        (s.domOn 1 = false → Refuses (.chkStep t rq) t s rq 0x0C02 0x0105 (atIndex 0xFFFF))
          ∧ (s.domOn 1 = true → s.unitBusy 6 = true → Refuses (.chkStep t rq) t s rq 0x0C02 0x0509 (atIndex 0xFFFF))
          ∧ (s.domOn 1 = true → s.unitBusy 6 = false → ¬ bad → Answers (.chkStep t rq) s rq 0x0C02 0 0
            (beBytes 1 6 ++ beBytes 1 (if mode = 2 then 1 else 0) ++ zeros 2 ++ beWord run ++ beWord fin) u)
          ∧ (s.domOn 1 = true → s.unitBusy 6 = false → bad → Answers (.chkStep t rq) s rq 0x0C02 0 0
            (beBytes 1 6 ++ beBytes 1 2 ++ zeros 2 ++ beWord run ++ beWord fin)
            { u with itg := { g with mismatches := g.mismatches.upd 6 inc16 } }))
      ∧ (∀ rq k n, s.Takes rq stRead → k < 16 → n < 2 ^ 32 → rq.payload = beBytes 1 0 ++ beBytes 1 k ++ zeros 2 ++ beBytes 4 n →
        (m.tableEn k = false → Refuses (.storeCrc t rq) t s rq 0x0C03 0x0210 (atIndex k))
          ∧ (m.tableEn k = true → n ≤ m.tableSize k * 4 → s.domOn 1 = false ∨ s.domOn 2 = false →
            Refuses (.storeCrc t rq) t s rq 0x0C03 0x0105 (atIndex 0xFFFF))
          ∧ (m.tableEn k = true → n ≤ m.tableSize k * 4 → s.domOn 1 = true → s.domOn 2 = true →
            (s.drv.tables.get k).loading = true →
            Refuses (.storeCrc t rq) t s rq 0x0C03 0x0108 (atIndex 0xFFFF))
          ∧ (m.tableEn k = true → n ≤ m.tableSize k * 4 → s.domOn 1 = true → s.domOn 2 = true →
            (s.drv.tables.get k).loading = false → s.unitBusy 6 = false → s.jobsRunning < 16 →
            ∃ id v, newJob 0x0C03 0 (.storeCrc true k n 6) u = some (id, v)
              ∧ Answers (.storeCrc t rq) s rq 0x0C03 3 0 (beBytes 2 id) v))
      ∧ (∀ job table k n unit, s.jobWork job = some (.storeCrc table k n unit) →
        let b := if table then (s.drv.tables.get k).bytes.getList 0 n else s.drv.staging.getList 0 n
        (s.domOn 1 = false ∨ s.domOn 2 = false → same (.storeCrcDone t job))
          ∧ (s.domOn 1 = true → s.domOn 2 = true → exec (.storeCrcDone t job) s = .next (endJob job 1 0 (beWord (crc32c b) ++ beBytes 4 n) 0
          { u with itg := { g with units := g.units.set unit (crc32Run 0xFFFFFFFF#32 b).toNat } })))
      ∧ ∀ job, (∀ table k n unit, s.jobWork job ≠ some (.storeCrc table k n unit)) → same (.storeCrcDone t job)

/-! ### Power and the seed bank -/

/-- R450, R452 to R454: a domain starts, comes on at power good (D2 once its store is written with zeros), and is lost
by a time-out, a switch fault or a rail that leaves its window; what it loses with D1 or D2 is a cause of FAULT, and
the loss of D0 stops the hub, ends the claims and spoils the copies being written. Rests on the readings and choices
of log entries 119, 125, 126. -/
def Obligations.DomainsStartAndAreLost : Prop :=
  ∀ (s : State) (t d : Nat),
    let u := tick t s
    let now := u.clk.loom
    let x := s.pow.domains.get d
    let same := fun (c : Instr) => exec c s = .next u
    let lost := fun (s' : State) => (s'.pow.domains.get d).state = 3 ∧ (s'.pow.domains.get d).losses = inc16 x.losses
      ∧ (s'.pow.domains.get d).good = false ∧ (s'.pow.domains.get d).trained = false
      ∧ (d = 1 → ∀ x, x ≤ 4 ∨ x = 6 ∨ x = 7 → (s'.itg.crossings.get x).held = [])
      ∧ (d = 2 → s'.weft.pool = [] ∧ s'.drv.staging = [])
      ∧ (d = 3 → ∀ p, p < 2 → (s'.weft.ports.get p).link = false)
      ∧ ((d = 1 ∨ d = 2) → s.hub.state = .config ∨ stLive s.hub.state = true →
        s'.hub.state = .fault ∧ s'.hub.causes.contains (.domainLost d) = true)
      ∧ (¬ (d = 1 ∨ d = 2) → s'.hub = s.hub)
    let spoilt := fun (c : Copy) => { c with valid := false }
    let dead := fun (s' : State) => s'.hub.state = .boot ∧ s'.hub.inReset = true
      ∧ s'.pow.domains.get 0 = { s.pow.domains.get 0 with state := 3, losses := inc16 (s.pow.domains.get 0).losses, good := false }
      ∧ (∀ k, k ≠ 0 → s'.pow.domains.get k = s.pow.domains.get k)
      ∧ (s.hub.inReset = false → (∀ m, m < 8 → (s'.sh.mail.get m).claim = none)
        ∧ (s.hub.state ≠ .boot → s.cfg.staged.length ≤ 64 → ∃ e ∈ s'.sh.log, e.source = 0 ∧ e.detail = stateCode s.hub.state * 16 + stateCode .boot)
        ∧ (s.cfg.staged.length ≤ 64 → ∃ e ∈ s'.sh.log, e.reason = 0x0105 ∧ e.source = 0x0E00 ∧ e.detail = 0))
      ∧ s'.cfg.copyA = tornSlot spoilt now false s.cfg.copyA s.cfg.writes
      ∧ s'.cfg.copyB = tornSlot spoilt now true s.cfg.copyB s.cfg.writes
      ∧ s'.cfg.force = s.cfg.force ∧ s'.cfg.active = s.cfg.active ∧ s'.clk = u.clk
    let starts := d < 8 ∧ x.state = 1 ∧ x.since ≤ now ∧ s.railsIn d = true
    (¬ starts → same (.domainPowerGood t d))
      ∧ (starts → d = 2 → exec (.domainPowerGood t d) s = .next { u with
          pow := { s.pow with domains := s.pow.domains.upd 2 fun y => { y with good := true } } })
      ∧ (starts → d ≠ 2 → Does (.domainPowerGood t d) s fun s' =>
          s'.pow.domains.get d = { x with state := 2, good := true } ∧ (∀ k, k ≠ d → s'.pow.domains.get k = s.pow.domains.get k)
            ∧ s'.hub = s.hub ∧ s'.cfg = s.cfg ∧ s'.weft = s.weft ∧ s'.trd = s.trd ∧ s'.drv = s.drv ∧ s'.clk = u.clk)
      ∧ (d = 2 → ¬ (x.state = 1 ∧ x.good = true) → same (.storeZeroed t))
      ∧ (d = 2 → x.state = 1 → x.good = true → Does (.storeZeroed t) s fun s' =>
          (s'.pow.domains.get 2).state = 2 ∧ (∀ k, k ≠ 2 → s'.pow.domains.get k = s.pow.domains.get k)
            ∧ s'.itg = { s.itg with words := [], rowCount := [], rowsTold := [], passFrom := now } ∧ s'.hub = s.hub ∧ s'.cfg = s.cfg
            ∧ s'.weft = s.weft ∧ s'.trd = s.trd ∧ s'.drv = s.drv ∧ s'.clk = u.clk)
      ∧ (let late := d < 8 ∧ x.state = 1 ∧ x.good = false ∧ x.since + usLoom 5000 ≤ now
        (¬ late → same (.domainPowerGoodTimeout t d))
          ∧ (late → Does (.domainPowerGoodTimeout t d) s fun s' => lost s' ∧ (s'.pow.domains.get d).givenUp = true))
      ∧ (d = 0 → Does (.domainSwitchFault t d) s dead)
      ∧ (0 < d → d < 8 → x.state = 1 ∨ x.state = 2 → Does (.domainSwitchFault t d) s lost)
      ∧ (0 < d → x.state = 0 ∨ x.state = 3 ∨ 8 ≤ d → same (.domainSwitchFault t d))
      ∧ (∀ rail span,
        let y := s.pow.rails.get rail
        (8 ≤ rail → same (.railOutOfWindow t rail span))
          ∧ (rail < 8 → Does (.railOutOfWindow t rail span) s fun s' =>
            s'.pow.rails.get rail = { y with
                state := if span then 2 else 1, excursions := if y.state = 0 then inc16 y.excursions else y.excursions }
              ∧ (∀ r, r ≠ rail → s'.pow.rails.get r = s.pow.rails.get r) ∧ s'.sh.alarms.contains 13 = true
              ∧ (0 < d → d < 8 → (domainRails d).contains rail = true → x.state = 1 ∨ x.state = 2 →
                (s'.pow.domains.get d).state = 3 ∧ (s'.pow.domains.get d).losses = inc16 x.losses)
              ∧ (0 < d → (domainRails d).contains rail = false → s'.pow.domains.get d = x)
              ∧ ((domainRails 0).contains rail = true → s.domOn 0 = true →
                s'.hub.inReset = true ∧ s'.hub.state = .boot ∧ (s'.pow.domains.get 0).state = 3)
              ∧ ((domainRails 0).contains rail = false → s'.hub.inReset = s.hub.inReset)))
      ∧ ∀ rail, (8 ≤ rail → same (.railInWindow t rail))
          ∧ (rail < 8 → (s.pow.domains.get 0).state ≠ 3 → Does (.railInWindow t rail) s fun s' =>
            s'.pow.rails.get rail = { s.pow.rails.get rail with state := 0 }
              ∧ (∀ r, r ≠ rail → s'.pow.rails.get r = s.pow.rails.get r) ∧ s'.pow.domains = s.pow.domains
              ∧ s'.sh.alarms.contains 13 = ((List.range 8).any fun r => r != rail && (s.pow.rails.get r).state != 0)
              ∧ s'.hub = s.hub ∧ s'.cfg = s.cfg ∧ s'.clk = u.clk)
          ∧ (rail < 8 → (s.pow.domains.get 0).state = 3 → s.hub.nresetLow = false →
            (∀ r ∈ domainRails 0, r ≠ rail → (s.pow.rails.get r).state = 0) → Does (.railInWindow t rail) s fun s' =>
              s'.hub.inReset = false ∧ s'.hub.state = .boot ∧ (s'.pow.domains.get 0).state = 2
                ∧ s'.pow.rails.get rail = { s.pow.rails.get rail with state := 0, excursions := 0 })

/-- R453, R454, R458 to R462, R464, R465: DOMAIN_SET, SEED_SUBST and SEED_CONSENT stage what they ask for at the beat,
or say why not; IMAGE_LOAD fills the staging area and IMAGE_END begins to decompress it over the idle image. Rests on
the readings and choices of log entries 31, 33, 106, 147. -/
def Obligations.PowerAndSeedCommandsAct : Prop :=
  ∀ (s : State) (t : Nat) (rq : Req),
    let u := tick t s
    let none_ := atIndex 0xFFFF
    (∀ mask, s.Takes rq stHeld → s.hub.role ≠ .standby → mask < 2 ^ 7 → rq.payload = beBytes 1 mask ++ zeros 1 →
        let off := fun (d : Nat) => (s.pow.domains.get d).state ≠ 0 ∧ nbit mask (d - 1) = false
        let starting := ∃ d, d < 8 ∧ (s.pow.domains.get d).state = 1
        let barred := (s.hub.state ≠ .config ∧ (off 1 ∨ off 2 ∨ off 3)) ∨ (off 2 ∧ nbit mask 0 = true)
        (starting → Refuses (.domainSet t rq) t s rq 0x0E01 0x0108 none_)
          ∧ (¬ starting → barred → Refuses (.domainSet t rq) t s rq 0x0E01 0x0101 none_)
          ∧ (¬ starting → ¬ barred → Stages (.domainSet t rq) t s rq 0x0E01 (.domains mask) [] u))
      ∧ (∀ kind idx, s.Takes rq stRead → s.hub.role ≠ .standby → kind < 2 ^ 8 → idx < 2 ^ 16 →
        rq.payload = beBytes 1 kind ++ zeros 1 ++ beBytes 2 idx →
        let worn := ∃ w ∈ s.pow.worn, w.kind = kind ∧ w.idx = idx ∧ w.state = 0
        (kind < 2 ∨ 6 < kind → Refuses (.seedSubst t rq) t s rq 0x0E03 0x0306 (atIndex kind))
          ∧ (2 ≤ kind → kind ≤ 6 → partLimit kind ≤ idx → Refuses (.seedSubst t rq) t s rq 0x0E03 0x0306 (atIndex idx))
          ∧ (2 ≤ kind → kind ≤ 6 → idx < partLimit kind → ¬ worn →
            Refuses (.seedSubst t rq) t s rq 0x0E03 0x0301 (atIndex idx))
          ∧ (2 ≤ kind → kind ≤ 6 → idx < partLimit kind → worn → s.spareLeft kind = false →
            Refuses (.seedSubst t rq) t s rq 0x0E03 0x0504 none_)
          ∧ (2 ≤ kind → kind ≤ 6 → idx < partLimit kind → worn → s.spareLeft kind = true →
            Stages (.seedSubst t rq) t s rq 0x0E03 (.subst kind idx) [] u))
      ∧ (∀ kind pod part, s.Takes rq stHeld → s.hub.role ≠ .standby → kind < 2 → pod < 2 ^ 8 → part < 2 ^ 8 →
        rq.payload = beBytes 1 kind ++ beBytes 1 pod ++ beBytes 1 part ++ zeros 1 →
        let there := pod < 16 ∧ part < (if kind = 0 then 16 else 4)
        (16 ≤ pod → Refuses (.seedConsent t rq) t s rq 0x0E04 0x0306 (atIndex pod))
          ∧ (pod < 16 → ¬ there → Refuses (.seedConsent t rq) t s rq 0x0E04 0x0306 (atIndex part))
          ∧ (there → s.podCut pod = true → Refuses (.seedConsent t rq) t s rq 0x0E04 0x0105 (atIndex pod))
          ∧ (there → s.podCut pod = false → s.podTested pod = true → Refuses (.seedConsent t rq) t s rq 0x0E04 0x0108 none_)
          ∧ (there → s.podCut pod = false → s.podTested pod = false → s.freeSpare kind pod = none →
            Refuses (.seedConsent t rq) t s rq 0x0E04 0x0504 none_)
          ∧ ∀ sp, there → s.podCut pod = false → s.podTested pod = false → s.freeSpare kind pod = some sp →
            Stages (.seedConsent t rq) t s rq 0x0E04 (.consent kind pod part sp) (beBytes 1 sp ++ zeros 3) u)
      ∧ (∀ off (data : Bytes), s.Takes rq stHeld → off < 2 ^ 32 → data ≠ [] → data.length ≤ 992 →
        rq.payload = zeros 4 ++ beBytes 4 off ++ data →
        (s.stagingHeld = true → Refuses (.imageLoad t rq) t s rq 0x0E05 0x0108 none_)
          ∧ (s.stagingHeld = false → 2 ^ 20 < off + data.length → Refuses (.imageLoad t rq) t s rq 0x0E05 0x0301 none_)
          ∧ (s.stagingHeld = false → off + data.length ≤ 2 ^ 20 → s.domOn 2 = false →
            Refuses (.imageLoad t rq) t s rq 0x0E05 0x0105 none_)
          ∧ (s.stagingHeld = false → off + data.length ≤ 2 ^ 20 → s.domOn 2 = true →
            ∃ staging bad, Answers (.imageLoad t rq) s rq 0x0E05 0 0 [] { u with
                drv := { s.drv with staging := staging, stagingFor := .image, stagingBad := bad } }
              ∧ (bad = true → s.drv.stagingBad = true)
              ∧ (∀ i, i < data.length → staging.get (off + i) = data.getD i 0)
              ∧ ∀ a, a < off ∨ off + data.length ≤ a → staging.get a = s.drv.staging.get a))
      ∧ ∀ n, s.Takes rq stHeld → n < 2 ^ 32 → rq.payload = beBytes 4 n →
        let slot := s.idleSlot
        (s.stagingHeld = true → Refuses (.imageEnd t rq) t s rq 0x0E06 0x0108 none_)
          ∧ (s.stagingHeld = false → 2 ^ 20 < n → Refuses (.imageEnd t rq) t s rq 0x0E06 0x0301 none_)
          ∧ (s.stagingHeld = false → n ≤ 2 ^ 20 → s.domOn 1 = false ∨ s.domOn 2 = false →
            Refuses (.imageEnd t rq) t s rq 0x0E06 0x0105 none_)
          ∧ (s.stagingHeld = false → n ≤ 2 ^ 20 → s.domOn 1 = true → s.domOn 2 = true → 16 ≤ s.jobsRunning →
            Refuses (.imageEnd t rq) t s rq 0x0E06 0x0502 none_)
          ∧ (s.stagingHeld = false → n ≤ 2 ^ 20 → s.domOn 1 = true → s.domOn 2 = true → s.jobsRunning < 16 →
            ∃ id v, newJob 0x0E06 0 (.imageLoad n) u = some (id, v)
              ∧ Answers (.imageEnd t rq) s rq 0x0E06 3 0 (beBytes 2 id) { v with
                win := { v.win with job := some id }, drv := { v.drv with stagingFor := .image }
                pow := if slot = 0 then { v.pow with imageA := { v.pow.imageA with invalid := true } }
                  else { v.pow with imageB := { v.pow.imageB with invalid := true } } })

/-! ### Reset and BOOT -/

/-- R71, R72, R77, R97, R454 to R457: nRESET low ends every claim and holds the hub; at its rising edge the straps are
latched and BOOT begins: with XI absent it waits; else it reads what eMRAM holds, chooses the firmware image and the
configuration copy, and starts the domains that D_REQ names. Rests on the readings and choices of log entries 20, 72,
118, 141, 188. -/
def Obligations.BootChoosesAndStarts : Prop :=
  ∀ (s : State) (t : Nat) (rolePri hubidSel bootSel : Bool),
    let u := tick t s
    let same := fun (c : Instr) => exec c s = .next u
    let release := Instr.nresetRelease t rolePri hubidSel bootSel
    let begins := fun (P : State → Prop) => s.hub.nresetLow = true → s.railsIn 0 = true → Does release s P
    let goes := fun (P : State → Prop) => s.xiOut = false → begins P
    let boots := fun (P : State → Prop) => (∀ i, i < 6 → Config.badSector (s.free + i) = none) → goes P
    let taken := Config.emramWrite (s.free + 6) = true
    let ends := u.clk.loom + Config.writeTime (s.free + 6)
    let a := s.cfg.copyA
    let b := s.cfg.copyB
    let loads := fun (inB : Bool) (s' : State) =>
      let x := if inB then b else a
      s'.cfg.inB = inB ∧ s'.cfg.seq = x.seq ∧ s'.cfg.rejected = false
        ∧ (s.check x.words = none → s'.cfg.force = x.words ∧ s'.cfg.active = x.words ∧ s'.sh.work = none
          ∧ s'.hub.bootTo = if PMem.autostart x.words then .run else .ready)
        ∧ (∀ f, s.check x.words = some f → s'.cfg.force = [] ∧ s'.cfg.active = [] ∧ s'.hub.bootTo = .config
          ∧ s'.sh.work = some { words := x.words, seq := x.seq }
          ∧ ∃ e ∈ s'.sh.log, e.reason = f.1 ∧ e.source = 0 ∧ e.detail = b2n inB)
    let logs := fun (reason source : Nat) (s' : State) => ∃ e ∈ s'.sh.log, e.reason = reason ∧ e.source = source
    let rejects := fun (reason : Nat) (s' : State) => s'.cfg.rejected = true ∧ s'.cfg.force = [] ∧ s'.cfg.active = []
      ∧ s'.cfg.seq = (if a.valid then a.seq else 0) ∧ s'.hub.bootTo = .config ∧ logs reason 0 s'
    let va := s.pow.imageA.invalid = false
    let vb := s.pow.imageB.invalid = false
    (Does (.nresetAssert t) s fun s' => s'.hub.state = .boot ∧ s'.hub.nresetLow = true ∧ s'.hub.inReset = true
        ∧ (s.hub.inReset = false → ∀ m, m < 8 → (s'.sh.mail.get m).claim = none)
        ∧ (s.hub.inReset = true → s'.sh = s.sh) ∧ s'.cfg.force = s.cfg.force ∧ s'.cfg.active = s.cfg.active
        ∧ s'.cfg.copyA = s.cfg.copyA ∧ s'.cfg.copyB = s.cfg.copyB ∧ s'.clk = u.clk)
      ∧ (s.hub.nresetLow = false → same release)
      ∧ (s.hub.nresetLow = true → s.railsIn 0 = false → exec release s = .next { u with
          hub := { s.hub with nresetLow := false, rolePri := rolePri, hubidSel := hubidSel, bootSel := bootSel } })
      ∧ (begins fun s' => s'.hub.state = .boot ∧ s'.hub.role = .solo ∧ s'.hub.nresetLow = false ∧ s'.hub.inReset = false
          ∧ s'.hub.rolePri = rolePri ∧ s'.hub.hubidSel = hubidSel ∧ s'.hub.bootSel = bootSel ∧ s'.hub.hubId = none
          ∧ s'.sh.taken = [] ∧ s'.sh.jobs = [] ∧ s'.sh.lock = none ∧ (∀ m, s'.sh.mail.get m = {}) ∧ s'.weft.pool = []
          ∧ s'.filt = {} ∧ s'.clk.loom = u.clk.loom ∧ s'.clk.beat = s.clk.beat ∧ s'.clk.overruns = 0)
      ∧ (s.xiOut = true → begins fun s' => s'.hub.xiWait = some 0 ∧ s'.sh.xiFrom = some u.clk.loom ∧ logs 0x0408 0 s'
          ∧ ∀ d, 0 < d → s'.pow.domains.get d = {})
      ∧ (∀ i sec, i < 6 → Config.badSector (s.free + i) = some sec → goes (logs 0x0409 0x0E00))
      ∧ (goes fun s' => ∀ d, 0 < d → d < 8 → (s'.pow.domains.get d).state
          = if nbit (fld (s'.cfg.active.word 0x0E00 0) 6 0) (d - 1) then (if s.railsIn d then 1 else 3) else 0)
      ∧ (va → vb → boots fun s' => s'.pow.imageA = s.pow.imageA ∧ s'.pow.imageB = s.pow.imageB ∧ s'.hub.runImage
          = if bootSel = false ∧ newer32 s.pow.imageB.seq s.pow.imageA.seq = true then 1 else 0)
      ∧ (va → ¬ vb → boots fun s' => s'.hub.runImage = 0 ∧ s'.pow.imageA = s.pow.imageA
          ∧ (taken → s'.pow.imageB = { s.pow.imageA with writeEnds := ends })
          ∧ (¬ taken → s'.pow.imageB = s.pow.imageB))
      ∧ (¬ va → vb → boots fun s' => s'.hub.runImage = 1 ∧ s'.pow.imageB = s.pow.imageB
          ∧ (taken → s'.pow.imageA = { s.pow.imageB with writeEnds := ends })
          ∧ (¬ taken → s'.pow.imageA = s.pow.imageA) ∧ (bootSel = true → logs 0x040B 0x0E00 s'))
      ∧ (¬ va → ¬ vb → boots fun s' => s'.hub.runImage = 2 ∧ logs 0x040B 0x0E00 s')
      ∧ (a.valid = true → b.valid = true → boots fun s' => s'.cfg.copyA = a ∧ s'.cfg.copyB = b
          ∧ (a.words = b.words → loads false s')
          ∧ (a.words ≠ b.words → newer32 b.seq a.seq = true → loads true s')
          ∧ (a.words ≠ b.words → newer32 a.seq b.seq = true → loads false s')
          ∧ (a.words ≠ b.words → a.seq = b.seq → rejects 0x0403 s')
          ∧ (a.words ≠ b.words → a.seq ≠ b.seq → newer32 b.seq a.seq = false → newer32 a.seq b.seq = false →
            rejects 0x0404 s'))
      ∧ (a.valid = true → b.valid = false → boots fun s' => loads false s' ∧ logs 0x0402 0 s' ∧ s'.cfg.copyA = a
          ∧ (s'.cfg.copyB = a ∨ (s'.cfg.copyB = b ∧ s'.sh.alarms.contains 12 = true ∧ ∃ k, Config.emramWrite k = false)))
      ∧ (a.valid = false → b.valid = true → boots fun s' => loads true s' ∧ logs 0x0402 0 s' ∧ s'.cfg.copyB = b
          ∧ (s'.cfg.copyA = b ∨ (s'.cfg.copyA = a ∧ s'.sh.alarms.contains 12 = true ∧ ∃ k, Config.emramWrite k = false)))
      ∧ (a.valid = false → b.valid = false → boots (rejects 0x0405))

/-- R10, R57, R205, R422, R456: BOOT ends in the state its configuration asks for, with a hub ID and a role, and with
a reset of the pod dies for the first boundary at least 2 ms later; while XI is absent it waits, and logs that each
second; a hub that pairs and hears no partner listens for JOIN_WAIT. Rests on the readings and choices of log entries
13, 117. -/
def Obligations.BootEndsInARole : Prop :=
  ∀ (s : State) (t : Nat),
    let u := tick t s
    let now := u.clk.loom
    let p := s.pair.partner
    let up := (∀ d, d = 1 ∨ d = 2 → (s.pow.domains.get d).wanted = true → (s.pow.domains.get d).state = 2)
      ∧ s.cfg.active.macFits s.macLanes = true
    let ends := fun (c : Instr) (r : Role) (uncertain mirror : Bool) =>
      Does c s fun s' => s'.hub.role = r ∧ s'.hub.hubId = s.bootId ∧ s'.pair.listening = none
        ∧ s'.sh.alarms.contains 9 = uncertain ∧ s'.sh.alarms.contains 8 = mirror
        ∧ (up → s'.hub.state = s.hub.bootTo)
        ∧ (¬ up → s'.hub.state = .fault ∧ (s'.hub.causes.contains (.macLoad (s.pow.used.get 2)) = true
          ∨ ∃ d, (d = 1 ∨ d = 2) ∧ s'.hub.causes.contains (.domainLost d) = true))
        ∧ (let at_ := beatTime u.ahead2ms
          if s'.warp.lock = .locked ∧ s'.warp.source = 2 ∧ s.cfg.active.isRoot = false then s'.warp.catchUp = some at_
          else s'.warp.bootReset = some at_)
        ∧ (r = .standby → s'.pair.inSync = false) ∧ s'.cfg.force = s.cfg.force ∧ s'.cfg.active = s.cfg.active ∧ s'.clk = u.clk
    let dest := s.hub.bootTo = .config ∨ s.hub.bootTo = .ready ∨ s.hub.bootTo = .run
    let heard := s.pair.linkUp = true ∧ p.heard = true
    (s.bootReady = false → exec (.joinWaitExpiry t) s = .next u
        ∧ (s.hub.inReset = true → exec (.endOfBoot t) s = .next u)
        ∧ (s.hub.inReset = false → s.hub.xiWait = none → s.xiOut = false → exec (.endOfBoot t) s = .next (endXi u)))
      ∧ (s.hub.inReset = false → s.xiOut = true → exec (.endOfBoot t) s = .next (logXi u))
      ∧ (∀ last, s.sh.xiFrom = some last → let n := (now - last) / 2 ^ 32
        (logXi u).sh.nextEvent = (s.sh.nextEvent + n) % 2 ^ 32
          ∧ (0 < n → ∃ e, (logXi u).sh.log.head? = some e ∧ e.reason = 0x0408 ∧ e.source = 0)
          ∧ (logXi u) = { u with sh := { s.sh with
            log := (logXi u).sh.log, nextEvent := (logXi u).sh.nextEvent, xiFrom := some (last + n * 2 ^ 32) } })
      ∧ (s.bootReady = true → dest → s.cfg.active.pairEn = false → ends (.endOfBoot t) .solo false false)
      ∧ (s.bootReady = true → dest → s.cfg.active.pairEn = true → heard →
        (p.role = .active → ends (.endOfBoot t) .standby false false)
          ∧ (p.role = .standby → ends (.endOfBoot t) .active false false)
          ∧ (p.role = .solo → p.state ≠ .boot → s.excited = false → ends (.endOfBoot t) .active false false)
          ∧ (p.role = .solo → p.state ≠ .boot → s.excited = true → ends (.endOfBoot t) .standby true false)
          ∧ (p.role = .solo → p.state = .boot →
            let first := if s.hub.rolePri = Config.partnerPrimary then Config.macLower else s.hub.rolePri
            ends (.endOfBoot t) (if first then .active else .standby) false false))
      ∧ (s.bootReady = true → s.cfg.active.pairEn = true → ¬ heard → exec (.endOfBoot t) s = .next { endXi u with
          pair := { s.pair with listening := some (s.pair.listening.getD now) } })
      ∧ (s.pair.listening = none → exec (.joinWaitExpiry t) s = .next u)
      ∧ ∀ l, s.pair.listening = some l →
        let waited := l + usLoom (s.cfg.active.joinWait * 100000) ≤ now
        (¬ waited → exec (.joinWaitExpiry t) s = .next u)
          ∧ (waited → s.bootReady = true → dest → ¬ heard →
            (s.pair.hbIn = true → ends (.joinWaitExpiry t) .standby false true)
              ∧ (s.pair.hbIn = false → s.excited = false → ends (.joinWaitExpiry t) .active false false)
              ∧ (s.pair.hbIn = false → s.excited = true → ends (.joinWaitExpiry t) .standby true false))

/-! ### Redundant pairs -/

/-- R397, R399, R422, R425 to R432: the frames of the Selvedge link. A heartbeat and every other frame pass the alive
rule; the link comes up and is lost; snapshots load a standby's engines, deltas change its configuration and are
acknowledged, and an active sends again what is not. Rests on the readings and choices of log entries 51, 52, 58, 131.
-/
def Obligations.SelvedgeFramesAct : Prop :=
  ∀ (s : State) (t : Nat),
    let u := tick t s
    let now := u.clk.loom
    let g := s.itg
    let p := s.pair
    let same := fun (c : Instr) => exec c s = .next u
    let dist := fun (alive : Nat) => match p.rxAlive with
      | some l => (alive + 16 - l % 16) % 16
      | none => 1
    let got := fun (alive : Nat) => ({ p with
      rxAlive := some (alive % 16), lastValid := now, row := if dist alive = 1 then p.row else 0 } : Pair)
    let missing := fun (alive : Nat) => sat16 (g.svMissing + (dist alive - 1))
    let runs := fun (v : Nat) => g.units.set 3 v
    let waits := fun (c : Instr) => s.crossHolds 7 = true → s.onSelvedge = true →
      exec c s = .next (crossUpd 7 (fun x => { x with held := x.held ++ [.row c] }) u)
    let stale := fun (v : Nat) =>
      { u with itg := { g with units := runs v, svStale := inc16 g.svStale }, pair := { p with row := 0 } }
    let bad := fun (v : Nat) => { u with
      itg := { g with units := runs v, svStale := inc16 g.svStale, mismatches := g.mismatches.upd 3 inc16 }
      pair := { p with row := 0 } }
    let repeated := fun (v : Nat) => { u with itg := { g with units := runs v, svRepeats := inc16 g.svRepeats } }
    let frames := fun (typ : Nat) (payload : Bytes) (c : SvHeader → Instr) (P : State → State → Prop) => ∀ h,
      let v := svRun (svFrame typ h.alive h.cfgSeq (payload.take 4096))
      let taken := { u with itg := { g with units := runs v, svMissing := missing h.alive }, pair := got h.alive }
      waits (c h) ∧ (s.onSelvedge = false → same (c h))
        ∧ (s.onSelvedge = true → s.crossHolds 7 = false →
          (h.crcOk = false → exec (c h) s = .next { bad (Config.freeWord s.free).toNat with free := s.free + 1 })
            ∧ (h.crcOk = true → dist h.alive = 0 → exec (c h) s = .next (repeated v))
            ∧ (h.crcOk = true → 9 ≤ dist h.alive → exec (c h) s = .next (stale v))
            ∧ (h.crcOk = true → 1 ≤ dist h.alive → dist h.alive ≤ 8 → p.linkUp = false → exec (c h) s = .next taken)
            ∧ (h.crcOk = true → 1 ≤ dist h.alive → dist h.alive ≤ 8 → p.linkUp = true → Does (c h) s (P { taken with
              pair := { taken.pair with partner := { p.partner with cfgSeq := h.cfgSeq } } })))
    let last := fun (s' : State) => if s.crossHolds 7 then s'.pair.out.getLast? else s'.wire.head?
    let sends := fun (typ : Nat) (s' : State) =>
      ∃ f, last s' = some (.selvedge now typ s.cfg.seq ((p.txAlive + 1) % 16) f)
        ∧ beAt f 0 1 = 0xBC ∧ beAt f 1 1 = (p.txAlive + 1) % 16 * 16 + typ
        ∧ beAt f (f.length - 4) 4 = (crc32c (slice f 1 (f.length - 5))).toNat
    let beats := s.onSelvedge = true ∧ (s.hub.state ≠ .boot ∨ p.listening.isSome = true)
      ∧ ∀ x, p.hbSent = some x → x + usSpan 4 ≤ now
    (¬ beats → same (.heartbeatSend t))
      ∧ (beats → Does (.heartbeatSend t) s fun s' =>
        sends 1 s' ∧ s'.pair.txAlive = (p.txAlive + 1) % 16 ∧ s'.pair.hbSent = some now
          ∧ s'.pair.logOut = (if s.hub.role = .active then p.logOut.drop 16 else p.logOut)
          ∧ s'.hub = s.hub ∧ s'.cfg = s.cfg ∧ s'.trd = s.trd ∧ s'.weft = s.weft ∧ s'.clk = u.clk)
      ∧ (∀ frame : Bytes,
        let n := beAt frame 2 2
        let alive := beAt frame 1 1 / 16
        let body := slice frame 8 n
        let v := svRun frame
        let ok := frame.length = 12 + n ∧ 252 ≤ n ∧ n ≤ 4096
          ∧ (crc32c (slice frame 1 (7 + n))).toNat = beAt frame (8 + n) 4 ∧ beAt frame 1 1 % 16 = 1
        waits (.selvedgeHeartbeat t frame)
          ∧ (s.onSelvedge = false ∨ (s.crossHolds 7 = false ∧ beAt frame 0 1 ≠ 0xBC) → same (.selvedgeHeartbeat t frame))
          ∧ (s.onSelvedge = true → s.crossHolds 7 = false → beAt frame 0 1 = 0xBC →
            (¬ ok → exec (.selvedgeHeartbeat t frame) s = .next (bad v))
              ∧ (ok → dist alive = 0 → exec (.selvedgeHeartbeat t frame) s = .next (repeated v))
              ∧ (ok → 9 ≤ dist alive → exec (.selvedgeHeartbeat t frame) s = .next (stale v))
              ∧ (ok → 1 ≤ dist alive → dist alive ≤ 8 → Does (.selvedgeHeartbeat t frame) s fun s' =>
                s'.itg.svMissing = missing alive ∧ s'.pair.lastValid = now
                  ∧ (s.hub.state ≠ .boot → s'.pair.rxAlive = some (alive % 16)
                    ∧ s'.pair.row = (got alive).row + 1 ∧ s'.pair.linkUp = (p.linkUp || decide (16 ≤ (got alive).row + 1)))
                  ∧ s'.pair.partner.role = roleOf (beAt body 0 1 / 16) ∧ s'.pair.partner.state = stateOf (beAt body 0 1 % 16)
                  ∧ s'.pair.partner.able = nbit (beAt body 1 1) 7 ∧ s'.pair.partner.wants = nbit (beAt body 1 1) 5
                  ∧ s'.pair.partner.notice = beAt body 20 4 ∧ s'.pair.partner.cfgSeq = beAt frame 4 4
                  ∧ (s'.pair.linkUp = true → s.hub.state ≠ .boot → s'.sh.alarms.contains 8 = false))))
      ∧ (∀ beat index items, frames 2 (Config.snapshotPayload beat index items) (.snapshotFragment t · { beat, index } items false)
        fun v s' =>
        let whole := index == 0 || (p.fragBeat == beat && p.fragNext == index)
        let before := if index = 0 ∨ whole = false then [] else p.fragments
        let next := if whole then index + 1 else 0
        (s.hub.role ≠ .standby → s' = v)
          ∧ (s.hub.role = .standby → items.any itemBad = false → s' = { v with pair := { v.pair with
            fragments := if whole then before ++ items else [], fragBeat := beat, fragNext := next } })
          ∧ (∀ i, s.hub.role = .standby → items = [i] → itemBad i = true →
            s'.itg.husks = inc16 g.husks ∧ s'.pair.fragments = before ∧ s'.pair.fragNext = next
              ∧ s'.trd = s.trd ∧ s'.drv = s.drv ∧ s'.hub = s.hub))
      ∧ (∀ beat index items, frames 2 (Config.snapshotPayload beat index items) (.snapshotFragment t · { beat, index } items true)
        fun v s' =>
        let whole := index == 0 || (p.fragBeat == beat && p.fragNext == index)
        let all := (if index = 0 then [] else p.fragments) ++ items
        let isLoop := fun (i : SnapItem) => match i with
          | .loop .. => true
          | _ => false
        (s.hub.role ≠ .standby → s' = v)
          ∧ (s.hub.role = .standby → items.any itemBad = false → whole = false →
            s'.pair.snapshot = p.snapshot ∧ s'.pair.inSync = false ∧ s'.cfg = s.cfg ∧ s'.drv = s.drv ∧ s'.trd = s.trd
              ∧ s'.hub = s.hub ∧ (p.askedAt ≠ some s.clk.beat → sends 6 s'))
          ∧ (s.hub.role = .standby → items.any itemBad = false → whole = true → p.logIn = [] →
            s'.pair.snapshot = all ∧ s'.pair.snapBeat = beat ∧ s'.pair.fragments = [] ∧ s'.hub = s.hub
              ∧ (all.any isLoop = false → s'.cfg.active = s.cfg.active ∧ s'.cfg.force = s.cfg.force)
              ∧ (s'.pair.inSync = true → now ≤ beatTime beat + usLoom 500 ∧ beat = s.clk.beat)
              ∧ (all.all (fun i => match i with
                  | .configuration .. => false
                  | _ => true) = true →
                s'.pair.inSync = (decide (now ≤ beatTime beat + usLoom 500) && v.pair.partner.cfgSeq == s.cfg.seq
                  && beat == s.clk.beat && decide (p.lateTo ≤ beat)))
              ∧ (∀ q armed st counters timers coin, all = [.sequencer false q armed st counters timers coin] →
                (s'.trd.seqs.get q).armed = armed ∧ (s'.trd.seqs.get q).state = st ∧ (s'.trd.seqs.get q).coin = coin
                  ∧ (∀ k, k < counters.length → (s'.trd.seqs.get q).counters.get k = counters.getD k 0)
                  ∧ ∀ j, j ≠ q → s'.trd.seqs.get j = s.trd.seqs.get j)
              ∧ (∀ n sel current vs, all = [.loop false n sel current vs] → n < 16 → vs.length = 4 →
                (s'.drv.loops.get n).sel = sel ∧ (s'.drv.loops.get n).current = current.toNat
                  ∧ (∀ sl, sl < 4 → s'.cfg.active.loopSlot n sl 1 = vs.getD sl 0)
                  ∧ ∀ j, j ≠ n → s'.drv.loops.get j = s.drv.loops.get j)))
      ∧ (∀ (d : Delta) (husks : List Nat), frames 3 (Config.deltaPayload d) (.delta t · { delta := d, bad := husks }) fun v s' =>
        let known := p.rxDeltas.any fun x => x.1 == d.id
        let later := (p.rxDeltas.filter fun x => newer32 x.1 d.id)
        let keys := later.flatMap (·.2)
        let due := if now + usLoom 50 ≤ beatTime d.due then d.due
          else max (d.due + 1) (max (beatAt (now + usLoom 50 - 1)) (beatAt s.clk.boundary) + 1)
        let queued := fun (c : Change) =>
          if later = [] then s.cfg.staged ++ [{ change := c, due := due }] else { change := c, due := due } :: s.cfg.staged
        (s.hub.role ≠ .standby → s' = v)
          ∧ (s.hub.role = .standby → sends 4 s')
          ∧ (s.hub.role = .standby → known = true → s'.cfg = s.cfg ∧ s'.drv = s.drv ∧ s'.trd = s.trd ∧ s'.hub = s.hub
            ∧ s'.pair.inSync = p.inSync)
          ∧ (s.hub.role = .standby → known = false → s'.itg.husks = (List.range husks.length).foldl (fun n _ => inc16 n) g.husks
            ∧ ∀ ws, d.change = .words ws →
              let good := ws.filter fun kw => !(husks.contains kw.1) && !(keys.contains kw.1)
              s'.cfg.force = s.cfg.force.putAll good ∧ s'.cfg.staged = queued (.words good) ∧ s'.cfg.active = s.cfg.active
                ∧ s'.cfg.seq = if keys = [] then d.cfgSeq else s.cfg.seq)
          ∧ (s.hub.role = .standby → known = false → husks = [] →
            s'.pair.rxDeltas.head? = some (d.id, changeKeys d.change)
              ∧ (now + usLoom 50 ≤ beatTime d.due → s'.pair.inSync = p.inSync)
              ∧ (beatTime d.due < now + usLoom 50 → s'.pair.inSync = false ∧ due ≤ s'.pair.lateTo)
              ∧ (∀ h, d.change = .move h → s'.cfg = { s.cfg with staged := queued d.change })
              ∧ (∀ m, d.change = .arm m ∨ d.change = .disarm m → s'.cfg = { s.cfg with staged := queued d.change })))
      ∧ (∀ id, frames 4 (beBytes 4 id) (.deltaAcknowledgement t · id) fun v s' =>
        s' = { v with pair := { v.pair with deltas := p.deltas.filter fun d => d.id != id } })
      ∧ (let due := s.hub.role = .active ∧ s.onSelvedge = true ∧ p.lastResend + usLoom 20 ≤ now
        let out := fun (x : State) => if s.crossHolds 7 then x.pair.out else x.wire
        (¬ due → same (.deltaResend t))
          ∧ (due → Does (.deltaResend t) s fun s' => s'.pair.lastResend = now ∧ s'.pair.deltas = p.deltas
            ∧ (out s').length = (out s).length + p.deltas.length ∧ (∀ d ∈ p.deltas, ∃ f, .delta now d f ∈ out s')
            ∧ s'.hub = s.hub ∧ s'.cfg = s.cfg ∧ s'.clk = u.clk))
      ∧ (frames 6 [] (.resyncRequest t ·) fun v s' =>
        let d : Delta := { id := p.nextDelta, change := .words s.cfg.force.mirrorWords, due := u.due, cfgSeq := s.cfg.seq }
        let f := svFrame 3 ((p.txAlive + 1) % 16) s.cfg.seq ((Config.deltaPayload d).take 4096)
        (s.hub.role ≠ .active → s' = v)
          ∧ (s.hub.role = .active → s'.pair.deltas = p.deltas ++ [d] ∧ s'.pair.nextDelta = next32 p.nextDelta
            ∧ s'.wire = .delta now d f :: s.wire ∧ s'.pair.counters.get 5 = inc16 (p.counters.get 5)
            ∧ s'.itg.units.get 3 = svRun f ∧ s'.hub = s.hub ∧ s'.cfg = s.cfg))
      ∧ (let due := p.linkUp = true ∧ p.lastValid + usLoom 20 ≤ now
        (¬ due → same (.selvedgeLost t))
          ∧ (due → Does (.selvedgeLost t) s fun s' => s'.pair.linkUp = false ∧ s'.pair.row = 0 ∧ s'.pair.inSync = false
            ∧ s'.pair.rxAlive = none ∧ s'.pair.counters.get 3 = inc16 (p.counters.get 3)
            ∧ (s.hub.role = .active → s.paired = true → s'.sh.alarms.contains 8 = true)
            ∧ s'.hub = s.hub ∧ s'.cfg = s.cfg ∧ s'.trd = s.trd ∧ s'.clk = u.clk))
      ∧ (∀ lane, (3 ≤ lane → same (.selvedgeLaneFailure t lane))
        ∧ (lane < 3 → Does (.selvedgeLaneFailure t lane) s fun s' => s'.pair.lanesOut.contains lane = true
          ∧ (∃ w ∈ s'.pow.worn, w.kind = 5 ∧ w.idx = lane) ∧ s'.hub = s.hub ∧ s'.clk = u.clk))
      ∧ (let due := s.hub.role = .standby ∧ s.paired = true ∧ p.snapBeat ≠ s.clk.beat
          ∧ beatTime s.clk.beat + usLoom 500 ≤ now
        (¬ due → same (.mirrorStale t))
          ∧ (due → Does (.mirrorStale t) s fun s' => s'.pair.inSync = false
            ∧ (p.askedAt = some s.clk.beat ∨ p.linkUp = false → s'.wire = s.wire ∧ s'.pair.out = p.out)
            ∧ (p.askedAt ≠ some s.clk.beat → p.linkUp = true → s'.pair.askedAt = some s.clk.beat ∧ sends 6 s'
              ∧ s'.pair.counters.get 5 = inc16 (p.counters.get 5))
            ∧ s'.hub = s.hub ∧ s'.cfg = s.cfg ∧ s'.clk = u.clk))

/-- R423, R434, R435, R437 to R445, R448, R449: the evidence of the partner, and what a pair does about it. A standby
takes over by the first row of R437 that applies; a prompt switch and a make-before-break switch exchange the roles;
PAIR_SWITCH, PAIR_DETACH and MIRROR_RESYNC stage what they ask for. Rests on the readings and choices of log entries
127, 128, 129, 130. -/
def Obligations.PairRolesSwitchOnEvidence : Prop :=
  ∀ (s : State) (t : Nat),
    let u := tick t s
    let now := u.clk.loom
    let p := s.pair
    let same := fun (c : Instr) => exec c s = .next u
    let pairs := fun (c : Instr) (q : Pair) => exec c s = .next { u with pair := q }
    let takesOver := fun (mirror : Bool) (s' : State) => s'.hub.role = .active
      ∧ (∃ e ∈ s'.sh.log, e.reason = 0x0705)
      ∧ s'.sh.alarms.contains 8 = mirror ∧ s'.sh.alarms.contains 9 = false
      ∧ (p.released = [] → s'.weft.nextNotice = (p.partner.notice + 64) % 2 ^ 32)
      ∧ s'.hub.state = s.hub.state ∧ s'.cfg = s.cfg ∧ s'.clk = u.clk
    let drives := s.cfg.active.pairEn = true ∧ s.hub.inReset = false
    let close := ∃ e, p.hbEdge = some e ∧ now < e + usLoom 5
    ((¬ drives → same (.hbInEdge t))
        ∧ (drives → close → pairs (.hbInEdge t) { p with hbEdge := some now })
        ∧ (drives → ¬ close → p.hbLast = none → pairs (.hbInEdge t)
          { p with hbEdge := some now, hbLast := some now, hbRow := 0 })
        ∧ ∀ l, drives → ¬ close → p.hbLast = some l →
          (now ≤ l + usLoom 30 → pairs (.hbInEdge t) { p with
              hbEdge := some now, hbLast := some now, hbRow := p.hbRow + 1
              hbIn := p.hbIn || decide (16 ≤ p.hbRow + 1) })
            ∧ (l + usLoom 30 < now → pairs (.hbInEdge t) { p with hbEdge := some now, hbLast := some now, hbRow := 0 }))
      ∧ (let due := p.hbIn = true ∧ p.hbLast.getD 0 + usLoom 30 ≤ now
        (¬ due → same (.hbInLost t))
          ∧ (due → Does (.hbInLost t) s fun s' => s'.pair.hbIn = false ∧ s'.pair.hbRow = 0
            ∧ s'.pair.counters.get 2 = inc16 (p.counters.get 2) ∧ s'.pair.linkUp = p.linkUp ∧ s'.hub = s.hub ∧ s'.cfg = s.cfg
            ∧ s'.clk = u.clk))
      ∧ (∀ w, let watched := w < 4 ∧ bitAt (s.cfg.active.witness w) 31 = true
        (¬ watched → same (.witnessAbsent t w) ∧ same (.witnessPresent t w))
          ∧ (watched → pairs (.witnessPresent t w) { p with wits := p.wits.set w { present := true } })
          ∧ (watched →
            let others := (List.range 4).any fun k => k != w && bitAt (s.cfg.active.witness k) 31 && (p.wits.get k).present
            pairs (.witnessAbsent t w) { p with
              wits := p.wits.set w { present := false }
              lastExcited := if s.excited && !others then some now else p.lastExcited }))
      ∧ (let q := p.partner
        let watches := s.hub.role = .standby ∧ s.paired = true ∧ s.hub.inReset = false ∧ s.hub.state ≠ .boot
        let free := s.able = true ∧ p.switching = .idle ∧ s.switchBusy = false
        let waits := fun (uncertain : Bool) => Does (.standbyEvaluation t) s fun s' => s'.hub = s.hub
          ∧ s'.pair.switching = p.switching ∧ s'.sh.alarms.contains 9 = uncertain ∧ s'.cfg = s.cfg ∧ s'.clk = u.clk
        let takes := Does (.standbyEvaluation t) s fun s' => takesOver (!p.linkUp) s' ∧ s'.pair.switching = .idle
          ∧ s'.pair.counters.get 0 = inc16 (p.counters.get 0)
          ∧ ∃ d, d ≤ usLoom 50 ∧ s'.pair.tT = some (now + d)
        let goes := (q.state = .fault ∨ q.state = .safe ∨ q.wants = true) ∧ ¬ (q.role = .active ∧ q.able = true)
        let stays := q.role = .active ∨ q.state = .boot
        (¬ watches → same (.standbyEvaluation t))
          ∧ (watches → p.linkUp = true →
            (q.role = .active → q.able = true → waits false)
              ∧ (goes → free → Does (.standbyEvaluation t) s fun s' => takesOver false s'
                ∧ s'.pair.switching = .prompt (now + usLoom 20) true ∧ s'.pair.counters.get 0 = p.counters.get 0
                ∧ s'.pair.tA = some (now + usLoom 20) ∧ s'.pair.tT = some (now + usLoom 20)
                ∧ ∃ f, (if s.crossHolds 7 then s'.pair.out.getLast? else s'.wire.head?)
                    = some (.switchControl now (now + usLoom 20) f) ∧ beAt f 1 1 = (p.txAlive + 1) % 16 * 16 + 5)
              ∧ (goes → ¬ free → waits false)
              ∧ (¬ goes → stays → waits false)
              ∧ (¬ goes → ¬ stays → s.excited = true → waits true)
              ∧ (¬ goes → ¬ stays → s.excited = false → q.role = .standby → q.able = true →
                if s.able && s.preferred then takes else waits false)
              ∧ (¬ goes → ¬ stays → s.excited = false → q.role = .solo ∨ q.able = false →
                if s.able then takes else waits false))
          ∧ (watches → p.linkUp = false →
            (p.hbIn = true → Does (.standbyEvaluation t) s fun s' => s'.hub = s.hub ∧ s'.pair.inSync = false
                ∧ s'.sh.alarms.contains 8 = true ∧ s'.sh.alarms.contains 9 = false ∧ s'.cfg = s.cfg)
              ∧ (p.hbIn = false → s.excited = true → waits true)
              ∧ (p.hbIn = false → s.excited = false → if s.able then takes else waits false)))
      ∧ (∀ h tT, s.onSelvedge = true → s.crossHolds 7 = false → p.linkUp = true → h.crcOk = true →
        (∀ l, p.rxAlive = some l → h.alive = (l + 1) % 16) →
        let run := svRun (svFrame 5 h.alive h.cfgSeq ((Config.switchPayload tT).take 4096))
        let v := { u with itg := { s.itg with units := s.itg.units.set 3 run, svMissing := sat16 s.itg.svMissing }, pair := { p with
          rxAlive := some (h.alive % 16), lastValid := now, partner := { p.partner with cfgSeq := h.cfgSeq } } }
        (s.hub.role = .solo → exec (.switchControl t h tT) s = .next v)
          ∧ (s.hub.role = .active → exec (.switchControl t h tT) s = .next { v with
            pair := { v.pair with switching := .prompt tT false } })
          ∧ (s.hub.role = .standby → exec (.switchControl t h tT) s = .next { v with
            pair := { v.pair with switching := .mbb (beatAt tT) true, wants := false }
            cfg := { s.cfg with staged := s.cfg.staged ++ [{ change := .mbb, due := beatAt tT }] } }))
      ∧ (∀ tT incoming, p.switching = .prompt tT incoming →
        let confirmed := p.linkUp = true ∧ tT < p.lastValid + usLoom 20
        (now < tT → same (.promptSwitchInstant t))
          ∧ (tT ≤ now → incoming = false → Does (.promptSwitchInstant t) s fun s' => s'.hub = { s.hub with role := .standby }
            ∧ s'.pair.switching = .idle ∧ s'.pair.tT = none ∧ s'.pair.counters.get 1 = inc16 (p.counters.get 1)
            ∧ s'.cfg = s.cfg ∧ s'.clk = u.clk)
          ∧ (tT ≤ now → incoming = true → confirmed → pairs (.promptSwitchInstant t)
            { p with switching := .idle, counters := p.counters.upd 1 inc16 })
          ∧ (tT ≤ now → incoming = true → ¬ confirmed → Does (.promptSwitchInstant t) s fun s' =>
            s'.hub = { s.hub with role := .standby } ∧ s'.pair.switching = .idle ∧ s'.pair.tT = none
              ∧ s'.pair.counters = p.counters ∧ s'.cfg = s.cfg ∧ s'.clk = u.clk))
      ∧ ((∀ tT i, p.switching ≠ .prompt tT i) → same (.promptSwitchInstant t))
      ∧ (∀ b incoming, p.switching = .mbb b incoming →
        let due := beatTime b + usLoom 1000 ≤ now ∧ b ≤ s.clk.beat
        (¬ due → same (.mbbRoleChange t))
          ∧ (due → Does (.mbbRoleChange t) s fun s' =>
            s'.hub = { s.hub with role := if incoming then .active else .standby } ∧ s'.pair.switching = .idle
              ∧ s'.pair.counters.get 1 = inc16 (p.counters.get 1) ∧ s'.cfg = s.cfg ∧ s'.clk = u.clk
              ∧ (incoming = true → s'.weft.nextNotice = p.partner.notice ∧ s'.pair.sendBefore = none)
              ∧ (incoming = false → s'.pair.sendBefore = some (beatTime b))))
      ∧ ((∀ b i, p.switching ≠ .mbb b i) → same (.mbbRoleChange t))
      ∧ (let due := fun (h : Nat) => s.returns = true ∧ p.switching = .idle ∧ s.switchBusy = false
          ∧ h + secLoom s.cfg.active.holdOff ≤ now
        (p.holdFrom = none → same (.returnHoldoffExpiry t))
          ∧ ∀ h, p.holdFrom = some h → (due h → pairs (.returnHoldoffExpiry t) { p with wants := true })
            ∧ (¬ due h → same (.returnHoldoffExpiry t)))
      ∧ ∀ rq : Req, s.Takes rq stLive → rq.payload = [] →
        let refused := fun (c : Instr) (code reason : Nat) => Refuses c t s rq code reason (atIndex 0xFFFF)
        (s.hub.role = .solo → refused (.pairSwitch t rq) 0x0D01 0x0702 ∧ refused (.pairDetach t rq) 0x0D02 0x0702
            ∧ refused (.mirrorResync t rq) 0x0D03 0x0702)
          ∧ (s.hub.role = .active → refused (.pairDetach t rq) 0x0D02 0x0101 ∧ refused (.mirrorResync t rq) 0x0D03 0x0101
            ∧ (p.switching ≠ .idle → refused (.pairSwitch t rq) 0x0D01 0x0705)
            ∧ (p.switching = .idle → s.switchBusy = true → refused (.pairSwitch t rq) 0x0D01 0x0108)
            ∧ (p.switching = .idle → s.switchBusy = false → p.partner.able = false ∨ p.linkUp = false ∨ p.partner.inSync = false →
              refused (.pairSwitch t rq) 0x0D01 0x0708)
            ∧ (p.switching = .idle → s.switchBusy = false → p.partner.able = true → p.linkUp = true → p.partner.inSync = true →
              ∃ b, Answers (.pairSwitch t rq) s rq 0x0D01 1 0 (beBytes 8 b) (startMbb b 0x0D01 rq.mb rq.seq u)
                ∧ u.ahead2ms ≤ b ∧ (∀ c ∈ s.cfg.staged, c.due ≠ b)
                ∧ (∀ k, u.ahead2ms ≤ k → k < b → ∃ c ∈ s.cfg.staged, c.due = k)
                ∧ (startMbb b 0x0D01 rq.mb rq.seq u).pair.switching = .mbb b false))
          ∧ (s.hub.role = .standby → p.switching ≠ .idle →
            refused (.pairDetach t rq) 0x0D02 0x0705 ∧ refused (.mirrorResync t rq) 0x0D03 0x0705)
          ∧ (s.hub.role = .standby → p.switching = .idle →
            Stages (.pairDetach t rq) t s rq 0x0D02 .detach [] u
              ∧ Stages (.mirrorResync t rq) t s rq 0x0D03 .resync [] (askResync u)
              ∧ (p.askedAt ≠ some s.clk.beat → p.linkUp = true →
                (askResync u).wire.length + (askResync u).pair.out.length = s.wire.length + p.out.length + 1
                ∧ (askResync u).pair.askedAt = some s.clk.beat ∧ (askResync u).pair.inSync = false))

/-! ### Every command completes -/

/-- The commands of jobs, of the drivers and of the Weft complete with their own effects wherever their rules'
conditions hold: JOB_CANCEL, RESTART and its entry (R55, R74); LOOP_SET, LOOP_SELECT, STIM_START, STIM_STOP, the table
loads, the loop update and the stimulus tick (R319, R330, R337, R338); WEFT_RESEND, a port's link, its ARP, ICMP, PTP
and host traffic, its token and next frame, an acknowledgement and the close of a frame (R340, R343, R355, R358, R361,
R368); an output sample (R160). -/
def Obligations.CommandsTakeEffect : Prop :=
  ∀ (s : State) (t : Nat) (rq : Req),
    let u := tick t s
    let m := s.cfg.active
    let now := u.clk.loom
    let stages := fun (c : Instr) (code : Nat) (ch : Change) => Does c s fun s' =>
      Answered rq code 1 0 (beBytes 8 u.due) s'
        ∧ ({ change := ch, due := u.due, cmd := code, mb := rq.mb, seq := rq.seq } : Staged) ∈ s'.cfg.staged
    let act := s.hub.role ≠ .standby
    (∀ id j, s.Takes rq stRead → id < 2 ^ 16 → rq.payload = beBytes 2 id → findJob id s = some j → j.ended = none →
        (∃ n, j.work = .imageLoad n) → Does (.jobCancel t rq) s fun s' => Answered rq 0x0005 0 0 [] s' ∧ s'.win.job = none
          ∧ ∃ k, findJob id s' = some k ∧ k.state = 3 ∧ k.ended = some now)
      ∧ (∀ image, s.Takes rq (fun _ => true) → image ≤ 2 → rq.payload = beBytes 1 image →
        Does (.restart t rq) s fun s' => Answered rq 0x0006 0 0 [] s' ∧ s'.hub.restart = some (image, now))
      ∧ (∀ image sent, s.hub.inReset = false → s.hub.restart = some (image, sent) → sent + usLoom 1000 ≤ now →
        s.hub.state ≠ .safe → Does (.restartEntry t) s fun s' => s'.hub.state = .boot ∧ s'.hub.restart = none)
      ∧ (∀ n sl (v : Word), s.Takes rq stLive → act → n < 16 → sl < 4 →
        rq.payload = beBytes 1 n ++ beBytes 1 sl ++ zeros 2 ++ huskBytes v → bitAt (s.cfg.force.loopW n 0) 31 = true →
        fld (s.cfg.force.loopSlot n sl 0) 31 30 = 0 →
        Does (.loopSet t rq) s fun s' => s'.cfg.force.word 0x0900 (14 * n + 3 + 3 * sl) = v
          ∧ Answered rq 0x0901 1 0 (beBytes 8 u.due ++ beBytes 4 ((s.cfg.seq + 1) % 2 ^ 32)) s')
      ∧ (∀ n sl, s.Takes rq stLive → act → n < 16 → sl < 4 → rq.payload = beBytes 1 n ++ beBytes 1 sl →
        bitAt (s.cfg.force.loopW n 0) 31 = true → stages (.loopSelect t rq) 0x0902 (.loopSelect n sl))
      ∧ (∀ mask n, s.Takes rq stRun → act → mask < 2 ^ 16 → n < 2 ^ 64 →
        rq.payload = beBytes 2 mask ++ zeros 2 ++ beBytes 8 n → let at_ := u.instant n
        now + usLoom 2000 ≤ at_ → (∀ p, p < 16 → nbit mask p = true → s.podCut p = false ∧ stimTbl (m.stimW p 0) = true
          ∧ stimMode (m.stimW p 0) ≠ 0 ∧ (s.drv.tables.get (stimTable (m.stimW p 0))).points ≠ [] ∧ s.outputPlays p = false) →
        Does (.stimStart t rq) s fun s' => Answered rq 0x0904 0 0 (beBytes 8 (tickFrom at_)) s'
          ∧ ∀ p, p < 16 → nbit mask p = true →
            (s'.drv.stims.get p).state = 2 ∧ (s'.drv.stims.get p).start = tickFrom at_)
      ∧ (∀ mask, s.Takes rq stRun → act → mask < 2 ^ 16 → rq.payload = beBytes 2 mask →
        (∀ p, p < 16 → nbit mask p = true → s.podCut p = false) →
        Does (.stimStop t rq) s fun s' => Answered rq 0x0905 0 0 (beBytes 8 (tickFrom (now + 1))) s'
          ∧ ∀ p, p < 16 → nbit mask p = true → stimMode (m.stimW p 0) ≠ 0 →
            (s'.drv.stims.get p).holdAt = some (tickFrom (now + 1)))
      ∧ (∀ k flags off (data : Bytes), s.Takes rq stStage → act → k < 2 ^ 8 → flags < 2 → off < 2 ^ 32 → data ≠ [] →
        data.length ≤ 992 → s.tableFault k flags = none → off + data.length ≤ s.loadLimit k flags → s.domOn 2 = true →
        rq.payload = beBytes 1 k ++ beBytes 1 flags ++ zeros 2 ++ beBytes 4 off ++ data →
        Does (.stimLoad t rq) s fun s' => Answered rq 0x0906 0 0 [] s' ∧ (s'.drv.tables.get k).loading = true
          ∧ ∀ i, i < data.length →
            (if flags = 1 then s'.drv.staging else (s'.drv.tables.get k).bytes).get (off + i) = data.getD i 0)
      ∧ (∀ k n, s.Takes rq stStage → act → k < 2 ^ 8 → n < 2 ^ 32 → n % 4 = 0 → s.tableFault k 0 = none →
        n ≤ s.loadLimit k 0 → s.domOn 2 = true → rq.payload = beBytes 1 k ++ zeros 3 ++ beBytes 4 n →
        Does (.stimTableEnd t rq) s fun s' => Answered rq 0x0907 0 0 (beBytes 4 (n / 4)) s'
          ∧ (s'.drv.tables.get k).points = pointsOf (n / 4) ((s.drv.tables.get k).bytes.getList 0 n))
      ∧ (s.drv.updatedAt ≠ some (u.lastEvery 2560) → Does (.loopUpdate t []) s fun s' =>
        s'.drv.updatedAt = some (u.lastEvery 2560)
          ∧ ∀ n, n < 16 → bitAt (m.loopW n 0) 31 = true → s.podOn n = true → s.linkUp (n / 4) = true →
            s.hub.inReset = false → s.hub.state = .fault → s.yields = false →
            (s'.drv.loops.get n).current = faultLevel m n)
      ∧ (∀ p y st pt ps, s.drv.tickedAt ≠ some (u.lastEvery 512) → p < 16 → s.stimRuns p = true →
        stimMode (m.stimW p 0) = 1 → (s.drv.stims.get p).holdAt = none →
        u.stimTarget m p (u.lastEvery 512) = some (y, st, pt, ps) → Does (.stimulusTick t { }) s fun s' => (s'.drv.stims.get p).state = st ∧ (s'.drv.stims.get p).target = f32Of64 y)
      ∧ (∀ flow a l, s.Takes rq stLive → act → flowOk flow = true → a < 2 ^ 32 → s.flowState flow ≠ 0 →
        s.lastSent flow = some l → newer32 a l = false → rq.payload = beBytes 2 flow ++ zeros 2 ++ beBytes 4 a ++ beBytes 4 a →
        (∃ f ∈ s.weft.pool, f.flow = flow ∧ f.seq = a ∧ f.goneAt = none) → Does (.weftResend t rq) s fun s' =>
          ∃ n, Answered rq 0x0A03 0 0 (beBytes 4 n ++ zeros 8) s' ∧ ∀ f ∈ s.weft.pool, f.flow = flow → f.seq = a →
            f.left = true → f.again = [] → f.goneAt = none → ∃ g ∈ s'.weft.pool, g.flow = flow ∧ g.seq = a
              ∧ g.again = m.flowPorts flow)
      ∧ (∀ port, let h := s.weft.ports.get port
        let up := port < 2 ∧ s.portUp port = true ∧ s.hub.inReset = false
        let rx := up ∧ s.crossHolds 6 = false
        let ptp := rx ∧ s.ptpOn port = true
        let v := askHops port (sweepWire u)
        let dom := fld (m.portW port 6) 31 24
        (port < 2 → h.link = false → s.domOn 3 = true → Does (.portLinkChange t port true) s fun s' =>
            (s'.weft.ports.get port).link = true)
          ∧ (∀ mac ip, rx → Does (.arpRequest t port mac ip (m.portW port 1).toNat) s fun s' =>
            (s'.weft.ports.get port).tc2 = h.tc2 ++ [.arp 2 mac ip])
          ∧ (∀ ip a, up → a ∈ h.arp → a.ip = ip → a.mac ≠ none → a.requests = 0 → a.learnt + secLoom 60 ≤ now →
            Does (.arpRefresh t port ip) s fun s' => (s'.weft.ports.get port).tc2 = h.tc2 ++ [.arp 1 0 ip])
          ∧ (∀ ip a, up → h.arp.find? (fun a => a.ip == ip) = some a → 1 ≤ a.requests → a.requests < 3 →
            a.asked + secLoom 1 ≤ now → Does (.arpRetry t port ip) s fun s' =>
              (s'.weft.ports.get port).tc2 = h.tc2 ++ [.arp 1 0 ip])
          ∧ (∀ ip (msg : Bytes), rx → msg.length ≤ 1476 → h.icmpTimes = [] → Does (.icmpEchoRequest t port ip msg) s fun s' =>
            (s'.weft.ports.get port).tc2 = h.tc2 ++ [.icmp ip msg]
              ∧ (s'.weft.ports.get port).icmpAnswered = inc32 h.icmpAnswered)
          ∧ (∀ frame fcs, rx → Does (.hostFrameReceived t port frame fcs) s fun s' =>
            (s'.weft.ports.get port).received = inc32 h.received)
          ∧ (∀ a : PtpAnnounce, ptp → a.domain = dom → h.announce = none → Does (.ptpAnnounce t port a) s fun s' =>
            (s'.weft.ports.get port).announce = some a)
          ∧ (∀ x : PtpSync, ptp → x.domain = dom → -7 ≤ x.logInterval → x.logInterval ≤ 0 →
            Does (.ptpSync t port x) s fun s' => (s'.weft.ports.get port).syncs = inc32 h.syncs
              ∧ (s'.weft.ports.get port).ptpOffset = x.offsetPs + signedOf 32 (m.portW port 7).toNat)
          ∧ (∀ src seq, ptp → bitAt (m.portW port 0) 26 = true → bitAt (m.portW port 0) 25 = false → h.tokensUsed < 4 →
            Does (.pdelayReq t port src seq dom) s fun s' => (s'.weft.ports.get port).tc0 = h.tc0 ++ [.ptp 3 src seq])
          ∧ (ptp → bitAt (m.portW port 0) 26 = true → h.tokensUsed < 4 → h.delayAt = none → Does (.ptpDelayReqSend t port) s fun s' =>
            (s'.weft.ports.get port).tc0 = h.tc0 ++ [.ptp 2 0 h.ptpSeq])
          ∧ (port < 2 → h.tokensUsed ≠ 0 → s.tokenDue port ≤ now → s.noticePort port = false → h.ptpWait = [] →
            Does (.tc0Token t port) s fun s' => (s'.weft.ports.get port).tokensUsed = h.tokensUsed - 1)
          ∧ (∀ f r, up → h.busyUntil ≤ now → (s.itg.crossings.get 5).holds = false → s.hub.role ≠ .standby →
            takeFrom (v.canLeave port) (v.weft.ports.get port).tc0 = some (f, r) →
            Does (.portTransmit t port) s fun s' => (s'.weft.ports.get port).tc0 = r
              ∧ s'.wire.head? = some (.frame now port 0 f (v.ether port 0 f)))
          ∧ (∀ msg : Bytes, rx → crcPasses msg = false → Does (.acknowledgement t port msg) s fun s' =>
            (s'.weft.ports.get port).ackDiscards = inc32 h.ackDiscards)
          ∧ ∀ flow a l, rx → flow < 16 → a < 2 ^ 32 → (s.weft.streams.get flow).lastSent = some l → newer32 a l = false →
            Does (.acknowledgement t port (withCrc (beBytes 2 0x5741 ++ [0x01#8, 0x01#8] ++ beBytes 2 0xFFFF ++ zeros 2
              ++ beBytes 2 flow ++ zeros 2 ++ beBytes 4 a))) s fun s' => ∀ f ∈ s'.weft.pool, f.flow = flow → ackCovers a f.seq = false ∨ f.goneAt.isSome = true)
      ∧ (∀ k sec g r, k < 16 → sec < 8 → (s.weft.opened.get (k * 8 + sec)).instants = g :: r →
        let n := (s.cfgAt g).frameSamples k
        let run := u.frontRun k sec n (g :: r)
        let last := run.1.getLastD g
        0 < n → (run.2 = true ∨ run.1.length = n) → u.formedAll (s.cfgAt g) ((s.cfgAt g).secChans k sec) last = true →
        (∀ i, i < sec → (s.cfgAt g).secChans k i = [] ∨ last ≤ (s.weft.opened.get (k * 8 + i)).closedTo) →
        Does (.frameClose t k sec) s fun s' => (s'.weft.opened.get (k * 8 + sec)).closedTo = last)
      ∧ (∀ ch grid, u.sampleDue ch grid = true → Does (.outputSample t ch grid []) s fun s' =>
          (s'.chan ch).delivered = some grid)

/-- The commands of Winnow, of the power domains, of the seed bank and of a pair complete with their own effects
wherever their rules' conditions hold: a frame is begun and encoded, a load ends (R374, R458); domains, substitutions
and consents are staged and images loaded (R454, R459, R465); domains and rails come on (R450, R454); the evidence of
the partner is counted and the roles switch (R435, R437, R441, R442, R443, R445). -/
def Obligations.SystemCommandsTakeEffect : Prop :=
  ∀ (s : State) (t : Nat) (rq : Req),
    let u := tick t s
    let now := u.clk.loom
    let stages := fun (c : Instr) (code : Nat) (ch : Change) (tail : Bytes) => Does c s fun s' =>
      Answered rq code 1 0 (beBytes 8 u.due ++ tail) s'
        ∧ ({ change := ch, due := u.due, cmd := code, mb := rq.mb, seq := rq.seq } : Staged) ∈ s'.cfg.staged
    let act := s.hub.role ≠ .standby
    (∀ q rest, s.winnowOn = true → s.win.current = none → s.win.queue = q :: rest →
        Does (.winnowFrameStart t) s fun s' => s'.win.queue = rest ∧ ∃ f, s'.win.current = some (q.1, q.2, f))
      ∧ (∀ flow seq forced f, s.winnowOn = true → s.win.current = some (flow, seq, forced) → s.win.stalled = false →
        s.weft.pool.find? (fun f => f.flow == flow && f.seq == seq) = some f → Does (.winnowFrameDone t none) s fun s' =>
          s'.win.current = none ∧ s'.win.bytesIn = sat64 (s.win.bytesIn + f.body.length))
      ∧ (Does (.winnowStallResume t) s fun s' => s'.win.stalled = false)
      ∧ (∀ id, s.winnowOn = true → s.win.job = some id → s.win.jobStalled = false → Does (.decompressionDone { t }) s fun s' => s'.win.job = none)
      ∧ (∀ mask, s.Takes rq stHeld → act → mask < 2 ^ 7 → rq.payload = beBytes 1 mask ++ zeros 1 →
        (∀ d, d < 8 → (s.pow.domains.get d).state ≠ 1) → (∀ d, 0 < d → d < 8 → nbit mask (d - 1) = true) →
        stages (.domainSet t rq) 0x0E01 (.domains mask) [])
      ∧ (∀ kind idx, s.Takes rq stRead → act → 2 ≤ kind → kind ≤ 6 → idx < partLimit kind → idx < 2 ^ 16 →
        rq.payload = beBytes 1 kind ++ zeros 1 ++ beBytes 2 idx → s.spareLeft kind = true →
        (∃ w ∈ s.pow.worn, w.kind = kind ∧ w.idx = idx ∧ w.state = 0) →
        stages (.seedSubst t rq) 0x0E03 (.subst kind idx) [])
      ∧ (∀ kind pod part sp, s.Takes rq stHeld → act → kind < 2 → pod < 16 → part < (if kind = 0 then 16 else 4) →
        rq.payload = beBytes 1 kind ++ beBytes 1 pod ++ beBytes 1 part ++ zeros 1 → s.podCut pod = false →
        s.podTested pod = false → s.freeSpare kind pod = some sp →
        stages (.seedConsent t rq) 0x0E04 (.consent kind pod part sp) (beBytes 1 sp ++ zeros 3))
      ∧ (∀ off (data : Bytes), s.Takes rq stHeld → data ≠ [] → data.length ≤ 992 → off + data.length ≤ 2 ^ 20 →
        s.stagingHeld = false → s.domOn 2 = true → rq.payload = zeros 4 ++ beBytes 4 off ++ data →
        Does (.imageLoad t rq) s fun s' => Answered rq 0x0E05 0 0 [] s' ∧ s'.drv.stagingFor = .image
          ∧ ∀ i, i < data.length → s'.drv.staging.get (off + i) = data.getD i 0)
      ∧ (∀ n, s.Takes rq stHeld → n ≤ 2 ^ 20 → s.stagingHeld = false → s.domOn 1 = true → s.domOn 2 = true →
        s.jobsRunning < 16 → rq.payload = beBytes 4 n → Does (.imageEnd t rq) s fun s' => ∃ id j,
          Answered rq 0x0E06 3 0 (beBytes 2 id) s' ∧ findJob id s' = some j ∧ j.work = .imageLoad n ∧ j.ended = none)
      ∧ (∀ d, 0 < d → d < 8 → d ≠ 2 → (s.pow.domains.get d).state = 1 → (s.pow.domains.get d).since ≤ now →
        s.railsIn d = true → Does (.domainPowerGood t d) s fun s' => (s'.pow.domains.get d).state = 2)
      ∧ ((s.pow.domains.get 2).state = 1 → (s.pow.domains.get 2).good = true → Does (.storeZeroed t) s fun s' =>
          (s'.pow.domains.get 2).state = 2)
      ∧ (∀ d, d < 8 → (s.pow.domains.get d).state = 1 → (s.pow.domains.get d).good = false →
        (s.pow.domains.get d).since + usLoom 5000 ≤ now → Does (.domainPowerGoodTimeout t d) s fun s' =>
          (s'.pow.domains.get d).state = 3 ∧ (s'.pow.domains.get d).givenUp = true)
      ∧ (∀ rail, rail < 8 → (s.pow.domains.get 0).state ≠ 3 → Does (.railInWindow t rail) s fun s' =>
          (s'.pow.rails.get rail).state = 0)
      ∧ (let p := s.pair
        let live := s.cfg.active.pairEn = true ∧ s.hub.inReset = false
        (live → p.hbEdge = none → p.hbLast = none → Does (.hbInEdge t) s fun s' => s'.pair.hbLast = some now ∧ s'.pair.hbRow = 0)
          ∧ (p.hbIn = true → p.hbLast.getD 0 + usLoom 30 ≤ now → Does (.hbInLost t) s fun s' => s'.pair.hbIn = false)
          ∧ (∀ w, w < 4 → bitAt (s.cfg.active.witness w) 31 = true →
            (Does (.witnessAbsent t w) s fun s' => (s'.pair.wits.get w).present = false)
              ∧ Does (.witnessPresent t w) s fun s' => (s'.pair.wits.get w).present = true)
          ∧ (s.hub.role = .standby → s.paired = true → s.hub.inReset = false → s.hub.state ≠ .boot →
            p.linkUp = false → p.hbIn = false → s.excited = false → s.able = true → Does (.standbyEvaluation t) s fun s' =>
              s'.hub.role = .active ∧ s'.pair.counters.get 0 = inc16 (p.counters.get 0))
          ∧ (∀ h tT, s.onSelvedge = true → s.crossHolds 7 = false → p.linkUp = true → h.crcOk = true → p.rxAlive = none →
            s.hub.role = .active → Does (.switchControl t h tT) s fun s' => s'.pair.switching = .prompt tT false)
          ∧ (∀ tT, p.switching = .prompt tT true → tT ≤ now → p.linkUp = true → tT < p.lastValid + usLoom 20 →
            Does (.promptSwitchInstant t) s fun s' => s'.pair.counters.get 1 = inc16 (p.counters.get 1))
          ∧ (∀ tT, p.switching = .prompt tT false → tT ≤ now → Does (.promptSwitchInstant t) s fun s' =>
            s'.hub.role = .standby ∧ s'.pair.counters.get 1 = inc16 (p.counters.get 1))
          ∧ (∀ b, p.switching = .mbb b false → beatTime b + usLoom 1000 ≤ now → b ≤ s.clk.beat →
            Does (.mbbRoleChange t) s fun s' => s'.hub.role = .standby ∧ s'.pair.sendBefore = some (beatTime b))
          ∧ (∀ h, p.holdFrom = some h → s.returns = true → p.switching = .idle → s.switchBusy = false →
            h + secLoom s.cfg.active.holdOff ≤ now → Does (.returnHoldoffExpiry t) s fun s' => s'.pair.wants = true)
          ∧ (s.Takes rq stLive → rq.payload = [] → s.hub.role = .active → p.switching = .idle → s.switchBusy = false →
            p.partner.able = true → p.linkUp = true → p.partner.inSync = true → ∃ b, Does (.pairSwitch t rq) s fun s' =>
              Answered rq 0x0D01 1 0 (beBytes 8 b) s' ∧ s'.pair.switching = .mbb b false)
          ∧ (s.Takes rq stLive → rq.payload = [] → s.hub.role = .standby → p.switching = .idle →
            stages (.pairDetach t rq) 0x0D02 .detach [] ∧ stages (.mirrorResync t rq) 0x0D03 .resync []))
end

