-- ==== Sys2Proof/Laws/Bytes.lean ====
section
/-! SUPPORT. Byte strings: lengths, and the number that stands at an offset of strings put together. -/

namespace Sys2Proof.Machine

@[simp] theorem beBytes_length (n v : Nat) : (beBytes n v).length = n := by
  induction n generalizing v with
  | zero => rfl
  | succ n ih => simp [beBytes, ih]

@[simp] theorem beSigned_length (n : Nat) (v : Int) : (beSigned n v).length = n := by simp [beSigned]
@[simp] theorem beWord_length (w : Word) : (beWord w).length = 4 := by simp [beWord]
@[simp] theorem zeros_length (n : Nat) : (zeros n).length = n := by simp [zeros]
@[simp] theorem huskBytes_length (w : Word) : (huskBytes w).length = 8 := by simp [huskBytes]

/-- Bytes joined in rows of one length. -/
theorem flatMap_rows_length {α : Type} (l : List α) (f : α → Bytes) (k : Nat) (h : ∀ a ∈ l, (f a).length = k) :
    (l.flatMap f).length = k * l.length := by
  induction l with
  | nil => simp
  | cons a l ih =>
    rw [List.flatMap_cons, List.length_append, h a List.mem_cons_self, ih fun b hb => h b (List.mem_cons_of_mem _ hb)]
    simp [Nat.mul_add, Nat.add_comm]

theorem beNat_append_one (a : Bytes) (x : Byte) : beNat (a ++ [x]) = beNat a * 256 + x.toNat := by
  simp [beNat, List.foldl_append]

/-- The number that n bytes of a value spell. -/
theorem beNat_beBytes (n v : Nat) : beNat (beBytes n v) = v % 256 ^ n := by
  induction n generalizing v with
  | zero => simp [beBytes, beNat, Nat.mod_one]
  | succ n ih =>
    have e : v % 256 ^ (n + 1) = v % 256 + 256 * (v / 256 % 256 ^ n) := by
      rw [Nat.pow_succ, Nat.mul_comm (256 ^ n) 256, Nat.mod_mul]
    rw [beBytes, beNat_append_one, ih, BitVec.toNat_ofNat, e, show (2 : Nat) ^ 8 = 256 from rfl]
    omega

/-- What stands past the first part of a string. -/
theorem slice_append_right (a b : Bytes) (off n : Nat) (h : a.length ≤ off) :
    slice (a ++ b) off n = slice b (off - a.length) n := by
  rw [slice, slice, List.drop_append, List.drop_eq_nil_of_le h, List.nil_append]

/-- What lies within the first part of a string. -/
theorem slice_append_left (a b : Bytes) (off n : Nat) (h : off + n ≤ a.length) :
    slice (a ++ b) off n = slice a off n := by
  rw [slice, slice, List.drop_append_of_le_length (by omega), List.take_append_of_le_length (by simp; omega)]

theorem slice_all (a : Bytes) (n : Nat) (h : a.length = n) : slice a 0 n = a := by
  simp [slice, ← h]

/-- The number at the front. -/
theorem beAt_head (n v : Nat) (b : Bytes) : beAt (beBytes n v ++ b) 0 n = v % 256 ^ n := by
  rw [beAt, slice_append_left _ _ _ _ (by simp), slice_all _ _ (by simp), beNat_beBytes]

/-- The number that is all there is. -/
theorem beAt_only (n v : Nat) : beAt (beBytes n v) 0 n = v % 256 ^ n := by
  rw [beAt, slice_all _ _ (by simp), beNat_beBytes]

/-- The number past the first part. -/
theorem beAt_skip (a b : Bytes) (off n : Nat) (h : a.length ≤ off) :
    beAt (a ++ b) off n = beAt b (off - a.length) n := by
  rw [beAt, beAt, slice_append_right _ _ _ _ h]

/-- The number within the first part. -/
theorem beAt_left (a b : Bytes) (off n : Nat) (h : off + n ≤ a.length) : beAt (a ++ b) off n = beAt a off n := by
  rw [beAt, beAt, slice_append_left _ _ _ _ h]

/-- Rows of one length: what stands in row k. -/
theorem slice_rows (f : Nat → Bytes) (w n k off m : Nat) (h : ∀ i, (f i).length = w) (hk : k < n) (ho : off + m ≤ w) :
    slice ((List.range n).flatMap f) (w * k + off) m = slice (f k) off m := by
  induction n with
  | zero => omega
  | succ n ih =>
    rw [List.range_succ, List.flatMap_append]
    have hl : ((List.range n).flatMap f).length = w * n := by
      rw [flatMap_rows_length _ _ w fun i _ => h i]; simp
    by_cases e : k = n
    · subst e
      rw [slice_append_right _ _ _ _ (by omega), hl]
      simp
    · have : k + 1 ≤ n := by omega
      have := Nat.mul_le_mul_left w this
      rw [Nat.mul_add] at this
      rw [slice_append_left _ _ _ _ (by omega)]
      exact ih (by omega)

/-- The number at an offset of row k. -/
theorem beAt_rows (f : Nat → Bytes) (w n k off m : Nat) (h : ∀ i, (f i).length = w) (hk : k < n) (ho : off + m ≤ w) :
    beAt ((List.range n).flatMap f) (w * k + off) m = beAt (f k) off m := by
  rw [beAt, beAt, slice_rows f w n k off m h hk ho]

end Sys2Proof.Machine
end

