-- ==== Sys2Proof/Laws/State.lean ====
section
/-! SUPPORT. What the plain updates of State leave alone: one lemma per field per update. -/

namespace Sys2Proof.Machine

variable (s : State)

@[simp] theorem mailUpd_pending (mb : Nat) (f : Mailbox → Mailbox) : (mailUpd mb f s).pending = s.pending := rfl
@[simp] theorem mailUpd_clk (mb : Nat) (f : Mailbox → Mailbox) : (mailUpd mb f s).clk = s.clk := rfl
@[simp] theorem mailUpd_hub (mb : Nat) (f : Mailbox → Mailbox) : (mailUpd mb f s).hub = s.hub := rfl
@[simp] theorem mailUpd_cfg (mb : Nat) (f : Mailbox → Mailbox) : (mailUpd mb f s).cfg = s.cfg := rfl
@[simp] theorem mailUpd_hed (mb : Nat) (f : Mailbox → Mailbox) : (mailUpd mb f s).hed = s.hed := rfl
@[simp] theorem mailUpd_conv (mb : Nat) (f : Mailbox → Mailbox) : (mailUpd mb f s).conv = s.conv := rfl
@[simp] theorem mailUpd_filt (mb : Nat) (f : Mailbox → Mailbox) : (mailUpd mb f s).filt = s.filt := rfl
@[simp] theorem mailUpd_warp (mb : Nat) (f : Mailbox → Mailbox) : (mailUpd mb f s).warp = s.warp := rfl
@[simp] theorem mailUpd_cal (mb : Nat) (f : Mailbox → Mailbox) : (mailUpd mb f s).cal = s.cal := rfl
@[simp] theorem mailUpd_trd (mb : Nat) (f : Mailbox → Mailbox) : (mailUpd mb f s).trd = s.trd := rfl
@[simp] theorem mailUpd_drv (mb : Nat) (f : Mailbox → Mailbox) : (mailUpd mb f s).drv = s.drv := rfl
@[simp] theorem mailUpd_weft (mb : Nat) (f : Mailbox → Mailbox) : (mailUpd mb f s).weft = s.weft := rfl
@[simp] theorem mailUpd_win (mb : Nat) (f : Mailbox → Mailbox) : (mailUpd mb f s).win = s.win := rfl
@[simp] theorem mailUpd_itg (mb : Nat) (f : Mailbox → Mailbox) : (mailUpd mb f s).itg = s.itg := rfl
@[simp] theorem mailUpd_pair (mb : Nat) (f : Mailbox → Mailbox) : (mailUpd mb f s).pair = s.pair := rfl
@[simp] theorem mailUpd_pow (mb : Nat) (f : Mailbox → Mailbox) : (mailUpd mb f s).pow = s.pow := rfl
@[simp] theorem mailUpd_wire (mb : Nat) (f : Mailbox → Mailbox) : (mailUpd mb f s).wire = s.wire := rfl
@[simp] theorem mailUpd_free (mb : Nat) (f : Mailbox → Mailbox) : (mailUpd mb f s).free = s.free := rfl

@[simp] theorem jobUpd_pending (id : Nat) (f : Job → Job) : (jobUpd id f s).pending = s.pending := rfl
@[simp] theorem jobUpd_clk (id : Nat) (f : Job → Job) : (jobUpd id f s).clk = s.clk := rfl
@[simp] theorem jobUpd_hub (id : Nat) (f : Job → Job) : (jobUpd id f s).hub = s.hub := rfl
@[simp] theorem jobUpd_cfg (id : Nat) (f : Job → Job) : (jobUpd id f s).cfg = s.cfg := rfl
@[simp] theorem jobUpd_hed (id : Nat) (f : Job → Job) : (jobUpd id f s).hed = s.hed := rfl
@[simp] theorem jobUpd_conv (id : Nat) (f : Job → Job) : (jobUpd id f s).conv = s.conv := rfl
@[simp] theorem jobUpd_filt (id : Nat) (f : Job → Job) : (jobUpd id f s).filt = s.filt := rfl
@[simp] theorem jobUpd_warp (id : Nat) (f : Job → Job) : (jobUpd id f s).warp = s.warp := rfl
@[simp] theorem jobUpd_cal (id : Nat) (f : Job → Job) : (jobUpd id f s).cal = s.cal := rfl
@[simp] theorem jobUpd_trd (id : Nat) (f : Job → Job) : (jobUpd id f s).trd = s.trd := rfl
@[simp] theorem jobUpd_drv (id : Nat) (f : Job → Job) : (jobUpd id f s).drv = s.drv := rfl
@[simp] theorem jobUpd_weft (id : Nat) (f : Job → Job) : (jobUpd id f s).weft = s.weft := rfl
@[simp] theorem jobUpd_win (id : Nat) (f : Job → Job) : (jobUpd id f s).win = s.win := rfl
@[simp] theorem jobUpd_itg (id : Nat) (f : Job → Job) : (jobUpd id f s).itg = s.itg := rfl
@[simp] theorem jobUpd_pair (id : Nat) (f : Job → Job) : (jobUpd id f s).pair = s.pair := rfl
@[simp] theorem jobUpd_pow (id : Nat) (f : Job → Job) : (jobUpd id f s).pow = s.pow := rfl
@[simp] theorem jobUpd_wire (id : Nat) (f : Job → Job) : (jobUpd id f s).wire = s.wire := rfl
@[simp] theorem jobUpd_free (id : Nat) (f : Job → Job) : (jobUpd id f s).free = s.free := rfl

@[simp] theorem scUpd_pending (sc : Nat) (f : Converter → Converter) : (scUpd sc f s).pending = s.pending := rfl
@[simp] theorem scUpd_clk (sc : Nat) (f : Converter → Converter) : (scUpd sc f s).clk = s.clk := rfl
@[simp] theorem scUpd_hub (sc : Nat) (f : Converter → Converter) : (scUpd sc f s).hub = s.hub := rfl
@[simp] theorem scUpd_sh (sc : Nat) (f : Converter → Converter) : (scUpd sc f s).sh = s.sh := rfl
@[simp] theorem scUpd_cfg (sc : Nat) (f : Converter → Converter) : (scUpd sc f s).cfg = s.cfg := rfl
@[simp] theorem scUpd_hed (sc : Nat) (f : Converter → Converter) : (scUpd sc f s).hed = s.hed := rfl
@[simp] theorem scUpd_filt (sc : Nat) (f : Converter → Converter) : (scUpd sc f s).filt = s.filt := rfl
@[simp] theorem scUpd_warp (sc : Nat) (f : Converter → Converter) : (scUpd sc f s).warp = s.warp := rfl
@[simp] theorem scUpd_cal (sc : Nat) (f : Converter → Converter) : (scUpd sc f s).cal = s.cal := rfl
@[simp] theorem scUpd_trd (sc : Nat) (f : Converter → Converter) : (scUpd sc f s).trd = s.trd := rfl
@[simp] theorem scUpd_drv (sc : Nat) (f : Converter → Converter) : (scUpd sc f s).drv = s.drv := rfl
@[simp] theorem scUpd_weft (sc : Nat) (f : Converter → Converter) : (scUpd sc f s).weft = s.weft := rfl
@[simp] theorem scUpd_win (sc : Nat) (f : Converter → Converter) : (scUpd sc f s).win = s.win := rfl
@[simp] theorem scUpd_itg (sc : Nat) (f : Converter → Converter) : (scUpd sc f s).itg = s.itg := rfl
@[simp] theorem scUpd_pair (sc : Nat) (f : Converter → Converter) : (scUpd sc f s).pair = s.pair := rfl
@[simp] theorem scUpd_pow (sc : Nat) (f : Converter → Converter) : (scUpd sc f s).pow = s.pow := rfl
@[simp] theorem scUpd_wire (sc : Nat) (f : Converter → Converter) : (scUpd sc f s).wire = s.wire := rfl
@[simp] theorem scUpd_free (sc : Nat) (f : Converter → Converter) : (scUpd sc f s).free = s.free := rfl

@[simp] theorem loopUpd_pending (n : Nat) (f : Loop → Loop) : (loopUpd n f s).pending = s.pending := rfl
@[simp] theorem loopUpd_clk (n : Nat) (f : Loop → Loop) : (loopUpd n f s).clk = s.clk := rfl
@[simp] theorem loopUpd_hub (n : Nat) (f : Loop → Loop) : (loopUpd n f s).hub = s.hub := rfl
@[simp] theorem loopUpd_sh (n : Nat) (f : Loop → Loop) : (loopUpd n f s).sh = s.sh := rfl
@[simp] theorem loopUpd_cfg (n : Nat) (f : Loop → Loop) : (loopUpd n f s).cfg = s.cfg := rfl
@[simp] theorem loopUpd_hed (n : Nat) (f : Loop → Loop) : (loopUpd n f s).hed = s.hed := rfl
@[simp] theorem loopUpd_conv (n : Nat) (f : Loop → Loop) : (loopUpd n f s).conv = s.conv := rfl
@[simp] theorem loopUpd_filt (n : Nat) (f : Loop → Loop) : (loopUpd n f s).filt = s.filt := rfl
@[simp] theorem loopUpd_warp (n : Nat) (f : Loop → Loop) : (loopUpd n f s).warp = s.warp := rfl
@[simp] theorem loopUpd_cal (n : Nat) (f : Loop → Loop) : (loopUpd n f s).cal = s.cal := rfl
@[simp] theorem loopUpd_trd (n : Nat) (f : Loop → Loop) : (loopUpd n f s).trd = s.trd := rfl
@[simp] theorem loopUpd_weft (n : Nat) (f : Loop → Loop) : (loopUpd n f s).weft = s.weft := rfl
@[simp] theorem loopUpd_win (n : Nat) (f : Loop → Loop) : (loopUpd n f s).win = s.win := rfl
@[simp] theorem loopUpd_itg (n : Nat) (f : Loop → Loop) : (loopUpd n f s).itg = s.itg := rfl
@[simp] theorem loopUpd_pair (n : Nat) (f : Loop → Loop) : (loopUpd n f s).pair = s.pair := rfl
@[simp] theorem loopUpd_pow (n : Nat) (f : Loop → Loop) : (loopUpd n f s).pow = s.pow := rfl
@[simp] theorem loopUpd_wire (n : Nat) (f : Loop → Loop) : (loopUpd n f s).wire = s.wire := rfl
@[simp] theorem loopUpd_free (n : Nat) (f : Loop → Loop) : (loopUpd n f s).free = s.free := rfl

@[simp] theorem stimUpd_pending (p : Nat) (f : Stim → Stim) : (stimUpd p f s).pending = s.pending := rfl
@[simp] theorem stimUpd_clk (p : Nat) (f : Stim → Stim) : (stimUpd p f s).clk = s.clk := rfl
@[simp] theorem stimUpd_hub (p : Nat) (f : Stim → Stim) : (stimUpd p f s).hub = s.hub := rfl
@[simp] theorem stimUpd_sh (p : Nat) (f : Stim → Stim) : (stimUpd p f s).sh = s.sh := rfl
@[simp] theorem stimUpd_cfg (p : Nat) (f : Stim → Stim) : (stimUpd p f s).cfg = s.cfg := rfl
@[simp] theorem stimUpd_hed (p : Nat) (f : Stim → Stim) : (stimUpd p f s).hed = s.hed := rfl
@[simp] theorem stimUpd_conv (p : Nat) (f : Stim → Stim) : (stimUpd p f s).conv = s.conv := rfl
@[simp] theorem stimUpd_filt (p : Nat) (f : Stim → Stim) : (stimUpd p f s).filt = s.filt := rfl
@[simp] theorem stimUpd_warp (p : Nat) (f : Stim → Stim) : (stimUpd p f s).warp = s.warp := rfl
@[simp] theorem stimUpd_cal (p : Nat) (f : Stim → Stim) : (stimUpd p f s).cal = s.cal := rfl
@[simp] theorem stimUpd_trd (p : Nat) (f : Stim → Stim) : (stimUpd p f s).trd = s.trd := rfl
@[simp] theorem stimUpd_weft (p : Nat) (f : Stim → Stim) : (stimUpd p f s).weft = s.weft := rfl
@[simp] theorem stimUpd_win (p : Nat) (f : Stim → Stim) : (stimUpd p f s).win = s.win := rfl
@[simp] theorem stimUpd_itg (p : Nat) (f : Stim → Stim) : (stimUpd p f s).itg = s.itg := rfl
@[simp] theorem stimUpd_pair (p : Nat) (f : Stim → Stim) : (stimUpd p f s).pair = s.pair := rfl
@[simp] theorem stimUpd_pow (p : Nat) (f : Stim → Stim) : (stimUpd p f s).pow = s.pow := rfl
@[simp] theorem stimUpd_wire (p : Nat) (f : Stim → Stim) : (stimUpd p f s).wire = s.wire := rfl
@[simp] theorem stimUpd_free (p : Nat) (f : Stim → Stim) : (stimUpd p f s).free = s.free := rfl

@[simp] theorem tableUpd_pending (k : Nat) (f : Table → Table) : (tableUpd k f s).pending = s.pending := rfl
@[simp] theorem tableUpd_clk (k : Nat) (f : Table → Table) : (tableUpd k f s).clk = s.clk := rfl
@[simp] theorem tableUpd_hub (k : Nat) (f : Table → Table) : (tableUpd k f s).hub = s.hub := rfl
@[simp] theorem tableUpd_sh (k : Nat) (f : Table → Table) : (tableUpd k f s).sh = s.sh := rfl
@[simp] theorem tableUpd_cfg (k : Nat) (f : Table → Table) : (tableUpd k f s).cfg = s.cfg := rfl
@[simp] theorem tableUpd_hed (k : Nat) (f : Table → Table) : (tableUpd k f s).hed = s.hed := rfl
@[simp] theorem tableUpd_conv (k : Nat) (f : Table → Table) : (tableUpd k f s).conv = s.conv := rfl
@[simp] theorem tableUpd_filt (k : Nat) (f : Table → Table) : (tableUpd k f s).filt = s.filt := rfl
@[simp] theorem tableUpd_warp (k : Nat) (f : Table → Table) : (tableUpd k f s).warp = s.warp := rfl
@[simp] theorem tableUpd_cal (k : Nat) (f : Table → Table) : (tableUpd k f s).cal = s.cal := rfl
@[simp] theorem tableUpd_trd (k : Nat) (f : Table → Table) : (tableUpd k f s).trd = s.trd := rfl
@[simp] theorem tableUpd_weft (k : Nat) (f : Table → Table) : (tableUpd k f s).weft = s.weft := rfl
@[simp] theorem tableUpd_win (k : Nat) (f : Table → Table) : (tableUpd k f s).win = s.win := rfl
@[simp] theorem tableUpd_itg (k : Nat) (f : Table → Table) : (tableUpd k f s).itg = s.itg := rfl
@[simp] theorem tableUpd_pair (k : Nat) (f : Table → Table) : (tableUpd k f s).pair = s.pair := rfl
@[simp] theorem tableUpd_pow (k : Nat) (f : Table → Table) : (tableUpd k f s).pow = s.pow := rfl
@[simp] theorem tableUpd_wire (k : Nat) (f : Table → Table) : (tableUpd k f s).wire = s.wire := rfl
@[simp] theorem tableUpd_free (k : Nat) (f : Table → Table) : (tableUpd k f s).free = s.free := rfl

@[simp] theorem streamUpd_pending (k : Nat) (f : Stream → Stream) : (streamUpd k f s).pending = s.pending := rfl
@[simp] theorem streamUpd_clk (k : Nat) (f : Stream → Stream) : (streamUpd k f s).clk = s.clk := rfl
@[simp] theorem streamUpd_hub (k : Nat) (f : Stream → Stream) : (streamUpd k f s).hub = s.hub := rfl
@[simp] theorem streamUpd_sh (k : Nat) (f : Stream → Stream) : (streamUpd k f s).sh = s.sh := rfl
@[simp] theorem streamUpd_cfg (k : Nat) (f : Stream → Stream) : (streamUpd k f s).cfg = s.cfg := rfl
@[simp] theorem streamUpd_hed (k : Nat) (f : Stream → Stream) : (streamUpd k f s).hed = s.hed := rfl
@[simp] theorem streamUpd_conv (k : Nat) (f : Stream → Stream) : (streamUpd k f s).conv = s.conv := rfl
@[simp] theorem streamUpd_filt (k : Nat) (f : Stream → Stream) : (streamUpd k f s).filt = s.filt := rfl
@[simp] theorem streamUpd_warp (k : Nat) (f : Stream → Stream) : (streamUpd k f s).warp = s.warp := rfl
@[simp] theorem streamUpd_cal (k : Nat) (f : Stream → Stream) : (streamUpd k f s).cal = s.cal := rfl
@[simp] theorem streamUpd_trd (k : Nat) (f : Stream → Stream) : (streamUpd k f s).trd = s.trd := rfl
@[simp] theorem streamUpd_drv (k : Nat) (f : Stream → Stream) : (streamUpd k f s).drv = s.drv := rfl
@[simp] theorem streamUpd_win (k : Nat) (f : Stream → Stream) : (streamUpd k f s).win = s.win := rfl
@[simp] theorem streamUpd_itg (k : Nat) (f : Stream → Stream) : (streamUpd k f s).itg = s.itg := rfl
@[simp] theorem streamUpd_pair (k : Nat) (f : Stream → Stream) : (streamUpd k f s).pair = s.pair := rfl
@[simp] theorem streamUpd_pow (k : Nat) (f : Stream → Stream) : (streamUpd k f s).pow = s.pow := rfl
@[simp] theorem streamUpd_wire (k : Nat) (f : Stream → Stream) : (streamUpd k f s).wire = s.wire := rfl
@[simp] theorem streamUpd_free (k : Nat) (f : Stream → Stream) : (streamUpd k f s).free = s.free := rfl

@[simp] theorem frameUpd_pending (flow : Nat) (seq : Nat) (g : WFrame → WFrame) : (frameUpd flow seq g s).pending = s.pending := rfl
@[simp] theorem frameUpd_clk (flow : Nat) (seq : Nat) (g : WFrame → WFrame) : (frameUpd flow seq g s).clk = s.clk := rfl
@[simp] theorem frameUpd_hub (flow : Nat) (seq : Nat) (g : WFrame → WFrame) : (frameUpd flow seq g s).hub = s.hub := rfl
@[simp] theorem frameUpd_sh (flow : Nat) (seq : Nat) (g : WFrame → WFrame) : (frameUpd flow seq g s).sh = s.sh := rfl
@[simp] theorem frameUpd_cfg (flow : Nat) (seq : Nat) (g : WFrame → WFrame) : (frameUpd flow seq g s).cfg = s.cfg := rfl
@[simp] theorem frameUpd_hed (flow : Nat) (seq : Nat) (g : WFrame → WFrame) : (frameUpd flow seq g s).hed = s.hed := rfl
@[simp] theorem frameUpd_conv (flow : Nat) (seq : Nat) (g : WFrame → WFrame) : (frameUpd flow seq g s).conv = s.conv := rfl
@[simp] theorem frameUpd_filt (flow : Nat) (seq : Nat) (g : WFrame → WFrame) : (frameUpd flow seq g s).filt = s.filt := rfl
@[simp] theorem frameUpd_warp (flow : Nat) (seq : Nat) (g : WFrame → WFrame) : (frameUpd flow seq g s).warp = s.warp := rfl
@[simp] theorem frameUpd_cal (flow : Nat) (seq : Nat) (g : WFrame → WFrame) : (frameUpd flow seq g s).cal = s.cal := rfl
@[simp] theorem frameUpd_trd (flow : Nat) (seq : Nat) (g : WFrame → WFrame) : (frameUpd flow seq g s).trd = s.trd := rfl
@[simp] theorem frameUpd_drv (flow : Nat) (seq : Nat) (g : WFrame → WFrame) : (frameUpd flow seq g s).drv = s.drv := rfl
@[simp] theorem frameUpd_win (flow : Nat) (seq : Nat) (g : WFrame → WFrame) : (frameUpd flow seq g s).win = s.win := rfl
@[simp] theorem frameUpd_itg (flow : Nat) (seq : Nat) (g : WFrame → WFrame) : (frameUpd flow seq g s).itg = s.itg := rfl
@[simp] theorem frameUpd_pair (flow : Nat) (seq : Nat) (g : WFrame → WFrame) : (frameUpd flow seq g s).pair = s.pair := rfl
@[simp] theorem frameUpd_pow (flow : Nat) (seq : Nat) (g : WFrame → WFrame) : (frameUpd flow seq g s).pow = s.pow := rfl
@[simp] theorem frameUpd_wire (flow : Nat) (seq : Nat) (g : WFrame → WFrame) : (frameUpd flow seq g s).wire = s.wire := rfl
@[simp] theorem frameUpd_free (flow : Nat) (seq : Nat) (g : WFrame → WFrame) : (frameUpd flow seq g s).free = s.free := rfl

@[simp] theorem chanUpd_pending (ch : Nat) (f : Chan → Chan) : (chanUpd ch f s).pending = s.pending := rfl
@[simp] theorem chanUpd_clk (ch : Nat) (f : Chan → Chan) : (chanUpd ch f s).clk = s.clk := rfl
@[simp] theorem chanUpd_hub (ch : Nat) (f : Chan → Chan) : (chanUpd ch f s).hub = s.hub := rfl
@[simp] theorem chanUpd_sh (ch : Nat) (f : Chan → Chan) : (chanUpd ch f s).sh = s.sh := rfl
@[simp] theorem chanUpd_cfg (ch : Nat) (f : Chan → Chan) : (chanUpd ch f s).cfg = s.cfg := rfl
@[simp] theorem chanUpd_hed (ch : Nat) (f : Chan → Chan) : (chanUpd ch f s).hed = s.hed := rfl
@[simp] theorem chanUpd_conv (ch : Nat) (f : Chan → Chan) : (chanUpd ch f s).conv = s.conv := rfl
@[simp] theorem chanUpd_warp (ch : Nat) (f : Chan → Chan) : (chanUpd ch f s).warp = s.warp := rfl
@[simp] theorem chanUpd_cal (ch : Nat) (f : Chan → Chan) : (chanUpd ch f s).cal = s.cal := rfl
@[simp] theorem chanUpd_trd (ch : Nat) (f : Chan → Chan) : (chanUpd ch f s).trd = s.trd := rfl
@[simp] theorem chanUpd_drv (ch : Nat) (f : Chan → Chan) : (chanUpd ch f s).drv = s.drv := rfl
@[simp] theorem chanUpd_weft (ch : Nat) (f : Chan → Chan) : (chanUpd ch f s).weft = s.weft := rfl
@[simp] theorem chanUpd_win (ch : Nat) (f : Chan → Chan) : (chanUpd ch f s).win = s.win := rfl
@[simp] theorem chanUpd_itg (ch : Nat) (f : Chan → Chan) : (chanUpd ch f s).itg = s.itg := rfl
@[simp] theorem chanUpd_pair (ch : Nat) (f : Chan → Chan) : (chanUpd ch f s).pair = s.pair := rfl
@[simp] theorem chanUpd_pow (ch : Nat) (f : Chan → Chan) : (chanUpd ch f s).pow = s.pow := rfl
@[simp] theorem chanUpd_wire (ch : Nat) (f : Chan → Chan) : (chanUpd ch f s).wire = s.wire := rfl
@[simp] theorem chanUpd_free (ch : Nat) (f : Chan → Chan) : (chanUpd ch f s).free = s.free := rfl

@[simp] theorem leadUpd_pending (ch : Nat) (det : Nat) (f : Lead → Lead) : (leadUpd ch det f s).pending = s.pending := rfl
@[simp] theorem leadUpd_clk (ch : Nat) (det : Nat) (f : Lead → Lead) : (leadUpd ch det f s).clk = s.clk := rfl
@[simp] theorem leadUpd_hub (ch : Nat) (det : Nat) (f : Lead → Lead) : (leadUpd ch det f s).hub = s.hub := rfl
@[simp] theorem leadUpd_sh (ch : Nat) (det : Nat) (f : Lead → Lead) : (leadUpd ch det f s).sh = s.sh := rfl
@[simp] theorem leadUpd_cfg (ch : Nat) (det : Nat) (f : Lead → Lead) : (leadUpd ch det f s).cfg = s.cfg := rfl
@[simp] theorem leadUpd_conv (ch : Nat) (det : Nat) (f : Lead → Lead) : (leadUpd ch det f s).conv = s.conv := rfl
@[simp] theorem leadUpd_filt (ch : Nat) (det : Nat) (f : Lead → Lead) : (leadUpd ch det f s).filt = s.filt := rfl
@[simp] theorem leadUpd_warp (ch : Nat) (det : Nat) (f : Lead → Lead) : (leadUpd ch det f s).warp = s.warp := rfl
@[simp] theorem leadUpd_cal (ch : Nat) (det : Nat) (f : Lead → Lead) : (leadUpd ch det f s).cal = s.cal := rfl
@[simp] theorem leadUpd_trd (ch : Nat) (det : Nat) (f : Lead → Lead) : (leadUpd ch det f s).trd = s.trd := rfl
@[simp] theorem leadUpd_drv (ch : Nat) (det : Nat) (f : Lead → Lead) : (leadUpd ch det f s).drv = s.drv := rfl
@[simp] theorem leadUpd_weft (ch : Nat) (det : Nat) (f : Lead → Lead) : (leadUpd ch det f s).weft = s.weft := rfl
@[simp] theorem leadUpd_win (ch : Nat) (det : Nat) (f : Lead → Lead) : (leadUpd ch det f s).win = s.win := rfl
@[simp] theorem leadUpd_itg (ch : Nat) (det : Nat) (f : Lead → Lead) : (leadUpd ch det f s).itg = s.itg := rfl
@[simp] theorem leadUpd_pair (ch : Nat) (det : Nat) (f : Lead → Lead) : (leadUpd ch det f s).pair = s.pair := rfl
@[simp] theorem leadUpd_pow (ch : Nat) (det : Nat) (f : Lead → Lead) : (leadUpd ch det f s).pow = s.pow := rfl
@[simp] theorem leadUpd_wire (ch : Nat) (det : Nat) (f : Lead → Lead) : (leadUpd ch det f s).wire = s.wire := rfl
@[simp] theorem leadUpd_free (ch : Nat) (det : Nat) (f : Lead → Lead) : (leadUpd ch det f s).free = s.free := rfl

@[simp] theorem thrUpd_pending (pod : Nat) (tt : Nat) (f : Thread → Thread) : (thrUpd pod tt f s).pending = s.pending := rfl
@[simp] theorem thrUpd_clk (pod : Nat) (tt : Nat) (f : Thread → Thread) : (thrUpd pod tt f s).clk = s.clk := rfl
@[simp] theorem thrUpd_hub (pod : Nat) (tt : Nat) (f : Thread → Thread) : (thrUpd pod tt f s).hub = s.hub := rfl
@[simp] theorem thrUpd_sh (pod : Nat) (tt : Nat) (f : Thread → Thread) : (thrUpd pod tt f s).sh = s.sh := rfl
@[simp] theorem thrUpd_cfg (pod : Nat) (tt : Nat) (f : Thread → Thread) : (thrUpd pod tt f s).cfg = s.cfg := rfl
@[simp] theorem thrUpd_conv (pod : Nat) (tt : Nat) (f : Thread → Thread) : (thrUpd pod tt f s).conv = s.conv := rfl
@[simp] theorem thrUpd_filt (pod : Nat) (tt : Nat) (f : Thread → Thread) : (thrUpd pod tt f s).filt = s.filt := rfl
@[simp] theorem thrUpd_warp (pod : Nat) (tt : Nat) (f : Thread → Thread) : (thrUpd pod tt f s).warp = s.warp := rfl
@[simp] theorem thrUpd_cal (pod : Nat) (tt : Nat) (f : Thread → Thread) : (thrUpd pod tt f s).cal = s.cal := rfl
@[simp] theorem thrUpd_trd (pod : Nat) (tt : Nat) (f : Thread → Thread) : (thrUpd pod tt f s).trd = s.trd := rfl
@[simp] theorem thrUpd_drv (pod : Nat) (tt : Nat) (f : Thread → Thread) : (thrUpd pod tt f s).drv = s.drv := rfl
@[simp] theorem thrUpd_weft (pod : Nat) (tt : Nat) (f : Thread → Thread) : (thrUpd pod tt f s).weft = s.weft := rfl
@[simp] theorem thrUpd_win (pod : Nat) (tt : Nat) (f : Thread → Thread) : (thrUpd pod tt f s).win = s.win := rfl
@[simp] theorem thrUpd_itg (pod : Nat) (tt : Nat) (f : Thread → Thread) : (thrUpd pod tt f s).itg = s.itg := rfl
@[simp] theorem thrUpd_pair (pod : Nat) (tt : Nat) (f : Thread → Thread) : (thrUpd pod tt f s).pair = s.pair := rfl
@[simp] theorem thrUpd_pow (pod : Nat) (tt : Nat) (f : Thread → Thread) : (thrUpd pod tt f s).pow = s.pow := rfl
@[simp] theorem thrUpd_wire (pod : Nat) (tt : Nat) (f : Thread → Thread) : (thrUpd pod tt f s).wire = s.wire := rfl
@[simp] theorem thrUpd_free (pod : Nat) (tt : Nat) (f : Thread → Thread) : (thrUpd pod tt f s).free = s.free := rfl

@[simp] theorem pairUpd_pending (f : Pair → Pair) : (pairUpd f s).pending = s.pending := rfl
@[simp] theorem pairUpd_clk (f : Pair → Pair) : (pairUpd f s).clk = s.clk := rfl
@[simp] theorem pairUpd_hub (f : Pair → Pair) : (pairUpd f s).hub = s.hub := rfl
@[simp] theorem pairUpd_sh (f : Pair → Pair) : (pairUpd f s).sh = s.sh := rfl
@[simp] theorem pairUpd_cfg (f : Pair → Pair) : (pairUpd f s).cfg = s.cfg := rfl
@[simp] theorem pairUpd_hed (f : Pair → Pair) : (pairUpd f s).hed = s.hed := rfl
@[simp] theorem pairUpd_conv (f : Pair → Pair) : (pairUpd f s).conv = s.conv := rfl
@[simp] theorem pairUpd_filt (f : Pair → Pair) : (pairUpd f s).filt = s.filt := rfl
@[simp] theorem pairUpd_warp (f : Pair → Pair) : (pairUpd f s).warp = s.warp := rfl
@[simp] theorem pairUpd_cal (f : Pair → Pair) : (pairUpd f s).cal = s.cal := rfl
@[simp] theorem pairUpd_trd (f : Pair → Pair) : (pairUpd f s).trd = s.trd := rfl
@[simp] theorem pairUpd_drv (f : Pair → Pair) : (pairUpd f s).drv = s.drv := rfl
@[simp] theorem pairUpd_weft (f : Pair → Pair) : (pairUpd f s).weft = s.weft := rfl
@[simp] theorem pairUpd_win (f : Pair → Pair) : (pairUpd f s).win = s.win := rfl
@[simp] theorem pairUpd_itg (f : Pair → Pair) : (pairUpd f s).itg = s.itg := rfl
@[simp] theorem pairUpd_pow (f : Pair → Pair) : (pairUpd f s).pow = s.pow := rfl
@[simp] theorem pairUpd_wire (f : Pair → Pair) : (pairUpd f s).wire = s.wire := rfl
@[simp] theorem pairUpd_free (f : Pair → Pair) : (pairUpd f s).free = s.free := rfl

@[simp] theorem witUpd_pending (w : Nat) (on : Bool) : (witUpd w on s).pending = s.pending := rfl
@[simp] theorem witUpd_clk (w : Nat) (on : Bool) : (witUpd w on s).clk = s.clk := rfl
@[simp] theorem witUpd_hub (w : Nat) (on : Bool) : (witUpd w on s).hub = s.hub := rfl
@[simp] theorem witUpd_sh (w : Nat) (on : Bool) : (witUpd w on s).sh = s.sh := rfl
@[simp] theorem witUpd_cfg (w : Nat) (on : Bool) : (witUpd w on s).cfg = s.cfg := rfl
@[simp] theorem witUpd_hed (w : Nat) (on : Bool) : (witUpd w on s).hed = s.hed := rfl
@[simp] theorem witUpd_conv (w : Nat) (on : Bool) : (witUpd w on s).conv = s.conv := rfl
@[simp] theorem witUpd_filt (w : Nat) (on : Bool) : (witUpd w on s).filt = s.filt := rfl
@[simp] theorem witUpd_warp (w : Nat) (on : Bool) : (witUpd w on s).warp = s.warp := rfl
@[simp] theorem witUpd_cal (w : Nat) (on : Bool) : (witUpd w on s).cal = s.cal := rfl
@[simp] theorem witUpd_trd (w : Nat) (on : Bool) : (witUpd w on s).trd = s.trd := rfl
@[simp] theorem witUpd_drv (w : Nat) (on : Bool) : (witUpd w on s).drv = s.drv := rfl
@[simp] theorem witUpd_weft (w : Nat) (on : Bool) : (witUpd w on s).weft = s.weft := rfl
@[simp] theorem witUpd_win (w : Nat) (on : Bool) : (witUpd w on s).win = s.win := rfl
@[simp] theorem witUpd_itg (w : Nat) (on : Bool) : (witUpd w on s).itg = s.itg := rfl
@[simp] theorem witUpd_pow (w : Nat) (on : Bool) : (witUpd w on s).pow = s.pow := rfl
@[simp] theorem witUpd_wire (w : Nat) (on : Bool) : (witUpd w on s).wire = s.wire := rfl
@[simp] theorem witUpd_free (w : Nat) (on : Bool) : (witUpd w on s).free = s.free := rfl

@[simp] theorem railUpd_pending (r : Nat) (f : Rail → Rail) : (railUpd r f s).pending = s.pending := rfl
@[simp] theorem railUpd_clk (r : Nat) (f : Rail → Rail) : (railUpd r f s).clk = s.clk := rfl
@[simp] theorem railUpd_hub (r : Nat) (f : Rail → Rail) : (railUpd r f s).hub = s.hub := rfl
@[simp] theorem railUpd_sh (r : Nat) (f : Rail → Rail) : (railUpd r f s).sh = s.sh := rfl
@[simp] theorem railUpd_cfg (r : Nat) (f : Rail → Rail) : (railUpd r f s).cfg = s.cfg := rfl
@[simp] theorem railUpd_hed (r : Nat) (f : Rail → Rail) : (railUpd r f s).hed = s.hed := rfl
@[simp] theorem railUpd_conv (r : Nat) (f : Rail → Rail) : (railUpd r f s).conv = s.conv := rfl
@[simp] theorem railUpd_filt (r : Nat) (f : Rail → Rail) : (railUpd r f s).filt = s.filt := rfl
@[simp] theorem railUpd_warp (r : Nat) (f : Rail → Rail) : (railUpd r f s).warp = s.warp := rfl
@[simp] theorem railUpd_cal (r : Nat) (f : Rail → Rail) : (railUpd r f s).cal = s.cal := rfl
@[simp] theorem railUpd_trd (r : Nat) (f : Rail → Rail) : (railUpd r f s).trd = s.trd := rfl
@[simp] theorem railUpd_drv (r : Nat) (f : Rail → Rail) : (railUpd r f s).drv = s.drv := rfl
@[simp] theorem railUpd_weft (r : Nat) (f : Rail → Rail) : (railUpd r f s).weft = s.weft := rfl
@[simp] theorem railUpd_win (r : Nat) (f : Rail → Rail) : (railUpd r f s).win = s.win := rfl
@[simp] theorem railUpd_itg (r : Nat) (f : Rail → Rail) : (railUpd r f s).itg = s.itg := rfl
@[simp] theorem railUpd_pair (r : Nat) (f : Rail → Rail) : (railUpd r f s).pair = s.pair := rfl
@[simp] theorem railUpd_wire (r : Nat) (f : Rail → Rail) : (railUpd r f s).wire = s.wire := rfl
@[simp] theorem railUpd_free (r : Nat) (f : Rail → Rail) : (railUpd r f s).free = s.free := rfl

@[simp] theorem domUpd_pending (d : Nat) (f : Domain → Domain) : (domUpd d f s).pending = s.pending := rfl
@[simp] theorem domUpd_clk (d : Nat) (f : Domain → Domain) : (domUpd d f s).clk = s.clk := rfl
@[simp] theorem domUpd_hub (d : Nat) (f : Domain → Domain) : (domUpd d f s).hub = s.hub := rfl
@[simp] theorem domUpd_sh (d : Nat) (f : Domain → Domain) : (domUpd d f s).sh = s.sh := rfl
@[simp] theorem domUpd_cfg (d : Nat) (f : Domain → Domain) : (domUpd d f s).cfg = s.cfg := rfl
@[simp] theorem domUpd_hed (d : Nat) (f : Domain → Domain) : (domUpd d f s).hed = s.hed := rfl
@[simp] theorem domUpd_conv (d : Nat) (f : Domain → Domain) : (domUpd d f s).conv = s.conv := rfl
@[simp] theorem domUpd_filt (d : Nat) (f : Domain → Domain) : (domUpd d f s).filt = s.filt := rfl
@[simp] theorem domUpd_warp (d : Nat) (f : Domain → Domain) : (domUpd d f s).warp = s.warp := rfl
@[simp] theorem domUpd_cal (d : Nat) (f : Domain → Domain) : (domUpd d f s).cal = s.cal := rfl
@[simp] theorem domUpd_trd (d : Nat) (f : Domain → Domain) : (domUpd d f s).trd = s.trd := rfl
@[simp] theorem domUpd_drv (d : Nat) (f : Domain → Domain) : (domUpd d f s).drv = s.drv := rfl
@[simp] theorem domUpd_weft (d : Nat) (f : Domain → Domain) : (domUpd d f s).weft = s.weft := rfl
@[simp] theorem domUpd_win (d : Nat) (f : Domain → Domain) : (domUpd d f s).win = s.win := rfl
@[simp] theorem domUpd_itg (d : Nat) (f : Domain → Domain) : (domUpd d f s).itg = s.itg := rfl
@[simp] theorem domUpd_pair (d : Nat) (f : Domain → Domain) : (domUpd d f s).pair = s.pair := rfl
@[simp] theorem domUpd_wire (d : Nat) (f : Domain → Domain) : (domUpd d f s).wire = s.wire := rfl
@[simp] theorem domUpd_free (d : Nat) (f : Domain → Domain) : (domUpd d f s).free = s.free := rfl

@[simp] theorem compUpd_pending (c : Nat) (f : Comp → Comp) : (compUpd c f s).pending = s.pending := rfl
@[simp] theorem compUpd_clk (c : Nat) (f : Comp → Comp) : (compUpd c f s).clk = s.clk := rfl
@[simp] theorem compUpd_hub (c : Nat) (f : Comp → Comp) : (compUpd c f s).hub = s.hub := rfl
@[simp] theorem compUpd_sh (c : Nat) (f : Comp → Comp) : (compUpd c f s).sh = s.sh := rfl
@[simp] theorem compUpd_cfg (c : Nat) (f : Comp → Comp) : (compUpd c f s).cfg = s.cfg := rfl
@[simp] theorem compUpd_hed (c : Nat) (f : Comp → Comp) : (compUpd c f s).hed = s.hed := rfl
@[simp] theorem compUpd_conv (c : Nat) (f : Comp → Comp) : (compUpd c f s).conv = s.conv := rfl
@[simp] theorem compUpd_filt (c : Nat) (f : Comp → Comp) : (compUpd c f s).filt = s.filt := rfl
@[simp] theorem compUpd_warp (c : Nat) (f : Comp → Comp) : (compUpd c f s).warp = s.warp := rfl
@[simp] theorem compUpd_cal (c : Nat) (f : Comp → Comp) : (compUpd c f s).cal = s.cal := rfl
@[simp] theorem compUpd_drv (c : Nat) (f : Comp → Comp) : (compUpd c f s).drv = s.drv := rfl
@[simp] theorem compUpd_weft (c : Nat) (f : Comp → Comp) : (compUpd c f s).weft = s.weft := rfl
@[simp] theorem compUpd_win (c : Nat) (f : Comp → Comp) : (compUpd c f s).win = s.win := rfl
@[simp] theorem compUpd_itg (c : Nat) (f : Comp → Comp) : (compUpd c f s).itg = s.itg := rfl
@[simp] theorem compUpd_pair (c : Nat) (f : Comp → Comp) : (compUpd c f s).pair = s.pair := rfl
@[simp] theorem compUpd_pow (c : Nat) (f : Comp → Comp) : (compUpd c f s).pow = s.pow := rfl
@[simp] theorem compUpd_wire (c : Nat) (f : Comp → Comp) : (compUpd c f s).wire = s.wire := rfl
@[simp] theorem compUpd_free (c : Nat) (f : Comp → Comp) : (compUpd c f s).free = s.free := rfl

@[simp] theorem tioUpd_pending (p : Nat) (f : Tio → Tio) : (tioUpd p f s).pending = s.pending := rfl
@[simp] theorem tioUpd_clk (p : Nat) (f : Tio → Tio) : (tioUpd p f s).clk = s.clk := rfl
@[simp] theorem tioUpd_hub (p : Nat) (f : Tio → Tio) : (tioUpd p f s).hub = s.hub := rfl
@[simp] theorem tioUpd_sh (p : Nat) (f : Tio → Tio) : (tioUpd p f s).sh = s.sh := rfl
@[simp] theorem tioUpd_cfg (p : Nat) (f : Tio → Tio) : (tioUpd p f s).cfg = s.cfg := rfl
@[simp] theorem tioUpd_hed (p : Nat) (f : Tio → Tio) : (tioUpd p f s).hed = s.hed := rfl
@[simp] theorem tioUpd_conv (p : Nat) (f : Tio → Tio) : (tioUpd p f s).conv = s.conv := rfl
@[simp] theorem tioUpd_filt (p : Nat) (f : Tio → Tio) : (tioUpd p f s).filt = s.filt := rfl
@[simp] theorem tioUpd_warp (p : Nat) (f : Tio → Tio) : (tioUpd p f s).warp = s.warp := rfl
@[simp] theorem tioUpd_cal (p : Nat) (f : Tio → Tio) : (tioUpd p f s).cal = s.cal := rfl
@[simp] theorem tioUpd_drv (p : Nat) (f : Tio → Tio) : (tioUpd p f s).drv = s.drv := rfl
@[simp] theorem tioUpd_weft (p : Nat) (f : Tio → Tio) : (tioUpd p f s).weft = s.weft := rfl
@[simp] theorem tioUpd_win (p : Nat) (f : Tio → Tio) : (tioUpd p f s).win = s.win := rfl
@[simp] theorem tioUpd_itg (p : Nat) (f : Tio → Tio) : (tioUpd p f s).itg = s.itg := rfl
@[simp] theorem tioUpd_pair (p : Nat) (f : Tio → Tio) : (tioUpd p f s).pair = s.pair := rfl
@[simp] theorem tioUpd_pow (p : Nat) (f : Tio → Tio) : (tioUpd p f s).pow = s.pow := rfl
@[simp] theorem tioUpd_wire (p : Nat) (f : Tio → Tio) : (tioUpd p f s).wire = s.wire := rfl
@[simp] theorem tioUpd_free (p : Nat) (f : Tio → Tio) : (tioUpd p f s).free = s.free := rfl

@[simp] theorem seqUpd_pending (q : Nat) (f : Seqr → Seqr) : (seqUpd q f s).pending = s.pending := rfl
@[simp] theorem seqUpd_clk (q : Nat) (f : Seqr → Seqr) : (seqUpd q f s).clk = s.clk := rfl
@[simp] theorem seqUpd_hub (q : Nat) (f : Seqr → Seqr) : (seqUpd q f s).hub = s.hub := rfl
@[simp] theorem seqUpd_sh (q : Nat) (f : Seqr → Seqr) : (seqUpd q f s).sh = s.sh := rfl
@[simp] theorem seqUpd_cfg (q : Nat) (f : Seqr → Seqr) : (seqUpd q f s).cfg = s.cfg := rfl
@[simp] theorem seqUpd_hed (q : Nat) (f : Seqr → Seqr) : (seqUpd q f s).hed = s.hed := rfl
@[simp] theorem seqUpd_conv (q : Nat) (f : Seqr → Seqr) : (seqUpd q f s).conv = s.conv := rfl
@[simp] theorem seqUpd_filt (q : Nat) (f : Seqr → Seqr) : (seqUpd q f s).filt = s.filt := rfl
@[simp] theorem seqUpd_warp (q : Nat) (f : Seqr → Seqr) : (seqUpd q f s).warp = s.warp := rfl
@[simp] theorem seqUpd_cal (q : Nat) (f : Seqr → Seqr) : (seqUpd q f s).cal = s.cal := rfl
@[simp] theorem seqUpd_drv (q : Nat) (f : Seqr → Seqr) : (seqUpd q f s).drv = s.drv := rfl
@[simp] theorem seqUpd_weft (q : Nat) (f : Seqr → Seqr) : (seqUpd q f s).weft = s.weft := rfl
@[simp] theorem seqUpd_win (q : Nat) (f : Seqr → Seqr) : (seqUpd q f s).win = s.win := rfl
@[simp] theorem seqUpd_itg (q : Nat) (f : Seqr → Seqr) : (seqUpd q f s).itg = s.itg := rfl
@[simp] theorem seqUpd_pair (q : Nat) (f : Seqr → Seqr) : (seqUpd q f s).pair = s.pair := rfl
@[simp] theorem seqUpd_pow (q : Nat) (f : Seqr → Seqr) : (seqUpd q f s).pow = s.pow := rfl
@[simp] theorem seqUpd_wire (q : Nat) (f : Seqr → Seqr) : (seqUpd q f s).wire = s.wire := rfl
@[simp] theorem seqUpd_free (q : Nat) (f : Seqr → Seqr) : (seqUpd q f s).free = s.free := rfl

@[simp] theorem bobUpd_pending (b : Nat) (f : Bobbin → Bobbin) : (bobUpd b f s).pending = s.pending := rfl
@[simp] theorem bobUpd_clk (b : Nat) (f : Bobbin → Bobbin) : (bobUpd b f s).clk = s.clk := rfl
@[simp] theorem bobUpd_hub (b : Nat) (f : Bobbin → Bobbin) : (bobUpd b f s).hub = s.hub := rfl
@[simp] theorem bobUpd_sh (b : Nat) (f : Bobbin → Bobbin) : (bobUpd b f s).sh = s.sh := rfl
@[simp] theorem bobUpd_cfg (b : Nat) (f : Bobbin → Bobbin) : (bobUpd b f s).cfg = s.cfg := rfl
@[simp] theorem bobUpd_hed (b : Nat) (f : Bobbin → Bobbin) : (bobUpd b f s).hed = s.hed := rfl
@[simp] theorem bobUpd_conv (b : Nat) (f : Bobbin → Bobbin) : (bobUpd b f s).conv = s.conv := rfl
@[simp] theorem bobUpd_filt (b : Nat) (f : Bobbin → Bobbin) : (bobUpd b f s).filt = s.filt := rfl
@[simp] theorem bobUpd_warp (b : Nat) (f : Bobbin → Bobbin) : (bobUpd b f s).warp = s.warp := rfl
@[simp] theorem bobUpd_cal (b : Nat) (f : Bobbin → Bobbin) : (bobUpd b f s).cal = s.cal := rfl
@[simp] theorem bobUpd_drv (b : Nat) (f : Bobbin → Bobbin) : (bobUpd b f s).drv = s.drv := rfl
@[simp] theorem bobUpd_weft (b : Nat) (f : Bobbin → Bobbin) : (bobUpd b f s).weft = s.weft := rfl
@[simp] theorem bobUpd_win (b : Nat) (f : Bobbin → Bobbin) : (bobUpd b f s).win = s.win := rfl
@[simp] theorem bobUpd_itg (b : Nat) (f : Bobbin → Bobbin) : (bobUpd b f s).itg = s.itg := rfl
@[simp] theorem bobUpd_pair (b : Nat) (f : Bobbin → Bobbin) : (bobUpd b f s).pair = s.pair := rfl
@[simp] theorem bobUpd_pow (b : Nat) (f : Bobbin → Bobbin) : (bobUpd b f s).pow = s.pow := rfl
@[simp] theorem bobUpd_wire (b : Nat) (f : Bobbin → Bobbin) : (bobUpd b f s).wire = s.wire := rfl
@[simp] theorem bobUpd_free (b : Nat) (f : Bobbin → Bobbin) : (bobUpd b f s).free = s.free := rfl

@[simp] theorem wportUpd_pending (p : Nat) (f : WPort → WPort) : (wportUpd p f s).pending = s.pending := rfl
@[simp] theorem wportUpd_clk (p : Nat) (f : WPort → WPort) : (wportUpd p f s).clk = s.clk := rfl
@[simp] theorem wportUpd_hub (p : Nat) (f : WPort → WPort) : (wportUpd p f s).hub = s.hub := rfl
@[simp] theorem wportUpd_sh (p : Nat) (f : WPort → WPort) : (wportUpd p f s).sh = s.sh := rfl
@[simp] theorem wportUpd_cfg (p : Nat) (f : WPort → WPort) : (wportUpd p f s).cfg = s.cfg := rfl
@[simp] theorem wportUpd_hed (p : Nat) (f : WPort → WPort) : (wportUpd p f s).hed = s.hed := rfl
@[simp] theorem wportUpd_conv (p : Nat) (f : WPort → WPort) : (wportUpd p f s).conv = s.conv := rfl
@[simp] theorem wportUpd_filt (p : Nat) (f : WPort → WPort) : (wportUpd p f s).filt = s.filt := rfl
@[simp] theorem wportUpd_cal (p : Nat) (f : WPort → WPort) : (wportUpd p f s).cal = s.cal := rfl
@[simp] theorem wportUpd_trd (p : Nat) (f : WPort → WPort) : (wportUpd p f s).trd = s.trd := rfl
@[simp] theorem wportUpd_drv (p : Nat) (f : WPort → WPort) : (wportUpd p f s).drv = s.drv := rfl
@[simp] theorem wportUpd_weft (p : Nat) (f : WPort → WPort) : (wportUpd p f s).weft = s.weft := rfl
@[simp] theorem wportUpd_win (p : Nat) (f : WPort → WPort) : (wportUpd p f s).win = s.win := rfl
@[simp] theorem wportUpd_itg (p : Nat) (f : WPort → WPort) : (wportUpd p f s).itg = s.itg := rfl
@[simp] theorem wportUpd_pair (p : Nat) (f : WPort → WPort) : (wportUpd p f s).pair = s.pair := rfl
@[simp] theorem wportUpd_pow (p : Nat) (f : WPort → WPort) : (wportUpd p f s).pow = s.pow := rfl
@[simp] theorem wportUpd_wire (p : Nat) (f : WPort → WPort) : (wportUpd p f s).wire = s.wire := rfl
@[simp] theorem wportUpd_free (p : Nat) (f : WPort → WPort) : (wportUpd p f s).free = s.free := rfl

@[simp] theorem portUpd_pending (p : Nat) (f : HPort → HPort) : (portUpd p f s).pending = s.pending := rfl
@[simp] theorem portUpd_clk (p : Nat) (f : HPort → HPort) : (portUpd p f s).clk = s.clk := rfl
@[simp] theorem portUpd_hub (p : Nat) (f : HPort → HPort) : (portUpd p f s).hub = s.hub := rfl
@[simp] theorem portUpd_sh (p : Nat) (f : HPort → HPort) : (portUpd p f s).sh = s.sh := rfl
@[simp] theorem portUpd_cfg (p : Nat) (f : HPort → HPort) : (portUpd p f s).cfg = s.cfg := rfl
@[simp] theorem portUpd_hed (p : Nat) (f : HPort → HPort) : (portUpd p f s).hed = s.hed := rfl
@[simp] theorem portUpd_conv (p : Nat) (f : HPort → HPort) : (portUpd p f s).conv = s.conv := rfl
@[simp] theorem portUpd_filt (p : Nat) (f : HPort → HPort) : (portUpd p f s).filt = s.filt := rfl
@[simp] theorem portUpd_warp (p : Nat) (f : HPort → HPort) : (portUpd p f s).warp = s.warp := rfl
@[simp] theorem portUpd_cal (p : Nat) (f : HPort → HPort) : (portUpd p f s).cal = s.cal := rfl
@[simp] theorem portUpd_trd (p : Nat) (f : HPort → HPort) : (portUpd p f s).trd = s.trd := rfl
@[simp] theorem portUpd_drv (p : Nat) (f : HPort → HPort) : (portUpd p f s).drv = s.drv := rfl
@[simp] theorem portUpd_win (p : Nat) (f : HPort → HPort) : (portUpd p f s).win = s.win := rfl
@[simp] theorem portUpd_itg (p : Nat) (f : HPort → HPort) : (portUpd p f s).itg = s.itg := rfl
@[simp] theorem portUpd_pair (p : Nat) (f : HPort → HPort) : (portUpd p f s).pair = s.pair := rfl
@[simp] theorem portUpd_pow (p : Nat) (f : HPort → HPort) : (portUpd p f s).pow = s.pow := rfl
@[simp] theorem portUpd_wire (p : Nat) (f : HPort → HPort) : (portUpd p f s).wire = s.wire := rfl
@[simp] theorem portUpd_free (p : Nat) (f : HPort → HPort) : (portUpd p f s).free = s.free := rfl

@[simp] theorem imageUpd_pending (slot : Nat) (f : Image → Image) : (imageUpd slot f s).pending = s.pending := by unfold imageUpd; split <;> rfl
@[simp] theorem imageUpd_clk (slot : Nat) (f : Image → Image) : (imageUpd slot f s).clk = s.clk := by unfold imageUpd; split <;> rfl
@[simp] theorem imageUpd_hub (slot : Nat) (f : Image → Image) : (imageUpd slot f s).hub = s.hub := by unfold imageUpd; split <;> rfl
@[simp] theorem imageUpd_sh (slot : Nat) (f : Image → Image) : (imageUpd slot f s).sh = s.sh := by unfold imageUpd; split <;> rfl
@[simp] theorem imageUpd_cfg (slot : Nat) (f : Image → Image) : (imageUpd slot f s).cfg = s.cfg := by unfold imageUpd; split <;> rfl
@[simp] theorem imageUpd_hed (slot : Nat) (f : Image → Image) : (imageUpd slot f s).hed = s.hed := by unfold imageUpd; split <;> rfl
@[simp] theorem imageUpd_conv (slot : Nat) (f : Image → Image) : (imageUpd slot f s).conv = s.conv := by unfold imageUpd; split <;> rfl
@[simp] theorem imageUpd_filt (slot : Nat) (f : Image → Image) : (imageUpd slot f s).filt = s.filt := by unfold imageUpd; split <;> rfl
@[simp] theorem imageUpd_warp (slot : Nat) (f : Image → Image) : (imageUpd slot f s).warp = s.warp := by unfold imageUpd; split <;> rfl
@[simp] theorem imageUpd_cal (slot : Nat) (f : Image → Image) : (imageUpd slot f s).cal = s.cal := by unfold imageUpd; split <;> rfl
@[simp] theorem imageUpd_trd (slot : Nat) (f : Image → Image) : (imageUpd slot f s).trd = s.trd := by unfold imageUpd; split <;> rfl
@[simp] theorem imageUpd_drv (slot : Nat) (f : Image → Image) : (imageUpd slot f s).drv = s.drv := by unfold imageUpd; split <;> rfl
@[simp] theorem imageUpd_weft (slot : Nat) (f : Image → Image) : (imageUpd slot f s).weft = s.weft := by unfold imageUpd; split <;> rfl
@[simp] theorem imageUpd_win (slot : Nat) (f : Image → Image) : (imageUpd slot f s).win = s.win := by unfold imageUpd; split <;> rfl
@[simp] theorem imageUpd_itg (slot : Nat) (f : Image → Image) : (imageUpd slot f s).itg = s.itg := by unfold imageUpd; split <;> rfl
@[simp] theorem imageUpd_pair (slot : Nat) (f : Image → Image) : (imageUpd slot f s).pair = s.pair := by unfold imageUpd; split <;> rfl
@[simp] theorem imageUpd_wire (slot : Nat) (f : Image → Image) : (imageUpd slot f s).wire = s.wire := by unfold imageUpd; split <;> rfl
@[simp] theorem imageUpd_free (slot : Nat) (f : Image → Image) : (imageUpd slot f s).free = s.free := by unfold imageUpd; split <;> rfl

@[simp] theorem tick_pending (t : Nat) : (tick t s).pending = s.pending := rfl
@[simp] theorem tick_hub (t : Nat) : (tick t s).hub = s.hub := rfl
@[simp] theorem tick_sh (t : Nat) : (tick t s).sh = s.sh := rfl
@[simp] theorem tick_cfg (t : Nat) : (tick t s).cfg = s.cfg := rfl
@[simp] theorem tick_hed (t : Nat) : (tick t s).hed = s.hed := rfl
@[simp] theorem tick_conv (t : Nat) : (tick t s).conv = s.conv := rfl
@[simp] theorem tick_filt (t : Nat) : (tick t s).filt = s.filt := rfl
@[simp] theorem tick_warp (t : Nat) : (tick t s).warp = s.warp := rfl
@[simp] theorem tick_cal (t : Nat) : (tick t s).cal = s.cal := rfl
@[simp] theorem tick_trd (t : Nat) : (tick t s).trd = s.trd := rfl
@[simp] theorem tick_drv (t : Nat) : (tick t s).drv = s.drv := rfl
@[simp] theorem tick_weft (t : Nat) : (tick t s).weft = s.weft := rfl
@[simp] theorem tick_win (t : Nat) : (tick t s).win = s.win := rfl
@[simp] theorem tick_itg (t : Nat) : (tick t s).itg = s.itg := rfl
@[simp] theorem tick_pair (t : Nat) : (tick t s).pair = s.pair := rfl
@[simp] theorem tick_pow (t : Nat) : (tick t s).pow = s.pow := rfl
@[simp] theorem tick_wire (t : Nat) : (tick t s).wire = s.wire := rfl
@[simp] theorem tick_free (t : Nat) : (tick t s).free = s.free := rfl

@[simp] theorem logEvent_pending (reason : Nat) (source : Nat) (detail : Nat) : (logEvent reason source detail s).pending = s.pending := rfl
@[simp] theorem logEvent_clk (reason : Nat) (source : Nat) (detail : Nat) : (logEvent reason source detail s).clk = s.clk := rfl
@[simp] theorem logEvent_hub (reason : Nat) (source : Nat) (detail : Nat) : (logEvent reason source detail s).hub = s.hub := rfl
@[simp] theorem logEvent_cfg (reason : Nat) (source : Nat) (detail : Nat) : (logEvent reason source detail s).cfg = s.cfg := rfl
@[simp] theorem logEvent_hed (reason : Nat) (source : Nat) (detail : Nat) : (logEvent reason source detail s).hed = s.hed := rfl
@[simp] theorem logEvent_conv (reason : Nat) (source : Nat) (detail : Nat) : (logEvent reason source detail s).conv = s.conv := rfl
@[simp] theorem logEvent_filt (reason : Nat) (source : Nat) (detail : Nat) : (logEvent reason source detail s).filt = s.filt := rfl
@[simp] theorem logEvent_warp (reason : Nat) (source : Nat) (detail : Nat) : (logEvent reason source detail s).warp = s.warp := rfl
@[simp] theorem logEvent_cal (reason : Nat) (source : Nat) (detail : Nat) : (logEvent reason source detail s).cal = s.cal := rfl
@[simp] theorem logEvent_trd (reason : Nat) (source : Nat) (detail : Nat) : (logEvent reason source detail s).trd = s.trd := rfl
@[simp] theorem logEvent_drv (reason : Nat) (source : Nat) (detail : Nat) : (logEvent reason source detail s).drv = s.drv := rfl
@[simp] theorem logEvent_weft (reason : Nat) (source : Nat) (detail : Nat) : (logEvent reason source detail s).weft = s.weft := rfl
@[simp] theorem logEvent_win (reason : Nat) (source : Nat) (detail : Nat) : (logEvent reason source detail s).win = s.win := rfl
@[simp] theorem logEvent_itg (reason : Nat) (source : Nat) (detail : Nat) : (logEvent reason source detail s).itg = s.itg := rfl
@[simp] theorem logEvent_pair (reason : Nat) (source : Nat) (detail : Nat) : (logEvent reason source detail s).pair = s.pair := rfl
@[simp] theorem logEvent_pow (reason : Nat) (source : Nat) (detail : Nat) : (logEvent reason source detail s).pow = s.pow := rfl
@[simp] theorem logEvent_wire (reason : Nat) (source : Nat) (detail : Nat) : (logEvent reason source detail s).wire = s.wire := rfl
@[simp] theorem logEvent_free (reason : Nat) (source : Nat) (detail : Nat) : (logEvent reason source detail s).free = s.free := rfl

@[simp] theorem irq_pending : (irq s).pending = s.pending := rfl
@[simp] theorem irq_clk : (irq s).clk = s.clk := rfl
@[simp] theorem irq_hub : (irq s).hub = s.hub := rfl
@[simp] theorem irq_cfg : (irq s).cfg = s.cfg := rfl
@[simp] theorem irq_hed : (irq s).hed = s.hed := rfl
@[simp] theorem irq_conv : (irq s).conv = s.conv := rfl
@[simp] theorem irq_filt : (irq s).filt = s.filt := rfl
@[simp] theorem irq_warp : (irq s).warp = s.warp := rfl
@[simp] theorem irq_cal : (irq s).cal = s.cal := rfl
@[simp] theorem irq_trd : (irq s).trd = s.trd := rfl
@[simp] theorem irq_drv : (irq s).drv = s.drv := rfl
@[simp] theorem irq_weft : (irq s).weft = s.weft := rfl
@[simp] theorem irq_win : (irq s).win = s.win := rfl
@[simp] theorem irq_itg : (irq s).itg = s.itg := rfl
@[simp] theorem irq_pair : (irq s).pair = s.pair := rfl
@[simp] theorem irq_pow : (irq s).pow = s.pow := rfl
@[simp] theorem irq_wire : (irq s).wire = s.wire := rfl
@[simp] theorem irq_free : (irq s).free = s.free := rfl

@[simp] theorem count78_pending (i : Nat) : (count78 i s).pending = s.pending := rfl
@[simp] theorem count78_clk (i : Nat) : (count78 i s).clk = s.clk := rfl
@[simp] theorem count78_hub (i : Nat) : (count78 i s).hub = s.hub := rfl
@[simp] theorem count78_cfg (i : Nat) : (count78 i s).cfg = s.cfg := rfl
@[simp] theorem count78_hed (i : Nat) : (count78 i s).hed = s.hed := rfl
@[simp] theorem count78_conv (i : Nat) : (count78 i s).conv = s.conv := rfl
@[simp] theorem count78_filt (i : Nat) : (count78 i s).filt = s.filt := rfl
@[simp] theorem count78_warp (i : Nat) : (count78 i s).warp = s.warp := rfl
@[simp] theorem count78_cal (i : Nat) : (count78 i s).cal = s.cal := rfl
@[simp] theorem count78_trd (i : Nat) : (count78 i s).trd = s.trd := rfl
@[simp] theorem count78_drv (i : Nat) : (count78 i s).drv = s.drv := rfl
@[simp] theorem count78_weft (i : Nat) : (count78 i s).weft = s.weft := rfl
@[simp] theorem count78_win (i : Nat) : (count78 i s).win = s.win := rfl
@[simp] theorem count78_itg (i : Nat) : (count78 i s).itg = s.itg := rfl
@[simp] theorem count78_pair (i : Nat) : (count78 i s).pair = s.pair := rfl
@[simp] theorem count78_pow (i : Nat) : (count78 i s).pow = s.pow := rfl
@[simp] theorem count78_wire (i : Nat) : (count78 i s).wire = s.wire := rfl
@[simp] theorem count78_free (i : Nat) : (count78 i s).free = s.free := rfl

@[simp] theorem unitMismatch_pending (u : Nat) : (unitMismatch u s).pending = s.pending := rfl
@[simp] theorem unitMismatch_clk (u : Nat) : (unitMismatch u s).clk = s.clk := rfl
@[simp] theorem unitMismatch_hub (u : Nat) : (unitMismatch u s).hub = s.hub := rfl
@[simp] theorem unitMismatch_sh (u : Nat) : (unitMismatch u s).sh = s.sh := rfl
@[simp] theorem unitMismatch_cfg (u : Nat) : (unitMismatch u s).cfg = s.cfg := rfl
@[simp] theorem unitMismatch_hed (u : Nat) : (unitMismatch u s).hed = s.hed := rfl
@[simp] theorem unitMismatch_conv (u : Nat) : (unitMismatch u s).conv = s.conv := rfl
@[simp] theorem unitMismatch_filt (u : Nat) : (unitMismatch u s).filt = s.filt := rfl
@[simp] theorem unitMismatch_warp (u : Nat) : (unitMismatch u s).warp = s.warp := rfl
@[simp] theorem unitMismatch_cal (u : Nat) : (unitMismatch u s).cal = s.cal := rfl
@[simp] theorem unitMismatch_trd (u : Nat) : (unitMismatch u s).trd = s.trd := rfl
@[simp] theorem unitMismatch_drv (u : Nat) : (unitMismatch u s).drv = s.drv := rfl
@[simp] theorem unitMismatch_weft (u : Nat) : (unitMismatch u s).weft = s.weft := rfl
@[simp] theorem unitMismatch_win (u : Nat) : (unitMismatch u s).win = s.win := rfl
@[simp] theorem unitMismatch_pair (u : Nat) : (unitMismatch u s).pair = s.pair := rfl
@[simp] theorem unitMismatch_pow (u : Nat) : (unitMismatch u s).pow = s.pow := rfl
@[simp] theorem unitMismatch_wire (u : Nat) : (unitMismatch u s).wire = s.wire := rfl
@[simp] theorem unitMismatch_free (u : Nat) : (unitMismatch u s).free = s.free := rfl

@[simp] theorem emit_pending (e : Emission) : (emit e s).pending = s.pending := rfl
@[simp] theorem emit_clk (e : Emission) : (emit e s).clk = s.clk := rfl
@[simp] theorem emit_hub (e : Emission) : (emit e s).hub = s.hub := rfl
@[simp] theorem emit_sh (e : Emission) : (emit e s).sh = s.sh := rfl
@[simp] theorem emit_cfg (e : Emission) : (emit e s).cfg = s.cfg := rfl
@[simp] theorem emit_hed (e : Emission) : (emit e s).hed = s.hed := rfl
@[simp] theorem emit_conv (e : Emission) : (emit e s).conv = s.conv := rfl
@[simp] theorem emit_filt (e : Emission) : (emit e s).filt = s.filt := rfl
@[simp] theorem emit_warp (e : Emission) : (emit e s).warp = s.warp := rfl
@[simp] theorem emit_cal (e : Emission) : (emit e s).cal = s.cal := rfl
@[simp] theorem emit_trd (e : Emission) : (emit e s).trd = s.trd := rfl
@[simp] theorem emit_drv (e : Emission) : (emit e s).drv = s.drv := rfl
@[simp] theorem emit_weft (e : Emission) : (emit e s).weft = s.weft := rfl
@[simp] theorem emit_win (e : Emission) : (emit e s).win = s.win := rfl
@[simp] theorem emit_itg (e : Emission) : (emit e s).itg = s.itg := rfl
@[simp] theorem emit_pair (e : Emission) : (emit e s).pair = s.pair := rfl
@[simp] theorem emit_pow (e : Emission) : (emit e s).pow = s.pow := rfl
@[simp] theorem emit_free (e : Emission) : (emit e s).free = s.free := rfl

end Sys2Proof.Machine
end

