-- ==== Sys2Proof/Laws/Ops.lean ====
section
/-! SUPPORT. What the shared operations leave alone: one lemma per field per operation, so that no proof unfolds them. -/

namespace Sys2Proof.Machine

variable (s : State)

@[simp] theorem crossUpd_pending (x : Nat) (f : Crossing → Crossing) : (crossUpd x f s).pending = s.pending := rfl
@[simp] theorem crossUpd_clk (x : Nat) (f : Crossing → Crossing) : (crossUpd x f s).clk = s.clk := rfl
@[simp] theorem crossUpd_hub (x : Nat) (f : Crossing → Crossing) : (crossUpd x f s).hub = s.hub := rfl
@[simp] theorem crossUpd_sh (x : Nat) (f : Crossing → Crossing) : (crossUpd x f s).sh = s.sh := rfl
@[simp] theorem crossUpd_cfg (x : Nat) (f : Crossing → Crossing) : (crossUpd x f s).cfg = s.cfg := rfl
@[simp] theorem crossUpd_hed (x : Nat) (f : Crossing → Crossing) : (crossUpd x f s).hed = s.hed := rfl
@[simp] theorem crossUpd_conv (x : Nat) (f : Crossing → Crossing) : (crossUpd x f s).conv = s.conv := rfl
@[simp] theorem crossUpd_filt (x : Nat) (f : Crossing → Crossing) : (crossUpd x f s).filt = s.filt := rfl
@[simp] theorem crossUpd_warp (x : Nat) (f : Crossing → Crossing) : (crossUpd x f s).warp = s.warp := rfl
@[simp] theorem crossUpd_cal (x : Nat) (f : Crossing → Crossing) : (crossUpd x f s).cal = s.cal := rfl
@[simp] theorem crossUpd_trd (x : Nat) (f : Crossing → Crossing) : (crossUpd x f s).trd = s.trd := rfl
@[simp] theorem crossUpd_drv (x : Nat) (f : Crossing → Crossing) : (crossUpd x f s).drv = s.drv := rfl
@[simp] theorem crossUpd_weft (x : Nat) (f : Crossing → Crossing) : (crossUpd x f s).weft = s.weft := rfl
@[simp] theorem crossUpd_win (x : Nat) (f : Crossing → Crossing) : (crossUpd x f s).win = s.win := rfl
@[simp] theorem crossUpd_pair (x : Nat) (f : Crossing → Crossing) : (crossUpd x f s).pair = s.pair := rfl
@[simp] theorem crossUpd_pow (x : Nat) (f : Crossing → Crossing) : (crossUpd x f s).pow = s.pow := rfl
@[simp] theorem crossUpd_wire (x : Nat) (f : Crossing → Crossing) : (crossUpd x f s).wire = s.wire := rfl
@[simp] theorem crossUpd_free (x : Nat) (f : Crossing → Crossing) : (crossUpd x f s).free = s.free := rfl
@[simp] theorem crossUpd_itg_corrected (x : Nat) (f : Crossing → Crossing) : (crossUpd x f s).itg.corrected = s.itg.corrected := rfl
@[simp] theorem crossUpd_itg_uncorrectable (x : Nat) (f : Crossing → Crossing) : (crossUpd x f s).itg.uncorrectable = s.itg.uncorrectable := rfl
@[simp] theorem crossUpd_itg_passes (x : Nat) (f : Crossing → Crossing) : (crossUpd x f s).itg.passes = s.itg.passes := rfl
@[simp] theorem crossUpd_itg_lastPass (x : Nat) (f : Crossing → Crossing) : (crossUpd x f s).itg.lastPass = s.itg.lastPass := rfl
@[simp] theorem crossUpd_itg_passFrom (x : Nat) (f : Crossing → Crossing) : (crossUpd x f s).itg.passFrom = s.itg.passFrom := rfl
@[simp] theorem crossUpd_itg_lastBad (x : Nat) (f : Crossing → Crossing) : (crossUpd x f s).itg.lastBad = s.itg.lastBad := rfl
@[simp] theorem crossUpd_itg_rows (x : Nat) (f : Crossing → Crossing) : (crossUpd x f s).itg.rows = s.itg.rows := rfl
@[simp] theorem crossUpd_itg_husks (x : Nat) (f : Crossing → Crossing) : (crossUpd x f s).itg.husks = s.itg.husks := rfl
@[simp] theorem crossUpd_itg_svRepeats (x : Nat) (f : Crossing → Crossing) : (crossUpd x f s).itg.svRepeats = s.itg.svRepeats := rfl
@[simp] theorem crossUpd_itg_svMissing (x : Nat) (f : Crossing → Crossing) : (crossUpd x f s).itg.svMissing = s.itg.svMissing := rfl
@[simp] theorem crossUpd_itg_svStale (x : Nat) (f : Crossing → Crossing) : (crossUpd x f s).itg.svStale = s.itg.svStale := rfl
@[simp] theorem crossUpd_itg_mismatches (x : Nat) (f : Crossing → Crossing) : (crossUpd x f s).itg.mismatches = s.itg.mismatches := rfl
@[simp] theorem crossUpd_itg_words (x : Nat) (f : Crossing → Crossing) : (crossUpd x f s).itg.words = s.itg.words := rfl
@[simp] theorem crossUpd_itg_rowCount (x : Nat) (f : Crossing → Crossing) : (crossUpd x f s).itg.rowCount = s.itg.rowCount := rfl
@[simp] theorem crossUpd_itg_rowsTold (x : Nat) (f : Crossing → Crossing) : (crossUpd x f s).itg.rowsTold = s.itg.rowsTold := rfl
@[simp] theorem crossUpd_itg_units (x : Nat) (f : Crossing → Crossing) : (crossUpd x f s).itg.units = s.itg.units := rfl

@[simp] theorem shakeEvent_pending (x : Nat) (src : Nat) : (shakeEvent x src s).pending = s.pending := rfl
@[simp] theorem shakeEvent_clk (x : Nat) (src : Nat) : (shakeEvent x src s).clk = s.clk := rfl
@[simp] theorem shakeEvent_hub (x : Nat) (src : Nat) : (shakeEvent x src s).hub = s.hub := rfl
@[simp] theorem shakeEvent_sh (x : Nat) (src : Nat) : (shakeEvent x src s).sh = s.sh := rfl
@[simp] theorem shakeEvent_cfg (x : Nat) (src : Nat) : (shakeEvent x src s).cfg = s.cfg := rfl
@[simp] theorem shakeEvent_hed (x : Nat) (src : Nat) : (shakeEvent x src s).hed = s.hed := rfl
@[simp] theorem shakeEvent_conv (x : Nat) (src : Nat) : (shakeEvent x src s).conv = s.conv := rfl
@[simp] theorem shakeEvent_filt (x : Nat) (src : Nat) : (shakeEvent x src s).filt = s.filt := rfl
@[simp] theorem shakeEvent_warp (x : Nat) (src : Nat) : (shakeEvent x src s).warp = s.warp := rfl
@[simp] theorem shakeEvent_cal (x : Nat) (src : Nat) : (shakeEvent x src s).cal = s.cal := rfl
@[simp] theorem shakeEvent_trd (x : Nat) (src : Nat) : (shakeEvent x src s).trd = s.trd := rfl
@[simp] theorem shakeEvent_drv (x : Nat) (src : Nat) : (shakeEvent x src s).drv = s.drv := rfl
@[simp] theorem shakeEvent_weft (x : Nat) (src : Nat) : (shakeEvent x src s).weft = s.weft := rfl
@[simp] theorem shakeEvent_win (x : Nat) (src : Nat) : (shakeEvent x src s).win = s.win := rfl
@[simp] theorem shakeEvent_pair (x : Nat) (src : Nat) : (shakeEvent x src s).pair = s.pair := rfl
@[simp] theorem shakeEvent_pow (x : Nat) (src : Nat) : (shakeEvent x src s).pow = s.pow := rfl
@[simp] theorem shakeEvent_wire (x : Nat) (src : Nat) : (shakeEvent x src s).wire = s.wire := rfl
@[simp] theorem shakeEvent_free (x : Nat) (src : Nat) : (shakeEvent x src s).free = s.free := rfl
@[simp] theorem shakeEvent_itg_corrected (x : Nat) (src : Nat) : (shakeEvent x src s).itg.corrected = s.itg.corrected := rfl
@[simp] theorem shakeEvent_itg_uncorrectable (x : Nat) (src : Nat) : (shakeEvent x src s).itg.uncorrectable = s.itg.uncorrectable := rfl
@[simp] theorem shakeEvent_itg_passes (x : Nat) (src : Nat) : (shakeEvent x src s).itg.passes = s.itg.passes := rfl
@[simp] theorem shakeEvent_itg_lastPass (x : Nat) (src : Nat) : (shakeEvent x src s).itg.lastPass = s.itg.lastPass := rfl
@[simp] theorem shakeEvent_itg_passFrom (x : Nat) (src : Nat) : (shakeEvent x src s).itg.passFrom = s.itg.passFrom := rfl
@[simp] theorem shakeEvent_itg_lastBad (x : Nat) (src : Nat) : (shakeEvent x src s).itg.lastBad = s.itg.lastBad := rfl
@[simp] theorem shakeEvent_itg_rows (x : Nat) (src : Nat) : (shakeEvent x src s).itg.rows = s.itg.rows := rfl
@[simp] theorem shakeEvent_itg_husks (x : Nat) (src : Nat) : (shakeEvent x src s).itg.husks = s.itg.husks := rfl
@[simp] theorem shakeEvent_itg_svRepeats (x : Nat) (src : Nat) : (shakeEvent x src s).itg.svRepeats = s.itg.svRepeats := rfl
@[simp] theorem shakeEvent_itg_svMissing (x : Nat) (src : Nat) : (shakeEvent x src s).itg.svMissing = s.itg.svMissing := rfl
@[simp] theorem shakeEvent_itg_svStale (x : Nat) (src : Nat) : (shakeEvent x src s).itg.svStale = s.itg.svStale := rfl
@[simp] theorem shakeEvent_itg_mismatches (x : Nat) (src : Nat) : (shakeEvent x src s).itg.mismatches = s.itg.mismatches := rfl
@[simp] theorem shakeEvent_itg_words (x : Nat) (src : Nat) : (shakeEvent x src s).itg.words = s.itg.words := rfl
@[simp] theorem shakeEvent_itg_rowCount (x : Nat) (src : Nat) : (shakeEvent x src s).itg.rowCount = s.itg.rowCount := rfl
@[simp] theorem shakeEvent_itg_rowsTold (x : Nat) (src : Nat) : (shakeEvent x src s).itg.rowsTold = s.itg.rowsTold := rfl
@[simp] theorem shakeEvent_itg_units (x : Nat) (src : Nat) : (shakeEvent x src s).itg.units = s.itg.units := rfl

@[simp] theorem unitHolds_pending (u : Nat) (v : Nat) : (unitHolds u v s).pending = s.pending := rfl
@[simp] theorem unitHolds_clk (u : Nat) (v : Nat) : (unitHolds u v s).clk = s.clk := rfl
@[simp] theorem unitHolds_hub (u : Nat) (v : Nat) : (unitHolds u v s).hub = s.hub := rfl
@[simp] theorem unitHolds_sh (u : Nat) (v : Nat) : (unitHolds u v s).sh = s.sh := rfl
@[simp] theorem unitHolds_cfg (u : Nat) (v : Nat) : (unitHolds u v s).cfg = s.cfg := rfl
@[simp] theorem unitHolds_hed (u : Nat) (v : Nat) : (unitHolds u v s).hed = s.hed := rfl
@[simp] theorem unitHolds_conv (u : Nat) (v : Nat) : (unitHolds u v s).conv = s.conv := rfl
@[simp] theorem unitHolds_filt (u : Nat) (v : Nat) : (unitHolds u v s).filt = s.filt := rfl
@[simp] theorem unitHolds_warp (u : Nat) (v : Nat) : (unitHolds u v s).warp = s.warp := rfl
@[simp] theorem unitHolds_cal (u : Nat) (v : Nat) : (unitHolds u v s).cal = s.cal := rfl
@[simp] theorem unitHolds_trd (u : Nat) (v : Nat) : (unitHolds u v s).trd = s.trd := rfl
@[simp] theorem unitHolds_drv (u : Nat) (v : Nat) : (unitHolds u v s).drv = s.drv := rfl
@[simp] theorem unitHolds_weft (u : Nat) (v : Nat) : (unitHolds u v s).weft = s.weft := rfl
@[simp] theorem unitHolds_win (u : Nat) (v : Nat) : (unitHolds u v s).win = s.win := rfl
@[simp] theorem unitHolds_pair (u : Nat) (v : Nat) : (unitHolds u v s).pair = s.pair := rfl
@[simp] theorem unitHolds_pow (u : Nat) (v : Nat) : (unitHolds u v s).pow = s.pow := rfl
@[simp] theorem unitHolds_wire (u : Nat) (v : Nat) : (unitHolds u v s).wire = s.wire := rfl
@[simp] theorem unitHolds_free (u : Nat) (v : Nat) : (unitHolds u v s).free = s.free := rfl
@[simp] theorem unitHolds_itg_corrected (u : Nat) (v : Nat) : (unitHolds u v s).itg.corrected = s.itg.corrected := rfl
@[simp] theorem unitHolds_itg_uncorrectable (u : Nat) (v : Nat) : (unitHolds u v s).itg.uncorrectable = s.itg.uncorrectable := rfl
@[simp] theorem unitHolds_itg_passes (u : Nat) (v : Nat) : (unitHolds u v s).itg.passes = s.itg.passes := rfl
@[simp] theorem unitHolds_itg_lastPass (u : Nat) (v : Nat) : (unitHolds u v s).itg.lastPass = s.itg.lastPass := rfl
@[simp] theorem unitHolds_itg_passFrom (u : Nat) (v : Nat) : (unitHolds u v s).itg.passFrom = s.itg.passFrom := rfl
@[simp] theorem unitHolds_itg_lastBad (u : Nat) (v : Nat) : (unitHolds u v s).itg.lastBad = s.itg.lastBad := rfl
@[simp] theorem unitHolds_itg_rows (u : Nat) (v : Nat) : (unitHolds u v s).itg.rows = s.itg.rows := rfl
@[simp] theorem unitHolds_itg_husks (u : Nat) (v : Nat) : (unitHolds u v s).itg.husks = s.itg.husks := rfl
@[simp] theorem unitHolds_itg_svRepeats (u : Nat) (v : Nat) : (unitHolds u v s).itg.svRepeats = s.itg.svRepeats := rfl
@[simp] theorem unitHolds_itg_svMissing (u : Nat) (v : Nat) : (unitHolds u v s).itg.svMissing = s.itg.svMissing := rfl
@[simp] theorem unitHolds_itg_svStale (u : Nat) (v : Nat) : (unitHolds u v s).itg.svStale = s.itg.svStale := rfl
@[simp] theorem unitHolds_itg_mismatches (u : Nat) (v : Nat) : (unitHolds u v s).itg.mismatches = s.itg.mismatches := rfl
@[simp] theorem unitHolds_itg_words (u : Nat) (v : Nat) : (unitHolds u v s).itg.words = s.itg.words := rfl
@[simp] theorem unitHolds_itg_rowCount (u : Nat) (v : Nat) : (unitHolds u v s).itg.rowCount = s.itg.rowCount := rfl
@[simp] theorem unitHolds_itg_rowsTold (u : Nat) (v : Nat) : (unitHolds u v s).itg.rowsTold = s.itg.rowsTold := rfl
@[simp] theorem unitHolds_itg_crossings (u : Nat) (v : Nat) : (unitHolds u v s).itg.crossings = s.itg.crossings := rfl

@[simp] theorem unitChecks_pending (u : Nat) (m : Bytes) : (unitChecks u m s).pending = s.pending := rfl
@[simp] theorem unitChecks_clk (u : Nat) (m : Bytes) : (unitChecks u m s).clk = s.clk := rfl
@[simp] theorem unitChecks_hub (u : Nat) (m : Bytes) : (unitChecks u m s).hub = s.hub := rfl
@[simp] theorem unitChecks_sh (u : Nat) (m : Bytes) : (unitChecks u m s).sh = s.sh := rfl
@[simp] theorem unitChecks_cfg (u : Nat) (m : Bytes) : (unitChecks u m s).cfg = s.cfg := rfl
@[simp] theorem unitChecks_hed (u : Nat) (m : Bytes) : (unitChecks u m s).hed = s.hed := rfl
@[simp] theorem unitChecks_conv (u : Nat) (m : Bytes) : (unitChecks u m s).conv = s.conv := rfl
@[simp] theorem unitChecks_filt (u : Nat) (m : Bytes) : (unitChecks u m s).filt = s.filt := rfl
@[simp] theorem unitChecks_warp (u : Nat) (m : Bytes) : (unitChecks u m s).warp = s.warp := rfl
@[simp] theorem unitChecks_cal (u : Nat) (m : Bytes) : (unitChecks u m s).cal = s.cal := rfl
@[simp] theorem unitChecks_trd (u : Nat) (m : Bytes) : (unitChecks u m s).trd = s.trd := rfl
@[simp] theorem unitChecks_drv (u : Nat) (m : Bytes) : (unitChecks u m s).drv = s.drv := rfl
@[simp] theorem unitChecks_weft (u : Nat) (m : Bytes) : (unitChecks u m s).weft = s.weft := rfl
@[simp] theorem unitChecks_win (u : Nat) (m : Bytes) : (unitChecks u m s).win = s.win := rfl
@[simp] theorem unitChecks_pair (u : Nat) (m : Bytes) : (unitChecks u m s).pair = s.pair := rfl
@[simp] theorem unitChecks_pow (u : Nat) (m : Bytes) : (unitChecks u m s).pow = s.pow := rfl
@[simp] theorem unitChecks_wire (u : Nat) (m : Bytes) : (unitChecks u m s).wire = s.wire := rfl
@[simp] theorem unitChecks_free (u : Nat) (m : Bytes) : (unitChecks u m s).free = s.free := rfl
@[simp] theorem unitChecks_itg_corrected (u : Nat) (m : Bytes) : (unitChecks u m s).itg.corrected = s.itg.corrected := rfl
@[simp] theorem unitChecks_itg_uncorrectable (u : Nat) (m : Bytes) : (unitChecks u m s).itg.uncorrectable = s.itg.uncorrectable := rfl
@[simp] theorem unitChecks_itg_passes (u : Nat) (m : Bytes) : (unitChecks u m s).itg.passes = s.itg.passes := rfl
@[simp] theorem unitChecks_itg_lastPass (u : Nat) (m : Bytes) : (unitChecks u m s).itg.lastPass = s.itg.lastPass := rfl
@[simp] theorem unitChecks_itg_passFrom (u : Nat) (m : Bytes) : (unitChecks u m s).itg.passFrom = s.itg.passFrom := rfl
@[simp] theorem unitChecks_itg_lastBad (u : Nat) (m : Bytes) : (unitChecks u m s).itg.lastBad = s.itg.lastBad := rfl
@[simp] theorem unitChecks_itg_rows (u : Nat) (m : Bytes) : (unitChecks u m s).itg.rows = s.itg.rows := rfl
@[simp] theorem unitChecks_itg_husks (u : Nat) (m : Bytes) : (unitChecks u m s).itg.husks = s.itg.husks := rfl
@[simp] theorem unitChecks_itg_svRepeats (u : Nat) (m : Bytes) : (unitChecks u m s).itg.svRepeats = s.itg.svRepeats := rfl
@[simp] theorem unitChecks_itg_svMissing (u : Nat) (m : Bytes) : (unitChecks u m s).itg.svMissing = s.itg.svMissing := rfl
@[simp] theorem unitChecks_itg_svStale (u : Nat) (m : Bytes) : (unitChecks u m s).itg.svStale = s.itg.svStale := rfl
@[simp] theorem unitChecks_itg_mismatches (u : Nat) (m : Bytes) : (unitChecks u m s).itg.mismatches = s.itg.mismatches := rfl
@[simp] theorem unitChecks_itg_words (u : Nat) (m : Bytes) : (unitChecks u m s).itg.words = s.itg.words := rfl
@[simp] theorem unitChecks_itg_rowCount (u : Nat) (m : Bytes) : (unitChecks u m s).itg.rowCount = s.itg.rowCount := rfl
@[simp] theorem unitChecks_itg_rowsTold (u : Nat) (m : Bytes) : (unitChecks u m s).itg.rowsTold = s.itg.rowsTold := rfl
@[simp] theorem unitChecks_itg_crossings (u : Nat) (m : Bytes) : (unitChecks u m s).itg.crossings = s.itg.crossings := rfl

@[simp] theorem logEvent_sh_mail (reason : Nat) (source : Nat) (detail : Nat) : (logEvent reason source detail s).sh.mail = s.sh.mail := rfl
@[simp] theorem logEvent_sh_taken (reason : Nat) (source : Nat) (detail : Nat) : (logEvent reason source detail s).sh.taken = s.sh.taken := rfl
@[simp] theorem logEvent_sh_lock (reason : Nat) (source : Nat) (detail : Nat) : (logEvent reason source detail s).sh.lock = s.sh.lock := rfl
@[simp] theorem logEvent_sh_work (reason : Nat) (source : Nat) (detail : Nat) : (logEvent reason source detail s).sh.work = s.sh.work := rfl
@[simp] theorem logEvent_sh_jobs (reason : Nat) (source : Nat) (detail : Nat) : (logEvent reason source detail s).sh.jobs = s.sh.jobs := rfl
@[simp] theorem logEvent_sh_lastJob (reason : Nat) (source : Nat) (detail : Nat) : (logEvent reason source detail s).sh.lastJob = s.sh.lastJob := rfl
@[simp] theorem logEvent_sh_counters (reason : Nat) (source : Nat) (detail : Nat) : (logEvent reason source detail s).sh.counters = s.sh.counters := rfl
@[simp] theorem logEvent_sh_alarms (reason : Nat) (source : Nat) (detail : Nat) : (logEvent reason source detail s).sh.alarms = s.sh.alarms := rfl
@[simp] theorem logEvent_sh_nIrqLow (reason : Nat) (source : Nat) (detail : Nat) : (logEvent reason source detail s).sh.nIrqLow = s.sh.nIrqLow := rfl

@[simp] theorem mailUpd_sh_taken (mb : Nat) (f : Mailbox → Mailbox) : (mailUpd mb f s).sh.taken = s.sh.taken := rfl
@[simp] theorem mailUpd_sh_lock (mb : Nat) (f : Mailbox → Mailbox) : (mailUpd mb f s).sh.lock = s.sh.lock := rfl
@[simp] theorem mailUpd_sh_work (mb : Nat) (f : Mailbox → Mailbox) : (mailUpd mb f s).sh.work = s.sh.work := rfl
@[simp] theorem mailUpd_sh_jobs (mb : Nat) (f : Mailbox → Mailbox) : (mailUpd mb f s).sh.jobs = s.sh.jobs := rfl
@[simp] theorem mailUpd_sh_lastJob (mb : Nat) (f : Mailbox → Mailbox) : (mailUpd mb f s).sh.lastJob = s.sh.lastJob := rfl
@[simp] theorem mailUpd_sh_log (mb : Nat) (f : Mailbox → Mailbox) : (mailUpd mb f s).sh.log = s.sh.log := rfl
@[simp] theorem mailUpd_sh_nextEvent (mb : Nat) (f : Mailbox → Mailbox) : (mailUpd mb f s).sh.nextEvent = s.sh.nextEvent := rfl
@[simp] theorem mailUpd_sh_counters (mb : Nat) (f : Mailbox → Mailbox) : (mailUpd mb f s).sh.counters = s.sh.counters := rfl
@[simp] theorem mailUpd_sh_alarms (mb : Nat) (f : Mailbox → Mailbox) : (mailUpd mb f s).sh.alarms = s.sh.alarms := rfl
@[simp] theorem mailUpd_sh_nIrqLow (mb : Nat) (f : Mailbox → Mailbox) : (mailUpd mb f s).sh.nIrqLow = s.sh.nIrqLow := rfl

@[simp] theorem irq_sh_mail : (irq s).sh.mail = s.sh.mail := rfl
@[simp] theorem irq_sh_taken : (irq s).sh.taken = s.sh.taken := rfl
@[simp] theorem irq_sh_lock : (irq s).sh.lock = s.sh.lock := rfl
@[simp] theorem irq_sh_work : (irq s).sh.work = s.sh.work := rfl
@[simp] theorem irq_sh_jobs : (irq s).sh.jobs = s.sh.jobs := rfl
@[simp] theorem irq_sh_lastJob : (irq s).sh.lastJob = s.sh.lastJob := rfl
@[simp] theorem irq_sh_log : (irq s).sh.log = s.sh.log := rfl
@[simp] theorem irq_sh_nextEvent : (irq s).sh.nextEvent = s.sh.nextEvent := rfl
@[simp] theorem irq_sh_counters : (irq s).sh.counters = s.sh.counters := rfl
@[simp] theorem irq_sh_alarms : (irq s).sh.alarms = s.sh.alarms := rfl

@[simp] theorem count78_sh_mail (i : Nat) : (count78 i s).sh.mail = s.sh.mail := rfl
@[simp] theorem count78_sh_taken (i : Nat) : (count78 i s).sh.taken = s.sh.taken := rfl
@[simp] theorem count78_sh_lock (i : Nat) : (count78 i s).sh.lock = s.sh.lock := rfl
@[simp] theorem count78_sh_work (i : Nat) : (count78 i s).sh.work = s.sh.work := rfl
@[simp] theorem count78_sh_jobs (i : Nat) : (count78 i s).sh.jobs = s.sh.jobs := rfl
@[simp] theorem count78_sh_lastJob (i : Nat) : (count78 i s).sh.lastJob = s.sh.lastJob := rfl
@[simp] theorem count78_sh_log (i : Nat) : (count78 i s).sh.log = s.sh.log := rfl
@[simp] theorem count78_sh_nextEvent (i : Nat) : (count78 i s).sh.nextEvent = s.sh.nextEvent := rfl
@[simp] theorem count78_sh_alarms (i : Nat) : (count78 i s).sh.alarms = s.sh.alarms := rfl
@[simp] theorem count78_sh_nIrqLow (i : Nat) : (count78 i s).sh.nIrqLow = s.sh.nIrqLow := rfl

@[simp] theorem jobUpd_sh_mail (id : Nat) (f : Job → Job) : (jobUpd id f s).sh.mail = s.sh.mail := rfl
@[simp] theorem jobUpd_sh_taken (id : Nat) (f : Job → Job) : (jobUpd id f s).sh.taken = s.sh.taken := rfl
@[simp] theorem jobUpd_sh_lock (id : Nat) (f : Job → Job) : (jobUpd id f s).sh.lock = s.sh.lock := rfl
@[simp] theorem jobUpd_sh_work (id : Nat) (f : Job → Job) : (jobUpd id f s).sh.work = s.sh.work := rfl
@[simp] theorem jobUpd_sh_lastJob (id : Nat) (f : Job → Job) : (jobUpd id f s).sh.lastJob = s.sh.lastJob := rfl
@[simp] theorem jobUpd_sh_log (id : Nat) (f : Job → Job) : (jobUpd id f s).sh.log = s.sh.log := rfl
@[simp] theorem jobUpd_sh_nextEvent (id : Nat) (f : Job → Job) : (jobUpd id f s).sh.nextEvent = s.sh.nextEvent := rfl
@[simp] theorem jobUpd_sh_counters (id : Nat) (f : Job → Job) : (jobUpd id f s).sh.counters = s.sh.counters := rfl
@[simp] theorem jobUpd_sh_alarms (id : Nat) (f : Job → Job) : (jobUpd id f s).sh.alarms = s.sh.alarms := rfl
@[simp] theorem jobUpd_sh_nIrqLow (id : Nat) (f : Job → Job) : (jobUpd id f s).sh.nIrqLow = s.sh.nIrqLow := rfl

@[simp] theorem formNotice_pending (late : Bool) (p : Nat) :
    (formNotice late p s).pending = s.pending := by unfold formNotice; extract_lets; split <;> rfl
@[simp] theorem formNotice_clk (late : Bool) (p : Nat) :
    (formNotice late p s).clk = s.clk := by unfold formNotice; extract_lets; split <;> rfl
@[simp] theorem formNotice_hub (late : Bool) (p : Nat) :
    (formNotice late p s).hub = s.hub := by unfold formNotice; extract_lets; split <;> rfl
@[simp] theorem formNotice_sh (late : Bool) (p : Nat) :
    (formNotice late p s).sh = s.sh := by unfold formNotice; extract_lets; split <;> rfl
@[simp] theorem formNotice_cfg (late : Bool) (p : Nat) :
    (formNotice late p s).cfg = s.cfg := by unfold formNotice; extract_lets; split <;> rfl
@[simp] theorem formNotice_hed (late : Bool) (p : Nat) :
    (formNotice late p s).hed = s.hed := by unfold formNotice; extract_lets; split <;> rfl
@[simp] theorem formNotice_conv (late : Bool) (p : Nat) :
    (formNotice late p s).conv = s.conv := by unfold formNotice; extract_lets; split <;> rfl
@[simp] theorem formNotice_filt (late : Bool) (p : Nat) :
    (formNotice late p s).filt = s.filt := by unfold formNotice; extract_lets; split <;> rfl
@[simp] theorem formNotice_warp (late : Bool) (p : Nat) :
    (formNotice late p s).warp = s.warp := by unfold formNotice; extract_lets; split <;> rfl
@[simp] theorem formNotice_cal (late : Bool) (p : Nat) :
    (formNotice late p s).cal = s.cal := by unfold formNotice; extract_lets; split <;> rfl
@[simp] theorem formNotice_trd (late : Bool) (p : Nat) :
    (formNotice late p s).trd = s.trd := by unfold formNotice; extract_lets; split <;> rfl
@[simp] theorem formNotice_drv (late : Bool) (p : Nat) :
    (formNotice late p s).drv = s.drv := by unfold formNotice; extract_lets; split <;> rfl
@[simp] theorem formNotice_win (late : Bool) (p : Nat) :
    (formNotice late p s).win = s.win := by unfold formNotice; extract_lets; split <;> rfl
@[simp] theorem formNotice_pair (late : Bool) (p : Nat) :
    (formNotice late p s).pair = s.pair := by unfold formNotice; extract_lets; split <;> rfl
@[simp] theorem formNotice_pow (late : Bool) (p : Nat) :
    (formNotice late p s).pow = s.pow := by unfold formNotice; extract_lets; split <;> rfl
@[simp] theorem formNotice_wire (late : Bool) (p : Nat) :
    (formNotice late p s).wire = s.wire := by unfold formNotice; extract_lets; split <;> rfl
@[simp] theorem formNotice_free (late : Bool) (p : Nat) :
    (formNotice late p s).free = s.free := by unfold formNotice; extract_lets; split <;> rfl
@[simp] theorem formNotice_weft_streams (late : Bool) (p : Nat) :
    (formNotice late p s).weft.streams = s.weft.streams := by unfold formNotice; extract_lets; split <;> rfl
@[simp] theorem formNotice_weft_opened (late : Bool) (p : Nat) :
    (formNotice late p s).weft.opened = s.weft.opened := by unfold formNotice; extract_lets; split <;> rfl
@[simp] theorem formNotice_weft_pool (late : Bool) (p : Nat) :
    (formNotice late p s).weft.pool = s.weft.pool := by unfold formNotice; extract_lets; split <;> rfl
@[simp] theorem formNotice_weft_notices (late : Bool) (p : Nat) :
    (formNotice late p s).weft.notices = s.weft.notices := by unfold formNotice; extract_lets; split <;> rfl
@[simp] theorem formNotice_weft_nextNotice (late : Bool) (p : Nat) :
    (formNotice late p s).weft.nextNotice = s.weft.nextNotice := by unfold formNotice; extract_lets; split <;> rfl
@[simp] theorem formNotice_weft_highFill (late : Bool) (p : Nat) :
    (formNotice late p s).weft.highFill = s.weft.highFill := by unfold formNotice; extract_lets; split <;> rfl
@[simp] theorem formNotice_weft_releases (late : Bool) (p : Nat) :
    (formNotice late p s).weft.releases = s.weft.releases := by unfold formNotice; extract_lets; split <;> rfl
@[simp] theorem formNotice_weft_gapNotices (late : Bool) (p : Nat) :
    (formNotice late p s).weft.gapNotices = s.weft.gapNotices := by unfold formNotice; extract_lets; split <;> rfl
@[simp] theorem formNotice_weft_lastRelease (late : Bool) (p : Nat) :
    (formNotice late p s).weft.lastRelease = s.weft.lastRelease := by unfold formNotice; extract_lets; split <;> rfl
@[simp] theorem formNotice_itg_corrected (late : Bool) (p : Nat) :
    (formNotice late p s).itg.corrected = s.itg.corrected := by unfold formNotice; extract_lets; split <;> rfl
@[simp] theorem formNotice_itg_uncorrectable (late : Bool) (p : Nat) :
    (formNotice late p s).itg.uncorrectable = s.itg.uncorrectable := by unfold formNotice; extract_lets; split <;> rfl
@[simp] theorem formNotice_itg_passes (late : Bool) (p : Nat) :
    (formNotice late p s).itg.passes = s.itg.passes := by unfold formNotice; extract_lets; split <;> rfl
@[simp] theorem formNotice_itg_lastPass (late : Bool) (p : Nat) :
    (formNotice late p s).itg.lastPass = s.itg.lastPass := by unfold formNotice; extract_lets; split <;> rfl
@[simp] theorem formNotice_itg_passFrom (late : Bool) (p : Nat) :
    (formNotice late p s).itg.passFrom = s.itg.passFrom := by unfold formNotice; extract_lets; split <;> rfl
@[simp] theorem formNotice_itg_lastBad (late : Bool) (p : Nat) :
    (formNotice late p s).itg.lastBad = s.itg.lastBad := by unfold formNotice; extract_lets; split <;> rfl
@[simp] theorem formNotice_itg_rows (late : Bool) (p : Nat) :
    (formNotice late p s).itg.rows = s.itg.rows := by unfold formNotice; extract_lets; split <;> rfl
@[simp] theorem formNotice_itg_husks (late : Bool) (p : Nat) :
    (formNotice late p s).itg.husks = s.itg.husks := by unfold formNotice; extract_lets; split <;> rfl
@[simp] theorem formNotice_itg_svRepeats (late : Bool) (p : Nat) :
    (formNotice late p s).itg.svRepeats = s.itg.svRepeats := by unfold formNotice; extract_lets; split <;> rfl
@[simp] theorem formNotice_itg_svMissing (late : Bool) (p : Nat) :
    (formNotice late p s).itg.svMissing = s.itg.svMissing := by unfold formNotice; extract_lets; split <;> rfl
@[simp] theorem formNotice_itg_svStale (late : Bool) (p : Nat) :
    (formNotice late p s).itg.svStale = s.itg.svStale := by unfold formNotice; extract_lets; split <;> rfl
@[simp] theorem formNotice_itg_mismatches (late : Bool) (p : Nat) :
    (formNotice late p s).itg.mismatches = s.itg.mismatches := by unfold formNotice; extract_lets; split <;> rfl
@[simp] theorem formNotice_itg_words (late : Bool) (p : Nat) :
    (formNotice late p s).itg.words = s.itg.words := by unfold formNotice; extract_lets; split <;> rfl
@[simp] theorem formNotice_itg_rowCount (late : Bool) (p : Nat) :
    (formNotice late p s).itg.rowCount = s.itg.rowCount := by unfold formNotice; extract_lets; split <;> rfl
@[simp] theorem formNotice_itg_rowsTold (late : Bool) (p : Nat) :
    (formNotice late p s).itg.rowsTold = s.itg.rowsTold := by unfold formNotice; extract_lets; split <;> rfl
@[simp] theorem formNotice_itg_crossings (late : Bool) (p : Nat) :
    (formNotice late p s).itg.crossings = s.itg.crossings := by unfold formNotice; extract_lets; split <;> rfl

@[simp] theorem addNotice_pending (n : Notice) : (addNotice n s).pending = s.pending := by simp [addNotice]
@[simp] theorem addNotice_clk (n : Notice) : (addNotice n s).clk = s.clk := by simp [addNotice]
@[simp] theorem addNotice_hub (n : Notice) : (addNotice n s).hub = s.hub := by simp [addNotice]
@[simp] theorem addNotice_sh (n : Notice) : (addNotice n s).sh = s.sh := by simp [addNotice]
@[simp] theorem addNotice_cfg (n : Notice) : (addNotice n s).cfg = s.cfg := by simp [addNotice]
@[simp] theorem addNotice_hed (n : Notice) : (addNotice n s).hed = s.hed := by simp [addNotice]
@[simp] theorem addNotice_conv (n : Notice) : (addNotice n s).conv = s.conv := by simp [addNotice]
@[simp] theorem addNotice_filt (n : Notice) : (addNotice n s).filt = s.filt := by simp [addNotice]
@[simp] theorem addNotice_warp (n : Notice) : (addNotice n s).warp = s.warp := by simp [addNotice]
@[simp] theorem addNotice_cal (n : Notice) : (addNotice n s).cal = s.cal := by simp [addNotice]
@[simp] theorem addNotice_trd (n : Notice) : (addNotice n s).trd = s.trd := by simp [addNotice]
@[simp] theorem addNotice_drv (n : Notice) : (addNotice n s).drv = s.drv := by simp [addNotice]
@[simp] theorem addNotice_win (n : Notice) : (addNotice n s).win = s.win := by simp [addNotice]
@[simp] theorem addNotice_pair (n : Notice) : (addNotice n s).pair = s.pair := by simp [addNotice]
@[simp] theorem addNotice_pow (n : Notice) : (addNotice n s).pow = s.pow := by simp [addNotice]
@[simp] theorem addNotice_wire (n : Notice) : (addNotice n s).wire = s.wire := by simp [addNotice]
@[simp] theorem addNotice_free (n : Notice) : (addNotice n s).free = s.free := by simp [addNotice]
@[simp] theorem addNotice_weft_streams (n : Notice) : (addNotice n s).weft.streams = s.weft.streams := by simp [addNotice]
@[simp] theorem addNotice_weft_opened (n : Notice) : (addNotice n s).weft.opened = s.weft.opened := by simp [addNotice]
@[simp] theorem addNotice_weft_pool (n : Notice) : (addNotice n s).weft.pool = s.weft.pool := by simp [addNotice]
@[simp] theorem addNotice_weft_highFill (n : Notice) : (addNotice n s).weft.highFill = s.weft.highFill := by simp [addNotice]
@[simp] theorem addNotice_weft_releases (n : Notice) : (addNotice n s).weft.releases = s.weft.releases := by simp [addNotice]
@[simp] theorem addNotice_weft_gapNotices (n : Notice) : (addNotice n s).weft.gapNotices = s.weft.gapNotices := by simp [addNotice]
@[simp] theorem addNotice_weft_lastRelease (n : Notice) : (addNotice n s).weft.lastRelease = s.weft.lastRelease := by simp [addNotice]
@[simp] theorem addNotice_itg_corrected (n : Notice) : (addNotice n s).itg.corrected = s.itg.corrected := by simp [addNotice]
@[simp] theorem addNotice_itg_uncorrectable (n : Notice) : (addNotice n s).itg.uncorrectable = s.itg.uncorrectable := by simp [addNotice]
@[simp] theorem addNotice_itg_passes (n : Notice) : (addNotice n s).itg.passes = s.itg.passes := by simp [addNotice]
@[simp] theorem addNotice_itg_lastPass (n : Notice) : (addNotice n s).itg.lastPass = s.itg.lastPass := by simp [addNotice]
@[simp] theorem addNotice_itg_passFrom (n : Notice) : (addNotice n s).itg.passFrom = s.itg.passFrom := by simp [addNotice]
@[simp] theorem addNotice_itg_lastBad (n : Notice) : (addNotice n s).itg.lastBad = s.itg.lastBad := by simp [addNotice]
@[simp] theorem addNotice_itg_rows (n : Notice) : (addNotice n s).itg.rows = s.itg.rows := by simp [addNotice]
@[simp] theorem addNotice_itg_husks (n : Notice) : (addNotice n s).itg.husks = s.itg.husks := by simp [addNotice]
@[simp] theorem addNotice_itg_svRepeats (n : Notice) : (addNotice n s).itg.svRepeats = s.itg.svRepeats := by simp [addNotice]
@[simp] theorem addNotice_itg_svMissing (n : Notice) : (addNotice n s).itg.svMissing = s.itg.svMissing := by simp [addNotice]
@[simp] theorem addNotice_itg_svStale (n : Notice) : (addNotice n s).itg.svStale = s.itg.svStale := by simp [addNotice]
@[simp] theorem addNotice_itg_mismatches (n : Notice) : (addNotice n s).itg.mismatches = s.itg.mismatches := by simp [addNotice]
@[simp] theorem addNotice_itg_words (n : Notice) : (addNotice n s).itg.words = s.itg.words := by simp [addNotice]
@[simp] theorem addNotice_itg_rowCount (n : Notice) : (addNotice n s).itg.rowCount = s.itg.rowCount := by simp [addNotice]
@[simp] theorem addNotice_itg_rowsTold (n : Notice) : (addNotice n s).itg.rowsTold = s.itg.rowsTold := by simp [addNotice]
@[simp] theorem addNotice_itg_crossings (n : Notice) : (addNotice n s).itg.crossings = s.itg.crossings := by simp [addNotice]

@[simp] theorem alarmNotice_pending (onset : Bool) (code : Nat) (part : Nat) (reason : Nat) : (alarmNotice onset code part reason s).pending = s.pending := by simp [alarmNotice]
@[simp] theorem alarmNotice_clk (onset : Bool) (code : Nat) (part : Nat) (reason : Nat) : (alarmNotice onset code part reason s).clk = s.clk := by simp [alarmNotice]
@[simp] theorem alarmNotice_hub (onset : Bool) (code : Nat) (part : Nat) (reason : Nat) : (alarmNotice onset code part reason s).hub = s.hub := by simp [alarmNotice]
@[simp] theorem alarmNotice_sh (onset : Bool) (code : Nat) (part : Nat) (reason : Nat) : (alarmNotice onset code part reason s).sh = s.sh := by simp [alarmNotice]
@[simp] theorem alarmNotice_cfg (onset : Bool) (code : Nat) (part : Nat) (reason : Nat) : (alarmNotice onset code part reason s).cfg = s.cfg := by simp [alarmNotice]
@[simp] theorem alarmNotice_hed (onset : Bool) (code : Nat) (part : Nat) (reason : Nat) : (alarmNotice onset code part reason s).hed = s.hed := by simp [alarmNotice]
@[simp] theorem alarmNotice_conv (onset : Bool) (code : Nat) (part : Nat) (reason : Nat) : (alarmNotice onset code part reason s).conv = s.conv := by simp [alarmNotice]
@[simp] theorem alarmNotice_filt (onset : Bool) (code : Nat) (part : Nat) (reason : Nat) : (alarmNotice onset code part reason s).filt = s.filt := by simp [alarmNotice]
@[simp] theorem alarmNotice_warp (onset : Bool) (code : Nat) (part : Nat) (reason : Nat) : (alarmNotice onset code part reason s).warp = s.warp := by simp [alarmNotice]
@[simp] theorem alarmNotice_cal (onset : Bool) (code : Nat) (part : Nat) (reason : Nat) : (alarmNotice onset code part reason s).cal = s.cal := by simp [alarmNotice]
@[simp] theorem alarmNotice_trd (onset : Bool) (code : Nat) (part : Nat) (reason : Nat) : (alarmNotice onset code part reason s).trd = s.trd := by simp [alarmNotice]
@[simp] theorem alarmNotice_drv (onset : Bool) (code : Nat) (part : Nat) (reason : Nat) : (alarmNotice onset code part reason s).drv = s.drv := by simp [alarmNotice]
@[simp] theorem alarmNotice_win (onset : Bool) (code : Nat) (part : Nat) (reason : Nat) : (alarmNotice onset code part reason s).win = s.win := by simp [alarmNotice]
@[simp] theorem alarmNotice_pair (onset : Bool) (code : Nat) (part : Nat) (reason : Nat) : (alarmNotice onset code part reason s).pair = s.pair := by simp [alarmNotice]
@[simp] theorem alarmNotice_pow (onset : Bool) (code : Nat) (part : Nat) (reason : Nat) : (alarmNotice onset code part reason s).pow = s.pow := by simp [alarmNotice]
@[simp] theorem alarmNotice_wire (onset : Bool) (code : Nat) (part : Nat) (reason : Nat) : (alarmNotice onset code part reason s).wire = s.wire := by simp [alarmNotice]
@[simp] theorem alarmNotice_free (onset : Bool) (code : Nat) (part : Nat) (reason : Nat) : (alarmNotice onset code part reason s).free = s.free := by simp [alarmNotice]
@[simp] theorem alarmNotice_weft_streams (onset : Bool) (code : Nat) (part : Nat) (reason : Nat) : (alarmNotice onset code part reason s).weft.streams = s.weft.streams := by simp [alarmNotice]
@[simp] theorem alarmNotice_weft_opened (onset : Bool) (code : Nat) (part : Nat) (reason : Nat) : (alarmNotice onset code part reason s).weft.opened = s.weft.opened := by simp [alarmNotice]
@[simp] theorem alarmNotice_weft_pool (onset : Bool) (code : Nat) (part : Nat) (reason : Nat) : (alarmNotice onset code part reason s).weft.pool = s.weft.pool := by simp [alarmNotice]
@[simp] theorem alarmNotice_weft_highFill (onset : Bool) (code : Nat) (part : Nat) (reason : Nat) : (alarmNotice onset code part reason s).weft.highFill = s.weft.highFill := by simp [alarmNotice]
@[simp] theorem alarmNotice_weft_releases (onset : Bool) (code : Nat) (part : Nat) (reason : Nat) : (alarmNotice onset code part reason s).weft.releases = s.weft.releases := by simp [alarmNotice]
@[simp] theorem alarmNotice_weft_gapNotices (onset : Bool) (code : Nat) (part : Nat) (reason : Nat) : (alarmNotice onset code part reason s).weft.gapNotices = s.weft.gapNotices := by simp [alarmNotice]
@[simp] theorem alarmNotice_weft_lastRelease (onset : Bool) (code : Nat) (part : Nat) (reason : Nat) : (alarmNotice onset code part reason s).weft.lastRelease = s.weft.lastRelease := by simp [alarmNotice]
@[simp] theorem alarmNotice_itg_corrected (onset : Bool) (code : Nat) (part : Nat) (reason : Nat) : (alarmNotice onset code part reason s).itg.corrected = s.itg.corrected := by simp [alarmNotice]
@[simp] theorem alarmNotice_itg_uncorrectable (onset : Bool) (code : Nat) (part : Nat) (reason : Nat) : (alarmNotice onset code part reason s).itg.uncorrectable = s.itg.uncorrectable := by simp [alarmNotice]
@[simp] theorem alarmNotice_itg_passes (onset : Bool) (code : Nat) (part : Nat) (reason : Nat) : (alarmNotice onset code part reason s).itg.passes = s.itg.passes := by simp [alarmNotice]
@[simp] theorem alarmNotice_itg_lastPass (onset : Bool) (code : Nat) (part : Nat) (reason : Nat) : (alarmNotice onset code part reason s).itg.lastPass = s.itg.lastPass := by simp [alarmNotice]
@[simp] theorem alarmNotice_itg_passFrom (onset : Bool) (code : Nat) (part : Nat) (reason : Nat) : (alarmNotice onset code part reason s).itg.passFrom = s.itg.passFrom := by simp [alarmNotice]
@[simp] theorem alarmNotice_itg_lastBad (onset : Bool) (code : Nat) (part : Nat) (reason : Nat) : (alarmNotice onset code part reason s).itg.lastBad = s.itg.lastBad := by simp [alarmNotice]
@[simp] theorem alarmNotice_itg_rows (onset : Bool) (code : Nat) (part : Nat) (reason : Nat) : (alarmNotice onset code part reason s).itg.rows = s.itg.rows := by simp [alarmNotice]
@[simp] theorem alarmNotice_itg_husks (onset : Bool) (code : Nat) (part : Nat) (reason : Nat) : (alarmNotice onset code part reason s).itg.husks = s.itg.husks := by simp [alarmNotice]
@[simp] theorem alarmNotice_itg_svRepeats (onset : Bool) (code : Nat) (part : Nat) (reason : Nat) : (alarmNotice onset code part reason s).itg.svRepeats = s.itg.svRepeats := by simp [alarmNotice]
@[simp] theorem alarmNotice_itg_svMissing (onset : Bool) (code : Nat) (part : Nat) (reason : Nat) : (alarmNotice onset code part reason s).itg.svMissing = s.itg.svMissing := by simp [alarmNotice]
@[simp] theorem alarmNotice_itg_svStale (onset : Bool) (code : Nat) (part : Nat) (reason : Nat) : (alarmNotice onset code part reason s).itg.svStale = s.itg.svStale := by simp [alarmNotice]
@[simp] theorem alarmNotice_itg_mismatches (onset : Bool) (code : Nat) (part : Nat) (reason : Nat) : (alarmNotice onset code part reason s).itg.mismatches = s.itg.mismatches := by simp [alarmNotice]
@[simp] theorem alarmNotice_itg_words (onset : Bool) (code : Nat) (part : Nat) (reason : Nat) : (alarmNotice onset code part reason s).itg.words = s.itg.words := by simp [alarmNotice]
@[simp] theorem alarmNotice_itg_rowCount (onset : Bool) (code : Nat) (part : Nat) (reason : Nat) : (alarmNotice onset code part reason s).itg.rowCount = s.itg.rowCount := by simp [alarmNotice]
@[simp] theorem alarmNotice_itg_rowsTold (onset : Bool) (code : Nat) (part : Nat) (reason : Nat) : (alarmNotice onset code part reason s).itg.rowsTold = s.itg.rowsTold := by simp [alarmNotice]
@[simp] theorem alarmNotice_itg_crossings (onset : Bool) (code : Nat) (part : Nat) (reason : Nat) : (alarmNotice onset code part reason s).itg.crossings = s.itg.crossings := by simp [alarmNotice]

@[simp] theorem alarmEvent_pending (code : Nat) (part : Nat) (reason : Nat) : (alarmEvent code part reason s).pending = s.pending := by simp [alarmEvent]
@[simp] theorem alarmEvent_clk (code : Nat) (part : Nat) (reason : Nat) : (alarmEvent code part reason s).clk = s.clk := by simp [alarmEvent]
@[simp] theorem alarmEvent_hub (code : Nat) (part : Nat) (reason : Nat) : (alarmEvent code part reason s).hub = s.hub := by simp [alarmEvent]
@[simp] theorem alarmEvent_cfg (code : Nat) (part : Nat) (reason : Nat) : (alarmEvent code part reason s).cfg = s.cfg := by simp [alarmEvent]
@[simp] theorem alarmEvent_hed (code : Nat) (part : Nat) (reason : Nat) : (alarmEvent code part reason s).hed = s.hed := by simp [alarmEvent]
@[simp] theorem alarmEvent_conv (code : Nat) (part : Nat) (reason : Nat) : (alarmEvent code part reason s).conv = s.conv := by simp [alarmEvent]
@[simp] theorem alarmEvent_filt (code : Nat) (part : Nat) (reason : Nat) : (alarmEvent code part reason s).filt = s.filt := by simp [alarmEvent]
@[simp] theorem alarmEvent_warp (code : Nat) (part : Nat) (reason : Nat) : (alarmEvent code part reason s).warp = s.warp := by simp [alarmEvent]
@[simp] theorem alarmEvent_cal (code : Nat) (part : Nat) (reason : Nat) : (alarmEvent code part reason s).cal = s.cal := by simp [alarmEvent]
@[simp] theorem alarmEvent_trd (code : Nat) (part : Nat) (reason : Nat) : (alarmEvent code part reason s).trd = s.trd := by simp [alarmEvent]
@[simp] theorem alarmEvent_drv (code : Nat) (part : Nat) (reason : Nat) : (alarmEvent code part reason s).drv = s.drv := by simp [alarmEvent]
@[simp] theorem alarmEvent_weft (code : Nat) (part : Nat) (reason : Nat) : (alarmEvent code part reason s).weft = s.weft := by simp [alarmEvent]
@[simp] theorem alarmEvent_win (code : Nat) (part : Nat) (reason : Nat) : (alarmEvent code part reason s).win = s.win := by simp [alarmEvent]
@[simp] theorem alarmEvent_itg (code : Nat) (part : Nat) (reason : Nat) : (alarmEvent code part reason s).itg = s.itg := by simp [alarmEvent]
@[simp] theorem alarmEvent_pair (code : Nat) (part : Nat) (reason : Nat) : (alarmEvent code part reason s).pair = s.pair := by simp [alarmEvent]
@[simp] theorem alarmEvent_pow (code : Nat) (part : Nat) (reason : Nat) : (alarmEvent code part reason s).pow = s.pow := by simp [alarmEvent]
@[simp] theorem alarmEvent_wire (code : Nat) (part : Nat) (reason : Nat) : (alarmEvent code part reason s).wire = s.wire := by simp [alarmEvent]
@[simp] theorem alarmEvent_free (code : Nat) (part : Nat) (reason : Nat) : (alarmEvent code part reason s).free = s.free := by simp [alarmEvent]
@[simp] theorem alarmEvent_sh_mail (code : Nat) (part : Nat) (reason : Nat) : (alarmEvent code part reason s).sh.mail = s.sh.mail := by simp [alarmEvent]
@[simp] theorem alarmEvent_sh_taken (code : Nat) (part : Nat) (reason : Nat) : (alarmEvent code part reason s).sh.taken = s.sh.taken := by simp [alarmEvent]
@[simp] theorem alarmEvent_sh_lock (code : Nat) (part : Nat) (reason : Nat) : (alarmEvent code part reason s).sh.lock = s.sh.lock := by simp [alarmEvent]
@[simp] theorem alarmEvent_sh_work (code : Nat) (part : Nat) (reason : Nat) : (alarmEvent code part reason s).sh.work = s.sh.work := by simp [alarmEvent]
@[simp] theorem alarmEvent_sh_jobs (code : Nat) (part : Nat) (reason : Nat) : (alarmEvent code part reason s).sh.jobs = s.sh.jobs := by simp [alarmEvent]
@[simp] theorem alarmEvent_sh_lastJob (code : Nat) (part : Nat) (reason : Nat) : (alarmEvent code part reason s).sh.lastJob = s.sh.lastJob := by simp [alarmEvent]
@[simp] theorem alarmEvent_sh_counters (code : Nat) (part : Nat) (reason : Nat) : (alarmEvent code part reason s).sh.counters = s.sh.counters := by simp [alarmEvent]
@[simp] theorem alarmEvent_sh_alarms (code : Nat) (part : Nat) (reason : Nat) : (alarmEvent code part reason s).sh.alarms = s.sh.alarms := by simp [alarmEvent]
@[simp] theorem alarmEvent_sh_nIrqLow (code : Nat) (part : Nat) (reason : Nat) : (alarmEvent code part reason s).sh.nIrqLow = s.sh.nIrqLow := by simp [alarmEvent]

@[simp] theorem setAlarm_pending (bit : Nat) (on : Bool) (logged : Bool) (part : Nat) (reason : Nat) :
    (setAlarm bit on logged part reason s).pending = s.pending := by
  unfold setAlarm; split
  · rfl
  · simp only []; (repeat' split) <;> simp
@[simp] theorem setAlarm_clk (bit : Nat) (on : Bool) (logged : Bool) (part : Nat) (reason : Nat) :
    (setAlarm bit on logged part reason s).clk = s.clk := by
  unfold setAlarm; split
  · rfl
  · simp only []; (repeat' split) <;> simp
@[simp] theorem setAlarm_hub (bit : Nat) (on : Bool) (logged : Bool) (part : Nat) (reason : Nat) :
    (setAlarm bit on logged part reason s).hub = s.hub := by
  unfold setAlarm; split
  · rfl
  · simp only []; (repeat' split) <;> simp
@[simp] theorem setAlarm_cfg (bit : Nat) (on : Bool) (logged : Bool) (part : Nat) (reason : Nat) :
    (setAlarm bit on logged part reason s).cfg = s.cfg := by
  unfold setAlarm; split
  · rfl
  · simp only []; (repeat' split) <;> simp
@[simp] theorem setAlarm_hed (bit : Nat) (on : Bool) (logged : Bool) (part : Nat) (reason : Nat) :
    (setAlarm bit on logged part reason s).hed = s.hed := by
  unfold setAlarm; split
  · rfl
  · simp only []; (repeat' split) <;> simp
@[simp] theorem setAlarm_conv (bit : Nat) (on : Bool) (logged : Bool) (part : Nat) (reason : Nat) :
    (setAlarm bit on logged part reason s).conv = s.conv := by
  unfold setAlarm; split
  · rfl
  · simp only []; (repeat' split) <;> simp
@[simp] theorem setAlarm_filt (bit : Nat) (on : Bool) (logged : Bool) (part : Nat) (reason : Nat) :
    (setAlarm bit on logged part reason s).filt = s.filt := by
  unfold setAlarm; split
  · rfl
  · simp only []; (repeat' split) <;> simp
@[simp] theorem setAlarm_warp (bit : Nat) (on : Bool) (logged : Bool) (part : Nat) (reason : Nat) :
    (setAlarm bit on logged part reason s).warp = s.warp := by
  unfold setAlarm; split
  · rfl
  · simp only []; (repeat' split) <;> simp
@[simp] theorem setAlarm_cal (bit : Nat) (on : Bool) (logged : Bool) (part : Nat) (reason : Nat) :
    (setAlarm bit on logged part reason s).cal = s.cal := by
  unfold setAlarm; split
  · rfl
  · simp only []; (repeat' split) <;> simp
@[simp] theorem setAlarm_trd (bit : Nat) (on : Bool) (logged : Bool) (part : Nat) (reason : Nat) :
    (setAlarm bit on logged part reason s).trd = s.trd := by
  unfold setAlarm; split
  · rfl
  · simp only []; (repeat' split) <;> simp
@[simp] theorem setAlarm_drv (bit : Nat) (on : Bool) (logged : Bool) (part : Nat) (reason : Nat) :
    (setAlarm bit on logged part reason s).drv = s.drv := by
  unfold setAlarm; split
  · rfl
  · simp only []; (repeat' split) <;> simp
@[simp] theorem setAlarm_win (bit : Nat) (on : Bool) (logged : Bool) (part : Nat) (reason : Nat) :
    (setAlarm bit on logged part reason s).win = s.win := by
  unfold setAlarm; split
  · rfl
  · simp only []; (repeat' split) <;> simp
@[simp] theorem setAlarm_pair (bit : Nat) (on : Bool) (logged : Bool) (part : Nat) (reason : Nat) :
    (setAlarm bit on logged part reason s).pair = s.pair := by
  unfold setAlarm; split
  · rfl
  · simp only []; (repeat' split) <;> simp
@[simp] theorem setAlarm_pow (bit : Nat) (on : Bool) (logged : Bool) (part : Nat) (reason : Nat) :
    (setAlarm bit on logged part reason s).pow = s.pow := by
  unfold setAlarm; split
  · rfl
  · simp only []; (repeat' split) <;> simp
@[simp] theorem setAlarm_wire (bit : Nat) (on : Bool) (logged : Bool) (part : Nat) (reason : Nat) :
    (setAlarm bit on logged part reason s).wire = s.wire := by
  unfold setAlarm; split
  · rfl
  · simp only []; (repeat' split) <;> simp
@[simp] theorem setAlarm_free (bit : Nat) (on : Bool) (logged : Bool) (part : Nat) (reason : Nat) :
    (setAlarm bit on logged part reason s).free = s.free := by
  unfold setAlarm; split
  · rfl
  · simp only []; (repeat' split) <;> simp
@[simp] theorem setAlarm_sh_mail (bit : Nat) (on : Bool) (logged : Bool) (part : Nat) (reason : Nat) :
    (setAlarm bit on logged part reason s).sh.mail = s.sh.mail := by
  unfold setAlarm; split
  · rfl
  · simp only []; (repeat' split) <;> simp
@[simp] theorem setAlarm_sh_taken (bit : Nat) (on : Bool) (logged : Bool) (part : Nat) (reason : Nat) :
    (setAlarm bit on logged part reason s).sh.taken = s.sh.taken := by
  unfold setAlarm; split
  · rfl
  · simp only []; (repeat' split) <;> simp
@[simp] theorem setAlarm_sh_lock (bit : Nat) (on : Bool) (logged : Bool) (part : Nat) (reason : Nat) :
    (setAlarm bit on logged part reason s).sh.lock = s.sh.lock := by
  unfold setAlarm; split
  · rfl
  · simp only []; (repeat' split) <;> simp
@[simp] theorem setAlarm_sh_work (bit : Nat) (on : Bool) (logged : Bool) (part : Nat) (reason : Nat) :
    (setAlarm bit on logged part reason s).sh.work = s.sh.work := by
  unfold setAlarm; split
  · rfl
  · simp only []; (repeat' split) <;> simp
@[simp] theorem setAlarm_sh_jobs (bit : Nat) (on : Bool) (logged : Bool) (part : Nat) (reason : Nat) :
    (setAlarm bit on logged part reason s).sh.jobs = s.sh.jobs := by
  unfold setAlarm; split
  · rfl
  · simp only []; (repeat' split) <;> simp
@[simp] theorem setAlarm_sh_lastJob (bit : Nat) (on : Bool) (logged : Bool) (part : Nat) (reason : Nat) :
    (setAlarm bit on logged part reason s).sh.lastJob = s.sh.lastJob := by
  unfold setAlarm; split
  · rfl
  · simp only []; (repeat' split) <;> simp
@[simp] theorem setAlarm_sh_counters (bit : Nat) (on : Bool) (logged : Bool) (part : Nat) (reason : Nat) :
    (setAlarm bit on logged part reason s).sh.counters = s.sh.counters := by
  unfold setAlarm; split
  · rfl
  · simp only []; (repeat' split) <;> simp
@[simp] theorem setAlarm_sh_nIrqLow (bit : Nat) (on : Bool) (logged : Bool) (part : Nat) (reason : Nat) :
    (setAlarm bit on logged part reason s).sh.nIrqLow = s.sh.nIrqLow := by
  unfold setAlarm; split
  · rfl
  · simp only []; (repeat' split) <;> simp
@[simp] theorem setAlarm_weft_streams (bit : Nat) (on : Bool) (logged : Bool) (part : Nat) (reason : Nat) :
    (setAlarm bit on logged part reason s).weft.streams = s.weft.streams := by
  unfold setAlarm; split
  · rfl
  · simp only []; (repeat' split) <;> simp
@[simp] theorem setAlarm_weft_opened (bit : Nat) (on : Bool) (logged : Bool) (part : Nat) (reason : Nat) :
    (setAlarm bit on logged part reason s).weft.opened = s.weft.opened := by
  unfold setAlarm; split
  · rfl
  · simp only []; (repeat' split) <;> simp
@[simp] theorem setAlarm_weft_pool (bit : Nat) (on : Bool) (logged : Bool) (part : Nat) (reason : Nat) :
    (setAlarm bit on logged part reason s).weft.pool = s.weft.pool := by
  unfold setAlarm; split
  · rfl
  · simp only []; (repeat' split) <;> simp
@[simp] theorem setAlarm_weft_highFill (bit : Nat) (on : Bool) (logged : Bool) (part : Nat) (reason : Nat) :
    (setAlarm bit on logged part reason s).weft.highFill = s.weft.highFill := by
  unfold setAlarm; split
  · rfl
  · simp only []; (repeat' split) <;> simp
@[simp] theorem setAlarm_weft_releases (bit : Nat) (on : Bool) (logged : Bool) (part : Nat) (reason : Nat) :
    (setAlarm bit on logged part reason s).weft.releases = s.weft.releases := by
  unfold setAlarm; split
  · rfl
  · simp only []; (repeat' split) <;> simp
@[simp] theorem setAlarm_weft_gapNotices (bit : Nat) (on : Bool) (logged : Bool) (part : Nat) (reason : Nat) :
    (setAlarm bit on logged part reason s).weft.gapNotices = s.weft.gapNotices := by
  unfold setAlarm; split
  · rfl
  · simp only []; (repeat' split) <;> simp
@[simp] theorem setAlarm_weft_lastRelease (bit : Nat) (on : Bool) (logged : Bool) (part : Nat) (reason : Nat) :
    (setAlarm bit on logged part reason s).weft.lastRelease = s.weft.lastRelease := by
  unfold setAlarm; split
  · rfl
  · simp only []; (repeat' split) <;> simp
@[simp] theorem setAlarm_itg_corrected (bit : Nat) (on : Bool) (logged : Bool) (part : Nat) (reason : Nat) :
    (setAlarm bit on logged part reason s).itg.corrected = s.itg.corrected := by
  unfold setAlarm; split
  · rfl
  · simp only []; (repeat' split) <;> simp
@[simp] theorem setAlarm_itg_uncorrectable (bit : Nat) (on : Bool) (logged : Bool) (part : Nat) (reason : Nat) :
    (setAlarm bit on logged part reason s).itg.uncorrectable = s.itg.uncorrectable := by
  unfold setAlarm; split
  · rfl
  · simp only []; (repeat' split) <;> simp
@[simp] theorem setAlarm_itg_passes (bit : Nat) (on : Bool) (logged : Bool) (part : Nat) (reason : Nat) :
    (setAlarm bit on logged part reason s).itg.passes = s.itg.passes := by
  unfold setAlarm; split
  · rfl
  · simp only []; (repeat' split) <;> simp
@[simp] theorem setAlarm_itg_lastPass (bit : Nat) (on : Bool) (logged : Bool) (part : Nat) (reason : Nat) :
    (setAlarm bit on logged part reason s).itg.lastPass = s.itg.lastPass := by
  unfold setAlarm; split
  · rfl
  · simp only []; (repeat' split) <;> simp
@[simp] theorem setAlarm_itg_passFrom (bit : Nat) (on : Bool) (logged : Bool) (part : Nat) (reason : Nat) :
    (setAlarm bit on logged part reason s).itg.passFrom = s.itg.passFrom := by
  unfold setAlarm; split
  · rfl
  · simp only []; (repeat' split) <;> simp
@[simp] theorem setAlarm_itg_lastBad (bit : Nat) (on : Bool) (logged : Bool) (part : Nat) (reason : Nat) :
    (setAlarm bit on logged part reason s).itg.lastBad = s.itg.lastBad := by
  unfold setAlarm; split
  · rfl
  · simp only []; (repeat' split) <;> simp
@[simp] theorem setAlarm_itg_rows (bit : Nat) (on : Bool) (logged : Bool) (part : Nat) (reason : Nat) :
    (setAlarm bit on logged part reason s).itg.rows = s.itg.rows := by
  unfold setAlarm; split
  · rfl
  · simp only []; (repeat' split) <;> simp
@[simp] theorem setAlarm_itg_husks (bit : Nat) (on : Bool) (logged : Bool) (part : Nat) (reason : Nat) :
    (setAlarm bit on logged part reason s).itg.husks = s.itg.husks := by
  unfold setAlarm; split
  · rfl
  · simp only []; (repeat' split) <;> simp
@[simp] theorem setAlarm_itg_svRepeats (bit : Nat) (on : Bool) (logged : Bool) (part : Nat) (reason : Nat) :
    (setAlarm bit on logged part reason s).itg.svRepeats = s.itg.svRepeats := by
  unfold setAlarm; split
  · rfl
  · simp only []; (repeat' split) <;> simp
@[simp] theorem setAlarm_itg_svMissing (bit : Nat) (on : Bool) (logged : Bool) (part : Nat) (reason : Nat) :
    (setAlarm bit on logged part reason s).itg.svMissing = s.itg.svMissing := by
  unfold setAlarm; split
  · rfl
  · simp only []; (repeat' split) <;> simp
@[simp] theorem setAlarm_itg_svStale (bit : Nat) (on : Bool) (logged : Bool) (part : Nat) (reason : Nat) :
    (setAlarm bit on logged part reason s).itg.svStale = s.itg.svStale := by
  unfold setAlarm; split
  · rfl
  · simp only []; (repeat' split) <;> simp
@[simp] theorem setAlarm_itg_mismatches (bit : Nat) (on : Bool) (logged : Bool) (part : Nat) (reason : Nat) :
    (setAlarm bit on logged part reason s).itg.mismatches = s.itg.mismatches := by
  unfold setAlarm; split
  · rfl
  · simp only []; (repeat' split) <;> simp
@[simp] theorem setAlarm_itg_words (bit : Nat) (on : Bool) (logged : Bool) (part : Nat) (reason : Nat) :
    (setAlarm bit on logged part reason s).itg.words = s.itg.words := by
  unfold setAlarm; split
  · rfl
  · simp only []; (repeat' split) <;> simp
@[simp] theorem setAlarm_itg_rowCount (bit : Nat) (on : Bool) (logged : Bool) (part : Nat) (reason : Nat) :
    (setAlarm bit on logged part reason s).itg.rowCount = s.itg.rowCount := by
  unfold setAlarm; split
  · rfl
  · simp only []; (repeat' split) <;> simp
@[simp] theorem setAlarm_itg_rowsTold (bit : Nat) (on : Bool) (logged : Bool) (part : Nat) (reason : Nat) :
    (setAlarm bit on logged part reason s).itg.rowsTold = s.itg.rowsTold := by
  unfold setAlarm; split
  · rfl
  · simp only []; (repeat' split) <;> simp

@[simp] theorem deliver_pending (src : Requester) (port : Nat) (mb : Nat) (bytes : Bytes) : (deliver src port mb bytes s).pending = s.pending := by unfold deliver; split <;> simp
@[simp] theorem deliver_clk (src : Requester) (port : Nat) (mb : Nat) (bytes : Bytes) : (deliver src port mb bytes s).clk = s.clk := by unfold deliver; split <;> simp
@[simp] theorem deliver_hub (src : Requester) (port : Nat) (mb : Nat) (bytes : Bytes) : (deliver src port mb bytes s).hub = s.hub := by unfold deliver; split <;> simp
@[simp] theorem deliver_cfg (src : Requester) (port : Nat) (mb : Nat) (bytes : Bytes) : (deliver src port mb bytes s).cfg = s.cfg := by unfold deliver; split <;> simp
@[simp] theorem deliver_hed (src : Requester) (port : Nat) (mb : Nat) (bytes : Bytes) : (deliver src port mb bytes s).hed = s.hed := by unfold deliver; split <;> simp
@[simp] theorem deliver_conv (src : Requester) (port : Nat) (mb : Nat) (bytes : Bytes) : (deliver src port mb bytes s).conv = s.conv := by unfold deliver; split <;> simp
@[simp] theorem deliver_filt (src : Requester) (port : Nat) (mb : Nat) (bytes : Bytes) : (deliver src port mb bytes s).filt = s.filt := by unfold deliver; split <;> simp
@[simp] theorem deliver_warp (src : Requester) (port : Nat) (mb : Nat) (bytes : Bytes) : (deliver src port mb bytes s).warp = s.warp := by unfold deliver; split <;> simp
@[simp] theorem deliver_cal (src : Requester) (port : Nat) (mb : Nat) (bytes : Bytes) : (deliver src port mb bytes s).cal = s.cal := by unfold deliver; split <;> simp
@[simp] theorem deliver_trd (src : Requester) (port : Nat) (mb : Nat) (bytes : Bytes) : (deliver src port mb bytes s).trd = s.trd := by unfold deliver; split <;> simp
@[simp] theorem deliver_drv (src : Requester) (port : Nat) (mb : Nat) (bytes : Bytes) : (deliver src port mb bytes s).drv = s.drv := by unfold deliver; split <;> simp
@[simp] theorem deliver_win (src : Requester) (port : Nat) (mb : Nat) (bytes : Bytes) : (deliver src port mb bytes s).win = s.win := by unfold deliver; split <;> simp
@[simp] theorem deliver_pair (src : Requester) (port : Nat) (mb : Nat) (bytes : Bytes) : (deliver src port mb bytes s).pair = s.pair := by unfold deliver; split <;> simp
@[simp] theorem deliver_pow (src : Requester) (port : Nat) (mb : Nat) (bytes : Bytes) : (deliver src port mb bytes s).pow = s.pow := by unfold deliver; split <;> simp
@[simp] theorem deliver_wire (src : Requester) (port : Nat) (mb : Nat) (bytes : Bytes) : (deliver src port mb bytes s).wire = s.wire := by unfold deliver; split <;> simp
@[simp] theorem deliver_free (src : Requester) (port : Nat) (mb : Nat) (bytes : Bytes) : (deliver src port mb bytes s).free = s.free := by unfold deliver; split <;> simp
@[simp] theorem deliver_sh_taken (src : Requester) (port : Nat) (mb : Nat) (bytes : Bytes) : (deliver src port mb bytes s).sh.taken = s.sh.taken := by unfold deliver; split <;> simp
@[simp] theorem deliver_sh_lock (src : Requester) (port : Nat) (mb : Nat) (bytes : Bytes) : (deliver src port mb bytes s).sh.lock = s.sh.lock := by unfold deliver; split <;> simp
@[simp] theorem deliver_sh_work (src : Requester) (port : Nat) (mb : Nat) (bytes : Bytes) : (deliver src port mb bytes s).sh.work = s.sh.work := by unfold deliver; split <;> simp
@[simp] theorem deliver_sh_jobs (src : Requester) (port : Nat) (mb : Nat) (bytes : Bytes) : (deliver src port mb bytes s).sh.jobs = s.sh.jobs := by unfold deliver; split <;> simp
@[simp] theorem deliver_sh_lastJob (src : Requester) (port : Nat) (mb : Nat) (bytes : Bytes) : (deliver src port mb bytes s).sh.lastJob = s.sh.lastJob := by unfold deliver; split <;> simp
@[simp] theorem deliver_sh_log (src : Requester) (port : Nat) (mb : Nat) (bytes : Bytes) : (deliver src port mb bytes s).sh.log = s.sh.log := by unfold deliver; split <;> simp
@[simp] theorem deliver_sh_nextEvent (src : Requester) (port : Nat) (mb : Nat) (bytes : Bytes) : (deliver src port mb bytes s).sh.nextEvent = s.sh.nextEvent := by unfold deliver; split <;> simp
@[simp] theorem deliver_sh_counters (src : Requester) (port : Nat) (mb : Nat) (bytes : Bytes) : (deliver src port mb bytes s).sh.counters = s.sh.counters := by unfold deliver; split <;> simp
@[simp] theorem deliver_sh_alarms (src : Requester) (port : Nat) (mb : Nat) (bytes : Bytes) : (deliver src port mb bytes s).sh.alarms = s.sh.alarms := by unfold deliver; split <;> simp
@[simp] theorem deliver_weft_streams (src : Requester) (port : Nat) (mb : Nat) (bytes : Bytes) : (deliver src port mb bytes s).weft.streams = s.weft.streams := by unfold deliver; split <;> simp
@[simp] theorem deliver_weft_opened (src : Requester) (port : Nat) (mb : Nat) (bytes : Bytes) : (deliver src port mb bytes s).weft.opened = s.weft.opened := by unfold deliver; split <;> simp
@[simp] theorem deliver_weft_pool (src : Requester) (port : Nat) (mb : Nat) (bytes : Bytes) : (deliver src port mb bytes s).weft.pool = s.weft.pool := by unfold deliver; split <;> simp
@[simp] theorem deliver_weft_notices (src : Requester) (port : Nat) (mb : Nat) (bytes : Bytes) : (deliver src port mb bytes s).weft.notices = s.weft.notices := by unfold deliver; split <;> simp
@[simp] theorem deliver_weft_nextNotice (src : Requester) (port : Nat) (mb : Nat) (bytes : Bytes) : (deliver src port mb bytes s).weft.nextNotice = s.weft.nextNotice := by unfold deliver; split <;> simp
@[simp] theorem deliver_weft_highFill (src : Requester) (port : Nat) (mb : Nat) (bytes : Bytes) : (deliver src port mb bytes s).weft.highFill = s.weft.highFill := by unfold deliver; split <;> simp
@[simp] theorem deliver_weft_releases (src : Requester) (port : Nat) (mb : Nat) (bytes : Bytes) : (deliver src port mb bytes s).weft.releases = s.weft.releases := by unfold deliver; split <;> simp
@[simp] theorem deliver_weft_gapNotices (src : Requester) (port : Nat) (mb : Nat) (bytes : Bytes) : (deliver src port mb bytes s).weft.gapNotices = s.weft.gapNotices := by unfold deliver; split <;> simp
@[simp] theorem deliver_weft_lastRelease (src : Requester) (port : Nat) (mb : Nat) (bytes : Bytes) : (deliver src port mb bytes s).weft.lastRelease = s.weft.lastRelease := by unfold deliver; split <;> simp
@[simp] theorem deliver_itg_corrected (src : Requester) (port : Nat) (mb : Nat) (bytes : Bytes) : (deliver src port mb bytes s).itg.corrected = s.itg.corrected := by unfold deliver; split <;> simp
@[simp] theorem deliver_itg_uncorrectable (src : Requester) (port : Nat) (mb : Nat) (bytes : Bytes) : (deliver src port mb bytes s).itg.uncorrectable = s.itg.uncorrectable := by unfold deliver; split <;> simp
@[simp] theorem deliver_itg_passes (src : Requester) (port : Nat) (mb : Nat) (bytes : Bytes) : (deliver src port mb bytes s).itg.passes = s.itg.passes := by unfold deliver; split <;> simp
@[simp] theorem deliver_itg_lastPass (src : Requester) (port : Nat) (mb : Nat) (bytes : Bytes) : (deliver src port mb bytes s).itg.lastPass = s.itg.lastPass := by unfold deliver; split <;> simp
@[simp] theorem deliver_itg_passFrom (src : Requester) (port : Nat) (mb : Nat) (bytes : Bytes) : (deliver src port mb bytes s).itg.passFrom = s.itg.passFrom := by unfold deliver; split <;> simp
@[simp] theorem deliver_itg_lastBad (src : Requester) (port : Nat) (mb : Nat) (bytes : Bytes) : (deliver src port mb bytes s).itg.lastBad = s.itg.lastBad := by unfold deliver; split <;> simp
@[simp] theorem deliver_itg_rows (src : Requester) (port : Nat) (mb : Nat) (bytes : Bytes) : (deliver src port mb bytes s).itg.rows = s.itg.rows := by unfold deliver; split <;> simp
@[simp] theorem deliver_itg_husks (src : Requester) (port : Nat) (mb : Nat) (bytes : Bytes) : (deliver src port mb bytes s).itg.husks = s.itg.husks := by unfold deliver; split <;> simp
@[simp] theorem deliver_itg_svRepeats (src : Requester) (port : Nat) (mb : Nat) (bytes : Bytes) : (deliver src port mb bytes s).itg.svRepeats = s.itg.svRepeats := by unfold deliver; split <;> simp
@[simp] theorem deliver_itg_svMissing (src : Requester) (port : Nat) (mb : Nat) (bytes : Bytes) : (deliver src port mb bytes s).itg.svMissing = s.itg.svMissing := by unfold deliver; split <;> simp
@[simp] theorem deliver_itg_svStale (src : Requester) (port : Nat) (mb : Nat) (bytes : Bytes) : (deliver src port mb bytes s).itg.svStale = s.itg.svStale := by unfold deliver; split <;> simp
@[simp] theorem deliver_itg_mismatches (src : Requester) (port : Nat) (mb : Nat) (bytes : Bytes) : (deliver src port mb bytes s).itg.mismatches = s.itg.mismatches := by unfold deliver; split <;> simp
@[simp] theorem deliver_itg_words (src : Requester) (port : Nat) (mb : Nat) (bytes : Bytes) : (deliver src port mb bytes s).itg.words = s.itg.words := by unfold deliver; split <;> simp
@[simp] theorem deliver_itg_rowCount (src : Requester) (port : Nat) (mb : Nat) (bytes : Bytes) : (deliver src port mb bytes s).itg.rowCount = s.itg.rowCount := by unfold deliver; split <;> simp
@[simp] theorem deliver_itg_rowsTold (src : Requester) (port : Nat) (mb : Nat) (bytes : Bytes) : (deliver src port mb bytes s).itg.rowsTold = s.itg.rowsTold := by unfold deliver; split <;> simp
@[simp] theorem deliver_itg_crossings (src : Requester) (port : Nat) (mb : Nat) (bytes : Bytes) : (deliver src port mb bytes s).itg.crossings = s.itg.crossings := by unfold deliver; split <;> simp

@[simp] theorem answer_pending (rq : Req) (status : Nat) (reason : Nat) (payload : Bytes) : (answer rq status reason payload s).pending = s.pending := by simp [answer]
@[simp] theorem answer_clk (rq : Req) (status : Nat) (reason : Nat) (payload : Bytes) : (answer rq status reason payload s).clk = s.clk := by simp [answer]
@[simp] theorem answer_hub (rq : Req) (status : Nat) (reason : Nat) (payload : Bytes) : (answer rq status reason payload s).hub = s.hub := by simp [answer]
@[simp] theorem answer_cfg (rq : Req) (status : Nat) (reason : Nat) (payload : Bytes) : (answer rq status reason payload s).cfg = s.cfg := by simp [answer]
@[simp] theorem answer_hed (rq : Req) (status : Nat) (reason : Nat) (payload : Bytes) : (answer rq status reason payload s).hed = s.hed := by simp [answer]
@[simp] theorem answer_conv (rq : Req) (status : Nat) (reason : Nat) (payload : Bytes) : (answer rq status reason payload s).conv = s.conv := by simp [answer]
@[simp] theorem answer_filt (rq : Req) (status : Nat) (reason : Nat) (payload : Bytes) : (answer rq status reason payload s).filt = s.filt := by simp [answer]
@[simp] theorem answer_warp (rq : Req) (status : Nat) (reason : Nat) (payload : Bytes) : (answer rq status reason payload s).warp = s.warp := by simp [answer]
@[simp] theorem answer_cal (rq : Req) (status : Nat) (reason : Nat) (payload : Bytes) : (answer rq status reason payload s).cal = s.cal := by simp [answer]
@[simp] theorem answer_trd (rq : Req) (status : Nat) (reason : Nat) (payload : Bytes) : (answer rq status reason payload s).trd = s.trd := by simp [answer]
@[simp] theorem answer_drv (rq : Req) (status : Nat) (reason : Nat) (payload : Bytes) : (answer rq status reason payload s).drv = s.drv := by simp [answer]
@[simp] theorem answer_win (rq : Req) (status : Nat) (reason : Nat) (payload : Bytes) : (answer rq status reason payload s).win = s.win := by simp [answer]
@[simp] theorem answer_pair (rq : Req) (status : Nat) (reason : Nat) (payload : Bytes) : (answer rq status reason payload s).pair = s.pair := by simp [answer]
@[simp] theorem answer_pow (rq : Req) (status : Nat) (reason : Nat) (payload : Bytes) : (answer rq status reason payload s).pow = s.pow := by simp [answer]
@[simp] theorem answer_wire (rq : Req) (status : Nat) (reason : Nat) (payload : Bytes) : (answer rq status reason payload s).wire = s.wire := by simp [answer]
@[simp] theorem answer_free (rq : Req) (status : Nat) (reason : Nat) (payload : Bytes) : (answer rq status reason payload s).free = s.free := by simp [answer]
@[simp] theorem answer_sh_taken (rq : Req) (status : Nat) (reason : Nat) (payload : Bytes) : (answer rq status reason payload s).sh.taken = s.sh.taken := by simp [answer]
@[simp] theorem answer_sh_lock (rq : Req) (status : Nat) (reason : Nat) (payload : Bytes) : (answer rq status reason payload s).sh.lock = s.sh.lock := by simp [answer]
@[simp] theorem answer_sh_work (rq : Req) (status : Nat) (reason : Nat) (payload : Bytes) : (answer rq status reason payload s).sh.work = s.sh.work := by simp [answer]
@[simp] theorem answer_sh_jobs (rq : Req) (status : Nat) (reason : Nat) (payload : Bytes) : (answer rq status reason payload s).sh.jobs = s.sh.jobs := by simp [answer]
@[simp] theorem answer_sh_lastJob (rq : Req) (status : Nat) (reason : Nat) (payload : Bytes) : (answer rq status reason payload s).sh.lastJob = s.sh.lastJob := by simp [answer]
@[simp] theorem answer_sh_log (rq : Req) (status : Nat) (reason : Nat) (payload : Bytes) : (answer rq status reason payload s).sh.log = s.sh.log := by simp [answer]
@[simp] theorem answer_sh_nextEvent (rq : Req) (status : Nat) (reason : Nat) (payload : Bytes) : (answer rq status reason payload s).sh.nextEvent = s.sh.nextEvent := by simp [answer]
@[simp] theorem answer_sh_counters (rq : Req) (status : Nat) (reason : Nat) (payload : Bytes) : (answer rq status reason payload s).sh.counters = s.sh.counters := by simp [answer]
@[simp] theorem answer_sh_alarms (rq : Req) (status : Nat) (reason : Nat) (payload : Bytes) : (answer rq status reason payload s).sh.alarms = s.sh.alarms := by simp [answer]
@[simp] theorem answer_weft_streams (rq : Req) (status : Nat) (reason : Nat) (payload : Bytes) : (answer rq status reason payload s).weft.streams = s.weft.streams := by simp [answer]
@[simp] theorem answer_weft_opened (rq : Req) (status : Nat) (reason : Nat) (payload : Bytes) : (answer rq status reason payload s).weft.opened = s.weft.opened := by simp [answer]
@[simp] theorem answer_weft_pool (rq : Req) (status : Nat) (reason : Nat) (payload : Bytes) : (answer rq status reason payload s).weft.pool = s.weft.pool := by simp [answer]
@[simp] theorem answer_weft_notices (rq : Req) (status : Nat) (reason : Nat) (payload : Bytes) : (answer rq status reason payload s).weft.notices = s.weft.notices := by simp [answer]
@[simp] theorem answer_weft_nextNotice (rq : Req) (status : Nat) (reason : Nat) (payload : Bytes) : (answer rq status reason payload s).weft.nextNotice = s.weft.nextNotice := by simp [answer]
@[simp] theorem answer_weft_highFill (rq : Req) (status : Nat) (reason : Nat) (payload : Bytes) : (answer rq status reason payload s).weft.highFill = s.weft.highFill := by simp [answer]
@[simp] theorem answer_weft_releases (rq : Req) (status : Nat) (reason : Nat) (payload : Bytes) : (answer rq status reason payload s).weft.releases = s.weft.releases := by simp [answer]
@[simp] theorem answer_weft_gapNotices (rq : Req) (status : Nat) (reason : Nat) (payload : Bytes) : (answer rq status reason payload s).weft.gapNotices = s.weft.gapNotices := by simp [answer]
@[simp] theorem answer_weft_lastRelease (rq : Req) (status : Nat) (reason : Nat) (payload : Bytes) : (answer rq status reason payload s).weft.lastRelease = s.weft.lastRelease := by simp [answer]
@[simp] theorem answer_itg_corrected (rq : Req) (status : Nat) (reason : Nat) (payload : Bytes) : (answer rq status reason payload s).itg.corrected = s.itg.corrected := by simp [answer]
@[simp] theorem answer_itg_uncorrectable (rq : Req) (status : Nat) (reason : Nat) (payload : Bytes) : (answer rq status reason payload s).itg.uncorrectable = s.itg.uncorrectable := by simp [answer]
@[simp] theorem answer_itg_passes (rq : Req) (status : Nat) (reason : Nat) (payload : Bytes) : (answer rq status reason payload s).itg.passes = s.itg.passes := by simp [answer]
@[simp] theorem answer_itg_lastPass (rq : Req) (status : Nat) (reason : Nat) (payload : Bytes) : (answer rq status reason payload s).itg.lastPass = s.itg.lastPass := by simp [answer]
@[simp] theorem answer_itg_passFrom (rq : Req) (status : Nat) (reason : Nat) (payload : Bytes) : (answer rq status reason payload s).itg.passFrom = s.itg.passFrom := by simp [answer]
@[simp] theorem answer_itg_lastBad (rq : Req) (status : Nat) (reason : Nat) (payload : Bytes) : (answer rq status reason payload s).itg.lastBad = s.itg.lastBad := by simp [answer]
@[simp] theorem answer_itg_rows (rq : Req) (status : Nat) (reason : Nat) (payload : Bytes) : (answer rq status reason payload s).itg.rows = s.itg.rows := by simp [answer]
@[simp] theorem answer_itg_husks (rq : Req) (status : Nat) (reason : Nat) (payload : Bytes) : (answer rq status reason payload s).itg.husks = s.itg.husks := by simp [answer]
@[simp] theorem answer_itg_svRepeats (rq : Req) (status : Nat) (reason : Nat) (payload : Bytes) : (answer rq status reason payload s).itg.svRepeats = s.itg.svRepeats := by simp [answer]
@[simp] theorem answer_itg_svMissing (rq : Req) (status : Nat) (reason : Nat) (payload : Bytes) : (answer rq status reason payload s).itg.svMissing = s.itg.svMissing := by simp [answer]
@[simp] theorem answer_itg_svStale (rq : Req) (status : Nat) (reason : Nat) (payload : Bytes) : (answer rq status reason payload s).itg.svStale = s.itg.svStale := by simp [answer]
@[simp] theorem answer_itg_mismatches (rq : Req) (status : Nat) (reason : Nat) (payload : Bytes) : (answer rq status reason payload s).itg.mismatches = s.itg.mismatches := by simp [answer]
@[simp] theorem answer_itg_words (rq : Req) (status : Nat) (reason : Nat) (payload : Bytes) : (answer rq status reason payload s).itg.words = s.itg.words := by simp [answer]
@[simp] theorem answer_itg_rowCount (rq : Req) (status : Nat) (reason : Nat) (payload : Bytes) : (answer rq status reason payload s).itg.rowCount = s.itg.rowCount := by simp [answer]
@[simp] theorem answer_itg_rowsTold (rq : Req) (status : Nat) (reason : Nat) (payload : Bytes) : (answer rq status reason payload s).itg.rowsTold = s.itg.rowsTold := by simp [answer]
@[simp] theorem answer_itg_crossings (rq : Req) (status : Nat) (reason : Nat) (payload : Bytes) : (answer rq status reason payload s).itg.crossings = s.itg.crossings := by simp [answer]

@[simp] theorem finish_pending (rq : Req) (status : Nat) (reason : Nat) (payload : Bytes) : (finish rq status reason payload s).pending = s.pending := by simp [finish]
@[simp] theorem finish_clk (rq : Req) (status : Nat) (reason : Nat) (payload : Bytes) : (finish rq status reason payload s).clk = s.clk := by simp [finish]
@[simp] theorem finish_hub (rq : Req) (status : Nat) (reason : Nat) (payload : Bytes) : (finish rq status reason payload s).hub = s.hub := by simp [finish]
@[simp] theorem finish_cfg (rq : Req) (status : Nat) (reason : Nat) (payload : Bytes) : (finish rq status reason payload s).cfg = s.cfg := by simp [finish]
@[simp] theorem finish_hed (rq : Req) (status : Nat) (reason : Nat) (payload : Bytes) : (finish rq status reason payload s).hed = s.hed := by simp [finish]
@[simp] theorem finish_conv (rq : Req) (status : Nat) (reason : Nat) (payload : Bytes) : (finish rq status reason payload s).conv = s.conv := by simp [finish]
@[simp] theorem finish_filt (rq : Req) (status : Nat) (reason : Nat) (payload : Bytes) : (finish rq status reason payload s).filt = s.filt := by simp [finish]
@[simp] theorem finish_warp (rq : Req) (status : Nat) (reason : Nat) (payload : Bytes) : (finish rq status reason payload s).warp = s.warp := by simp [finish]
@[simp] theorem finish_cal (rq : Req) (status : Nat) (reason : Nat) (payload : Bytes) : (finish rq status reason payload s).cal = s.cal := by simp [finish]
@[simp] theorem finish_trd (rq : Req) (status : Nat) (reason : Nat) (payload : Bytes) : (finish rq status reason payload s).trd = s.trd := by simp [finish]
@[simp] theorem finish_drv (rq : Req) (status : Nat) (reason : Nat) (payload : Bytes) : (finish rq status reason payload s).drv = s.drv := by simp [finish]
@[simp] theorem finish_win (rq : Req) (status : Nat) (reason : Nat) (payload : Bytes) : (finish rq status reason payload s).win = s.win := by simp [finish]
@[simp] theorem finish_pair (rq : Req) (status : Nat) (reason : Nat) (payload : Bytes) : (finish rq status reason payload s).pair = s.pair := by simp [finish]
@[simp] theorem finish_pow (rq : Req) (status : Nat) (reason : Nat) (payload : Bytes) : (finish rq status reason payload s).pow = s.pow := by simp [finish]
@[simp] theorem finish_wire (rq : Req) (status : Nat) (reason : Nat) (payload : Bytes) : (finish rq status reason payload s).wire = s.wire := by simp [finish]
@[simp] theorem finish_free (rq : Req) (status : Nat) (reason : Nat) (payload : Bytes) : (finish rq status reason payload s).free = s.free := by simp [finish]
@[simp] theorem finish_sh_taken (rq : Req) (status : Nat) (reason : Nat) (payload : Bytes) : (finish rq status reason payload s).sh.taken = s.sh.taken := by simp [finish]
@[simp] theorem finish_sh_lock (rq : Req) (status : Nat) (reason : Nat) (payload : Bytes) : (finish rq status reason payload s).sh.lock = s.sh.lock := by simp [finish]
@[simp] theorem finish_sh_work (rq : Req) (status : Nat) (reason : Nat) (payload : Bytes) : (finish rq status reason payload s).sh.work = s.sh.work := by simp [finish]
@[simp] theorem finish_sh_jobs (rq : Req) (status : Nat) (reason : Nat) (payload : Bytes) : (finish rq status reason payload s).sh.jobs = s.sh.jobs := by simp [finish]
@[simp] theorem finish_sh_lastJob (rq : Req) (status : Nat) (reason : Nat) (payload : Bytes) : (finish rq status reason payload s).sh.lastJob = s.sh.lastJob := by simp [finish]
@[simp] theorem finish_sh_log (rq : Req) (status : Nat) (reason : Nat) (payload : Bytes) : (finish rq status reason payload s).sh.log = s.sh.log := by simp [finish]
@[simp] theorem finish_sh_nextEvent (rq : Req) (status : Nat) (reason : Nat) (payload : Bytes) : (finish rq status reason payload s).sh.nextEvent = s.sh.nextEvent := by simp [finish]
@[simp] theorem finish_sh_counters (rq : Req) (status : Nat) (reason : Nat) (payload : Bytes) : (finish rq status reason payload s).sh.counters = s.sh.counters := by simp [finish]
@[simp] theorem finish_sh_alarms (rq : Req) (status : Nat) (reason : Nat) (payload : Bytes) : (finish rq status reason payload s).sh.alarms = s.sh.alarms := by simp [finish]
@[simp] theorem finish_weft_streams (rq : Req) (status : Nat) (reason : Nat) (payload : Bytes) : (finish rq status reason payload s).weft.streams = s.weft.streams := by simp [finish]
@[simp] theorem finish_weft_opened (rq : Req) (status : Nat) (reason : Nat) (payload : Bytes) : (finish rq status reason payload s).weft.opened = s.weft.opened := by simp [finish]
@[simp] theorem finish_weft_pool (rq : Req) (status : Nat) (reason : Nat) (payload : Bytes) : (finish rq status reason payload s).weft.pool = s.weft.pool := by simp [finish]
@[simp] theorem finish_weft_notices (rq : Req) (status : Nat) (reason : Nat) (payload : Bytes) : (finish rq status reason payload s).weft.notices = s.weft.notices := by simp [finish]
@[simp] theorem finish_weft_nextNotice (rq : Req) (status : Nat) (reason : Nat) (payload : Bytes) : (finish rq status reason payload s).weft.nextNotice = s.weft.nextNotice := by simp [finish]
@[simp] theorem finish_weft_highFill (rq : Req) (status : Nat) (reason : Nat) (payload : Bytes) : (finish rq status reason payload s).weft.highFill = s.weft.highFill := by simp [finish]
@[simp] theorem finish_weft_releases (rq : Req) (status : Nat) (reason : Nat) (payload : Bytes) : (finish rq status reason payload s).weft.releases = s.weft.releases := by simp [finish]
@[simp] theorem finish_weft_gapNotices (rq : Req) (status : Nat) (reason : Nat) (payload : Bytes) : (finish rq status reason payload s).weft.gapNotices = s.weft.gapNotices := by simp [finish]
@[simp] theorem finish_weft_lastRelease (rq : Req) (status : Nat) (reason : Nat) (payload : Bytes) : (finish rq status reason payload s).weft.lastRelease = s.weft.lastRelease := by simp [finish]
@[simp] theorem finish_itg_corrected (rq : Req) (status : Nat) (reason : Nat) (payload : Bytes) : (finish rq status reason payload s).itg.corrected = s.itg.corrected := by simp [finish]
@[simp] theorem finish_itg_uncorrectable (rq : Req) (status : Nat) (reason : Nat) (payload : Bytes) : (finish rq status reason payload s).itg.uncorrectable = s.itg.uncorrectable := by simp [finish]
@[simp] theorem finish_itg_passes (rq : Req) (status : Nat) (reason : Nat) (payload : Bytes) : (finish rq status reason payload s).itg.passes = s.itg.passes := by simp [finish]
@[simp] theorem finish_itg_lastPass (rq : Req) (status : Nat) (reason : Nat) (payload : Bytes) : (finish rq status reason payload s).itg.lastPass = s.itg.lastPass := by simp [finish]
@[simp] theorem finish_itg_passFrom (rq : Req) (status : Nat) (reason : Nat) (payload : Bytes) : (finish rq status reason payload s).itg.passFrom = s.itg.passFrom := by simp [finish]
@[simp] theorem finish_itg_lastBad (rq : Req) (status : Nat) (reason : Nat) (payload : Bytes) : (finish rq status reason payload s).itg.lastBad = s.itg.lastBad := by simp [finish]
@[simp] theorem finish_itg_rows (rq : Req) (status : Nat) (reason : Nat) (payload : Bytes) : (finish rq status reason payload s).itg.rows = s.itg.rows := by simp [finish]
@[simp] theorem finish_itg_husks (rq : Req) (status : Nat) (reason : Nat) (payload : Bytes) : (finish rq status reason payload s).itg.husks = s.itg.husks := by simp [finish]
@[simp] theorem finish_itg_svRepeats (rq : Req) (status : Nat) (reason : Nat) (payload : Bytes) : (finish rq status reason payload s).itg.svRepeats = s.itg.svRepeats := by simp [finish]
@[simp] theorem finish_itg_svMissing (rq : Req) (status : Nat) (reason : Nat) (payload : Bytes) : (finish rq status reason payload s).itg.svMissing = s.itg.svMissing := by simp [finish]
@[simp] theorem finish_itg_svStale (rq : Req) (status : Nat) (reason : Nat) (payload : Bytes) : (finish rq status reason payload s).itg.svStale = s.itg.svStale := by simp [finish]
@[simp] theorem finish_itg_mismatches (rq : Req) (status : Nat) (reason : Nat) (payload : Bytes) : (finish rq status reason payload s).itg.mismatches = s.itg.mismatches := by simp [finish]
@[simp] theorem finish_itg_words (rq : Req) (status : Nat) (reason : Nat) (payload : Bytes) : (finish rq status reason payload s).itg.words = s.itg.words := by simp [finish]
@[simp] theorem finish_itg_rowCount (rq : Req) (status : Nat) (reason : Nat) (payload : Bytes) : (finish rq status reason payload s).itg.rowCount = s.itg.rowCount := by simp [finish]
@[simp] theorem finish_itg_rowsTold (rq : Req) (status : Nat) (reason : Nat) (payload : Bytes) : (finish rq status reason payload s).itg.rowsTold = s.itg.rowsTold := by simp [finish]
@[simp] theorem finish_itg_crossings (rq : Req) (status : Nat) (reason : Nat) (payload : Bytes) : (finish rq status reason payload s).itg.crossings = s.itg.crossings := by simp [finish]

@[simp] theorem takeReq_pending (rq : Req) : (takeReq rq s).pending = s.pending := by unfold takeReq; split <;> simp
@[simp] theorem takeReq_clk (rq : Req) : (takeReq rq s).clk = s.clk := by unfold takeReq; split <;> simp
@[simp] theorem takeReq_hub (rq : Req) : (takeReq rq s).hub = s.hub := by unfold takeReq; split <;> simp
@[simp] theorem takeReq_cfg (rq : Req) : (takeReq rq s).cfg = s.cfg := by unfold takeReq; split <;> simp
@[simp] theorem takeReq_hed (rq : Req) : (takeReq rq s).hed = s.hed := by unfold takeReq; split <;> simp
@[simp] theorem takeReq_conv (rq : Req) : (takeReq rq s).conv = s.conv := by unfold takeReq; split <;> simp
@[simp] theorem takeReq_filt (rq : Req) : (takeReq rq s).filt = s.filt := by unfold takeReq; split <;> simp
@[simp] theorem takeReq_warp (rq : Req) : (takeReq rq s).warp = s.warp := by unfold takeReq; split <;> simp
@[simp] theorem takeReq_cal (rq : Req) : (takeReq rq s).cal = s.cal := by unfold takeReq; split <;> simp
@[simp] theorem takeReq_trd (rq : Req) : (takeReq rq s).trd = s.trd := by unfold takeReq; split <;> simp
@[simp] theorem takeReq_drv (rq : Req) : (takeReq rq s).drv = s.drv := by unfold takeReq; split <;> simp
@[simp] theorem takeReq_weft (rq : Req) : (takeReq rq s).weft = s.weft := by unfold takeReq; split <;> simp
@[simp] theorem takeReq_win (rq : Req) : (takeReq rq s).win = s.win := by unfold takeReq; split <;> simp
@[simp] theorem takeReq_itg (rq : Req) : (takeReq rq s).itg = s.itg := by unfold takeReq; split <;> simp
@[simp] theorem takeReq_pair (rq : Req) : (takeReq rq s).pair = s.pair := by unfold takeReq; split <;> simp
@[simp] theorem takeReq_pow (rq : Req) : (takeReq rq s).pow = s.pow := by unfold takeReq; split <;> simp
@[simp] theorem takeReq_wire (rq : Req) : (takeReq rq s).wire = s.wire := by unfold takeReq; split <;> simp
@[simp] theorem takeReq_free (rq : Req) : (takeReq rq s).free = s.free := by unfold takeReq; split <;> simp
@[simp] theorem takeReq_sh_taken (rq : Req) : (takeReq rq s).sh.taken = s.sh.taken := by unfold takeReq; split <;> simp
@[simp] theorem takeReq_sh_lock (rq : Req) : (takeReq rq s).sh.lock = s.sh.lock := by unfold takeReq; split <;> simp
@[simp] theorem takeReq_sh_work (rq : Req) : (takeReq rq s).sh.work = s.sh.work := by unfold takeReq; split <;> simp
@[simp] theorem takeReq_sh_jobs (rq : Req) : (takeReq rq s).sh.jobs = s.sh.jobs := by unfold takeReq; split <;> simp
@[simp] theorem takeReq_sh_lastJob (rq : Req) : (takeReq rq s).sh.lastJob = s.sh.lastJob := by unfold takeReq; split <;> simp
@[simp] theorem takeReq_sh_log (rq : Req) : (takeReq rq s).sh.log = s.sh.log := by unfold takeReq; split <;> simp
@[simp] theorem takeReq_sh_nextEvent (rq : Req) : (takeReq rq s).sh.nextEvent = s.sh.nextEvent := by unfold takeReq; split <;> simp
@[simp] theorem takeReq_sh_counters (rq : Req) : (takeReq rq s).sh.counters = s.sh.counters := by unfold takeReq; split <;> simp
@[simp] theorem takeReq_sh_alarms (rq : Req) : (takeReq rq s).sh.alarms = s.sh.alarms := by unfold takeReq; split <;> simp

@[simp] theorem reply_pending (rq : Req) (r : Reply) : (reply rq r s).pending = s.pending := by unfold reply; split <;> simp
@[simp] theorem reply_clk (rq : Req) (r : Reply) : (reply rq r s).clk = s.clk := by unfold reply; split <;> simp
@[simp] theorem reply_hub (rq : Req) (r : Reply) : (reply rq r s).hub = s.hub := by unfold reply; split <;> simp
@[simp] theorem reply_cfg (rq : Req) (r : Reply) : (reply rq r s).cfg = s.cfg := by unfold reply; split <;> simp
@[simp] theorem reply_hed (rq : Req) (r : Reply) : (reply rq r s).hed = s.hed := by unfold reply; split <;> simp
@[simp] theorem reply_conv (rq : Req) (r : Reply) : (reply rq r s).conv = s.conv := by unfold reply; split <;> simp
@[simp] theorem reply_filt (rq : Req) (r : Reply) : (reply rq r s).filt = s.filt := by unfold reply; split <;> simp
@[simp] theorem reply_warp (rq : Req) (r : Reply) : (reply rq r s).warp = s.warp := by unfold reply; split <;> simp
@[simp] theorem reply_cal (rq : Req) (r : Reply) : (reply rq r s).cal = s.cal := by unfold reply; split <;> simp
@[simp] theorem reply_trd (rq : Req) (r : Reply) : (reply rq r s).trd = s.trd := by unfold reply; split <;> simp
@[simp] theorem reply_drv (rq : Req) (r : Reply) : (reply rq r s).drv = s.drv := by unfold reply; split <;> simp
@[simp] theorem reply_win (rq : Req) (r : Reply) : (reply rq r s).win = s.win := by unfold reply; split <;> simp
@[simp] theorem reply_pair (rq : Req) (r : Reply) : (reply rq r s).pair = s.pair := by unfold reply; split <;> simp
@[simp] theorem reply_pow (rq : Req) (r : Reply) : (reply rq r s).pow = s.pow := by unfold reply; split <;> simp
@[simp] theorem reply_wire (rq : Req) (r : Reply) : (reply rq r s).wire = s.wire := by unfold reply; split <;> simp
@[simp] theorem reply_free (rq : Req) (r : Reply) : (reply rq r s).free = s.free := by unfold reply; split <;> simp
@[simp] theorem reply_sh_taken (rq : Req) (r : Reply) : (reply rq r s).sh.taken = s.sh.taken := by unfold reply; split <;> simp
@[simp] theorem reply_sh_lock (rq : Req) (r : Reply) : (reply rq r s).sh.lock = s.sh.lock := by unfold reply; split <;> simp
@[simp] theorem reply_sh_work (rq : Req) (r : Reply) : (reply rq r s).sh.work = s.sh.work := by unfold reply; split <;> simp
@[simp] theorem reply_sh_jobs (rq : Req) (r : Reply) : (reply rq r s).sh.jobs = s.sh.jobs := by unfold reply; split <;> simp
@[simp] theorem reply_sh_lastJob (rq : Req) (r : Reply) : (reply rq r s).sh.lastJob = s.sh.lastJob := by unfold reply; split <;> simp
@[simp] theorem reply_sh_counters (rq : Req) (r : Reply) : (reply rq r s).sh.counters = s.sh.counters := by unfold reply; split <;> simp
@[simp] theorem reply_sh_alarms (rq : Req) (r : Reply) : (reply rq r s).sh.alarms = s.sh.alarms := by unfold reply; split <;> simp
@[simp] theorem reply_weft_streams (rq : Req) (r : Reply) : (reply rq r s).weft.streams = s.weft.streams := by unfold reply; split <;> simp
@[simp] theorem reply_weft_opened (rq : Req) (r : Reply) : (reply rq r s).weft.opened = s.weft.opened := by unfold reply; split <;> simp
@[simp] theorem reply_weft_pool (rq : Req) (r : Reply) : (reply rq r s).weft.pool = s.weft.pool := by unfold reply; split <;> simp
@[simp] theorem reply_weft_notices (rq : Req) (r : Reply) : (reply rq r s).weft.notices = s.weft.notices := by unfold reply; split <;> simp
@[simp] theorem reply_weft_nextNotice (rq : Req) (r : Reply) : (reply rq r s).weft.nextNotice = s.weft.nextNotice := by unfold reply; split <;> simp
@[simp] theorem reply_weft_highFill (rq : Req) (r : Reply) : (reply rq r s).weft.highFill = s.weft.highFill := by unfold reply; split <;> simp
@[simp] theorem reply_weft_releases (rq : Req) (r : Reply) : (reply rq r s).weft.releases = s.weft.releases := by unfold reply; split <;> simp
@[simp] theorem reply_weft_gapNotices (rq : Req) (r : Reply) : (reply rq r s).weft.gapNotices = s.weft.gapNotices := by unfold reply; split <;> simp
@[simp] theorem reply_weft_lastRelease (rq : Req) (r : Reply) : (reply rq r s).weft.lastRelease = s.weft.lastRelease := by unfold reply; split <;> simp
@[simp] theorem reply_itg_corrected (rq : Req) (r : Reply) : (reply rq r s).itg.corrected = s.itg.corrected := by unfold reply; split <;> simp
@[simp] theorem reply_itg_uncorrectable (rq : Req) (r : Reply) : (reply rq r s).itg.uncorrectable = s.itg.uncorrectable := by unfold reply; split <;> simp
@[simp] theorem reply_itg_passes (rq : Req) (r : Reply) : (reply rq r s).itg.passes = s.itg.passes := by unfold reply; split <;> simp
@[simp] theorem reply_itg_lastPass (rq : Req) (r : Reply) : (reply rq r s).itg.lastPass = s.itg.lastPass := by unfold reply; split <;> simp
@[simp] theorem reply_itg_passFrom (rq : Req) (r : Reply) : (reply rq r s).itg.passFrom = s.itg.passFrom := by unfold reply; split <;> simp
@[simp] theorem reply_itg_lastBad (rq : Req) (r : Reply) : (reply rq r s).itg.lastBad = s.itg.lastBad := by unfold reply; split <;> simp
@[simp] theorem reply_itg_rows (rq : Req) (r : Reply) : (reply rq r s).itg.rows = s.itg.rows := by unfold reply; split <;> simp
@[simp] theorem reply_itg_husks (rq : Req) (r : Reply) : (reply rq r s).itg.husks = s.itg.husks := by unfold reply; split <;> simp
@[simp] theorem reply_itg_svRepeats (rq : Req) (r : Reply) : (reply rq r s).itg.svRepeats = s.itg.svRepeats := by unfold reply; split <;> simp
@[simp] theorem reply_itg_svMissing (rq : Req) (r : Reply) : (reply rq r s).itg.svMissing = s.itg.svMissing := by unfold reply; split <;> simp
@[simp] theorem reply_itg_svStale (rq : Req) (r : Reply) : (reply rq r s).itg.svStale = s.itg.svStale := by unfold reply; split <;> simp
@[simp] theorem reply_itg_mismatches (rq : Req) (r : Reply) : (reply rq r s).itg.mismatches = s.itg.mismatches := by unfold reply; split <;> simp
@[simp] theorem reply_itg_words (rq : Req) (r : Reply) : (reply rq r s).itg.words = s.itg.words := by unfold reply; split <;> simp
@[simp] theorem reply_itg_rowCount (rq : Req) (r : Reply) : (reply rq r s).itg.rowCount = s.itg.rowCount := by unfold reply; split <;> simp
@[simp] theorem reply_itg_rowsTold (rq : Req) (r : Reply) : (reply rq r s).itg.rowsTold = s.itg.rowsTold := by unfold reply; split <;> simp
@[simp] theorem reply_itg_crossings (rq : Req) (r : Reply) : (reply rq r s).itg.crossings = s.itg.crossings := by unfold reply; split <;> simp

@[simp] theorem endJob_pending (id : Nat) (st : Nat) (reason : Nat) (result : Bytes) (wfault : Nat) :
    (endJob id st reason result wfault s).pending = s.pending := by unfold endJob; simp only []; split <;> simp
@[simp] theorem endJob_clk (id : Nat) (st : Nat) (reason : Nat) (result : Bytes) (wfault : Nat) :
    (endJob id st reason result wfault s).clk = s.clk := by unfold endJob; simp only []; split <;> simp
@[simp] theorem endJob_hub (id : Nat) (st : Nat) (reason : Nat) (result : Bytes) (wfault : Nat) :
    (endJob id st reason result wfault s).hub = s.hub := by unfold endJob; simp only []; split <;> simp
@[simp] theorem endJob_cfg (id : Nat) (st : Nat) (reason : Nat) (result : Bytes) (wfault : Nat) :
    (endJob id st reason result wfault s).cfg = s.cfg := by unfold endJob; simp only []; split <;> simp
@[simp] theorem endJob_hed (id : Nat) (st : Nat) (reason : Nat) (result : Bytes) (wfault : Nat) :
    (endJob id st reason result wfault s).hed = s.hed := by unfold endJob; simp only []; split <;> simp
@[simp] theorem endJob_conv (id : Nat) (st : Nat) (reason : Nat) (result : Bytes) (wfault : Nat) :
    (endJob id st reason result wfault s).conv = s.conv := by unfold endJob; simp only []; split <;> simp
@[simp] theorem endJob_filt (id : Nat) (st : Nat) (reason : Nat) (result : Bytes) (wfault : Nat) :
    (endJob id st reason result wfault s).filt = s.filt := by unfold endJob; simp only []; split <;> simp
@[simp] theorem endJob_warp (id : Nat) (st : Nat) (reason : Nat) (result : Bytes) (wfault : Nat) :
    (endJob id st reason result wfault s).warp = s.warp := by unfold endJob; simp only []; split <;> simp
@[simp] theorem endJob_cal (id : Nat) (st : Nat) (reason : Nat) (result : Bytes) (wfault : Nat) :
    (endJob id st reason result wfault s).cal = s.cal := by unfold endJob; simp only []; split <;> simp
@[simp] theorem endJob_trd (id : Nat) (st : Nat) (reason : Nat) (result : Bytes) (wfault : Nat) :
    (endJob id st reason result wfault s).trd = s.trd := by unfold endJob; simp only []; split <;> simp
@[simp] theorem endJob_drv (id : Nat) (st : Nat) (reason : Nat) (result : Bytes) (wfault : Nat) :
    (endJob id st reason result wfault s).drv = s.drv := by unfold endJob; simp only []; split <;> simp
@[simp] theorem endJob_weft (id : Nat) (st : Nat) (reason : Nat) (result : Bytes) (wfault : Nat) :
    (endJob id st reason result wfault s).weft = s.weft := by unfold endJob; simp only []; split <;> simp
@[simp] theorem endJob_win (id : Nat) (st : Nat) (reason : Nat) (result : Bytes) (wfault : Nat) :
    (endJob id st reason result wfault s).win = s.win := by unfold endJob; simp only []; split <;> simp
@[simp] theorem endJob_pair (id : Nat) (st : Nat) (reason : Nat) (result : Bytes) (wfault : Nat) :
    (endJob id st reason result wfault s).pair = s.pair := by unfold endJob; simp only []; split <;> simp
@[simp] theorem endJob_pow (id : Nat) (st : Nat) (reason : Nat) (result : Bytes) (wfault : Nat) :
    (endJob id st reason result wfault s).pow = s.pow := by unfold endJob; simp only []; split <;> simp
@[simp] theorem endJob_wire (id : Nat) (st : Nat) (reason : Nat) (result : Bytes) (wfault : Nat) :
    (endJob id st reason result wfault s).wire = s.wire := by unfold endJob; simp only []; split <;> simp
@[simp] theorem endJob_free (id : Nat) (st : Nat) (reason : Nat) (result : Bytes) (wfault : Nat) :
    (endJob id st reason result wfault s).free = s.free := by unfold endJob; simp only []; split <;> simp
@[simp] theorem endJob_sh_mail (id : Nat) (st : Nat) (reason : Nat) (result : Bytes) (wfault : Nat) :
    (endJob id st reason result wfault s).sh.mail = s.sh.mail := by unfold endJob; simp only []; split <;> simp
@[simp] theorem endJob_sh_taken (id : Nat) (st : Nat) (reason : Nat) (result : Bytes) (wfault : Nat) :
    (endJob id st reason result wfault s).sh.taken = s.sh.taken := by unfold endJob; simp only []; split <;> simp
@[simp] theorem endJob_sh_lock (id : Nat) (st : Nat) (reason : Nat) (result : Bytes) (wfault : Nat) :
    (endJob id st reason result wfault s).sh.lock = s.sh.lock := by unfold endJob; simp only []; split <;> simp
@[simp] theorem endJob_sh_work (id : Nat) (st : Nat) (reason : Nat) (result : Bytes) (wfault : Nat) :
    (endJob id st reason result wfault s).sh.work = s.sh.work := by unfold endJob; simp only []; split <;> simp
@[simp] theorem endJob_sh_lastJob (id : Nat) (st : Nat) (reason : Nat) (result : Bytes) (wfault : Nat) :
    (endJob id st reason result wfault s).sh.lastJob = s.sh.lastJob := by unfold endJob; simp only []; split <;> simp
@[simp] theorem endJob_sh_counters (id : Nat) (st : Nat) (reason : Nat) (result : Bytes) (wfault : Nat) :
    (endJob id st reason result wfault s).sh.counters = s.sh.counters := by unfold endJob; simp only []; split <;> simp
@[simp] theorem endJob_sh_alarms (id : Nat) (st : Nat) (reason : Nat) (result : Bytes) (wfault : Nat) :
    (endJob id st reason result wfault s).sh.alarms = s.sh.alarms := by unfold endJob; simp only []; split <;> simp
@[simp] theorem endJob_sh_nIrqLow (id : Nat) (st : Nat) (reason : Nat) (result : Bytes) (wfault : Nat) :
    (endJob id st reason result wfault s).sh.nIrqLow = s.sh.nIrqLow := by unfold endJob; simp only []; split <;> simp
@[simp] theorem endJob_itg_corrected (id : Nat) (st : Nat) (reason : Nat) (result : Bytes) (wfault : Nat) :
    (endJob id st reason result wfault s).itg.corrected = s.itg.corrected := by unfold endJob; simp only []; split <;> simp
@[simp] theorem endJob_itg_uncorrectable (id : Nat) (st : Nat) (reason : Nat) (result : Bytes) (wfault : Nat) :
    (endJob id st reason result wfault s).itg.uncorrectable = s.itg.uncorrectable := by unfold endJob; simp only []; split <;> simp
@[simp] theorem endJob_itg_passes (id : Nat) (st : Nat) (reason : Nat) (result : Bytes) (wfault : Nat) :
    (endJob id st reason result wfault s).itg.passes = s.itg.passes := by unfold endJob; simp only []; split <;> simp
@[simp] theorem endJob_itg_lastPass (id : Nat) (st : Nat) (reason : Nat) (result : Bytes) (wfault : Nat) :
    (endJob id st reason result wfault s).itg.lastPass = s.itg.lastPass := by unfold endJob; simp only []; split <;> simp
@[simp] theorem endJob_itg_passFrom (id : Nat) (st : Nat) (reason : Nat) (result : Bytes) (wfault : Nat) :
    (endJob id st reason result wfault s).itg.passFrom = s.itg.passFrom := by unfold endJob; simp only []; split <;> simp
@[simp] theorem endJob_itg_lastBad (id : Nat) (st : Nat) (reason : Nat) (result : Bytes) (wfault : Nat) :
    (endJob id st reason result wfault s).itg.lastBad = s.itg.lastBad := by unfold endJob; simp only []; split <;> simp
@[simp] theorem endJob_itg_rows (id : Nat) (st : Nat) (reason : Nat) (result : Bytes) (wfault : Nat) :
    (endJob id st reason result wfault s).itg.rows = s.itg.rows := by unfold endJob; simp only []; split <;> simp
@[simp] theorem endJob_itg_husks (id : Nat) (st : Nat) (reason : Nat) (result : Bytes) (wfault : Nat) :
    (endJob id st reason result wfault s).itg.husks = s.itg.husks := by unfold endJob; simp only []; split <;> simp
@[simp] theorem endJob_itg_svRepeats (id : Nat) (st : Nat) (reason : Nat) (result : Bytes) (wfault : Nat) :
    (endJob id st reason result wfault s).itg.svRepeats = s.itg.svRepeats := by unfold endJob; simp only []; split <;> simp
@[simp] theorem endJob_itg_svMissing (id : Nat) (st : Nat) (reason : Nat) (result : Bytes) (wfault : Nat) :
    (endJob id st reason result wfault s).itg.svMissing = s.itg.svMissing := by unfold endJob; simp only []; split <;> simp
@[simp] theorem endJob_itg_svStale (id : Nat) (st : Nat) (reason : Nat) (result : Bytes) (wfault : Nat) :
    (endJob id st reason result wfault s).itg.svStale = s.itg.svStale := by unfold endJob; simp only []; split <;> simp
@[simp] theorem endJob_itg_mismatches (id : Nat) (st : Nat) (reason : Nat) (result : Bytes) (wfault : Nat) :
    (endJob id st reason result wfault s).itg.mismatches = s.itg.mismatches := by unfold endJob; simp only []; split <;> simp
@[simp] theorem endJob_itg_words (id : Nat) (st : Nat) (reason : Nat) (result : Bytes) (wfault : Nat) :
    (endJob id st reason result wfault s).itg.words = s.itg.words := by unfold endJob; simp only []; split <;> simp
@[simp] theorem endJob_itg_rowCount (id : Nat) (st : Nat) (reason : Nat) (result : Bytes) (wfault : Nat) :
    (endJob id st reason result wfault s).itg.rowCount = s.itg.rowCount := by unfold endJob; simp only []; split <;> simp
@[simp] theorem endJob_itg_rowsTold (id : Nat) (st : Nat) (reason : Nat) (result : Bytes) (wfault : Nat) :
    (endJob id st reason result wfault s).itg.rowsTold = s.itg.rowsTold := by unfold endJob; simp only []; split <;> simp
@[simp] theorem endJob_itg_units (id : Nat) (st : Nat) (reason : Nat) (result : Bytes) (wfault : Nat) :
    (endJob id st reason result wfault s).itg.units = s.itg.units := by unfold endJob; simp only []; split <;> simp


@[simp] theorem emitSv_pending (e : Emission) : (emitSv e s).pending = s.pending := by unfold emitSv; split <;> simp
@[simp] theorem emitSv_clk (e : Emission) : (emitSv e s).clk = s.clk := by unfold emitSv; split <;> simp
@[simp] theorem emitSv_hub (e : Emission) : (emitSv e s).hub = s.hub := by unfold emitSv; split <;> simp
@[simp] theorem emitSv_sh (e : Emission) : (emitSv e s).sh = s.sh := by unfold emitSv; split <;> simp
@[simp] theorem emitSv_cfg (e : Emission) : (emitSv e s).cfg = s.cfg := by unfold emitSv; split <;> simp
@[simp] theorem emitSv_hed (e : Emission) : (emitSv e s).hed = s.hed := by unfold emitSv; split <;> simp
@[simp] theorem emitSv_conv (e : Emission) : (emitSv e s).conv = s.conv := by unfold emitSv; split <;> simp
@[simp] theorem emitSv_filt (e : Emission) : (emitSv e s).filt = s.filt := by unfold emitSv; split <;> simp
@[simp] theorem emitSv_warp (e : Emission) : (emitSv e s).warp = s.warp := by unfold emitSv; split <;> simp
@[simp] theorem emitSv_cal (e : Emission) : (emitSv e s).cal = s.cal := by unfold emitSv; split <;> simp
@[simp] theorem emitSv_trd (e : Emission) : (emitSv e s).trd = s.trd := by unfold emitSv; split <;> simp
@[simp] theorem emitSv_drv (e : Emission) : (emitSv e s).drv = s.drv := by unfold emitSv; split <;> simp
@[simp] theorem emitSv_weft (e : Emission) : (emitSv e s).weft = s.weft := by unfold emitSv; split <;> simp
@[simp] theorem emitSv_win (e : Emission) : (emitSv e s).win = s.win := by unfold emitSv; split <;> simp
@[simp] theorem emitSv_itg (e : Emission) : (emitSv e s).itg = s.itg := by unfold emitSv; split <;> simp
@[simp] theorem emitSv_pow (e : Emission) : (emitSv e s).pow = s.pow := by unfold emitSv; split <;> simp
@[simp] theorem emitSv_free (e : Emission) : (emitSv e s).free = s.free := by unfold emitSv; split <;> simp

@[simp] theorem sendDelta_pending (c : Change) (due : Nat) :
    (sendDelta c due s).pending = s.pending := by
  unfold sendDelta; split
  · split
    · rfl
    · simp [emitDelta, svForm]
  · rfl
@[simp] theorem sendDelta_clk (c : Change) (due : Nat) :
    (sendDelta c due s).clk = s.clk := by
  unfold sendDelta; split
  · split
    · rfl
    · simp [emitDelta, svForm]
  · rfl
@[simp] theorem sendDelta_hub (c : Change) (due : Nat) :
    (sendDelta c due s).hub = s.hub := by
  unfold sendDelta; split
  · split
    · rfl
    · simp [emitDelta, svForm]
  · rfl
@[simp] theorem sendDelta_sh (c : Change) (due : Nat) :
    (sendDelta c due s).sh = s.sh := by
  unfold sendDelta; split
  · split
    · rfl
    · simp [emitDelta, svForm]
  · rfl
@[simp] theorem sendDelta_cfg (c : Change) (due : Nat) :
    (sendDelta c due s).cfg = s.cfg := by
  unfold sendDelta; split
  · split
    · rfl
    · simp [emitDelta, svForm]
  · rfl
@[simp] theorem sendDelta_hed (c : Change) (due : Nat) :
    (sendDelta c due s).hed = s.hed := by
  unfold sendDelta; split
  · split
    · rfl
    · simp [emitDelta, svForm]
  · rfl
@[simp] theorem sendDelta_conv (c : Change) (due : Nat) :
    (sendDelta c due s).conv = s.conv := by
  unfold sendDelta; split
  · split
    · rfl
    · simp [emitDelta, svForm]
  · rfl
@[simp] theorem sendDelta_filt (c : Change) (due : Nat) :
    (sendDelta c due s).filt = s.filt := by
  unfold sendDelta; split
  · split
    · rfl
    · simp [emitDelta, svForm]
  · rfl
@[simp] theorem sendDelta_warp (c : Change) (due : Nat) :
    (sendDelta c due s).warp = s.warp := by
  unfold sendDelta; split
  · split
    · rfl
    · simp [emitDelta, svForm]
  · rfl
@[simp] theorem sendDelta_cal (c : Change) (due : Nat) :
    (sendDelta c due s).cal = s.cal := by
  unfold sendDelta; split
  · split
    · rfl
    · simp [emitDelta, svForm]
  · rfl
@[simp] theorem sendDelta_trd (c : Change) (due : Nat) :
    (sendDelta c due s).trd = s.trd := by
  unfold sendDelta; split
  · split
    · rfl
    · simp [emitDelta, svForm]
  · rfl
@[simp] theorem sendDelta_drv (c : Change) (due : Nat) :
    (sendDelta c due s).drv = s.drv := by
  unfold sendDelta; split
  · split
    · rfl
    · simp [emitDelta, svForm]
  · rfl
@[simp] theorem sendDelta_weft (c : Change) (due : Nat) :
    (sendDelta c due s).weft = s.weft := by
  unfold sendDelta; split
  · split
    · rfl
    · simp [emitDelta, svForm]
  · rfl
@[simp] theorem sendDelta_win (c : Change) (due : Nat) :
    (sendDelta c due s).win = s.win := by
  unfold sendDelta; split
  · split
    · rfl
    · simp [emitDelta, svForm]
  · rfl
@[simp] theorem sendDelta_pow (c : Change) (due : Nat) :
    (sendDelta c due s).pow = s.pow := by
  unfold sendDelta; split
  · split
    · rfl
    · simp [emitDelta, svForm]
  · rfl
@[simp] theorem sendDelta_free (c : Change) (due : Nat) :
    (sendDelta c due s).free = s.free := by
  unfold sendDelta; split
  · split
    · rfl
    · simp [emitDelta, svForm]
  · rfl
@[simp] theorem sendDelta_itg_corrected (c : Change) (due : Nat) :
    (sendDelta c due s).itg.corrected = s.itg.corrected := by
  unfold sendDelta; split
  · split
    · rfl
    · simp [emitDelta, svForm]
  · rfl
@[simp] theorem sendDelta_itg_uncorrectable (c : Change) (due : Nat) :
    (sendDelta c due s).itg.uncorrectable = s.itg.uncorrectable := by
  unfold sendDelta; split
  · split
    · rfl
    · simp [emitDelta, svForm]
  · rfl
@[simp] theorem sendDelta_itg_passes (c : Change) (due : Nat) :
    (sendDelta c due s).itg.passes = s.itg.passes := by
  unfold sendDelta; split
  · split
    · rfl
    · simp [emitDelta, svForm]
  · rfl
@[simp] theorem sendDelta_itg_lastPass (c : Change) (due : Nat) :
    (sendDelta c due s).itg.lastPass = s.itg.lastPass := by
  unfold sendDelta; split
  · split
    · rfl
    · simp [emitDelta, svForm]
  · rfl
@[simp] theorem sendDelta_itg_passFrom (c : Change) (due : Nat) :
    (sendDelta c due s).itg.passFrom = s.itg.passFrom := by
  unfold sendDelta; split
  · split
    · rfl
    · simp [emitDelta, svForm]
  · rfl
@[simp] theorem sendDelta_itg_lastBad (c : Change) (due : Nat) :
    (sendDelta c due s).itg.lastBad = s.itg.lastBad := by
  unfold sendDelta; split
  · split
    · rfl
    · simp [emitDelta, svForm]
  · rfl
@[simp] theorem sendDelta_itg_rows (c : Change) (due : Nat) :
    (sendDelta c due s).itg.rows = s.itg.rows := by
  unfold sendDelta; split
  · split
    · rfl
    · simp [emitDelta, svForm]
  · rfl
@[simp] theorem sendDelta_itg_husks (c : Change) (due : Nat) :
    (sendDelta c due s).itg.husks = s.itg.husks := by
  unfold sendDelta; split
  · split
    · rfl
    · simp [emitDelta, svForm]
  · rfl
@[simp] theorem sendDelta_itg_svRepeats (c : Change) (due : Nat) :
    (sendDelta c due s).itg.svRepeats = s.itg.svRepeats := by
  unfold sendDelta; split
  · split
    · rfl
    · simp [emitDelta, svForm]
  · rfl
@[simp] theorem sendDelta_itg_svMissing (c : Change) (due : Nat) :
    (sendDelta c due s).itg.svMissing = s.itg.svMissing := by
  unfold sendDelta; split
  · split
    · rfl
    · simp [emitDelta, svForm]
  · rfl
@[simp] theorem sendDelta_itg_svStale (c : Change) (due : Nat) :
    (sendDelta c due s).itg.svStale = s.itg.svStale := by
  unfold sendDelta; split
  · split
    · rfl
    · simp [emitDelta, svForm]
  · rfl
@[simp] theorem sendDelta_itg_mismatches (c : Change) (due : Nat) :
    (sendDelta c due s).itg.mismatches = s.itg.mismatches := by
  unfold sendDelta; split
  · split
    · rfl
    · simp [emitDelta, svForm]
  · rfl
@[simp] theorem sendDelta_itg_words (c : Change) (due : Nat) :
    (sendDelta c due s).itg.words = s.itg.words := by
  unfold sendDelta; split
  · split
    · rfl
    · simp [emitDelta, svForm]
  · rfl
@[simp] theorem sendDelta_itg_rowCount (c : Change) (due : Nat) :
    (sendDelta c due s).itg.rowCount = s.itg.rowCount := by
  unfold sendDelta; split
  · split
    · rfl
    · simp [emitDelta, svForm]
  · rfl
@[simp] theorem sendDelta_itg_rowsTold (c : Change) (due : Nat) :
    (sendDelta c due s).itg.rowsTold = s.itg.rowsTold := by
  unfold sendDelta; split
  · split
    · rfl
    · simp [emitDelta, svForm]
  · rfl
@[simp] theorem sendDelta_itg_crossings (c : Change) (due : Nat) :
    (sendDelta c due s).itg.crossings = s.itg.crossings := by
  unfold sendDelta; split
  · split
    · rfl
    · simp [emitDelta, svForm]
  · rfl

@[simp] theorem stageAt_pending (due : Nat) (c : Change) (cmd : Nat) (mb : Nat) (seq : Nat) : (stageAt due c cmd mb seq s).pending = s.pending := by simp [stageAt]
@[simp] theorem stageAt_clk (due : Nat) (c : Change) (cmd : Nat) (mb : Nat) (seq : Nat) : (stageAt due c cmd mb seq s).clk = s.clk := by simp [stageAt]
@[simp] theorem stageAt_hub (due : Nat) (c : Change) (cmd : Nat) (mb : Nat) (seq : Nat) : (stageAt due c cmd mb seq s).hub = s.hub := by simp [stageAt]
@[simp] theorem stageAt_sh (due : Nat) (c : Change) (cmd : Nat) (mb : Nat) (seq : Nat) : (stageAt due c cmd mb seq s).sh = s.sh := by simp [stageAt]
@[simp] theorem stageAt_hed (due : Nat) (c : Change) (cmd : Nat) (mb : Nat) (seq : Nat) : (stageAt due c cmd mb seq s).hed = s.hed := by simp [stageAt]
@[simp] theorem stageAt_conv (due : Nat) (c : Change) (cmd : Nat) (mb : Nat) (seq : Nat) : (stageAt due c cmd mb seq s).conv = s.conv := by simp [stageAt]
@[simp] theorem stageAt_filt (due : Nat) (c : Change) (cmd : Nat) (mb : Nat) (seq : Nat) : (stageAt due c cmd mb seq s).filt = s.filt := by simp [stageAt]
@[simp] theorem stageAt_warp (due : Nat) (c : Change) (cmd : Nat) (mb : Nat) (seq : Nat) : (stageAt due c cmd mb seq s).warp = s.warp := by simp [stageAt]
@[simp] theorem stageAt_cal (due : Nat) (c : Change) (cmd : Nat) (mb : Nat) (seq : Nat) : (stageAt due c cmd mb seq s).cal = s.cal := by simp [stageAt]
@[simp] theorem stageAt_trd (due : Nat) (c : Change) (cmd : Nat) (mb : Nat) (seq : Nat) : (stageAt due c cmd mb seq s).trd = s.trd := by simp [stageAt]
@[simp] theorem stageAt_drv (due : Nat) (c : Change) (cmd : Nat) (mb : Nat) (seq : Nat) : (stageAt due c cmd mb seq s).drv = s.drv := by simp [stageAt]
@[simp] theorem stageAt_weft (due : Nat) (c : Change) (cmd : Nat) (mb : Nat) (seq : Nat) : (stageAt due c cmd mb seq s).weft = s.weft := by simp [stageAt]
@[simp] theorem stageAt_win (due : Nat) (c : Change) (cmd : Nat) (mb : Nat) (seq : Nat) : (stageAt due c cmd mb seq s).win = s.win := by simp [stageAt]
@[simp] theorem stageAt_pow (due : Nat) (c : Change) (cmd : Nat) (mb : Nat) (seq : Nat) : (stageAt due c cmd mb seq s).pow = s.pow := by simp [stageAt]
@[simp] theorem stageAt_free (due : Nat) (c : Change) (cmd : Nat) (mb : Nat) (seq : Nat) : (stageAt due c cmd mb seq s).free = s.free := by simp [stageAt]
@[simp] theorem stageAt_itg_corrected (due : Nat) (c : Change) (cmd : Nat) (mb : Nat) (seq : Nat) : (stageAt due c cmd mb seq s).itg.corrected = s.itg.corrected := by simp [stageAt]
@[simp] theorem stageAt_itg_uncorrectable (due : Nat) (c : Change) (cmd : Nat) (mb : Nat) (seq : Nat) : (stageAt due c cmd mb seq s).itg.uncorrectable = s.itg.uncorrectable := by simp [stageAt]
@[simp] theorem stageAt_itg_passes (due : Nat) (c : Change) (cmd : Nat) (mb : Nat) (seq : Nat) : (stageAt due c cmd mb seq s).itg.passes = s.itg.passes := by simp [stageAt]
@[simp] theorem stageAt_itg_lastPass (due : Nat) (c : Change) (cmd : Nat) (mb : Nat) (seq : Nat) : (stageAt due c cmd mb seq s).itg.lastPass = s.itg.lastPass := by simp [stageAt]
@[simp] theorem stageAt_itg_passFrom (due : Nat) (c : Change) (cmd : Nat) (mb : Nat) (seq : Nat) : (stageAt due c cmd mb seq s).itg.passFrom = s.itg.passFrom := by simp [stageAt]
@[simp] theorem stageAt_itg_lastBad (due : Nat) (c : Change) (cmd : Nat) (mb : Nat) (seq : Nat) : (stageAt due c cmd mb seq s).itg.lastBad = s.itg.lastBad := by simp [stageAt]
@[simp] theorem stageAt_itg_rows (due : Nat) (c : Change) (cmd : Nat) (mb : Nat) (seq : Nat) : (stageAt due c cmd mb seq s).itg.rows = s.itg.rows := by simp [stageAt]
@[simp] theorem stageAt_itg_husks (due : Nat) (c : Change) (cmd : Nat) (mb : Nat) (seq : Nat) : (stageAt due c cmd mb seq s).itg.husks = s.itg.husks := by simp [stageAt]
@[simp] theorem stageAt_itg_svRepeats (due : Nat) (c : Change) (cmd : Nat) (mb : Nat) (seq : Nat) : (stageAt due c cmd mb seq s).itg.svRepeats = s.itg.svRepeats := by simp [stageAt]
@[simp] theorem stageAt_itg_svMissing (due : Nat) (c : Change) (cmd : Nat) (mb : Nat) (seq : Nat) : (stageAt due c cmd mb seq s).itg.svMissing = s.itg.svMissing := by simp [stageAt]
@[simp] theorem stageAt_itg_svStale (due : Nat) (c : Change) (cmd : Nat) (mb : Nat) (seq : Nat) : (stageAt due c cmd mb seq s).itg.svStale = s.itg.svStale := by simp [stageAt]
@[simp] theorem stageAt_itg_mismatches (due : Nat) (c : Change) (cmd : Nat) (mb : Nat) (seq : Nat) : (stageAt due c cmd mb seq s).itg.mismatches = s.itg.mismatches := by simp [stageAt]
@[simp] theorem stageAt_itg_words (due : Nat) (c : Change) (cmd : Nat) (mb : Nat) (seq : Nat) : (stageAt due c cmd mb seq s).itg.words = s.itg.words := by simp [stageAt]
@[simp] theorem stageAt_itg_rowCount (due : Nat) (c : Change) (cmd : Nat) (mb : Nat) (seq : Nat) : (stageAt due c cmd mb seq s).itg.rowCount = s.itg.rowCount := by simp [stageAt]
@[simp] theorem stageAt_itg_rowsTold (due : Nat) (c : Change) (cmd : Nat) (mb : Nat) (seq : Nat) : (stageAt due c cmd mb seq s).itg.rowsTold = s.itg.rowsTold := by simp [stageAt]
@[simp] theorem stageAt_itg_crossings (due : Nat) (c : Change) (cmd : Nat) (mb : Nat) (seq : Nat) : (stageAt due c cmd mb seq s).itg.crossings = s.itg.crossings := by simp [stageAt]

@[simp] theorem stage_pending (c : Change) (rq : Req) : (stage c rq s).pending = s.pending := by simp [stage]
@[simp] theorem stage_clk (c : Change) (rq : Req) : (stage c rq s).clk = s.clk := by simp [stage]
@[simp] theorem stage_hub (c : Change) (rq : Req) : (stage c rq s).hub = s.hub := by simp [stage]
@[simp] theorem stage_sh (c : Change) (rq : Req) : (stage c rq s).sh = s.sh := by simp [stage]
@[simp] theorem stage_hed (c : Change) (rq : Req) : (stage c rq s).hed = s.hed := by simp [stage]
@[simp] theorem stage_conv (c : Change) (rq : Req) : (stage c rq s).conv = s.conv := by simp [stage]
@[simp] theorem stage_filt (c : Change) (rq : Req) : (stage c rq s).filt = s.filt := by simp [stage]
@[simp] theorem stage_warp (c : Change) (rq : Req) : (stage c rq s).warp = s.warp := by simp [stage]
@[simp] theorem stage_cal (c : Change) (rq : Req) : (stage c rq s).cal = s.cal := by simp [stage]
@[simp] theorem stage_trd (c : Change) (rq : Req) : (stage c rq s).trd = s.trd := by simp [stage]
@[simp] theorem stage_drv (c : Change) (rq : Req) : (stage c rq s).drv = s.drv := by simp [stage]
@[simp] theorem stage_weft (c : Change) (rq : Req) : (stage c rq s).weft = s.weft := by simp [stage]
@[simp] theorem stage_win (c : Change) (rq : Req) : (stage c rq s).win = s.win := by simp [stage]
@[simp] theorem stage_pow (c : Change) (rq : Req) : (stage c rq s).pow = s.pow := by simp [stage]
@[simp] theorem stage_free (c : Change) (rq : Req) : (stage c rq s).free = s.free := by simp [stage]
@[simp] theorem stage_itg_corrected (c : Change) (rq : Req) : (stage c rq s).itg.corrected = s.itg.corrected := by simp [stage]
@[simp] theorem stage_itg_uncorrectable (c : Change) (rq : Req) : (stage c rq s).itg.uncorrectable = s.itg.uncorrectable := by simp [stage]
@[simp] theorem stage_itg_passes (c : Change) (rq : Req) : (stage c rq s).itg.passes = s.itg.passes := by simp [stage]
@[simp] theorem stage_itg_lastPass (c : Change) (rq : Req) : (stage c rq s).itg.lastPass = s.itg.lastPass := by simp [stage]
@[simp] theorem stage_itg_passFrom (c : Change) (rq : Req) : (stage c rq s).itg.passFrom = s.itg.passFrom := by simp [stage]
@[simp] theorem stage_itg_lastBad (c : Change) (rq : Req) : (stage c rq s).itg.lastBad = s.itg.lastBad := by simp [stage]
@[simp] theorem stage_itg_rows (c : Change) (rq : Req) : (stage c rq s).itg.rows = s.itg.rows := by simp [stage]
@[simp] theorem stage_itg_husks (c : Change) (rq : Req) : (stage c rq s).itg.husks = s.itg.husks := by simp [stage]
@[simp] theorem stage_itg_svRepeats (c : Change) (rq : Req) : (stage c rq s).itg.svRepeats = s.itg.svRepeats := by simp [stage]
@[simp] theorem stage_itg_svMissing (c : Change) (rq : Req) : (stage c rq s).itg.svMissing = s.itg.svMissing := by simp [stage]
@[simp] theorem stage_itg_svStale (c : Change) (rq : Req) : (stage c rq s).itg.svStale = s.itg.svStale := by simp [stage]
@[simp] theorem stage_itg_mismatches (c : Change) (rq : Req) : (stage c rq s).itg.mismatches = s.itg.mismatches := by simp [stage]
@[simp] theorem stage_itg_words (c : Change) (rq : Req) : (stage c rq s).itg.words = s.itg.words := by simp [stage]
@[simp] theorem stage_itg_rowCount (c : Change) (rq : Req) : (stage c rq s).itg.rowCount = s.itg.rowCount := by simp [stage]
@[simp] theorem stage_itg_rowsTold (c : Change) (rq : Req) : (stage c rq s).itg.rowsTold = s.itg.rowsTold := by simp [stage]
@[simp] theorem stage_itg_crossings (c : Change) (rq : Req) : (stage c rq s).itg.crossings = s.itg.crossings := by simp [stage]

@[simp] theorem stageOwn_pending (c : Change) : (stageOwn c s).pending = s.pending := by simp [stageOwn]
@[simp] theorem stageOwn_clk (c : Change) : (stageOwn c s).clk = s.clk := by simp [stageOwn]
@[simp] theorem stageOwn_hub (c : Change) : (stageOwn c s).hub = s.hub := by simp [stageOwn]
@[simp] theorem stageOwn_sh (c : Change) : (stageOwn c s).sh = s.sh := by simp [stageOwn]
@[simp] theorem stageOwn_hed (c : Change) : (stageOwn c s).hed = s.hed := by simp [stageOwn]
@[simp] theorem stageOwn_conv (c : Change) : (stageOwn c s).conv = s.conv := by simp [stageOwn]
@[simp] theorem stageOwn_filt (c : Change) : (stageOwn c s).filt = s.filt := by simp [stageOwn]
@[simp] theorem stageOwn_warp (c : Change) : (stageOwn c s).warp = s.warp := by simp [stageOwn]
@[simp] theorem stageOwn_cal (c : Change) : (stageOwn c s).cal = s.cal := by simp [stageOwn]
@[simp] theorem stageOwn_trd (c : Change) : (stageOwn c s).trd = s.trd := by simp [stageOwn]
@[simp] theorem stageOwn_drv (c : Change) : (stageOwn c s).drv = s.drv := by simp [stageOwn]
@[simp] theorem stageOwn_weft (c : Change) : (stageOwn c s).weft = s.weft := by simp [stageOwn]
@[simp] theorem stageOwn_win (c : Change) : (stageOwn c s).win = s.win := by simp [stageOwn]
@[simp] theorem stageOwn_pow (c : Change) : (stageOwn c s).pow = s.pow := by simp [stageOwn]
@[simp] theorem stageOwn_free (c : Change) : (stageOwn c s).free = s.free := by simp [stageOwn]
@[simp] theorem stageOwn_itg_corrected (c : Change) : (stageOwn c s).itg.corrected = s.itg.corrected := by simp [stageOwn]
@[simp] theorem stageOwn_itg_uncorrectable (c : Change) : (stageOwn c s).itg.uncorrectable = s.itg.uncorrectable := by simp [stageOwn]
@[simp] theorem stageOwn_itg_passes (c : Change) : (stageOwn c s).itg.passes = s.itg.passes := by simp [stageOwn]
@[simp] theorem stageOwn_itg_lastPass (c : Change) : (stageOwn c s).itg.lastPass = s.itg.lastPass := by simp [stageOwn]
@[simp] theorem stageOwn_itg_passFrom (c : Change) : (stageOwn c s).itg.passFrom = s.itg.passFrom := by simp [stageOwn]
@[simp] theorem stageOwn_itg_lastBad (c : Change) : (stageOwn c s).itg.lastBad = s.itg.lastBad := by simp [stageOwn]
@[simp] theorem stageOwn_itg_rows (c : Change) : (stageOwn c s).itg.rows = s.itg.rows := by simp [stageOwn]
@[simp] theorem stageOwn_itg_husks (c : Change) : (stageOwn c s).itg.husks = s.itg.husks := by simp [stageOwn]
@[simp] theorem stageOwn_itg_svRepeats (c : Change) : (stageOwn c s).itg.svRepeats = s.itg.svRepeats := by simp [stageOwn]
@[simp] theorem stageOwn_itg_svMissing (c : Change) : (stageOwn c s).itg.svMissing = s.itg.svMissing := by simp [stageOwn]
@[simp] theorem stageOwn_itg_svStale (c : Change) : (stageOwn c s).itg.svStale = s.itg.svStale := by simp [stageOwn]
@[simp] theorem stageOwn_itg_mismatches (c : Change) : (stageOwn c s).itg.mismatches = s.itg.mismatches := by simp [stageOwn]
@[simp] theorem stageOwn_itg_words (c : Change) : (stageOwn c s).itg.words = s.itg.words := by simp [stageOwn]
@[simp] theorem stageOwn_itg_rowCount (c : Change) : (stageOwn c s).itg.rowCount = s.itg.rowCount := by simp [stageOwn]
@[simp] theorem stageOwn_itg_rowsTold (c : Change) : (stageOwn c s).itg.rowsTold = s.itg.rowsTold := by simp [stageOwn]
@[simp] theorem stageOwn_itg_crossings (c : Change) : (stageOwn c s).itg.crossings = s.itg.crossings := by simp [stageOwn]

@[simp] theorem acceptWords_pending (ws : List (Nat × Word)) (rq : Req) : (acceptWords ws rq s).pending = s.pending := by simp [acceptWords]
@[simp] theorem acceptWords_clk (ws : List (Nat × Word)) (rq : Req) : (acceptWords ws rq s).clk = s.clk := by simp [acceptWords]
@[simp] theorem acceptWords_hub (ws : List (Nat × Word)) (rq : Req) : (acceptWords ws rq s).hub = s.hub := by simp [acceptWords]
@[simp] theorem acceptWords_sh (ws : List (Nat × Word)) (rq : Req) : (acceptWords ws rq s).sh = s.sh := by simp [acceptWords]
@[simp] theorem acceptWords_hed (ws : List (Nat × Word)) (rq : Req) : (acceptWords ws rq s).hed = s.hed := by simp [acceptWords]
@[simp] theorem acceptWords_conv (ws : List (Nat × Word)) (rq : Req) : (acceptWords ws rq s).conv = s.conv := by simp [acceptWords]
@[simp] theorem acceptWords_filt (ws : List (Nat × Word)) (rq : Req) : (acceptWords ws rq s).filt = s.filt := by simp [acceptWords]
@[simp] theorem acceptWords_warp (ws : List (Nat × Word)) (rq : Req) : (acceptWords ws rq s).warp = s.warp := by simp [acceptWords]
@[simp] theorem acceptWords_cal (ws : List (Nat × Word)) (rq : Req) : (acceptWords ws rq s).cal = s.cal := by simp [acceptWords]
@[simp] theorem acceptWords_trd (ws : List (Nat × Word)) (rq : Req) : (acceptWords ws rq s).trd = s.trd := by simp [acceptWords]
@[simp] theorem acceptWords_drv (ws : List (Nat × Word)) (rq : Req) : (acceptWords ws rq s).drv = s.drv := by simp [acceptWords]
@[simp] theorem acceptWords_weft (ws : List (Nat × Word)) (rq : Req) : (acceptWords ws rq s).weft = s.weft := by simp [acceptWords]
@[simp] theorem acceptWords_win (ws : List (Nat × Word)) (rq : Req) : (acceptWords ws rq s).win = s.win := by simp [acceptWords]
@[simp] theorem acceptWords_pow (ws : List (Nat × Word)) (rq : Req) : (acceptWords ws rq s).pow = s.pow := by simp [acceptWords]
@[simp] theorem acceptWords_free (ws : List (Nat × Word)) (rq : Req) : (acceptWords ws rq s).free = s.free := by simp [acceptWords]
@[simp] theorem acceptWords_itg_corrected (ws : List (Nat × Word)) (rq : Req) : (acceptWords ws rq s).itg.corrected = s.itg.corrected := by simp [acceptWords]
@[simp] theorem acceptWords_itg_uncorrectable (ws : List (Nat × Word)) (rq : Req) : (acceptWords ws rq s).itg.uncorrectable = s.itg.uncorrectable := by simp [acceptWords]
@[simp] theorem acceptWords_itg_passes (ws : List (Nat × Word)) (rq : Req) : (acceptWords ws rq s).itg.passes = s.itg.passes := by simp [acceptWords]
@[simp] theorem acceptWords_itg_lastPass (ws : List (Nat × Word)) (rq : Req) : (acceptWords ws rq s).itg.lastPass = s.itg.lastPass := by simp [acceptWords]
@[simp] theorem acceptWords_itg_passFrom (ws : List (Nat × Word)) (rq : Req) : (acceptWords ws rq s).itg.passFrom = s.itg.passFrom := by simp [acceptWords]
@[simp] theorem acceptWords_itg_lastBad (ws : List (Nat × Word)) (rq : Req) : (acceptWords ws rq s).itg.lastBad = s.itg.lastBad := by simp [acceptWords]
@[simp] theorem acceptWords_itg_rows (ws : List (Nat × Word)) (rq : Req) : (acceptWords ws rq s).itg.rows = s.itg.rows := by simp [acceptWords]
@[simp] theorem acceptWords_itg_husks (ws : List (Nat × Word)) (rq : Req) : (acceptWords ws rq s).itg.husks = s.itg.husks := by simp [acceptWords]
@[simp] theorem acceptWords_itg_svRepeats (ws : List (Nat × Word)) (rq : Req) : (acceptWords ws rq s).itg.svRepeats = s.itg.svRepeats := by simp [acceptWords]
@[simp] theorem acceptWords_itg_svMissing (ws : List (Nat × Word)) (rq : Req) : (acceptWords ws rq s).itg.svMissing = s.itg.svMissing := by simp [acceptWords]
@[simp] theorem acceptWords_itg_svStale (ws : List (Nat × Word)) (rq : Req) : (acceptWords ws rq s).itg.svStale = s.itg.svStale := by simp [acceptWords]
@[simp] theorem acceptWords_itg_mismatches (ws : List (Nat × Word)) (rq : Req) : (acceptWords ws rq s).itg.mismatches = s.itg.mismatches := by simp [acceptWords]
@[simp] theorem acceptWords_itg_words (ws : List (Nat × Word)) (rq : Req) : (acceptWords ws rq s).itg.words = s.itg.words := by simp [acceptWords]
@[simp] theorem acceptWords_itg_rowCount (ws : List (Nat × Word)) (rq : Req) : (acceptWords ws rq s).itg.rowCount = s.itg.rowCount := by simp [acceptWords]
@[simp] theorem acceptWords_itg_rowsTold (ws : List (Nat × Word)) (rq : Req) : (acceptWords ws rq s).itg.rowsTold = s.itg.rowsTold := by simp [acceptWords]
@[simp] theorem acceptWords_itg_crossings (ws : List (Nat × Word)) (rq : Req) : (acceptWords ws rq s).itg.crossings = s.itg.crossings := by simp [acceptWords]

@[simp] theorem huskMismatch_pending (source : Nat) (detail : Nat) : (huskMismatch source detail s).pending = s.pending := by simp [huskMismatch]
@[simp] theorem huskMismatch_clk (source : Nat) (detail : Nat) : (huskMismatch source detail s).clk = s.clk := by simp [huskMismatch]
@[simp] theorem huskMismatch_hub (source : Nat) (detail : Nat) : (huskMismatch source detail s).hub = s.hub := by simp [huskMismatch]
@[simp] theorem huskMismatch_cfg (source : Nat) (detail : Nat) : (huskMismatch source detail s).cfg = s.cfg := by simp [huskMismatch]
@[simp] theorem huskMismatch_hed (source : Nat) (detail : Nat) : (huskMismatch source detail s).hed = s.hed := by simp [huskMismatch]
@[simp] theorem huskMismatch_conv (source : Nat) (detail : Nat) : (huskMismatch source detail s).conv = s.conv := by simp [huskMismatch]
@[simp] theorem huskMismatch_filt (source : Nat) (detail : Nat) : (huskMismatch source detail s).filt = s.filt := by simp [huskMismatch]
@[simp] theorem huskMismatch_warp (source : Nat) (detail : Nat) : (huskMismatch source detail s).warp = s.warp := by simp [huskMismatch]
@[simp] theorem huskMismatch_cal (source : Nat) (detail : Nat) : (huskMismatch source detail s).cal = s.cal := by simp [huskMismatch]
@[simp] theorem huskMismatch_trd (source : Nat) (detail : Nat) : (huskMismatch source detail s).trd = s.trd := by simp [huskMismatch]
@[simp] theorem huskMismatch_drv (source : Nat) (detail : Nat) : (huskMismatch source detail s).drv = s.drv := by simp [huskMismatch]
@[simp] theorem huskMismatch_weft (source : Nat) (detail : Nat) : (huskMismatch source detail s).weft = s.weft := by simp [huskMismatch]
@[simp] theorem huskMismatch_win (source : Nat) (detail : Nat) : (huskMismatch source detail s).win = s.win := by simp [huskMismatch]
@[simp] theorem huskMismatch_pair (source : Nat) (detail : Nat) : (huskMismatch source detail s).pair = s.pair := by simp [huskMismatch]
@[simp] theorem huskMismatch_pow (source : Nat) (detail : Nat) : (huskMismatch source detail s).pow = s.pow := by simp [huskMismatch]
@[simp] theorem huskMismatch_wire (source : Nat) (detail : Nat) : (huskMismatch source detail s).wire = s.wire := by simp [huskMismatch]
@[simp] theorem huskMismatch_free (source : Nat) (detail : Nat) : (huskMismatch source detail s).free = s.free := by simp [huskMismatch]
@[simp] theorem huskMismatch_sh_mail (source : Nat) (detail : Nat) : (huskMismatch source detail s).sh.mail = s.sh.mail := by simp [huskMismatch]
@[simp] theorem huskMismatch_sh_taken (source : Nat) (detail : Nat) : (huskMismatch source detail s).sh.taken = s.sh.taken := by simp [huskMismatch]
@[simp] theorem huskMismatch_sh_lock (source : Nat) (detail : Nat) : (huskMismatch source detail s).sh.lock = s.sh.lock := by simp [huskMismatch]
@[simp] theorem huskMismatch_sh_work (source : Nat) (detail : Nat) : (huskMismatch source detail s).sh.work = s.sh.work := by simp [huskMismatch]
@[simp] theorem huskMismatch_sh_jobs (source : Nat) (detail : Nat) : (huskMismatch source detail s).sh.jobs = s.sh.jobs := by simp [huskMismatch]
@[simp] theorem huskMismatch_sh_lastJob (source : Nat) (detail : Nat) : (huskMismatch source detail s).sh.lastJob = s.sh.lastJob := by simp [huskMismatch]
@[simp] theorem huskMismatch_sh_counters (source : Nat) (detail : Nat) : (huskMismatch source detail s).sh.counters = s.sh.counters := by simp [huskMismatch]
@[simp] theorem huskMismatch_sh_alarms (source : Nat) (detail : Nat) : (huskMismatch source detail s).sh.alarms = s.sh.alarms := by simp [huskMismatch]
@[simp] theorem huskMismatch_sh_nIrqLow (source : Nat) (detail : Nat) : (huskMismatch source detail s).sh.nIrqLow = s.sh.nIrqLow := by simp [huskMismatch]
@[simp] theorem huskMismatch_itg_corrected (source : Nat) (detail : Nat) : (huskMismatch source detail s).itg.corrected = s.itg.corrected := by simp [huskMismatch]
@[simp] theorem huskMismatch_itg_uncorrectable (source : Nat) (detail : Nat) : (huskMismatch source detail s).itg.uncorrectable = s.itg.uncorrectable := by simp [huskMismatch]
@[simp] theorem huskMismatch_itg_passes (source : Nat) (detail : Nat) : (huskMismatch source detail s).itg.passes = s.itg.passes := by simp [huskMismatch]
@[simp] theorem huskMismatch_itg_lastPass (source : Nat) (detail : Nat) : (huskMismatch source detail s).itg.lastPass = s.itg.lastPass := by simp [huskMismatch]
@[simp] theorem huskMismatch_itg_passFrom (source : Nat) (detail : Nat) : (huskMismatch source detail s).itg.passFrom = s.itg.passFrom := by simp [huskMismatch]
@[simp] theorem huskMismatch_itg_lastBad (source : Nat) (detail : Nat) : (huskMismatch source detail s).itg.lastBad = s.itg.lastBad := by simp [huskMismatch]
@[simp] theorem huskMismatch_itg_rows (source : Nat) (detail : Nat) : (huskMismatch source detail s).itg.rows = s.itg.rows := by simp [huskMismatch]
@[simp] theorem huskMismatch_itg_svRepeats (source : Nat) (detail : Nat) : (huskMismatch source detail s).itg.svRepeats = s.itg.svRepeats := by simp [huskMismatch]
@[simp] theorem huskMismatch_itg_svMissing (source : Nat) (detail : Nat) : (huskMismatch source detail s).itg.svMissing = s.itg.svMissing := by simp [huskMismatch]
@[simp] theorem huskMismatch_itg_svStale (source : Nat) (detail : Nat) : (huskMismatch source detail s).itg.svStale = s.itg.svStale := by simp [huskMismatch]
@[simp] theorem huskMismatch_itg_mismatches (source : Nat) (detail : Nat) : (huskMismatch source detail s).itg.mismatches = s.itg.mismatches := by simp [huskMismatch]
@[simp] theorem huskMismatch_itg_words (source : Nat) (detail : Nat) : (huskMismatch source detail s).itg.words = s.itg.words := by simp [huskMismatch]
@[simp] theorem huskMismatch_itg_rowCount (source : Nat) (detail : Nat) : (huskMismatch source detail s).itg.rowCount = s.itg.rowCount := by simp [huskMismatch]
@[simp] theorem huskMismatch_itg_rowsTold (source : Nat) (detail : Nat) : (huskMismatch source detail s).itg.rowsTold = s.itg.rowsTold := by simp [huskMismatch]
@[simp] theorem huskMismatch_itg_crossings (source : Nat) (detail : Nat) : (huskMismatch source detail s).itg.crossings = s.itg.crossings := by simp [huskMismatch]
@[simp] theorem huskMismatch_itg_units (source : Nat) (detail : Nat) : (huskMismatch source detail s).itg.units = s.itg.units := by simp [huskMismatch]

@[simp] theorem seedAlarm_pending (part : Nat) : (seedAlarm part s).pending = s.pending := by simp [seedAlarm]
@[simp] theorem seedAlarm_clk (part : Nat) : (seedAlarm part s).clk = s.clk := by simp [seedAlarm]
@[simp] theorem seedAlarm_hub (part : Nat) : (seedAlarm part s).hub = s.hub := by simp [seedAlarm]
@[simp] theorem seedAlarm_cfg (part : Nat) : (seedAlarm part s).cfg = s.cfg := by simp [seedAlarm]
@[simp] theorem seedAlarm_hed (part : Nat) : (seedAlarm part s).hed = s.hed := by simp [seedAlarm]
@[simp] theorem seedAlarm_conv (part : Nat) : (seedAlarm part s).conv = s.conv := by simp [seedAlarm]
@[simp] theorem seedAlarm_filt (part : Nat) : (seedAlarm part s).filt = s.filt := by simp [seedAlarm]
@[simp] theorem seedAlarm_warp (part : Nat) : (seedAlarm part s).warp = s.warp := by simp [seedAlarm]
@[simp] theorem seedAlarm_cal (part : Nat) : (seedAlarm part s).cal = s.cal := by simp [seedAlarm]
@[simp] theorem seedAlarm_trd (part : Nat) : (seedAlarm part s).trd = s.trd := by simp [seedAlarm]
@[simp] theorem seedAlarm_drv (part : Nat) : (seedAlarm part s).drv = s.drv := by simp [seedAlarm]
@[simp] theorem seedAlarm_win (part : Nat) : (seedAlarm part s).win = s.win := by simp [seedAlarm]
@[simp] theorem seedAlarm_pair (part : Nat) : (seedAlarm part s).pair = s.pair := by simp [seedAlarm]
@[simp] theorem seedAlarm_pow (part : Nat) : (seedAlarm part s).pow = s.pow := by simp [seedAlarm]
@[simp] theorem seedAlarm_wire (part : Nat) : (seedAlarm part s).wire = s.wire := by simp [seedAlarm]
@[simp] theorem seedAlarm_free (part : Nat) : (seedAlarm part s).free = s.free := by simp [seedAlarm]
@[simp] theorem seedAlarm_sh_mail (part : Nat) : (seedAlarm part s).sh.mail = s.sh.mail := by simp [seedAlarm]
@[simp] theorem seedAlarm_sh_taken (part : Nat) : (seedAlarm part s).sh.taken = s.sh.taken := by simp [seedAlarm]
@[simp] theorem seedAlarm_sh_lock (part : Nat) : (seedAlarm part s).sh.lock = s.sh.lock := by simp [seedAlarm]
@[simp] theorem seedAlarm_sh_work (part : Nat) : (seedAlarm part s).sh.work = s.sh.work := by simp [seedAlarm]
@[simp] theorem seedAlarm_sh_jobs (part : Nat) : (seedAlarm part s).sh.jobs = s.sh.jobs := by simp [seedAlarm]
@[simp] theorem seedAlarm_sh_lastJob (part : Nat) : (seedAlarm part s).sh.lastJob = s.sh.lastJob := by simp [seedAlarm]
@[simp] theorem seedAlarm_sh_counters (part : Nat) : (seedAlarm part s).sh.counters = s.sh.counters := by simp [seedAlarm]
@[simp] theorem seedAlarm_sh_nIrqLow (part : Nat) : (seedAlarm part s).sh.nIrqLow = s.sh.nIrqLow := by simp [seedAlarm]
@[simp] theorem seedAlarm_weft_streams (part : Nat) : (seedAlarm part s).weft.streams = s.weft.streams := by simp [seedAlarm]
@[simp] theorem seedAlarm_weft_opened (part : Nat) : (seedAlarm part s).weft.opened = s.weft.opened := by simp [seedAlarm]
@[simp] theorem seedAlarm_weft_pool (part : Nat) : (seedAlarm part s).weft.pool = s.weft.pool := by simp [seedAlarm]
@[simp] theorem seedAlarm_weft_highFill (part : Nat) : (seedAlarm part s).weft.highFill = s.weft.highFill := by simp [seedAlarm]
@[simp] theorem seedAlarm_weft_releases (part : Nat) : (seedAlarm part s).weft.releases = s.weft.releases := by simp [seedAlarm]
@[simp] theorem seedAlarm_weft_gapNotices (part : Nat) : (seedAlarm part s).weft.gapNotices = s.weft.gapNotices := by simp [seedAlarm]
@[simp] theorem seedAlarm_weft_lastRelease (part : Nat) : (seedAlarm part s).weft.lastRelease = s.weft.lastRelease := by simp [seedAlarm]
@[simp] theorem seedAlarm_itg_corrected (part : Nat) : (seedAlarm part s).itg.corrected = s.itg.corrected := by simp [seedAlarm]
@[simp] theorem seedAlarm_itg_uncorrectable (part : Nat) : (seedAlarm part s).itg.uncorrectable = s.itg.uncorrectable := by simp [seedAlarm]
@[simp] theorem seedAlarm_itg_passes (part : Nat) : (seedAlarm part s).itg.passes = s.itg.passes := by simp [seedAlarm]
@[simp] theorem seedAlarm_itg_lastPass (part : Nat) : (seedAlarm part s).itg.lastPass = s.itg.lastPass := by simp [seedAlarm]
@[simp] theorem seedAlarm_itg_passFrom (part : Nat) : (seedAlarm part s).itg.passFrom = s.itg.passFrom := by simp [seedAlarm]
@[simp] theorem seedAlarm_itg_lastBad (part : Nat) : (seedAlarm part s).itg.lastBad = s.itg.lastBad := by simp [seedAlarm]
@[simp] theorem seedAlarm_itg_rows (part : Nat) : (seedAlarm part s).itg.rows = s.itg.rows := by simp [seedAlarm]
@[simp] theorem seedAlarm_itg_husks (part : Nat) : (seedAlarm part s).itg.husks = s.itg.husks := by simp [seedAlarm]
@[simp] theorem seedAlarm_itg_svRepeats (part : Nat) : (seedAlarm part s).itg.svRepeats = s.itg.svRepeats := by simp [seedAlarm]
@[simp] theorem seedAlarm_itg_svMissing (part : Nat) : (seedAlarm part s).itg.svMissing = s.itg.svMissing := by simp [seedAlarm]
@[simp] theorem seedAlarm_itg_svStale (part : Nat) : (seedAlarm part s).itg.svStale = s.itg.svStale := by simp [seedAlarm]
@[simp] theorem seedAlarm_itg_mismatches (part : Nat) : (seedAlarm part s).itg.mismatches = s.itg.mismatches := by simp [seedAlarm]
@[simp] theorem seedAlarm_itg_words (part : Nat) : (seedAlarm part s).itg.words = s.itg.words := by simp [seedAlarm]
@[simp] theorem seedAlarm_itg_rowCount (part : Nat) : (seedAlarm part s).itg.rowCount = s.itg.rowCount := by simp [seedAlarm]
@[simp] theorem seedAlarm_itg_rowsTold (part : Nat) : (seedAlarm part s).itg.rowsTold = s.itg.rowsTold := by simp [seedAlarm]

@[simp] theorem partWorn_pending (kind : Nat) (pod : Nat) (idx : Nat) :
    (partWorn kind pod idx s).pending = s.pending := by
  unfold partWorn; split
  · rfl
  · simp only []; split
    · simp
    · split <;> simp
@[simp] theorem partWorn_clk (kind : Nat) (pod : Nat) (idx : Nat) :
    (partWorn kind pod idx s).clk = s.clk := by
  unfold partWorn; split
  · rfl
  · simp only []; split
    · simp
    · split <;> simp
@[simp] theorem partWorn_hub (kind : Nat) (pod : Nat) (idx : Nat) :
    (partWorn kind pod idx s).hub = s.hub := by
  unfold partWorn; split
  · rfl
  · simp only []; split
    · simp
    · split <;> simp
@[simp] theorem partWorn_hed (kind : Nat) (pod : Nat) (idx : Nat) :
    (partWorn kind pod idx s).hed = s.hed := by
  unfold partWorn; split
  · rfl
  · simp only []; split
    · simp
    · split <;> simp
@[simp] theorem partWorn_conv (kind : Nat) (pod : Nat) (idx : Nat) :
    (partWorn kind pod idx s).conv = s.conv := by
  unfold partWorn; split
  · rfl
  · simp only []; split
    · simp
    · split <;> simp
@[simp] theorem partWorn_filt (kind : Nat) (pod : Nat) (idx : Nat) :
    (partWorn kind pod idx s).filt = s.filt := by
  unfold partWorn; split
  · rfl
  · simp only []; split
    · simp
    · split <;> simp
@[simp] theorem partWorn_warp (kind : Nat) (pod : Nat) (idx : Nat) :
    (partWorn kind pod idx s).warp = s.warp := by
  unfold partWorn; split
  · rfl
  · simp only []; split
    · simp
    · split <;> simp
@[simp] theorem partWorn_cal (kind : Nat) (pod : Nat) (idx : Nat) :
    (partWorn kind pod idx s).cal = s.cal := by
  unfold partWorn; split
  · rfl
  · simp only []; split
    · simp
    · split <;> simp
@[simp] theorem partWorn_trd (kind : Nat) (pod : Nat) (idx : Nat) :
    (partWorn kind pod idx s).trd = s.trd := by
  unfold partWorn; split
  · rfl
  · simp only []; split
    · simp
    · split <;> simp
@[simp] theorem partWorn_drv (kind : Nat) (pod : Nat) (idx : Nat) :
    (partWorn kind pod idx s).drv = s.drv := by
  unfold partWorn; split
  · rfl
  · simp only []; split
    · simp
    · split <;> simp
@[simp] theorem partWorn_win (kind : Nat) (pod : Nat) (idx : Nat) :
    (partWorn kind pod idx s).win = s.win := by
  unfold partWorn; split
  · rfl
  · simp only []; split
    · simp
    · split <;> simp
@[simp] theorem partWorn_free (kind : Nat) (pod : Nat) (idx : Nat) :
    (partWorn kind pod idx s).free = s.free := by
  unfold partWorn; split
  · rfl
  · simp only []; split
    · simp
    · split <;> simp
@[simp] theorem partWorn_sh_mail (kind : Nat) (pod : Nat) (idx : Nat) :
    (partWorn kind pod idx s).sh.mail = s.sh.mail := by
  unfold partWorn; split
  · rfl
  · simp only []; split
    · simp
    · split <;> simp
@[simp] theorem partWorn_sh_taken (kind : Nat) (pod : Nat) (idx : Nat) :
    (partWorn kind pod idx s).sh.taken = s.sh.taken := by
  unfold partWorn; split
  · rfl
  · simp only []; split
    · simp
    · split <;> simp
@[simp] theorem partWorn_sh_lock (kind : Nat) (pod : Nat) (idx : Nat) :
    (partWorn kind pod idx s).sh.lock = s.sh.lock := by
  unfold partWorn; split
  · rfl
  · simp only []; split
    · simp
    · split <;> simp
@[simp] theorem partWorn_sh_work (kind : Nat) (pod : Nat) (idx : Nat) :
    (partWorn kind pod idx s).sh.work = s.sh.work := by
  unfold partWorn; split
  · rfl
  · simp only []; split
    · simp
    · split <;> simp
@[simp] theorem partWorn_sh_jobs (kind : Nat) (pod : Nat) (idx : Nat) :
    (partWorn kind pod idx s).sh.jobs = s.sh.jobs := by
  unfold partWorn; split
  · rfl
  · simp only []; split
    · simp
    · split <;> simp
@[simp] theorem partWorn_sh_lastJob (kind : Nat) (pod : Nat) (idx : Nat) :
    (partWorn kind pod idx s).sh.lastJob = s.sh.lastJob := by
  unfold partWorn; split
  · rfl
  · simp only []; split
    · simp
    · split <;> simp
@[simp] theorem partWorn_sh_counters (kind : Nat) (pod : Nat) (idx : Nat) :
    (partWorn kind pod idx s).sh.counters = s.sh.counters := by
  unfold partWorn; split
  · rfl
  · simp only []; split
    · simp
    · split <;> simp
@[simp] theorem partWorn_sh_nIrqLow (kind : Nat) (pod : Nat) (idx : Nat) :
    (partWorn kind pod idx s).sh.nIrqLow = s.sh.nIrqLow := by
  unfold partWorn; split
  · rfl
  · simp only []; split
    · simp
    · split <;> simp
@[simp] theorem partWorn_weft_streams (kind : Nat) (pod : Nat) (idx : Nat) :
    (partWorn kind pod idx s).weft.streams = s.weft.streams := by
  unfold partWorn; split
  · rfl
  · simp only []; split
    · simp
    · split <;> simp
@[simp] theorem partWorn_weft_opened (kind : Nat) (pod : Nat) (idx : Nat) :
    (partWorn kind pod idx s).weft.opened = s.weft.opened := by
  unfold partWorn; split
  · rfl
  · simp only []; split
    · simp
    · split <;> simp
@[simp] theorem partWorn_weft_pool (kind : Nat) (pod : Nat) (idx : Nat) :
    (partWorn kind pod idx s).weft.pool = s.weft.pool := by
  unfold partWorn; split
  · rfl
  · simp only []; split
    · simp
    · split <;> simp
@[simp] theorem partWorn_weft_highFill (kind : Nat) (pod : Nat) (idx : Nat) :
    (partWorn kind pod idx s).weft.highFill = s.weft.highFill := by
  unfold partWorn; split
  · rfl
  · simp only []; split
    · simp
    · split <;> simp
@[simp] theorem partWorn_weft_releases (kind : Nat) (pod : Nat) (idx : Nat) :
    (partWorn kind pod idx s).weft.releases = s.weft.releases := by
  unfold partWorn; split
  · rfl
  · simp only []; split
    · simp
    · split <;> simp
@[simp] theorem partWorn_weft_gapNotices (kind : Nat) (pod : Nat) (idx : Nat) :
    (partWorn kind pod idx s).weft.gapNotices = s.weft.gapNotices := by
  unfold partWorn; split
  · rfl
  · simp only []; split
    · simp
    · split <;> simp
@[simp] theorem partWorn_weft_lastRelease (kind : Nat) (pod : Nat) (idx : Nat) :
    (partWorn kind pod idx s).weft.lastRelease = s.weft.lastRelease := by
  unfold partWorn; split
  · rfl
  · simp only []; split
    · simp
    · split <;> simp
@[simp] theorem partWorn_itg_corrected (kind : Nat) (pod : Nat) (idx : Nat) :
    (partWorn kind pod idx s).itg.corrected = s.itg.corrected := by
  unfold partWorn; split
  · rfl
  · simp only []; split
    · simp
    · split <;> simp
@[simp] theorem partWorn_itg_uncorrectable (kind : Nat) (pod : Nat) (idx : Nat) :
    (partWorn kind pod idx s).itg.uncorrectable = s.itg.uncorrectable := by
  unfold partWorn; split
  · rfl
  · simp only []; split
    · simp
    · split <;> simp
@[simp] theorem partWorn_itg_passes (kind : Nat) (pod : Nat) (idx : Nat) :
    (partWorn kind pod idx s).itg.passes = s.itg.passes := by
  unfold partWorn; split
  · rfl
  · simp only []; split
    · simp
    · split <;> simp
@[simp] theorem partWorn_itg_lastPass (kind : Nat) (pod : Nat) (idx : Nat) :
    (partWorn kind pod idx s).itg.lastPass = s.itg.lastPass := by
  unfold partWorn; split
  · rfl
  · simp only []; split
    · simp
    · split <;> simp
@[simp] theorem partWorn_itg_passFrom (kind : Nat) (pod : Nat) (idx : Nat) :
    (partWorn kind pod idx s).itg.passFrom = s.itg.passFrom := by
  unfold partWorn; split
  · rfl
  · simp only []; split
    · simp
    · split <;> simp
@[simp] theorem partWorn_itg_lastBad (kind : Nat) (pod : Nat) (idx : Nat) :
    (partWorn kind pod idx s).itg.lastBad = s.itg.lastBad := by
  unfold partWorn; split
  · rfl
  · simp only []; split
    · simp
    · split <;> simp
@[simp] theorem partWorn_itg_rows (kind : Nat) (pod : Nat) (idx : Nat) :
    (partWorn kind pod idx s).itg.rows = s.itg.rows := by
  unfold partWorn; split
  · rfl
  · simp only []; split
    · simp
    · split <;> simp
@[simp] theorem partWorn_itg_husks (kind : Nat) (pod : Nat) (idx : Nat) :
    (partWorn kind pod idx s).itg.husks = s.itg.husks := by
  unfold partWorn; split
  · rfl
  · simp only []; split
    · simp
    · split <;> simp
@[simp] theorem partWorn_itg_svRepeats (kind : Nat) (pod : Nat) (idx : Nat) :
    (partWorn kind pod idx s).itg.svRepeats = s.itg.svRepeats := by
  unfold partWorn; split
  · rfl
  · simp only []; split
    · simp
    · split <;> simp
@[simp] theorem partWorn_itg_svMissing (kind : Nat) (pod : Nat) (idx : Nat) :
    (partWorn kind pod idx s).itg.svMissing = s.itg.svMissing := by
  unfold partWorn; split
  · rfl
  · simp only []; split
    · simp
    · split <;> simp
@[simp] theorem partWorn_itg_svStale (kind : Nat) (pod : Nat) (idx : Nat) :
    (partWorn kind pod idx s).itg.svStale = s.itg.svStale := by
  unfold partWorn; split
  · rfl
  · simp only []; split
    · simp
    · split <;> simp
@[simp] theorem partWorn_itg_mismatches (kind : Nat) (pod : Nat) (idx : Nat) :
    (partWorn kind pod idx s).itg.mismatches = s.itg.mismatches := by
  unfold partWorn; split
  · rfl
  · simp only []; split
    · simp
    · split <;> simp
@[simp] theorem partWorn_itg_words (kind : Nat) (pod : Nat) (idx : Nat) :
    (partWorn kind pod idx s).itg.words = s.itg.words := by
  unfold partWorn; split
  · rfl
  · simp only []; split
    · simp
    · split <;> simp
@[simp] theorem partWorn_itg_rowCount (kind : Nat) (pod : Nat) (idx : Nat) :
    (partWorn kind pod idx s).itg.rowCount = s.itg.rowCount := by
  unfold partWorn; split
  · rfl
  · simp only []; split
    · simp
    · split <;> simp
@[simp] theorem partWorn_itg_rowsTold (kind : Nat) (pod : Nat) (idx : Nat) :
    (partWorn kind pod idx s).itg.rowsTold = s.itg.rowsTold := by
  unfold partWorn; split
  · rfl
  · simp only []; split
    · simp
    · split <;> simp

@[simp] theorem reportRow_pending (row : Nat) : (reportRow row s).pending = s.pending := by simp [reportRow]
@[simp] theorem reportRow_clk (row : Nat) : (reportRow row s).clk = s.clk := by simp [reportRow]
@[simp] theorem reportRow_hub (row : Nat) : (reportRow row s).hub = s.hub := by simp [reportRow]
@[simp] theorem reportRow_hed (row : Nat) : (reportRow row s).hed = s.hed := by simp [reportRow]
@[simp] theorem reportRow_conv (row : Nat) : (reportRow row s).conv = s.conv := by simp [reportRow]
@[simp] theorem reportRow_filt (row : Nat) : (reportRow row s).filt = s.filt := by simp [reportRow]
@[simp] theorem reportRow_warp (row : Nat) : (reportRow row s).warp = s.warp := by simp [reportRow]
@[simp] theorem reportRow_cal (row : Nat) : (reportRow row s).cal = s.cal := by simp [reportRow]
@[simp] theorem reportRow_trd (row : Nat) : (reportRow row s).trd = s.trd := by simp [reportRow]
@[simp] theorem reportRow_drv (row : Nat) : (reportRow row s).drv = s.drv := by simp [reportRow]
@[simp] theorem reportRow_win (row : Nat) : (reportRow row s).win = s.win := by simp [reportRow]
@[simp] theorem reportRow_free (row : Nat) : (reportRow row s).free = s.free := by simp [reportRow]
@[simp] theorem reportRow_sh_mail (row : Nat) : (reportRow row s).sh.mail = s.sh.mail := by simp [reportRow]
@[simp] theorem reportRow_sh_taken (row : Nat) : (reportRow row s).sh.taken = s.sh.taken := by simp [reportRow]
@[simp] theorem reportRow_sh_lock (row : Nat) : (reportRow row s).sh.lock = s.sh.lock := by simp [reportRow]
@[simp] theorem reportRow_sh_work (row : Nat) : (reportRow row s).sh.work = s.sh.work := by simp [reportRow]
@[simp] theorem reportRow_sh_jobs (row : Nat) : (reportRow row s).sh.jobs = s.sh.jobs := by simp [reportRow]
@[simp] theorem reportRow_sh_lastJob (row : Nat) : (reportRow row s).sh.lastJob = s.sh.lastJob := by simp [reportRow]
@[simp] theorem reportRow_sh_counters (row : Nat) : (reportRow row s).sh.counters = s.sh.counters := by simp [reportRow]
@[simp] theorem reportRow_sh_nIrqLow (row : Nat) : (reportRow row s).sh.nIrqLow = s.sh.nIrqLow := by simp [reportRow]
@[simp] theorem reportRow_weft_streams (row : Nat) : (reportRow row s).weft.streams = s.weft.streams := by simp [reportRow]
@[simp] theorem reportRow_weft_opened (row : Nat) : (reportRow row s).weft.opened = s.weft.opened := by simp [reportRow]
@[simp] theorem reportRow_weft_pool (row : Nat) : (reportRow row s).weft.pool = s.weft.pool := by simp [reportRow]
@[simp] theorem reportRow_weft_highFill (row : Nat) : (reportRow row s).weft.highFill = s.weft.highFill := by simp [reportRow]
@[simp] theorem reportRow_weft_releases (row : Nat) : (reportRow row s).weft.releases = s.weft.releases := by simp [reportRow]
@[simp] theorem reportRow_weft_gapNotices (row : Nat) : (reportRow row s).weft.gapNotices = s.weft.gapNotices := by simp [reportRow]
@[simp] theorem reportRow_weft_lastRelease (row : Nat) : (reportRow row s).weft.lastRelease = s.weft.lastRelease := by simp [reportRow]
@[simp] theorem reportRow_itg_corrected (row : Nat) : (reportRow row s).itg.corrected = s.itg.corrected := by simp [reportRow]
@[simp] theorem reportRow_itg_uncorrectable (row : Nat) : (reportRow row s).itg.uncorrectable = s.itg.uncorrectable := by simp [reportRow]
@[simp] theorem reportRow_itg_passes (row : Nat) : (reportRow row s).itg.passes = s.itg.passes := by simp [reportRow]
@[simp] theorem reportRow_itg_lastPass (row : Nat) : (reportRow row s).itg.lastPass = s.itg.lastPass := by simp [reportRow]
@[simp] theorem reportRow_itg_passFrom (row : Nat) : (reportRow row s).itg.passFrom = s.itg.passFrom := by simp [reportRow]
@[simp] theorem reportRow_itg_lastBad (row : Nat) : (reportRow row s).itg.lastBad = s.itg.lastBad := by simp [reportRow]
@[simp] theorem reportRow_itg_husks (row : Nat) : (reportRow row s).itg.husks = s.itg.husks := by simp [reportRow]
@[simp] theorem reportRow_itg_svRepeats (row : Nat) : (reportRow row s).itg.svRepeats = s.itg.svRepeats := by simp [reportRow]
@[simp] theorem reportRow_itg_svMissing (row : Nat) : (reportRow row s).itg.svMissing = s.itg.svMissing := by simp [reportRow]
@[simp] theorem reportRow_itg_svStale (row : Nat) : (reportRow row s).itg.svStale = s.itg.svStale := by simp [reportRow]
@[simp] theorem reportRow_itg_mismatches (row : Nat) : (reportRow row s).itg.mismatches = s.itg.mismatches := by simp [reportRow]
@[simp] theorem reportRow_itg_words (row : Nat) : (reportRow row s).itg.words = s.itg.words := by simp [reportRow]
@[simp] theorem reportRow_itg_rowCount (row : Nat) : (reportRow row s).itg.rowCount = s.itg.rowCount := by simp [reportRow]

@[simp] theorem badCodeword_pending (index : Nat) : (badCodeword index s).pending = s.pending := by simp [badCodeword]
@[simp] theorem badCodeword_clk (index : Nat) : (badCodeword index s).clk = s.clk := by simp [badCodeword]
@[simp] theorem badCodeword_hub (index : Nat) : (badCodeword index s).hub = s.hub := by simp [badCodeword]
@[simp] theorem badCodeword_hed (index : Nat) : (badCodeword index s).hed = s.hed := by simp [badCodeword]
@[simp] theorem badCodeword_conv (index : Nat) : (badCodeword index s).conv = s.conv := by simp [badCodeword]
@[simp] theorem badCodeword_filt (index : Nat) : (badCodeword index s).filt = s.filt := by simp [badCodeword]
@[simp] theorem badCodeword_warp (index : Nat) : (badCodeword index s).warp = s.warp := by simp [badCodeword]
@[simp] theorem badCodeword_cal (index : Nat) : (badCodeword index s).cal = s.cal := by simp [badCodeword]
@[simp] theorem badCodeword_trd (index : Nat) : (badCodeword index s).trd = s.trd := by simp [badCodeword]
@[simp] theorem badCodeword_drv (index : Nat) : (badCodeword index s).drv = s.drv := by simp [badCodeword]
@[simp] theorem badCodeword_win (index : Nat) : (badCodeword index s).win = s.win := by simp [badCodeword]
@[simp] theorem badCodeword_free (index : Nat) : (badCodeword index s).free = s.free := by simp [badCodeword]
@[simp] theorem badCodeword_sh_mail (index : Nat) : (badCodeword index s).sh.mail = s.sh.mail := by simp [badCodeword]
@[simp] theorem badCodeword_sh_taken (index : Nat) : (badCodeword index s).sh.taken = s.sh.taken := by simp [badCodeword]
@[simp] theorem badCodeword_sh_lock (index : Nat) : (badCodeword index s).sh.lock = s.sh.lock := by simp [badCodeword]
@[simp] theorem badCodeword_sh_work (index : Nat) : (badCodeword index s).sh.work = s.sh.work := by simp [badCodeword]
@[simp] theorem badCodeword_sh_jobs (index : Nat) : (badCodeword index s).sh.jobs = s.sh.jobs := by simp [badCodeword]
@[simp] theorem badCodeword_sh_lastJob (index : Nat) : (badCodeword index s).sh.lastJob = s.sh.lastJob := by simp [badCodeword]
@[simp] theorem badCodeword_sh_counters (index : Nat) : (badCodeword index s).sh.counters = s.sh.counters := by simp [badCodeword]
@[simp] theorem badCodeword_sh_nIrqLow (index : Nat) : (badCodeword index s).sh.nIrqLow = s.sh.nIrqLow := by simp [badCodeword]
@[simp] theorem badCodeword_weft_streams (index : Nat) : (badCodeword index s).weft.streams = s.weft.streams := by simp [badCodeword]
@[simp] theorem badCodeword_weft_opened (index : Nat) : (badCodeword index s).weft.opened = s.weft.opened := by simp [badCodeword]
@[simp] theorem badCodeword_weft_pool (index : Nat) : (badCodeword index s).weft.pool = s.weft.pool := by simp [badCodeword]
@[simp] theorem badCodeword_weft_highFill (index : Nat) : (badCodeword index s).weft.highFill = s.weft.highFill := by simp [badCodeword]
@[simp] theorem badCodeword_weft_releases (index : Nat) : (badCodeword index s).weft.releases = s.weft.releases := by simp [badCodeword]
@[simp] theorem badCodeword_weft_gapNotices (index : Nat) : (badCodeword index s).weft.gapNotices = s.weft.gapNotices := by simp [badCodeword]
@[simp] theorem badCodeword_weft_lastRelease (index : Nat) : (badCodeword index s).weft.lastRelease = s.weft.lastRelease := by simp [badCodeword]
@[simp] theorem badCodeword_itg_corrected (index : Nat) : (badCodeword index s).itg.corrected = s.itg.corrected := by simp [badCodeword]
@[simp] theorem badCodeword_itg_passes (index : Nat) : (badCodeword index s).itg.passes = s.itg.passes := by simp [badCodeword]
@[simp] theorem badCodeword_itg_lastPass (index : Nat) : (badCodeword index s).itg.lastPass = s.itg.lastPass := by simp [badCodeword]
@[simp] theorem badCodeword_itg_passFrom (index : Nat) : (badCodeword index s).itg.passFrom = s.itg.passFrom := by simp [badCodeword]
@[simp] theorem badCodeword_itg_husks (index : Nat) : (badCodeword index s).itg.husks = s.itg.husks := by simp [badCodeword]
@[simp] theorem badCodeword_itg_svRepeats (index : Nat) : (badCodeword index s).itg.svRepeats = s.itg.svRepeats := by simp [badCodeword]
@[simp] theorem badCodeword_itg_svMissing (index : Nat) : (badCodeword index s).itg.svMissing = s.itg.svMissing := by simp [badCodeword]
@[simp] theorem badCodeword_itg_svStale (index : Nat) : (badCodeword index s).itg.svStale = s.itg.svStale := by simp [badCodeword]
@[simp] theorem badCodeword_itg_mismatches (index : Nat) : (badCodeword index s).itg.mismatches = s.itg.mismatches := by simp [badCodeword]
@[simp] theorem badCodeword_itg_words (index : Nat) : (badCodeword index s).itg.words = s.itg.words := by simp [badCodeword]
@[simp] theorem badCodeword_itg_rowCount (index : Nat) : (badCodeword index s).itg.rowCount = s.itg.rowCount := by simp [badCodeword]

end Sys2Proof.Machine
end

