-- ==== Sys2Proof/Laws/Tab.lean ====
section
/-! SUPPORT. Sparse tables: a read after a write, and the canonical form that every operation keeps. The parameter
memories follow. -/

namespace Sys2Proof.Machine

variable {α : Type} [Inhabited α] [DecidableEq α]

omit [DecidableEq α] in
@[simp] theorem Tab.get_nil (k : Nat) : Tab.get ([] : Tab α) k = default := rfl

omit [DecidableEq α] in
/-- An index erased reads as the default, -/
@[simp] theorem Tab.get_erase_same (m : Tab α) (k : Nat) : Tab.get (Tab.erase m k) k = default := by
  induction m with
  | nil => rfl
  | cons e r ih =>
    obtain ⟨i, w⟩ := e
    by_cases h : k = i <;> simp [Tab.erase, Tab.get, h] <;> simpa [h] using ih

omit [DecidableEq α] in
/-- and every other index as before. -/
@[simp] theorem Tab.get_erase_other (m : Tab α) {k j : Nat} (h : j ≠ k) :
    Tab.get (Tab.erase m k) j = Tab.get m j := by
  induction m with
  | nil => rfl
  | cons e r ih =>
    obtain ⟨i, w⟩ := e
    by_cases hk : k = i
    · subst hk
      simp [Tab.erase, Tab.get, h, ih]
    · simp [Tab.erase, Tab.get, hk, ih]

/-- A read at the index written gives the value written. -/
@[simp] theorem Tab.get_set_same (m : Tab α) (k : Nat) (v : α) : (m.set k v).get k = v := by
  induction m with
  | nil => by_cases hv : v = default <;> simp [Tab.set, Tab.get, hv]
  | cons e r ih =>
    obtain ⟨i, w⟩ := e
    simp only [Tab.set]
    split
    · split
      · subst_vars; exact Tab.get_erase_same _ k
      · simp [Tab.get]
    · split
      · split
        · subst_vars; exact Tab.get_erase_same _ _
        · simp [Tab.get]
      · rename_i h
        simp [Tab.get, h, ih]

/-- A read at another index gives what it gave before. -/
@[simp] theorem Tab.get_set_other (m : Tab α) {k j : Nat} (v : α) (h : j ≠ k) : (m.set k v).get j = m.get j := by
  induction m with
  | nil => by_cases hv : v = default <;> simp [Tab.set, Tab.get, hv, h]
  | cons e r ih =>
    obtain ⟨i, w⟩ := e
    simp only [Tab.set]
    split
    · split
      · exact Tab.get_erase_other _ h
      · simp [Tab.get, h]
    · split
      · subst_vars
        split <;> simp [Tab.get, h]
      · simp [Tab.get, ih]

/-- Raising the bound weakens nothing that holds above a lower one. -/
theorem Tab.wfFrom_mono (m : Tab α) {a b : Nat} (h : a ≤ b) (hb : m.wfFrom b = true) : m.wfFrom a = true := by
  cases m with
  | nil => rfl
  | cons e r =>
    obtain ⟨i, w⟩ := e
    simp only [Tab.wfFrom, Bool.and_eq_true, decide_eq_true_eq] at hb ⊢
    exact ⟨⟨by omega, hb.1.2⟩, hb.2⟩

/-- Erasing below what a table lists changes nothing. -/
theorem Tab.erase_low (m : Tab α) {k b : Nat} (h : k < b) (hb : m.wfFrom b = true) : Tab.erase m k = m := by
  induction m generalizing b with
  | nil => rfl
  | cons e r ih =>
    obtain ⟨i, w⟩ := e
    simp only [Tab.wfFrom, Bool.and_eq_true, decide_eq_true_eq] at hb
    have hne : k ≠ i := by omega
    simp [Tab.erase, hne, ih (b := i + 1) (by omega) hb.2]

theorem Tab.wfFrom_set (m : Tab α) (k : Nat) (v : α) (b : Nat) (hk : b ≤ k) (h : m.wfFrom b = true) :
    (m.set k v).wfFrom b = true := by
  induction m generalizing b with
  | nil => by_cases hv : v = default <;> simp [Tab.set, Tab.wfFrom, hv, hk]
  | cons e r ih =>
    obtain ⟨i, w⟩ := e
    have h0 := h
    simp only [Tab.wfFrom, Bool.and_eq_true, decide_eq_true_eq] at h
    obtain ⟨⟨h1, h2⟩, h3⟩ := h
    simp only [Tab.set]
    split
    · split
      · rename_i hlt _
        rw [Tab.erase_low (b := i) _ hlt (by simp [Tab.wfFrom, h2, h3])]
        exact h0
      · rename_i hlt hv
        simp [Tab.wfFrom, hk, hv, h2, h3, Nat.succ_le_of_lt hlt]
    · split
      · split
        · rename_i _ he _
          subst he
          rw [Tab.erase_low r (Nat.lt_succ_self k) h3]
          exact Tab.wfFrom_mono r (by omega) h3
        · rename_i _ he hv
          subst he
          simp [Tab.wfFrom, hk, hv, h3]
      · rename_i hlt hne
        simp only [Tab.wfFrom, Bool.and_eq_true, decide_eq_true_eq]
        exact ⟨⟨h1, h2⟩, ih (i + 1) (by omega) h3⟩

/-- A write keeps the canonical form. -/
@[simp] theorem Tab.wf_set (m : Tab α) (k : Nat) (v : α) (h : m.wf = true) : (m.set k v).wf = true :=
  Tab.wfFrom_set m k v 0 (Nat.zero_le k) h

/-- A change at an index keeps the canonical form. -/
@[simp] theorem Tab.wf_upd (m : Tab α) (k : Nat) (f : α → α) (h : m.wf = true) : (m.upd k f).wf = true :=
  Tab.wf_set m k _ h

/-- A change at an index changes the value there, -/
@[simp] theorem Tab.get_upd_same (m : Tab α) (k : Nat) (f : α → α) : (m.upd k f).get k = f (m.get k) :=
  Tab.get_set_same m k _

/-- and no other. -/
@[simp] theorem Tab.get_upd_other (m : Tab α) {k j : Nat} (f : α → α) (h : j ≠ k) : (m.upd k f).get j = m.get j :=
  Tab.get_set_other m _ h

/-- Storing a list of values keeps the canonical form. -/
@[simp] theorem Tab.wf_setList (l : List α) (m : Tab α) (k : Nat) (h : m.wf = true) : (m.setList k l).wf = true := by
  induction l generalizing m k with
  | nil => exact h
  | cons v r ih => exact ih (m.set k v) (k + 1) (Tab.wf_set m k v h)

/-- The empty table is canonical. -/
@[simp] theorem Tab.wf_nil : Tab.wf ([] : Tab α) = true := rfl

/-- A word stored in a configuration is the word read there. -/
@[simp] theorem PMem.word_put_same (m : PMem) (b o : Nat) (w : Word) (ho : o < 65536) :
    (m.put (pkey b o) w).word b o = w := by
  have h1 : pkey b o / 65536 = b := by unfold pkey; omega
  have h2 : pkey b o % 65536 = o := by unfold pkey; omega
  simp only [PMem.put, PMem.word, h1, h2, Tab.get_set_same m (pkey b o) _]
  rw [BitVec.xor_comm w, ← BitVec.xor_assoc, BitVec.xor_self, BitVec.zero_xor]

/-- A word stored in a configuration leaves every other word. -/
@[simp] theorem PMem.word_put_other (m : PMem) (key b o : Nat) (w : Word) (h : pkey b o ≠ key) :
    (m.put key w).word b o = m.word b o := by
  simp only [PMem.put, PMem.word, Tab.get_set_other m _ h]

/-- A word stored keeps the canonical form of a configuration. -/
@[simp] theorem PMem.wf_put (m : PMem) (key : Nat) (w : Word) (h : Tab.wf m = true) : Tab.wf (m.put key w) = true :=
  Tab.wf_set m key _ h

/-- Several words stored keep the canonical form of a configuration. -/
@[simp] theorem PMem.wf_putAll (ws : List (Nat × Word)) (m : PMem) (h : Tab.wf m = true) :
    Tab.wf (m.putAll ws) = true := by
  induction ws generalizing m with
  | nil => exact h
  | cons kw r ih => exact ih (m.put kw.1 kw.2) (PMem.wf_put m kw.1 kw.2 h)

end Sys2Proof.Machine
end

