-- ==== Sys2Proof/Laws/Inv.lean ====
section
/-! SUPPORT. The invariant: how a change of State keeps it, and that the shared operations do. -/

namespace Sys2Proof.Machine

/-- A change of State keeps the invariant where each of the four parts does; the other fields do not matter. -/
theorem State.Inv.update {s : State} (h : s.Inv) {clk : Clocks} {hub : Hub} {sh : Shuttle} {cfg : Cfg} {hed : Heddle}
    {conv : Conv} {filt : Filt} {warp : Warp} {cal : Cal} {trd : Treadle} {drv : Drive} {weft : Weft} {win : Winnow}
    {itg : Integ} {pair : Pair} {pow : Power} {wire : List Emission} {free : Nat}
    (h1 : ShOk s.sh → ShOk sh) (h2 : CfgOk s.cfg → CfgOk cfg) (h3 : DrvOk s.drv → DrvOk drv)
    (h4 : WeftOk s.weft → WeftOk weft) :
    (State.mk s.pending clk hub sh cfg hed conv filt warp cal trd drv weft win itg pair pow wire free).Inv :=
  ⟨h1 h.sh, h2 h.cfg, h3 h.drv, h4 h.weft⟩

/-- The same over any queue. -/
theorem State.Inv.queue {s : State} (h : s.Inv) (q : List Instr) : State.Inv { s with pending := q } :=
  ⟨h.sh, h.cfg, h.drv, h.weft⟩

/-- A fold of changes that keep the invariant keeps it. -/
theorem foldl_keeps {α : Type} (f : State → α → State) (hf : ∀ (s : State) (x : α), s.Inv → (f s x).Inv) (l : List α)
    {s : State} (h : s.Inv) : (l.foldl f s).Inv := by
  induction l generalizing s with
  | nil => exact h
  | cons x r ih => exact ih (hf s x h)

/-- The same for a fold that carries something beside the state. -/
theorem foldl_keeps_snd {α β : Type} (f : β × State → α → β × State)
    (hf : ∀ (p : β × State) (x : α), p.2.Inv → (f p x).2.Inv) (l : List α) {p : β × State} (h : p.2.Inv) :
    (l.foldl f p).2.Inv := by
  induction l generalizing p with
  | nil => exact h
  | cons x r ih => exact ih (hf p x h)

theorem foldl_keeps_fst {α β : Type} (f : State × β → α → State × β)
    (hf : ∀ (p : State × β) (x : α), p.1.Inv → (f p x).1.Inv) (l : List α) {p : State × β} (h : p.1.Inv) :
    (l.foldl f p).1.Inv := by
  induction l generalizing p with
  | nil => exact h
  | cons x r ih => exact ih (hf p x h)

/-- The state of a pair, taken apart. -/
theorem snd_keeps {β : Type} {p : β × State} {b : β} {s : State} (e : p = (b, s)) (h : p.2.Inv) : s.Inv := by
  rw [e] at h; exact h

theorem fst_keeps {β : Type} {p : State × β} {b : β} {s : State} (e : p = (s, b)) (h : p.1.Inv) : s.Inv := by
  rw [e] at h; exact h

/-- Parts of Shuttle that the invariant does not bound may change. -/
theorem ShOk.update {x : Shuttle} (h : ShOk x) {taken : List Req} {lock : Option Nat} {jobs : List (Nat × Job)}
    {lastJob nextEvent : Nat} {counters : Tab Nat} {alarms : List Nat} :
    ShOk { x with taken, lock, jobs, lastJob, nextEvent, counters, alarms } :=
  ⟨h.log, h.irq, h.work⟩

/-- Every record of a mailbox but its claim and unread response may change. -/
theorem irqDue_upd (x : Shuttle) (mb : Nat) (f : Mailbox → Mailbox) (hc : ∀ m, (f m).claim = m.claim)
    (hu : ∀ m, (f m).unread = m.unread) : Shuttle.irqDue { x with mail := x.mail.upd mb f } = x.irqDue := by
  unfold Shuttle.irqDue
  congr 1
  funext n
  by_cases hn : n = mb
  · subst hn; simp [hc, hu]
  · simp [hn]

/-- A change of a stimulus table that keeps its bytes canonical keeps all tables so. -/
theorem tables_upd {x : Tab Table} (h : ∀ k, Tab.wf (x.get k).bytes = true) (k : Nat) (f : Table → Table)
    (hf : ∀ y : Table, Tab.wf y.bytes = true → Tab.wf (f y).bytes = true) (j : Nat) :
    Tab.wf ((x.upd k f).get j).bytes = true := by
  by_cases hj : j = k
  · subst hj; simpa using hf _ (h j)
  · simpa [hj] using h j

/-- The same over a list of tables. -/
theorem tables_foldl {f : Table → Table} (hf : ∀ y : Table, Tab.wf y.bytes = true → Tab.wf (f y).bytes = true)
    (l : List Nat) {x : Tab Table} (h : ∀ k, Tab.wf (x.get k).bytes = true) (j : Nat) :
    Tab.wf ((l.foldl (fun (t : Tab Table) k => t.upd k f) x).get j).bytes = true := by
  induction l generalizing x with
  | nil => exact h j
  | cons k r ih => exact ih (tables_upd h k f hf)

/-- A fold of stores keeps a parameter memory canonical. -/
theorem wf_foldl {α : Type} {f : PMem → α → PMem} (hf : ∀ m x, Tab.wf m = true → Tab.wf (f m x) = true) (l : List α)
    {m : PMem} (h : Tab.wf m = true) : Tab.wf (l.foldl f m) = true := by
  induction l generalizing m with
  | nil => exact h
  | cons x r ih => exact ih (hf m x h)

/-- The pin set from the mailboxes. -/
theorem irq_ok {x : Shuttle} (hl : x.log.length ≤ 4096) (hw : ∀ w, x.work = some w → Tab.wf w.words = true) :
    ShOk { x with nIrqLow := x.irqDue } :=
  ⟨hl, rfl, hw⟩

theorem irq_mail_keeps {s : State} (h : s.Inv) (mail : Tab Mailbox) :
    (irq { s with sh := { s.sh with mail } }).Inv :=
  ⟨irq_ok h.sh.log h.sh.work, h.cfg, h.drv, h.weft⟩

theorem irq_mailUpd_keeps {s : State} (h : s.Inv) (mb : Nat) (f : Mailbox → Mailbox) : (irq (mailUpd mb f s)).Inv :=
  irq_mail_keeps h _

theorem act_keeps {t : Nat} {s : State} {f : State → State} (hf : (f (tick t s)).Inv) {s' : State}
    (e : act t s f = .next s') : s'.Inv := by
  cases e
  exact ⟨hf.sh, hf.cfg, hf.drv, hf.weft⟩

theorem tick_keeps {s : State} (h : s.Inv) (t : Nat) : (tick t s).Inv := ⟨h.sh, h.cfg, h.drv, h.weft⟩

/-- A log that has caught up keeps its bound (R77, R456). -/
theorem caughtUp_log {x : Shuttle} (h : x.log.length ≤ 4096) (now beat : Nat) : (x.caughtUp now beat).log.length ≤ 4096 := by
  unfold Shuttle.caughtUp
  split
  · exact h
  · exact List.length_take_le _ _

theorem logEvent_keeps {s : State} (h : s.Inv) (reason source detail : Nat) :
    (logEvent reason source detail s).Inv :=
  ⟨⟨List.length_take_le _ _, h.sh.irq, h.sh.work⟩, h.cfg, h.drv, h.weft⟩

theorem formNotice_keeps {s : State} (h : s.Inv) (late : Bool) (p : Nat) : (formNotice late p s).Inv := by
  unfold formNotice
  extract_lets
  split
  · exact h
  · exact ⟨h.sh, h.cfg, h.drv, ⟨h.weft.notices⟩⟩

theorem addNotice_keeps {s : State} (h : s.Inv) (n : Notice) : (addNotice n s).Inv := by
  unfold addNotice
  extract_lets
  apply formNotice_keeps
  apply formNotice_keeps
  exact ⟨h.sh, h.cfg, h.drv, ⟨List.length_take_le _ _⟩⟩

theorem alarmNotice_keeps {s : State} (h : s.Inv) (onset : Bool) (code part reason : Nat) :
    (alarmNotice onset code part reason s).Inv := addNotice_keeps h _

theorem takeReq_keeps {s : State} (h : s.Inv) (rq : Req) : (takeReq rq s).Inv := by
  unfold takeReq
  split
  · exact h
  · exact irq_mailUpd_keeps h _ _

theorem deliver_keeps {s : State} (h : s.Inv) (src : Requester) (port mb : Nat) (bytes : Bytes) :
    (deliver src port mb bytes s).Inv := by
  unfold deliver
  split
  · exact ⟨h.sh, h.cfg, h.drv, ⟨h.weft.notices⟩⟩
  · exact irq_mailUpd_keeps h _ _

theorem finish_keeps {s : State} (h : s.Inv) (rq : Req) (status reason : Nat) (payload : Bytes) :
    (finish rq status reason payload s).Inv := by
  unfold finish
  apply deliver_keeps
  refine ⟨⟨h.sh.log, ?_, h.sh.work⟩, h.cfg, h.drv, h.weft⟩
  refine h.sh.irq.trans (irqDue_upd s.sh rq.mb _ ?_ ?_).symm
  · intro m; split <;> rfl
  · intro m; split <;> rfl

theorem tableUpd_keeps {s : State} (h : s.Inv) (k : Nat) (f : Table → Table)
    (hf : ∀ y : Table, Tab.wf y.bytes = true → Tab.wf (f y).bytes = true) : (tableUpd k f s).Inv :=
  ⟨h.sh, h.cfg, ⟨h.drv.staging, tables_upd h.drv.tables k f hf⟩, h.weft⟩

theorem staged_keeps {s : State} (h : s.Inv) (staged : List Staged) (seq : Nat) :
    State.Inv { s with cfg := { s.cfg with staged, seq } } :=
  ⟨h.sh, ⟨h.cfg.force, h.cfg.active, h.cfg.copyA, h.cfg.copyB, h.cfg.writes⟩, h.drv, h.weft⟩

/-- The writes of a slot that run keep canonical copies beneath them (R69). -/
theorem slotWrite_ok (k bound now : Nat) (toB : Bool) {before : Copy} {l : List (SlotWrite Copy)} (hb : Tab.wf before.words = true)
    (h : ∀ w ∈ l, Tab.wf w.before.words = true) :
    ∀ w ∈ slotWrite k bound now toB before l, Tab.wf w.before.words = true := by
  intro w hw
  rcases List.mem_append.mp hw with hw | hw
  · exact h w (List.mem_of_mem_filter hw)
  · cases List.mem_singleton.mp hw
    exact hb

/-- What a loss of power leaves in a slot is canonical (R69). -/
theorem tornSlot_ok {invalid : Copy → Copy} (hi : ∀ c, (invalid c).words = c.words) (now : Nat) (toB : Bool) {c : Copy}
    {l : List (SlotWrite Copy)} (hc : Tab.wf c.words = true) (h : ∀ w ∈ l, Tab.wf w.before.words = true) :
    Tab.wf (tornSlot invalid now toB c l).words = true := by
  unfold tornSlot
  split
  · rename_i w e
    split
    · rw [hi]; exact hc
    · exact h w (List.mem_of_find?_eq_some e)
  · exact hc

/-- The hub's own fields may change. -/
theorem hub_keeps {s : State} (h : s.Inv) (hub : Hub) : State.Inv { s with hub } := ⟨h.sh, h.cfg, h.drv, h.weft⟩

theorem endClaim_irq_keeps {s : State} (h : s.Inv) (mb : Nat) :
    (irq { s with sh := { s.sh with mail := s.sh.mail.set mb {} } }).Inv := irq_mail_keeps h _

end Sys2Proof.Machine
end

