-- ==== Sys2Proof/Laws/KeepsOps.lean ====
section
/-! SUPPORT. The invariant through the shared operations and Shuttle: one lemma per operation. -/

namespace Sys2Proof.Machine

theorem nextFree_keeps {s : State} (h : s.Inv) : (nextFree s).2.Inv := ⟨h.sh, h.cfg, h.drv, h.weft⟩

theorem crossUpd_keeps {s : State} (h : s.Inv) (x : Nat) (f : Crossing → Crossing) : (crossUpd x f s).Inv :=
    ⟨h.sh, h.cfg, h.drv, h.weft⟩

theorem shakeEvent_keeps {s : State} (h : s.Inv) (x src : Nat) : (shakeEvent x src s).Inv :=
    ⟨h.sh, h.cfg, h.drv, h.weft⟩

theorem logXi_keeps {s : State} (h : s.Inv) : (logXi s).Inv :=
    ⟨⟨caughtUp_log h.sh.log _ _, h.sh.irq, h.sh.work⟩, h.cfg, h.drv, h.weft⟩

theorem endXi_keeps {s : State} (h : s.Inv) : (endXi s).Inv := by
  unfold endXi
  repeat' first
    | with_reducible exact ⟨hh.force, hh.active, hh.copyA, hh.copyB, hh.writes⟩
    | with_reducible exact ⟨hh.staging, hh.tables⟩
    | with_reducible exact ⟨hh.notices⟩
    | exact ⟨hh.log, hh.irq, hh.work⟩
    | (with_reducible refine State.Inv.update ?_ (fun hh => ?_) (fun hh => ?_) (fun hh => ?_) (fun hh => ?_)
       first
         | with_reducible assumption
         | with_reducible apply logXi_keeps)

theorem holdFrame_keeps {s : State} (h : s.Inv) (port : Nat) (i : Instr) : (holdFrame port i s).Inv := by
  unfold holdFrame
  repeat' first
    | with_reducible apply crossUpd_keeps
    | split
    | with_reducible exact ⟨hh.force, hh.active, hh.copyA, hh.copyB, hh.writes⟩
    | with_reducible exact ⟨hh.staging, hh.tables⟩
    | with_reducible exact ⟨hh.notices⟩
    | exact ⟨hh.log, hh.irq, hh.work⟩
    | (with_reducible refine State.Inv.update ?_ (fun hh => ?_) (fun hh => ?_) (fun hh => ?_) (fun hh => ?_)
       first
         | with_reducible assumption)

theorem unitHolds_keeps {s : State} (h : s.Inv) (u v : Nat) : (unitHolds u v s).Inv :=
    ⟨h.sh, h.cfg, h.drv, h.weft⟩

theorem unitChecks_keeps {s : State} (h : s.Inv) (u : Nat) (m : Bytes) : (unitChecks u m s).Inv :=
    ⟨h.sh, h.cfg, h.drv, h.weft⟩

theorem alarmEvent_keeps {s : State} (h : s.Inv) (code part reason : Nat) : (alarmEvent code part reason s).Inv :=
    logEvent_keeps h _ _ _

theorem setAlarm_keeps {s : State} (h : s.Inv) (bit : Nat) (on logged : Bool) (part reason : Nat) :
    (setAlarm bit on logged part reason s).Inv := by
  unfold setAlarm
  repeat' first
    | with_reducible apply alarmNotice_keeps
    | with_reducible apply shakeEvent_keeps
    | with_reducible apply alarmEvent_keeps
    | split
    | with_reducible exact ⟨hh.force, hh.active, hh.copyA, hh.copyB, hh.writes⟩
    | with_reducible exact ⟨hh.staging, hh.tables⟩
    | with_reducible exact ⟨hh.notices⟩
    | exact ⟨hh.log, hh.irq, hh.work⟩
    | (with_reducible refine State.Inv.update ?_ (fun hh => ?_) (fun hh => ?_) (fun hh => ?_) (fun hh => ?_)
       first
         | with_reducible assumption)

theorem count78_keeps {s : State} (h : s.Inv) (i : Nat) : (count78 i s).Inv :=
    ⟨⟨h.sh.log, h.sh.irq, h.sh.work⟩, h.cfg, h.drv, h.weft⟩

theorem unitMismatch_keeps {s : State} (h : s.Inv) (u : Nat) : (unitMismatch u s).Inv :=
    ⟨h.sh, h.cfg, h.drv, h.weft⟩

theorem answer_keeps {s : State} (h : s.Inv) (rq : Req) (status reason : Nat) (payload : Bytes) :
    (answer rq status reason payload s).Inv :=
    deliver_keeps h _ _ _ _

theorem reply_keeps {s : State} (h : s.Inv) (rq : Req) (r : Reply) : (reply rq r s).Inv := by
  unfold reply
  repeat' first
    | with_reducible assumption
    | with_reducible apply finish_keeps
    | with_reducible apply logEvent_keeps
    | split

theorem refuseUntaken_keeps {s : State} (h : s.Inv) (rq : Req) (reason : Nat) (counter : Option Nat) :
    (refuseUntaken rq reason counter s).Inv := by
  unfold refuseUntaken
  repeat' first
    | with_reducible assumption
    | with_reducible apply count78_keeps
    | with_reducible apply answer_keeps
    | split

theorem answerUnknown_keeps {s : State} (h : s.Inv) (l : List Req) : (answerUnknown l s).Inv := by
  induction l generalizing s with
  | nil => exact ⟨⟨h.sh.log, h.sh.irq, h.sh.work⟩, h.cfg, h.drv, h.weft⟩
  | cons q r ih =>
    unfold answerUnknown
    split
    · exact ⟨⟨h.sh.log, h.sh.irq, h.sh.work⟩, h.cfg, h.drv, h.weft⟩
    · apply ih
      split
      · exact finish_keeps h _ _ _ _
      · exact reply_keeps h _ _

theorem nextTaken_keeps {s : State} (h : s.Inv) : (nextTaken s).Inv := answerUnknown_keeps h _

theorem takeOrUnknown_keeps {s : State} (h : s.Inv) (rq : Req) : (takeOrUnknown rq s).Inv := by
  unfold takeOrUnknown
  repeat' first
    | with_reducible assumption
    | exact ⟨hh.log, hh.irq, hh.work⟩
    | (with_reducible refine State.Inv.update ?_ (fun hh => ?_) (fun hh => ?_) (fun hh => ?_) (fun hh => ?_)
       first
         | with_reducible apply takeReq_keeps
         | with_reducible apply nextTaken_keeps)

theorem judgeAlive_keeps {s : State} (h : s.Inv) (rq : Req) (m : Mailbox) : (judgeAlive rq m s).Inv := by
  unfold judgeAlive
  simp only []
  repeat' first
    | with_reducible assumption
    | with_reducible apply refuseUntaken_keeps
    | with_reducible apply takeOrUnknown_keeps
    | with_reducible apply deliver_keeps
    | with_reducible apply count78_keeps
    | split

theorem judge_keeps {s : State} (h : s.Inv) (rev : Nat) (rq : Req) : (judge rev rq s).Inv := by
  unfold judge
  simp only []
  repeat' first
    | with_reducible assumption
    | with_reducible apply answer_keeps
    | with_reducible apply refuseUntaken_keeps
    | with_reducible apply takeOrUnknown_keeps
    | with_reducible apply judgeAlive_keeps
    | split

theorem perform_keeps {s : State} (h : s.Inv) (c : Rules) (body : Req → State → Reply × State) (rq : Req)
    (hb : ∀ (rq : Req) (s : State), s.Inv → (body rq s).2.Inv) : (perform c body rq s).Inv := by
  unfold perform
  repeat' first
    | with_reducible assumption
    | with_reducible apply finish_keeps
    | with_reducible apply reply_keeps
    | with_reducible apply hb
    | split

theorem unlessReset_keeps {s : State} (h : s.Inv) (f : State → State) (hf : ∀ s : State, s.Inv → (f s).Inv) :
    (unlessReset f s).Inv := by
  unfold unlessReset
  repeat' first
    | with_reducible assumption
    | with_reducible apply hf
    | split

theorem newJob_keeps {s : State} (h : s.Inv) (cmd st : Nat) (w : JobWork) (p : Nat × State)
    (e : newJob cmd st w s = some p) : p.2.Inv := by
  unfold newJob at e
  split at e
  · exact nomatch e
  · cases e
    exact ⟨⟨h.sh.log, h.sh.irq, h.sh.work⟩, h.cfg, h.drv, h.weft⟩

theorem jobUpd_keeps {s : State} (h : s.Inv) (id : Nat) (f : Job → Job) : (jobUpd id f s).Inv :=
    ⟨⟨h.sh.log, h.sh.irq, h.sh.work⟩, h.cfg, h.drv, h.weft⟩

theorem endJob_keeps {s : State} (h : s.Inv) (id st reason : Nat) (result : Bytes) (wfault : Nat) :
    (endJob id st reason result wfault s).Inv := by
  unfold endJob
  repeat' first
    | with_reducible assumption
    | with_reducible apply jobUpd_keeps
    | with_reducible apply shakeEvent_keeps
    | with_reducible apply logEvent_keeps
    | split

theorem svForm_keeps {s : State} (h : s.Inv) (typ : Nat) (payload : Bytes) : (svForm typ payload s).2.Inv :=
    ⟨h.sh, h.cfg, h.drv, h.weft⟩

theorem emit_keeps {s : State} (h : s.Inv) (e : Emission) : (emit e s).Inv := ⟨h.sh, h.cfg, h.drv, h.weft⟩

theorem emitSv_keeps {s : State} (h : s.Inv) (e : Emission) : (emitSv e s).Inv := by
  unfold emitSv
  repeat' first
    | with_reducible apply emit_keeps
    | split
    | with_reducible exact ⟨hh.force, hh.active, hh.copyA, hh.copyB, hh.writes⟩
    | with_reducible exact ⟨hh.staging, hh.tables⟩
    | with_reducible exact ⟨hh.notices⟩
    | exact ⟨hh.log, hh.irq, hh.work⟩
    | (with_reducible refine State.Inv.update ?_ (fun hh => ?_) (fun hh => ?_) (fun hh => ?_) (fun hh => ?_)
       first
         | with_reducible assumption)

theorem emitDelta_keeps {s : State} (h : s.Inv) (d : Delta) : (emitDelta s d).Inv := by
  unfold emitDelta
  repeat' first
    | with_reducible assumption
    | with_reducible apply svForm_keeps
    | with_reducible apply emitSv_keeps

theorem sendDelta_keeps {s : State} (h : s.Inv) (c : Change) (due : Nat) : (sendDelta c due s).Inv := by
  unfold sendDelta
  repeat' first
    | with_reducible apply emitDelta_keeps
    | split
    | with_reducible exact ⟨hh.force, hh.active, hh.copyA, hh.copyB, hh.writes⟩
    | with_reducible exact ⟨hh.staging, hh.tables⟩
    | with_reducible exact ⟨hh.notices⟩
    | exact ⟨hh.log, hh.irq, hh.work⟩
    | (with_reducible refine State.Inv.update ?_ (fun hh => ?_) (fun hh => ?_) (fun hh => ?_) (fun hh => ?_)
       first
         | with_reducible assumption)

theorem stageAt_keeps {s : State} (h : s.Inv) (due : Nat) (c : Change) (cmd mb seq : Nat) :
    (stageAt due c cmd mb seq s).Inv := by
  unfold stageAt
  repeat' first
    | with_reducible assumption
    | with_reducible exact ⟨hh.force, hh.active, hh.copyA, hh.copyB, hh.writes⟩
    | (with_reducible refine State.Inv.update ?_ (fun hh => ?_) (fun hh => ?_) (fun hh => ?_) (fun hh => ?_)
       first
         | with_reducible assumption
         | with_reducible apply sendDelta_keeps)

theorem stage_keeps {s : State} (h : s.Inv) (c : Change) (rq : Req) : (stage c rq s).Inv :=
    stageAt_keeps h _ _ _ _ _

theorem stageOwn_keeps {s : State} (h : s.Inv) (c : Change) : (stageOwn c s).Inv := stageAt_keeps h _ _ _ _ _

theorem acceptWords_keeps {s : State} (h : s.Inv) (ws : List (Nat × Word)) (rq : Req) :
    (acceptWords ws rq s).Inv := by
  apply stage_keeps
  exact ⟨h.sh, ⟨PMem.wf_putAll ws _ h.cfg.force, h.cfg.active, h.cfg.copyA, h.cfg.copyB, h.cfg.writes⟩, h.drv, h.weft⟩

theorem huskMismatch_keeps {s : State} (h : s.Inv) (source detail : Nat) : (huskMismatch source detail s).Inv := by
  unfold huskMismatch
  repeat' first
    | with_reducible assumption
    | (with_reducible refine State.Inv.update ?_ (fun hh => ?_) (fun hh => ?_) (fun hh => ?_) (fun hh => ?_)
       first
         | with_reducible assumption
         | with_reducible apply logEvent_keeps)

theorem usedHusks_keeps {s : State} (h : s.Inv) (keys : List Nat) : (usedHusks keys s).Inv := by
  unfold usedHusks
  repeat' first
    | with_reducible assumption
    | with_reducible apply huskMismatch_keeps
    | with_reducible apply foldl_keeps
    | intro _

theorem seedAlarm_keeps {s : State} (h : s.Inv) (part : Nat) : (seedAlarm part s).Inv :=
    setAlarm_keeps h _ _ _ _ _

theorem partWorn_keeps {s : State} (h : s.Inv) (kind pod idx : Nat) : (partWorn kind pod idx s).Inv := by
  unfold partWorn
  repeat' first
    | with_reducible assumption
    | (with_reducible refine State.Inv.update ?_ (fun hh => ?_) (fun hh => ?_) (fun hh => ?_) (fun hh => ?_)
       first
         | with_reducible assumption
         | with_reducible apply logEvent_keeps
         | with_reducible apply seedAlarm_keeps
         | with_reducible apply stageOwn_keeps
         | split)

theorem reportRow_keeps {s : State} (h : s.Inv) (row : Nat) : (reportRow row s).Inv := by
  unfold reportRow
  repeat' first
    | with_reducible assumption
    | (with_reducible refine State.Inv.update ?_ (fun hh => ?_) (fun hh => ?_) (fun hh => ?_) (fun hh => ?_)
       first
         | with_reducible assumption
         | with_reducible apply partWorn_keeps)

theorem badCodeword_keeps {s : State} (h : s.Inv) (index : Nat) : (badCodeword index s).Inv := by
  unfold badCodeword
  repeat' first
    | with_reducible assumption
    | (with_reducible refine State.Inv.update ?_ (fun hh => ?_) (fun hh => ?_) (fun hh => ?_) (fun hh => ?_)
       first
         | with_reducible assumption
         | with_reducible apply logEvent_keeps
         | with_reducible apply reportRow_keeps)

theorem sectorWorn_keeps {s : State} (h : s.Inv) : (sectorWorn s).Inv := by
  unfold sectorWorn
  repeat' first
    | with_reducible assumption
    | with_reducible apply nextFree_keeps
    | with_reducible apply partWorn_keeps

theorem chanUpd_keeps {s : State} (h : s.Inv) (ch : Nat) (f : Chan → Chan) : (chanUpd ch f s).Inv :=
    ⟨h.sh, h.cfg, h.drv, h.weft⟩

theorem writeBack_keeps {s : State} (h : s.Inv) (index : Nat) (d : Bytes) : (writeBack index d s).Inv :=
    ⟨h.sh, h.cfg, h.drv, h.weft⟩

theorem rowCheck_keeps {s : State} (h : s.Inv) (row : Nat) : (rowCheck s row).Inv := by
  unfold rowCheck
  repeat' first
    | with_reducible assumption
    | with_reducible apply reportRow_keeps
    | split

theorem readCode_keeps {s : State} (h : s.Inv) (x : Nat × Bytes) : (readCode x s).2.Inv := by
  unfold readCode
  repeat' first
    | with_reducible apply rowCheck_keeps
    | with_reducible apply writeBack_keeps
    | with_reducible apply badCodeword_keeps
    | split
    | with_reducible exact ⟨hh.force, hh.active, hh.copyA, hh.copyB, hh.writes⟩
    | with_reducible exact ⟨hh.staging, hh.tables⟩
    | with_reducible exact ⟨hh.notices⟩
    | exact ⟨hh.log, hh.irq, hh.work⟩
    | (with_reducible refine State.Inv.update ?_ (fun hh => ?_) (fun hh => ?_) (fun hh => ?_) (fun hh => ?_)
       first
         | with_reducible assumption)

theorem readStore_keeps {s : State} (h : s.Inv) (reads : List (Nat × Bytes)) : (readStore reads s).2.Inv := by
  unfold readStore
  exact foldl_keeps_snd (p := (true, s))
    (fun gs x => match readCode x gs.2 with | (g, s) => (gs.1 && g, s)) (fun p x hp => readCode_keeps hp x) _ h

theorem eventOn_keeps {s : State} (h : s.Inv) (ch mode : Nat) (first : Int) (tE : Nat) (chain : Bool) :
    (eventOn ch mode first tE chain s).Inv :=
    ⟨h.sh, h.cfg, h.drv, h.weft⟩

theorem checked_keeps {s : State} (h : s.Inv) (src : Requester) (m : Bytes) : (checked src m s).Inv := by
  unfold checked
  repeat' first
    | with_reducible assumption
    | with_reducible apply unitChecks_keeps
    | split

theorem arrive_keeps {s : State} (h : s.Inv) (src : Requester) (port : Nat) (m : Bytes) :
    (arrive src port m s).Inv := by
  unfold arrive
  simp only []
  repeat' first
    | with_reducible assumption
    | with_reducible apply checked_keeps
    | with_reducible apply unitMismatch_keeps
    | with_reducible apply count78_keeps
    | with_reducible apply judge_keeps
    | split

theorem onSpi_keeps {s : State} (h : s.Inv) (f : State → State) (hf : ∀ s : State, s.Inv → (f s).Inv) :
    (onSpi f s).Inv := by
  unfold onSpi
  repeat' first
    | with_reducible assumption
    | with_reducible apply unlessReset_keeps
    | split

theorem endClaim_keeps {s : State} (h : s.Inv) (mb source : Nat) (lapse : Bool) :
    (endClaim mb source lapse s).Inv := by
  unfold endClaim
  have h2 := endClaim_irq_keeps h mb
  simp only []
  generalize (irq _) = u at h2 ⊢
  split
  · have h3 := logEvent_keeps (s := { u with sh := { u.sh with lock := none, work := none } })
      ⟨⟨h2.sh.log, h2.sh.irq, fun _ e => nomatch e⟩, h2.cfg, h2.drv, h2.weft⟩ 0x0506 source mb
    split
    · exact setAlarm_keeps h3 _ _ _ _ _
    · exact h3
  · exact h2

theorem endClaims_keeps {s : State} (h : s.Inv) : (endClaims s).Inv := by
  unfold endClaims
  repeat' first
    | with_reducible assumption
    | with_reducible apply endClaim_keeps
    | with_reducible apply foldl_keeps
    | split
    | intro _

theorem putCopy_keeps {s : State} (h : s.Inv) (toB : Bool) (c : Copy) (hw : Tab.wf c.words = true) :
    (putCopy toB c s).Inv := by
  have hw' : ∀ w ∈ (slotWrite (nextFree s).1 8 (nextFree s).2.clk.loom toB (if toB then s.cfg.copyB else s.cfg.copyA) s.cfg.writes),
      Tab.wf w.before.words = true := slotWrite_ok _ _ _ _ (by split; exacts [h.cfg.copyB, h.cfg.copyA]) h.cfg.writes
  cases toB
  · exact ⟨h.sh, ⟨h.cfg.force, h.cfg.active, hw, h.cfg.copyB, hw'⟩, h.drv, h.weft⟩
  · exact ⟨h.sh, ⟨h.cfg.force, h.cfg.active, h.cfg.copyA, hw, hw'⟩, h.drv, h.weft⟩

theorem persist_keeps {s : State} (h : s.Inv) (words : PMem) (seq source : Nat) (hw : Tab.wf words = true) :
    (persist words seq source s).2.Inv := by
  unfold persist
  simp only []
  have h2 : ((nextFree s).2).Inv := nextFree_keeps h
  generalize (nextFree s).2 = u at h2 ⊢
  have hc : ∀ (b : Bool) (beat : Nat) (v : State), v.Inv → (putCopy b { valid := true, seq, words, beat } v).Inv :=
    fun b beat v hv => putCopy_keeps hv _ _ hw
  have hu : ∀ (v : State) (inB rejected : Bool), v.Inv → State.Inv { v with cfg := { v.cfg with inB, rejected } } :=
    fun v _ _ hv => ⟨hv.sh, ⟨hv.cfg.force, hv.cfg.active, hv.cfg.copyA, hv.cfg.copyB, hv.cfg.writes⟩, hv.drv, hv.weft⟩
  split
  · apply setAlarm_keeps
    apply hu
    split
    · exact hc _ _ _ (hc _ _ _ h2)
    · exact hc _ _ _ h2
  · exact setAlarm_keeps (logEvent_keeps (sectorWorn_keeps h2) _ _ _) _ _ _ _ _

theorem persistForce_keeps {s : State} (h : s.Inv) (source : Nat) : (persistForce source s).2.Inv :=
    persist_keeps h _ _ _ h.cfg.force

/-- A body that only reads keeps the invariant. -/
theorem reading_keeps {s : State} (h : s.Inv) (f : Req → State → Reply) (rq : Req) : (reading f rq s).2.Inv := h

/-- A Shuttle command keeps the invariant where its body does. -/
theorem runCmd_keeps {s s' : State} (h : s.Inv) (c : Rules) (body : Req → State → Reply × State) (t : Nat) (rq : Req)
    (hb : ∀ (rq : Req) (s : State), s.Inv → (body rq s).2.Inv) (e : runCmd c body t rq s = .next s') : s'.Inv := by
  unfold runCmd at e
  refine act_keeps ?_ e
  refine unlessReset_keeps (tick_keeps h t) _ fun u hu => ?_
  have key : ∀ v : State, v.Inv → State.Inv (match v.sh.taken with
      | [] => v
      | q :: rest => if q = { rq with cmd := c.code } then
          nextTaken (perform c body { rq with cmd := c.code } { v with sh := { v.sh with taken := rest } }) else v) := by
    intro v hv
    split
    · exact hv
    · rename_i q rest _
      split
      · refine nextTaken_keeps (perform_keeps (s := { v with sh := { v.sh with taken := rest } }) ?_ _ _ _ hb)
        exact ⟨⟨hv.sh.log, hv.sh.irq, hv.sh.work⟩, hv.cfg, hv.drv, hv.weft⟩
      · exact hv
  apply key
  split
  · exact judge_keeps hu _ _
  · exact hu

end Sys2Proof.Machine
end

