-- ==== Sys2Proof/Laws/KeepsData.lean ====
section
/-! SUPPORT. The invariant through threads, conversion, filters, the Warp, service runs and frames: one lemma per operation. -/

namespace Sys2Proof.Machine

theorem noteSwitch_keeps {s : State} (h : s.Inv) (pod at_ : Nat) : (noteSwitch pod at_ s).Inv :=
    ⟨h.sh, h.cfg, h.drv, h.weft⟩

theorem leadUpd_keeps {s : State} (h : s.Inv) (ch det : Nat) (f : Lead → Lead) : (leadUpd ch det f s).Inv :=
    ⟨h.sh, h.cfg, h.drv, h.weft⟩

theorem leadSuspect_keeps {s : State} (h : s.Inv) (ch det : Nat) : (leadSuspect ch det s).Inv := by
  unfold leadSuspect
  repeat' first
    | with_reducible assumption
    | with_reducible apply leadUpd_keeps
    | split

theorem leadConfirm_keeps {s : State} (h : s.Inv) (ch det : Nat) : (leadConfirm ch det s).Inv := by
  unfold leadConfirm
  simp only []
  repeat' first
    | with_reducible assumption
    | with_reducible apply leadUpd_keeps
    | with_reducible apply alarmNotice_keeps
    | with_reducible apply alarmEvent_keeps
    | split

theorem leadClear_keeps {s : State} (h : s.Inv) (ch det : Nat) (recover : Bool) :
    (leadClear ch det recover s).Inv := by
  unfold leadClear
  simp only []
  repeat' first
    | with_reducible assumption
    | with_reducible apply leadUpd_keeps
    | with_reducible apply alarmNotice_keeps
    | with_reducible apply eventOn_keeps
    | split

theorem leadHalf_keeps {s : State} (h : s.Inv) (ch : Nat) (span : Bool) : (leadHalf ch span s).Inv := by
  unfold leadHalf
  simp only []
  repeat' first
    | with_reducible assumption
    | with_reducible apply leadUpd_keeps
    | with_reducible apply leadSuspect_keeps
    | with_reducible apply leadConfirm_keeps
    | with_reducible apply leadClear_keeps
    | split

theorem ovrBegin_keeps {s : State} (h : s.Inv) (ch at_ : Nat) (positive : Bool) :
    (ovrBegin ch at_ positive s).Inv := by
  unfold ovrBegin
  repeat' first
    | with_reducible assumption
    | (with_reducible refine State.Inv.update ?_ (fun hh => ?_) (fun hh => ?_) (fun hh => ?_) (fun hh => ?_)
       first
         | with_reducible assumption
         | with_reducible apply chanUpd_keeps
         | split)

theorem ovrEnd_keeps {s : State} (h : s.Inv) (ch at_ : Nat) : (ovrEnd ch at_ s).Inv := by
  unfold ovrEnd
  repeat' first
    | with_reducible assumption
    | (with_reducible refine State.Inv.update ?_ (fun hh => ?_) (fun hh => ?_) (fun hh => ?_) (fun hh => ?_)
       first
         | with_reducible assumption
         | with_reducible apply eventOn_keeps
         | split)

theorem ovrUpd_keeps {s : State} (h : s.Inv) (ch : Nat) (f : Ovr → Ovr) : (ovrUpd ch f s).Inv :=
    ⟨h.sh, h.cfg, h.drv, h.weft⟩

theorem thrUpd_keeps {s : State} (h : s.Inv) (pod tt : Nat) (f : Thread → Thread) : (thrUpd pod tt f s).Inv :=
    ⟨h.sh, h.cfg, h.drv, h.weft⟩

theorem cutSlots_keeps {s : State} (h : s.Inv) (pod : Nat) : (cutSlots pod s).Inv := by
  unfold cutSlots
  repeat' first
    | with_reducible assumption
    | with_reducible apply leadSuspect_keeps
    | with_reducible apply leadClear_keeps
    | with_reducible apply foldl_keeps
    | split
    | intro _

theorem cutLeads_keeps {s : State} (h : s.Inv) : (cutLeads s).Inv := by
  unfold cutLeads
  repeat' first
    | with_reducible assumption
    | with_reducible apply cutSlots_keeps
    | with_reducible apply foldl_keeps
    | intro _

theorem scUpd_keeps {s : State} (h : s.Inv) (sc : Nat) (f : Converter → Converter) : (scUpd sc f s).Inv :=
    ⟨h.sh, h.cfg, h.drv, h.weft⟩

theorem closeTap_keeps {s : State} (h : s.Inv) (pod tt bus : Nat) : (closeTap pod tt bus s).Inv :=
    ⟨h.sh, h.cfg, h.drv, h.weft⟩

theorem openTap_keeps {s : State} (h : s.Inv) (pod tt : Nat) : (openTap pod tt s).Inv := by
  unfold openTap
  repeat' first
    | with_reducible assumption
    | with_reducible apply thrUpd_keeps
    | with_reducible apply noteSwitch_keeps
    | split

theorem releaseTaps_keeps {s : State} (h : s.Inv) (pods : List Nat) : (releaseTaps pods s).Inv := by
  unfold releaseTaps
  repeat' first
    | with_reducible assumption
    | with_reducible apply openTap_keeps
    | with_reducible apply foldl_keeps
    | intro _

theorem placeTap_keeps {s : State} (h : s.Inv) (sc : Nat) : (placeTap sc s).Inv := by
  unfold placeTap
  simp only []
  repeat' first
    | with_reducible assumption
    | with_reducible apply closeTap_keeps
    | with_reducible apply scUpd_keeps
    | split

theorem grant_keeps {s : State} (h : s.Inv) (sc : Nat) : (grant sc s).Inv := by
  unfold grant
  simp only []
  repeat' first
    | with_reducible assumption
    | with_reducible apply placeTap_keeps
    | with_reducible apply scUpd_keeps
    | split

theorem request_keeps {s : State} (h : s.Inv) (sc : Nat) (r : ScRequest) : (request sc r s).Inv := by
  unfold request
  repeat' first
    | with_reducible assumption
    | with_reducible apply grant_keeps
    | with_reducible apply scUpd_keeps

theorem spotRequest_keeps {s : State} (h : s.Inv) (sc : Nat) (w : SpotFor) : (spotRequest sc w s).2.Inv := by
  unfold spotRequest
  repeat' first
    | with_reducible assumption
    | with_reducible apply scUpd_keeps
    | with_reducible apply request_keeps
    | split

theorem leadDone_keeps {s : State} (h : s.Inv) (sc : Nat) (rq : Req) (pod slot : Nat) (codes : List Int)
    (began acq : Nat) : (leadDone sc rq pod slot codes began acq s).Inv := by
  unfold leadDone
  simp only []
  repeat' first
    | with_reducible assumption
    | with_reducible apply reply_keeps
    | with_reducible apply openTap_keeps
    | with_reducible apply request_keeps
    | split

theorem scanDone_keeps {s : State} (h : s.Inv) (sc : Nat) (r : ScRequest) (acq : Nat) (code : Int) (value : Word) :
    (scanDone sc r acq code value s).Inv := by
  unfold scanDone
  repeat' first
    | with_reducible assumption
    | (with_reducible refine State.Inv.update ?_ (fun hh => ?_) (fun hh => ?_) (fun hh => ?_) (fun hh => ?_)
       first
         | with_reducible assumption
         | with_reducible apply openTap_keeps
         | with_reducible apply request_keeps
         | split)

theorem simulDone_keeps {s : State} (h : s.Inv) (sc acq : Nat) (code : Int) : (simulDone sc acq code s).Inv :=
    ⟨h.sh, h.cfg, h.drv, h.weft⟩

theorem deliverResult_keeps {s : State} (h : s.Inv) (sc : Nat) (r : ScRequest) (acq : Nat) (code : Int)
    (value : Word) : (deliverResult sc r acq code value s).Inv := by
  unfold deliverResult
  simp only []
  repeat' first
    | with_reducible apply openTap_keeps
    | with_reducible apply reply_keeps
    | with_reducible apply leadDone_keeps
    | with_reducible apply jobUpd_keeps
    | with_reducible apply simulDone_keeps
    | with_reducible apply request_keeps
    | with_reducible apply scanDone_keeps
    | split
    | with_reducible exact ⟨hh.force, hh.active, hh.copyA, hh.copyB, hh.writes⟩
    | with_reducible exact ⟨hh.staging, hh.tables⟩
    | with_reducible exact ⟨hh.notices⟩
    | exact ⟨hh.log, hh.irq, hh.work⟩
    | (with_reducible refine State.Inv.update ?_ (fun hh => ?_) (fun hh => ?_) (fun hh => ?_) (fun hh => ?_)
       first
         | with_reducible assumption
         | with_reducible apply scUpd_keeps)

theorem endConversion_keeps {s : State} (h : s.Inv) (sc : Nat) (r : ScRequest) (acq : Nat) (code : Int)
    (value : Word) : (endConversion sc r acq code value s).Inv := by
  unfold endConversion
  repeat' first
    | with_reducible assumption
    | with_reducible apply grant_keeps
    | with_reducible apply deliverResult_keeps
    | with_reducible apply scUpd_keeps

theorem holdResult_keeps {s : State} (h : s.Inv) (sc : Nat) (r : ScRequest) (acq : Nat) (code : Int) (value : Word)
    : (holdResult sc r acq code value s).Inv := by
  unfold holdResult
  simp only []
  repeat' first
    | with_reducible assumption
    | with_reducible apply crossUpd_keeps
    | with_reducible apply scUpd_keeps
    | with_reducible apply request_keeps
    | with_reducible apply grant_keeps
    | split

theorem startRounds_keeps {s : State} (h : s.Inv) : (startRounds s).Inv := by
  unfold startRounds
  simp only []
  repeat' first
    | with_reducible assumption
    | with_reducible apply request_keeps
    | with_reducible apply foldl_keeps
    | split
    | intro _

theorem simTrigger_keeps {s : State} (h : s.Inv) (src : Nat) : (simTrigger src s).Inv := by
  unfold simTrigger
  repeat' first
    | with_reducible assumption
    | (with_reducible refine State.Inv.update ?_ (fun hh => ?_) (fun hh => ?_) (fun hh => ?_) (fun hh => ?_)
       first
         | with_reducible assumption
         | split)

theorem startPass_keeps {s : State} (h : s.Inv) (list : Nat) : (startPass list s).Inv := by
  unfold startPass
  simp only []
  repeat' first
    | with_reducible assumption
    | (with_reducible refine State.Inv.update ?_ (fun hh => ?_) (fun hh => ?_) (fun hh => ?_) (fun hh => ?_)
       first
         | with_reducible assumption
         | with_reducible apply scUpd_keeps
         | with_reducible apply request_keeps
         | split)

theorem listsFrom_keeps {s : State} (h : s.Inv) (at_ : Nat) (lists : List Nat) : (listsFrom at_ lists s).Inv := by
  unfold listsFrom
  repeat' first
    | with_reducible apply scUpd_keeps
    | with_reducible apply crossUpd_keeps
    | with_reducible apply foldl_keeps
    | intro _
    | with_reducible exact ⟨hh.force, hh.active, hh.copyA, hh.copyB, hh.writes⟩
    | with_reducible exact ⟨hh.staging, hh.tables⟩
    | with_reducible exact ⟨hh.notices⟩
    | exact ⟨hh.log, hh.irq, hh.work⟩
    | (with_reducible refine State.Inv.update ?_ (fun hh => ?_) (fun hh => ?_) (fun hh => ?_) (fun hh => ?_)
       first
         | with_reducible assumption)

theorem dropConverters_keeps {s : State} (h : s.Inv) (die : Nat) : (dropConverters die s).Inv := by
  unfold dropConverters
  repeat' first
    | with_reducible apply releaseTaps_keeps
    | with_reducible apply scUpd_keeps
    | with_reducible apply openTap_keeps
    | with_reducible apply reply_keeps
    | with_reducible apply jobUpd_keeps
    | with_reducible apply crossUpd_keeps
    | with_reducible apply foldl_keeps
    | split
    | intro _
    | with_reducible exact ⟨hh.force, hh.active, hh.copyA, hh.copyB, hh.writes⟩
    | with_reducible exact ⟨hh.staging, hh.tables⟩
    | with_reducible exact ⟨hh.notices⟩
    | exact ⟨hh.log, hh.irq, hh.work⟩
    | (with_reducible refine State.Inv.update ?_ (fun hh => ?_) (fun hh => ?_) (fun hh => ?_) (fun hh => ?_)
       first
         | with_reducible assumption)

theorem putLive_keeps {s : State} (h : s.Inv) (die bank : Nat) (mb : Option Nat) : (putLive die bank mb s).Inv := by
  refine ⟨⟨h.sh.log, h.sh.irq, ?_⟩, ⟨PMem.wf_put _ _ _ h.cfg.force, h.cfg.active, h.cfg.copyA, h.cfg.copyB, h.cfg.writes⟩, h.drv,
    h.weft⟩
  intro w hw
  simp only [putLive] at hw
  split at hw
  · cases hk : s.sh.work with
    | none => simp [hk] at hw
    | some k =>
      simp only [hk, Option.map_some, Option.some.injEq] at hw
      rw [← hw]
      exact PMem.wf_put _ _ _ (h.sh.work k hk)
  · exact h.sh.work w hw

theorem warpEvent_keeps {s : State} (h : s.Inv) (reason kind detail : Nat) :
    (warpEvent reason kind detail s).Inv :=
    logEvent_keeps h _ _ _

theorem holdAlarm_keeps {s : State} (h : s.Inv) (own : Bool) : (holdAlarm own s).Inv := setAlarm_keeps h _ _ _ _ _

theorem setLock_keeps {s : State} (h : s.Inv) (l : Lock) : (setLock l s).Inv := by
  unfold setLock
  repeat' first
    | with_reducible assumption
    | (with_reducible refine State.Inv.update ?_ (fun hh => ?_) (fun hh => ?_) (fun hh => ?_) (fun hh => ?_)
       first
         | with_reducible assumption
         | with_reducible apply holdAlarm_keeps
         | with_reducible apply warpEvent_keeps
         | split)

theorem lockCheck_keeps {s : State} (h : s.Inv) : (lockCheck s).Inv := by
  unfold lockCheck
  simp only []
  repeat' first
    | with_reducible assumption
    | with_reducible apply setLock_keeps
    | split

theorem acquire_keeps {s : State} (h : s.Inv) : (acquire s).Inv := by
  unfold acquire
  repeat' first
    | with_reducible apply setLock_keeps
    | with_reducible exact ⟨hh.force, hh.active, hh.copyA, hh.copyB, hh.writes⟩
    | with_reducible exact ⟨hh.staging, hh.tables⟩
    | with_reducible exact ⟨hh.notices⟩
    | exact ⟨hh.log, hh.irq, hh.work⟩
    | (with_reducible refine State.Inv.update ?_ (fun hh => ?_) (fun hh => ?_) (fun hh => ?_) (fun hh => ?_)
       first
         | with_reducible assumption)

theorem freeLock_keeps {s : State} (h : s.Inv) : (freeLock s).Inv := by
  unfold freeLock
  repeat' first
    | with_reducible assumption
    | (with_reducible refine State.Inv.update ?_ (fun hh => ?_) (fun hh => ?_) (fun hh => ?_) (fun hh => ?_)
       first
         | with_reducible assumption
         | with_reducible apply setLock_keeps
         | split)

theorem servo_keeps {s : State} (h : s.Inv) (theta : Int) (src : Nat) : (servo theta src s).Inv := by
  unfold servo
  simp only []
  repeat' first
    | with_reducible apply lockCheck_keeps
    | split
    | with_reducible exact ⟨hh.force, hh.active, hh.copyA, hh.copyB, hh.writes⟩
    | with_reducible exact ⟨hh.staging, hh.tables⟩
    | with_reducible exact ⟨hh.notices⟩
    | exact ⟨hh.log, hh.irq, hh.work⟩
    | (with_reducible refine State.Inv.update ?_ (fun hh => ?_) (fun hh => ?_) (fun hh => ?_) (fun hh => ?_)
       first
         | with_reducible assumption
         | with_reducible apply acquire_keeps)

theorem wportUpd_keeps {s : State} (h : s.Inv) (p : Nat) (f : WPort → WPort) : (wportUpd p f s).Inv :=
    ⟨h.sh, h.cfg, h.drv, h.weft⟩

theorem countHubs_keeps {s : State} (h : s.Inv) : (countHubs s).Inv := ⟨h.sh, h.cfg, h.drv, h.weft⟩

theorem portState_keeps {s : State} (h : s.Inv) (p st : Nat) : (portState p st s).Inv := by
  unfold portState
  repeat' first
    | with_reducible apply countHubs_keeps
    | split
    | with_reducible exact ⟨hh.force, hh.active, hh.copyA, hh.copyB, hh.writes⟩
    | with_reducible exact ⟨hh.staging, hh.tables⟩
    | with_reducible exact ⟨hh.notices⟩
    | exact ⟨hh.log, hh.irq, hh.work⟩
    | (with_reducible refine State.Inv.update ?_ (fun hh => ?_) (fun hh => ?_) (fun hh => ?_) (fun hh => ?_)
       first
         | with_reducible assumption
         | with_reducible apply wportUpd_keeps)

theorem eventLost_keeps {s : State} (h : s.Inv) (p : Nat) : (eventLost p s).Inv := by
  unfold eventLost
  repeat' first
    | with_reducible assumption
    | with_reducible apply alarmNotice_keeps
    | with_reducible apply warpEvent_keeps
    | with_reducible apply wportUpd_keeps

theorem enqueue_keeps {s : State} (h : s.Inv) (e : WarpEv) (p : Nat) : (enqueue e s p).Inv := by
  unfold enqueue
  repeat' first
    | with_reducible assumption
    | with_reducible apply eventLost_keeps
    | with_reducible apply wportUpd_keeps
    | split

theorem spread_keeps {s : State} (h : s.Inv) (e : WarpEv) (except : Option Nat) : (spread e except s).Inv := by
  unfold spread
  repeat' first
    | with_reducible assumption
    | with_reducible apply enqueue_keeps
    | with_reducible apply foldl_keeps
    | intro _

theorem originate_keeps {s : State} (h : s.Inv) (typ code stamp : Nat) : (originate typ code stamp s).Inv :=
    ⟨h.sh, h.cfg, h.drv, h.weft⟩

theorem askResend_keeps {s : State} (h : s.Inv) (p : Nat) : (askResend p s).Inv := by
  unfold askResend
  simp only []
  repeat' first
    | with_reducible assumption
    | with_reducible apply emit_keeps
    | with_reducible apply wportUpd_keeps
    | split

theorem learnReset_keeps {s : State} (h : s.Inv) (ts : Nat) : (learnReset ts s).Inv := by
  unfold learnReset
  repeat' first
    | with_reducible assumption
    | (with_reducible refine State.Inv.update ?_ (fun hh => ?_) (fun hh => ?_) (fun hh => ?_) (fun hh => ?_)
       first
         | with_reducible assumption
         | split)

theorem offerEvent_keeps {s : State} (h : s.Inv) (e : WarpEv) : (offerEvent e s).Inv :=
    ⟨h.sh, h.cfg, h.drv, h.weft⟩

theorem takeEvent_keeps {s : State} (h : s.Inv) (e : WarpEv) : (takeEvent s e).Inv := by
  unfold takeEvent
  repeat' first
    | with_reducible assumption
    | with_reducible apply addNotice_keeps
    | with_reducible apply simTrigger_keeps
    | with_reducible apply offerEvent_keeps
    | (with_reducible refine State.Inv.update ?_ (fun hh => ?_) (fun hh => ?_) (fun hh => ?_) (fun hh => ?_)
       first
         | with_reducible assumption
         | split)

theorem drainEvents_keeps {s : State} (h : s.Inv) : (drainEvents s).Inv := by
  unfold drainEvents
  repeat' first
    | with_reducible assumption
    | intro _
    | (with_reducible refine State.Inv.update ?_ (fun hh => ?_) (fun hh => ?_) (fun hh => ?_) (fun hh => ?_)
       first
         | with_reducible assumption
         | with_reducible apply takeEvent_keeps
         | with_reducible apply foldl_keeps
         | split)

theorem acceptEvent_keeps {s : State} (h : s.Inv) (p : Nat) (e : WarpEv) : (acceptEvent p e s).Inv := by
  unfold acceptEvent
  repeat' first
    | with_reducible assumption
    | (with_reducible refine State.Inv.update ?_ (fun hh => ?_) (fun hh => ?_) (fun hh => ?_) (fun hh => ?_)
       first
         | with_reducible apply wportUpd_keeps
         | with_reducible apply spread_keeps
         | with_reducible apply learnReset_keeps
         | with_reducible apply drainEvents_keeps
         | split)

theorem beyondGap_keeps {s : State} (h : s.Inv) (p : Nat) (e : WarpEv) : (beyondGap p e s).Inv := by
  unfold beyondGap
  simp only []
  repeat' first
    | with_reducible assumption
    | with_reducible apply acceptEvent_keeps
    | with_reducible apply eventLost_keeps
    | with_reducible apply wportUpd_keeps
    | with_reducible apply askResend_keeps
    | with_reducible apply foldl_keeps
    | split
    | intro _

theorem resendFrom_keeps {s : State} (h : s.Inv) (p first : Nat) : (resendFrom p first s).Inv := by
  unfold resendFrom
  simp only []
  repeat' first
    | with_reducible assumption
    | with_reducible apply wportUpd_keeps
    | with_reducible apply emit_keeps
    | with_reducible apply foldl_keeps
    | split
    | intro _

theorem exchange_keeps {s : State} (h : s.Inv) (t1 t2 t3 t4 : Nat) : (exchange t1 t2 t3 t4 s).Inv := by
  unfold exchange
  simp only []
  repeat' first
    | with_reducible assumption
    | with_reducible apply wportUpd_keeps
    | with_reducible apply servo_keeps
    | split

theorem takeFrame_keeps {s : State} (h : s.Inv) (f : Bytes) : (takeFrame f s).Inv := by
  unfold takeFrame
  repeat' first
    | with_reducible assumption
    | (with_reducible refine State.Inv.update ?_ (fun hh => ?_) (fun hh => ?_) (fun hh => ?_) (fun hh => ?_)
       first
         | with_reducible apply warpEvent_keeps
         | with_reducible apply holdAlarm_keeps
         | with_reducible apply wportUpd_keeps
         | with_reducible apply learnReset_keeps
         | split)

theorem catchUpCheck_keeps {s : State} (h : s.Inv) : (catchUpCheck s).Inv := by
  unfold catchUpCheck
  repeat' first
    | with_reducible assumption
    | (with_reducible refine State.Inv.update ?_ (fun hh => ?_) (fun hh => ?_) (fun hh => ?_) (fun hh => ?_)
       first
         | with_reducible assumption
         | split)

theorem stampExt_keeps {s : State} (h : s.Inv) : (stampExt s).2.Inv := ⟨h.sh, h.cfg, h.drv, h.weft⟩

theorem warpBeat_keeps {s : State} (h : s.Inv) : (warpBeat s).Inv := by
  unfold warpBeat
  repeat' first
    | with_reducible assumption
    | with_reducible apply warpEvent_keeps
    | with_reducible apply wportUpd_keeps
    | with_reducible apply lockCheck_keeps
    | split

theorem doReset_keeps {s : State} (h : s.Inv) (epoch at_ : Nat) (dies : List Nat) :
    (doReset epoch at_ dies s).Inv :=
    ⟨h.sh, h.cfg, h.drv, h.weft⟩

theorem hubReset_keeps {s : State} (h : s.Inv) (epoch at_ : Nat) : (hubReset epoch at_ s).Inv :=
    ⟨h.sh, h.cfg, h.drv, h.weft⟩

theorem endResetJobs_keeps {s : State} (h : s.Inv) (ts : Nat) : (endResetJobs ts s).Inv := by
  unfold endResetJobs
  repeat' first
    | with_reducible assumption
    | with_reducible apply endJob_keeps
    | with_reducible apply jobUpd_keeps
    | with_reducible apply foldl_keeps
    | intro _

theorem alignDies_keeps {s : State} (h : s.Inv) : (alignDies s).Inv := by
  unfold alignDies
  repeat' first
    | with_reducible assumption
    | with_reducible apply doReset_keeps
    | with_reducible apply foldl_keeps
    | split
    | intro _

theorem feedBridge_keeps {s : State} (h : s.Inv) (m : PMem) (ch grid : Nat) (w : Int) (flags : Nat) :
    (feedBridge m ch grid w flags s).Inv :=
    ⟨⟨h.sh.log, h.sh.irq, h.sh.work⟩, h.cfg, h.drv, h.weft⟩

theorem startChan_keeps {s : State} (h : s.Inv) (b ch : Nat) : (startChan b s ch).Inv :=
    ⟨h.sh, h.cfg, h.drv, h.weft⟩

theorem testEdge_keeps {s : State} (h : s.Inv) (ch : Nat) : (testEdge ch s).Inv := ⟨h.sh, h.cfg, h.drv, h.weft⟩

theorem lendSlot_keeps {s : State} (h : s.Inv) (range : PMem → Nat → Nat) (ch : Nat) : (lendSlot range s ch).Inv := by
  unfold lendSlot
  repeat' first
    | with_reducible assumption
    | with_reducible apply leadClear_keeps
    | with_reducible apply startChan_keeps
    | with_reducible apply testEdge_keeps
    | with_reducible apply chanUpd_keeps
    | with_reducible apply foldl_keeps
    | split
    | intro _

theorem returnSlot_keeps {s : State} (h : s.Inv) (ch : Nat) : (returnSlot s ch).Inv := by
  unfold returnSlot
  repeat' first
    | with_reducible assumption
    | with_reducible apply testEdge_keeps
    | with_reducible apply chanUpd_keeps
    | split

theorem testBegin_keeps {s : State} (h : s.Inv) (chs : List Nat) : (testBegin chs s).Inv := by
  unfold testBegin
  repeat' first
    | with_reducible assumption
    | with_reducible apply lendSlot_keeps
    | with_reducible apply foldl_keeps
    | intro _

theorem testEnd_keeps {s : State} (h : s.Inv) (job st reason : Nat) (result : Bytes) :
    (testEnd job st reason result s).Inv := by
  unfold testEnd
  repeat' first
    | with_reducible assumption
    | with_reducible apply returnSlot_keeps
    | with_reducible apply endJob_keeps
    | with_reducible apply foldl_keeps
    | split
    | intro _

theorem tolAlarm_keeps {s : State} (h : s.Inv) : (tolAlarm s).Inv := setAlarm_keeps h _ _ _ _ _

theorem feedTests_keeps {s : State} (h : s.Inv) (m : PMem) (ch : Nat) (tau u : Int) (x : Sample) :
    (feedTests m ch tau u x s).Inv := by
  unfold feedTests
  repeat' first
    | with_reducible apply request_keeps
    | with_reducible apply returnSlot_keeps
    | with_reducible apply foldl_keeps
    | split
    | intro _
    | with_reducible exact ⟨hh.force, hh.active, hh.copyA, hh.copyB, hh.writes⟩
    | with_reducible exact ⟨hh.staging, hh.tables⟩
    | with_reducible exact ⟨hh.notices⟩
    | exact ⟨hh.log, hh.irq, hh.work⟩
    | (with_reducible refine State.Inv.update ?_ (fun hh => ?_) (fun hh => ?_) (fun hh => ?_) (fun hh => ?_)
       first
         | with_reducible assumption)

theorem feedTemps_keeps {s : State} (h : s.Inv) (pod : Nat) (value : Word) : (feedTemps pod value s).Inv :=
    ⟨⟨h.sh.log, h.sh.irq, h.sh.work⟩, h.cfg, h.drv, h.weft⟩

theorem judgePart_keeps {acc : Bytes × State} (h : acc.2.Inv) (r : CalRun) (ch : Nat) :
    (judgePart r acc ch).2.Inv := by
  unfold judgePart
  repeat' first
    | with_reducible assumption
    | (with_reducible refine State.Inv.update ?_ (fun hh => ?_) (fun hh => ?_) (fun hh => ?_) (fun hh => ?_)
       first
         | with_reducible assumption
         | with_reducible apply partWorn_keeps
         | split)

theorem putCalCopy_keeps {s : State} (h : s.Inv) (toB : Bool) (c : CalCopy) : (putCalCopy toB c s).Inv :=
    ⟨h.sh, h.cfg, h.drv, h.weft⟩

theorem persistCal_keeps {s : State} (h : s.Inv) (es : Tab CalEntry) (seq source : Nat) :
    (persistCal es seq source s).2.Inv := by
  unfold persistCal
  simp only []
  repeat' first
    | with_reducible assumption
    | (with_reducible refine State.Inv.update ?_ (fun hh => ?_) (fun hh => ?_) (fun hh => ?_) (fun hh => ?_)
       first
         | with_reducible apply nextFree_keeps
         | with_reducible apply putCalCopy_keeps
         | with_reducible apply setAlarm_keeps
         | with_reducible apply logEvent_keeps
         | with_reducible apply sectorWorn_keeps
         | split)

theorem fillAlarms_keeps {s : State} (h : s.Inv) : (fillAlarms s).Inv := by
  unfold fillAlarms
  simp only []
  repeat' first
    | with_reducible assumption
    | split
    | with_reducible exact ⟨hh.notices⟩
    | (with_reducible refine State.Inv.update ?_ (fun hh => ?_) (fun hh => ?_) (fun hh => ?_) (fun hh => ?_)
       first
         | with_reducible assumption
         | with_reducible apply setAlarm_keeps)

theorem dropFrames_keeps {s : State} (h : s.Inv) (sel : WFrame → Bool) : (dropFrames sel s).Inv :=
    ⟨h.sh, h.cfg, h.drv, ⟨h.weft.notices⟩⟩

theorem sweepWire_keeps {s : State} (h : s.Inv) : (sweepWire s).Inv := by
  unfold sweepWire
  repeat' first
    | with_reducible apply fillAlarms_keeps
    | split
    | with_reducible exact ⟨hh.force, hh.active, hh.copyA, hh.copyB, hh.writes⟩
    | with_reducible exact ⟨hh.staging, hh.tables⟩
    | with_reducible exact ⟨hh.notices⟩
    | exact ⟨hh.log, hh.irq, hh.work⟩
    | (with_reducible refine State.Inv.update ?_ (fun hh => ?_) (fun hh => ?_) (fun hh => ?_) (fun hh => ?_)
       first
         | with_reducible assumption)

theorem raiseGap_keeps {s : State} (h : s.Inv) (sec flow first seq last instants : Nat) :
    (raiseGap sec flow first seq last instants s).Inv := by
  apply addNotice_keeps
  exact ⟨h.sh, h.cfg, h.drv, ⟨h.weft.notices⟩⟩

theorem gapNotice_keeps {s : State} (h : s.Inv) (run : List WFrame) : (gapNotice run s).Inv := by
  unfold gapNotice
  repeat' first
    | with_reducible assumption
    | with_reducible apply raiseGap_keeps
    | split

theorem streamUpd_keeps {s : State} (h : s.Inv) (k : Nat) (f : Stream → Stream) : (streamUpd k f s).Inv :=
    ⟨h.sh, h.cfg, h.drv, ⟨h.weft.notices⟩⟩

theorem releaseFrames_keeps {s : State} (h : s.Inv) (sel : WFrame → Bool) : (releaseFrames sel s).Inv := by
  unfold releaseFrames
  simp only []
  repeat' first
    | split
    | intro _
    | with_reducible exact ⟨hh.force, hh.active, hh.copyA, hh.copyB, hh.writes⟩
    | with_reducible exact ⟨hh.staging, hh.tables⟩
    | with_reducible exact ⟨hh.notices⟩
    | exact ⟨hh.log, hh.irq, hh.work⟩
    | (with_reducible refine State.Inv.update ?_ (fun hh => ?_) (fun hh => ?_) (fun hh => ?_) (fun hh => ?_)
       first
         | with_reducible assumption
         | with_reducible apply dropFrames_keeps
         | with_reducible apply streamUpd_keeps
         | with_reducible apply gapNotice_keeps
         | with_reducible apply foldl_keeps)

theorem makeRoom_keeps {s : State} (h : s.Inv) (size : Nat) : (makeRoom size s).Inv := by
  unfold makeRoom
  simp only []
  repeat' first
    | with_reducible assumption
    | with_reducible apply setAlarm_keeps
    | with_reducible apply releaseFrames_keeps
    | split

theorem keepHigh_keeps {s : State} (h : s.Inv) : (keepHigh s).Inv := ⟨h.sh, h.cfg, h.drv, h.weft⟩

theorem retain_keeps {s : State} (h : s.Inv) (f : WFrame) : (retain f s).Inv := by
  unfold retain
  simp only []
  repeat' first
    | with_reducible apply keepHigh_keeps
    | with_reducible apply fillAlarms_keeps
    | split
    | with_reducible exact ⟨hh.force, hh.active, hh.copyA, hh.copyB, hh.writes⟩
    | with_reducible exact ⟨hh.staging, hh.tables⟩
    | with_reducible exact ⟨hh.notices⟩
    | exact ⟨hh.log, hh.irq, hh.work⟩
    | (with_reducible refine State.Inv.update ?_ (fun hh => ?_) (fun hh => ?_) (fun hh => ?_) (fun hh => ?_)
       first
         | with_reducible assumption
         | with_reducible apply sweepWire_keeps
         | with_reducible apply makeRoom_keeps)

theorem frameUpd_keeps {s : State} (h : s.Inv) (flow seq : Nat) (g : WFrame → WFrame) :
    (frameUpd flow seq g s).Inv :=
    ⟨h.sh, h.cfg, h.drv, ⟨h.weft.notices⟩⟩

theorem setDelivering_keeps {s : State} (h : s.Inv) (on : Bool) (at_ : Nat) : (setDelivering on at_ s).Inv := by
  unfold setDelivering
  repeat' first
    | with_reducible assumption
    | (with_reducible refine State.Inv.update ?_ (fun hh => ?_) (fun hh => ?_) (fun hh => ?_) (fun hh => ?_)
       first
         | with_reducible assumption
         | split)

theorem feedStreams_keeps {s : State} (h : s.Inv) (m : PMem) (ch : Nat) (x : Sample) :
    (feedStreams m ch x s).Inv := by
  unfold feedStreams
  repeat' first
    | with_reducible assumption
    | with_reducible exact ⟨hh.notices⟩
    | (with_reducible refine State.Inv.update ?_ (fun hh => ?_) (fun hh => ?_) (fun hh => ?_) (fun hh => ?_)
       first
         | with_reducible assumption
         | split)

theorem closeFrame_keeps {s : State} (h : s.Inv) (k sec : Nat) (run : List Nat) : (closeFrame k sec run s).Inv := by
  unfold closeFrame
  repeat' first
    | with_reducible assumption
    | with_reducible apply retain_keeps
    | with_reducible exact ⟨hh.notices⟩
    | (with_reducible refine State.Inv.update ?_ (fun hh => ?_) (fun hh => ?_) (fun hh => ?_) (fun hh => ?_)
       first
         | with_reducible apply streamUpd_keeps
         | split)

theorem closeFront_keeps {s : State} (h : s.Inv) (k sec : Nat) : (closeFront k sec s).Inv := by
  unfold closeFront
  simp only []
  repeat' first
    | with_reducible assumption
    | with_reducible apply closeFrame_keeps
    | split

end Sys2Proof.Machine
end

