-- ==== Sys2Proof/Laws/KeepsDelivery.lean ====
section
/-! SUPPORT. The invariant through the Treadle, records, loops, delivery and samples: one lemma per operation. -/

namespace Sys2Proof.Machine

theorem compUpd_keeps {s : State} (h : s.Inv) (c : Nat) (f : Comp → Comp) : (compUpd c f s).Inv :=
    ⟨h.sh, h.cfg, h.drv, h.weft⟩

theorem tioUpd_keeps {s : State} (h : s.Inv) (p : Nat) (f : Tio → Tio) : (tioUpd p f s).Inv :=
    ⟨h.sh, h.cfg, h.drv, h.weft⟩

theorem seqUpd_keeps {s : State} (h : s.Inv) (q : Nat) (f : Seqr → Seqr) : (seqUpd q f s).Inv :=
    ⟨h.sh, h.cfg, h.drv, h.weft⟩

theorem bobUpd_keeps {s : State} (h : s.Inv) (b : Nat) (f : Bobbin → Bobbin) : (bobUpd b f s).Inv :=
    ⟨h.sh, h.cfg, h.drv, h.weft⟩

theorem dateEvent_keeps {s : State} (h : s.Inv) (srcs : List Nat) (at_ : Nat) : (dateEvent srcs at_ s).Inv :=
    ⟨h.sh, h.cfg, h.drv, h.weft⟩

theorem putResult_keeps {s : State} (h : s.Inv) (c : Nat) (now : Bool) (grid : Nat) :
    (putResult c now grid s).Inv := by
  unfold putResult
  simp only []
  repeat' first
    | with_reducible assumption
    | with_reducible apply compUpd_keeps
    | with_reducible apply dateEvent_keeps
    | split

theorem feedComp_keeps {s : State} (h : s.Inv) (m : PMem) (ch : Nat) (x : Sample) (c : Nat) :
    (feedComp m ch x s c).Inv := by
  unfold feedComp
  simp only []
  repeat' first
    | with_reducible assumption
    | with_reducible apply compUpd_keeps
    | with_reducible apply putResult_keeps
    | split

theorem feedComps_keeps {s : State} (h : s.Inv) (m : PMem) (ch : Nat) (x : Sample) : (feedComps m ch x s).Inv := by
  unfold feedComps
  repeat' first
    | with_reducible assumption
    | with_reducible apply feedComp_keeps
    | with_reducible apply foldl_keeps
    | intro _

theorem dropComps_keeps {s : State} (h : s.Inv) (old new : PMem) (at_ : Nat) : (dropComps old new at_ s).Inv := by
  unfold dropComps
  repeat' first
    | with_reducible assumption
    | with_reducible apply compUpd_keeps
    | with_reducible apply foldl_keeps
    | intro _

theorem adoptPins_keeps {s : State} (h : s.Inv) (old new : PMem) (at_ : Nat) : (adoptPins old new at_ s).Inv := by
  unfold adoptPins
  simp only []
  repeat' first
    | with_reducible assumption
    | with_reducible apply tioUpd_keeps
    | with_reducible apply foldl_keeps
    | split
    | intro _

theorem triggerNotice_keeps {s : State} (h : s.Inv) (g : Trigger) (number flags : Nat) :
    (triggerNotice g number flags s).Inv :=
    addNotice_keeps h _

theorem takeRecord_keeps {s : State} (h : s.Inv) (m : PMem) (g : Trigger) : (takeRecord m g s).1.Inv := by
  unfold takeRecord
  repeat' first
    | with_reducible assumption
    | with_reducible apply bobUpd_keeps
    | with_reducible apply triggerNotice_keeps
    | split

theorem startRecord_keeps {s : State} (h : s.Inv) (m : PMem) (g : Trigger) : (startRecord m g s).1.Inv := by
  unfold startRecord
  simp only []
  repeat' first
    | with_reducible assumption
    | with_reducible apply triggerNotice_keeps
    | with_reducible apply bobUpd_keeps
    | with_reducible apply alarmNotice_keeps
    | with_reducible apply alarmEvent_keeps
    | with_reducible apply takeRecord_keeps
    | split

theorem outerLoop_keeps {s : State} (h : s.Inv) (m : PMem) (v : SeqView) (b : Word) : (outerLoop m v b s).Inv := by
  unfold outerLoop
  repeat' first
    | with_reducible assumption
    | with_reducible exact ⟨hh.staging, hh.tables⟩
    | (with_reducible refine State.Inv.update ?_ (fun hh => ?_) (fun hh => ?_) (fun hh => ?_) (fun hh => ?_)
       first
         | with_reducible assumption
         | split)

theorem outerMark_keeps {s : State} (h : s.Inv) (v : SeqView) (b : Word) (code hub : Nat) (quiet : Bool) :
    (outerMark v b code hub quiet s).Inv := by
  unfold outerMark
  repeat' first
    | with_reducible assumption
    | with_reducible apply addNotice_keeps
    | (with_reducible refine State.Inv.update ?_ (fun hh => ?_) (fun hh => ?_) (fun hh => ?_) (fun hh => ?_)
       first
         | with_reducible assumption
         | split)

theorem outerEvent_keeps {s : State} (h : s.Inv) (v : SeqView) (b : Word) (code hub : Nat) (quiet : Bool) :
    (outerEvent v b code hub quiet s).Inv := by
  unfold outerEvent
  repeat' first
    | with_reducible assumption
    | with_reducible apply offerEvent_keeps
    | with_reducible apply originate_keeps
    | split

theorem outerActions_keeps {s : State} (h : s.Inv) (m : PMem) (v : SeqView) (i mask coin : Nat)
    (shadow : Option Nat) : (outerActions m v i mask coin shadow s).1.Inv := by
  unfold outerActions
  simp only []
  repeat' first
    | with_reducible assumption
    | with_reducible apply outerEvent_keeps
    | with_reducible apply outerMark_keeps
    | with_reducible apply outerLoop_keeps
    | with_reducible apply simTrigger_keeps
    | with_reducible apply startRecord_keeps
    | split

theorem logTransition_keeps {s : State} (h : s.Inv) (q i entered : Nat) (rec : Option Nat) (inst : Nat) :
    (logTransition q i entered rec inst s).Inv := by
  unfold logTransition
  repeat' first
    | with_reducible assumption
    | (with_reducible refine State.Inv.update ?_ (fun hh => ?_) (fun hh => ?_) (fun hh => ?_) (fun hh => ?_)
       first
         | with_reducible assumption
         | split)

theorem evaluate_keeps {s : State} (h : s.Inv) (q inst : Nat) (replay : Option (Nat × Nat)) :
    (evaluate q inst replay s).Inv := by
  unfold evaluate
  simp only []
  repeat' first
    | with_reducible assumption
    | with_reducible apply bobUpd_keeps
    | with_reducible apply seqUpd_keeps
    | with_reducible apply outerActions_keeps
    | with_reducible apply logTransition_keeps
    | with_reducible apply foldl_keeps
    | split
    | intro _

theorem countLate_keeps {s : State} (h : s.Inv) (late : Bool) : (countLate late before s).Inv := by
  unfold countLate
  repeat' first
    | with_reducible assumption
    | with_reducible exact ⟨hh.notices⟩
    | (with_reducible refine State.Inv.update ?_ (fun hh => ?_) (fun hh => ?_) (fun hh => ?_) (fun hh => ?_)
       first
         | with_reducible assumption
         | split)

theorem startHistory_keeps {s : State} (h : s.Inv) (m : PMem) (at_ b : Nat) : (startHistory m at_ s b).Inv :=
    ⟨h.sh, h.cfg, h.drv, h.weft⟩

theorem armSeq_keeps {s : State} (h : s.Inv) (at_ q : Nat) : (armSeq at_ s q).Inv := by
  unfold armSeq
  repeat' first
    | with_reducible assumption
    | with_reducible apply seqUpd_keeps
    | with_reducible apply startHistory_keeps
    | with_reducible apply foldl_keeps
    | intro _

theorem disarmSeq_keeps {s : State} (h : s.Inv) (q : Nat) : (disarmSeq s q).Inv := by
  unfold disarmSeq
  repeat' first
    | with_reducible assumption
    | with_reducible apply seqUpd_keeps
    | with_reducible apply bobUpd_keeps
    | with_reducible apply foldl_keeps
    | intro _

theorem leaveRunTreadle_keeps {s : State} (h : s.Inv) (at_ : Nat) : (leaveRunTreadle at_ s).Inv := by
  unfold leaveRunTreadle
  repeat' first
    | with_reducible assumption
    | intro _
    | (with_reducible refine State.Inv.update ?_ (fun hh => ?_) (fun hh => ?_) (fun hh => ?_) (fun hh => ?_)
       first
         | with_reducible apply disarmSeq_keeps
         | with_reducible apply foldl_keeps)

theorem bootTreadle_keeps {s : State} (h : s.Inv) : (bootTreadle s).Inv := ⟨h.sh, h.cfg, h.drv, h.weft⟩

theorem maskBody_keeps {s : State} (h : s.Inv) (f : Nat → Change) (rq : Req) : (maskBody f rq s).2.Inv := by
  unfold maskBody
  repeat' first
    | with_reducible assumption
    | with_reducible apply stage_keeps
    | split

theorem feedBobbins_keeps {s : State} (h : s.Inv) (m : PMem) (ch : Nat) (x : Sample) :
    (feedBobbins m ch x s).Inv :=
    ⟨h.sh, h.cfg, h.drv, h.weft⟩

theorem queueRecord_keeps {s : State} (h : s.Inv) (b : Nat) (r : Record) (image : Bytes) :
    (queueRecord b r image s).Inv := by
  unfold queueRecord
  repeat' first
    | with_reducible assumption
    | with_reducible apply retain_keeps
    | with_reducible apply bobUpd_keeps
    | with_reducible apply foldl_keeps
    | intro _

theorem completeRecord_keeps {s : State} (h : s.Inv) (b : Nat) (r : Record) : (completeRecord b r s).Inv := by
  unfold completeRecord
  simp only []
  repeat' first
    | with_reducible assumption
    | with_reducible apply bobUpd_keeps
    | with_reducible apply shakeEvent_keeps
    | with_reducible apply queueRecord_keeps
    | split

theorem loopUpd_keeps {s : State} (h : s.Inv) (n : Nat) (f : Loop → Loop) : (loopUpd n f s).Inv :=
    ⟨h.sh, h.cfg, ⟨h.drv.staging, h.drv.tables⟩, h.weft⟩

theorem stimUpd_keeps {s : State} (h : s.Inv) (p : Nat) (f : Stim → Stim) : (stimUpd p f s).Inv :=
    ⟨h.sh, h.cfg, ⟨h.drv.staging, h.drv.tables⟩, h.weft⟩

theorem spoilPoint_keeps {s : State} (h : s.Inv) (k a : Nat) : (spoilPoint k a s).Inv := by
  unfold spoilPoint
  repeat' first
    | with_reducible assumption
    | with_reducible apply tableUpd_keeps
    | intro _

theorem writeLatch_keeps {s : State} (h : s.Inv) (n : Nat) : (writeLatch n s).Inv :=
    ⟨h.sh, h.cfg, ⟨h.drv.staging, h.drv.tables⟩, h.weft⟩

theorem updateLoop_keeps {s : State} (h : s.Inv) (u : Nat) (bad : List Nat) (n : Nat) :
    (updateLoop u bad s n).Inv := by
  unfold updateLoop
  simp only []
  repeat' first
    | with_reducible assumption
    | with_reducible apply loopUpd_keeps
    | with_reducible apply writeLatch_keeps
    | with_reducible apply huskMismatch_keeps
    | with_reducible apply foldl_keeps
    | split
    | intro _

theorem loopRound_keeps {s : State} (h : s.Inv) (n : Nat) : (loopRound s n).Inv := by
  unfold loopRound
  simp only []
  repeat' first
    | with_reducible assumption
    | with_reducible apply alarmNotice_keeps
    | with_reducible apply alarmEvent_keeps
    | with_reducible apply loopUpd_keeps
    | split

theorem initSlot_keeps {s : State} (h : s.Inv) (m : PMem) (n : Nat) : (initSlot m s n).Inv :=
    ⟨h.sh, h.cfg, ⟨h.drv.staging, h.drv.tables⟩, h.weft⟩

theorem holdTables_keeps {s : State} (h : s.Inv) (at_ : Nat) : (holdTables at_ s).Inv := by
  unfold holdTables
  simp only []
  repeat' first
    | with_reducible assumption
    | with_reducible apply loopUpd_keeps
    | with_reducible apply foldl_keeps
    | split
    | intro _

theorem stimCycle_keeps {s : State} (h : s.Inv) (u p : Nat) (a b : Int) : (stimCycle u p a b s).Inv := by
  unfold stimCycle
  simp only []
  repeat' first
    | with_reducible assumption
    | with_reducible apply stimUpd_keeps
    | with_reducible apply nextFree_keeps
    | split

theorem holdStim_keeps {s : State} (h : s.Inv) (u p : Nat) : (holdStim u s p).Inv := by
  unfold holdStim
  repeat' first
    | with_reducible assumption
    | with_reducible apply stimUpd_keeps
    | split

theorem tickStim_keeps {s : State} (h : s.Inv) (u : Nat) (heavy : List Nat) (p : Nat) :
    (tickStim u heavy s p).Inv := by
  unfold tickStim
  simp only []
  repeat' first
    | with_reducible assumption
    | with_reducible apply holdStim_keeps
    | with_reducible apply stimUpd_keeps
    | with_reducible apply stimCycle_keeps
    | with_reducible apply request_keeps
    | with_reducible apply foldl_keeps
    | split
    | intro _

theorem readPoints_keeps {s : State} (h : s.Inv) (x : Nat × Bytes × Nat × Nat) : (readPoints s x).Inv := by
  unfold readPoints
  simp only []
  repeat' first
    | with_reducible assumption
    | with_reducible apply readCode_keeps
    | with_reducible apply spoilPoint_keeps
    | split

theorem stimRead_keeps {s : State} (h : s.Inv) (p k : Nat) (code : Int) : (stimRead p k code s).Inv := by
  unfold stimRead
  simp only []
  repeat' first
    | with_reducible assumption
    | with_reducible apply stimUpd_keeps
    | with_reducible apply stimCycle_keeps
    | split

theorem stopStims_keeps {s : State} (h : s.Inv) (dacZero : Bool) : (stopStims dacZero s).Inv := by
  unfold stopStims
  generalize List.foldl _ _ _ = stims
  exact ⟨h.sh, h.cfg, ⟨h.drv.staging, h.drv.tables⟩, h.weft⟩

theorem haltStims_keeps {s : State} (h : s.Inv) : (haltStims s).Inv := by
  unfold haltStims
  repeat' first
    | with_reducible exact ⟨hh.force, hh.active, hh.copyA, hh.copyB, hh.writes⟩
    | with_reducible exact ⟨hh.staging, hh.tables⟩
    | with_reducible exact ⟨hh.notices⟩
    | exact ⟨hh.log, hh.irq, hh.work⟩
    | (with_reducible refine State.Inv.update ?_ (fun hh => ?_) (fun hh => ?_) (fun hh => ?_) (fun hh => ?_)
       first
         | with_reducible assumption)

theorem resetStims_keeps {s : State} (h : s.Inv) (old new : PMem) : (resetStims old new s).Inv := by
  unfold resetStims
  repeat' first
    | with_reducible assumption
    | with_reducible apply stimUpd_keeps
    | with_reducible apply foldl_keeps
    | intro _

theorem startStims_keeps {s : State} (h : s.Inv) (mask start : Nat) : (startStims mask start s).Inv := by
  unfold startStims
  repeat' first
    | with_reducible assumption
    | with_reducible apply stimUpd_keeps
    | with_reducible apply foldl_keeps
    | intro _

theorem holdStims_keeps {s : State} (h : s.Inv) (mask hold : Nat) : (holdStims mask hold s).Inv := by
  unfold holdStims
  repeat' first
    | with_reducible assumption
    | with_reducible apply stimUpd_keeps
    | with_reducible apply foldl_keeps
    | intro _

theorem fillTable_keeps {s : State} (h : s.Inv) (k : Nat) (b : Bytes) : (fillTable k b s).Inv :=
    unitHolds_keeps (tableUpd_keeps h _ _ fun _ hy => Tab.wf_setList _ _ _ hy) _ _

theorem clearTables_keeps {s : State} (h : s.Inv) (old new : PMem) : (clearTables old new s).Inv := by
  unfold clearTables
  repeat' first
    | with_reducible assumption
    | intro _
    | with_reducible exact ⟨hh.staging, hh.tables⟩
    | (with_reducible refine State.Inv.update ?_ (fun hh => ?_) (fun hh => ?_) (fun hh => ?_) (fun hh => ?_)
       first
         | with_reducible apply tableUpd_keeps
         | with_reducible apply foldl_keeps
         | split)

theorem portUpd_keeps {s : State} (h : s.Inv) (p : Nat) (f : HPort → HPort) : (portUpd p f s).Inv :=
    ⟨h.sh, h.cfg, h.drv, ⟨h.weft.notices⟩⟩

theorem arpAsk_keeps {s : State} (h : s.Inv) (p ip : Nat) : (arpAsk p s ip).Inv := by
  unfold arpAsk
  repeat' first
    | with_reducible assumption
    | with_reducible apply portUpd_keeps
    | split

theorem countWaits_keeps {s : State} (h : s.Inv) (p : Nat) : (countWaits p s).Inv :=
    ⟨h.sh, h.cfg, h.drv, ⟨h.weft.notices⟩⟩

theorem askHops_keeps {s : State} (h : s.Inv) (p : Nat) : (askHops p s).Inv := by
  unfold askHops
  repeat' first
    | with_reducible assumption
    | with_reducible apply countWaits_keeps
    | with_reducible apply arpAsk_keeps
    | with_reducible apply foldl_keeps
    | intro _

theorem sendQueued_keeps {s : State} (h : s.Inv) (p cls : Nat) (f : PortFrame) : (sendQueued p cls f s).Inv :=
    ⟨h.sh, h.cfg, h.drv, ⟨h.weft.notices⟩⟩

theorem noteSent_keeps {s : State} (h : s.Inv) (flow seq : Nat) : (noteSent flow seq s).Inv := by
  unfold noteSent
  repeat' first
    | with_reducible assumption
    | with_reducible apply streamUpd_keeps
    | with_reducible apply bobUpd_keeps
    | split

theorem sendData_keeps {s : State} (h : s.Inv) (p : Nat) (f : WFrame) (again : Bool) :
    (sendData p f again s).Inv := by
  unfold sendData
  repeat' first
    | with_reducible assumption
    | with_reducible apply portUpd_keeps
    | with_reducible apply frameUpd_keeps
    | with_reducible apply streamUpd_keeps
    | with_reducible apply bobUpd_keeps
    | with_reducible apply noteSent_keeps
    | with_reducible apply emit_keeps
    | split

theorem sendPtp_keeps {s : State} (h : s.Inv) (p : Nat) (f : PortFrame) : (sendPtp p f s).Inv :=
    ⟨h.sh, h.cfg, h.drv, ⟨h.weft.notices⟩⟩

theorem skipPorts_keeps {s : State} (h : s.Inv) : (skipPorts s).Inv := ⟨h.sh, h.cfg, h.drv, ⟨h.weft.notices⟩⟩

theorem portDown_keeps {s : State} (h : s.Inv) (port : Nat) : (portDown port s).Inv :=
    ⟨h.sh, h.cfg, h.drv, ⟨h.weft.notices⟩⟩

theorem portRises_keeps {s : State} (h : s.Inv) (port : Nat) : (portRises port s).Inv :=
    ⟨h.sh, h.cfg, h.drv, ⟨h.weft.notices⟩⟩

theorem portEnabled_keeps {s : State} (h : s.Inv) (old new : PMem) (port : Nat) :
    (portEnabled old new s port).Inv := by
  unfold portEnabled
  repeat' first
    | with_reducible assumption
    | with_reducible apply portRises_keeps
    | with_reducible apply portUpd_keeps
    | with_reducible apply portDown_keeps
    | split

theorem arpLearn_keeps {s : State} (h : s.Inv) (port ip mac : Nat) : (arpLearn port ip mac s).Inv :=
    ⟨h.sh, h.cfg, h.drv, ⟨h.weft.notices⟩⟩

theorem forgetFrames_keeps {s : State} (h : s.Inv) (sel : WFrame → Bool) : (forgetFrames sel s).Inv := by
  unfold forgetFrames
  repeat' first
    | with_reducible apply fillAlarms_keeps
    | with_reducible apply dropFrames_keeps
    | with_reducible exact ⟨hh.force, hh.active, hh.copyA, hh.copyB, hh.writes⟩
    | with_reducible exact ⟨hh.staging, hh.tables⟩
    | with_reducible exact ⟨hh.notices⟩
    | exact ⟨hh.log, hh.irq, hh.work⟩
    | (with_reducible refine State.Inv.update ?_ (fun hh => ?_) (fun hh => ?_) (fun hh => ?_) (fun hh => ?_)
       first
         | with_reducible assumption)

theorem ackFlow_keeps {s : State} (h : s.Inv) (flow a : Nat) : (ackFlow flow a s).Inv := by
  unfold ackFlow
  repeat' first
    | with_reducible assumption
    | with_reducible apply forgetFrames_keeps
    | with_reducible apply streamUpd_keeps
    | with_reducible apply bobUpd_keeps
    | split

theorem ackEntry_keeps {s : State} (h : s.Inv) (port : Nat) (e : Nat × Nat) : (ackEntry port s e).Inv := by
  unfold ackEntry
  repeat' first
    | with_reducible assumption
    | with_reducible apply portUpd_keeps
    | with_reducible apply ackFlow_keeps
    | split

theorem countWin_keeps {s : State} (h : s.Inv) (i : Nat) : (countWin i s).Inv := ⟨h.sh, h.cfg, h.drv, h.weft⟩

theorem checkForcing_keeps {s : State} (h : s.Inv) : (checkForcing s).Inv := by
  unfold checkForcing
  repeat' first
    | with_reducible assumption
    | (with_reducible refine State.Inv.update ?_ (fun hh => ?_) (fun hh => ?_) (fun hh => ?_) (fun hh => ?_)
       first
         | with_reducible assumption
         | with_reducible apply countWin_keeps
         | split)

theorem stallAt_keeps {s : State} (h : s.Inv) (out : Bytes) (bit : Nat) : (stallAt out bit s).Inv :=
    ⟨h.sh, h.cfg, h.drv, h.weft⟩

theorem imageUpd_keeps {s : State} (h : s.Inv) (slot : Nat) (f : Image → Image) : (imageUpd slot f s).Inv :=
    ⟨h.sh, h.cfg, h.drv, h.weft⟩

theorem jobFails_keeps {s : State} (h : s.Inv) (id reason code consumed produced : Nat) :
    (jobFails id reason code consumed produced s).Inv := by
  unfold jobFails
  repeat' first
    | with_reducible assumption
    | with_reducible apply endJob_keeps
    | with_reducible apply countWin_keeps

theorem endImage_keeps {s : State} (h : s.Inv) (id n : Nat) (out : Bytes) : (endImage id n out s).Inv := by
  unfold endImage
  repeat' first
    | with_reducible assumption
    | with_reducible exact ⟨hh.staging, hh.tables⟩
    | (with_reducible refine State.Inv.update ?_ (fun hh => ?_) (fun hh => ?_) (fun hh => ?_) (fun hh => ?_)
       first
         | with_reducible apply unitHolds_keeps
         | with_reducible apply nextFree_keeps
         | with_reducible apply imageUpd_keeps
         | with_reducible apply endJob_keeps
         | with_reducible apply countWin_keeps
         | with_reducible apply jobFails_keeps
         | with_reducible apply sectorWorn_keeps
         | split)

theorem endTable_keeps {s : State} (h : s.Inv) (id k n : Nat) (out : Bytes) : (endTable id k n out s).Inv := by
  unfold endTable
  repeat' first
    | with_reducible assumption
    | intro _
    | with_reducible exact ⟨hh.staging, hh.tables⟩
    | (with_reducible refine State.Inv.update ?_ (fun hh => ?_) (fun hh => ?_) (fun hh => ?_) (fun hh => ?_)
       first
         | with_reducible assumption
         | with_reducible apply jobFails_keeps
         | with_reducible apply tableUpd_keeps
         | with_reducible apply fillTable_keeps
         | with_reducible apply endJob_keeps
         | with_reducible apply countWin_keeps
         | split)

theorem stagingRun_keeps {s : State} (h : s.Inv) (w : Option JobWork) : (stagingRun w s).Inv := by
  unfold stagingRun
  repeat' first
    | with_reducible assumption
    | with_reducible apply unitHolds_keeps
    | split

theorem wordGap_keeps {s : State} (h : s.Inv) (ch missing k d : Nat) : (wordGap ch missing k d s).Inv := by
  unfold wordGap
  simp only []
  repeat' first
    | with_reducible assumption
    | with_reducible apply eventOn_keeps
    | with_reducible apply chanUpd_keeps
    | split

theorem plyWord_keeps {s : State} (h : s.Inv) (ch : Nat) (reed : Bool) (slot k : Nat) (codes : List Int) :
    (plyWord ch reed slot k codes s).Inv := by
  unfold plyWord
  simp only []
  repeat' first
    | split
    | with_reducible exact ⟨hh.force, hh.active, hh.copyA, hh.copyB, hh.writes⟩
    | with_reducible exact ⟨hh.staging, hh.tables⟩
    | with_reducible exact ⟨hh.notices⟩
    | exact ⟨hh.log, hh.irq, hh.work⟩
    | (with_reducible refine State.Inv.update ?_ (fun hh => ?_) (fun hh => ?_) (fun hh => ?_) (fun hh => ?_)
       first
         | with_reducible assumption
         | with_reducible apply chanUpd_keeps
         | with_reducible apply wordGap_keeps)

theorem holdPly_keeps {s : State} (h : s.Inv) (die : Nat) (i : Held) : (holdPly die i s).Inv :=
    ⟨h.sh, h.cfg, h.drv, h.weft⟩

theorem dieLost_keeps {s : State} (h : s.Inv) (die : Nat) : (dieLost die s).Inv := by
  unfold dieLost
  repeat' first
    | with_reducible assumption
    | with_reducible apply chanUpd_keeps
    | with_reducible apply foldl_keeps
    | intro _

theorem dieResumes_keeps {s : State} (h : s.Inv) (die : Nat) : (dieResumes die s).Inv := by
  unfold dieResumes
  repeat' first
    | with_reducible assumption
    | with_reducible apply eventOn_keeps
    | with_reducible apply chanUpd_keeps
    | with_reducible apply foldl_keeps
    | split
    | intro _

theorem domUpd_keeps {s : State} (h : s.Inv) (d : Nat) (f : Domain → Domain) : (domUpd d f s).Inv :=
    ⟨h.sh, h.cfg, h.drv, h.weft⟩

theorem plyAlarms_keeps {s : State} (h : s.Inv) (die : Nat) : (plyAlarms die s).Inv := by
  unfold plyAlarms
  repeat' first
    | with_reducible assumption
    | with_reducible apply setAlarm_keeps

theorem spreadSample_keeps {s : State} (h : s.Inv) (m : PMem) (ch : Nat) (x : Sample) :
    (spreadSample m ch x s).Inv := by
  unfold spreadSample
  repeat' first
    | with_reducible assumption
    | with_reducible apply feedStreams_keeps
    | with_reducible apply feedBobbins_keeps
    | with_reducible apply feedComps_keeps

theorem outputSample_keeps {s : State} (h : s.Inv) (ch grid : Nat) (lost : Bool) :
    (outputSample ch grid lost s).Inv := by
  unfold outputSample
  simp only []
  repeat' first
    | with_reducible assumption
    | with_reducible apply chanUpd_keeps
    | with_reducible apply spreadSample_keeps
    | with_reducible apply feedTests_keeps
    | with_reducible apply feedBridge_keeps
    | with_reducible apply eventOn_keeps
    | split

end Sys2Proof.Machine
end

