-- ==== Sys2Proof/Laws/KeepsSystem.lean ====
section
/-! SUPPORT. The invariant through moves, integrity, power, pairing, boundaries and BOOT: one lemma per operation. -/

namespace Sys2Proof.Machine

theorem startSampling_keeps {s : State} (h : s.Inv) (b : Nat) : (startSampling b s).Inv := by
  unfold startSampling
  repeat' first
    | with_reducible assumption
    | with_reducible apply startChan_keeps
    | with_reducible apply foldl_keeps
    | intro _

theorem quietSlot_keeps {s : State} (h : s.Inv) (ch : Nat) : (quietSlot ch s).Inv := by
  unfold quietSlot
  repeat' first
    | with_reducible assumption
    | with_reducible apply leadClear_keeps
    | with_reducible apply ovrUpd_keeps
    | with_reducible apply foldl_keeps
    | intro _

theorem stopSampling_keeps {s : State} (h : s.Inv) : (stopSampling s).Inv := by
  unfold stopSampling
  repeat' first
    | with_reducible assumption
    | with_reducible apply quietSlot_keeps
    | with_reducible apply chanUpd_keeps
    | with_reducible apply foldl_keeps
    | intro _

theorem endTests_keeps {s : State} (h : s.Inv) : (endTests s).Inv := by
  unfold endTests
  repeat' first
    | with_reducible assumption
    | with_reducible apply testEnd_keeps
    | with_reducible apply foldl_keeps
    | intro _

theorem cancelEvent_keeps {s : State} (h : s.Inv) (c : Staged) : (cancelEvent s c).Inv := logEvent_keeps h _ _ _

theorem cancelMoves_keeps {s : State} (h : s.Inv) : (cancelMoves s).Inv := by
  unfold cancelMoves
  repeat' first
    | with_reducible assumption
    | intro _
    | with_reducible exact ⟨hh.force, hh.active, hh.copyA, hh.copyB, hh.writes⟩
    | (with_reducible refine State.Inv.update ?_ (fun hh => ?_) (fun hh => ?_) (fun hh => ?_) (fun hh => ?_)
       first
         | with_reducible assumption
         | with_reducible apply cancelEvent_keeps
         | with_reducible apply foldl_keeps)

theorem cancelArms_keeps {s : State} (h : s.Inv) : (cancelArms s).Inv := by
  unfold cancelArms
  repeat' first
    | with_reducible assumption
    | intro _
    | with_reducible exact ⟨hh.force, hh.active, hh.copyA, hh.copyB, hh.writes⟩
    | (with_reducible refine State.Inv.update ?_ (fun hh => ?_) (fun hh => ?_) (fun hh => ?_) (fun hh => ?_)
       first
         | with_reducible assumption
         | with_reducible apply cancelEvent_keeps
         | with_reducible apply foldl_keeps)

theorem podsSwitch_keeps {s : State} (h : s.Inv) (pods : List Nat) (at_ : Nat) : (podsSwitch pods at_ s).Inv := by
  unfold podsSwitch
  repeat' first
    | with_reducible assumption
    | with_reducible apply noteSwitch_keeps
    | with_reducible apply foldl_keeps
    | intro _

theorem rolesSwitch_keeps {s : State} (h : s.Inv) (at_ : Nat) : (rolesSwitch at_ s).Inv := by
  unfold rolesSwitch
  repeat' first
    | with_reducible assumption
    | with_reducible apply podsSwitch_keeps

theorem dieSwitch_keeps {s : State} (h : s.Inv) (die : Nat) : (dieSwitch die s).Inv := by
  unfold dieSwitch
  repeat' first
    | with_reducible assumption
    | with_reducible apply podsSwitch_keeps
    | split

theorem leaveState_keeps {s : State} (h : s.Inv) (old new : HubState) (at_ : Nat) :
    (leaveState old new at_ s).Inv := by
  unfold leaveState
  extract_lets s1 s2 hub s3 s4 s5 s6
  have k1 : s1.Inv := by unfold s1; split; exacts [cancelMoves_keeps h, h]
  have k2 : s2.Inv := by unfold s2; clear_value s1; split; exacts [cancelArms_keeps k1, k1]
  have k3 : s3.Inv := by unfold s3; clear_value hub s2; split; exacts [hub_keeps k2 _, k2]
  have k4 : s4.Inv := by
    unfold s4; clear_value s3; split
    · refine rolesSwitch_keeps ?_ _
      split
      exacts [listsFrom_keeps k3 _ _, k3]
    · exact k3
  have k5 : s5.Inv := by
    unfold s5; clear_value s4; split
    · exact setDelivering_keeps k4 _ _
    · split
      exacts [k4, setDelivering_keeps k4 _ _]
  have k6 : s6.Inv := by unfold s6; clear_value s5; split; exacts [leaveRunTreadle_keeps k5 _, k5]
  clear_value s6
  split
  exacts [endTests_keeps k6, k6]

theorem arriveState_keeps {s : State} (h : s.Inv) (old new : HubState) (reason at_ : Nat) :
    (arriveState old new reason at_ s).Inv := by
  unfold arriveState
  repeat' first
    | with_reducible apply initSlot_keeps
    | with_reducible apply holdTables_keeps
    | with_reducible apply stopSampling_keeps
    | with_reducible apply alarmNotice_keeps
    | with_reducible apply haltStims_keeps
    | with_reducible apply foldl_keeps
    | split
    | intro _
    | with_reducible exact ⟨hh.force, hh.active, hh.copyA, hh.copyB, hh.writes⟩
    | with_reducible exact ⟨hh.staging, hh.tables⟩
    | with_reducible exact ⟨hh.notices⟩
    | exact ⟨hh.log, hh.irq, hh.work⟩
    | (with_reducible refine State.Inv.update ?_ (fun hh => ?_) (fun hh => ?_) (fun hh => ?_) (fun hh => ?_)
       first
         | with_reducible assumption
         | with_reducible apply startSampling_keeps
         | with_reducible apply stopStims_keeps)

theorem enterState_keeps {s : State} (h : s.Inv) (new : HubState) (reason source at_ : Nat) :
    (enterState new reason source at_ s).Inv := by
  unfold enterState
  repeat' first
    | with_reducible assumption
    | (with_reducible refine State.Inv.update ?_ (fun hh => ?_) (fun hh => ?_) (fun hh => ?_) (fun hh => ?_)
       first
         | with_reducible assumption
         | with_reducible apply logEvent_keeps
         | with_reducible apply cutLeads_keeps
         | with_reducible apply arriveState_keeps
         | with_reducible apply leaveState_keeps
         | split)

theorem enterFault_keeps {s : State} (h : s.Inv) (c : FaultCause) : (enterFault c s).Inv := by
  unfold enterFault
  repeat' first
    | with_reducible assumption
    | (with_reducible refine State.Inv.update ?_ (fun hh => ?_) (fun hh => ?_) (fun hh => ?_) (fun hh => ?_)
       first
         | with_reducible assumption
         | with_reducible apply enterState_keeps
         | split)

theorem macFault_keeps {s : State} (h : s.Inv) : (macFault s).Inv := by
  unfold macFault
  repeat' first
    | with_reducible assumption
    | with_reducible apply enterFault_keeps
    | split

theorem stageMove_keeps {s : State} (h : s.Inv) (target : HubState) (rq : Req) : (stageMove target rq s).2.Inv := by
  unfold stageMove
  repeat' first
    | with_reducible assumption
    | with_reducible apply stage_keeps
    | split

theorem afterCommit_keeps {s : State} (h : s.Inv) (keep : Bool) : (afterCommit keep s).Inv := by
  unfold afterCommit
  split
  · exact ⟨⟨h.sh.log, h.sh.irq, fun w e => by cases e; exact h.cfg.force⟩, h.cfg, h.drv, h.weft⟩
  · exact ⟨⟨h.sh.log, h.sh.irq, fun _ e => nomatch e⟩, h.cfg, h.drv, h.weft⟩

theorem commitTake_keeps {s : State} (h : s.Inv) (ws : List (Nat × Word)) (word : Word) (rq : Req) :
    (commitTake ws word rq s).2.Inv := by
  unfold commitTake
  simp only []
  repeat' first
    | with_reducible assumption
    | with_reducible apply persistForce_keeps
    | with_reducible apply afterCommit_keeps
    | with_reducible apply acceptWords_keeps
    | with_reducible apply stage_keeps
    | split

theorem commitBody_keeps {s : State} (h : s.Inv) (rq : Req) : (commitBody rq s).2.Inv := by
  unfold commitBody
  simp only []
  repeat' first
    | with_reducible assumption
    | with_reducible apply commitTake_keeps
    | split

theorem withdrawSwap_keeps {s : State} (h : s.Inv) (id die mb : Nat) : (withdrawSwap id die mb s).Inv := by
  unfold withdrawSwap
  repeat' first
    | with_reducible assumption
    | with_reducible exact ⟨hh.force, hh.active, hh.copyA, hh.copyB, hh.writes⟩
    | (with_reducible refine State.Inv.update ?_ (fun hh => ?_) (fun hh => ?_) (fun hh => ?_) (fun hh => ?_)
       first
         | with_reducible assumption
         | with_reducible apply endJob_keeps
         | with_reducible apply putLive_keeps)

theorem withdrawReset_keeps {s : State} (h : s.Inv) (id : Nat) : (withdrawReset id s).Inv :=
    ⟨⟨h.sh.log, h.sh.irq, h.sh.work⟩, h.cfg, h.drv, h.weft⟩

theorem cancelWinnow_keeps {s : State} (h : s.Inv) (id : Nat) : (cancelWinnow id s).Inv :=
    ⟨⟨h.sh.log, h.sh.irq, h.sh.work⟩, h.cfg, h.drv, h.weft⟩

theorem editRecord_keeps {s : State} (h : s.Inv) (b number : Nat) (g : Nat → Byte → Byte) :
    (editRecord b number g s).Inv :=
    ⟨h.sh, h.cfg, h.drv, ⟨h.weft.notices⟩⟩

theorem loseWindow_keeps {s : State} (h : s.Inv) (b : Nat) (r : Record) (codes marks a : Nat) :
    (loseWindow b r codes marks a s).Inv :=
    ⟨h.sh, h.cfg, h.drv, ⟨h.weft.notices⟩⟩

theorem fillNext_keeps {s : State} (h : s.Inv) (ch k n : Nat) : (fillNext ch k n s).Inv :=
    ⟨h.sh, h.cfg, h.drv, h.weft⟩

theorem damage_keeps {s : State} (h : s.Inv) (w : Nat → Nat) : (damage w s).Inv := by
  unfold damage
  simp only []
  repeat' first
    | with_reducible apply releaseFrames_keeps
    | with_reducible apply loseWindow_keeps
    | with_reducible apply bobUpd_keeps
    | with_reducible apply spoilPoint_keeps
    | with_reducible apply fillNext_keeps
    | split
    | with_reducible exact ⟨hh.force, hh.active, hh.copyA, hh.copyB, hh.writes⟩
    | with_reducible exact ⟨hh.staging, hh.tables⟩
    | with_reducible exact ⟨hh.notices⟩
    | exact ⟨hh.log, hh.irq, hh.work⟩
    | (with_reducible refine State.Inv.update ?_ (fun hh => ?_) (fun hh => ?_) (fun hh => ?_) (fun hh => ?_)
       first
         | with_reducible assumption)

theorem scrubOne_keeps {s : State} (h : s.Inv) (x : Nat × Bytes) : (scrubOne s x).Inv := by
  unfold scrubOne
  simp only []
  repeat' first
    | with_reducible apply damage_keeps
    | with_reducible apply writeBack_keeps
    | split
    | with_reducible exact ⟨hh.force, hh.active, hh.copyA, hh.copyB, hh.writes⟩
    | with_reducible exact ⟨hh.staging, hh.tables⟩
    | with_reducible exact ⟨hh.notices⟩
    | exact ⟨hh.log, hh.irq, hh.work⟩
    | (with_reducible refine State.Inv.update ?_ (fun hh => ?_) (fun hh => ?_) (fun hh => ?_) (fun hh => ?_)
       first
         | with_reducible assumption
         | with_reducible apply readCode_keeps)

theorem holdCrossings_keeps {s : State} (h : s.Inv) : (holdCrossings s).Inv := by
  unfold holdCrossings
  repeat' first
    | with_reducible assumption
    | (with_reducible refine State.Inv.update ?_ (fun hh => ?_) (fun hh => ?_) (fun hh => ?_) (fun hh => ?_)
       first
         | with_reducible assumption)

theorem clockAlarm_keeps {s : State} (h : s.Inv) (logged : Bool) : (clockAlarm logged s).Inv :=
    setAlarm_keeps h _ _ _ _ _

theorem askAgain_keeps {s : State} (h : s.Inv) (gone : List Held) : (askAgain gone s).Inv := by
  unfold askAgain
  repeat' first
    | with_reducible assumption
    | with_reducible apply request_keeps
    | with_reducible apply foldl_keeps
    | split
    | intro _

theorem emptyCrossing_keeps {s : State} (h : s.Inv) (x : Nat) : (emptyCrossing x s).Inv := by
  unfold emptyCrossing
  repeat' first
    | with_reducible apply askAgain_keeps
    | split
    | with_reducible exact ⟨hh.force, hh.active, hh.copyA, hh.copyB, hh.writes⟩
    | with_reducible exact ⟨hh.staging, hh.tables⟩
    | with_reducible exact ⟨hh.notices⟩
    | exact ⟨hh.log, hh.irq, hh.work⟩
    | (with_reducible refine State.Inv.update ?_ (fun hh => ?_) (fun hh => ?_) (fun hh => ?_) (fun hh => ?_)
       first
         | with_reducible assumption
         | with_reducible apply crossUpd_keeps)

theorem rewriteStaged_keeps {s : State} (h : s.Inv) : (rewriteStaged s).Inv :=
    ⟨h.sh, ⟨h.cfg.force, h.cfg.active, h.cfg.copyA, h.cfg.copyB, h.cfg.writes⟩, h.drv, h.weft⟩

theorem clearRead_keeps {s : State} (h : s.Inv) (f : State → Bytes) (wipe : State → State) (rq : Req)
    (hf : ∀ s : State, s.Inv → (wipe s).Inv) : (clearRead f wipe rq s).2.Inv := by
  unfold clearRead
  simp only []
  repeat' first
    | with_reducible assumption
    | with_reducible apply hf
    | split

theorem clearCrossings_keeps {s : State} (h : s.Inv) : (clearCrossings s).Inv := ⟨h.sh, h.cfg, h.drv, h.weft⟩

theorem quietDie_keeps {s : State} (h : s.Inv) (die : Nat) : (quietDie die s).Inv := by
  unfold quietDie
  repeat' first
    | with_reducible assumption
    | with_reducible apply dieLost_keeps
    | with_reducible apply quietSlot_keeps
    | with_reducible apply dropConverters_keeps
    | with_reducible apply foldl_keeps
    | intro _

theorem storeGone_keeps {s : State} (h : s.Inv) : (storeGone s).Inv := by
  apply fillAlarms_keeps
  refine ⟨h.sh, h.cfg, ⟨rfl, fun k => ?_⟩, ⟨h.weft.notices⟩⟩
  simp only []
  unfold emptyTables
  refine tables_foldl (fun y _ => ?_) _ h.drv.tables k
  rfl

theorem allLost_keeps {s : State} (h : s.Inv) (store : Bool) : (allLost store s).Inv := by
  unfold allLost
  repeat' first
    | with_reducible assumption
    | with_reducible apply chanUpd_keeps
    | with_reducible apply foldl_keeps
    | intro _

theorem domainStops_keeps {s : State} (h : s.Inv) (d : Nat) : (domainStops d s).Inv := by
  unfold domainStops
  repeat' first
    | with_reducible assumption
    | with_reducible apply allLost_keeps
    | with_reducible apply emptyCrossing_keeps
    | with_reducible apply storeGone_keeps
    | with_reducible apply portDown_keeps
    | with_reducible apply plyAlarms_keeps
    | with_reducible apply quietDie_keeps
    | with_reducible apply dieSwitch_keeps
    | with_reducible apply foldl_keeps
    | split
    | intro _

theorem loseDomain_keeps {s : State} (h : s.Inv) (d : Nat) : (loseDomain d s).Inv := by
  unfold loseDomain
  simp only []
  repeat' first
    | with_reducible assumption
    | with_reducible apply domUpd_keeps
    | with_reducible apply domainStops_keeps
    | with_reducible apply logEvent_keeps
    | with_reducible apply enterFault_keeps
    | split

theorem tearWrites_keeps {s : State} (h : s.Inv) : (tearWrites s).Inv := by
  refine ⟨h.sh, ⟨h.cfg.force, h.cfg.active, ?_, ?_, fun _ hw => nomatch hw⟩, h.drv, h.weft⟩
  · exact tornSlot_ok (invalid := fun c => { c with valid := false }) (fun _ => rfl) _ _ h.cfg.copyA h.cfg.writes
  · exact tornSlot_ok (invalid := fun c => { c with valid := false }) (fun _ => rfl) _ _ h.cfg.copyB h.cfg.writes

theorem dropToBoot_keeps {s : State} (h : s.Inv) (source : Nat) : (dropToBoot source s).Inv := by
  unfold dropToBoot
  repeat' first
    | with_reducible assumption
    | with_reducible apply enterState_keeps
    | with_reducible apply endClaims_keeps
    | with_reducible apply endXi_keeps
    | with_reducible apply releaseTaps_keeps

theorem loseD0_keeps {s : State} (h : s.Inv) : (loseD0 s).Inv := by
  unfold loseD0
  simp only []
  repeat' first
    | with_reducible apply dropToBoot_keeps
    | with_reducible apply logEvent_keeps
    | split
    | with_reducible exact ⟨hh.force, hh.active, hh.copyA, hh.copyB, hh.writes⟩
    | with_reducible exact ⟨hh.staging, hh.tables⟩
    | with_reducible exact ⟨hh.notices⟩
    | exact ⟨hh.log, hh.irq, hh.work⟩
    | (with_reducible refine State.Inv.update ?_ (fun hh => ?_) (fun hh => ?_) (fun hh => ?_) (fun hh => ?_)
       first
         | with_reducible assumption
         | with_reducible apply domUpd_keeps
         | with_reducible apply tearWrites_keeps)

theorem startDomain_keeps {s : State} (h : s.Inv) (d : Nat) : (startDomain d s).Inv := by
  unfold startDomain
  repeat' first
    | with_reducible assumption
    | with_reducible apply domUpd_keeps
    | split

theorem stopDomain_keeps {s : State} (h : s.Inv) (d : Nat) : (stopDomain d s).Inv := by
  unfold stopDomain
  repeat' first
    | with_reducible assumption
    | with_reducible apply domainStops_keeps
    | with_reducible apply domUpd_keeps
    | split

theorem applyDomains_keeps {s : State} (h : s.Inv) (mask : Nat) : (applyDomains mask s).Inv := by
  unfold applyDomains
  simp only []
  repeat' first
    | with_reducible assumption
    | with_reducible apply startDomain_keeps
    | with_reducible apply stopDomain_keeps
    | with_reducible apply foldl_keeps
    | split
    | intro _

theorem restartDomains_keeps {s : State} (h : s.Inv) : (restartDomains s).Inv := by
  unfold restartDomains
  simp only []
  repeat' first
    | with_reducible assumption
    | with_reducible apply startDomain_keeps
    | with_reducible apply foldl_keeps
    | split
    | intro _

theorem fabricResumes_keeps {s : State} (h : s.Inv) : (fabricResumes s).Inv := by
  unfold fabricResumes
  simp only []
  repeat' first
    | with_reducible assumption
    | with_reducible apply chanUpd_keeps
    | with_reducible apply eventOn_keeps
    | with_reducible apply foldl_keeps
    | split
    | intro _

theorem domainOn_keeps {s : State} (h : s.Inv) (d : Nat) : (domainOn d s).Inv := by
  unfold domainOn
  repeat' first
    | with_reducible assumption
    | with_reducible apply domUpd_keeps
    | with_reducible apply fabricResumes_keeps
    | with_reducible apply dieSwitch_keeps
    | split

theorem railUpd_keeps {s : State} (h : s.Inv) (r : Nat) (f : Rail → Rail) : (railUpd r f s).Inv :=
    ⟨h.sh, h.cfg, h.drv, h.weft⟩

theorem railAlarm_keeps {s : State} (h : s.Inv) : (railAlarm s).Inv := setAlarm_keeps h _ _ _ _ _

theorem wornPut_keeps {s : State} (h : s.Inv) (kind pod idx st : Nat) : (wornPut kind pod idx st s).Inv :=
    ⟨h.sh, h.cfg, h.drv, h.weft⟩

theorem applySubst_keeps {s : State} (h : s.Inv) (kind idx : Nat) : (applySubst kind idx s).Inv := by
  unfold applySubst
  simp only []
  repeat' first
    | with_reducible assumption
    | (with_reducible refine State.Inv.update ?_ (fun hh => ?_) (fun hh => ?_) (fun hh => ?_) (fun hh => ?_)
       first
         | with_reducible apply wornPut_keeps
         | with_reducible apply logEvent_keeps
         | split)

theorem joinCore_keeps {s : State} (h : s.Inv) : (joinCore s).Inv := by
  unfold joinCore
  repeat' first
    | with_reducible assumption
    | (with_reducible refine State.Inv.update ?_ (fun hh => ?_) (fun hh => ?_) (fun hh => ?_) (fun hh => ?_)
       first
         | with_reducible assumption
         | split)

theorem staleEntries_keeps {s : State} (h : s.Inv) (keys : List Nat) : (staleEntries keys s).Inv :=
    ⟨h.sh, h.cfg, h.drv, h.weft⟩

theorem applyConsent_keeps {s : State} (h : s.Inv) (kind pod part spare : Nat) :
    (applyConsent kind pod part spare s).Inv := by
  unfold applyConsent
  simp only []
  repeat' first
    | with_reducible assumption
    | (with_reducible refine State.Inv.update ?_ (fun hh => ?_) (fun hh => ?_) (fun hh => ?_) (fun hh => ?_)
       first
         | with_reducible apply wornPut_keeps
         | with_reducible apply logEvent_keeps
         | with_reducible apply staleEntries_keeps
         | with_reducible apply seedAlarm_keeps
         | split)

theorem settleWorn_keeps {s : State} (h : s.Inv) : (settleWorn s).Inv := by
  unfold settleWorn
  repeat' first
    | with_reducible assumption
    | (with_reducible refine State.Inv.update ?_ (fun hh => ?_) (fun hh => ?_) (fun hh => ?_) (fun hh => ?_)
       first
         | with_reducible assumption
         | with_reducible apply seedAlarm_keeps)

theorem pairUpd_keeps {s : State} (h : s.Inv) (f : Pair → Pair) : (pairUpd f s).Inv :=
    ⟨h.sh, h.cfg, h.drv, h.weft⟩

theorem countPair_keeps {s : State} (h : s.Inv) (i : Nat) : (countPair i s).Inv := ⟨h.sh, h.cfg, h.drv, h.weft⟩

theorem pairEvent_keeps {s : State} (h : s.Inv) (reason : Nat) : (pairEvent reason s).Inv :=
    logEvent_keeps h _ _ _

theorem mirrorAlarm_keeps {s : State} (h : s.Inv) (on : Bool) : (mirrorAlarm on s).Inv := by
  unfold mirrorAlarm
  repeat' first
    | with_reducible assumption
    | with_reducible apply pairEvent_keeps
    | with_reducible apply setAlarm_keeps
    | split

theorem uncertainAlarm_keeps {s : State} (h : s.Inv) (on : Bool) : (uncertainAlarm on s).Inv := by
  unfold uncertainAlarm
  repeat' first
    | with_reducible assumption
    | with_reducible apply pairEvent_keeps
    | with_reducible apply setAlarm_keeps
    | split

theorem svSend_keeps {s : State} (h : s.Inv) (typ : Nat) (payload : Bytes) : (svSend typ payload s).Inv := by
  unfold svSend
  repeat' first
    | with_reducible assumption
    | with_reducible apply svForm_keeps
    | with_reducible apply emitSv_keeps

theorem sendSwitch_keeps {s : State} (h : s.Inv) (tT : Nat) : (sendSwitch tT s).Inv := by
  unfold sendSwitch
  repeat' first
    | with_reducible assumption
    | with_reducible apply svForm_keeps
    | with_reducible apply emitSv_keeps

theorem svAccept_keeps {s : State} (h : s.Inv) (alive : Nat) (crcOk : Bool) : (svAccept alive crcOk s).2.Inv := by
  unfold svAccept
  simp only []
  repeat' first
    | with_reducible assumption
    | (with_reducible refine State.Inv.update ?_ (fun hh => ?_) (fun hh => ?_) (fun hh => ?_) (fun hh => ?_)
       first
         | with_reducible assumption
         | with_reducible apply pairUpd_keeps
         | with_reducible apply unitMismatch_keeps
         | split)

theorem svCheck_keeps {s : State} (h : s.Inv) (typ : Nat) (h : SvHeader) (payload : Bytes) :
    (svCheck typ h payload s).Inv := by
  unfold svCheck
  repeat' first
    | with_reducible assumption
    | with_reducible apply unitHolds_keeps
    | with_reducible apply nextFree_keeps
    | split

theorem onFrame_keeps {s : State} (h : s.Inv) (typ : Nat) (h : SvHeader) (payload : Bytes) (f : State → State)
    (hf : ∀ s : State, s.Inv → (f s).Inv) : (onFrame typ h payload f s).Inv := by
  unfold onFrame
  simp only []
  repeat' first
    | with_reducible assumption
    | with_reducible apply svAccept_keeps
    | with_reducible apply svCheck_keeps
    | with_reducible apply pairUpd_keeps
    | with_reducible apply hf
    | split

theorem askResync_keeps {s : State} (h : s.Inv) : (askResync s).Inv := by
  unfold askResync
  simp only []
  repeat' first
    | with_reducible assumption
    | with_reducible apply pairUpd_keeps
    | with_reducible apply svSend_keeps
    | with_reducible apply countPair_keeps
    | split

theorem replayOne_keeps {s : State} (h : s.Inv) (e : LogEntry) : (replayOne s e).Inv := by
  unfold replayOne
  simp only []
  repeat' first
    | with_reducible assumption
    | with_reducible apply seqUpd_keeps
    | with_reducible apply evaluate_keeps
    | split

theorem followActive_keeps {s : State} (h : s.Inv) (es : List LogEntry) : (followActive es s).Inv := by
  unfold followActive
  simp only []
  repeat' first
    | with_reducible assumption
    | with_reducible apply ackFlow_keeps
    | with_reducible apply replayOne_keeps
    | with_reducible apply pairUpd_keeps
    | with_reducible apply foldl_keeps
    | split
    | intro _

theorem setRole_keeps {s : State} (h : s.Inv) (r : Role) : (setRole r s).Inv := by
  unfold setRole
  repeat' first
    | with_reducible assumption
    | (with_reducible refine State.Inv.update ?_ (fun hh => ?_) (fun hh => ?_) (fun hh => ?_) (fun hh => ?_)
       first
         | with_reducible assumption
         | with_reducible apply pairUpd_keeps
         | split)

theorem startMbb_keeps {s : State} (h : s.Inv) (b cmd mb seq : Nat) : (startMbb b cmd mb seq s).Inv := by
  unfold startMbb
  repeat' first
    | with_reducible assumption
    | with_reducible apply stageAt_keeps
    | with_reducible apply sendSwitch_keeps
    | with_reducible apply pairUpd_keeps

theorem takeExcitation_keeps {s : State} (h : s.Inv) (tA tD tT base ch : Nat) :
    (takeExcitation tA tD tT base s ch).Inv := by
  unfold takeExcitation
  simp only []
  repeat' first
    | with_reducible assumption
    | with_reducible apply leadUpd_keeps
    | with_reducible apply eventOn_keeps
    | split

theorem takeFrames_keeps {s : State} (h : s.Inv) : (takeFrames s).Inv := by
  unfold takeFrames
  repeat' first
    | with_reducible assumption
    | with_reducible apply raiseGap_keeps
    | intro _
    | with_reducible exact ⟨hh.notices⟩
    | (with_reducible refine State.Inv.update ?_ (fun hh => ?_) (fun hh => ?_) (fun hh => ?_) (fun hh => ?_)
       first
         | with_reducible assumption
         | with_reducible apply noteSent_keeps
         | with_reducible apply pairUpd_keeps
         | with_reducible apply foldl_keeps
         | split)

theorem startNotices_keeps {s : State} (h : s.Inv) (n : Nat) : (startNotices n s).Inv :=
    ⟨h.sh, h.cfg, h.drv, ⟨Nat.zero_le _⟩⟩

theorem resumeSequencers_keeps {s : State} (h : s.Inv) : (resumeSequencers s).Inv := ⟨h.sh, h.cfg, h.drv, h.weft⟩

theorem takeOver_keeps {s : State} (h : s.Inv) (tA tD : Nat) (named : Option Nat) : (takeOver tA tD named s).Inv := by
  unfold takeOver
  repeat' first
    | with_reducible assumption
    | intro _
    | (with_reducible refine State.Inv.update ?_ (fun hh => ?_) (fun hh => ?_) (fun hh => ?_) (fun hh => ?_)
       first
         | with_reducible assumption
         | with_reducible apply pairEvent_keeps
         | with_reducible apply setRole_keeps
         | with_reducible apply countPair_keeps
         | with_reducible apply pairUpd_keeps
         | with_reducible apply uncertainAlarm_keeps
         | with_reducible apply mirrorAlarm_keeps
         | with_reducible apply takeExcitation_keeps
         | with_reducible apply takeFrames_keeps
         | with_reducible apply resumeSequencers_keeps
         | with_reducible apply startNotices_keeps
         | with_reducible apply foldl_keeps
         | split)

theorem giveUp_keeps {s : State} (h : s.Inv) : (giveUp s).Inv := by
  unfold giveUp
  repeat' first
    | with_reducible assumption
    | with_reducible apply countPair_keeps
    | with_reducible apply pairUpd_keeps
    | with_reducible apply setRole_keeps

theorem sendSnapshot_keeps {s : State} (h : s.Inv) : (sendSnapshot s).Inv := by
  unfold sendSnapshot
  simp only []
  repeat' first
    | with_reducible assumption
    | with_reducible apply svForm_keeps
    | with_reducible apply emitSv_keeps
    | with_reducible apply pairUpd_keeps
    | with_reducible apply foldl_keeps
    | split
    | intro _

theorem loadValue_keeps {s : State} (h : s.Inv) (n sl : Nat) (v : Word) : (loadValue n sl v s).Inv := by
  unfold loadValue
  simp only []
  split
  · exact h
  · refine ⟨h.sh, ⟨?_, PMem.wf_put _ _ _ h.cfg.active, h.cfg.copyA, h.cfg.copyB, h.cfg.writes⟩, h.drv, h.weft⟩
    split
    · exact PMem.wf_put _ _ _ h.cfg.force
    · exact h.cfg.force

theorem loadItem_keeps {s : State} (h : s.Inv) (at_ : Nat) (synced : Bool) (items : List SnapItem) (item : SnapItem)
    : (loadItem at_ synced items s item).Inv := by
  unfold loadItem
  simp only []
  repeat' first
    | with_reducible assumption
    | with_reducible apply seqUpd_keeps
    | with_reducible apply bobUpd_keeps
    | with_reducible apply loadValue_keeps
    | with_reducible apply loopUpd_keeps
    | with_reducible apply stimUpd_keeps
    | with_reducible apply pairUpd_keeps
    | with_reducible apply streamUpd_keeps
    | with_reducible apply foldl_keeps
    | split
    | intro _

theorem takeSnapshot_keeps {s : State} (h : s.Inv) (beat : Nat) (items : List SnapItem) :
    (takeSnapshot beat items s).Inv := by
  unfold takeSnapshot
  simp only []
  repeat' first
    | with_reducible assumption
    | with_reducible apply pairUpd_keeps
    | with_reducible apply loadItem_keeps
    | with_reducible apply replayOne_keeps
    | with_reducible apply askResync_keeps
    | with_reducible apply stageOwn_keeps
    | with_reducible apply foldl_keeps
    | split
    | intro _

theorem acceptDelta_keeps {s : State} (h : s.Inv) (ws : List (Nat × Word)) (seq : Nat) :
    (acceptDelta ws seq s).Inv := by
  have hp := PMem.wf_putAll ws _ h.cfg.force
  have h1 : State.Inv { s with cfg := ({ s.cfg with force := s.cfg.force.putAll ws } : Cfg).renumber s.clk.loom seq } :=
    ⟨h.sh, ⟨hp, h.cfg.active, h.cfg.copyA, h.cfg.copyB, h.cfg.writes⟩, h.drv, h.weft⟩
  unfold acceptDelta
  simp only []
  generalize ({ s with cfg := ({ s.cfg with force := s.cfg.force.putAll ws } : Cfg).renumber s.clk.loom seq } : State) = u
    at h1 ⊢
  split
  · refine persist_keeps ?_ _ _ _ hp
    split
    · exact pairEvent_keeps h1 _
    · exact h1
  · exact h1

theorem lateDelta_keeps {s : State} (h : s.Inv) (inTime : Bool) (due : Nat) : (lateDelta inTime due s).Inv := by
  unfold lateDelta
  repeat' first
    | with_reducible assumption
    | with_reducible apply pairUpd_keeps
    | split

theorem waitDelta_keeps {s : State} (h : s.Inv) (first : Bool) (c : Change) (due : Nat) :
    (waitDelta first c due s).Inv :=
    staged_keeps h _ _

theorem swapDelta_keeps {s : State} (h : s.Inv) (die bank seq : Nat) : (swapDelta die bank seq s).Inv := by
  have k := putLive_keeps h die bank none
  exact ⟨k.sh, ⟨k.cfg.force, k.cfg.active, k.cfg.copyA, k.cfg.copyB, k.cfg.writes⟩, k.drv, k.weft⟩

theorem takeDelta_keeps {s : State} (h : s.Inv) (d : Delta) : (takeDelta d s).Inv := by
  unfold takeDelta
  simp only []
  repeat' first
    | with_reducible assumption
    | with_reducible apply lateDelta_keeps
    | with_reducible apply pairUpd_keeps
    | with_reducible apply waitDelta_keeps
    | with_reducible apply acceptDelta_keeps
    | with_reducible apply swapDelta_keeps
    | with_reducible apply startStims_keeps
    | with_reducible apply holdStims_keeps
    | split

theorem endBoot_keeps {s : State} (h : s.Inv) (x : Settled) : (endBoot x s).Inv := by
  unfold endBoot
  repeat' first
    | with_reducible apply enterFault_keeps
    | with_reducible apply macFault_keeps
    | with_reducible apply foldl_keeps
    | split
    | intro _
    | with_reducible exact ⟨hh.force, hh.active, hh.copyA, hh.copyB, hh.writes⟩
    | with_reducible exact ⟨hh.staging, hh.tables⟩
    | with_reducible exact ⟨hh.notices⟩
    | exact ⟨hh.log, hh.irq, hh.work⟩
    | (with_reducible refine State.Inv.update ?_ (fun hh => ?_) (fun hh => ?_) (fun hh => ?_) (fun hh => ?_)
       first
         | with_reducible assumption
         | with_reducible apply pairUpd_keeps
         | with_reducible apply setRole_keeps
         | with_reducible apply pairEvent_keeps
         | with_reducible apply freeLock_keeps
         | with_reducible apply enterState_keeps
         | with_reducible apply mirrorAlarm_keeps
         | with_reducible apply uncertainAlarm_keeps
         | with_reducible apply askResync_keeps)

theorem holdCheck_keeps {s : State} (h : s.Inv) : (holdCheck s).Inv := ⟨h.sh, h.cfg, h.drv, h.weft⟩

theorem twoActives_keeps {s : State} (h : s.Inv) : (twoActives s).Inv := by
  unfold twoActives
  simp only []
  repeat' first
    | with_reducible assumption
    | with_reducible apply stageOwn_keeps
    | split

theorem servePartner_keeps {s : State} (h : s.Inv) : (servePartner s).Inv := by
  unfold servePartner
  simp only []
  repeat' first
    | with_reducible assumption
    | with_reducible apply startMbb_keeps
    | split

theorem witUpd_keeps {s : State} (h : s.Inv) (w : Nat) (on : Bool) : (witUpd w on s).Inv :=
    ⟨h.sh, h.cfg, h.drv, h.weft⟩

theorem startPrompt_keeps {s : State} (h : s.Inv) : (startPrompt s).Inv := by
  unfold startPrompt
  repeat' first
    | with_reducible assumption
    | with_reducible apply takeOver_keeps
    | with_reducible apply sendSwitch_keeps

theorem pairChange_keeps {s : State} (h : s.Inv) (old new : PMem) : (pairChange old new s).Inv := by
  unfold pairChange
  repeat' first
    | with_reducible assumption
    | with_reducible apply pairUpd_keeps
    | with_reducible apply setRole_keeps
    | with_reducible apply mirrorAlarm_keeps
    | with_reducible apply uncertainAlarm_keeps
    | split

theorem exchangeSources_keeps {s : State} (h : s.Inv) (b : Nat) : (exchangeSources b s).Inv := by
  unfold exchangeSources
  repeat' first
    | with_reducible assumption
    | with_reducible apply eventOn_keeps
    | with_reducible apply foldl_keeps
    | split
    | intro _

theorem channelChange_keeps {s : State} (h : s.Inv) (old new : PMem) (b : Nat) (threads : List (Nat × Nat))
    (ch : Nat) : (channelChange old new b threads s ch).Inv := by
  unfold channelChange
  simp only []
  repeat' first
    | with_reducible assumption
    | with_reducible apply startChan_keeps
    | with_reducible apply leadClear_keeps
    | with_reducible apply chanUpd_keeps
    | with_reducible apply quietSlot_keeps
    | with_reducible apply foldl_keeps
    | split
    | intro _

theorem podSwitches_keeps {s : State} (h : s.Inv) (old new : PMem) (b : Nat) (threads : List (Nat × Nat)) :
    (podSwitches old new b threads s).Inv := by
  unfold podSwitches
  repeat' first
    | with_reducible apply foldl_keeps
    | intro _
    | with_reducible exact ⟨hh.force, hh.active, hh.copyA, hh.copyB, hh.writes⟩
    | with_reducible exact ⟨hh.staging, hh.tables⟩
    | with_reducible exact ⟨hh.notices⟩
    | exact ⟨hh.log, hh.irq, hh.work⟩
    | (with_reducible refine State.Inv.update ?_ (fun hh => ?_) (fun hh => ?_) (fun hh => ?_) (fun hh => ?_)
       first
         | with_reducible assumption
         | with_reducible apply noteSwitch_keeps)

theorem stopIdle_keeps {s : State} (h : s.Inv) : (stopIdle s).Inv := by
  unfold stopIdle
  repeat' first
    | with_reducible assumption
    | with_reducible apply chanUpd_keeps
    | with_reducible apply foldl_keeps
    | intro _

theorem huskFail_keeps {s : State} (h : s.Inv) (kw : Nat × Word) : (huskFail s kw).Inv := by
  unfold huskFail
  repeat' first
    | with_reducible assumption
    | with_reducible exact ⟨hh.force, hh.active, hh.copyA, hh.copyB, hh.writes⟩
    | (with_reducible refine State.Inv.update ?_ (fun hh => ?_) (fun hh => ?_) (fun hh => ?_) (fun hh => ?_)
       with_reducible apply huskMismatch_keeps)

theorem endDeferred_keeps {s : State} (h : s.Inv) (at_ beat die : Nat) : (endDeferred at_ beat die s).Inv := by
  unfold endDeferred
  repeat' first
    | with_reducible assumption
    | intro _
    | (with_reducible refine State.Inv.update ?_ (fun hh => ?_) (fun hh => ?_) (fun hh => ?_) (fun hh => ?_)
       first
         | with_reducible apply endJob_keeps
         | with_reducible apply jobUpd_keeps
         | with_reducible apply foldl_keeps
         | split)

theorem putActive_keeps {s : State} (h : s.Inv) (at_ : Nat) (new : PMem) (fails : Tab Nat) (hw : Tab.wf new = true)
    : (putActive at_ new fails s).Inv := by
  unfold putActive
  exact ⟨h.sh, ⟨h.cfg.force, hw, h.cfg.copyA, h.cfg.copyB, h.cfg.writes⟩, h.drv, h.weft⟩

theorem restartMains_keeps {s : State} (h : s.Inv) : (restartMains s).Inv := ⟨h.sh, h.cfg, h.drv, h.weft⟩

theorem noteDefs_keeps {s : State} (h : s.Inv) (old new : PMem) (at_ : Nat) : (noteDefs old new at_ s).Inv := by
  unfold noteDefs
  repeat' first
    | with_reducible assumption
    | with_reducible apply streamUpd_keeps
    | with_reducible apply bobUpd_keeps
    | with_reducible apply foldl_keeps
    | split
    | intro _

theorem applyWords_keeps {s : State} (h : s.Inv) (at_ beat : Nat) (bad : List Nat) (due : List Staged) :
    (applyWords at_ beat bad due s).Inv := by
  unfold applyWords
  simp only []
  generalize hn : liveBanks _ _ = new
  have hw : Tab.wf new = true := by
    rw [← hn]
    exact wf_foldl (fun m d hm => PMem.wf_put m _ _ hm) _ (PMem.wf_putAll _ _ h.cfg.active)
  have h1 := fun fails => putActive_keeps h at_ new fails hw
  generalize s.cfg.active = old
  repeat' first
    | with_reducible assumption
    | with_reducible apply h1
    | with_reducible apply freeLock_keeps
    | with_reducible apply pairChange_keeps
    | with_reducible apply resetStims_keeps
    | with_reducible apply initSlot_keeps
    | with_reducible apply clearTables_keeps
    | with_reducible apply adoptPins_keeps
    | with_reducible apply dropComps_keeps
    | with_reducible apply listsFrom_keeps
    | with_reducible apply fillAlarms_keeps
    | with_reducible apply noteDefs_keeps
    | with_reducible apply portEnabled_keeps
    | with_reducible apply cutLeads_keeps
    | with_reducible apply restartMains_keeps
    | with_reducible apply podSwitches_keeps
    | with_reducible apply channelChange_keeps
    | with_reducible apply huskFail_keeps
    | with_reducible apply endDeferred_keeps
    | with_reducible apply foldl_keeps
    | split
    | intro _

theorem stepPods_keeps {s : State} (h : s.Inv) (pods : List Nat) (b : Nat) : (stepPods pods b s).Inv := by
  unfold stepPods
  repeat' first
    | with_reducible assumption
    | with_reducible apply chanUpd_keeps
    | with_reducible apply foldl_keeps
    | intro _

theorem keepCal_keeps {s : State} (h : s.Inv) (at_ : Nat) : (keepCal at_ s).Inv := by
  unfold keepCal
  repeat' first
    | with_reducible assumption
    | (with_reducible refine State.Inv.update ?_ (fun hh => ?_) (fun hh => ?_) (fun hh => ?_) (fun hh => ?_)
       first
         | with_reducible assumption)

theorem applyCal_keeps {s : State} (h : s.Inv) (at_ : Nat) (pods : List Nat) : (applyCal at_ pods s).Inv := by
  unfold applyCal
  repeat' first
    | with_reducible apply settleWorn_keeps
    | with_reducible apply stepPods_keeps
    | split
    | with_reducible exact ⟨hh.force, hh.active, hh.copyA, hh.copyB, hh.writes⟩
    | with_reducible exact ⟨hh.staging, hh.tables⟩
    | with_reducible exact ⟨hh.notices⟩
    | exact ⟨hh.log, hh.irq, hh.work⟩
    | (with_reducible refine State.Inv.update ?_ (fun hh => ?_) (fun hh => ?_) (fun hh => ?_) (fun hh => ?_)
       first
         | with_reducible assumption
         | with_reducible apply keepCal_keeps)

theorem applyTemp_keeps {s : State} (h : s.Inv) (at_ beat pod : Nat) (value : Word) :
    (applyTemp at_ beat pod value s).Inv := by
  unfold applyTemp
  repeat' first
    | with_reducible assumption
    | (with_reducible refine State.Inv.update ?_ (fun hh => ?_) (fun hh => ?_) (fun hh => ?_) (fun hh => ?_)
       first
         | with_reducible apply keepCal_keeps
         | with_reducible apply stepPods_keeps
         | split)

theorem consentChange_keeps {s : State} (h : s.Inv) (at_ kind pod part spare : Nat) :
    (consentChange at_ kind pod part spare s).Inv := by
  unfold consentChange
  simp only []
  repeat' first
    | with_reducible assumption
    | with_reducible apply applyConsent_keeps
    | with_reducible apply chanUpd_keeps
    | with_reducible apply foldl_keeps
    | split
    | intro _

theorem applyOther_keeps {s : State} (h : s.Inv) (at_ beat : Nat) (c : Staged) : (applyOther at_ beat s c).Inv := by
  unfold applyOther
  repeat' first
    | with_reducible assumption
    | with_reducible apply enterState_keeps
    | with_reducible apply loopUpd_keeps
    | with_reducible apply armSeq_keeps
    | with_reducible apply cancelEvent_keeps
    | with_reducible apply disarmSeq_keeps
    | with_reducible apply startStims_keeps
    | with_reducible apply holdStims_keeps
    | with_reducible apply applyCal_keeps
    | with_reducible apply applyTemp_keeps
    | with_reducible apply applyDomains_keeps
    | with_reducible apply applySubst_keeps
    | with_reducible apply consentChange_keeps
    | with_reducible apply setRole_keeps
    | with_reducible apply pairUpd_keeps
    | with_reducible apply exchangeSources_keeps
    | with_reducible apply askResync_keeps
    | with_reducible apply foldl_keeps
    | split
    | intro _

theorem takeOther_keeps {s : State} (h : s.Inv) (at_ beat : Nat) (bad : List Nat) (c : Staged) :
    (takeOther at_ beat bad s c).Inv := by
  unfold takeOther
  simp only []
  repeat' first
    | split
    | with_reducible exact ⟨hh.force, hh.active, hh.copyA, hh.copyB, hh.writes⟩
    | with_reducible exact ⟨hh.staging, hh.tables⟩
    | with_reducible exact ⟨hh.notices⟩
    | exact ⟨hh.log, hh.irq, hh.work⟩
    | (with_reducible refine State.Inv.update ?_ (fun hh => ?_) (fun hh => ?_) (fun hh => ?_) (fun hh => ?_)
       first
         | with_reducible assumption
         | with_reducible apply applyOther_keeps
         | with_reducible apply huskMismatch_keeps)

theorem boundaryCauses_keeps {s : State} (h : s.Inv) (old : PMem) (bad : List Nat) :
    (boundaryCauses old bad s).Inv := by
  unfold boundaryCauses
  simp only []
  repeat' first
    | with_reducible assumption
    | with_reducible apply enterFault_keeps
    | with_reducible apply macFault_keeps
    | with_reducible apply foldl_keeps
    | split
    | intro _

theorem applyStaged_keeps {s : State} (h : s.Inv) (at_ beat : Nat) (bad : List Nat) :
    (applyStaged at_ beat bad s).Inv := by
  unfold applyStaged
  repeat' first
    | with_reducible apply boundaryCauses_keeps
    | with_reducible apply takeOther_keeps
    | with_reducible apply applyWords_keeps
    | with_reducible apply foldl_keeps
    | intro _
    | with_reducible exact ⟨hh.force, hh.active, hh.copyA, hh.copyB, hh.writes⟩
    | with_reducible exact ⟨hh.staging, hh.tables⟩
    | with_reducible exact ⟨hh.notices⟩
    | exact ⟨hh.log, hh.irq, hh.work⟩
    | (with_reducible refine State.Inv.update ?_ (fun hh => ?_) (fun hh => ?_) (fun hh => ?_) (fun hh => ?_)
       first
         | with_reducible assumption)

theorem readTemp_keeps {s : State} (h : s.Inv) (beat pod : Nat) (r : Word) : (readTemp beat pod r s).Inv := by
  unfold readTemp
  simp only []
  repeat' first
    | with_reducible assumption
    | (with_reducible refine State.Inv.update ?_ (fun hh => ?_) (fun hh => ?_) (fun hh => ?_) (fun hh => ?_)
       first
         | with_reducible apply feedTemps_keeps
         | with_reducible apply stageAt_keeps
         | split)

theorem readSource_keeps {s : State} (h : s.Inv) (pod n : Nat) : (readSource pod s n).Inv := by
  unfold readSource
  repeat' first
    | with_reducible assumption
    | (with_reducible refine State.Inv.update ?_ (fun hh => ?_) (fun hh => ?_) (fun hh => ?_) (fun hh => ?_)
       first
         | with_reducible assumption
         | with_reducible apply partWorn_keeps
         | split)

theorem readPoint_keeps {s : State} (h : s.Inv) (pod point : Nat) (value : Word) :
    (readPoint pod point value s).Inv := by
  unfold readPoint
  repeat' first
    | with_reducible assumption
    | with_reducible apply tolAlarm_keeps
    | with_reducible apply readTemp_keeps
    | with_reducible apply loopRound_keeps
    | with_reducible apply readSource_keeps
    | with_reducible apply foldl_keeps
    | split
    | intro _

theorem finishScan_keeps {s : State} (h : s.Inv) (sc : Nat) (r : ScRequest) (code : Int) (value : Word) :
    (finishScan sc r code value s).Inv := by
  unfold finishScan
  repeat' first
    | with_reducible assumption
    | with_reducible apply readPoint_keeps
    | with_reducible apply stimRead_keeps
    | split

theorem forgetTemp_keeps {s : State} (h : s.Inv) (pod : Nat) : (forgetTemp s pod).Inv := by
  unfold forgetTemp
  repeat' first
    | with_reducible assumption
    | (with_reducible refine State.Inv.update ?_ (fun hh => ?_) (fun hh => ?_) (fun hh => ?_) (fun hh => ?_)
       first
         | with_reducible assumption
         | split)

theorem houseKeep_keeps {s : State} (h : s.Inv) : (houseKeep s).Inv := by
  unfold houseKeep
  repeat' first
    | with_reducible assumption
    | with_reducible apply tolAlarm_keeps
    | with_reducible apply startRounds_keeps
    | with_reducible apply forgetTemp_keeps
    | with_reducible apply foldl_keeps
    | intro _

theorem mainsBeat_keeps {s : State} (h : s.Inv) (at_ : Nat) : (mainsBeat at_ s).Inv := by
  unfold mainsBeat
  repeat' first
    | with_reducible assumption
    | (with_reducible refine State.Inv.update ?_ (fun hh => ?_) (fun hh => ?_) (fun hh => ?_) (fun hh => ?_)
       first
         | with_reducible assumption
         | split)

theorem boundaryAt_keeps {s : State} (h : s.Inv) (at_ beat : Nat) (bad : List Nat) :
    (boundaryAt at_ beat bad s).Inv := by
  unfold boundaryAt
  repeat' first
    | with_reducible assumption
    | (with_reducible refine State.Inv.update ?_ (fun hh => ?_) (fun hh => ?_) (fun hh => ?_) (fun hh => ?_)
       first
         | with_reducible assumption
         | with_reducible apply applyStaged_keeps
         | with_reducible apply mainsBeat_keeps
         | with_reducible apply warpBeat_keeps
         | with_reducible apply simTrigger_keeps
         | with_reducible apply houseKeep_keeps
         | with_reducible apply stopIdle_keeps
         | with_reducible apply restartDomains_keeps
         | with_reducible apply joinCore_keeps
         | with_reducible apply sendSnapshot_keeps
         | with_reducible apply holdCheck_keeps)

theorem overrun_keeps {s : State} (h : s.Inv) (late : Bool) : (overrun late s).Inv := by
  unfold overrun
  repeat' first
    | with_reducible assumption
    | (with_reducible refine State.Inv.update ?_ (fun hh => ?_) (fun hh => ?_) (fun hh => ?_) (fun hh => ?_)
       first
         | with_reducible assumption
         | with_reducible apply setAlarm_keeps
         | split)

theorem stepCounts_keeps {s : State} (h : s.Inv) (k : Int) : (stepCounts k s).Inv := ⟨h.sh, h.cfg, h.drv, h.weft⟩

theorem skipInstants_keeps {s : State} (h : s.Inv) (old new g : Nat) : (skipInstants old new s g).Inv := by
  unfold skipInstants
  repeat' first
    | with_reducible assumption
    | intro _
    | (with_reducible refine State.Inv.update ?_ (fun hh => ?_) (fun hh => ?_) (fun hh => ?_) (fun hh => ?_)
       first
         | with_reducible assumption
         | with_reducible apply eventOn_keeps
         | with_reducible apply chanUpd_keeps
         | with_reducible apply foldl_keeps
         | split)

theorem breakFrames_keeps {s : State} (h : s.Inv) (g last : Nat) : (breakFrames g last s).Inv :=
    ⟨h.sh, h.cfg, h.drv, ⟨h.weft.notices⟩⟩

theorem withholdInstants_keeps {s : State} (h : s.Inv) (new g : Nat) : (withholdInstants new s g).Inv := by
  unfold withholdInstants
  simp only []
  repeat' first
    | with_reducible assumption
    | split
    | intro _
    | (with_reducible refine State.Inv.update ?_ (fun hh => ?_) (fun hh => ?_) (fun hh => ?_) (fun hh => ?_)
       first
         | with_reducible assumption
         | with_reducible apply breakFrames_keeps
         | with_reducible apply eventOn_keeps
         | with_reducible apply foldl_keeps)

theorem stepTime_keeps {s : State} (h : s.Inv) (k : Int) (work : BeatWork) : (stepTime k work s).Inv := by
  unfold stepTime
  simp only []
  repeat' first
    | with_reducible assumption
    | split
    | intro _
    | (with_reducible refine State.Inv.update ?_ (fun hh => ?_) (fun hh => ?_) (fun hh => ?_) (fun hh => ?_)
       first
         | with_reducible assumption
         | with_reducible apply warpEvent_keeps
         | with_reducible apply stepCounts_keeps
         | with_reducible apply skipInstants_keeps
         | with_reducible apply boundaryAt_keeps
         | with_reducible apply overrun_keeps
         | with_reducible apply usedHusks_keeps
         | with_reducible apply withholdInstants_keeps
         | with_reducible apply foldl_keeps)

theorem bootBase_keeps {s : State} (h : s.Inv) : (bootBase s).Inv := by
  apply bootTreadle_keeps
  exact ⟨⟨Nat.le_trans (List.length_take_le _ _) (by decide), rfl, fun _ e => nomatch e⟩,
    ⟨rfl, rfl, h.cfg.copyA, h.cfg.copyB, fun _ hw => nomatch hw⟩, ⟨rfl, fun _ => rfl⟩, ⟨Nat.zero_le _⟩⟩

theorem bootChoice_keeps {s : State} (h : s.Inv) (reason source loaded : Nat) :
    (bootChoice reason source loaded s).Inv := by
  unfold bootChoice
  repeat' first
    | with_reducible assumption
    | (with_reducible refine State.Inv.update ?_ (fun hh => ?_) (fun hh => ?_) (fun hh => ?_) (fun hh => ?_)
       first
         | with_reducible apply logEvent_keeps)

theorem copyImage_keeps {s : State} (h : s.Inv) : (copyImage s).Inv := by
  unfold copyImage
  repeat' first
    | with_reducible assumption
    | (with_reducible refine State.Inv.update ?_ (fun hh => ?_) (fun hh => ?_) (fun hh => ?_) (fun hh => ?_)
       first
         | with_reducible apply nextFree_keeps
         | with_reducible apply sectorWorn_keeps
         | split)

theorem bootImage_keeps {s : State} (h : s.Inv) (named : Nat) : (bootImage named s).Inv := by
  unfold bootImage
  repeat' first
    | with_reducible assumption
    | (with_reducible refine State.Inv.update ?_ (fun hh => ?_) (fun hh => ?_) (fun hh => ?_) (fun hh => ?_)
       first
         | with_reducible assumption
         | with_reducible apply copyImage_keeps
         | with_reducible apply bootChoice_keeps
         | split)

theorem logChoice_keeps {s : State} (h : s.Inv) (reason source : Nat) (c : Option Bool) :
    (logChoice reason source c s).Inv := by
  unfold logChoice
  repeat' first
    | with_reducible assumption
    | with_reducible apply bootChoice_keeps
    | split

theorem rewrite_keeps {s : State} (h : s.Inv) (cal toB : Bool) (put : State → State)
    (hf : ∀ s : State, s.Inv → (put s).Inv) : (rewrite cal toB put s).Inv := by
  unfold rewrite
  simp only []
  repeat' first
    | with_reducible assumption
    | with_reducible apply nextFree_keeps
    | with_reducible apply setAlarm_keeps
    | with_reducible apply logEvent_keeps
    | with_reducible apply sectorWorn_keeps
    | with_reducible apply hf
    | split

theorem loadCopy_keeps {s : State} (h : s.Inv) (inB : Bool) (x : Copy) (hw : Tab.wf x.words = true) :
    (loadCopy inB x s).Inv := by
  unfold loadCopy
  have h1 : State.Inv { s with cfg := { s.cfg with seq := x.seq, inB } } :=
    ⟨h.sh, ⟨h.cfg.force, h.cfg.active, h.cfg.copyA, h.cfg.copyB, h.cfg.writes⟩, h.drv, h.weft⟩
  simp only []
  split
  · apply bootChoice_keeps
    exact ⟨⟨h.sh.log, h.sh.irq, fun w e => by cases e; exact hw⟩, h1.cfg, h.drv, h.weft⟩
  · apply adoptPins_keeps
    exact ⟨h.sh, ⟨hw, hw, h.cfg.copyA, h.cfg.copyB, h.cfg.writes⟩, h.drv, h.weft⟩

theorem copyOver_keeps {s : State} (h : s.Inv) (inB : Bool) (x : Copy) (hw : Tab.wf x.words = true) :
    (copyOver inB x s).Inv :=
    putCopy_keeps h _ _ hw

theorem bootConfig_keeps {s : State} (h : s.Inv) : (bootConfig s).Inv := by
  unfold bootConfig
  have hx : ∀ inB : Bool, Tab.wf (if inB then s.cfg.copyB else s.cfg.copyA).words = true := by
    intro inB
    cases inB
    · exact h.cfg.copyA
    · exact h.cfg.copyB
  simp only []
  generalize (copyChoice _ _ _ _ _).1 = c
  generalize (copyChoice _ _ _ _ _).2 = reason
  have h1 := logChoice_keeps h reason 0 c
  generalize logChoice reason 0 c s = u at h1 ⊢
  cases c with
  | none => exact ⟨h1.sh, ⟨h1.cfg.force, h1.cfg.active, h1.cfg.copyA, h1.cfg.copyB, h1.cfg.writes⟩, h1.drv, h1.weft⟩
  | some inB =>
    have h2 := loadCopy_keeps h1 inB _ (hx inB)
    simp only []
    split
    · exact rewrite_keeps h2 _ _ _ fun s hs => copyOver_keeps hs _ _ (hx inB)
    · exact h2

theorem restale_keeps {s : State} (h : s.Inv) : (restale s).Inv := by
  unfold restale
  repeat' first
    | with_reducible assumption
    | with_reducible apply staleEntries_keeps

theorem bootCal_keeps {s : State} (h : s.Inv) : (bootCal s).Inv := by
  unfold bootCal
  repeat' first
    | with_reducible assumption
    | intro _
    | (with_reducible refine State.Inv.update ?_ (fun hh => ?_) (fun hh => ?_) (fun hh => ?_) (fun hh => ?_)
       first
         | with_reducible apply logChoice_keeps
         | with_reducible apply restale_keeps
         | with_reducible apply rewrite_keeps
         | with_reducible apply putCalCopy_keeps
         | split)

theorem bootDomains_keeps {s : State} (h : s.Inv) : (bootDomains s).Inv := by
  unfold bootDomains
  repeat' first
    | with_reducible assumption
    | with_reducible apply domUpd_keeps
    | with_reducible apply startDomain_keeps
    | with_reducible apply foldl_keeps
    | split
    | intro _

theorem mendSector_keeps {s : State} (h : s.Inv) (sec : Nat) : (mendSector sec s).Inv := by
  unfold mendSector
  repeat' first
    | with_reducible assumption
    | (with_reducible refine State.Inv.update ?_ (fun hh => ?_) (fun hh => ?_) (fun hh => ?_) (fun hh => ?_)
       first
         | with_reducible assumption
         | with_reducible apply partWorn_keeps
         | split)

theorem readMram_keeps {s : State} (h : s.Inv) : (readMram s).2.Inv := by
  unfold readMram
  simp only []
  repeat' first
    | with_reducible assumption
    | with_reducible apply nextFree_keeps
    | with_reducible apply mendSector_keeps
    | with_reducible apply logEvent_keeps
    | split

theorem readStored_keeps {s : State} (h : s.Inv) : (readStored s).Inv := by
  unfold readStored
  repeat' first
    | with_reducible assumption
    | with_reducible exact ⟨hh.force, hh.active, hh.copyA, hh.copyB, hh.writes⟩
    | (with_reducible refine State.Inv.update ?_ (fun hh => ?_) (fun hh => ?_) (fun hh => ?_) (fun hh => ?_)
       first
         | with_reducible apply readMram_keeps)

theorem bootGo_keeps {s : State} (h : s.Inv) (named : Nat) : (bootGo named s).Inv := by
  unfold bootGo
  repeat' first
    | with_reducible assumption
    | (with_reducible refine State.Inv.update ?_ (fun hh => ?_) (fun hh => ?_) (fun hh => ?_) (fun hh => ?_)
       first
         | with_reducible assumption
         | with_reducible apply bootDomains_keeps
         | with_reducible apply bootCal_keeps
         | with_reducible apply bootConfig_keeps
         | with_reducible apply bootImage_keeps
         | with_reducible apply readStored_keeps)

theorem bootStart_keeps {s : State} (h : s.Inv) (named : Nat) : (bootStart named s).Inv := by
  unfold bootStart
  simp only []
  repeat' first
    | with_reducible apply logEvent_keeps
    | with_reducible apply bootGo_keeps
    | split
    | with_reducible exact ⟨hh.force, hh.active, hh.copyA, hh.copyB, hh.writes⟩
    | with_reducible exact ⟨hh.staging, hh.tables⟩
    | with_reducible exact ⟨hh.notices⟩
    | exact ⟨hh.log, hh.irq, hh.work⟩
    | (with_reducible refine State.Inv.update ?_ (fun hh => ?_) (fun hh => ?_) (fun hh => ?_) (fun hh => ?_)
       first
         | with_reducible assumption
         | with_reducible apply bootBase_keeps)

theorem bootWaits_keeps {s : State} (h : s.Inv) : (bootWaits s).Inv := by
  unfold bootWaits
  repeat' first
    | with_reducible assumption
    | with_reducible apply logXi_keeps
    | with_reducible apply bootGo_keeps
    | with_reducible apply endXi_keeps
    | split

theorem received_keeps {s s' : State} (h : s.Inv) {t port : Nat} {i : Instr} {f : State → State}
    (hf : ∀ v : State, v.Inv → (f v).Inv) (e : received t port i s f = .next s') : s'.Inv := by
  refine act_keeps ?_ e
  split
  exacts [holdFrame_keeps (tick_keeps h t) _ _, hf _ (tick_keeps h t)]

theorem crosses_keeps {s s' : State} (h : s.Inv) {t : Nat} {i : Instr} {f : State → State}
    (hf : ∀ v : State, v.Inv → (f v).Inv) (e : crosses t i s f = .next s') : s'.Inv := by
  refine act_keeps ?_ e
  split
  exacts [crossUpd_keeps (tick_keeps h t) _ _, hf _ (tick_keeps h t)]

theorem execShuttleRequest_keeps {s s' : State} (h : s.Inv) (t port ip udp : Nat) (msg : Bytes)
    (e : execShuttleRequest t port ip udp msg s = .next s') : s'.Inv := by
  unfold execShuttleRequest at e
  refine received_keeps h (fun v hv => ?_) e
  clear e
  repeat' first
    | (with_reducible refine unlessReset_keeps ?_ _ fun _ _ => ?_)
    | with_reducible assumption
    | with_reducible apply arrive_keeps
    | split

theorem execArpRequest_keeps {s s' : State} (h : s.Inv) (t port senderMac senderIp targetIp : Nat)
    (e : execArpRequest t port senderMac senderIp targetIp s = .next s') : s'.Inv := by
  unfold execArpRequest at e
  refine received_keeps h (fun v hv => ?_) e
  clear e
  repeat' first
    | with_reducible assumption
    | with_reducible apply portUpd_keeps
    | split

theorem execIcmpEchoRequest_keeps {s s' : State} (h : s.Inv) (t port srcIp : Nat) (msg : Bytes)
    (e : execIcmpEchoRequest t port srcIp msg s = .next s') : s'.Inv := by
  unfold execIcmpEchoRequest at e
  refine received_keeps h (fun v hv => ?_) e
  clear e
  repeat' first
    | with_reducible assumption
    | with_reducible apply portUpd_keeps
    | split

theorem execHostFrameReceived_keeps {s s' : State} (h : s.Inv) (t port : Nat) (frame : Bytes) (fcsOk : Bool)
    (e : execHostFrameReceived t port frame fcsOk s = .next s') : s'.Inv := by
  unfold execHostFrameReceived at e
  refine received_keeps h (fun v hv => ?_) e
  clear e
  repeat' first
    | with_reducible assumption
    | (with_reducible refine State.Inv.update ?_ (fun hh => ?_) (fun hh => ?_) (fun hh => ?_) (fun hh => ?_)
       first
         | with_reducible apply portUpd_keeps
         | with_reducible apply arpLearn_keeps
         | split)

theorem execPtpAnnounce_keeps {s s' : State} (h : s.Inv) (t port : Nat) (m : PtpAnnounce)
    (e : execPtpAnnounce t port m s = .next s') : s'.Inv := by
  unfold execPtpAnnounce at e
  refine received_keeps h (fun v hv => ?_) e
  clear e
  repeat' first
    | with_reducible assumption
    | with_reducible apply portUpd_keeps
    | split

theorem execPtpSync_keeps {s s' : State} (h : s.Inv) (t port : Nat) (m : PtpSync)
    (e : execPtpSync t port m s = .next s') : s'.Inv := by
  unfold execPtpSync at e
  refine received_keeps h (fun v hv => ?_) e
  clear e
  repeat' first
    | with_reducible assumption
    | with_reducible apply servo_keeps
    | (with_reducible refine State.Inv.update ?_ (fun hh => ?_) (fun hh => ?_) (fun hh => ?_) (fun hh => ?_)
       first
         | with_reducible apply portUpd_keeps
         | split)

theorem execPdelayReq_keeps {s s' : State} (h : s.Inv) (t port srcId seqId domain : Nat)
    (e : execPdelayReq t port srcId seqId domain s = .next s') : s'.Inv := by
  unfold execPdelayReq at e
  refine received_keeps h (fun v hv => ?_) e
  clear e
  repeat' first
    | with_reducible assumption
    | (with_reducible refine State.Inv.update ?_ (fun hh => ?_) (fun hh => ?_) (fun hh => ?_) (fun hh => ?_)
       first
         | with_reducible apply sendPtp_keeps
         | split)

theorem execAcknowledgement_keeps {s s' : State} (h : s.Inv) (t port : Nat) (msg : Bytes)
    (e : execAcknowledgement t port msg s = .next s') : s'.Inv := by
  unfold execAcknowledgement at e
  refine received_keeps h (fun v hv => ?_) e
  clear e
  repeat' first
    | with_reducible assumption
    | intro _
    | (with_reducible refine State.Inv.update ?_ (fun hh => ?_) (fun hh => ?_) (fun hh => ?_) (fun hh => ?_)
       first
         | with_reducible apply unitChecks_keeps
         | with_reducible apply unitMismatch_keeps
         | with_reducible apply ackEntry_keeps
         | with_reducible apply portUpd_keeps
         | with_reducible apply foldl_keeps
         | split)

theorem execSnapshotFragment_keeps {s s' : State} (h : s.Inv) (t : Nat) (hdr : SvHeader) (place : SnapPlace)
    (items : List SnapItem) (last : Bool) (e : execSnapshotFragment t hdr place items last s = .next s') :
    s'.Inv := by
  unfold execSnapshotFragment at e
  refine crosses_keeps h (fun v hv => ?_) e
  clear e
  repeat' first
    | with_reducible assumption
    | intro _
    | (with_reducible refine State.Inv.update ?_ (fun hh => ?_) (fun hh => ?_) (fun hh => ?_) (fun hh => ?_)
       first
         | with_reducible apply onFrame_keeps
         | with_reducible apply huskMismatch_keeps
         | with_reducible apply pairUpd_keeps
         | with_reducible apply takeSnapshot_keeps
         | with_reducible apply askResync_keeps
         | with_reducible apply foldl_keeps
         | split)

theorem execDelta_keeps {s s' : State} (h : s.Inv) (t : Nat) (hdr : SvHeader) (frame : DeltaFrame)
    (e : execDelta t hdr frame s = .next s') : s'.Inv := by
  unfold execDelta at e
  refine crosses_keeps h (fun v hv => ?_) e
  clear e
  repeat' first
    | with_reducible assumption
    | intro _
    | (with_reducible refine State.Inv.update ?_ (fun hh => ?_) (fun hh => ?_) (fun hh => ?_) (fun hh => ?_)
       first
         | with_reducible apply onFrame_keeps
         | with_reducible apply svSend_keeps
         | with_reducible apply huskMismatch_keeps
         | with_reducible apply takeDelta_keeps
         | with_reducible apply foldl_keeps
         | split)

theorem execDeltaAcknowledgement_keeps {s s' : State} (h : s.Inv) (t : Nat) (hdr : SvHeader) (id : Nat)
    (e : execDeltaAcknowledgement t hdr id s = .next s') : s'.Inv := by
  unfold execDeltaAcknowledgement at e
  refine crosses_keeps h (fun v hv => ?_) e
  clear e
  repeat' first
    | (with_reducible refine onFrame_keeps ?_ _ _ _ _ fun _ _ => ?_)
    | with_reducible assumption
    | with_reducible apply pairUpd_keeps

theorem execResyncRequest_keeps {s s' : State} (h : s.Inv) (t : Nat) (hdr : SvHeader)
    (e : execResyncRequest t hdr s = .next s') : s'.Inv := by
  unfold execResyncRequest at e
  refine crosses_keeps h (fun v hv => ?_) e
  clear e
  repeat' first
    | (with_reducible refine onFrame_keeps ?_ _ _ _ _ fun _ _ => ?_)
    | with_reducible assumption
    | with_reducible apply emitDelta_keeps
    | with_reducible apply countPair_keeps
    | with_reducible apply pairUpd_keeps
    | split

theorem execSelvedgeHeartbeat_keeps {s s' : State} (h : s.Inv) (t : Nat) (frame : Bytes)
    (e : execSelvedgeHeartbeat t frame s = .next s') : s'.Inv := by
  unfold execSelvedgeHeartbeat at e
  refine crosses_keeps h (fun v hv => ?_) e
  clear e
  repeat' first
    | with_reducible assumption
    | (with_reducible refine State.Inv.update ?_ (fun hh => ?_) (fun hh => ?_) (fun hh => ?_) (fun hh => ?_)
       first
         | with_reducible apply unitHolds_keeps
         | with_reducible apply svAccept_keeps
         | with_reducible apply pairUpd_keeps
         | with_reducible apply mirrorAlarm_keeps
         | with_reducible apply endBoot_keeps
         | with_reducible apply holdCheck_keeps
         | with_reducible apply followActive_keeps
         | with_reducible apply servePartner_keeps
         | with_reducible apply twoActives_keeps
         | split)

theorem execSwitchControl_keeps {s s' : State} (h : s.Inv) (t : Nat) (hdr : SvHeader) (tT : Nat)
    (e : execSwitchControl t hdr tT s = .next s') : s'.Inv := by
  unfold execSwitchControl at e
  refine crosses_keeps h (fun v hv => ?_) e
  clear e
  repeat' first
    | (with_reducible refine onFrame_keeps ?_ _ _ _ _ fun _ _ => ?_)
    | with_reducible assumption
    | with_reducible apply pairUpd_keeps
    | with_reducible apply stageAt_keeps
    | split

theorem nextOr_keeps {s : State} (h : s.Inv) {o : Host.Outcome State Fault Refusal} (ho : ∀ s', o = .next s' → s'.Inv) :
    (nextOr s o).Inv := by
  cases o with
  | next v => exact ho v rfl
  | fault _ => exact h
  | refused _ => exact h

theorem deliverHeld_keeps {s : State} (h : s.Inv) (i : Held) : (deliverHeld s i).Inv := by
  unfold deliverHeld
  split
  · exact plyWord_keeps h _ _ _ _ _
  · exact finishScan_keeps (grant_keeps (deliverResult_keeps h _ _ _ _ _) _) _ _ _ _
  · exact nextOr_keeps h fun _ e => execShuttleRequest_keeps h _ _ _ _ _ e
  · exact nextOr_keeps h fun _ e => execHostFrameReceived_keeps h _ _ _ _ e
  · exact nextOr_keeps h fun _ e => execAcknowledgement_keeps h _ _ _ e
  · exact nextOr_keeps h fun _ e => execArpRequest_keeps h _ _ _ _ _ e
  · exact nextOr_keeps h fun _ e => execIcmpEchoRequest_keeps h _ _ _ _ e
  · exact nextOr_keeps h fun _ e => execPtpSync_keeps h _ _ _ e
  · exact nextOr_keeps h fun _ e => execPtpAnnounce_keeps h _ _ _ e
  · exact nextOr_keeps h fun _ e => execPdelayReq_keeps h _ _ _ _ _ e
  · exact nextOr_keeps h fun _ e => execSelvedgeHeartbeat_keeps h _ _ e
  · exact nextOr_keeps h fun _ e => execSnapshotFragment_keeps h _ _ _ _ _ e
  · exact nextOr_keeps h fun _ e => execDelta_keeps h _ _ _ e
  · exact nextOr_keeps h fun _ e => execDeltaAcknowledgement_keeps h _ _ _ e
  · exact nextOr_keeps h fun _ e => execResyncRequest_keeps h _ _ e
  · exact nextOr_keeps h fun _ e => execSwitchControl_keeps h _ _ _ e
  · exact h

theorem drainCrossing_keeps {s : State} (h : s.Inv) (x : Nat) : (drainCrossing s x).Inv := by
  unfold drainCrossing
  repeat' first
    | split
    | intro _
    | with_reducible exact ⟨hh.force, hh.active, hh.copyA, hh.copyB, hh.writes⟩
    | with_reducible exact ⟨hh.staging, hh.tables⟩
    | with_reducible exact ⟨hh.notices⟩
    | exact ⟨hh.log, hh.irq, hh.work⟩
    | (with_reducible refine State.Inv.update ?_ (fun hh => ?_) (fun hh => ?_) (fun hh => ?_) (fun hh => ?_)
       first
         | with_reducible assumption
         | with_reducible apply deliverHeld_keeps
         | with_reducible apply crossUpd_keeps
         | with_reducible apply drainEvents_keeps
         | with_reducible apply emit_keeps
         | with_reducible apply rewriteStaged_keeps
         | with_reducible apply foldl_keeps)

theorem clocksChange_keeps {s : State} (h : s.Inv) (clk : Clock) : (clocksChange clk s).Inv := by
  unfold clocksChange
  repeat' first
    | with_reducible assumption
    | with_reducible apply drainCrossing_keeps
    | with_reducible apply shakeEvent_keeps
    | with_reducible apply holdCrossings_keeps
    | with_reducible apply foldl_keeps
    | intro _

theorem State.withFetchWord_keeps {s : State} (h : s.Inv) (nbits w : Nat) : (State.withFetchWord s nbits w).Inv := by
  unfold State.withFetchWord
  split
  · exact h.queue _
  · exact h

end Sys2Proof.Machine
end

