-- ==== Sys2Proof/Laws/Request.lean ====
section
/-! SUPPORT. What a request does, said once: a request that this hub takes runs its command's body on the state with
the request in its mailbox, and the answer touches nothing beyond that mailbox and its port. -/

namespace Sys2Proof.Machine

variable {rq : Req} {u s : State}

theorem Quiet.refl (rq : Req) (u : State) : Quiet rq u u where
  rest := ⟨_, _, _, _, rfl⟩
  units _ _ := rfl
  mail _ _ := rfl
  other _ _ := rfl
  port := ⟨_, rfl⟩

theorem Quiet.trans {v : State} (h : Quiet rq u s) (k : Quiet rq s v) : Quiet rq u v where
  rest := by
    obtain ⟨_, _, _, _, rfl⟩ := h.rest
    obtain ⟨_, _, _, _, rfl⟩ := k.rest
    exact ⟨_, _, _, _, rfl⟩
  units n hn := (k.units n hn).trans (h.units n hn)
  mail m hm := (k.mail m hm).trans (h.mail m hm)
  other p hp := (k.other p hp).trans (h.other p hp)
  port := by
    obtain ⟨q, hq⟩ := k.port
    obtain ⟨r, hr⟩ := h.port
    exact ⟨q, by rw [hq, hr]⟩

theorem mailUpd_quiet (rq : Req) (f : Mailbox → Mailbox) (s : State) : Quiet rq s (mailUpd rq.mb f s) where
  rest := ⟨_, _, _, _, rfl⟩
  units _ _ := rfl
  mail m hm := by simp [mailUpd, hm]
  other _ _ := rfl
  port := ⟨_, rfl⟩

theorem irq_quiet (rq : Req) (s : State) : Quiet rq s (irq s) where
  rest := ⟨_, _, _, _, rfl⟩
  units _ _ := rfl
  mail _ _ := rfl
  other _ _ := rfl
  port := ⟨_, rfl⟩

theorem deliver_quiet (rq : Req) (b : Bytes) (s : State) : Quiet rq s (deliver rq.src rq.port rq.mb b s) := by
  unfold deliver
  split
  · exact ⟨⟨_, _, _, _, rfl⟩, fun k hk => by simp [unitChecks, unitHolds, hk], fun _ _ => rfl,
      fun p hp => by simp [unitChecks, unitHolds, hp], ⟨_, by simp [unitChecks, unitHolds]; rfl⟩⟩
  · exact (mailUpd_quiet rq _ s).trans (irq_quiet rq _)

/-- A state with other mailboxes and another level of the SPI interrupt pin. -/
def State.withMail (s : State) (mail : Tab Mailbox) (low : Bool) : State :=
  { s with sh := { s.sh with mail := mail, nIrqLow := low } }

/-- A request is being executed: the state is u but for its mailbox and the SPI interrupt pin. -/
structure Running (rq : Req) (u s : State) : Prop where
  rest : ∃ mail low, s = u.withMail mail low
  mail : ∀ m, m ≠ rq.mb → s.sh.mail.get m = u.sh.mail.get m
  holds : Holds rq (s.sh.mail.get rq.mb)
  busy : (s.sh.mail.get rq.mb).busy = true
  resp : (s.sh.mail.get rq.mb).resp = none

theorem Running.quiet (h : Running rq u s) : Quiet rq u s where
  rest := by
    obtain ⟨_, _, rfl⟩ := h.rest
    exact ⟨_, _, _, _, rfl⟩
  units _ _ := by
    obtain ⟨_, _, rfl⟩ := h.rest
    rfl
  mail := h.mail
  other p _ := by
    obtain ⟨_, _, rfl⟩ := h.rest
    rfl
  port := by
    obtain ⟨_, _, rfl⟩ := h.rest
    exact ⟨_, rfl⟩

/-- A change that neither reads nor writes the mailboxes and the pin leaves the request running. -/
theorem Running.map (h : Running rq u s) (f : State → State)
    (hf : ∀ v mail low, f (State.withMail v mail low) = (f v).withMail mail low)
    (hm : (f u).sh.mail = u.sh.mail) : Running rq (f u) (f s) := by
  obtain ⟨⟨mail, low, rfl⟩, h1, h2, h3, h4⟩ := h
  rw [hf]
  refine ⟨⟨_, _, rfl⟩, fun m hm' => ?_, h2, h3, h4⟩
  rw [hm]
  exact h1 m hm'

theorem Running.log (h : Running rq u s) (a b c : Nat) : Running rq (logEvent a b c u) (logEvent a b c s) :=
  h.map (logEvent a b c)
    (fun v _ _ => by cases hx : v.sh.xiFrom <;> simp [logEvent, Shuttle.caughtUp, State.withMail, hx]) rfl

/-- A request that is taken enters its mailbox, and nothing else changes. -/
theorem takeReq_running (hs : s.hub.state ≠ .safe) (code : Nat) :
    Running rq s (takeReq { rq with cmd := code } s) := by
  have e : takeReq { rq with cmd := code } s = irq (mailUpd rq.mb (fun m => { m with
      claim := some rq.src, alive := rq.alive, seq := rq.seq, resp := none, busy := true
      unread := if rq.src = .spi then none else m.unread, lastTaken := s.clk.loom }) s) := by
    simp [takeReq, hs]
  rw [e]
  refine ⟨⟨_, _, rfl⟩, fun m hm => by simp [irq, mailUpd, hm], ?_, ?_, ?_⟩ <;> simp [Holds, irq, mailUpd]

/-- A finished request is answered, and nothing else changes. -/
theorem finish_answers (h : Running rq u s) (code status reason : Nat) (p : Bytes) :
    Answered rq code status reason p (finish { rq with cmd := code } status reason p s)
      ∧ Quiet rq u (finish { rq with cmd := code } status reason p s) := by
  constructor
  · have hb := h.busy
    obtain ⟨h1, h2, h3⟩ := h.holds
    refine ⟨?_, ?_, ?_, ?_⟩
    · cases rq.src <;> simp [finish, deliver, Holds, irq, mailUpd, hb, h1, h2, h3]
    · cases rq.src <;> simp [finish, deliver, irq, mailUpd, hb]
    · cases rq.src <;> simp [finish, deliver, irq, mailUpd, hb, mkResponse, State.stateByte, State.hubIdOut]
    · cases hs : rq.src <;>
        simp [finish, deliver, Sent, hs, irq, mailUpd, hb, mkResponse, State.stateByte, State.hubIdOut, respBytes]
  · exact h.quiet.trans ((mailUpd_quiet rq _ s).trans (deliver_quiet rq _ _))

/-- A state with other requests waiting. -/
def State.withTaken (s : State) (l : List Req) : State := { s with sh := { s.sh with taken := l } }

@[simp] theorem State.withTaken_taken (s : State) (l : List Req) : (s.withTaken l).sh.taken = l := rfl
@[simp] theorem State.withTaken_hub (s : State) (l : List Req) : (s.withTaken l).hub = s.hub := rfl
theorem State.withTaken_withTaken (s : State) (l r : List Req) :
    { s.withTaken l with sh := { (s.withTaken l).sh with taken := r } } = s.withTaken r := rfl
theorem State.withTaken_nil {s : State} (h : s.sh.taken = []) : s.withTaken [] = s := by
  rw [← h]; rfl

@[simp] theorem takeReq_taken (q : Req) (s : State) : (takeReq q s).sh.taken = s.sh.taken := by
  unfold takeReq; split <;> rfl

/-- A request that its mailbox takes is the only one that waits (R43, R50). -/
theorem judge_admits (q : Req) (hq : cmdKnown q.cmd = true) (hs : s.hub.state ≠ .safe) (ha : s.Admits q) (hf : s.sh.taken = []) :
    judge 4 q s = (takeReq q s).withTaken [q] := by
  have e : takeOrUnknown q s = (takeReq q s).withTaken [q] := by
    show answerUnknown ((takeReq q s).sh.taken ++ [q]) ((takeReq q s).withTaken _) = _
    rw [takeReq_taken, hf, List.nil_append, answerUnknown, if_pos hq]; rfl
  have hr : ¬ (q.src ≠ .spi ∧ s.cfg.active.spiReserve q.mb = true) := fun x => by
    rw [ha.reserve x.1] at x
    exact Bool.noConfusion x.2
  simp only [judge, if_neg hs, if_neg hr, ne_eq, not_true_eq_false, if_false]
  rcases ha.claim with hc | ⟨hc, h1, h2, h3⟩
  · simp [hc, e]
  · simp [hc, judgeAlive, h1, h2, h3, e]

/-- What a request that this hub takes does: its command's body, on the state with the request in its mailbox. -/
theorem runCmd_takes {c : Rules} {body : Req → State → Reply × State} {t : Nat} (hk : cmdKnown c.code = true)
    (h : s.Takes rq c.legal) (hb : c.standbyNo = true → s.hub.role ≠ .standby) (hn : c.len rq.payload.length = true) :
    runCmd c body t rq s = .next { nextTaken (reply { rq with cmd := c.code }
      (body { rq with cmd := c.code } (takeReq { rq with cmd := c.code } (tick t s))).1
      (body { rq with cmd := c.code } (takeReq { rq with cmd := c.code } (tick t s))).2) with pending := s.pending } := by
  have h1 : (tick t s).hub = s.hub := rfl
  have h2 : (tick t s).sh.taken = [] := h.front
  have h3 : (takeReq { rq with cmd := c.code } (tick t s)).hub = s.hub := by
    unfold takeReq; split <;> rfl
  have h4 : ¬ rq.b12 ≠ 0 := fun e => e h.b12
  have h5 : ¬ (c.standbyNo = true ∧ s.hub.role = .standby) := fun e => hb e.1 e.2
  have h6 : (tick t s).hears rq.src rq.port = true := h.hears
  have h8 := judge_admits (s := tick t s) { rq with cmd := c.code } hk h.safe ⟨h.admits.reserve, h.admits.claim⟩ h.front
  have h9 := State.withTaken_nil ((takeReq_taken { rq with cmd := c.code } (tick t s)).trans h2)
  have h10 : c.len ({ rq with cmd := c.code } : Req).payload.length = true := hn
  have h11 : ¬ ({ rq with cmd := c.code } : Req).b12 ≠ 0 := h4
  clear h4 hn
  simp only [runCmd, act, unlessReset, h1, h2, h.reset, h6, List.isEmpty_nil, Bool.and_self, if_true, reduceCtorEq, if_false]
  generalize ({ rq with cmd := c.code } : Req) = q at *
  have hp : perform c body q ((takeReq q (tick t s)).withTaken []) =
      reply q (body q (takeReq q (tick t s))).1 (body q (takeReq q (tick t s))).2 := by
    simp only [h9, perform, h3, h.legal, h10, if_neg h.safe, if_neg h11, if_neg h5, reduceCtorEq, if_false]
  rw [h8]
  have e : (if q = q then nextTaken (perform c body q ((takeReq q (tick t s)).withTaken []))
      else (takeReq q (tick t s)).withTaken [q]) =
        nextTaken (reply q (body q (takeReq q (tick t s))).1 (body q (takeReq q (tick t s))).2) := by rw [if_pos rfl, hp]
  exact congrArg (fun v : State => Host.Outcome.next { v with pending := s.pending }) e

/-- A state in which no request waits goes on as it is. -/
theorem nextTaken_nil {v : State} (h : v.sh.taken = []) : nextTaken v = v := by
  simp only [nextTaken, h, answerUnknown]
  exact State.withTaken_nil h

/-- A request whose body answers on a state that is u but for the request's mailbox. -/
theorem answers_of {c : Rules} {body : Req → State → Reply × State} {t : Nat} {i : Instr}
    {status reason : Nat} {p : Bytes} {x : State}
    (he : exec i s = runCmd c body t rq s) (hk : cmdKnown c.code = true)
    (h : s.Takes rq c.legal) (hb : c.standbyNo = true → s.hub.role ≠ .standby) (hn : c.len rq.payload.length = true)
    (hr : reply { rq with cmd := c.code }
      (body { rq with cmd := c.code } (takeReq { rq with cmd := c.code } (tick t s))).1
      (body { rq with cmd := c.code } (takeReq { rq with cmd := c.code } (tick t s))).2
        = finish { rq with cmd := c.code } status reason p x)
    (hx : Running rq u x) (hp : x.pending = s.pending) (ht : x.sh.taken = []) :
    Answers i s rq c.code status reason p u := by
  refine ⟨_, he.trans (runCmd_takes hk h hb hn), rfl, ?_⟩
  have ht' : (finish { rq with cmd := c.code } status reason p x).sh.taken = [] := by simp [ht]
  have e : ({ nextTaken (reply { rq with cmd := c.code }
      (body { rq with cmd := c.code } (takeReq { rq with cmd := c.code } (tick t s))).1
      (body { rq with cmd := c.code } (takeReq { rq with cmd := c.code } (tick t s))).2) with pending := s.pending } : State)
      = finish { rq with cmd := c.code } status reason p x := by
    rw [hr, nextTaken_nil ht', ← hp]
    rw [show x.pending = (finish { rq with cmd := c.code } status reason p x).pending by simp]
  rw [e]
  exact finish_answers hx c.code status reason p

/-- A read: the body answers DONE and changes nothing. -/
theorem reads_of {c : Rules} {f : Req → State → Reply} {t : Nat} {i : Instr} {P : Bytes → Prop}
    (he : exec i s = runCmd c (reading f) t rq s) (hk : cmdKnown c.code = true)
    (h : s.Takes rq c.legal) (hb : c.standbyNo = true → s.hub.role ≠ .standby) (hn : c.len rq.payload.length = true)
    (hr : ∀ v, Running rq (tick t s) v → ∃ p, f { rq with cmd := c.code } v = .done p ∧ P p) :
    Reads i t s rq c.code P := by
  have hs : (tick t s).hub.state ≠ .safe := h.safe
  have hv := takeReq_running (rq := rq) hs c.code
  obtain ⟨p, e, hp⟩ := hr _ hv
  refine ⟨p, hp, answers_of he hk h hb hn (x := takeReq { rq with cmd := c.code } (tick t s)) ?_ hv ?_ ?_⟩
  · simp [reading, e, reply]
  · unfold takeReq; split <;> rfl
  · simp [h.front]

/-- A body that answers DONE and leaves the machine as u. -/
theorem done_of {c : Rules} {body : Req → State → Reply × State} {t : Nat} {i : Instr} {p : Bytes}
    (he : exec i s = runCmd c body t rq s) (hk : cmdKnown c.code = true)
    (h : s.Takes rq c.legal) (hb : c.standbyNo = true → s.hub.role ≠ .standby) (hn : c.len rq.payload.length = true)
    (hr : ∀ v, Running rq (tick t s) v → ∃ w, body { rq with cmd := c.code } v = (.done p, w) ∧ Running rq u w
      ∧ w.pending = v.pending ∧ w.sh.taken = v.sh.taken) :
    Answers i s rq c.code 0 0 p u := by
  have hs : (tick t s).hub.state ≠ .safe := h.safe
  obtain ⟨w, e, hw, hp, ht⟩ := hr _ (takeReq_running (rq := rq) hs c.code)
  refine answers_of he hk h hb hn (x := w) ?_ hw (hp.trans ?_) (ht.trans ?_)
  · simp [e, reply]
  · unfold takeReq; split <;> rfl
  · simp [h.front]

/-- A body that refuses. -/
theorem refuses_of {c : Rules} {body : Req → State → Reply × State} {t : Nat} {i : Instr} {reason : Nat} {l : Locator}
    (he : exec i s = runCmd c body t rq s) (hk : cmdKnown c.code = true)
    (h : s.Takes rq c.legal) (hb : c.standbyNo = true → s.hub.role ≠ .standby) (hn : c.len rq.payload.length = true)
    (hr : ∀ v, Running rq (tick t s) v → body { rq with cmd := c.code } v = (.refused reason l, v)) :
    Refuses i t s rq c.code reason (beBytes 2 l.block ++ beBytes 2 l.off ++ beBytes 2 l.idx ++ zeros 2) := by
  have hs : (tick t s).hub.state ≠ .safe := h.safe
  have hv := takeReq_running (rq := rq) hs c.code
  have e := hr _ hv
  refine answers_of he hk h hb hn (x := logEvent reason c.code (reqDetail rq.mb rq.seq) (takeReq { rq with cmd := c.code } (tick t s)))
    ?_ (hv.log _ _ _) ?_ ?_
  · simp [e, reply]
  · unfold takeReq; split <;> rfl
  · simp [h.front]

end Sys2Proof.Machine
end

