-- ==== Sys2Proof/WellFormed.lean ====
section
/-! DEFINITION. Which commands are well formed: the ranges that the spec gives their operands. A number of a part lies
below the count of such parts, a field fits its width, and a message fits its carrier. The meanings are total on
every command; a well-formed one names parts that the hub has. -/

namespace Sys2Proof

/-- A number below a bound. -/
def below (n v : Nat) : Bool := decide (v < n)

/-- A clock that the hub has (R26): 4 ply links. -/
def clockOk : Clock → Bool
  | .pclk link _ => below 4 link
  | _ => true

/-- A signed number fits n bits. -/
def signedFits (n : Nat) (v : Int) : Bool := decide (-(2 ^ (n - 1) : Int) ≤ v) && decide (v < (2 ^ (n - 1) : Int))

/-- A requester's address and port fit their widths (R43). -/
def Requester.wf : Requester → Bool
  | .spi => true
  | .udp ip udpPort => below (2 ^ 32) ip && below (2 ^ 16) udpPort

/-- A request fits the message of R45: at most 1,004 bytes of payload. -/
def Req.wf (rq : Req) : Bool :=
  below 8 rq.mb && below 16 rq.alive && below (2 ^ 16) rq.cmd && below (2 ^ 32) rq.seq && below (2 ^ 32) rq.b12
    && below 1005 rq.payload.length && rq.src.wf && below 2 rq.port

/-- A PTP Sync names an 80-bit port identity and an 8-bit domain (R343). -/
def PtpSync.wf (m : PtpSync) : Bool := below (2 ^ 80) m.source && below 256 m.domain && signedFits 8 m.logDelayReq

/-- The fields of an Announce fit their widths (R343). -/
def PtpAnnounce.wf (m : PtpAnnounce) : Bool :=
  below 256 m.priority1 && below 256 m.clockClass && below 256 m.accuracy && below (2 ^ 16) m.variance
    && below 256 m.priority2 && below (2 ^ 64) m.grandmaster && below (2 ^ 16) m.steps && below (2 ^ 80) m.source
    && below 256 m.domain

/-- The header fields of a Selvedge frame fit their widths (R426). -/
def SvHeader.wf (h : SvHeader) : Bool := below 16 h.alive && below (2 ^ 32) h.cfgSeq

/-- A command names parts that the hub has, and its fields fit. -/
def Instr.wf (c : Instr) : Bool :=
  match c with
  | .shuttleRequest _ port ip udp msg =>
      below 2 port && below (2 ^ 32) ip && below (2 ^ 16) udp && below 65508 msg.length
  | .spiWrite _ msg => below 65508 msg.length
  | .spiRead _ mb _ => below 8 mb
  | .spiPoll _ => true
  | .spiInvalidOpcode _ op => below 256 op
  | .spiFrameTimeout _ => true
  | .claimIdleLapse _ mb => below 8 mb
  | .jobResultExpiry _ job => below (2 ^ 16) job
  | .identify _ rq => rq.wf
  | .status _ rq => rq.wf
  | .ping _ rq => rq.wf
  | .release _ rq => rq.wf
  | .jobStatus _ rq => rq.wf
  | .jobCancel _ rq => rq.wf
  | .restart _ rq => rq.wf
  | .restartEntry _ => true
  | .eventRead _ rq => rq.wf
  | .countersRead _ rq => rq.wf
  | .cfgOpen _ rq => rq.wf
  | .paramRead _ rq => rq.wf
  | .paramWrite _ rq => rq.wf
  | .commit _ rq => rq.wf
  | .checkOnly _ rq => rq.wf
  | .commitNoEn _ rq => rq.wf
  | .cfgAbort _ rq => rq.wf
  | .copyStatus _ rq => rq.wf
  | .cfgSave _ rq => rq.wf
  | .enterConfig _ rq => rq.wf
  | .start _ rq => rq.wf
  | .stop _ rq => rq.wf
  | .enterService _ rq => rq.wf
  | .leaveService _ rq => rq.wf
  | .faultClear _ rq => rq.wf
  | .heddleState _ rq => rq.wf
  | .leadStatus _ rq => rq.wf
  | .excStatus _ rq => rq.wf
  | .ovrCounters _ rq => rq.wf
  | .threadProbe _ rq => rq.wf
  | .convStatus _ rq => rq.wf
  | .scSpot _ rq => rq.wf
  | .scanRead _ rq => rq.wf
  | .simulRead _ rq => rq.wf
  | .scCounters _ rq => rq.wf
  | .pathTest _ rq => rq.wf
  | .pathTestDone _ job slots husks => below (2 ^ 16) job && slots.all (below 16) && husks.all (below (2 ^ 32))
  | .leadRes _ rq => rq.wf
  | .filterStatus _ rq => rq.wf
  | .settleInfo _ rq => rq.wf
  | .reedSwap _ rq => rq.wf
  | .reedSwapRelease _ die => below 4 die
  | .mainsStatus _ rq => rq.wf
  | .coefRead _ rq => rq.wf
  | .groupStatus _ rq => rq.wf
  | .chTiming _ rq => rq.wf
  | .instantCalc _ rq => rq.wf
  | .timeStatus _ rq => rq.wf
  | .warpPorts _ rq => rq.wf
  | .syncReset _ rq => rq.wf
  | .timeSet _ rq => rq.wf
  | .eventSend _ rq => rq.wf
  | .censusRead _ rq => rq.wf
  | .linEval _ rq => rq.wf
  | .cjStatus _ rq => rq.wf
  | .bridgeZero _ rq => rq.wf
  | .bridgeZeroDone _ job => below (2 ^ 16) job
  | .calStatus _ rq => rq.wf
  | .calRun _ rq => rq.wf
  | .calRunDone _ job husks => below (2 ^ 16) job && husks.all (below (2 ^ 32))
  | .calCommit _ rq => rq.wf
  | .calDiscard _ rq => rq.wf
  | .calRead _ rq => rq.wf
  | .treadleStatus _ rq => rq.wf
  | .treadleArm _ rq => rq.wf
  | .treadleDisarm _ rq => rq.wf
  | .treadleForce _ rq => rq.wf
  | .bobbinStatus _ rq => rq.wf
  | .compStatus _ rq => rq.wf
  | .tioStatus _ rq => rq.wf
  | .loopStatus _ rq => rq.wf
  | .loopSet _ rq => rq.wf
  | .loopSelect _ rq => rq.wf
  | .stimStatus _ rq => rq.wf
  | .stimStart _ rq => rq.wf
  | .stimStop _ rq => rq.wf
  | .stimLoad _ rq => rq.wf
  | .stimTableEnd _ rq => rq.wf
  | .portStatus _ rq => rq.wf
  | .streamStatus _ rq => rq.wf
  | .storeStatus _ rq => rq.wf
  | .weftResend _ rq => rq.wf
  | .noticeRead _ rq => rq.wf
  | .ptpStatus _ rq => rq.wf
  | .winnowStatus _ rq => rq.wf
  | .winnowProbe _ rq => rq.wf
  | .integrityStatus _ rq => rq.wf
  | .crossStatus _ rq => rq.wf
  | .chkStep _ rq => rq.wf
  | .storeCrc _ rq => rq.wf
  | .storeCrcDone _ job => below (2 ^ 16) job
  | .pairStatus _ rq => rq.wf
  | .pairSwitch _ rq => rq.wf
  | .pairDetach _ rq => rq.wf
  | .mirrorResync _ rq => rq.wf
  | .powerStatus _ rq => rq.wf
  | .domainSet _ rq => rq.wf
  | .seedStatus _ rq => rq.wf
  | .seedSubst _ rq => rq.wf
  | .seedConsent _ rq => rq.wf
  | .imageLoad _ rq => rq.wf
  | .imageEnd _ rq => rq.wf
  | .decompressionDone _ => true
  | .beatBoundary _ husks _ bad => husks.all (below (2 ^ 32)) && bad.all (below (2 ^ 32))
  | .mbbRoleChange _ => true
  | .domainPowerGood _ dom => below 8 dom
  | .domainPowerGoodTimeout _ dom => below 8 dom
  | .storeZeroed _ => true
  | .plyLinkTrained _ die lanes => below 4 die && below 16 lanes
  | .synchronisingReset _ => true
  | .catchUpReset _ => true
  | .loomTimeStep _ w => w.husks.all (below (2 ^ 32)) && w.bad.all (below (2 ^ 32))
  | .plyWordArrival _ ch _ slot _ codes => below 256 ch && below (2 ^ 16) slot && (codes.all fun c => decide (c.natAbs ≤ 7))
  | .plyLaneFailure _ die lane => below 4 die && below 4 lane
  | .outputSample _ ch _ reads => below 256 ch && reads.all fun x => below 2097152 x.1 && x.2.length == 38
  | .frameClose _ stream sec => below 16 stream && below 8 sec
  | .winnowFrameStart _ => true
  | .winnowFrameDone _ stalled => stalled.all fun b => decide (16416 ≤ b) && below (2 ^ 17) b
  | .winnowStallResume _ => true
  | .portTransmit _ port => below 2 port
  | .tc0Token _ port => below 2 port
  | .acknowledgement _ port msg => below 2 port && below 9001 msg.length
  | .hostFrameReceived _ port frame _ => below 2 port && below 9019 frame.length
  | .arpRequest _ port senderMac senderIp targetIp =>
      below 2 port && below (2 ^ 48) senderMac && below (2 ^ 32) senderIp && below (2 ^ 32) targetIp
  | .arpRefresh _ port ip => below 2 port && below (2 ^ 32) ip
  | .arpRetry _ port ip => below 2 port && below (2 ^ 32) ip
  | .icmpEchoRequest _ port srcIp msg =>
    below 2 port && below (2 ^ 32) srcIp && decide (4 ≤ msg.length) && below 9000 msg.length
  | .ptpSync _ port m => below 2 port && m.wf
  | .ptpAnnounce _ port m => below 2 port && m.wf
  | .pdelayReq _ port srcId seqId domain =>
      below 2 port && below (2 ^ 80) srcId && below (2 ^ 16) seqId && below 256 domain
  | .portLinkChange _ port _ => below 2 port
  | .warpTimeFrame _ frame _ => below 257 frame.length
  | .timeFrameSend _ port => below 4 port
  | .delayRequestSend _ => true
  | .delayRequest _ port frame _ => below 4 port && below 257 frame.length
  | .warpEvent _ port ev => below 4 port && below 65 ev.length
  | .resendRequest _ port first => below 4 port && below 256 first
  | .eventOrigination _ => true
  | .warpEventTransmit _ port => below 4 port
  | .warpPortStateChange _ port _ => below 4 port
  | .warpLost _ => true
  | .warpReturn _ => true
  | .censusLapse _ hub => below (2 ^ 11) hub
  | .modulatorRestart _ ch _ => below 256 ch
  | .overrangeOnset _ ch _ => below 256 ch
  | .overrangeEnd _ ch => below 256 ch
  | .overvoltageTrip _ pod thread => below 16 pod && below 40 thread
  | .overvoltageClear _ pod thread => below 16 pod && below 40 thread
  | .driverReconnect _ pod thread => below 16 pod && below 40 thread
  | .leadWatchHalfPeriod _ ch _ husks => below 256 ch && husks.all (below (2 ^ 32))
  | .leadSuspect _ ch _ => below 256 ch
  | .leadConfirmed _ ch _ => below 256 ch
  | .leadCleared _ ch _ => below 256 ch
  | .excitationExchange _ pod src => below 16 pod && below 10 src
  | .scanConversionDone _ sc code _ => below 8 sc && signedFits 18 code
  | .simultaneousTrigger _ => true
  | .scanListPass _ list => below 8 list
  | .loopUpdate _ bad => bad.all (below (2 ^ 32))
  | .stimulusTick _ found => found.heavy.all (below 16) && found.reads.all fun x =>
    below 2097152 x.1 && x.2.1.length == 38 && below 16 x.2.2.1 && below 262144 x.2.2.2
  | .sequencerEvaluation _ seq _ => below 4 seq
  | .treadleTimerExpiry _ seq k => below 4 seq && below 4 k
  | .treadleCounterReached _ seq k => below 4 seq && below 4 k
  | .tioInputChange _ pin _ => below 16 pin
  | .tioLevelAccepted _ pin => below 16 pin
  | .autoTimeout _ bob => below 8 bob
  | .rearmEnd _ bob => below 8 bob
  | .recordComplete _ bob rec => below 8 bob && below (2 ^ 32) rec
  | .scrubPass _ reads => reads.all fun r => below 2097152 r.1 && decide (r.2.length = 38)
  | .macResidueFailure _ lane ch => below 72 lane && below 256 ch
  | .voterDisagreement _ dissenter => dissenter.all (below 4)
  | .clockMonitorReport _ clk _ => clockOk clk
  | .qclkRestore _ => true
  | .clockRestored _ clk => clockOk clk
  | .crossingRestart _ x => below 12 x
  | .railOutOfWindow _ rail _ => below 8 rail
  | .railInWindow _ rail => below 8 rail
  | .domainSwitchFault _ dom => below 8 dom
  | .nresetAssert _ => true
  | .nresetRelease _ _ _ _ => true
  | .joinWaitExpiry _ => true
  | .endOfBoot _ => true
  | .heartbeatSend _ => true
  | .selvedgeHeartbeat _ frame => below 4109 frame.length
  | .snapshotFragment _ hdr _ _ _ => hdr.wf
  | .delta _ hdr f => hdr.wf && below (2 ^ 32) f.delta.id && f.bad.all (below (2 ^ 32))
  | .deltaAcknowledgement _ hdr id => hdr.wf && below (2 ^ 32) id
  | .deltaResend _ => true
  | .resyncRequest _ hdr => hdr.wf
  | .switchControl _ hdr _ => hdr.wf
  | .promptSwitchInstant _ => true
  | .selvedgeLost _ => true
  | .selvedgeLaneFailure _ lane => below 3 lane
  | .hbInEdge _ => true
  | .hbInLost _ => true
  | .witnessAbsent _ w => below 4 w
  | .standbyEvaluation _ => true
  | .returnHoldoffExpiry _ => true
  | .mainsTrackingLost _ => true
  | .ptpSourceLost _ => true
  | .ptpDelayReqSend _ port => below 2 port
  | .mirrorStale _ => true
  | .witnessPresent _ w => below 4 w

end Sys2Proof
end

