-- ==== Sys2Proof/Tests/Slice0.lean ====
section
/-! SUPPORT. Tests of the model: an ill-formed term for each well-formedness test, worked examples of the spec, single
steps, and for each statement with hypotheses a state and operands that meet them. -/

set_option Elab.async false

namespace Sys2Proof.Tests

open Sys2Proof Sys2Proof.Machine

/-! ### Helpers -/

/-- A configuration with the given words. -/
def conf (ws : List (Nat × Nat × Word)) : PMem := ws.foldl (fun m w => PMem.put m (pkey w.1 w.2.1) w.2.2) []

/-- Every power domain on and its link trained. -/
def power : Power :=
  { domains := (List.range 8).map fun d => (d, { state := 2, good := true, wanted := true, trained := true, aligned := true }) }

/-- A hub out of reset, in a state, with a configuration, and every domain on. -/
def up (h : HubState) (ws : List (Nat × Nat × Word)) : State :=
  { hub := { state := h }, cfg := { force := conf ws, active := conf ws }, pow := power }

/-- A request from SPI to mailbox 0. -/
def ask (p : Bytes) : Req := { payload := p }

/-- A hub takes a request from SPI to a mailbox that nobody has claimed, when no other request waits. -/
theorem spi_takes {s : State} {rq : Req} {l : HubState → Bool} (hr : s.hub.inReset = false) (hs : s.hub.state ≠ .safe)
    (hl : l s.hub.state = true) (he : s.cfg.active.spiEn = true) (hq : rq.src = .spi)
    (hc : (s.sh.mail.get rq.mb).claim = none) (hf : s.sh.taken = []) (hb : rq.b12 = 0) : s.Takes rq l :=
  ⟨hr, hs, hl, by rw [hq]; exact he, ⟨fun h => absurd hq h, Or.inl hc⟩, hf, hb⟩

theorem up_takes {h : HubState} {ws : List (Nat × Nat × Word)} {rq : Req} {l : HubState → Bool} (hs : h ≠ .safe)
    (hl : l h = true) (hb : rq.b12 = 0) (hq : rq.src = .spi := by rfl)
    (he : (up h ws).cfg.active.spiEn = true := by decide +kernel) : (up h ws).Takes rq l :=
  spi_takes rfl hs hl he hq rfl rfl hb

/-- The state after a command, the state itself where it does not answer one. -/
def after (c : Instr) (s : State) : State :=
  match exec c s with
  | .next s' => s'
  | _ => s

/-! ### Well-formedness: an ill-formed term for each test -/

theorem test_wf_transport : [Instr.shuttleRequest 0 2 0 0 [], .shuttleRequest 0 0 (2 ^ 32) 0 [],
    .shuttleRequest 0 0 0 (2 ^ 16) [], .spiRead 0 8 0, .spiInvalidOpcode 0 256, .claimIdleLapse 0 8,
    .jobResultExpiry 0 (2 ^ 16)].all (fun c => !c.wf) = true := by decide

theorem test_wf_requests : [Instr.ping 0 { mb := 8 }, .ping 0 { alive := 16 }, .ping 0 { cmd := 2 ^ 16 },
    .ping 0 { seq := 2 ^ 32 }, .ping 0 { b12 := 2 ^ 32 }, .ping 0 { src := .udp (2 ^ 32) 0 },
    .ping 0 { src := .udp 0 (2 ^ 16) }, .ping 0 { port := 2 }].all (fun c => !c.wf) = true := by decide

theorem test_wf_long_payload (p : Bytes) (h : 1005 ≤ p.length) : (Instr.ping 0 (ask p)).wf = false := by
  simp [Instr.wf, Req.wf, ask, below, Nat.not_lt.mpr h]

theorem test_wf_long_messages (p : Bytes) (h : 65508 ≤ p.length) :
    (Instr.shuttleRequest 0 0 0 0 p).wf = false ∧ (Instr.spiWrite 0 p).wf = false ∧ (Instr.acknowledgement 0 0 p).wf = false
      ∧ (Instr.hostFrameReceived 0 0 p true).wf = false ∧ (Instr.icmpEchoRequest 0 0 0 p).wf = false := by
  simp only [Instr.wf, below, Bool.and_eq_false_iff, decide_eq_false_iff_not]
  refine ⟨?_, ?_, ?_, ?_, ?_⟩ <;> first | exact Or.inr (by omega) | omega

theorem test_wf_long_frames : [Instr.warpTimeFrame 0 (List.replicate 257 0#8) 0,
      .delayRequest 0 1 (List.replicate 257 0#8) 0,
      .warpEvent 0 1 (List.replicate 65 0#8)].all (fun c => !c.wf) = true := by decide +kernel

theorem test_wf_long_heartbeats (f : Bytes) (h : 4109 ≤ f.length) : (Instr.selvedgeHeartbeat 0 f).wf = false := by
  simp [Instr.wf, below, Nat.not_lt.mpr h]

theorem test_wf_jobs : [Instr.pathTestDone 0 (2 ^ 16) [] [], .pathTestDone 0 0 [16] [], .pathTestDone 0 0 [] [2 ^ 32], .reedSwapRelease 0 4, .bridgeZeroDone 0 (2 ^ 16), .calRunDone 0 (2 ^ 16) [],
    .calRunDone 0 0 [2 ^ 32], .storeCrcDone 0 (2 ^ 16)].all (fun c => !c.wf) = true := by decide

theorem test_wf_sampling : [Instr.beatBoundary 0 [2 ^ 32] false [], .beatBoundary 0 [] false [2 ^ 32],
    .loomTimeStep 0 { husks := [2 ^ 32] }, .loomTimeStep 0 { bad := [2 ^ 32] },
    .plyLinkTrained 0 4 0, .plyLinkTrained 0 0 16, .plyWordArrival 0 256 false 0 0 [], .plyWordArrival 0 0 false (2 ^ 16) 0 [],
    .plyWordArrival 0 0 false 0 0 [8], .plyWordArrival 0 0 false 0 0 [-8], .plyLaneFailure 0 4 0, .plyLaneFailure 0 0 4,
    .outputSample 0 256 0 [], .outputSample 0 0 0 [(2097152, zeros 38)], .outputSample 0 0 0 [(0, zeros 32)], .modulatorRestart 0 256 true, .overrangeOnset 0 256 true,
    .overrangeEnd 0 256].all (fun c => !c.wf) = true := by decide

theorem test_wf_delivery : [Instr.frameClose 0 16 0, .frameClose 0 0 8, .winnowFrameDone 0 (some 16415),
    .winnowFrameDone 0 (some (2 ^ 17)), .portTransmit 0 2, .tc0Token 0 2,
    .acknowledgement 0 2 [], .hostFrameReceived 0 2 [] true, .arpRequest 0 2 0 0 0, .arpRequest 0 0 (2 ^ 48) 0 0,
    .arpRequest 0 0 0 (2 ^ 32) 0, .arpRequest 0 0 0 0 (2 ^ 32), .arpRefresh 0 2 0, .arpRefresh 0 0 (2 ^ 32), .arpRetry 0 2 0,
    .arpRetry 0 0 (2 ^ 32), .icmpEchoRequest 0 2 0 (zeros 4), .icmpEchoRequest 0 0 (2 ^ 32) (zeros 4),
    .icmpEchoRequest 0 0 0 (zeros 3), .pdelayReq 0 2 0 0 0,
    .pdelayReq 0 0 (2 ^ 80) 0 0, .pdelayReq 0 0 0 (2 ^ 16) 0, .pdelayReq 0 0 0 0 256,
    .portLinkChange 0 2 true, .ptpDelayReqSend 0 2].all (fun c => !c.wf) = true := by decide

/-- The data set of an Announce with one field given, and the rest zero. -/
def announce (p1 cls acc var p2 gm steps src dom : Nat) : Instr :=
  .ptpAnnounce 0 0 { priority1 := p1, clockClass := cls, accuracy := acc, variance := var, priority2 := p2, grandmaster := gm
                     steps, source := src, domain := dom }

theorem test_wf_ptp : [Instr.ptpSync 0 2 { source := 0, domain := 0, offsetPs := 0, meanPathPs := 0, logInterval := 0 },
    .ptpSync 0 0 { source := 2 ^ 80, domain := 0, offsetPs := 0, meanPathPs := 0, logInterval := 0 },
    .ptpSync 0 0 { source := 0, domain := 256, offsetPs := 0, meanPathPs := 0, logInterval := 0 },
    announce 256 0 0 0 0 0 0 0 0, announce 0 256 0 0 0 0 0 0 0, announce 0 0 256 0 0 0 0 0 0,
    announce 0 0 0 (2 ^ 16) 0 0 0 0 0, announce 0 0 0 0 256 0 0 0 0, announce 0 0 0 0 0 (2 ^ 64) 0 0 0,
    announce 0 0 0 0 0 0 (2 ^ 16) 0 0, announce 0 0 0 0 0 0 0 (2 ^ 80) 0,
    announce 0 0 0 0 0 0 0 0 256].all (fun c => !c.wf) = true := by decide

theorem test_wf_warp : [Instr.timeFrameSend 0 4, .delayRequest 0 4 [] 0, .warpEvent 0 4 [], .resendRequest 0 4 0,
    .resendRequest 0 0 256, .warpEventTransmit 0 4, .warpPortStateChange 0 4 .noSignal,
    .censusLapse 0 (2 ^ 11)].all (fun c => !c.wf) = true := by decide

theorem test_wf_heddle : [Instr.overvoltageTrip 0 16 0, .overvoltageTrip 0 0 40, .overvoltageClear 0 16 0,
    .driverReconnect 0 0 40, .leadWatchHalfPeriod 0 256 0 [], .leadWatchHalfPeriod 0 0 0 [2 ^ 32], .leadSuspect 0 256 .leadWatch, .leadConfirmed 0 256 .leadWatch,
    .leadCleared 0 256 .leadWatch, .excitationExchange 0 16 0, .excitationExchange 0 0 10, .scanConversionDone 0 8 0 0,
    .scanConversionDone 0 0 131072 0, .scanListPass 0 8].all (fun c => !c.wf) = true := by decide

theorem test_wf_engines : [Instr.loopUpdate 0 [2 ^ 32], .stimulusTick 0 { heavy := [16] }, .stimulusTick 0 { reads := [(2097152, zeros 38, 0, 0)] },
    .stimulusTick 0 { reads := [(0, zeros 32, 0, 0)] }, .stimulusTick 0 { reads := [(0, zeros 38, 16, 0)] },
    .stimulusTick 0 { reads := [(0, zeros 38, 0, 262144)] }, .sequencerEvaluation 0 4 0, .treadleTimerExpiry 0 4 0, .treadleTimerExpiry 0 0 4,
    .treadleCounterReached 0 0 4, .tioInputChange 0 16 true, .tioLevelAccepted 0 16, .autoTimeout 0 8, .rearmEnd 0 8,
    .recordComplete 0 8 0, .recordComplete 0 0 (2 ^ 32)].all (fun c => !c.wf) = true := by decide

theorem test_wf_system : [Instr.domainPowerGood 0 8, .domainPowerGoodTimeout 0 8, .domainSwitchFault 0 8,
    .railOutOfWindow 0 8 true, .railInWindow 0 8, .scrubPass 0 [(2097152, List.replicate 38 0#8)], .scrubPass 0 [(0, [0#8])],
    .macResidueFailure 0 72 0, .macResidueFailure 0 0 256, .voterDisagreement 0 (some 4), .crossingRestart 0 12,
    .clockMonitorReport 0 (.pclk 4 false) .stopped, .clockRestored 0 (.pclk 4 true),
    .snapshotFragment 0 { alive := 16, cfgSeq := 0, crcOk := true } { beat := 0 } [] true,
    .delta 0 { alive := 0, cfgSeq := 2 ^ 32, crcOk := true } { delta := { id := 0, cfgSeq := 0, due := 0, change := .move .run }, bad := [] },
    .delta 0 { alive := 0, cfgSeq := 0, crcOk := true } { delta := { id := 2 ^ 32, cfgSeq := 0, due := 0, change := .move .run }, bad := [] },
    .delta 0 { alive := 0, cfgSeq := 0, crcOk := true } { delta := { id := 0, cfgSeq := 0, due := 0, change := .move .run }, bad := [2 ^ 32] },
    .deltaAcknowledgement 0 { alive := 0, cfgSeq := 0, crcOk := true } (2 ^ 32),
    .resyncRequest 0 { alive := 16, cfgSeq := 0, crcOk := true }, .switchControl 0 { alive := 0, cfgSeq := 2 ^ 32, crcOk := true } 0,
    .selvedgeLaneFailure 0 3,
    .witnessAbsent 0 4, .witnessPresent 0 4].all (fun c => !c.wf) = true := by decide

theorem test_wf_accepts : [Instr.ping 0 (ask [1#8]), .outputSample 5 255 0 [], .scanConversionDone 0 7 (-131072) 0,
    .driverReconnect 0 15 39].all Instr.wf = true := by decide

/-- The table gives no row any bits, so no word spells a command. -/
theorem test_no_word_spells_a_command : decodeTableWord 32 0xFFFFFFFF = none := by decide


/-! ### Worked examples of the spec, and single steps -/

/-- R29's table: the boundaries of beats 1, 250, 251 and 500. -/
theorem test_beat_boundaries : [1, 250, 251, 500].map beatTime = [0x00418938, 0x40000000, 0x40418938, 0x80000000] := by
  decide +kernel

/-- R180's table. -/
theorem test_grid_instants : [gridInst 1 200000 1, gridInst 1 200000 3, gridInst 1 1024 1, gridInst 1 3 1]
    = [0x53E3, 0xFBA9, 0x00400000, 0x55555556] := by decide +kernel

/-- A ping from SPI is answered DONE with its payload, and its response waits to be read. -/
theorem test_ping_answers : ((after (.ping 0 (ask [7#8])) (up .ready [])).sh.mail.get 0).resp.map (fun r => (r.status, r.payload))
    = some (0, [7#8]) := by decide +kernel

/-- In SAFE every request is answered 0x05 with reason 0x0102, and its mailbox keeps no record (R61). -/
theorem test_safe_refuses : ((after (.ping 0 (ask [7#8])) (up .safe [])).sh.mail.get 0).claim = none := by decide +kernel

/-- A step executes the front command and leaves the rest. -/
theorem test_step_takes_front : (match step { up .ready [] with pending := [.spiInvalidOpcode 0 9, .spiPoll 0] } with
    | .next s => (s.pending, s.sh.counters.get 3)
    | _ => ([], 0)) = ([.spiPoll 0], 1) := by decide +kernel

/-- A step with an empty queue idles. -/
theorem test_step_idles : step (up .ready []) = .next (up .ready []) := by rfl

/-! ### States and operands that meet the hypotheses of the statements -/

theorem meets_StepRunsFrontCommand : ∃ (s : State) (c : Instr) (rest : List Instr), s.pending = c :: rest :=
  ⟨{ up .ready [] with pending := [.spiPoll 0] }, _, _, rfl⟩

theorem meets_StepKeepsInvariant : ∃ s s' : State, s.Inv ∧ step s = .next s' :=
  ⟨up .ready [], up .ready [], ⟨⟨by decide, by decide, nofun⟩, ⟨rfl, rfl, rfl, rfl, nofun⟩, ⟨rfl, fun _ => rfl⟩, ⟨by decide⟩⟩, rfl⟩

theorem meets_BeatBoundaryInstants : (up .run []).hub.inReset = false
    ∧ (up .run []).clk.boundary < beatTime (beatAt (tick (2 ^ 32) (up .run [])).clk.loom)
    ∧ (up .run []).Takes (ask []) (fun _ => true) :=
  ⟨rfl, by decide +kernel, up_takes (by decide) rfl rfl⟩

theorem meets_SerialNumbersCompare : (0x80000000 : Nat) < 2 ^ 32 ∧ (((0x80000000 : Nat) : Int) - (0 : Nat)) % 2 ^ 32 = 2 ^ 31
    ∧ (up .run []).pow.imageA.invalid = false ∧ (up .run []).pow.imageB.invalid = false
    ∧ (up .run []).hub.bootSel = false := by decide +kernel

theorem meets_CheckValuesHusksAndTables : Tab.wf ([] : PMem) = true ∧ Tab.wf ([(1, 5#32)] : PMem) = true := by decide

/-- A response from SPI, with LEN, and a CRC that passes or not. -/
def note (len : Nat) (ctl : Nat) (hub : Nat) (ok : Bool) : Bytes :=
  let b := beBytes 1 ctl ++ [4#8, 0#8, 2#8] ++ beBytes 2 len ++ beBytes 2 hub ++ zeros 8
  if ok then withCrc b else b ++ zeros 4

theorem meets_MessagesDiscardedInOrder :
    (up .ready []).Listens .spi 0 ∧ (note 1 0 0 true).length ≠ 16 + beAt (note 1 0 0 true) 4 2 + 4
      ∧ (note 0 0 0 false).length = 16 + beAt (note 0 0 0 false) 4 2 + 4 ∧ crcPasses (note 0 0 0 false) = false
      ∧ crcPasses (note 0 8 0 true) = true ∧ nbit (beAt (note 0 8 0 true) 0 1) 3 = true
      ∧ crcPasses (note 0 0 5 true) = true ∧ nbit (beAt (note 0 0 5 true) 0 1) 3 = false
      ∧ beAt (note 0 0 5 true) 6 2 ≠ 0xFFFF ∧ some (beAt (note 0 0 5 true) 6 2) ≠ (up .ready []).hub.hubId := by
  refine ⟨⟨rfl, by decide +kernel⟩, ?_⟩
  decide +kernel

/-- A hub whose mailbox 0 is claimed with a record. -/
def claimed (h : HubState) (m : Mailbox) : State := { up h [] with sh := { mail := [(0, m)] } }

theorem meets_RequestsMeetClaimsFirst :
    (up .safe []).Listens .spi 0 ∧ Fits (ask []) ∧ (up .ready []).Listens .spi 0
      ∧ ((claimed .ready { claim := some (.udp 1 1) }).sh.mail.get 0).claim ≠ none
      ∧ ((claimed .ready { claim := some (.udp 1 1) }).sh.mail.get 0).claim ≠ some .spi
      ∧ ((up .ready []).sh.mail.get 7).claim = none ∧ (up .ready []).cfg.active.spiReserve 7 = true
      ∧ (up .ready []).cfg.active.spiReserve 0 = false ∧ cmdKnown 2 = true ∧ cmdKnown 0x7FFF = false := by
  refine ⟨⟨rfl, by decide +kernel⟩, ⟨?_, ?_, ?_, ?_, ?_, ?_⟩, ⟨rfl, by decide +kernel⟩, ?_⟩ <;> decide +kernel

/-- The mailbox records of the rows of R50's table, with the request that meets each. -/
theorem meets_AliveRuleJudgesRequests :
    (claimed .ready { claim := some .spi }).Listens .spi 0 ∧ Fits { alive := 1, seq := 5 }
      ∧ ((claimed .ready { claim := some .spi }).sh.mail.get 0).claim = some .spi
      ∧ (((1 : Nat) : Int) - (0 : Nat)) % 16 = 1 ∧ (((15 : Nat) : Int) - (15 : Nat)) % 16 = 0
      ∧ (((0 : Nat) : Int) - (15 : Nat)) % 16 = 1 ∧ (((1 : Nat) : Int) - (15 : Nat)) % 16 = 2
      ∧ (((7 : Nat) : Int) - (15 : Nat)) % 16 = 8 ∧ (9 : Int) ≤ (((8 : Nat) : Int) - (15 : Nat)) % 16
      ∧ ((claimed .ready { claim := some .spi, busy := true, alive := 1, seq := 5 }).sh.mail.get 0).busy = true
      ∧ ((claimed .ready { claim := some .spi, resp := some default }).sh.mail.get 0).resp = some default := by
  refine ⟨⟨rfl, by decide +kernel⟩, ⟨?_, ?_, ?_, ?_, ?_, ?_⟩, ?_⟩ <;> decide +kernel

/-- A hub whose supervisor has a request waiting in front. -/
def waiting : State := { up .ready [] with sh := { taken := [{ ask [] with cmd := 2 }] } }

theorem meets_RequestsMeetClaimsFirst_held : waiting.Held ∧ waiting.sh.taken ≠ [] ∧ (up .ready []).Held
    ∧ (claimed .ready { claim := some .spi }).Held :=
  ⟨⟨by decide, Or.inl (by decide +kernel), by rintro _ ⟨⟩; decide⟩, nofun, ⟨by decide, Or.inl (by decide +kernel), nofun⟩,
    ⟨by decide, Or.inl (by decide +kernel), nofun⟩⟩

theorem meets_RequestTestsInOrder_hears : (up .ready []).hears .spi 0 = true ∧ (up .ready []).hears (.udp 1 1) 0 = false
    ∧ (up .ready []).Admits (ask []) ∧ ¬ (claimed .ready { claim := some (.udp 1 1) }).Admits (ask []) := by
  refine ⟨by decide +kernel, by decide +kernel, ⟨fun h => absurd rfl h, Or.inl rfl⟩, fun h => ?_⟩
  rcases h.claim with h | h <;> revert h <;> decide

theorem meets_RequestTestsInOrder :
    requestOf (.start 0 (ask [])) = some (0, ask [], 0x0021) ∧ State.reset.hub.inReset = true
      ∧ ({ up .ready [] with sh := { taken := [ask [1#8]] } } : State).sh.taken.head? ≠ some { ask [] with cmd := 0x0021 }
      ∧ (up .safe []).sh.taken = [] ∧ ({ b12 := 1 } : Req).b12 ≠ 0 ∧ legalIn 0x0021 .run = false ∧ legalIn 0x0021 .boot = false
      ∧ legalIn 0x0021 .ready = true ∧ standbyRefuses.contains 0x0021 = true
      ∧ ({ up .ready [] with hub := { state := .ready, role := .standby } } : State).hub.role = .standby := by
  decide +kernel

theorem meets_ResetHoldsAndSafeLatches : State.reset.Held ∧ step State.reset = .next State.reset ∧ (up .safe []).Held
    ∧ (up .safe []).hub.inReset = false ∧ exec (.endOfBoot 0) (up .safe []) = .next (up .safe []) := by
  refine ⟨⟨fun _ => rfl, Or.inl rfl, nofun⟩, rfl, ⟨by decide, Or.inl (by decide +kernel), nofun⟩, rfl, by rfl⟩

theorem meets_SpiFramesAct : (up .ready []).Listens .spi 0 ∧ ((up .ready []).sh.mail.get 3).unread = none
    ∧ ((claimed .ready { unread := some [1#8] }).sh.mail.get 0).unread = some [1#8]
    ∧ (2 : Nat) < 2 + [1#8].length ∧ 2 + [1#8].length ≤ (3 : Nat) :=
  ⟨⟨rfl, by decide +kernel⟩, rfl, rfl, by decide, by decide⟩

theorem meets_EventsAndAlarms : (up .ready []).sh.alarms.contains 12 = false ∧ (up .ready []).sh.alarms.contains 12 ≠ true := by
  decide

theorem meets_ClaimsAndResultsEnd :
    (let s := claimed .ready { claim := some .spi }
     (s.sh.mail.get 0).claim.isSome = true
       ∧ (s.sh.mail.get 0).lastTaken + s.cfg.active.claimIdle * 2 ^ 32 ≤ (tick (10 * 2 ^ 32) s).clk.loom
       ∧ (tick (10 * 2 ^ 32 - 1) s).clk.loom < (s.sh.mail.get 0).lastTaken + s.cfg.active.claimIdle * 2 ^ 32)
      ∧ (up .ready []).Takes (ask []) stRead
      ∧ (let s : State := { up .ready [] with sh := { jobs := [(1, { work := .other, ended := some 0 })] } }
         (findJob 1 s).bind (·.ended) = some 0 ∧ 0 + 60 * 2 ^ 32 ≤ (tick (60 * 2 ^ 32) s).clk.loom
           ∧ (tick (60 * 2 ^ 32 - 1) s).clk.loom < 0 + 60 * 2 ^ 32) := by
  refine ⟨?_, up_takes (by decide) rfl rfl, ?_⟩ <;> decide +kernel

theorem meets_GeneralReadsAnswer :
    (up .config []).Takes (ask (beBytes 4 ((0 + 2 ^ 32 - 1) % 2 ^ 32) ++ beBytes 1 62)) stRead
      ∧ (up .boot []).Takes (ask []) (fun _ => true) ∧ (up .ready []).pendingMove = none
      ∧ ({ up .ready [] with cfg := { staged := [{ change := .move .run, due := 9 }] } } : State).pendingMove ≠ none
      ∧ (let s : State := { up .ready [] with sh := { jobs := [(7, { work := .other })] } }
         findJob 7 s ≠ none ∧ findJob 8 s = none)
      ∧ blockSize 0x0100 = some 66 ∧ (65 : Nat) + 1 ≤ 66 ∧ (up .ready []).sh.work = none
      ∧ ({ up .ready [] with cfg := { copyA := { valid := true } } } : State).cfg.copyA.valid = true := by
  refine ⟨up_takes (by decide) rfl rfl, up_takes (by decide) rfl rfl, ?_⟩
  decide +kernel

/-- A hub in CONFIG whose mailbox 0 edits the factory configuration. -/
def editing : State := { up .config [] with sh := { lock := some 0, work := some { words := [], seq := 0 } } }

theorem meets_EditSessionEdits :
    (up .run []).Takes (ask [3#8]) stStage ∧ (up .run []).hub.role ≠ .standby
      ∧ editing.Takes (ask []) stStage ∧ editing.sh.lock = some 0 ∧ editing.sh.work ≠ none ∧ blockSize 0x0001 = none
      ∧ (let p := beBytes 2 0x0100 ++ beBytes 2 63 ++ beBytes 2 1 ++ zeros 2 ++ beWord 1#32 ++ beWord 1#32
         blockSize 0x0100 = some 66 ∧ p.length = 8 + 8 * 1 ∧ huskAt p 8 = none
           ∧ slice p 0 8 = beBytes 2 0x0100 ++ beBytes 2 63 ++ beBytes 2 1 ++ zeros 2)
      ∧ ({ editing with sh := { lock := some 1 } } : State).sh.lock = some 1 :=
  ⟨up_takes (by decide) rfl rfl, by decide, spi_takes rfl (by decide) rfl (by decide +kernel) rfl rfl rfl rfl, rfl, by decide, by decide +kernel,
    by decide +kernel, rfl⟩

/-- The factory defaults pass the consistency check (R67). -/
theorem test_factory_passes : checkFields [] = none ∧ checkRules [] (fun _ => false) = none ∧ checkResources [] = none := by
  decide +kernel

theorem check_factory (s : State) (h : s.pow.replaced = []) : s.check [] = none := by
  have e : (fun pod => s.pow.replaced.get (pod * 32) != 0) = fun _ => false := by
    funext pod; rw [h]; rfl
  unfold State.check
  rw [e, test_factory_passes.1, test_factory_passes.2.1, test_factory_passes.2.2]; rfl

/-- A hub in CONFIG that edits a configuration in force back to the factory's. -/
def editing2 : State :=
  { up .config [(0, 1, 1#32)] with sh := { lock := some 0, work := some { words := [], seq := 0 } } }

theorem meets_CommitStagesWhatDiffers :
    editing.Takes (ask (huskBytes 1#32)) stStage ∧ ((1#32 &&& 0xFFFFFFF0#32) = 0#32 ∧ bitAt 0#32 0 = false
      ∧ bitAt 1#32 0 = true ∧ bitAt 1#32 1 = false ∧ bitAt 3#32 1 = true ∧ bitAt 9#32 3 = true)
      ∧ (keepLive editing.cfg.force [] = [] ∧ editing.cfg.force.changes [] = [] ∧ editing.commitFail [] [] true = none)
      ∧ (keepLive editing2.cfg.force [] = [] ∧ editing2.cfg.force.changes [] ≠ []
        ∧ editing2.commitFail (editing2.cfg.force.changes []) [] false = none)
      ∧ (let new := keepLive editing.cfg.force (conf [(0, 0, 0x80000000#32)])
         (editing.commitFail (editing.cfg.force.changes new) new false).isSome = true) := by
  refine ⟨spi_takes rfl (by decide) rfl (by decide +kernel) rfl rfl rfl rfl, by decide, ⟨by decide +kernel, by decide +kernel, ?_⟩,
    ⟨by decide +kernel, by decide +kernel, ?_⟩, by decide +kernel⟩
  · have e : editing.commitFail [] [] true = editing.check [] := by rfl
    rw [e, check_factory _ rfl]
  · have e : editing2.cfg.force.changes [] = [(1, 0#32)] := by decide +kernel
    have e2 : editing2.commitFail [(1, 0#32)] [] false = editing2.check [] := by rfl
    rw [e, e2, check_factory _ rfl]

theorem meets_CommitStagesWhatDiffers_standby :
    (let s : State := { editing with hub := { state := .config, role := .standby } }
     s.Takes (ask (huskBytes 1#32)) stStage ∧ s.hub.role = .standby ∧ s.sh.lock = some 0 ∧ s.sh.work ≠ none) :=
  ⟨spi_takes rfl (by decide) rfl (by decide +kernel) rfl rfl rfl rfl, rfl, rfl, nofun⟩

theorem meets_SaveWritesTheOtherSlot :
    editing.Takes (ask []) stStage ∧ (ask []).payload = [] ∧ editing.sh.lock = some 0
      ∧ ({ editing with cfg := { rejected := true } } : State).cfg.rejected = true
      ∧ ({ editing with cfg := { copyA := { valid := true }, inB := true } } : State).cfg.inB = true
      ∧ ({ editing with cfg := { copyA := { valid := true } } } : State).cfg.rejected = false :=
  ⟨spi_takes rfl (by decide) rfl (by decide +kernel) rfl rfl rfl rfl, rfl, rfl, rfl, rfl, rfl⟩

theorem meets_HubStateMoves :
    (up .ready []).Takes (ask []) (· == .ready) ∧ (up .run []).Takes (ask []) (· == .run)
      ∧ (up .service []).Takes (ask []) (· == .service) ∧ (up .fault []).Takes (ask []) (· == .fault)
      ∧ (up .ready []).hub.role ≠ .standby ∧ (up .ready []).pendingMove = none
      ∧ ({ up .ready [] with cfg := { staged := [{ change := .move .run, due := 9 }] } } : State).pendingMove ≠ none
      ∧ (up .ready []).pair.detached = false ∧ (up .ready []).coreCut = false
      ∧ ({ up .ready [] with pair := { detached := true } } : State).pair.detached = true
      ∧ (up .service []).testing = false
      ∧ ({ up .service [] with sh := { jobs := [(1, { work := .pathTest default })] } } : State).testing = true
      ∧ (up .fault []).uncleared = none ∧ ((up .fault [(0, 0, 0x80000000#32)]).check (up .fault [(0, 0, 0x80000000#32)]).cfg.force).isSome = true := by
  refine ⟨up_takes (by decide) rfl rfl, up_takes (by decide) rfl rfl, up_takes (by decide) rfl rfl,
    up_takes (by decide) rfl rfl, ?_⟩
  decide +kernel

theorem meets_HubStateMoves_cleared : (up .fault []).uncleared = none ∧ (up .fault []).check [] = none :=
  ⟨rfl, check_factory _ rfl⟩

/-- A cause of FAULT that has not cleared. -/
theorem meets_HubStateMoves_uncleared :
    ({ up .fault [] with hub := { state := .fault, causes := [.domainLost 1] }, pow := State.reset.pow } : State).uncleared.isSome = true := by
  decide +kernel

theorem meets_HubStateMoves_logged : (up .run []).hub.state ≠ .fault ∧ (up .run []).hub.state = .run
    ∧ ((up .safe []).hub.state = .safe ∧ HubState.ready ≠ .boot) := by decide

theorem meets_RestartAndCancel :
    (up .boot []).Takes (ask (beBytes 1 2)) (fun _ => true) ∧ (2 : Nat) < 256
      ∧ (let s : State := { up .run [] with hub := { state := .run, restart := some (0, 0) } }
         s.hub.restart = some (0, 0) ∧ 0 + usLoom 1000 ≤ (tick (usLoom 1000) s).clk.loom ∧ s.hub.state ≠ .safe)
      ∧ (up .run []).hub.restart = none ∧ (up .run []).Takes (ask (beBytes 2 7)) stRead
      ∧ (let s : State := { up .run [] with sh := { jobs := [(7, { work := .other, ended := some 3 })] } }
         findJob 7 s = some { work := .other, ended := some 3 })
      ∧ (let s : State := { up .run [] with sh := { jobs := [(7, { work := .syncReset 5 })] }, warp := { resetTold := true } }
         findJob 7 s = some { work := .syncReset 5 } ∧ s.warp.resetTold = true) := by
  refine ⟨up_takes (by decide) rfl rfl, by decide, by decide +kernel, rfl, up_takes (by decide) rfl rfl, by decide +kernel,
    by decide +kernel⟩

/-- A configuration whose channel 0 is on, fed by source 0 and watched by the lead watch; source 0 swaps with source
1. -/
def slot0 : List (Nat × Nat × Word) := [(0x0100, 40, 0x88000000#32), (0x0100, 56, 0xA4000064#32), (0x0100, 57, 0xA0000064#32)]

theorem meets_HeddleReadsAnswer : (up .ready []).Takes (ask (beBytes 1 15 ++ zeros 1)) stRead ∧ (up .ready []).podCut 15 = false
    ∧ State.podCut { up .ready [] with pow := State.reset.pow } 15 = true := by
  refine ⟨up_takes (by decide) rfl rfl, ?_⟩
  decide +kernel

theorem meets_OverrangeMarksAndRecovers :
    (up .run slot0).running = true ∧ (up .run slot0).podOn 15 = true ∧ ovrGoesOn ((up .run slot0).hed.ovr.get 255) 5 = none
      ∧ (up .config slot0).running = false ∧ ovrOpen ((up .run slot0).hed.ovr.get 0) = false
      ∧ ({ up .run [] with pow := State.reset.pow } : State).podOn 15 = false
      ∧ (let p : OvrSpan := { onset := 1, ended := none, positive := true }
         let s : State := { up .run slot0 with hed := { ovr := [(0, { spans := [p], level := true })] } }
         (s.hed.ovr.get 0).spans = [p] ∧ ovrGoesOn (s.hed.ovr.get 0) 5 = some p)
      ∧ (let p : OvrSpan := { onset := 1, ended := some 5, positive := true }
         ovrGoesOn { spans := [p] } 5 = some p ∧ ovrGoesOn { spans := [p] } 6 = none) := by decide +kernel

theorem meets_OvervoltageDisconnectsDrivers :
    (up .run []).thr 15 39 = {} ∧ ((up .run []).thr 15 39).tripped = false
      ∧ (let s : State := { up .run [] with hed := { threads := [(639, { tripped := true })] } }
         (s.thr 15 39).tripped = true)
      ∧ (let s : State := { up .run [] with hed := { threads := [(639, { disconnected := true, cleared := 5 })] } }
         (s.thr 15 39).disconnected = true ∧ (s.thr 15 39).tripped = false
           ∧ (s.thr 15 39).cleared + usSpan 1000 ≤ (tick (5 + usSpan 1000) s).clk.loom
           ∧ (tick (4 + usSpan 1000) s).clk.loom < (s.thr 15 39).cleared + usSpan 1000) := by decide +kernel

/-- A hub that runs with channel 0, whose detectors are in a given state. -/
def withLead (l : Lead) : State := { up .run slot0 with hed := { leads := [(0, l)] } }

/-- A hub that runs with channel 0 under its settings, each kind of word expected with slot counter 65535. -/
def running0 : State :=
  { up .run slot0 with filt := { chans := [(0, { set := some ((conf slot0).pathSet 0), cicSlot := some 65535 })] } }

theorem meets_LeadDetectorsChangeState :
    (up .run slot0).cfg.active.watched 0 1 = true ∧ (up .run slot0).running = true
      ∧ (up .run [(0x0100, 40, 0x80002000#32)]).cfg.active.watched 0 2 = true
      ∧ (up .run slot0).cfg.active.watched 1 1 = false ∧ ((up .run slot0).lead 0 1).state = 0
      ∧ (let s : State := { up .run slot0 with hed := { leads := [(1, { state := 1, since := 5 })] } }
         (s.lead 0 1).state = 1 ∧ (s.lead 0 1).wasConfirmed = false
           ∧ (s.lead 0 1).since + usSpan 160 ≤ (tick (5 + usSpan 160) s).clk.loom
           ∧ (tick (4 + usSpan 160) s).clk.loom < (s.lead 0 1).since + usSpan 160)
      ∧ (let s : State := { up .run slot0 with hed := { leads := [(1, { state := 2, wasConfirmed := true, since := 5 })] } }
         (s.lead 0 1).wasConfirmed = true ∧ (s.lead 0 1).since + usSpan 1280 ≤ (tick (5 + usSpan 1280) s).clk.loom
           ∧ (tick (4 + usSpan 1280) s).clk.loom < (s.lead 0 1).since + usSpan 1280)
      ∧ ((running0.chan 0).set).isSome = true := by decide +kernel

theorem meets_LeadWatchComputesLoopResistance :
    (let s := withLead { state := 1, overRow := 2, lastMean := some (25595904, 100000000) }
     let c := clockFrom (fineOf (tick (2 ^ 32) s).clk.loom)
     s.cfg.active.watched 0 0 = true ∧ s.rolesOn 0 = true ∧ s.underTest 0 = false ∧ s.clk.epoch ≤ c
       ∧ (c - s.clk.epoch) % 4096 = 0 ∧ (s.lead 0 0).lastMean = some (c - 4096, 100000000) ∧ 4096 ≤ c
       ∧ s.ovrIn 0 (c - 4096) c = false ∧ (c - s.clk.epoch) / 4096 % 2 = 0
       ∧ (let w := s.cfg.active.word 0x0100 63
          fld w 15 0 * 100 * (200 * fld w 23 16) < ((100000000 : Int) - 0).toNat))
      ∧ ((withLead { state := 3, underRow := 7, lastMean := some (25595904, 0) }).lead 0 0).underRow = 7
      ∧ ((withLead {}).lead 0 0).lastMean = none ∧ (up .ready []).cfg.active.watched 0 0 = false := by decide +kernel

theorem meets_ExchangeSetsThePhase :
    (let s := up .run slot0
     let c := clockFrom (fineOf (tick (2 ^ 32) s).clk.loom)
     ixEn (s.cfg.active.ix 0 0) = true ∧ ixSwap (s.cfg.active.ix 0 0) = true ∧ ixPartner (s.cfg.active.ix 0 0) = 1
       ∧ (tick (2 ^ 32) s).drivesIx = true ∧ s.podOn 0 = true ∧ s.clk.epoch ≤ c
       ∧ (c - s.clk.epoch) % (12800 * 2 ^ ixTh (s.cfg.active.ix 0 0)) = 0)
      ∧ ixEn ((up .run []).cfg.active.ix 0 0) = false ∧ ixReverse 0xC0000000#32 = true := by
  decide +kernel

theorem meets_ConversionReadsAnswer : (up .ready []).Takes (ask (beBytes 1 15 ++ zeros 1)) stRead
    ∧ (up .ready []).podCut 15 = false ∧ (ask []).payload = [] := by
  refine ⟨up_takes (by decide) rfl rfl, ?_⟩
  decide +kernel

theorem meets_SpotsQueueAtTheConverter :
    (up .ready []).Takes (ask (beBytes 1 7 ++ beBytes 1 0 ++ beBytes 1 15 ++ beBytes 1 39)) stRead
      ∧ (up .ready []).podCut 15 = false ∧ (up .ready []).busClaimed 7 = false ∧ (15 : Nat) / 2 = 7
      ∧ ((up .ready []).conv.scs.get 7).spots 0 < 4
      ∧ (let q : ScRequest := { cls := 2, ready := 0, what := .other }
         4 ≤ (({ up .ready [] with conv := { scs := [(7, { queue := [q, q, q, q] })] } } : State).conv.scs.get 7).spots 0)
      ∧ (up .ready []).freeBus = some 0 := by
  refine ⟨up_takes (by decide) rfl rfl, ?_⟩
  decide +kernel

theorem meets_ConvertersGrantTheLowestClass :
    (let q : ScRequest := { cls := 2, ready := 0, what := .other }
     let s : State := { up .ready [] with conv := { scs := [(7, { queue := [q, { q with cls := 1 }] })] } }
     (s.conv.scs.get 7).running = none ∧ (s.conv.scs.get 7).queue ≠ [] ∧ (s.conv.scs.get 6).queue = []
       ∧ (∀ x ∈ (s.conv.scs.get 7).queue, x.tap ≠ 1)
       ∧ (({ s with conv := { scs := [(7, { running := some (q, 0) })] } } : State).conv.scs.get 7).running ≠ none)
      ∧ (let r : ScRequest := { cls := 2, ready := 0, what := .spot {} 0 15 39, tap := 1 }
         let s : State := { up .ready [] with conv := { scs := [(7, { queue := [r, { r with cls := 5, tap := 2 }] })] } }
         pickRequest ((s.conv.scs.get 7).queue.filter fun x => x.tap == 1) = some r ∧ requestThread s 7 r = some (15, 39)
           ∧ ∀ x ∈ (s.conv.scs.get 7).queue, x.tap = 2 → r.cls < x.cls) := by
  decide +kernel

/-- A converter 7 that runs a request since an instant. -/
def converting (q : ScRequest) : State :=
  { claimed .ready { claim := some .spi, busy := true } with conv := { scs := [(7, { running := some (q, 5) })] } }

theorem meets_ScanConversionsDeliver :
    ((up .ready []).conv.scs.get 7).running = none
      ∧ (converting default).podOn (2 * 7) = true ∧ 5 + convLoom ≤ (tick (5 + convLoom) (converting default)).clk.loom
      ∧ ¬ 5 + convLoom ≤ (tick (4 + convLoom) (converting default)).clk.loom
      ∧ ((converting { cls := 1, ready := 0, what := .other }).conv.scs.get 7).running
        = some ({ cls := 1, ready := 0, what := .other }, 5)
      ∧ ((converting { cls := 4, ready := 0, what := .other, a := 30 }).conv.scs.get 7).running
        = some ({ cls := 4, ready := 0, what := .other, a := 30 }, 5)
      ∧ ((converting { cls := 5, ready := 0, what := .other, a := 7, b := 15 }).conv.scs.get 7).running
        = some ({ cls := 5, ready := 0, what := .other, a := 7, b := 15 }, 5)
      ∧ (let r : ScRequest := { cls := 2, ready := 0, what := .spot {} 0 15 39 }
         ((converting r).conv.scs.get 7).running = some (r, 5) ∧ ((converting r).sh.mail.get 0).busy = true
           ∧ (((converting r).sh.mail.get 0).claim = some .spi ∧ ((converting r).sh.mail.get 0).alive = ({} : Req).alive
             ∧ ((converting r).sh.mail.get 0).seq = ({} : Req).seq)) := by decide +kernel

/-- The simultaneous group of converter 0, and scan list 7 on converter 0 with two entries. -/
def scans : List (Nat × Nat × Word) := [(0x0201, 16, 0x80010000#32), (0x0201, 136, 0x80200000#32)]

theorem meets_TriggersAndPassesStart :
    (let s : State := { up .run scans with conv := { simDue := 1 } }
     bitAt (s.cfg.active.word 0x0201 16) 31 = true ∧ fld (s.cfg.active.word 0x0201 16) 3 0 = 0
       ∧ bitsOf 8 (fld (s.cfg.active.word 0x0201 16) 23 16) = [0] ∧ s.running = true ∧ s.conv.simDue ≠ 0
       ∧ (s.conv.scs.get 0).held = none
       ∧ (({ s with conv := { simDue := 1, scs := [(0, { held := some 1 })] } } : State).conv.scs.get 0).held ≠ none
       ∧ bitAt (s.cfg.active.word 0x0201 (17 + 17 * 7)) 31 = true ∧ s.conv.passLeft.get 7 = 0
       ∧ passDue (s.conv.passAt.get 7).1 (fld (s.cfg.active.word 0x0201 (17 + 17 * 7)) 19 0) (s.conv.passAt.get 7).2
         ≤ (tick 0 s).clk.loom
       ∧ (({ s with conv := { passLeft := [(7, 1)] } } : State).conv.passLeft.get 7) ≠ 0)
      ∧ (up .run []).conv.simDue = 0 ∧ (up .config []).running = false
      ∧ bitAt ((up .run []).cfg.active.word 0x0201 136) 31 = false := by
  decide +kernel

theorem meets_GridInstantsFollowTheCycle : (0 : Nat) < 2 ∧ (0 : Nat) < 400000 ∧ 400000 ≤ 2 * 2 ^ 32 ∧ 399999 < 400000 := by
  decide

theorem meets_FilterReadsAnswer :
    (up .ready []).Takes (ask (beBytes 2 255)) stRead
      ∧ ((up .ready []).chan 255).recovery = none ∧ bitAt (up .ready []).cfg.force.mains 31 = false
      ∧ (let s := up .ready [(0x0301, 4, 0x800A0000#32)]
         bitAt s.cfg.force.mains 31 = true ∧ s.filt.mains.lastValid = none)
      ∧ (let p := beBytes 1 4 ++ zeros 1 ++ beBytes 2 255 ++ beBytes 2 9 ++ beBytes 2 1
         p.length = 8 ∧ 9 + 1 ≤ (10 : Nat))
      ∧ (up .ready []).cfg.force.groupEn 0 = true ∧ (up .ready []).cfg.force.groupEn 7 = false := by
  refine ⟨up_takes (by decide) rfl rfl, ?_⟩
  decide +kernel

theorem meets_ReedSwapWaitsForFades :
    (up .run slot0).Takes (ask (beBytes 1 3 ++ zeros 1)) stStage ∧ (up .run slot0).sh.lock = none
      ∧ (up .run slot0).swapPending 3 = false ∧ (up .run slot0).fading 0 = false ∧ (up .run slot0).jobsRunning < 16
      ∧ (let s : State := { up .run slot0 with filt := { chans := [(0, { recovery := some { tRS := 0, tCS := 0, tSync := none, fade := 1, force := false, len := 4 } })] } }
         s.fading 0 = true)
      ∧ (let s : State := { up .run slot0 with filt := { deferred := [(3, 1)] } }
         s.filt.deferred.any (·.1 == 3) = true ∧ s.cfg.staged = [] ∧ s.swapPending 3 = true
           ∧ s.lastFade 3 ≤ (tick 0 s).clk.loom)
      ∧ (let s : State := { up .run slot0 with filt := { chans := [(192, { fadeAt := 9 })], deferred := [(3, 1)] } }
         (tick 8 s).clk.loom < s.lastFade 3) := by
  refine ⟨up_takes (by decide) rfl rfl, ?_⟩
  decide +kernel

theorem meets_MainsTrackingIsLost :
    (let s : State := { up .run [] with filt := { mains := { lastValid := some 4 } } }
     s.filt.mains.lastValid = some 4 ∧ 4 + usLoom 100000 ≤ (tick (4 + usLoom 100000) s).clk.loom
       ∧ (tick (3 + usLoom 100000) s).clk.loom < 4 + usLoom 100000) := by decide +kernel

theorem meets_PlyLinksFillWhatIsLost :
    ((up .run []).chan 0).set = none ∧ ((running0.chan 0).set).isSome = true ∧ running0.running = true
      ∧ running0.dieUp (dieOf 0) = true ∧ running0.plyHolds (dieOf 0) = false ∧ (running0.chan 0).onReed = false
      ∧ ({ running0.chan 0 with testFrom := some 0 } : Chan).onReed = true
      ∧ (running0.chan 0).cicSlot = some 65535 ∧ (running0.chan 0).gaps = []
      ∧ ({ running0 with itg := { crossings := [(3, { holds := true })] } } : State).plyHolds 3 = true
      ∧ running0.domOn (4 + 3) = true ∧ ({ running0 with pow := State.reset.pow } : State).domOn (4 + 3) = false := by
  decide +kernel

theorem meets_OutputSamplesCarryTheirFlags :
    (tick (2 ^ 32) running0).sampleDue 0 0 = true ∧ running0.sampleDue 0 0 = false ∧ (running0.chan 0).tests = []
      ∧ (running0.chan 0).lostAt 0 ((fineOf 0 : Int) - fineOf ((running0.cfgAt 0).phase 0) + (running0.chan 0).shift 0) = false
      ∧ ({ running0.chan 0 with gaps := [(0, none)] } : Chan).lostAt 0
        ((fineOf 0 : Int) - fineOf ((running0.cfgAt 0).phase 0) + (running0.chan 0).shift 0) = true
      ∧ ovrSpan { spans := [{ onset := 0, ended := none, positive := true }] } 0 none 0
        = some { onset := 0, ended := none, positive := true }
      ∧ (withLead { state := 1, spans := [(0, none)] }).leadAt 0 0 = true := by decide +kernel

theorem meets_TimeAndCalibrationReadsAnswer :
    (up .ready []).Takes (ask []) stRead ∧ (up .ready []).cfg.active.isRoot = true
      ∧ (up .ready [(0x0500, 0, 0#32)]).cfg.active.isRoot = false ∧ curveListed 0 = true ∧ setNeeded 0 = none
      ∧ (up .ready []).cfg.force.setKind 0 = 0 ∧ (0xFF00 : Nat) + 16 * 15 + 9 < 2 ^ 16 ∧ (255 : Nat) / 16 = 15 := by
  refine ⟨up_takes (by decide) rfl rfl, ?_⟩
  decide +kernel

/-- Warp port 0 runs. -/
def port0 : List (Nat × Nat × Word) := [(0x0500, 1, 0x80000000#32)]

/-- A hub whose Warp port 1 is up. -/
def warped (p : WPort) : State := { up .run [] with warp := { ports := [(1, { p with state := 3 })], lock := .locked } }

/-- An event that comes over the Warp. -/
def ev0 : WarpEv := { typ := 2, origin := 5, stamp := 9, code := 7, link := 255 }

theorem meets_WarpEventsCross :
    (up .run []).Takes (ask (beBytes 1 255 ++ zeros 1)) stLive ∧ (up .run []).hub.role ≠ .standby
      ∧ ({ up .run [] with warp := { origin := [ev0] } } : State).warp.origin = [ev0]
      ∧ (let s : State := { up .run [] with warp := { origin := [ev0], lastOrigin := some 3 } }
         3 + usLoom 100 ≤ (tick (3 + usLoom 100) s).clk.loom ∧ (tick 3 s).clk.loom < 3 + usLoom 100)
      ∧ (warped { queue := [ev0] }).wup 1 = true ∧ ((warped { queue := [ev0] }).warp.ports.get 1).queue = [ev0]
      ∧ (warped {}).warp.lock = .locked ∧ (up .run []).wup 1 = false
      ∧ ((ev0.link : Int) - ((warped { rxNext := 255 }).warp.ports.get 1).rxNext) % 256 = 0
      ∧ ((ev0.link : Int) - ((warped { rxNext := 128 }).warp.ports.get 1).rxNext) % 256 = 127
      ∧ ((ev0.link : Int) - ((warped { rxNext := 127 }).warp.ports.get 1).rxNext) % 256 = 128
      ∧ ((warped { asked := true, ahead := some 255 }).warp.ports.get 1).asked = true
      ∧ ((warped { asked := true, ahead := some 255 }).warp.ports.get 1).ahead = some ev0.link
      ∧ ([] : Bytes).length ≠ 16 ∧ (warped {}).warp.toTreadle = [] ∧ ((warped {}).itg.crossings.get 4).holds = false
      ∧ (({ warped {} with trd := { seqs := [(3, { armed := true })] } } : State).trd.seqs.get 3).armed = true
      ∧ (tick 0 (warped {})).clk.loom + usLoom 20 ≤ ({ ev0 with typ := 3, stamp := usLoom 20 } : WarpEv).stamp := by
  refine ⟨up_takes (by decide) rfl rfl, ?_⟩
  decide +kernel

/-- A frame of n bytes with a type at byte 1 and a CRC-32C over the bytes after the first. -/
def frameOf (typ n : Nat) : Bytes :=
  let b := beBytes 1 typ ++ zeros (n - 6)
  [0xBC#8] ++ b ++ beWord (crc32c b)

theorem meets_TimeFramesCarryTime :
    (warped {}).wup 1 = true ∧ (warped {}).warp.lock = .locked ∧ (warped {}).wup 0 = false
      ∧ (let s : State := { up .run port0 with warp := { ports := [(0, { state := 3, reqSent := [(0, 7)] })] } }
         s.wup 0 = true ∧ (s.warp.ports.get 0).reqSent.lookup 0 = some 7
           ∧ (s.warp.ports.get 0).reqSent.lookup 1 = none)
      ∧ (let f := frameOf 2 32
         f.length = 32 ∧ (crc32c (slice f 1 27)).toNat = beAt f 28 4 ∧ beAt f 1 1 = 2 ∧ beAt f 3 1 = (up .run []).cfg.active.domain)
      ∧ (let f := frameOf 1 64
         f.length = 64 ∧ (crc32c (slice f 1 59)).toNat = beAt f 60 4 ∧ beAt f 1 1 = 1 ∧ beAt f 3 1 = (up .run []).cfg.active.domain)
      ∧ (let f := frameOf 2 32
         beAt f 3 1 ≠ (up .run [(0x0500, 0, 1#32)]).cfg.active.domain)
      ∧ beAt (frameOf 1 64) 4 2 / 1024 < 32 ∧ ((up .run []).warp.ports.get 0).delay.getD 0 ≤ 10000000
      ∧ (up .run []).cfg.active.wportEn 1 = true ∧ ([] : Bytes).length ≠ 32 ∧ (up .run []).hub.inReset = false := by
  decide +kernel

theorem meets_LockStatesAndResets :
    (let s : State := { up .run [(0x0500, 0, 0x40000000#32)] with warp := { ports := [(0, { state := 1, downSince := some 3 })] } }
     (s.warp.ports.get 0).downSince = some 3 ∧ s.warp.lost = false ∧ s.wstate 0 ≠ 3
       ∧ 3 + usLoom 10 ≤ (tick (3 + usLoom 10) s).clk.loom ∧ s.cfg.active.timeSrc = 2)
      ∧ (let s : State := { up .run port0 with warp := { ports := [(0, { state := 3, frames := 16 })], lost := true } }
         s.warp.lost = true ∧ s.wup 0 = true ∧ 16 ≤ (s.warp.ports.get 0).frames)
      ∧ (let s : State := { up .run [(0x0500, 0, 0xA0000000#32), (0x0A00, 0, 0x890005DC#32)] with
            weft := { ports := [(0, { link := true, announce := some default })] } }
         s.ptpBest = some 0)
      ∧ (up .run []).cfg.active.isRoot = true ∧ (up .run []).cfg.active.timeSrc = 0
      ∧ (up .run []).timePending = false ∧ ({ up .run [] with warp := { reset := some 1 } } : State).timePending = true
      ∧ (tick 0 (up .run [])).clk.loom + usLoom 2000 ≤ usLoom 2000 ∧ (up .run []).jobsRunning < 16
      ∧ roundEven (1000000000 * 3125) (2 ^ 19) ≠ 0
      ∧ (let s : State := { up .run slot0 with warp := { reset := some 3 } }
         s.warp.reset = some 3 ∧ 3 ≤ (tick 3 s).clk.loom ∧ (tick 2 s).clk.loom < 3)
      ∧ (let s : State := { up .run slot0 with warp := { catchUp := some 3, parentEpoch := some 1 } }
         s.warp.catchUp = some 3 ∧ s.warp.parentEpoch = some 1 ∧ 3 ≤ (tick 3 s).clk.loom)
      ∧ (let s : State := { up .run [] with warp := { step := some (3, 5) } }
         s.warp.step = some (3, 5) ∧ 3 ≤ (tick 3 s).clk.loom ∧ (tick 2 s).clk.loom < 3 ∧ s.hub.inReset = false)
      ∧ (let s : State := { up .run slot0 with warp := { bootReset := some 3 } }
         s.warp.reset = none ∧ s.warp.bootReset = some 3 ∧ 3 ≤ (tick 3 s).clk.loom ∧ (tick 2 s).clk.loom < 3)
      ∧ (up .run []).warp.catchUp = none := by decide +kernel

theorem meets_LockStatesAndResets_takes : (up .run []).Takes (ask (beBytes 8 (usLoom 2000))) stLive
    ∧ (up .ready []).Takes (ask (beSigned 8 (-5))) stLive := ⟨up_takes (by decide) rfl rfl, up_takes (by decide) rfl rfl⟩

theorem meets_BoundariesApplyStagedChanges :
    (let s : State := { up .ready [] with cfg := { staged := [{ change := .move .run, due := 1, cmd := 0x0021 }] } }
     s.hub.inReset = false ∧ s.clk.boundary < beatTime (beatAt (tick (2 ^ 32) s).clk.loom)
       ∧ 1 ≤ beatAt (tick (2 ^ 32) s).clk.loom ∧ s.takesMove .run 0x0021 = true
       ∧ beatTime (beatAt (tick 0 s).clk.loom) ≤ s.clk.boundary ∧ stagedSwaps s.cfg.staged = [])
      ∧ (let s : State := { up .ready [] with cfg := { staged := [{ change := .words [(1, 1#32)], due := 1000 }] } }
         beatAt (tick (2 ^ 31) s).clk.loom < 1000) := by decide +kernel

/-- A hub in SERVICE with one job. -/
def working (w : JobWork) : State := { up .service slot0 with sh := { jobs := [(7, { work := w })] } }

/-- A path test of slot 0 through its one level. -/
def tested : PathTest := { pod := 0, mask := 1, samples := 2, levels := [0], bus := 0, level := 1 }

theorem meets_TestsRunAsJobs :
    (up .run []).Takes (ask (beBytes 2 255 ++ beBytes 2 16)) stLive
      ∧ (up .service []).Takes (ask (beBytes 1 15 ++ beBytes 1 0 ++ beBytes 2 1 ++ beBytes 2 1024 ++ zeros 2)) (· == .service)
      ∧ inputKind (conf [(0x0600, 255, 0x80000000#32)]) ((conf [(0x0600, 255, 0x80000000#32)]).curve 255) 0 = 2
      ∧ inputKind [] 0 0 ≠ 2 ∧ (up .run []).jobsRunning < 16
      ∧ (working (.bridgeZero 0 16 10 6 0)).jobWork 7 = some (.bridgeZero 0 16 10 6 0)
      ∧ (16 : Nat) ≤ 10 + 6 ∧ (2 * 7 : Nat) < 16 ∧ (up .service []).podCut 15 = false
      ∧ (maskChans 15 1).any (up .service []).underTest = false
      ∧ (maskChans 0 1).any (working (.pathTest { tested with level := 0 })).underTest = true
      ∧ (up .service []).reedFits 3 (maskChans 15 1) = true ∧ (up .service []).freeBus = some 0
      ∧ (working (.pathTest tested)).jobWork 7 = some (.pathTest tested) ∧ tested.levels.length ≤ tested.level
      ∧ (working (.pathTest tested)).recovered (maskChans tested.pod tested.mask) = true
      ∧ ({ tested with level := 0 } : PathTest).level < tested.levels.length ∧ (up .run []).jobWork 7 = none := by
  refine ⟨up_takes (by decide) rfl rfl, up_takes (by decide) rfl rfl, ?_⟩
  decide +kernel

/-- A calibration run of slot 0 whose samples are all in. -/
def calRun0 : CalRun :=
  { kind := 1, pod := 0, mask := 1, range := 0xFF, anchor := 0, source := 0, count := 4096, half := 32, bus := 8
    returned := true }

theorem meets_CalibrationRunsAndCommits :
    (up .service slot0).Takes (ask []) (· == .service) ∧ (up .ready []).Takes (ask []) stReadyService
      ∧ (let m := (up .service slot0).cfg.active
         runChans 1 0 1 0 = [0] ∧ 2 * settleS m 0 ≤ 4096 ∧ 16 ≤ 131072 / (2 * 4096) * 2 ∧ ¬ 16 ≤ 4096 / (2 * 4096) * 2
           ∧ (∀ d, d < 4 → (up .service slot0).reedFits d [0] = true) ∧ (up .service slot0).liveJobs = [])
      ∧ runConflict 1 0 1 0 (.calRun { calRun0 with kind := 2 }) = true
      ∧ (working (.calRun calRun0)).jobWork 7 = some (.calRun calRun0) ∧ calRun0.returned = true ∧ calRun0.judged = [0]
      ∧ (working (.calRun calRun0)).recovered calRun0.chans = true ∧ ({ calRun0 with returned := false } : CalRun).returned = false
      ∧ (up .ready []).pendingMove = none ∧ (up .ready []).calStaged = false ∧ (up .ready []).pendingPods = []
      ∧ ({ up .ready [] with cal := { pending := [(15, [default])] } } : State).pendingPods = [15]
      ∧ ({ up .ready [] with cfg := { staged := [{ change := .calSet [0], due := 9 }] } } : State).calStaged = true := by
  refine ⟨up_takes (by decide) rfl rfl, up_takes (by decide) rfl rfl, ?_⟩
  decide +kernel

theorem meets_EngineReadsAnswer :
    (up .ready []).Takes (ask (beBytes 1 15 ++ zeros 1)) stRead ∧ (up .ready []).Takes (ask (beBytes 2 16)) stRead
      ∧ flowOk 16 = false ∧ flowOk 15 = true ∧ (up .ready []).weft.notices.length ≤ 1024
      ∧ (({ up .ready [] with drv := { stims := [(15, { state := 2, compliance := true })] } } : State).drv.stims.get 15).state ≠ 0
      ∧ (({ up .ready [] with weft := { ports := [(1, { announce := some default })] } } : State).weft.ports.get 1).announce
        = some default := ⟨up_takes (by decide) rfl rfl, up_takes (by decide) rfl rfl, by decide +kernel⟩

/-- A hub that runs with every domain off. -/
def unpowered : State := { up .run [] with pow := {} }

theorem meets_SystemReadsAnswer :
    (up .ready []).Takes (ask (beBytes 1 1 ++ zeros 1)) stRead ∧ (up .ready []).Takes (ask (beBytes 1 2 ++ zeros 1)) stRead
      ∧ (({ up .ready [] with pow := { worn := [⟨2, 0xFF, 71, 0⟩] } } : State).pow.worn[0]?) = some ⟨2, 0xFF, 71, 0⟩
      ∧ (beBytes 1 7 ++ beBytes 1 3 ++ beBytes 2 1 ++ [0#8]).length = 5
      ∧ (up .ready []).domOn 1 = true ∧ unpowered.domOn 1 = false :=
  ⟨up_takes (by decide) rfl rfl, up_takes (by decide) rfl rfl, by decide +kernel⟩

/-- Sequencer 3 with one transition of state 0 that triggers bobbin 7, which has one record slot and AUTO after 1 ms.
-/
def armed3 : List (Nat × Nat × Word) :=
  [(0x0804, 17, 0x80000000#32), (0x0804, 18, 0xF0000000#32), (0x0817, 0, 0x80000001#32), (0x0817, 3, 1#32),
   (0x0805, 15, 0x80000000#32)]

/-- A hub that runs with it, armed, and bobbin 7 as given. -/
def catching (b : Bobbin) : State := { up .run armed3 with trd := { seqs := [(3, { armed := true })], bobs := [(7, b)] } }

theorem meets_TreadleActs :
    (up .run []).Takes (ask (beBytes 1 15 ++ zeros 1)) stRun ∧ (up .run []).hub.role ≠ .standby
      ∧ (catching {}).cfg.active.feeds 3 7 = true ∧ (catching {}).cfg.active.bobEn 7 = true
      ∧ (catching {}).armedFeeds 7 = true ∧ (up .run []).armedFeeds 7 = false
      ∧ (let m := (catching {}).cfg.active
         ((catching {}).trd.bobs.get 7).inRearm (m.gridAt (m.bobGroup 7) 0) = false ∧ (catching {}).freeSlots m 7 = 1
           ∧ (({ rearm := [(0, 2 ^ 40)] } : Bobbin).inRearm 5 = true)
           ∧ tioEn (m.tio 15) = true ∧ tioEn (m.tio 14) = false ∧ tioInv (m.tio 15) = false
           ∧ (m.bob 7 3).toNat = 1 ∧ ((catching { running := true }).trd.bobs.get 7).autoAt 1 = 4294968
           ∧ ((catching { running := true }).trd.bobs.get 7).autoAt 1 ≤ (tick (2 ^ 32) (catching { running := true })).clk.loom
           ∧ m.onGrid (m.clkGroup 3) 0 = true ∧ 0 + m.seqLS 3 ≤ (tick (2 ^ 32) (catching {})).clk.loom
           ∧ ((catching {}).trd.seqs.get 3).armed = true ∧ ((catching {}).trd.seqs.get 3).armedAt ≤ 0
           ∧ ((catching {}).trd.seqs.get 3).last = none ∧ (up .run []).hub.state = .run
           ∧ ((up .run []).trd.seqs.get 3).armed = false)
      ∧ (let s : State := { up .run armed3 with trd := { tios := [(15, { since := some 4 })] } }
         (s.trd.tios.get 15).since = some 4 ∧ 4 + nsLoom (fld (s.cfg.active.tio 15) 15 0 * 20) ≤ 2 ^ 32) := by
  refine ⟨up_takes (by decide) rfl rfl, ?_⟩
  decide +kernel

/-- The transition of state 0 is true, or is not where its sense is inverted. -/
theorem meets_TreadleActs_true :
    (let s := catching {}
     let x := (s.trd.seqs.get 3).absorb 0
     s.trueTrans s.cfg.active { q := 3, inst := 0, prev := x.last, seq := x, used := [] } = [0]
       ∧ s.trueTrans (conf [(0x0804, 17, 0x88000000#32)]) { q := 3, inst := 0, prev := x.last, seq := x, used := [] } = []) := by
  decide +kernel

/-- A record of bobbin 7 that is not complete. -/
def record0 : Record :=
  { number := 2, slot := 0, trigger := 0, cause := 0, seqr := 3, own := 3, flags := 0, byte10 := 0, byte11 := 0, coin := 0, origin := 0, code := 0
    cycle := 1, count := 1024, n0 := 0, nT := 0, n1 := 0, words := [], compress := false, missed := 0, full := 0, beat := 0
    samples := [], complete := false, unacked := [] }

theorem meets_TreadleActs_record :
    (let s := catching { records := [record0] }
     (s.trd.bobs.get 7).records.find? (fun r => !r.complete) = some record0
       ∧ s.formedAll (s.cfgAt (record0.inst record0.n1)) record0.chans (record0.inst record0.n1) = true
       ∧ s.freeSlots s.cfg.active 7 = 0) := by decide +kernel

/-- A hub of a pair in a state and role, with its part of the pair as given. -/
def paired (h : HubState) (r : Role) (p : Pair) : State :=
  { up h [(0, 0, 5#32), (0x0D00, 0, 0xC0028001#32)] with hub := { state := h, role := r }, pair := p }

/-- Driver 15 on, with slot 3 of a fixed level; output 15 plays table 15, which is enabled. -/
def driven : List (Nat × Nat × Word) :=
  [(0x0900, 210, 0x80000000#32), (0x0900, 221, 0#32), (0x0901, 90, 0x47C00000#32), (0x0902, 45, 0x80000400#32),
   (0x010F, 64, 0x80000000#32)]

/-- Output 15 plays table 15 in MODE 2. -/
def captured : List (Nat × Nat × Word) :=
  [(0x0901, 90, 0x87C00000#32), (0x0902, 45, 0x80000400#32), (0x010F, 64, 0x80000000#32)]

theorem meets_DriversAndStimulus :
    (up .run driven).Takes (ask (beBytes 1 15 ++ beBytes 1 3 ++ zeros 2 ++ huskBytes 5#32)) stLive
      ∧ (up .run driven).Takes (ask (beBytes 2 0x8000 ++ zeros 2 ++ beBytes 8 (usLoom 2000))) stRun
      ∧ (up .config driven).Takes (ask (beBytes 1 15 ++ beBytes 1 0 ++ zeros 2 ++ beBytes 4 0 ++ [1#8])) stStage
      ∧ (let s := up .run driven
         bitAt (s.cfg.force.loopW 15 0) 31 = true ∧ bitAt (s.cfg.force.loopW 0 0) 31 = false
           ∧ fld (s.cfg.force.loopSlot 15 3 0) 31 30 = 0 ∧ s.podOn 15 = true ∧ stLive s.hub.state = true
           ∧ stimTbl (s.cfg.active.stimW 15 0) = true ∧ stimTable (s.cfg.active.stimW 15 0) = 15
           ∧ stimMode (s.cfg.active.stimW 15 0) = 1 ∧ bitAt (s.cfg.active.word 0x010F 64) 31 = true
           ∧ (s.drv.tables.get 15).points = [] ∧ s.outputPlays 15 = false ∧ s.tableFault 15 0 = none
           ∧ s.tableFault 15 1 = none ∧ 0 + 1 ≤ s.loadLimit 15 0 ∧ s.loadLimit 15 0 = 4096 ∧ 4095 % 4 ≠ 0
           ∧ s.linkUp 3 = true ∧ s.drv.updatedAt = none ∧ s.drv.tickedAt = none ∧ s.domOn 1 = true ∧ s.domOn 2 = true
           ∧ unpowered.domOn 2 = false ∧ s.jobsRunning < 16 ∧ s.stimRuns 15 = true ∧ (unpowered.podOn 15 = false)
           ∧ (up .fault driven).yields = false ∧ (up .fault driven).hub.state = .fault
           ∧ ({ s with drv := { updatedAt := some 0, tickedAt := some 0 } } : State).drv.updatedAt = some (s.lastEvery 2560)
           ∧ s.lastEvery 512 = 0
           ∧ ({ paired .fault .active { linkUp := true, partner := { able := true } } with pow := power } : State).yields = true)
      ∧ (up .run captured).stimRuns 15 = true ∧ stimMode ((up .run captured).cfg.active.stimW 15 0) = 2
      ∧ (up .run captured).cfg.active.stimBuses 15 = [0, 0] ∧ ((up .run captured).conv.scs.get 0).queue = []
      ∧ ((up .run captured).conv.scs.get 0).running.isNone = true
      ∧ ({ up .run captured with conv := { scs := [(0, { queue := [{ cls := 3, ready := 0, what := .other, a := 15 }] })] } } : State).stimRuns 15 = true
      ∧ (({ up .run driven with drv := { tables := [(15, { points := [1#32] })] } } : State).drv.tables.get 15).points ≠ []
      ∧ (({ up .run driven with drv := { stims := [(15, { state := 4, held := 5#64 })] } } : State).stimTarget
          (conf driven) 15 0).isSome = true := by
  refine ⟨up_takes (by decide) rfl rfl, up_takes (by decide) rfl rfl, up_takes (by decide) rfl rfl, ?_⟩
  decide +kernel

/-- Port 1 with PTP, and the port as given, its link up. -/
def ported (h : HPort) : State :=
  { up .run [(0x0A00, 8, 0x8D0005DC#32), (0x0A1F, 0, 0xA0000004#32)] with
    hub := { state := .run, delivering := true }, weft := { ports := [(1, { h with link := true })] } }

/-- A frame that has passed Winnow and is due on port 1. -/
def wframe : WFrame :=
  { flow := 15, seq := 3, sec := 0, first := 0, count := 1, header := [], body := [1#8], sent := [1#8], stage := 2
    compress := false, effort := 0, huff := 0, due := [1], left := true, recordNo := 0, again := [] }

theorem meets_WeftDelivers :
    ((up .run []).weft.ports.get 1).link = false ∧ (up .run []).domOn 3 = true ∧ (ported {}).portUp 1 = true
      ∧ (up .run []).portUp 1 = false ∧ (ported {}).ptpOn 1 = true
      ∧ (let a : Arp := { ip := 5, mac := some 6, learnt := 0, requests := 0, asked := 0 }
         ((ported { arp := [a] }).weft.ports.get 1).arp.find? (fun a => a.ip == 5) = some a
           ∧ a.learnt + secLoom 60 ≤ (tick (secLoom 60) (ported {})).clk.loom)
      ∧ (let a : Arp := { ip := 5, mac := none, learnt := 0, requests := 3, asked := 0 }
         a.asked + secLoom 1 ≤ (tick (secLoom 1) (ported {})).clk.loom ∧ a.requests = 3)
      ∧ bitAt ((ported {}).cfg.active.portW 1 0) 26 = true ∧ bitAt ((ported {}).cfg.active.portW 1 0) 25 = false
      ∧ fld ((ported {}).cfg.active.portW 1 6) 31 24 = 0
      ∧ (ported { announce := some default }).ptpBest = some 1
      ∧ min (diff32 (ported {}).weft.nextNotice ((ported {}).weft.ports.get 1).noticeFrom) (ported {}).weft.notices.length = 0
      ∧ ((ported {}).weft.ports.get 1).busyUntil ≤ 0 ∧ (ported {}).hub.inReset = false
      ∧ (takeFrom ((ported {}).canLeave 1) [.ptp 3 0 0]).isSome = true ∧ ((ported {}).itg.crossings.get 5).holds = false
      ∧ unpowered.domOn 3 = false ∧ (ported { tokensUsed := 4 }).tokenDue 1 ≤ (tick (2 ^ 33) (ported {})).clk.loom
      ∧ crcPasses (zeros 12) = false
      ∧ ({ ported {} with itg := { crossings := [(6, { holds := true })] } } : State).crossHolds 6 = true
      ∧ (ported {}).crossHolds 6 = false ∧ (ported { delayAt := some 0 }).weft.ports.get 1 ≠ (ported {}).weft.ports.get 1
      ∧ (ported { link := true }).portUp 1 = true := by decide +kernel

/-- Port 1 sends notices and multicast streams; one notice and two frames wait, one of them again. -/
def sending : State :=
  let ws : List (Nat × Nat × Word) :=
    [(0x0A00, 8, 0x8D0005DC#32), (0x0A00, 16, 0xE0000001#32), (0x0A00, 17, 9#32), (0x0A1F, 0, 0xA0000004#32),
     (0x0A1F, 1, 0xE0000001#32)]
  { up .run ws with weft := { pool := [wframe, { wframe with seq := 4, due := [], again := [1] }]
                              notices := [⟨1, 0, 0, 0, zeros 12⟩], nextNotice := 1, ports := [(1, { link := true })] } }

theorem meets_WeftDelivers_sends :
    min (diff32 sending.weft.nextNotice (sending.weft.ports.get 1).noticeFrom) sending.weft.notices.length = 1
      ∧ sending.noticePort 1 = true
      ∧ (let may := fun (f : WFrame) =>
          f.stage == 2 && sending.sendsFrame f && sending.hopReady 1 (sending.cfg.active.flowIp f.flow)
         sending.weft.pool.find? (fun f => may f && f.due.contains 1) = some wframe
           ∧ sending.weft.pool.find? (fun f => may f && f.again.contains 1)
             = some { wframe with seq := 4, due := [], again := [1] })
      ∧ takeFrom (sending.canLeave 1) ((sending.weft.ports.get 1).tc0) = none := by decide +kernel

theorem meets_WeftDelivers_flows :
    (ported {}).Takes (ask (beBytes 2 15 ++ zeros 2 ++ beBytes 4 3 ++ beBytes 4 3)) stLive
      ∧ (let s : State := { ported {} with weft := { (ported {}).weft with pool := [wframe]
                                                                           streams := [(15, { lastSent := some 3 })] } }
         (s.weft.streams.get 15).lastSent = some 3 ∧ newer32 3 3 = false ∧ newer32 4 3 = true ∧ s.lastSent 15 = some 3
           ∧ s.flowState 15 ≠ 0 ∧ s.weft.pool.filter (fun x => x.flow == 15) = [wframe] ∧ wframe.seq = (3 + 0) % 2 ^ 32)
      ∧ flowOk 16 = false ∧ (up .run []).flowState 15 = 0 ∧ (ported {}).cfg.active.frameSamples 15 = 4 := by
  refine ⟨spi_takes rfl (by decide) rfl (by decide +kernel) rfl rfl rfl rfl, ?_⟩
  decide +kernel

/-- A section whose frame is full. -/
theorem meets_WeftDelivers_close :
    (let s : State := { tick (2 ^ 33) (ported {}) with weft := { (ported {}).weft with
          opened := [(127, { instants := [0, 4194304, 8388608, 12582912] })] } }
     (s.weft.opened.get (15 * 8 + 7)).instants = [0, 4194304, 8388608, 12582912]
       ∧ (s.cfgAt 0).frameSamples 15 = 4
       ∧ (s.frontRun 15 7 4 [0, 4194304, 8388608, 12582912]).1 = [0, 4194304, 8388608, 12582912]
       ∧ s.formedAll (s.cfgAt 0) ((s.cfgAt 0).secChans 15 7) 12582912 = true
       ∧ (List.range 7).all (fun i => ((s.cfgAt 0).secChans 15 i).isEmpty) = true) := by decide +kernel

/-- Winnow encodes a frame, or runs a job. -/
def winnowing (w : Winnow) (j : JobWork) : State :=
  { up .run [(0x0902, 45, 0x80000400#32)] with win := w, weft := { pool := [wframe] }, sh := { jobs := [(7, { work := j })] } }

theorem meets_WinnowEncodesAndDecompresses :
    (let s := winnowing { queue := [(15, 3)] } .other
     s.winnowOn = true ∧ unpowered.winnowOn = false ∧ s.win.current = none ∧ s.win.queue = [(15, 3)])
      ∧ (let s := winnowing { current := some (15, 3, false) } .other
         s.win.current = some (15, 3, false) ∧ s.win.stalled = false ∧ s.win.jobStalled = false
           ∧ s.weft.pool.find? (fun f => f.flow == 15 && f.seq == 3) = some wframe)
      ∧ (winnowing {} .other).win.job = none
      ∧ (let s := winnowing { job := some 7 } (.tableLoad 15 0)
         s.jobWork 7 = some (.tableLoad 15 0) ∧ s.drv.stagingBad = false)
      ∧ (winnowing { job := some 7 } (.imageLoad 9)).jobWork 7 = some (.imageLoad 9) := by decide +kernel

/-- A stored block of four bytes, and one whose lengths do not agree (R371). -/
theorem meets_WinnowEncodesAndDecompresses_bytes :
    (match inflate ([1#8, 4#8, 0#8, 0xFB#8, 0xFF#8] ++ [1#8, 2#8, 3#8, 4#8]) 4096 with
      | .done out => out
      | _ => []) = [1#8, 2#8, 3#8, 4#8]
      ∧ (match inflate [1#8, 4#8, 0#8, 0#8, 0#8, 1#8] 4096 with
      | .failed _ _ _ => true
      | _ => false) = true := by decide +kernel

/-- A codeword of zeros with three erroneous bytes is corrected, and one with four is found uncorrectable (R401). -/
def codeword (n : Nat) : Bytes := (List.range n).map (fun i => BitVec.ofNat 8 (17 * i + 1)) ++ zeros (38 - n)

theorem meets_IntegrityActs :
    (up .run []).domOn 2 = true ∧ ({ up .run [] with pow := State.reset.pow } : State).domOn 2 = false
      ∧ (let m := (up .run []).cfg.active
         (up .run []).itg.passFrom + secLoom (fld (m.word 0x0C00 0) 15 0) ≤ (tick (secLoom 4) (up .run [])).clk.loom
           ∧ ¬ (up .run []).itg.passFrom + secLoom (fld (m.word 0x0C00 0) 15 0) ≤ (tick 0 (up .run [])).clk.loom
           ∧ m.macFits ((up .run []).macLanes - 1) = true)
      ∧ codeValid (rsEncode (List.replicate 31 0#8 ++ [1#8])) = true
      ∧ ({ up .run [] with itg := { rowCount := [(3, 2)] } } : State).itg.rowCount ≠ []
      ∧ ({ up .run [] with itg := { crossings := [(4, { holds := true })] } } : State).crossHolds 4 = true
      ∧ stoppedAt [(.qclk, .stopped)] 4 = false ∧ stoppedAt [(.lclk, .stopped)] 4 = true
      ∧ codeValid (zeros 38) = true ∧ codeValid (codeword 3) = false ∧ rsDecode (codeword 3) = some (zeros 38)
      ∧ codeValid (codeword 4) = false ∧ rsDecode (codeword 4) = none
      ∧ stSampling (up .run []).hub.state = true ∧ (up .run []).voters = [0, 1, 2]
      ∧ ({ up .run [] with hub := { state := .run, coresOut := [2] } } : State).voters = [0, 1]
      ∧ (up .run []).hub.clocks = [] ∧ (up .run []).hub.xiWait = none ∧ (up .run []).domOn 1 = true
      ∧ ({ up .boot [] with hub := { state := .boot, xiWait := some 0 } } : State).hub.xiWait = some 0
      ∧ unpowered.domOn 1 = false ∧ ((up .run []).drv.tables.get 15).loading = false ∧ (up .run []).jobsRunning < 16
      ∧ ({ up .run [] with hub := { state := .run, clocks := [(.qclk, default)] } } : State).hub.clocks = [(.qclk, default)]
      ∧ (up .run []).unitBusy 6 = false ∧ (working (.storeCrc true 0 4 6)).unitBusy 6 = true
      ∧ (working (.storeCrc true 0 4 6)).jobWork 7 = some (.storeCrc true 0 4 6)
      ∧ (up .run [(0x0902, 45, 0x80000400#32)]).cfg.active.tableEn 15 = true
      ∧ (up .run []).cfg.active.tableEn 0 = false := by decide +kernel

theorem meets_IntegrityActs_requests :
    (up .ready []).Takes (ask (beBytes 1 6 ++ beBytes 1 1 ++ beBytes 1 2 ++ zeros 1 ++ beWord 0xFFFF#32 ++ beBytes 2 3
        ++ zeros 2 ++ [1#8, 2#8, 3#8])) stRead
      ∧ (up .ready []).Takes (ask (beBytes 1 0 ++ beBytes 1 15 ++ zeros 2 ++ beBytes 4 4096)) stRead
      ∧ (2 : Nat) < [1#8, 2#8, 3#8].length :=
  ⟨up_takes (by decide) rfl rfl, up_takes (by decide) rfl rfl, by decide⟩

/-- A hub whose domain d is in a given state. -/
def domain (d : Nat) (x : Domain) : State := { up .run [] with pow := { domains := [(d, x)] } }

theorem meets_DomainsStartAndAreLost :
    (let s := domain 7 { state := 1 }
     (s.pow.domains.get 7).state = 1 ∧ (s.pow.domains.get 7).since ≤ 0 ∧ s.railsIn 7 = true ∧ (s.pow.domains.get 7).good = false
       ∧ (s.pow.domains.get 7).since + usLoom 5000 ≤ (tick (usLoom 5000) s).clk.loom)
      ∧ ((domain 2 { state := 1, good := true }).pow.domains.get 2).good = true
      ∧ ((domain 1 { state := 2 }).pow.domains.get 1).state = 2 ∧ ((domain 1 {}).pow.domains.get 1).state = 0
      ∧ stLive (domain 1 { state := 2 }).hub.state = true ∧ (domainRails 1).contains 1 = true
      ∧ (domainRails 0).contains 0 = true ∧ (domainRails 0).contains 7 = false ∧ (domain 0 { state := 2 }).domOn 0 = true
      ∧ (domain 0 { state := 2 }).hub.inReset = false ∧ (domain 0 { state := 2 }).cfg.staged.length ≤ 64
      ∧ (let s : State := { domain 0 { state := 3 } with hub := { state := .boot, inReset := true } }
         (s.pow.domains.get 0).state = 3 ∧ s.hub.nresetLow = false
           ∧ (domainRails 0).all (fun r => (s.pow.rails.get r).state == 0) = true) := by decide +kernel

theorem meets_PowerAndSeedCommandsAct :
    (up .config []).Takes (ask (beBytes 1 0x7F ++ zeros 1)) stHeld ∧ (up .run []).Takes (ask (beBytes 1 2 ++ zeros 1 ++ beBytes 2 71)) stRead
      ∧ (up .service []).Takes (ask (zeros 4 ++ beBytes 4 (2 ^ 20 - 1) ++ [1#8])) stHeld
      ∧ (up .ready []).Takes (ask (beBytes 1 1 ++ beBytes 1 15 ++ beBytes 1 3 ++ zeros 1)) stHeld
      ∧ (∀ d, d < 8 → ((up .config []).pow.domains.get d).state ≠ 1) ∧ ((domain 5 { state := 1 }).pow.domains.get 5).state = 1
      ∧ (((up .ready []).pow.domains.get 1).state ≠ 0 ∧ nbit 0x7E 0 = false)
      ∧ (let s : State := { up .run [] with pow := { power with worn := [⟨2, 0xFF, 71, 0⟩] } }
         (s.pow.worn.any fun w => w.kind == 2 && w.idx == 71 && w.state == 0) = true ∧ s.spareLeft 2 = true
           ∧ ({ s with pow := { s.pow with used := [(2, 8)] } } : State).spareLeft 2 = false)
      ∧ partLimit 2 = 72 ∧ (up .ready []).podCut 15 = false ∧ (up .ready []).podTested 15 = false
      ∧ (up .ready []).freeSpare 1 15 = some 4 ∧ (up .ready []).freeSpare 0 15 = some 16
      ∧ ({ up .ready [] with pow := { power with replaced := [(480, 1)] } } : State).freeSpare 1 15 = none
      ∧ (up .service []).stagingHeld = false
      ∧ ({ up .service [] with drv := { stagingFor := .table 0 } } : State).stagingHeld = true
      ∧ (up .service []).jobsRunning < 16 ∧ (up .service []).domOn 1 = true ∧ (up .service []).domOn 2 = true
      ∧ unpowered.domOn 1 = false ∧ unpowered.domOn 2 = false := by
  refine ⟨up_takes (by decide) rfl rfl, up_takes (by decide) rfl rfl, up_takes (by decide) rfl rfl,
    up_takes (by decide) rfl rfl, ?_⟩
  decide +kernel

/-- A hub with nRESET low, its images and its configuration copies as given. -/
def down (va vb : Bool) (a b : Copy) : State :=
  { State.reset with
    pow := { State.reset.pow with imageA := { invalid := !va }, imageB := { invalid := !vb } }, cfg := { copyA := a, copyB := b } }

/-- What the sectors of the eMRAM answer is free, so that BOOT meets either case of them. -/
theorem meets_BootChoosesAndStarts :
    State.reset.xiOut = false ∧ ({ State.reset with hub := { clocks := [(.xi, default)] } } : State).xiOut = true
      ∧ (up .run []).hub.nresetLow = false ∧ State.reset.hub.nresetLow = true ∧ State.reset.railsIn 0 = true
      ∧ ({ State.reset with pow := { rails := [(0, { state := 1 })] } } : State).railsIn 0 = false
      ∧ (let s := down true false { valid := true, seq := 5, words := [(1, 1#32)] } { valid := true, seq := 4 }
         s.pow.imageA.invalid = false ∧ s.pow.imageB.invalid = true ∧ s.cfg.copyA.words ≠ s.cfg.copyB.words
           ∧ newer32 s.cfg.copyA.seq s.cfg.copyB.seq = true ∧ newer32 s.cfg.copyB.seq s.cfg.copyA.seq = false)
      ∧ newer32 0 0x80000000 = false ∧ newer32 0x80000000 0 = false ∧ newer32 0 0xFFFFFFFF = true
      ∧ (down true true {} {}).cfg.copyA.valid = false := by decide +kernel

theorem meets_BootChoosesAndStarts_check : (down true true { valid := true } {}).check [] = none
    ∧ ((down true true {} {}).check (conf [(0, 0, 0x80000000#32)])).isSome = true :=
  ⟨check_factory _ rfl, by decide +kernel⟩

/-- A hub in BOOT that pairs, has a hub ID, and knows its partner as given. -/
def pairing (p : Pair) : State := { up .boot [(0, 0, 5#32), (0x0D00, 0, 0xC0028001#32)] with pair := p }

theorem meets_BootEndsInARole_late :
    ({ pairing {} with sh := { xiFrom := some 3 } } : State).sh.xiFrom = some 3 ∧ (pairing {}).sh.xiFrom = none
      ∧ 0 < ((tick (2 ^ 33) (pairing {})).clk.loom - 3) / 2 ^ 32 := by decide +kernel

theorem meets_BootEndsInARole :
    (pairing {}).bootReady = true ∧ (up .run []).bootReady = false ∧ (pairing {}).hub.bootTo = .config
      ∧ (pairing {}).cfg.active.pairEn = true ∧ (up .boot [(0, 0, 5#32)]).bootReady = true
      ∧ (up .boot [(0, 0, 5#32)]).cfg.active.pairEn = false
      ∧ (let s := pairing { linkUp := true, partner := { heard := true, role := .active } }
         s.pair.linkUp = true ∧ s.pair.partner.heard = true ∧ s.pair.partner.role = .active)
      ∧ (pairing {}).excited = false
      ∧ (let s : State := { up .boot [(0, 0, 5#32), (0x0D00, 0, 0xC0028001#32), (0x0D00, 2, 0x80000000#32)] with
            pair := { wits := [(0, { present := true })] } }
         s.excited = true)
      ∧ (pairing { listening := some 4 }).pair.listening = some 4
      ∧ 4 + usLoom ((pairing {}).cfg.active.joinWait * 100000)
        ≤ (tick (4 + usLoom ((pairing {}).cfg.active.joinWait * 100000)) (pairing {})).clk.loom
      ∧ ((pairing {}).pow.domains.get 1).state = 2 ∧ (pairing {}).cfg.active.macFits (pairing {}).macLanes = true
      ∧ ({ pairing {} with pow := { power with domains := [(1, { wanted := true, state := 3 })] } } : State).bootReady = true
      ∧ (let s : State := { pairing {} with hub := { state := .boot, xiWait := some 0, clocks := [(.xi, default)] } }
         s.hub.xiWait = some 0 ∧ s.hub.inReset = false ∧ s.xiOut = true ∧ s.bootReady = false) := by decide +kernel

/-- R235, 08_linearisation.md, worked example: the reference function of type K at 300 degrees C is 12.209 mV. -/
theorem test_type_k_at_300 : (let x := fToRat (f64v (tcForward 4 (f64OfInt 300)))
    (x.1 * 1000000 - 12209 * x.2).natAbs * 2 ≤ x.2) := by decide +kernel

/-- What R426 asks of a frame's header and check value holds of every frame formed as it says. -/
theorem test_selvedge_frame_formed (typ alive seq : Nat) (p : Bytes) (ht : typ < 16) (ha : alive < 16)
    (hp : p.length < 65536) :
    (svFrame typ alive seq p).length = 12 + p.length
      ∧ beAt (svFrame typ alive seq p) 1 1 = alive * 16 + typ
      ∧ beAt (svFrame typ alive seq p) 2 2 = p.length
      ∧ (crc32c (slice (svFrame typ alive seq p) 1 (7 + p.length))).toNat
          = beAt (svFrame typ alive seq p) (8 + p.length) 4 := by
  have hf : svFrame typ alive seq p = [0xBC#8] ++ ((beBytes 1 (alive * 16 + typ) ++ (beBytes 2 p.length
      ++ (beBytes 4 seq ++ p))) ++ beWord (crc32c (beBytes 1 (alive * 16 + typ) ++ (beBytes 2 p.length
      ++ (beBytes 4 seq ++ p))))) := by simp [svFrame]
  rw [hf]
  refine ⟨by simp; omega, ?_, ?_, ?_⟩
  · rw [beAt_skip _ _ _ _ (by simp), List.append_assoc]
    exact (beAt_head 1 _ _).trans (Nat.mod_eq_of_lt (by omega))
  · rw [beAt_skip _ _ _ _ (by simp), List.append_assoc, List.append_assoc, beAt_skip _ _ _ _ (by simp)]
    exact (beAt_head 2 _ _).trans (Nat.mod_eq_of_lt (by omega))
  · rw [slice_append_right _ _ _ _ (by simp), slice_append_left _ _ _ _ (by simp; omega),
      beAt_skip _ _ _ _ (by simp; omega), beAt_skip _ _ _ _ (by simp; omega)]
    generalize hb : beBytes 1 (alive * 16 + typ) ++ (beBytes 2 p.length ++ (beBytes 4 seq ++ p)) = b
    have hl : b.length = 7 + p.length := by simp [← hb]; omega
    simp only [List.length_cons, List.length_nil, hl, slice_all b _ hl]
    rw [show 8 + p.length - (0 + 1) - (7 + p.length) = 0 by omega, beWord, beAt_only]
    exact (Nat.mod_eq_of_lt (crc32c b).isLt).symm

/-- The state with crossing 7 holding what comes. -/
def p7 (s : State) : State := { s with itg := { crossings := [(7, { holds := true })] } }

theorem meets_SelvedgeFramesAct :
    (let s := paired .run .standby { linkUp := true, rxAlive := some 15 }
     s.onSelvedge = true ∧ s.pair.linkUp = true ∧ s.pair.rxAlive = some 15
       ∧ (0 + 16 - 15 % 16) % 16 = 1 ∧ (15 + 16 - 15 % 16) % 16 = 0 ∧ (7 + 16 - 15 % 16) % 16 = 8
       ∧ 9 ≤ (8 + 16 - 15 % 16) % 16 ∧ s.pair.logIn = [] ∧ s.pair.lastValid + usLoom 20 ≤ (tick (usLoom 20) s).clk.loom
       ∧ s.paired = true ∧ s.crossHolds 7 = false ∧ (p7 s).crossHolds 7 = true ∧ (p7 s).onSelvedge = true)
      ∧ (up .run []).onSelvedge = false ∧ beAt (svFrame 1 0 0 []) 0 1 = 0xBC
      ∧ (let p := (paired .run .standby { rxDeltas := [(3, [9])], fragBeat := 5, fragNext := 2 }).pair
         (p.rxDeltas.any fun x => x.1 == 3) = true ∧ (p.rxDeltas.any fun x => x.1 == 2) = false
           ∧ (p.rxDeltas.filter fun x => newer32 x.1 2) ≠ [] ∧ (p.rxDeltas.filter fun x => newer32 x.1 4) = []
           ∧ (2 == 0 || (p.fragBeat == 5 && p.fragNext == 2)) = true ∧ (1 == 0 || (p.fragBeat == 5 && p.fragNext == 1)) = false)
      ∧ ((zeros 252).length < 65536 ∧ 252 ≤ (zeros 252).length ∧ (3 : Nat) < 16 ∧ (1 : Nat) < 16)
      ∧ ([.configuration false 0] : List SnapItem).any itemBad = false
      ∧ 0 + usLoom 50 ≤ beatTime 1 ∧ beatTime 0 < 0 + usLoom 50
      ∧ (let s := paired .run .active { linkUp := true }
         s.onSelvedge = true ∧ s.pair.lastResend + usLoom 20 ≤ (tick (usLoom 20) s).clk.loom)
      ∧ (let s : State := { paired .run .standby { snapBeat := 3 } with clk := { beat := 4 } }
         s.pair.snapBeat ≠ s.clk.beat ∧ s.pair.askedAt = none ∧ s.paired = true
           ∧ ({ s.pair with askedAt := some 4 } : Pair).askedAt = some s.clk.beat)
      ∧ (paired .run .active {}).onSelvedge = true ∧ (paired .run .active {}).hub.state ≠ .boot
      ∧ (paired .run .active { hbSent := some 0 }).pair.hbSent = some 0 ∧ usSpan 4 ≤ (tick (usLoom 5) (paired .run .active {})).clk.loom := by decide +kernel

theorem meets_PairRolesSwitchOnEvidence :
    (let s := paired .run .standby { linkUp := true, hbLast := some 4, hbIn := true }
     s.cfg.active.pairEn = true ∧ s.hub.inReset = false ∧ s.paired = true ∧ s.able = true
       ∧ 4 + usLoom 30 ≤ (tick (4 + usLoom 30) s).clk.loom ∧ (tick 4 s).clk.loom < 4 + usLoom 5 ∧ s.excited = false)
      ∧ bitAt ((up .run [(0x0D00, 2, 0x80000000#32)]).cfg.active.witness 0) 31 = true
      ∧ bitAt ((up .run []).cfg.active.witness 0) 31 = false
      ∧ (let q := (paired .run .standby { linkUp := true, partner := { state := .fault } }).pair.partner
         q.state = .fault ∧ ¬ (q.role = .active ∧ q.able = true))
      ∧ (let q := (paired .run .standby { partner := { role := .active, able := true } }).pair.partner
         q.role = .active ∧ q.able = true)
      ∧ (paired .run .active { switching := .prompt 3 false }).pair.switching = .prompt 3 false
      ∧ (let p := (paired .run .active { switching := .prompt 3 true, linkUp := true, lastValid := 4 }).pair
         p.switching = .prompt 3 true ∧ p.linkUp = true ∧ 3 < p.lastValid + usLoom 20)
      ∧ (paired .run .standby { hbEdge := some 4 }).pair.hbEdge = some 4
      ∧ (paired .run .standby { linkUp := true, partner := { state := .fault } }).crossHolds 7 = false
      ∧ (let s : State := { paired .run .active { switching := .mbb 3 false } with clk := { beat := 3 } }
         s.pair.switching = .mbb 3 false ∧ beatTime 3 + usLoom 1000 ≤ (tick (beatTime 4 + 1) s).clk.loom ∧ 3 ≤ s.clk.beat)
      ∧ (paired .run .standby { holdFrom := some 3 }).pair.holdFrom = some 3
      ∧ (let s := paired .run .active { linkUp := true, partner := { role := .standby, able := true, inSync := true } }
         s.pair.switching = .idle ∧ s.switchBusy = false ∧ s.pair.partner.able = true ∧ s.pair.partner.inSync = true) := by
  decide +kernel

theorem meets_PairRolesSwitchOnEvidence_requests : (paired .run .active {}).Takes (ask []) stLive
    ∧ (paired .service .standby {}).Takes (ask []) stLive ∧ (up .ready []).Takes (ask []) stLive
    ∧ (up .ready []).hub.role = .solo :=
  ⟨spi_takes rfl (by decide) rfl (by decide +kernel) rfl rfl rfl rfl, spi_takes rfl (by decide) rfl (by decide +kernel) rfl rfl rfl rfl, up_takes (by decide) rfl rfl, rfl⟩

theorem meets_CommandsTakeEffect :
    (∃ j, findJob 7 (working (.imageLoad 9)) = some j ∧ j.ended = none ∧ j.work = .imageLoad 9)
      ∧ (up .run driven).hub.role ≠ .standby ∧ (up .run []).hub.inReset = false
      ∧ ({ up .run [] with hub := { state := .run, restart := some (1, 0) } } : State).hub.restart = some (1, 0)
      ∧ 0 + usLoom 1000 ≤ (tick (usLoom 1000) (up .run [])).clk.loom
      ∧ (let s : State := { up .run driven with drv := { tables := [(15, { points := [1#32] })], stims := [(15, { state := 4 })] } }
         (s.drv.tables.get (stimTable (s.cfg.active.stimW 15 0))).points ≠ [] ∧ s.outputPlays 15 = false
           ∧ (s.drv.stims.get 15).state ≠ 0 ∧ s.stimRuns 15 = true ∧ s.drv.tickedAt ≠ some (s.lastEvery 512)
           ∧ (s.stimTarget s.cfg.active 15 (s.lastEvery 512)).isSome = true)
      ∧ (let s : State := { ported {} with weft := { (ported {}).weft with pool := [wframe]
                                                                           streams := [(15, { lastSent := some 3 })] } }
         s.flowState 15 ≠ 0 ∧ s.lastSent 15 = some 3 ∧ newer32 3 3 = false ∧ wframe ∈ s.weft.pool ∧ wframe.left = true
           ∧ wframe.again = [] ∧ (s.weft.streams.get 15).lastSent = some 3)
      ∧ (ported {}).portUp 1 = true ∧ (ported {}).hub.inReset = false ∧ (ported {}).ptpOn 1 = true
      ∧ (ported {}).noticePort 1 = false ∧ (ported { tokensUsed := 4 }).tokenDue 1 ≤ (tick (2 ^ 33) (ported {})).clk.loom
      ∧ ((ported {}).weft.ports.get 1).icmpTimes = [] ∧ ((ported {}).weft.ports.get 1).announce = none
      ∧ (let s := ported { tc0 := [.ptp 3 0 0] }
         (askHops 1 (tick 0 s)).weft.ports.get 1 = s.weft.ports.get 1 ∧ (askHops 1 (tick 0 s)).canLeave 1 (.ptp 3 0 0) = true)
      ∧ running0.hub.state = .run := by
  refine ⟨⟨_, rfl, rfl, rfl⟩, ?_⟩
  decide +kernel

theorem meets_CommandsTakeEffect_requests :
    (up .ready []).Takes (ask (beBytes 2 7)) stRead ∧ (up .boot []).Takes (ask (beBytes 1 2)) (fun _ => true)
      ∧ (up .run driven).Takes (ask (beBytes 1 15 ++ beBytes 1 3)) stLive
      ∧ (up .config driven).Takes (ask (beBytes 1 15 ++ zeros 3 ++ beBytes 4 8)) stStage :=
  ⟨up_takes (by decide) rfl rfl, up_takes (by decide) rfl rfl, up_takes (by decide) rfl rfl, up_takes (by decide) rfl rfl⟩

theorem meets_SystemCommandsTakeEffect :
    (winnowing { queue := [(15, 3)] } .other).winnowOn = true ∧ (winnowing { job := some 7 } (.imageLoad 9)).win.job = some 7
      ∧ (∀ d, d < 8 → ((up .config []).pow.domains.get d).state ≠ 1) ∧ (∀ d, d < 8 → 0 < d → nbit 0x7F (d - 1) = true)
      ∧ (up .ready []).freeSpare 1 15 = some 4 ∧ (up .service []).stagingHeld = false
      ∧ (let s := domain 7 { state := 1 }
         s.railsIn 7 = true ∧ (s.pow.domains.get 7).since ≤ 0 ∧ (s.pow.domains.get 7).good = false)
      ∧ (paired .run .standby {}).cfg.active.pairEn = true ∧ (paired .run .standby {}).pair.hbLast = none
      ∧ (paired .run .standby {}).able = true ∧ (paired .run .standby {}).excited = false
      ∧ (paired .run .standby {}).pair.linkUp = false ∧ (paired .run .standby {}).pair.hbIn = false
      ∧ (let s := paired .run .active { linkUp := true }
         s.onSelvedge = true ∧ s.pair.linkUp = true ∧ s.pair.rxAlive = none)
      ∧ (let s : State := { paired .run .standby { linkUp := true, hbIn := true, inSync := true, holdFrom := some 3
                                                   partner := { role := .active, able := true, state := .run } } with
            cfg := { active := conf [(0, 0, 5#32), (0x0D00, 0, 0xF0028001#32)] } }
         s.pair.holdFrom = some 3 ∧ s.switchBusy = false ∧ (s.returns = (s.primary && s.cfg.active.returnEn))) := by
  decide +kernel

end Sys2Proof.Tests
end

/-! SUPPORT. The end of BOOT (O56): what a move of the hub state leaves alone, the causes of FAULT that BOOT finds, and the
rows of R422. -/

namespace Sys2Proof.Machine

open Sys2Proof

/-- A fold of operations that each leave a view of the state as it is leaves it so. -/
theorem foldl_view {α β : Type} (v : State → β) (f : State → α → State) (hf : ∀ s x, v (f s x) = v s) (l : List α) (s : State) :
    v (l.foldl f s) = v s := by
  induction l generalizing s with
  | nil => rfl
  | cons x r ih => exact (ih (f s x)).trans (hf s x)

/-! ### What a move of the hub state leaves alone -/

/-- What the end of BOOT settles (R422, R456), and what its last steps look at. -/
structure BootView where
  state : HubState
  role : Role
  hubId : Option Nat
  causes : List FaultCause
  alarms : List Nat
  clk : Clocks
  warp : Warp
  pair : Pair
  pow : Power
  force : PMem
  active : PMem

/-- That part of a state. -/
def State.bootView (s : State) : BootView :=
  { state := s.hub.state, role := s.hub.role, hubId := s.hub.hubId, causes := s.hub.causes, alarms := s.sh.alarms, clk := s.clk
    warp := s.warp, pair := s.pair, pow := s.pow, force := s.cfg.force, active := s.cfg.active }

@[simp] theorem alarmNotice_bootView (onset : Bool) (code part reason : Nat) (s : State) :
    (alarmNotice onset code part reason s).bootView = s.bootView := by simp [State.bootView]

@[simp] theorem chanUpd_bootView (ch : Nat) (f : Chan → Chan) (s : State) : (chanUpd ch f s).bootView = s.bootView := rfl
@[simp] theorem eventOn_bootView (ch mode : Nat) (first : Int) (tE : Nat) (chain : Bool) (s : State) :
    (eventOn ch mode first tE chain s).bootView = s.bootView := rfl
@[simp] theorem leadUpd_bootView (ch det : Nat) (f : Lead → Lead) (s : State) :
    (leadUpd ch det f s).bootView = s.bootView := rfl
@[simp] theorem ovrUpd_bootView (ch : Nat) (f : Ovr → Ovr) (s : State) : (ovrUpd ch f s).bootView = s.bootView := rfl
@[simp] theorem noteSwitch_bootView (pod at_ : Nat) (s : State) : (noteSwitch pod at_ s).bootView = s.bootView := rfl
@[simp] theorem scUpd_bootView (sc : Nat) (f : Converter → Converter) (s : State) : (scUpd sc f s).bootView = s.bootView := rfl
@[simp] theorem crossUpd_bootView (x : Nat) (f : Crossing → Crossing) (s : State) : (crossUpd x f s).bootView = s.bootView := rfl
@[simp] theorem loopUpd_bootView (n : Nat) (f : Loop → Loop) (s : State) : (loopUpd n f s).bootView = s.bootView := rfl
@[simp] theorem seqUpd_bootView (q : Nat) (f : Seqr → Seqr) (s : State) : (seqUpd q f s).bootView = s.bootView := rfl
@[simp] theorem bobUpd_bootView (b : Nat) (f : Bobbin → Bobbin) (s : State) : (bobUpd b f s).bootView = s.bootView := rfl
@[simp] theorem stopStims_bootView (z : Bool) (s : State) : (stopStims z s).bootView = s.bootView := rfl

@[simp] theorem cancelMoves_bootView (s : State) : (cancelMoves s).bootView = s.bootView :=
  foldl_view State.bootView cancelEvent (fun _ _ => rfl) _ _

@[simp] theorem cancelArms_bootView (s : State) : (cancelArms s).bootView = s.bootView :=
  foldl_view State.bootView cancelEvent (fun _ _ => rfl) _ _

@[simp] theorem leadSuspect_bootView (ch det : Nat) (s : State) : (leadSuspect ch det s).bootView = s.bootView := by
  unfold leadSuspect; split <;> rfl

@[simp] theorem leadClear_bootView (ch det : Nat) (recover : Bool) (s : State) :
    (leadClear ch det recover s).bootView = s.bootView := by
  simp only [leadClear, apply_ite State.bootView, eventOn_bootView, alarmNotice_bootView, leadUpd_bootView, ite_self]

@[simp] theorem quietSlot_bootView (ch : Nat) (s : State) : (quietSlot ch s).bootView = s.bootView := by
  simp only [quietSlot, ovrUpd_bootView]
  exact foldl_view State.bootView _ (fun _ _ => leadClear_bootView ..) _ s

@[simp] theorem cutSlots_bootView (pod : Nat) (s : State) : (cutSlots pod s).bootView = s.bootView := by
  unfold cutSlots
  exact foldl_view State.bootView _ (fun _ _ => by
    simp only [apply_ite State.bootView, leadSuspect_bootView, leadClear_bootView, ite_self]) _ s

@[simp] theorem cutLeads_bootView (s : State) : (cutLeads s).bootView = s.bootView := by
  unfold cutLeads
  exact foldl_view State.bootView _ (fun _ _ => cutSlots_bootView ..) _ s

@[simp] theorem startSampling_bootView (b : Nat) (s : State) : (startSampling b s).bootView = s.bootView :=
  foldl_view State.bootView (startChan b) (fun _ _ => rfl) _ s

@[simp] theorem stopSampling_bootView (s : State) : (stopSampling s).bootView = s.bootView := by
  unfold stopSampling
  exact (foldl_view State.bootView _ (fun _ _ => chanUpd_bootView ..) _ _).trans
    (foldl_view State.bootView _ (fun _ _ => quietSlot_bootView ..) _ s)

@[simp] theorem rolesSwitch_bootView (at_ : Nat) (s : State) : (rolesSwitch at_ s).bootView = s.bootView := by
  unfold rolesSwitch podsSwitch
  exact foldl_view State.bootView _ (fun _ _ => noteSwitch_bootView ..) _ s

@[simp] theorem listsFrom_bootView (at_ : Nat) (ls : List Nat) (s : State) : (listsFrom at_ ls s).bootView = s.bootView := by
  unfold listsFrom
  refine foldl_view State.bootView _ (fun u l => ?_) _ s
  dsimp only
  exact (foldl_view State.bootView _ (fun _ _ => (scUpd_bootView ..).trans (crossUpd_bootView ..)) _ _).trans rfl

@[simp] theorem setDelivering_bootView (on : Bool) (at_ : Nat) (s : State) : (setDelivering on at_ s).bootView = s.bootView := by
  unfold setDelivering; split <;> rfl

@[simp] theorem disarmSeq_bootView (s : State) (q : Nat) : (disarmSeq s q).bootView = s.bootView := by
  unfold disarmSeq
  dsimp only
  exact (foldl_view State.bootView _ (fun _ _ => bobUpd_bootView ..) _ _).trans (seqUpd_bootView ..)

@[simp] theorem leaveRunTreadle_bootView (at_ : Nat) (s : State) : (leaveRunTreadle at_ s).bootView = s.bootView :=
  foldl_view State.bootView disarmSeq disarmSeq_bootView _ s

@[simp] theorem initSlot_bootView (m : PMem) (s : State) (n : Nat) : (initSlot m s n).bootView = s.bootView := rfl

/-- What stops as the hub leaves a state other than SERVICE. -/
theorem leaveState_bootView {old : HubState} (h : old ≠ .service) (new : HubState) (at_ : Nat) (s : State) :
    (leaveState old new at_ s).bootView = s.bootView := by
  have left_view : ∀ (u : State) l, ({ u with hub := { u.hub with left := l } } : State).bootView = u.bootView := fun _ _ => rfl
  simp only [leaveState, h, false_and, if_false, apply_ite State.bootView, left_view, rolesSwitch_bootView,
    listsFrom_bootView, setDelivering_bootView, leaveRunTreadle_bootView, cancelMoves_bootView, cancelArms_bootView, ite_self]

/-- What starts and stops as the hub arrives in CONFIG, READY, RUN or FAULT, from a state other than FAULT. -/
theorem arriveState_bootView {old new : HubState} (ho : old ≠ .fault)
    (hn : new = .config ∨ new = .ready ∨ new = .run ∨ new = .fault) (reason at_ : Nat) (s : State) :
    (arriveState old new reason at_ s).bootView = s.bootView := by
  obtain rfl | rfl | rfl | rfl := hn
  · simp only [arriveState, stopStims_bootView, stopSampling_bootView]
  · have initSlots_view : ∀ (m : PMem) (u : State), ((List.range 16).foldl (initSlot m) u).bootView = u.bootView :=
      fun m u => foldl_view State.bootView (initSlot m) (initSlot_bootView m) _ u
    simp only [arriveState, ho, or_false, if_false, initSlots_view, apply_ite State.bootView, stopStims_bootView,
      startSampling_bootView, ite_self]
  · simp only [arriveState, startSampling_bootView]
  · simp only [arriveState, alarmNotice_bootView, apply_ite State.bootView, stopStims_bootView, ite_self]

/-- A move out of BOOT, CONFIG, READY or RUN changes the hub state, and nothing else of the view. -/
theorem enterState_bootView {new : HubState} (reason source at_ : Nat) {s : State} (hne : s.hub.state ≠ new)
    (ho : s.hub.state ≠ .service ∧ s.hub.state ≠ .safe ∧ s.hub.state ≠ .fault)
    (hn : new = .config ∨ new = .ready ∨ new = .run ∨ new = .fault) :
    (enterState new reason source at_ s).bootView = { s.bootView with state := new } := by
  obtain ⟨h1, h2, h3⟩ := ho
  simp only [enterState, hne, h2, false_and, or_false, if_false, cutLeads_bootView, arriveState_bootView h3 hn,
    leaveState_bootView h1]
  rfl

/-! ### FAULT at the end of BOOT (R456, R497) -/

/-- The hub has left BOOT for one of the states in which it can end, or for FAULT. -/
def State.Booted (s : State) : Prop :=
  s.hub.state = .config ∨ s.hub.state = .ready ∨ s.hub.state = .run ∨ s.hub.state = .fault

/-- The causes recorded, with one more (R497). -/
def addCause (cs : List FaultCause) (c : FaultCause) : List FaultCause := if cs.contains c then cs else cs ++ [c]

theorem mem_addCause {cs : List FaultCause} {c x : FaultCause} : x ∈ addCause cs c ↔ x ∈ cs ∨ x = c := by
  unfold addCause
  split
  · have : c ∈ cs := by simpa using ‹cs.contains c = true›
    exact ⟨.inl, fun h => h.elim id (· ▸ this)⟩
  · simp

theorem mem_foldl_addCause {l cs : List FaultCause} {x : FaultCause} : x ∈ l.foldl addCause cs ↔ x ∈ cs ∨ x ∈ l := by
  induction l generalizing cs with
  | nil => simp
  | cons c r ih => simp [ih, mem_addCause, or_assoc]

/-- A cause recorded leaves of the view all but the state, which is FAULT, and the causes. -/
theorem enterFault_bootView (c : FaultCause) {s : State} (h : s.Booted) :
    (enterFault c s).bootView = { s.bootView with state := .fault, causes := addCause s.hub.causes c } := by
  have add_view : ∀ u : State, (if u.hub.causes.contains c then u
      else { u with hub := { u.hub with causes := u.hub.causes ++ [c] } } : State).bootView
        = { u.bootView with causes := addCause u.bootView.causes c } := by
    intro u; unfold addCause; split <;> simp_all [State.bootView]
  have moved : s.hub.state = .config ∨ s.hub.state = .ready ∨ s.hub.state = .run →
      (enterState .fault (causeReason c) 0 s.clk.loom s).bootView = { s.bootView with state := .fault } := by
    intro h
    refine enterState_bootView _ _ _ ?_ ?_ (.inr (.inr (.inr rfl))) <;> obtain h | h | h := h <;> simp [h]
  unfold enterFault
  split
  next hf => exact (add_view s).trans (by simp [State.bootView, hf])
  next hc => exact (add_view _).trans (by rw [moved (.inl hc)]; rfl)
  next hr => exact (add_view _).trans (by rw [moved (.inr (.inl hr))]; rfl)
  next hr => exact (add_view _).trans (by rw [moved (.inr (.inr hr))]; rfl)
  all_goals simp_all [State.Booted]

/-- So do several. -/
theorem enterFaults_bootView (l : List FaultCause) {s : State} (h : s.Booted) :
    (l.foldl (fun s c => enterFault c s) s).bootView
      = { s.bootView with state := if l = [] then s.hub.state else .fault, causes := l.foldl addCause s.hub.causes } := by
  induction l generalizing s with
  | nil => rfl
  | cons c r ih =>
    have e := enterFault_bootView c h
    have hs : (enterFault c s).hub.state = .fault := congrArg BootView.state e
    have hc : (enterFault c s).hub.causes = addCause s.hub.causes c := congrArg BootView.causes e
    rw [List.foldl_cons, ih (.inr (.inr (.inr hs))), e, hs, hc]
    simp

/-- A domain that BOOT should have switched on did not come up (R456). -/
def State.notUp (s : State) (d : Nat) : Bool := (s.pow.domains.get d).wanted && (s.pow.domains.get d).state != 2

/-- The causes of FAULT that the end of BOOT finds (R456, R460). -/
def State.bootCauses (s : State) : List FaultCause :=
  (if s.cfg.active.macFits s.macLanes then [] else [.macLoad (s.pow.used.get 2)])
    ++ ([1, 2].filter s.notUp).map .domainLost

theorem bootCauses_congr {s u : State} (hp : u.pow = s.pow) (ha : u.cfg.active = s.cfg.active) :
    u.bootCauses = s.bootCauses := by
  have hn : u.notUp = s.notUp := by funext d; simp [State.notUp, hp]
  unfold State.bootCauses State.macLanes
  rw [hn, hp, ha]

/-- D1 and D2 are judged one after the other, and a cause leaves the domains as they are. -/
theorem foldl_domainLost (ds : List Nat) {s : State} (h : s.Booted) :
    ds.foldl (fun s d =>
        if (s.pow.domains.get d).wanted && (s.pow.domains.get d).state != 2 then enterFault (.domainLost d) s else s) s
      = ((ds.filter s.notUp).map FaultCause.domainLost).foldl (fun s c => enterFault c s) s := by
  induction ds generalizing s with
  | nil => rfl
  | cons d r ih =>
    simp only [List.foldl_cons, List.filter_cons]
    by_cases hd : s.notUp d = true
    · have e := enterFault_bootView (.domainLost d) h
      have hp : (enterFault (.domainLost d) s).notUp = s.notUp := by
        funext k
        exact congrArg (fun v : BootView => (v.pow.domains.get k).wanted && (v.pow.domains.get k).state != 2) e
      have hs : (enterFault (.domainLost d) s).hub.state = .fault := congrArg BootView.state e
      have hd' : ((s.pow.domains.get d).wanted && (s.pow.domains.get d).state != 2) = true := hd
      rw [if_pos hd', ih (.inr (.inr (.inr hs))), hp, if_pos hd]
      rfl
    · have hd' : ¬ ((s.pow.domains.get d).wanted && (s.pow.domains.get d).state != 2) = true := hd
      rw [if_neg hd', if_neg hd, ih h]

/-- The last step of BOOT records each of its causes. -/
theorem bootFaults_eq {s : State} (h : s.Booted) :
    [1, 2].foldl (fun s d =>
        if (s.pow.domains.get d).wanted && (s.pow.domains.get d).state != 2 then enterFault (.domainLost d) s else s) (macFault s)
      = s.bootCauses.foldl (fun s c => enterFault c s) s := by
  unfold State.bootCauses macFault
  split
  · exact foldl_domainLost [1, 2] h
  · have e := enterFault_bootView (.macLoad (s.pow.used.get 2)) h
    have hp : (enterFault (.macLoad (s.pow.used.get 2)) s).notUp = s.notUp := by
      funext k
      exact congrArg (fun v : BootView => (v.pow.domains.get k).wanted && (v.pow.domains.get k).state != 2) e
    rw [foldl_domainLost [1, 2] (.inr (.inr (.inr (congrArg BootView.state e)))), hp]
    rfl

/-- D1 and D2 are up where they are wanted, and the MAC load fits: BOOT finds no cause of FAULT. -/
theorem bootCauses_nil {s : State} : s.bootCauses = [] ↔
    (∀ d, d = 1 ∨ d = 2 → (s.pow.domains.get d).wanted = true → (s.pow.domains.get d).state = 2)
      ∧ s.cfg.active.macFits s.macLanes = true := by
  simp [State.bootCauses, State.notUp, and_comm]

/-! ### The end of BOOT (R422, R456) -/

theorem setMem_contains_same (l : List Nat) (n : Nat) (on : Bool) : (setMem l n on).contains n = on := by
  cases on with
  | false => simp [setMem]
  | true =>
    induction l with
    | nil => simp [setMem, setMem.ins]
    | cons x r ih =>
      simp only [setMem, if_true] at ih ⊢
      unfold setMem.ins
      split
      · simp
      · split
        · simp_all
        · simpa using .inr (by simpa using ih)

theorem setMem_contains_other (l : List Nat) {n k : Nat} (on : Bool) (h : k ≠ n) :
    (setMem l n on).contains k = l.contains k := by
  cases on with
  | false => simp [setMem, h]
  | true =>
    induction l with
    | nil => simp [setMem, setMem.ins, h]
    | cons x r ih =>
      simp only [setMem, if_true] at ih ⊢
      unfold setMem.ins
      split
      · simp [h]
      · split
        · rfl
        · simp_all

theorem setAlarm_alarms (bit : Nat) (on logged : Bool) (part reason : Nat) (s : State) :
    (setAlarm bit on logged part reason s).sh.alarms
      = if s.sh.alarms.contains bit = on then s.sh.alarms else setMem s.sh.alarms bit on := by
  simp only [setAlarm, apply_ite (fun u : State => u.sh.alarms), alarmEvent_sh_alarms, alarmNotice_sh, shakeEvent_sh, ite_self]

theorem setAlarm_contains_same (bit : Nat) (on logged : Bool) (part reason : Nat) (s : State) :
    (setAlarm bit on logged part reason s).sh.alarms.contains bit = on := by
  rw [setAlarm_alarms]
  split
  · assumption
  · exact setMem_contains_same ..

theorem setAlarm_contains_other {bit k : Nat} (on logged : Bool) (part reason : Nat) (s : State) (h : k ≠ bit) :
    (setAlarm bit on logged part reason s).sh.alarms.contains k = s.sh.alarms.contains k := by
  rw [setAlarm_alarms]
  split
  · rfl
  · exact setMem_contains_other _ _ h

theorem freeLock_bootView (s : State) :
    (freeLock s).bootView = { s.bootView with warp := (freeLock s).warp, alarms := (freeLock s).sh.alarms } := by
  have setLock_view : ∀ (l : Lock) (u : State),
      (setLock l u).bootView = { u.bootView with warp := (setLock l u).warp, alarms := (setLock l u).sh.alarms } := by
    intro l u
    unfold setLock holdAlarm warpEvent
    split
    · rfl
    · simp [State.bootView]
  unfold freeLock
  split
  · rw [setLock_view]; rfl
  · rfl

theorem mirrorAlarm_bootView (on : Bool) (s : State) :
    (mirrorAlarm on s).bootView = { s.bootView with alarms := (mirrorAlarm on s).sh.alarms } := by
  simp only [mirrorAlarm, pairEvent, State.bootView, setAlarm_hub, setAlarm_clk, setAlarm_warp, setAlarm_pair, setAlarm_pow, setAlarm_cfg]
  split <;> rfl

theorem uncertainAlarm_bootView (on : Bool) (s : State) :
    (uncertainAlarm on s).bootView = { s.bootView with alarms := (uncertainAlarm on s).sh.alarms } := by
  simp only [uncertainAlarm, pairEvent, State.bootView, setAlarm_hub, setAlarm_clk, setAlarm_warp, setAlarm_pair, setAlarm_pow, setAlarm_cfg]
  split <;> rfl

/-- Alarms 8 and 9 stand as they were told last. -/
theorem mirrorAlarm_contains (on : Bool) (s : State) :
    (mirrorAlarm on s).sh.alarms.contains 8 = on
      ∧ (mirrorAlarm on s).sh.alarms.contains 9 = s.sh.alarms.contains 9 := by
  refine ⟨setAlarm_contains_same .., (setAlarm_contains_other _ _ _ _ _ (by decide)).trans ?_⟩
  split <;> rfl

theorem uncertainAlarm_contains (on : Bool) (s : State) : (uncertainAlarm on s).sh.alarms.contains 9 = on :=
  setAlarm_contains_same ..

/-- A frame sent changes the pair's own fields at most, and of those neither of the two that the end of BOOT sets. -/
theorem svSend_bootView (typ : Nat) (payload : Bytes) (s : State) :
    (svSend typ payload s).bootView = { s.bootView with pair := (svSend typ payload s).pair }
      ∧ (svSend typ payload s).pair.listening = s.pair.listening ∧ (svSend typ payload s).pair.inSync = s.pair.inSync := by
  simp only [svSend, emitSv]
  split <;> exact ⟨rfl, rfl, rfl⟩

/-- A standby that asks for a resync is not in sync; nothing else of the view changes but the pair's own fields. -/
theorem askResync_bootView (s : State) : (askResync s).bootView = { s.bootView with pair := (askResync s).pair }
    ∧ (askResync s).pair.listening = s.pair.listening ∧ (askResync s).pair.inSync = false := by
  simp only [askResync]
  split
  · exact ⟨rfl, rfl, rfl⟩
  · exact svSend_bootView ..

/-- The hub has its ID and its role (R10, R422), and listens no more. -/
def takeRole (x : Settled) (s : State) : State :=
  let s := { s with hub := { s.hub with hubId := s.bootId } }
  let s := pairUpd (fun p => { p with listening := none, hbOn := s.cfg.active.pairEn }) (setRole x.role s)
  if x.bothPrimary then pairEvent 0x0707 s else s

theorem takeRole_bootView (x : Settled) (s : State) :
    (takeRole x s).bootView = { s.bootView with role := x.role, hubId := s.bootId, pair := (takeRole x s).pair }
      ∧ (takeRole x s).pair.listening = none ∧ (takeRole x s).hub.bootTo = s.hub.bootTo := by
  have hr : ∀ u : State, (setRole x.role u).bootView = { u.bootView with role := x.role, pair := (setRole x.role u).pair }
      ∧ (setRole x.role u).hub.bootTo = u.hub.bootTo := by
    intro u; unfold setRole; split
    next h => exact ⟨by simp [State.bootView, ← h], rfl⟩
    next => exact ⟨rfl, rfl⟩
  obtain ⟨hv, hb⟩ := hr { s with hub := { s.hub with hubId := s.bootId } }
  simp only [takeRole]
  generalize setRole x.role _ = u at *
  simp only [State.bootView, BootView.mk.injEq] at hv
  split <;> simp [State.bootView, pairEvent, pairUpd, hv, hb]

/-- The first reset of the pod dies is set (R456). -/
def setFirstReset (s : State) : State :=
  if s.warp.lock = .locked ∧ s.warp.source = 2 ∧ s.cfg.active.isRoot = false then
    { s with warp := { s.warp with catchUp := some (beatTime s.ahead2ms) } }
  else { s with warp := { s.warp with bootReset := some (beatTime s.ahead2ms) } }

theorem setFirstReset_bootView (s : State) :
    (setFirstReset s).bootView = { s.bootView with warp := (setFirstReset s).warp } := by
  unfold setFirstReset; split <;> rfl

theorem setFirstReset_warp (s : State) :
    let w := (setFirstReset s).warp
    if w.lock = .locked ∧ w.source = 2 ∧ s.cfg.active.isRoot = false then w.catchUp = some (beatTime s.ahead2ms)
    else w.bootReset = some (beatTime s.ahead2ms) := by
  intro w
  by_cases h : s.warp.lock = .locked ∧ s.warp.source = 2 ∧ s.cfg.active.isRoot = false <;> simp [w, setFirstReset, h]

/-- The last steps of BOOT after the alarms of its role: a standby asks for a resync. -/
def askOf (r : Role) (s : State) : State := if r = .standby then askResync s else s

theorem askOf_bootView (r : Role) (s : State) : (askOf r s).bootView = { s.bootView with pair := (askOf r s).pair }
    ∧ (askOf r s).pair.listening = s.pair.listening ∧ (r = .standby → (askOf r s).pair.inSync = false) := by
  unfold askOf
  split
  · exact ⟨(askResync_bootView s).1, (askResync_bootView s).2.1, fun _ => (askResync_bootView s).2.2⟩
  · exact ⟨rfl, rfl, fun h => absurd h ‹_›⟩

/-- The end of BOOT, step by step. -/
theorem endBoot_steps (x : Settled) (s : State) :
    endBoot x s = [1, 2].foldl (fun s d =>
        if (s.pow.domains.get d).wanted && (s.pow.domains.get d).state != 2 then enterFault (.domainLost d) s else s)
      (macFault (setFirstReset (askOf x.role (mirrorAlarm x.mirror (uncertainAlarm x.uncertain (freeLock
        (enterState (takeRole x s).hub.bootTo 0 0 (takeRole x s).clk.loom (takeRole x s)))))))) := rfl

/-- What the end of BOOT leaves (R422, R456). -/
theorem endBoot_bootView (x : Settled) {s : State} (hs : s.hub.state = .boot)
    (hd : s.hub.bootTo = .config ∨ s.hub.bootTo = .ready ∨ s.hub.bootTo = .run) :
    ∃ alarms warp pair,
      (endBoot x s).bootView =
        { state := if s.bootCauses = [] then s.hub.bootTo else .fault, role := x.role, hubId := s.bootId
          causes := s.bootCauses.foldl addCause s.hub.causes, alarms, clk := s.clk, warp, pair, pow := s.pow
          force := s.cfg.force, active := s.cfg.active }
      ∧ alarms.contains 9 = x.uncertain ∧ alarms.contains 8 = x.mirror ∧ pair.listening = none
      ∧ (x.role = .standby → pair.inSync = false)
      ∧ if warp.lock = .locked ∧ warp.source = 2 ∧ s.cfg.active.isRoot = false then warp.catchUp = some (beatTime s.ahead2ms)
        else warp.bootReset = some (beatTime s.ahead2ms) := by
  obtain ⟨hv, hl, hb⟩ := takeRole_bootView x s
  rw [endBoot_steps, hb]
  generalize takeRole x s = a at *
  have hboot : a.hub.state = .boot := (congrArg BootView.state hv).trans hs
  have hm := enterState_bootView (s := a) 0 0 a.clk.loom (new := s.hub.bootTo)
    (by obtain h | h | h := hd <;> simp [hboot, h]) (by simp [hboot]) (by tauto)
  generalize enterState s.hub.bootTo 0 0 a.clk.loom a = b at *
  have hf := freeLock_bootView b
  generalize freeLock b = c at *
  have hu := uncertainAlarm_bootView x.uncertain c
  have hu9 := uncertainAlarm_contains x.uncertain c
  generalize uncertainAlarm x.uncertain c = d at *
  have hi := mirrorAlarm_bootView x.mirror d
  obtain ⟨hi8, hi9⟩ := mirrorAlarm_contains x.mirror d
  generalize mirrorAlarm x.mirror d = e at *
  obtain ⟨hk, hkl, hks⟩ := askOf_bootView x.role e
  generalize askOf x.role e = f at *
  have hr := setFirstReset_bootView f
  have hw := setFirstReset_warp f
  generalize setFirstReset f = g at *
  have hg : g.bootView = { s.bootView with
      state := s.hub.bootTo, role := x.role, hubId := s.bootId, alarms := e.sh.alarms, warp := g.warp, pair := f.pair } := by
    rw [hr, hk, hi, hu, hf, hm, hv]
  have hgs : g.hub.state = s.hub.bootTo := congrArg BootView.state hg
  have hgc : g.hub.causes = s.hub.causes := congrArg BootView.causes hg
  have hfc : f.clk = s.clk := (congrArg BootView.clk hr).symm.trans (congrArg BootView.clk hg)
  have hfa : f.cfg.active = s.cfg.active := (congrArg BootView.active hr).symm.trans (congrArg BootView.active hg)
  have hel : e.pair.listening = none := by
    rw [← hl]
    exact congrArg (fun v : BootView => v.pair.listening) (hi.trans (by rw [hu, hf, hm]))
  have hcauses : g.bootCauses = s.bootCauses := bootCauses_congr (congrArg BootView.pow hg) (congrArg BootView.active hg)
  have hbooted : g.Booted := by unfold State.Booted; rw [hgs]; tauto
  rw [bootFaults_eq hbooted, hcauses]
  refine ⟨e.sh.alarms, g.warp, f.pair, ?_, hi9.trans hu9, hi8, hkl.trans hel, hks, ?_⟩
  · rw [enterFaults_bootView s.bootCauses hbooted, hg, hgs, hgc]
    rfl
  · rw [hfa] at hw
    rwa [show f.ahead2ms = s.ahead2ms by unfold State.ahead2ms; rw [hfc]] at hw

/-- What a BOOT that can end is (R205, R456), as far as XI and the reset go. -/
theorem bootReady_parts {s : State} (h : s.bootReady = true) :
    s.hub.state = .boot ∧ s.hub.inReset = false ∧ s.hub.xiWait = none ∧ s.xiOut = false := by
  simp only [State.bootReady, Bool.and_eq_true, beq_iff_eq, Bool.not_eq_true', Option.isNone_iff_eq_none] at h
  obtain ⟨⟨⟨⟨⟨hs, hr⟩, hx⟩, hc⟩, -⟩, -⟩ := h
  exact ⟨hs, hr, hx, hc⟩

/-- BOOT cannot end while XI is reported absent. -/
theorem bootReady_of_xiOut {s : State} (h : s.xiOut = true) : s.bootReady = false :=
  Bool.eq_false_iff.mpr fun hr => by simp [(bootReady_parts hr).2.2.2] at h

/-- A BOOT that does not wait for XI has it, and the wait has ended. -/
theorem bootWaits_of_xi {s : State} (hx : s.xiOut = false) (hw : s.hub.xiWait = none) : bootWaits s = endXi s := by
  simp [bootWaits, hx, hw]

/-- A command whose meaning has the common form does what its effect leaves, the queue as it was. -/
theorem does_of_act {c : Instr} {s u : State} {t : Nat} {f : State → State} {P : State → Prop} (he : exec c s = act t s f)
    (hf : f (tick t s) = u) (hP : P { u with pending := s.pending }) : Does c s P :=
  ⟨_, he, rfl, hf ▸ hP⟩

/-- A hub that is not held in reset lets the effect happen (R455). -/
theorem unlessReset_of_running {s : State} (h : s.hub.inReset = false) (f : State → State) : unlessReset f s = f s := by
  simp [unlessReset, h]

/-- Such a command answers its effect, where that has kept the queue. -/
theorem exec_of_act {c : Instr} {s u : State} {t : Nat} {f : State → State} (he : exec c s = act t s f)
    (hf : f (tick t s) = u) (hp : u.pending = s.pending) : exec c s = .next u := by
  rw [he, act, hf, ← hp]

/-- BOOT has ended as the role says (R10, R422, R456). -/
def BootEnded (t : Nat) (s : State) (x : Settled) (s' : State) : Prop :=
  let up := (∀ d, d = 1 ∨ d = 2 → (s.pow.domains.get d).wanted = true → (s.pow.domains.get d).state = 2)
    ∧ s.cfg.active.macFits s.macLanes = true
  s'.hub.role = x.role ∧ s'.hub.hubId = s.bootId ∧ s'.pair.listening = none
    ∧ s'.sh.alarms.contains 9 = x.uncertain ∧ s'.sh.alarms.contains 8 = x.mirror
    ∧ (up → s'.hub.state = s.hub.bootTo)
    ∧ (¬ up → s'.hub.state = .fault ∧ (s'.hub.causes.contains (.macLoad (s.pow.used.get 2)) = true
      ∨ ∃ d, (d = 1 ∨ d = 2) ∧ s'.hub.causes.contains (.domainLost d) = true))
    ∧ (if s'.warp.lock = .locked ∧ s'.warp.source = 2 ∧ s.cfg.active.isRoot = false then
        s'.warp.catchUp = some (beatTime (tick t s).ahead2ms)
      else s'.warp.bootReset = some (beatTime (tick t s).ahead2ms))
    ∧ (x.role = .standby → s'.pair.inSync = false) ∧ s'.cfg.force = s.cfg.force ∧ s'.cfg.active = s.cfg.active
    ∧ s'.clk = (tick t s).clk

/-- A cause that BOOT finds is the MAC load or a domain that is not up. -/
theorem bootCauses_cases {s : State} (h : s.bootCauses ≠ []) :
    .macLoad (s.pow.used.get 2) ∈ s.bootCauses ∨ ∃ d, (d = 1 ∨ d = 2) ∧ .domainLost d ∈ s.bootCauses := by
  obtain ⟨c, hc⟩ := List.exists_mem_of_ne_nil _ h
  have hc' := hc
  simp only [State.bootCauses, List.mem_append, List.mem_map, List.mem_filter, List.mem_cons, List.not_mem_nil, or_false] at hc'
  obtain hm | ⟨d, ⟨hd, -⟩, rfl⟩ := hc'
  · split at hm
    · simp at hm
    · rw [List.mem_singleton] at hm
      exact .inl (hm ▸ hc)
  · exact .inr ⟨d, hd, hc⟩

/-- A BOOT whose role is settled, on a state like the one before it but for loom time and the log, has ended as it
says. -/
theorem endBoot_ended (t : Nat) {s u : State} (x : Settled)
    (hd : s.hub.bootTo = .config ∨ s.hub.bootTo = .ready ∨ s.hub.bootTo = .run) (hs : s.hub.state = .boot)
    (hu : u.hub = s.hub ∧ u.pow = s.pow ∧ u.cfg = s.cfg ∧ u.warp = s.warp ∧ u.clk = (tick t s).clk) (q : List Instr) :
    BootEnded t s x { endBoot x u with pending := q } := by
  obtain ⟨hhub, hpow, hcfg, hwarp, hclk⟩ := hu
  obtain ⟨alarms, warp, pair, hv, h9, h8, hl, hsync, hreset⟩ := endBoot_bootView x (s := u) (by rw [hhub, hs]) (by rwa [hhub])
  have hcs : u.bootCauses = s.bootCauses := bootCauses_congr hpow (by rw [hcfg])
  have hid : u.bootId = s.bootId := by unfold State.bootId; rw [hhub, hcfg, hwarp]
  have hat : u.ahead2ms = (tick t s).ahead2ms := by unfold State.ahead2ms; rw [hclk]
  simp only [State.bootView, BootView.mk.injEq, hcs, hid, hhub, hcfg, hclk] at hv
  obtain ⟨vstate, vrole, vid, vcauses, valarms, vclk, vwarp, vpair, -, vforce, vactive⟩ := hv
  rw [hcfg, hat, ← vwarp] at hreset
  refine ⟨vrole, vid, by rw [vpair, hl], by rw [valarms, h9], by rw [valarms, h8], fun up => ?_, fun down => ?_, hreset,
    fun h => by rw [vpair]; exact hsync h, vforce, vactive, vclk⟩
  · exact vstate.trans (if_pos (bootCauses_nil.mpr up))
  · have hne : s.bootCauses ≠ [] := fun h => down (bootCauses_nil.mp h)
    have found : ∀ c ∈ s.bootCauses, (endBoot x u).hub.causes.contains c = true := fun c hc => by
      rw [vcauses, List.contains_iff_mem]
      exact mem_foldl_addCause.mpr (.inr hc)
    exact ⟨vstate.trans (if_neg hne), (bootCauses_cases hne).imp (found _) fun ⟨d, hd, hc⟩ => ⟨d, hd, found _ hc⟩⟩

/-- END_OF_BOOT ends a BOOT whose role is settled. -/
theorem endOfBoot_ends (t : Nat) {s : State} (x : Settled) (hr : s.bootReady = true)
    (hd : s.hub.bootTo = .config ∨ s.hub.bootTo = .ready ∨ s.hub.bootTo = .run)
    (hx : (if s.cfg.active.pairEn then s.settledRole false else some { role := .solo }) = some x) :
    Does (.endOfBoot t) s (BootEnded t s x) := by
  obtain ⟨hs, hreset, hwait, hxi⟩ := bootReady_parts hr
  refine does_of_act (f := unlessReset _) rfl ?_
    (endBoot_ended t x hd hs (u := endXi (tick t s)) ⟨rfl, rfl, rfl, rfl, rfl⟩ s.pending)
  have hr' : (endXi (tick t s)).bootReady = true := hr
  rw [unlessReset_of_running (s := tick t s) hreset, bootWaits_of_xi (s := tick t s) hxi hwait]
  dsimp only
  rw [if_pos hr']
  split at hx
  next hp =>
    have hp' : (endXi (tick t s)).cfg.active.pairEn = true := hp
    have hx' : (endXi (tick t s)).settledRole false = some x := hx
    rw [if_pos hp', hx']
  next hp =>
    have hp' : ¬ (endXi (tick t s)).cfg.active.pairEn = true := hp
    cases hx
    rw [if_neg hp']

/-- JOIN_WAIT_EXPIRY ends a BOOT that has listened long enough. -/
theorem joinWaitExpiry_ends (t : Nat) {s : State} (x : Settled) (l : Nat) (hr : s.bootReady = true)
    (hd : s.hub.bootTo = .config ∨ s.hub.bootTo = .ready ∨ s.hub.bootTo = .run) (hl : s.pair.listening = some l)
    (hw : l + usLoom (s.cfg.active.joinWait * 100000) ≤ (tick t s).clk.loom) (hx : s.settledRole true = some x) :
    Does (.joinWaitExpiry t) s (BootEnded t s x) := by
  refine does_of_act (t := t) (show execJoinWaitExpiry t s = _ from rfl) ?_
    (endBoot_ended t x hd (bootReady_parts hr).1 (u := tick t s) ⟨rfl, rfl, rfl, rfl, rfl⟩ s.pending)
  have hwaited : (tick t s).bootReady = true ∧ l + usLoom ((tick t s).cfg.active.joinWait * 100000) ≤ (tick t s).clk.loom :=
    ⟨hr, hw⟩
  have hx' : (tick t s).settledRole true = some x := hx
  simp only [tick_pair, hl]
  rw [if_pos hwaited, hx']

/-- JOIN_WAIT_EXPIRY does nothing on a hub that does not listen, that cannot end BOOT, or that has not listened long
enough. -/
theorem joinWaitExpiry_same (t : Nat) {s : State}
    (h : ∀ l, s.pair.listening = some l →
      ¬ (s.bootReady = true ∧ l + usLoom (s.cfg.active.joinWait * 100000) ≤ (tick t s).clk.loom)) :
    exec (.joinWaitExpiry t) s = .next (tick t s) := by
  refine exec_of_act (t := t) (show execJoinWaitExpiry t s = _ from rfl) ?_ rfl
  simp only [tick_pair]
  split
  next l hl =>
    have hl' : ¬ ((tick t s).bootReady = true ∧ l + usLoom ((tick t s).cfg.active.joinWait * 100000) ≤ (tick t s).clk.loom) :=
      h l hl
    rw [if_neg hl']
  next => rfl

/-- The partner that is heard is ACTIVE, STANDBY, or SOLO in BOOT or out of it (R422): what is settled, whatever the hub
has waited. -/
theorem settledRole_of_active (w : Bool) {s : State} (hh : s.pair.linkUp = true ∧ s.pair.partner.heard = true)
    (h : s.pair.partner.role = .active) : s.settledRole w = some { role := .standby } := by
  simp [State.settledRole, hh, h]

theorem settledRole_of_standby (w : Bool) {s : State} (hh : s.pair.linkUp = true ∧ s.pair.partner.heard = true)
    (h : s.pair.partner.role = .standby) : s.settledRole w = some { role := .active } := by
  simp [State.settledRole, hh, h]

theorem settledRole_of_booting (w : Bool) {s : State} (hh : s.pair.linkUp = true ∧ s.pair.partner.heard = true)
    (h : s.pair.partner.role = .solo) (hb : s.pair.partner.state = .boot) :
    s.settledRole w = some
      { role := if s.preferred then .active else .standby, bothPrimary := s.hub.rolePri && Config.partnerPrimary } := by
  simp [State.settledRole, hh, h, hb]

theorem settledRole_of_solo (w : Bool) {s : State} (hh : s.pair.linkUp = true ∧ s.pair.partner.heard = true)
    (h : s.pair.partner.role = .solo) (hb : s.pair.partner.state ≠ .boot) :
    s.settledRole w = some (if s.excited then { role := .standby, uncertain := true } else { role := .active }) := by
  simp only [State.settledRole, hh, h, hb, Bool.and_self, if_true, if_false]
  split <;> rfl

/-- Where no partner is heard, the wait decides (R422). -/
theorem settledRole_unheard (w : Bool) {s : State} (h : ¬ (s.pair.linkUp = true ∧ s.pair.partner.heard = true)) :
    s.settledRole w = if w then
        (if s.pair.hbIn then some { role := .standby, mirror := true }
        else if s.excited then some { role := .standby, uncertain := true }
        else some { role := .active })
      else none := by
  unfold State.settledRole
  rw [if_neg (by simpa using h)]

/-- What a BOOT that XI holds up has logged by now: 0x0408 for each second (R456). -/
theorem logXi_counts {s : State} {last : Nat} (h : s.sh.xiFrom = some last) :
    let n := (s.clk.loom - last) / 2 ^ 32
    (logXi s).sh.nextEvent = (s.sh.nextEvent + n) % 2 ^ 32
      ∧ (0 < n → ∃ e, (logXi s).sh.log.head? = some e ∧ e.reason = 0x0408 ∧ e.source = 0)
      ∧ logXi s = { s with sh := { s.sh with
        log := (logXi s).sh.log, nextEvent := (logXi s).sh.nextEvent, xiFrom := some (last + n * 2 ^ 32) } } := by
  simp only [logXi, Shuttle.caughtUp, h]
  refine ⟨trivial, fun hn => ?_, trivial⟩
  obtain ⟨k, hk⟩ := Nat.exists_eq_succ_of_ne_zero (Nat.pos_iff_ne_zero.mp hn)
  rw [hk]
  exact ⟨_, rfl, rfl, rfl⟩

/-- Settles O56: each row of R422 gives END_OF_BOOT or JOIN_WAIT_EXPIRY its role, and the end of BOOT leaves what
`endBoot_ended` says of it. -/
theorem bootEndsInARole : Obligations.BootEndsInARole := by
  intro s t u now p up ends dest heard
  refine ⟨fun hr => ⟨?_, fun hreset => ?_, fun hreset hw hx => ?_⟩, fun hreset hx => ?_, fun last hl => ?_, fun hr hd hp => ?_,
    fun hr hd hp hh => ⟨fun h => ?_, fun h => ?_, fun h hb he => ?_, fun h hb he => ?_, fun h hb => ?_⟩, fun hr hp hh => ?_,
    fun hl => ?_, fun l hl => ⟨fun hw => ?_, fun hw hr hd hh => ⟨fun hi => ?_, fun hi he => ?_, fun hi he => ?_⟩⟩⟩
  · exact joinWaitExpiry_same t fun l _ h => by simp [hr] at h
  · exact exec_of_act (f := unlessReset _) rfl (if_pos hreset) rfl
  · have hr' : (endXi (tick t s)).bootReady = false := hr
    refine exec_of_act (f := unlessReset _) rfl ?_ rfl
    rw [unlessReset_of_running (s := tick t s) hreset, bootWaits_of_xi (s := tick t s) hx hw]
    exact if_neg (by simp [hr'])
  · have hx' : (tick t s).xiOut = true := hx
    have hwaits : bootWaits (tick t s) = logXi (tick t s) := if_pos hx'
    have hb : (logXi (tick t s)).bootReady = false := bootReady_of_xiOut hx
    refine exec_of_act (f := unlessReset _) rfl ?_ rfl
    rw [unlessReset_of_running (s := tick t s) hreset, hwaits]
    exact if_neg (by simp [hb])
  · exact logXi_counts (s := u) hl
  · exact endOfBoot_ends t { role := .solo } hr hd (by simp [hp])
  · exact endOfBoot_ends t { role := .standby } hr hd (by rw [if_pos hp, settledRole_of_active _ hh h])
  · exact endOfBoot_ends t { role := .active } hr hd (by rw [if_pos hp, settledRole_of_standby _ hh h])
  · exact endOfBoot_ends t { role := .active } hr hd (by simp [hp, settledRole_of_solo _ hh h hb, he])
  · exact endOfBoot_ends t { role := .standby, uncertain := true } hr hd (by simp [hp, settledRole_of_solo _ hh h hb, he])
  · exact endOfBoot_ends t _ hr hd ((if_pos hp).trans (settledRole_of_booting _ hh h hb))
  · obtain ⟨-, hreset, hwait, hxi⟩ := bootReady_parts hr
    have hr' : (endXi (tick t s)).bootReady = true := hr
    have hp' : (endXi (tick t s)).cfg.active.pairEn = true := hp
    have hn : (endXi (tick t s)).settledRole false = none := settledRole_unheard false (s := endXi (tick t s)) hh
    refine exec_of_act (f := unlessReset _) rfl ?_ rfl
    rw [unlessReset_of_running (s := tick t s) hreset, bootWaits_of_xi (s := tick t s) hxi hwait]
    dsimp only
    rw [if_pos hr', if_pos hp', hn]
    rfl
  · exact joinWaitExpiry_same t fun l h => by simp [hl] at h
  · exact joinWaitExpiry_same t fun k hk h => by
      obtain rfl : k = l := Option.some.inj (hk.symm.trans hl)
      exact hw h.2
  · exact joinWaitExpiry_ends t { role := .standby, mirror := true } l hr hd hl hw (by simp [settledRole_unheard _ hh, hi])
  · exact joinWaitExpiry_ends t { role := .active } l hr hd hl hw (by simp [settledRole_unheard _ hh, hi, he])
  · exact joinWaitExpiry_ends t { role := .standby, uncertain := true } l hr hd hl hw
      (by simp [settledRole_unheard _ hh, hi, he])

end Sys2Proof.Machine

/-! SUPPORT. Output samples (O38): what reading the store leaves alone, the flags of a sample, where a sample goes, and
OUTPUT_SAMPLE assembled from them. -/

namespace Sys2Proof.Machine

open Sys2Proof

/-! ### Reading the store (R402 to R404) -/

/-- What a sample is formed from, which reading the store leaves as it is. -/
structure FormView where
  filt : Filt
  hed : Heddle
  hub : Hub
  clk : Clocks
  active : PMem
  past : List (Nat × PMem)
  tT : Option Nat

/-- That part of a state. -/
def State.formView (s : State) : FormView :=
  { filt := s.filt, hed := s.hed, hub := s.hub, clk := s.clk, active := s.cfg.active, past := s.cfg.past
    tT := s.pair.tT }

theorem emitSv_formView (e : Emission) (s : State) : (emitSv e s).formView = s.formView := by
  unfold emitSv
  split <;> rfl

theorem emitDelta_formView (s : State) (d : Delta) : (emitDelta s d).formView = s.formView := emitSv_formView ..

theorem sendDelta_formView (c : Change) (due : Nat) (s : State) : (sendDelta c due s).formView = s.formView := by
  unfold sendDelta
  split
  · split
    · rfl
    · exact emitDelta_formView _ _
  · rfl

theorem stageOwn_formView (c : Change) (s : State) : (stageOwn c s).formView = s.formView := sendDelta_formView ..

theorem seedAlarm_formView (part : Nat) (s : State) : (seedAlarm part s).formView = s.formView := by
  simp [State.formView, seedAlarm]

theorem partWorn_formView (kind pod idx : Nat) (s : State) : (partWorn kind pod idx s).formView = s.formView := by
  unfold partWorn
  split
  · rfl
  · dsimp only
    split
    · exact seedAlarm_formView ..
    · split
      · exact stageOwn_formView ..
      · rfl

theorem badCodeword_formView (index : Nat) (s : State) : (badCodeword index s).formView = s.formView :=
  partWorn_formView ..

theorem rowCheck_formView (s : State) (row : Nat) : (rowCheck s row).formView = s.formView := by
  unfold rowCheck
  split
  · exact partWorn_formView ..
  · rfl

theorem readCode_formView (x : Nat × Bytes) (s : State) : (readCode x s).2.formView = s.formView := by
  unfold readCode
  split
  · rfl
  · split
    · exact rowCheck_formView ..
    · exact badCodeword_formView ..

/-- A codeword of the store that cannot be corrected (R402). -/
def uncorrectable (x : Nat × Bytes) : Bool := !(codeValid x.2) && (rsDecode x.2).isNone

/-- A codeword is good unless it cannot be corrected. -/
theorem readCode_good (x : Nat × Bytes) (s : State) : (readCode x s).1 = !uncorrectable x := by
  unfold readCode
  split
  · simp [uncorrectable, *]
  · split <;> simp [uncorrectable, *]

theorem foldl_readCode (reads : List (Nat × Bytes)) (p : Bool × State) :
    let r := reads.foldl (fun gs x => let (g, s) := readCode x gs.2; (gs.1 && g, s)) p
    r.1 = (p.1 && !(reads.any uncorrectable)) ∧ r.2.formView = p.2.formView
      ∧ ((∀ x ∈ reads, codeValid x.2 = true) → r.2 = p.2) := by
  induction reads generalizing p with
  | nil => simp
  | cons x l ih =>
    obtain ⟨hg, hv, hs⟩ := ih (p.1 && (readCode x p.2).1, (readCode x p.2).2)
    refine ⟨hg.trans ?_, hv.trans (readCode_formView x p.2), fun h => ?_⟩
    · simp [readCode_good, Bool.and_assoc]
    · have hx : readCode x p.2 = (true, p.2) := by simp [readCode, h x (by simp)]
      exact (hs fun y hy => h y (List.mem_cons_of_mem x hy)).trans (by rw [hx])

/-- The data of a use is good where each of its codewords is, -/
theorem readStore_good (reads : List (Nat × Bytes)) (s : State) :
    (readStore reads s).1 = !(reads.any uncorrectable) :=
  (foldl_readCode reads (true, s)).1.trans (Bool.true_and _)

/-- and its reading leaves what a sample is formed from, -/
theorem readStore_formView (reads : List (Nat × Bytes)) (s : State) : (readStore reads s).2.formView = s.formView :=
  (foldl_readCode reads (true, s)).2.1

/-- and the whole state where no codeword has an error. -/
theorem readStore_valid {reads : List (Nat × Bytes)} (s : State) (h : ∀ x ∈ reads, codeValid x.2 = true) :
    (readStore reads s).2 = s :=
  (foldl_readCode reads (true, s)).2.2 h

/-! ### The channel that a sample is formed on -/

/-- The fields of a channel that its next sample's instant, gaps and tests are read from. -/
structure ChanView where
  lastTau : Option Int
  since : Nat
  tests : List (Nat × Option Nat × Nat)
  gaps : List (Nat × Option Nat)
  skipped : List (Nat × Nat)

/-- Those of a channel. -/
def Chan.view (c : Chan) : ChanView :=
  { lastTau := c.lastTau, since := c.since, tests := c.tests, gaps := c.gaps, skipped := c.skipped }

theorem beginEntry_view (c : Chan) (e : Entry) : (beginEntry c e).view = c.view := by
  unfold beginEntry
  cases c.recovery <;> rfl

theorem takeEntries_view (c : Chan) (grid : Nat) (tau : Int) : (takeEntries c grid tau).1.view = c.view := by
  have fold_view : ∀ (l : List Entry) (p : Chan × Bool),
      (l.foldl (fun (cs : Chan × Bool) e => ((if e.recover then beginEntry cs.1 e else cs.1), cs.2 || e.step)) p).1.view
        = p.1.view := by
    intro l
    induction l with
    | nil => exact fun _ => rfl
    | cons e r ih =>
      intro p
      refine (ih _).trans ?_
      dsimp only
      split
      · exact beginEntry_view _ _
      · rfl
  exact fold_view _ _

theorem placeSample_view (c : Chan) (fadeLen : Nat) (held : Bool) (tau : Int) (loom formAt : Nat) :
    (placeSample c fadeLen held tau loom formAt).2.2.view = c.view := by
  unfold placeSample
  split
  · rfl
  · dsimp only
    split
    · rfl
    · split
      · rfl
      · split <;> split <;> rfl

theorem place_view (s : State) (m : PMem) (ch grid : Nat) (tau : Int) (c : Chan) : (s.place m ch grid tau c).chan.view = c.view := by
  unfold State.place
  dsimp only
  split <;> split <;> exact placeSample_view ..

/-- What has been lost and what is under test follow from those fields. -/
theorem lostAt_of_view {c d : Chan} (h : c.view = d.view) (grid : Nat) (tau : Int) : c.lostAt grid tau = d.lostAt grid tau := by
  have hg : c.gaps = d.gaps := congrArg ChanView.gaps h
  have hs : c.skipped = d.skipped := congrArg ChanView.skipped h
  unfold Chan.lostAt
  rw [hg, hs]

/-! ### Its flags (R12) -/

@[simp] theorem nbit_or (a b k : Nat) : nbit (a ||| b) k = (nbit a k || nbit b k) := Nat.testBit_or a b k

@[simp] theorem nbit_flagIf (on : Bool) (f k : Nat) : nbit (flagIf on f) k = (on && nbit f k) := by
  cases on <;> simp [flagIf, nbit]

/-- The flags byte keeps the low eight bits of what goes into it. -/
theorem nbit_flags (f : Nat) {k : Nat} (hk : k < 8) : nbit (BitVec.ofNat 8 f).toNat k = nbit f k := by
  rw [BitVec.toNat_ofNat]
  simp only [nbit, Nat.testBit_mod_two_pow, hk, decide_true, Bool.true_and]

/-- Flags without ADJ and SUBST. -/
abbrev Unmarked (f : Nat) : Prop := nbit f 4 = false ∧ nbit f 1 = false

theorem Unmarked.or {a b : Nat} (ha : Unmarked a) (hb : Unmarked b) : Unmarked (a ||| b) := by
  simp [Unmarked, ha.1, ha.2, hb.1, hb.2]

/-- A place in a recovery gives UNS, SYNR and PATH at most. -/
theorem placeSample_unmarked (c : Chan) (fadeLen : Nat) (held : Bool) (tau : Int) (loom formAt : Nat) :
    Unmarked (placeSample c fadeLen held tau loom formAt).2.1 := by
  have flags : ∀ (a b : Bool), Unmarked (fPATH + (if a then fUNS else 0) + (if b then fSYNR else 0)) := by
    decide
  have marks : ∀ r : Recovery, Unmarked (fPATH + (if tau < r.tRS then fUNS else 0) + (match r.tSync with
      | some b => if tau < b then fSYNR else 0
      | none => 0)) := by
    intro r
    cases r.tSync with
    | none => simpa using flags (decide (tau < r.tRS)) false
    | some b => simpa using flags (decide (tau < r.tRS)) (decide (tau < b))
  unfold placeSample
  split
  · exact (by decide : Unmarked 0)
  next r _ =>
    dsimp only
    split
    · exact marks r
    · split
      · exact marks r
      · split <;> split <;> exact marks r

theorem place_unmarked (s : State) (m : PMem) (ch grid : Nat) (tau : Int) (c : Chan) :
    Unmarked (s.place m ch grid tau c).flags := by
  unfold State.place
  dsimp only
  split <;> split
  · exact (placeSample_unmarked ..).or (by decide)
  · exact placeSample_unmarked ..
  · exact (placeSample_unmarked ..).or (by decide)
  · exact placeSample_unmarked ..

/-- Forming the engineering value gives UNS, OVR and LEAD at most. -/
theorem formEng_unmarked (s : State) (m : PMem) (ch grid : Nat) (ovr : Option Bool) (lead : Bool) (w : Int) :
    Unmarked (s.formEng m ch grid ovr lead w).flags := by
  have huns : ∀ (cj : Option (Word × Byte × Nat)) (b : Bool), Unmarked (match cj with
      | some (_, f, _) => if b && nbit f.toNat 7 then fUNS else 0
      | none => 0) := by
    intro cj b
    obtain _ | ⟨_, f, _⟩ := cj
    · exact (by decide : Unmarked 0)
    · dsimp only
      split <;> decide
  have either : ∀ (b : Bool) (x y : Formed), Unmarked x.flags → Unmarked y.flags → Unmarked (if b then x else y).flags := by
    intro b x y hx hy
    cases b
    · exact hy
    · exact hx
  refine either _ _ _ (huns _ _) (either _ _ _ ((huns _ _).or (by decide)) ?_)
  cases ovr with
  | some pos => exact huns _ _
  | none =>
    dsimp only
    split
    · exact (huns _ _).or (by decide)
    next x _ =>
      split
      · exact (huns _ _).or (by decide)
      · exact (huns _ _).or (by decide)
      · exact (huns _ _).or (by decide)
      · exact (huns _ _).or (by decide)
      next f _ =>
        dsimp only
        split
        · exact (huns _ _).or (by decide)
        · exact huns _ _

/-! ### Where a sample goes -/

/-- What delivering a sample of a channel that no test has leaves alone: of the state all but Shuttle's jobs, the
Treadle, the open frames and that channel. -/
structure FeedsOnly (ch : Nat) (s s' : State) : Prop where
  clk : s'.clk = s.clk
  hub : s'.hub = s.hub
  cfg : s'.cfg = s.cfg
  hed : s'.hed = s.hed
  conv : s'.conv = s.conv
  warp : s'.warp = s.warp
  cal : s'.cal = s.cal
  drv : s'.drv = s.drv
  itg : s'.itg = s.itg
  pair : s'.pair = s.pair
  pow : s'.pow = s.pow
  chans : ∀ n, n ≠ ch → s'.filt.chans.get n = s.filt.chans.get n

theorem FeedsOnly.trans {ch : Nat} {s u v : State} (a : FeedsOnly ch s u) (b : FeedsOnly ch u v) : FeedsOnly ch s v :=
  ⟨b.clk.trans a.clk, b.hub.trans a.hub, b.cfg.trans a.cfg, b.hed.trans a.hed, b.conv.trans a.conv, b.warp.trans a.warp,
    b.cal.trans a.cal, b.drv.trans a.drv, b.itg.trans a.itg, b.pair.trans a.pair, b.pow.trans a.pow,
    fun n h => (b.chans n h).trans (a.chans n h)⟩

theorem chanUpd_feedsOnly (ch : Nat) (f : Chan → Chan) (s : State) : FeedsOnly ch s (chanUpd ch f s) :=
  ⟨rfl, rfl, rfl, rfl, rfl, rfl, rfl, rfl, rfl, rfl, rfl, fun _ h => Tab.get_upd_other _ _ h⟩

/-- A change of no part but Shuttle's, the Treadle's and the frames'. -/
theorem feedsOnly_of_eq {ch : Nat} {s s' : State} {sh : Shuttle} {trd : Treadle} {weft : Weft}
    (h : s' = { s with sh, trd, weft }) : FeedsOnly ch s s' := by
  subst h
  exact ⟨rfl, rfl, rfl, rfl, rfl, rfl, rfl, rfl, rfl, rfl, rfl, fun _ _ => rfl⟩

theorem putResult_treadle (c : Nat) (now : Bool) (grid : Nat) (s : State) :
    ∃ trd, putResult c now grid s = { s with trd } := by
  unfold putResult
  dsimp only
  split
  · exact ⟨_, rfl⟩
  · split <;> exact ⟨_, rfl⟩

theorem feedComp_treadle (m : PMem) (ch : Nat) (x : Sample) (s : State) (c : Nat) :
    ∃ trd, feedComp m ch x s c = { s with trd } := by
  unfold feedComp
  dsimp only
  split
  · obtain ⟨trd, h⟩ := putResult_treadle c _ x.t s
    exact ⟨_, by rw [h]; rfl⟩
  · split
    · obtain ⟨trd, h⟩ := putResult_treadle c false x.t s
      exact ⟨_, by rw [h]; rfl⟩
    · exact ⟨_, rfl⟩

theorem feedComps_treadle (m : PMem) (ch : Nat) (x : Sample) (s : State) : ∃ trd, feedComps m ch x s = { s with trd } := by
  unfold feedComps
  induction List.range 32 generalizing s with
  | nil => exact ⟨_, rfl⟩
  | cons c r ih =>
    obtain ⟨a, ha⟩ := feedComp_treadle m ch x s c
    obtain ⟨b, hb⟩ := ih (feedComp m ch x s c)
    exact ⟨b, by rw [List.foldl_cons, hb, ha]⟩

/-- A sample that is spread changes the Treadle and the open frames. -/
theorem spreadSample_parts (m : PMem) (ch : Nat) (x : Sample) (s : State) :
    ∃ trd weft, spreadSample m ch x s = { s with trd, weft } := by
  obtain ⟨trd, h⟩ := feedComps_treadle m ch x s
  unfold spreadSample feedStreams
  rw [h]
  split <;> exact ⟨_, _, rfl⟩

/-- A sample of a channel that no test has at its instant feeds none. -/
theorem feedTests_of_untested {m : PMem} {ch : Nat} {tau u : Int} {x : Sample} {s : State}
    (h : ∀ y ∈ (s.chan ch).tests, y.2.1 = none → tau < y.1) : feedTests m ch tau u x s = s := by
  unfold feedTests
  refine if_neg ?_
  simp only [List.any_eq_true, Bool.and_eq_true, Option.isNone_iff_eq_none, decide_eq_true_eq]
  rintro ⟨y, hy, hn, hle⟩
  exact absurd (h y hy hn) (by omega)

/-! ### What a channel shows of its newest sample -/

/-- The newest sample delivered, with its instants. -/
structure Shown where
  delivered : Option Nat
  lastTau : Option Int
  newest : Option Sample

def Chan.shown (c : Chan) : Shown := { delivered := c.delivered, lastTau := c.lastTau, newest := c.recent.head? }

theorem registerEvent_shown (epoch : Nat) (e : EventOf) (c : Chan) : (registerEvent epoch e c).shown = c.shown := by
  have begins : ∀ at_ : Nat, (if e.cond.isNone then c.reedBegins at_ else c).shown = c.shown := by
    intro at_
    unfold Chan.reedBegins
    split
    · split <;> rfl
    · rfl
  unfold registerEvent
  dsimp only
  cases e.zeroed <;> exact begins _

theorem eventNow_shown (s : State) (ch mode : Nat) (first : Int) (tE : Nat) (chain : Bool) (c : Chan) :
    (eventNow s ch mode first tE chain c).shown = c.shown := by
  unfold eventNow
  split
  · rfl
  · exact registerEvent_shown ..

theorem chan_chanUpd (ch : Nat) (f : Chan → Chan) (s : State) : (chanUpd ch f s).chan ch = f (s.chan ch) :=
  Tab.get_upd_same ..

theorem chan_chanUpd_other {ch n : Nat} (f : Chan → Chan) (s : State) (h : n ≠ ch) : (chanUpd ch f s).chan n = s.chan n :=
  Tab.get_upd_other _ _ h

theorem eventOn_shown (ch mode : Nat) (first : Int) (tE : Nat) (chain : Bool) (s : State) :
    ((eventOn ch mode first tE chain s).chan ch).shown = (s.chan ch).shown := by
  unfold eventOn
  rw [chan_chanUpd, eventNow_shown]

/-! ### The slots that a test has return -/

theorem chanUpd_delivered (ch : Nat) {f : Chan → Chan} (s : State) (h : (f (s.chan ch)).delivered = (s.chan ch).delivered)
    (n : Nat) : ((chanUpd ch f s).chan n).delivered = (s.chan n).delivered := by
  by_cases hn : n = ch
  · rw [hn, chan_chanUpd, h]
  · rw [chan_chanUpd_other f s hn]

theorem registerEvent_delivered (epoch : Nat) (e : EventOf) (c : Chan) : (registerEvent epoch e c).delivered = c.delivered :=
  congrArg Shown.delivered (registerEvent_shown epoch e c)

theorem testEdge_delivered (ch : Nat) (s : State) (n : Nat) : ((testEdge ch s).chan n).delivered = (s.chan n).delivered := by
  unfold testEdge
  dsimp only
  refine (chanUpd_delivered ch _ ?_ n).trans rfl
  split
  · rfl
  · exact registerEvent_delivered ..

/-- A slot that returns keeps the grid instant that was delivered last, of its own channel and of every other. -/
theorem returnSlot_delivered (s : State) (ch n : Nat) : ((returnSlot s ch).chan n).delivered = (s.chan n).delivered := by
  unfold returnSlot
  dsimp only
  split
  · exact (testEdge_delivered ch _ n).trans (chanUpd_delivered ch s rfl n)
  · exact chanUpd_delivered ch s rfl n

theorem grant_filt (sc : Nat) (s : State) : (grant sc s).filt = s.filt := by
  have placed : (placeTap sc s).filt = s.filt := by
    unfold placeTap
    dsimp only
    split
    · rfl
    · split
      · rfl
      · split <;> rfl
  unfold grant
  split
  · rfl
  · dsimp only
    split <;> exact placed

theorem request_filt (sc : Nat) (r : ScRequest) (s : State) : (request sc r s).filt = s.filt := grant_filt ..

/-- A sample that feeds a test, whose end returns slots, leaves what each channel has delivered. -/
theorem feedTests_delivered (m : PMem) (ch : Nat) (tau u : Int) (x : Sample) (s : State) (n : Nat) :
    ((feedTests m ch tau u x s).chan n).delivered = (s.chan n).delivered := by
  unfold feedTests
  split
  · dsimp only
    refine (foldl_view (fun v => (v.chan n).delivered) returnSlot (fun v c => returnSlot_delivered v c n) _ _).trans ?_
    exact congrArg (fun f : Filt => (f.chans.get n).delivered)
      (foldl_view State.filt _ (fun v q => request_filt ..) _ _)
  · rfl

/-! ### Output samples (R160) -/

/-- A sample reaches its channel, the bridge-zero jobs, the tests, the comparators, the bobbins and the streams. -/
theorem spread_delivered (m : PMem) (ch grid : Nat) (tau u w : Int) (x x' : Sample) (f : Nat) (c : Chan) (s : State) :
    ((spreadSample m ch x (feedTests m ch tau u x' (feedBridge m ch grid w f (chanUpd ch (fun _ => c) s)))).chan ch).delivered
      = c.delivered := by
  obtain ⟨trd, weft, h⟩ := spreadSample_parts m ch x (feedTests m ch tau u x' (feedBridge m ch grid w f (chanUpd ch (fun _ => c) s)))
  rw [h]
  refine (feedTests_delivered m ch tau u x' _ ch).trans ?_
  exact congrArg Chan.delivered (chan_chanUpd ch (fun _ => c) s)

/-- Where no test has the channel, it changes nothing else, and the channel is as it was delivered to. -/
theorem spread_untested (m : PMem) {ch : Nat} (grid : Nat) {tau : Int} (u w : Int) (x x' : Sample) (f : Nat) {c : Chan}
    (s : State) (h : ∀ y ∈ c.tests, y.2.1 = none → tau < y.1) :
    let s' := spreadSample m ch x (feedTests m ch tau u x' (feedBridge m ch grid w f (chanUpd ch (fun _ => c) s)))
    FeedsOnly ch s s' ∧ s'.chan ch = c := by
  have hc : (chanUpd ch (fun _ => c) s).chan ch = c := chan_chanUpd ch (fun _ => c) s
  have hf : feedTests m ch tau u x' (feedBridge m ch grid w f (chanUpd ch (fun _ => c) s))
      = feedBridge m ch grid w f (chanUpd ch (fun _ => c) s) :=
    feedTests_of_untested fun y hy => h y (hc ▸ hy)
  obtain ⟨trd, weft, hs⟩ := spreadSample_parts m ch x (feedBridge m ch grid w f (chanUpd ch (fun _ => c) s))
  dsimp only
  rw [hf, hs]
  exact ⟨(chanUpd_feedsOnly ch _ s).trans (feedsOnly_of_eq rfl), hc⟩

theorem eventOn_feedsOnly (ch mode : Nat) (first : Int) (tE : Nat) (chain : Bool) (s : State) :
    FeedsOnly ch s (eventOn ch mode first tE chain s) := chanUpd_feedsOnly ..

/-- The signal instant of a sample (R33, R184). -/
abbrev State.tauAt (s : State) (ch grid : Nat) : Int :=
  (fineOf grid : Int) - fineOf ((s.cfgAt grid).phase ch) + (s.chan ch).shift grid

/-- The sample formed at a grid instant, its data there. -/
def State.formedAt (s : State) (ch grid : Nat) : Sample × Nat × Int :=
  let c := takeEntries (s.chan ch) grid (s.tauAt ch grid)
  s.formSample (s.cfgAt grid) ch grid (s.tauAt ch grid) c.2 (s.place (s.cfgAt grid) ch grid (s.tauAt ch grid) c.1)

/-- The sample that a grid instant gets (R404): filled where its data is lost. -/
def State.sampleAt (s : State) (ch grid : Nat) (lost : Bool) : Sample :=
  if lost || (s.chan ch).lostAt grid (s.tauAt ch grid) then { s.fillSample grid with flags := fillFlags s.substNow }
  else (s.formedAt ch grid).1

/-- What OUTPUT_SAMPLE does: the sample is delivered to its channel and spread; one that the store has lost is an event
of the channel besides (R161). -/
theorem outputSample_cases (ch grid : Nat) (lost : Bool) (s : State) : ∃ (c : Chan) (u w : Int) (x : Sample) (f : Nat),
    c.shown = { delivered := some grid, lastTau := some (s.tauAt ch grid), newest := some (s.sampleAt ch grid lost) }
      ∧ (∀ y ∈ c.tests, y ∈ (s.chan ch).tests)
      ∧ let s' := spreadSample (s.cfgAt grid) ch (s.sampleAt ch grid lost) (feedTests (s.cfgAt grid) ch (s.tauAt ch grid) u x
          (feedBridge (s.cfgAt grid) ch grid w f (chanUpd ch (fun _ => c) s)))
        outputSample ch grid lost s = s' ∨ ∃ first tE, outputSample ch grid lost s = eventOn ch 1 first tE true s' := by
  have hv : (takeEntries (s.chan ch) grid (s.tauAt ch grid)).1.view = (s.chan ch).view := takeEntries_view ..
  have ht : (takeEntries (s.chan ch) grid (s.tauAt ch grid)).1.tests = (s.chan ch).tests := congrArg ChanView.tests hv
  have hl := lostAt_of_view hv grid (s.tauAt ch grid)
  unfold State.sampleAt outputSample
  dsimp only
  rw [← hl]
  by_cases h : (lost || (takeEntries (s.chan ch) grid (s.tauAt ch grid)).1.lostAt grid (s.tauAt ch grid)) = true
  · rw [if_pos h, if_pos h]
    let x := { s.fillSample grid with flags := fillFlags s.substNow }
    refine ⟨(takeEntries (s.chan ch) grid (s.tauAt ch grid)).1.deliver x (s.tauAt ch grid), 0, 0,
      { x with flags := 0xFF }, x.flags.toNat, rfl, fun y hy => ?_, ?_⟩
    · exact ht ▸ (List.mem_filter.mp hy).1
    · split
      · exact .inr ⟨_, _, rfl⟩
      · exact .inl rfl
  · rw [if_neg h, if_neg h]
    have hx : (s.formedAt ch grid).1.t = grid := rfl
    have hp : (s.place (s.cfgAt grid) ch grid (s.tauAt ch grid) (takeEntries (s.chan ch) grid (s.tauAt ch grid)).1).chan.tests
        = (s.chan ch).tests := congrArg ChanView.tests ((place_view ..).trans hv)
    unfold State.formedAt at hx ⊢
    dsimp only at hx ⊢
    unfold State.tauAt at hx hp ⊢
    generalize s.formSample _ ch grid _ _ _ = q at hx ⊢
    generalize s.place _ ch grid _ _ = p at hp ⊢
    obtain ⟨x, k, w⟩ := q
    refine ⟨{ p.chan.deliver x (s.tauAt ch grid) with
      clamps := sat16 (p.chan.clamps + k), cj := s.coldJunction (s.cfgAt grid) ch grid },
      p.word, w, x, x.flags.toNat, ?_, fun y hy => hp ▸ (List.mem_filter.mp hy).1, .inl rfl⟩
    rw [← hx]
    rfl

/-- The grid instant of a sample is delivered, whatever test it ends. -/
theorem outputSample_delivered (ch grid : Nat) (lost : Bool) (s : State) :
    ((outputSample ch grid lost s).chan ch).delivered = some grid := by
  obtain ⟨c, u, w, x, f, hc, -, h | ⟨first, tE, h⟩⟩ := outputSample_cases ch grid lost s
  · rw [h]
    exact (spread_delivered ..).trans (congrArg Shown.delivered hc)
  · rw [h]
    exact (congrArg Shown.delivered (eventOn_shown ..)).trans ((spread_delivered ..).trans (congrArg Shown.delivered hc))

/-- A sample of a channel that no test has changes that channel, and what it is delivered to; the channel shows it. -/
theorem outputSample_untested {ch grid : Nat} (lost : Bool) {s : State}
    (ht : ∀ y ∈ (s.chan ch).tests, y.2.1 = none → s.tauAt ch grid < y.1) :
    FeedsOnly ch s (outputSample ch grid lost s)
      ∧ ((outputSample ch grid lost s).chan ch).shown
        = { delivered := some grid, lastTau := some (s.tauAt ch grid), newest := some (s.sampleAt ch grid lost) } := by
  obtain ⟨c, u, w, x, f, hc, hy, h⟩ := outputSample_cases ch grid lost s
  obtain ⟨hf, hs⟩ := spread_untested (s.cfgAt grid) grid u w (s.sampleAt ch grid lost) x f s fun y hm => ht y (hy y hm)
  obtain h | ⟨first, tE, h⟩ := h
  · rw [h]
    exact ⟨hf, (congrArg Chan.shown hs).trans hc⟩
  · rw [h]
    exact ⟨hf.trans (eventOn_feedsOnly ..), (eventOn_shown ..).trans ((congrArg Chan.shown hs).trans hc)⟩

/-- The flags byte of a formed sample names its conditions (R12). -/
theorem formedFlags_bits {base eng : Nat} (hb : Unmarked base) (he : Unmarked eng) (ovr lead adj step subst : Bool) :
    let f := (formedFlags base eng ovr lead adj step subst).toNat
    nbit f 1 = subst ∧ nbit f 4 = adj ∧ (lead = true → nbit f 5 = true) ∧ (ovr = true → nbit f 6 = true) := by
  have hOVR : nbit fOVR 1 = false ∧ nbit fOVR 4 = false ∧ nbit fOVR 6 = true := by decide
  have hLEAD : nbit fLEAD 1 = false ∧ nbit fLEAD 4 = false ∧ nbit fLEAD 5 = true := by decide
  have hADJ : nbit fADJ 1 = false ∧ nbit fADJ 4 = true := by decide
  have hSTEP : nbit fSTEP 1 = false ∧ nbit fSTEP 4 = false := by decide
  have hSUBST : nbit fSUBST 1 = true ∧ nbit fSUBST 4 = false := by decide
  refine ⟨?_, ?_, ?_, ?_⟩ <;> rw [formedFlags, nbit_flags _ (by decide)]
  · simp [hb, he, hOVR, hLEAD, hADJ, hSTEP, hSUBST]
  · simp [hb, he, hOVR, hLEAD, hADJ, hSTEP, hSUBST]
  · rintro rfl
    simp [hLEAD]
  · rintro rfl
    simp [hOVR]

/-- The flags of a formed sample name the conditions at its signal instant (R12, R106, R107, R432), and one in an
overrange has the raw value of its sign. -/
theorem formSample_flags (s : State) (m : PMem) (ch grid : Nat) (tau : Int) (step : Bool) {p : Placed} (hp : Unmarked p.flags) :
    let x := (s.formSample m ch grid tau step p).1
    nbit x.flags.toNat 1 = s.substNow ∧ nbit x.flags.toNat 4 = s.adjAt (s.runMap m ch tau) ch tau
      ∧ (s.leadAt ch tau = true → nbit x.flags.toNat 5 = true)
      ∧ ∀ o, ovrSpan (s.hed.ovr.get ch) tau p.chan.lastTau p.chan.since = some o →
        nbit x.flags.toNat 6 = true ∧ x.raw = if o.positive then 0x007FFFFF#32 else 0xFF800000#32 := by
  obtain ⟨hsubst, hadj, hlead, hovr⟩ := formedFlags_bits hp (formEng_unmarked s (s.runMap m ch tau) ch grid
    ((ovrSpan (s.hed.ovr.get ch) tau p.chan.lastTau p.chan.since).map (·.positive)) (s.leadAt ch tau)
    (s.corrected (s.runMap m ch tau) ch grid p.word)) (ovrSpan (s.hed.ovr.get ch) tau p.chan.lastTau p.chan.since).isSome
    (s.leadAt ch tau) (s.adjAt (s.runMap m ch tau) ch tau) step s.substNow
  refine ⟨hsubst, hadj, hlead, fun o ho => ⟨hovr (Option.isSome_of_eq_some ho), ?_⟩⟩
  simp only [State.formSample, ho]

/-! ### What a sample carries -/

/-- The conditions at the signal instant of a grid instant's sample. -/
structure Conditions where
  tau : Int
  lost : Bool
  ovr : Option OvrSpan
  lead : Bool
  adj : Bool
  subst : Bool

/-- Those that a state gives. -/
def State.conditions (s : State) (ch grid : Nat) : Conditions :=
  let tau := s.tauAt ch grid
  { tau, lost := (s.chan ch).lostAt grid tau
    ovr := ovrSpan (s.hed.ovr.get ch) tau (s.chan ch).lastTau (s.chan ch).since, lead := s.leadAt ch tau
    adj := s.adjAt (s.runMap (s.cfgAt grid) ch tau) ch tau, subst := s.substNow }

/-- A state with what samples are formed from as given. -/
def FormView.state (v : FormView) : State :=
  { State.reset with
    filt := v.filt, hed := v.hed, hub := v.hub, clk := v.clk
    cfg := { State.reset.cfg with active := v.active, past := v.past }, pair := { State.reset.pair with tT := v.tT } }

/-- They are read from what reading the store leaves as it is. -/
theorem conditions_formView (s : State) (ch grid : Nat) : s.conditions ch grid = s.formView.state.conditions ch grid := rfl

/-- A sample under those conditions carries its values and flags (R12, R106, R107, R404, R405, R432). -/
def Conditions.Carried (k : Conditions) (lost : Bool) (x : Sample) : Prop :=
  nbit x.flags.toNat 1 = k.subst
    ∧ (lost = true ∨ k.lost = true → x.raw = 0#32 ∧ x.eng = 0x7FC00003#32 ∧ x.flags = if k.subst then 0x8A#8 else 0x88#8)
    ∧ (lost = false → k.lost = false →
      (∀ o, k.ovr = some o → nbit x.flags.toNat 6 = true ∧ x.raw = if o.positive then 0x007FFFFF#32 else 0xFF800000#32)
        ∧ (k.lead = true → nbit x.flags.toNat 5 = true) ∧ nbit x.flags.toNat 4 = k.adj)

theorem fillFlags_eq (subst : Bool) : fillFlags subst = if subst then 0x8A#8 else 0x88#8 := by
  cases subst <;> rfl

theorem fillFlags_subst (subst : Bool) : nbit (fillFlags subst).toNat 1 = subst := by
  cases subst <;> decide

theorem sampleAt_grid (s : State) (ch grid : Nat) (lost : Bool) : (s.sampleAt ch grid lost).t = grid := by
  unfold State.sampleAt
  split <;> rfl

/-- The sample of a grid instant carries what its conditions ask, a fill sample where its data is lost. -/
theorem sampleAt_carried (s : State) (ch grid : Nat) (lost : Bool) :
    (s.conditions ch grid).Carried lost (s.sampleAt ch grid lost) := by
  have hv := (place_view s (s.cfgAt grid) ch grid (s.tauAt ch grid) _).trans (takeEntries_view (s.chan ch) grid (s.tauAt ch grid))
  have hlast := congrArg ChanView.lastTau hv
  have hsince := congrArg ChanView.since hv
  unfold State.sampleAt
  split
  next h =>
    have h' : lost = true ∨ (s.conditions ch grid).lost = true := (Bool.or_eq_true ..).mp h
    refine ⟨fillFlags_subst _, fun _ => ⟨rfl, rfl, fillFlags_eq _⟩, fun hl hk => ?_⟩
    simp [hl, hk] at h'
  next h =>
    have h' : ¬ (lost = true ∨ (s.conditions ch grid).lost = true) := fun hf => h ((Bool.or_eq_true ..).mpr hf)
    obtain ⟨hsubst, hadj, hlead, hovr⟩ := formSample_flags s (s.cfgAt grid) ch grid (s.tauAt ch grid)
      (takeEntries (s.chan ch) grid (s.tauAt ch grid)).2
      (place_unmarked s (s.cfgAt grid) ch grid (s.tauAt ch grid) (takeEntries (s.chan ch) grid (s.tauAt ch grid)).1)
    refine ⟨hsubst, fun hf => absurd hf h', fun _ _ => ⟨fun o ho => hovr o ?_, hlead, hadj⟩⟩
    exact (congrArg₂ (ovrSpan (s.hed.ovr.get ch) (s.tauAt ch grid)) hlast hsince).trans ho

/-! ### The command (R160, R402) -/

/-- OUTPUT_SAMPLE of a sample that is due forms it from what the store gives. -/
theorem does_outputSample {s : State} {t ch grid : Nat} {reads : List (Nat × Bytes)} {P : State → Prop}
    (hd : (tick t s).sampleDue ch grid = true)
    (h : P { outputSample ch grid (!(readStore reads (tick t s)).1) (readStore reads (tick t s)).2 with pending := s.pending }) :
    Does (.outputSample t ch grid reads) s P :=
  does_of_act (t := t) (show execOutputSample t ch grid reads s = _ from rfl) (if_pos hd) h

/-- One of a channel that no test has: the channel shows the sample, and what its formation did not read of the store
is as it was. -/
theorem outputSample_read {u : State} {ch grid : Nat} (reads : List (Nat × Bytes))
    (ht : ∀ y ∈ (u.chan ch).tests, y.2.1 = none → u.tauAt ch grid < y.1) :
    let s' := outputSample ch grid (!(readStore reads u).1) (readStore reads u).2
    let x := (readStore reads u).2.sampleAt ch grid (!(readStore reads u).1)
    (s'.chan ch).shown = { delivered := some grid, lastTau := some (u.tauAt ch grid), newest := some x }
      ∧ (u.conditions ch grid).Carried (reads.any uncorrectable) x
      ∧ (∀ n, n ≠ ch → s'.filt.chans.get n = u.filt.chans.get n)
      ∧ ((∀ x ∈ reads, codeValid x.2 = true) → FeedsOnly ch u s') := by
  have hview := readStore_formView reads u
  have hcond : (readStore reads u).2.conditions ch grid = u.conditions ch grid := by
    rw [conditions_formView, hview, ← conditions_formView]
  have hfilt : (readStore reads u).2.filt = u.filt := congrArg FormView.filt hview
  have htau : (readStore reads u).2.tauAt ch grid = u.tauAt ch grid := congrArg Conditions.tau hcond
  have hbad : (!(readStore reads u).1) = reads.any uncorrectable := by
    rw [readStore_good, Bool.not_not]
  obtain ⟨hfeeds, hshown⟩ := outputSample_untested (!(readStore reads u).1) (s := (readStore reads u).2) (ch := ch) (grid := grid)
    (by rw [State.chan, hfilt, htau]; exact ht)
  refine ⟨htau ▸ hshown, ?_, fun n hn => hfilt ▸ hfeeds.chans n hn, fun hall => ?_⟩
  · exact hcond ▸ hbad ▸ sampleAt_carried ..
  · rw [readStore_valid u hall] at hfeeds ⊢
    exact hfeeds

/-- Settles O38: what a sample carries is read from the state that reading the store leaves as it is, and a sample whose
channel no test has reaches only that channel, Shuttle's jobs, the Treadle and the open frames. -/
theorem outputSamplesCarryTheirFlags : Obligations.OutputSamplesCarryTheirFlags := by
  intro s t ch grid reads u m tau ovr bad
  refine ⟨fun hd => ?_, fun hd => ?_, fun hd ht => ?_⟩
  · exact exec_of_act (t := t) (show execOutputSample t ch grid reads s = _ from rfl)
      (if_neg (Bool.eq_false_iff.mp hd)) rfl
  · exact does_outputSample hd (outputSample_delivered ..)
  · obtain ⟨hshown, hcarried, hchans, hrest⟩ := outputSample_read (u := tick t s) (ch := ch) (grid := grid) reads ht
    obtain ⟨hsubst, hfill, hformed⟩ := hcarried
    refine does_outputSample hd ⟨congrArg Shown.lastTau hshown, hchans, fun hall => ?_, ?_⟩
    · have f := hrest hall
      exact ⟨f.hub, f.cfg, f.hed, f.conv, f.warp, f.cal, f.drv, f.pair, f.pow, f.clk, by rw [f.itg]; rfl⟩
    · exact ⟨_, congrArg Shown.newest hshown, sampleAt_grid .., hsubst, hfill, hformed⟩

end Sys2Proof.Machine

/-! SUPPORT. Ply links (O37): what a word that arrives does to its channel, what a lane that fails and a link that is
trained leave alone, and the alarms that follow the lanes. -/

namespace Sys2Proof.Machine

open Sys2Proof

/-! ### What leaves a channel's gaps as they are -/

theorem applySwitch_gaps (c : Chan) (w : Switch) : (applySwitch c w).gaps = c.gaps := by
  unfold applySwitch
  dsimp only
  split
  · split <;> rfl
  · split <;> split <;> rfl

theorem takeSwitches_gaps (epoch k now : Nat) (reed : Bool) (c : Chan) : (takeSwitches epoch k now reed c).1.gaps = c.gaps := by
  have fold_gaps : ∀ (l : List Switch) (x : Chan), (l.foldl applySwitch x).gaps = x.gaps := by
    intro l
    induction l with
    | nil => exact fun _ => rfl
    | cons w r ih => exact fun x => (ih (applySwitch x w)).trans (applySwitch_gaps x w)
  exact fold_gaps _ _

theorem cicArrive_gaps (s : State) (ch k : Nat) (codes : List Int) (c : Chan) : (cicArrive s ch k codes c).1.gaps = c.gaps := by
  have h := takeSwitches_gaps s.clk.epoch k (clockFrom (fineOf s.clk.loom)) false c
  unfold cicArrive
  dsimp only
  split
  · exact h
  · split <;> exact h

theorem reedArrive_gaps (s : State) (ch k : Nat) (codes : List Int) (c : Chan) : (reedArrive s ch k codes c).gaps = c.gaps := by
  have h := takeSwitches_gaps s.clk.epoch k (clockFrom (fineOf s.clk.loom)) true c
  unfold reedArrive
  dsimp only
  split <;> exact h

theorem registerEvent_gaps (epoch : Nat) (e : EventOf) (c : Chan) : (registerEvent epoch e c).gaps = c.gaps := by
  have begins : ∀ at_ : Nat, (if e.cond.isNone then c.reedBegins at_ else c).gaps = c.gaps := by
    intro at_
    unfold Chan.reedBegins
    split
    · split <;> rfl
    · rfl
  unfold registerEvent
  dsimp only
  cases e.zeroed <;> exact begins _

theorem eventOn_gaps (ch mode : Nat) (first : Int) (tE : Nat) (chain : Bool) (s : State) :
    ((eventOn ch mode first tE chain s).chan ch).gaps = (s.chan ch).gaps := by
  rw [eventOn, chan_chanUpd, eventNow]
  split
  · rfl
  · exact registerEvent_gaps ..

/-! ### A word reaches its channel only -/

/-- A state is another but for one channel and the mains measurement. -/
structure ChanOnly (ch : Nat) (s s' : State) : Prop where
  rest : ∃ chans mains, s' = { s with filt := { s.filt with chans, mains } }
  others : ∀ n, n ≠ ch → s'.filt.chans.get n = s.filt.chans.get n

theorem ChanOnly.refl (ch : Nat) (s : State) : ChanOnly ch s s := ⟨⟨_, _, rfl⟩, fun _ _ => rfl⟩

theorem ChanOnly.trans {ch : Nat} {s u v : State} (a : ChanOnly ch s u) (b : ChanOnly ch u v) : ChanOnly ch s v where
  rest := by
    obtain ⟨_, _, rfl⟩ := a.rest
    obtain ⟨_, _, rfl⟩ := b.rest
    exact ⟨_, _, rfl⟩
  others n h := (b.others n h).trans (a.others n h)

theorem chanUpd_chanOnly (ch : Nat) (f : Chan → Chan) (s : State) : ChanOnly ch s (chanUpd ch f s) :=
  ⟨⟨_, _, rfl⟩, fun _ h => Tab.get_upd_other _ _ h⟩

theorem mains_chanOnly (ch : Nat) (mains : Mains) (s : State) : ChanOnly ch s { s with filt := { s.filt with mains } } :=
  ⟨⟨_, _, rfl⟩, fun _ _ => rfl⟩

theorem eventOn_chanOnly (ch mode : Nat) (first : Int) (tE : Nat) (chain : Bool) (s : State) :
    ChanOnly ch s (eventOn ch mode first tE chain s) := chanUpd_chanOnly ..

theorem wordGap_chanOnly (ch missing k d : Nat) (s : State) : ChanOnly ch s (wordGap ch missing k d s) := by
  have event : ∀ (b : Bool) (dest : Nat) (u : State), ChanOnly ch u (if b then u else eventOn ch 1 dest dest true u) := by
    intro b dest u
    cases b
    · exact eventOn_chanOnly ..
    · exact .refl ch u
  unfold wordGap
  split
  · exact .refl ch s
  · refine .trans ?_ (event _ _ _)
    split
    · exact .refl ch s
    · exact chanUpd_chanOnly ..

/-- No word lost, no gap. -/
theorem wordGap_none (ch k d : Nat) (s : State) : wordGap ch 0 k d s = s := rfl

/-- Words lost in a channel without a gap leave one, from the word before them to the word that came (R24). -/
theorem wordGap_gaps {ch missing : Nat} (k d : Nat) {s : State} (hm : missing ≠ 0) (hg : (s.chan ch).gaps = []) :
    ((wordGap ch missing k d s).chan ch).gaps
      = [(clockFine (s.clk.epoch + (k - 1 - missing) * d), some (clockFine (s.clk.epoch + k * d)))] := by
  simp only [wordGap, if_neg hm, hg, List.any_nil, Bool.false_eq_true, if_false, eventOn_gaps, chan_chanUpd]

/-- The words lost before a word of a channel's stream (R24, R130). -/
def State.lostBefore (s : State) (ch : Nat) (reed : Bool) (slot k : Nat) : Nat :=
  wordsMissing s.clk.epoch (if reed then (s.chan ch).reedSlot else (s.chan ch).cicSlot)
    (if reed then (s.chan ch).reedFrom else (s.chan ch).cicFrom) slot k (s.streamDec ch k reed)

/-- The state once the words lost before a word have left their gap. -/
def State.gapped (s : State) (ch : Nat) (reed : Bool) (slot k : Nat) : State :=
  wordGap ch (s.lostBefore ch reed slot k) k (s.streamDec ch k reed) s

/-- A word of the CIC stream, and one of the pre-decimator's on the Reed path, passes its filters, behind the gap of
those lost before it. -/
theorem plyWord_cic (ch slot k : Nat) (codes : List Int) (s : State) :
    plyWord ch false slot k codes s =
      let g := s.gapped ch false slot k
      let r := cicArrive g ch k (codes.map (clampInt (-7) 7)) (g.chan ch)
      chanUpd ch (fun _ => { r.1 with cicSlot := some ((slot + 1) % 65536) }) { g with filt := { g.filt with mains := r.2 } } :=
  rfl

theorem plyWord_reed {ch : Nat} (slot k : Nat) (codes : List Int) {s : State} (h : (s.chan ch).onReed = true) :
    plyWord ch true slot k codes s =
      let g := s.gapped ch true slot k
      chanUpd ch (fun c => { reedArrive g ch k (codes.map (clampInt (-7) 7)) c with reedSlot := some ((slot + 1) % 65536) }) g := by
  simp [plyWord, h, State.gapped, State.lostBefore]

/-- A word taken sets the slot counter expected next, leaves the gaps as the words lost before it have, and changes
nothing but its channel and the mains measurement. -/
theorem plyWord_taken {ch : Nat} {reed : Bool} (slot k : Nat) (codes : List Int) {s : State}
    (h : reed = false ∨ (s.chan ch).onReed = true) :
    let s' := plyWord ch reed slot k codes s
    (if reed then (s'.chan ch).reedSlot else (s'.chan ch).cicSlot) = some ((slot + 1) % 65536)
      ∧ (s'.chan ch).gaps = ((s.gapped ch reed slot k).chan ch).gaps ∧ ChanOnly ch s s' := by
  have hg : ChanOnly ch s (s.gapped ch reed slot k) := wordGap_chanOnly ..
  cases reed with
  | false =>
    rw [plyWord_cic]
    dsimp only
    rw [chan_chanUpd]
    exact ⟨rfl, cicArrive_gaps .., hg.trans ((mains_chanOnly ..).trans (chanUpd_chanOnly ..))⟩
  | true =>
    rw [plyWord_reed slot k codes (h.resolve_left (by decide))]
    dsimp only
    rw [chan_chanUpd]
    exact ⟨rfl, reedArrive_gaps .., hg.trans (chanUpd_chanOnly ..)⟩

/-- Codes within -7 to +7 stay as they are. -/
theorem clampInt_clampInt (lo hi v : Int) (h : lo ≤ hi) : clampInt lo hi (clampInt lo hi v) = clampInt lo hi v := by
  simp only [clampInt]
  split_ifs <;> omega

theorem plyWord_clamped (ch : Nat) (reed : Bool) (slot k : Nat) (codes : List Int) (s : State) :
    plyWord ch reed slot k (codes.map (clampInt (-7) 7)) s = plyWord ch reed slot k codes s := by
  have h : clampInt (-7) 7 ∘ clampInt (-7) 7 = clampInt (-7) 7 := funext fun v => clampInt_clampInt (-7) 7 v (by decide)
  simp only [plyWord, List.map_map, h]

/-! ### PLY_WORD_ARRIVAL (R18, R24, R409) -/

/-- Words of a die come through: the hub's sampling runs, D1 is on, and the die's link is up (R18, R24). -/
def State.wordsCome (s : State) (die : Nat) : Prop := s.running = true ∧ s.domOn 1 = true ∧ s.dieUp die = true

/-- One that does not come, or is for a channel that does not run, is dropped. -/
theorem plyWordArrival_dropped {s : State} (t : Nat) {ch : Nat} (reed : Bool) (slot k : Nat) (codes : List Int)
    (h : (s.chan ch).set = none ∨ ¬ s.wordsCome (dieOf ch)) : exec (.plyWordArrival t ch reed slot k codes) s = .next (tick t s) := by
  refine exec_of_act (t := t) (show execPlyWordArrival t ch reed slot k codes s = _ from rfl) (if_pos ?_) rfl
  obtain h | h := h
  · exact .inr (.inr (.inr (Option.isNone_iff_eq_none.mpr h)))
  · by_contra hn
    simp only [not_or, Bool.not_eq_false] at hn
    exact h ⟨hn.1, hn.2.1, hn.2.2.1⟩

/-- Meanings whose effects agree on the state at their loom time agree. -/
theorem act_congr {t : Nat} {s : State} {f g : State → State} (h : f (tick t s) = g (tick t s)) : act t s f = act t s g := by
  rw [act, act, h]

theorem exec_congr {c : Instr} {t : Nat} {s : State} {f g : State → State} (he : exec c s = act t s f)
    (h : f (tick t s) = g (tick t s)) : exec c s = act t s g :=
  he.trans (act_congr h)

/-- One that comes waits at its die's crossing, or is taken. -/
theorem plyWordArrival_comes {s : State} (t : Nat) {ch : Nat} (reed : Bool) (slot k : Nat) (codes : List Int) {p : PathSet}
    (hp : (s.chan ch).set = some p) (h : s.wordsCome (dieOf ch)) :
    exec (.plyWordArrival t ch reed slot k codes) s = act t s fun u =>
      if s.plyHolds (dieOf ch) then holdPly (dieOf ch) (.word ch reed slot k codes) u else plyWord ch reed slot k codes u := by
  obtain ⟨hr, h1, hd⟩ := h
  refine exec_congr (t := t) (show execPlyWordArrival t ch reed slot k codes s = _ from rfl) (if_neg ?_)
  rintro (hn | hn | hn | hn)
  · exact absurd (hr.symm.trans hn) (by decide)
  · exact absurd (h1.symm.trans hn) (by decide)
  · exact absurd (hd.symm.trans hn) (by decide)
  · exact absurd (hp.symm.trans (Option.isNone_iff_eq_none.mp hn)) (by simp)

/-- A word that its die's crossing holds waits behind the 64 of its stream, or is dropped (R409, R410). -/
theorem plyWordArrival_held {s : State} (t : Nat) {ch : Nat} (reed : Bool) (slot k : Nat) (codes : List Int) {p : PathSet}
    (hp : (s.chan ch).set = some p) (h : s.wordsCome (dieOf ch)) (hh : s.plyHolds (dieOf ch) = true) :
    let i : Held := .word ch reed slot k codes
    exec (.plyWordArrival t ch reed slot k codes) s = .next { tick t s with itg := { s.itg with
      crossings := s.itg.crossings.set (dieOf ch) ((s.itg.crossings.get (dieOf ch)).enqueue 64 (sameStream i) i) } } := by
  rw [plyWordArrival_comes t reed slot k codes hp h]
  simp only [hh, if_true]
  rfl

/-- A word that nothing holds is taken. -/
theorem plyWordArrival_taken {s : State} (t : Nat) {ch : Nat} (reed : Bool) (slot k : Nat) (codes : List Int) {p : PathSet}
    (hp : (s.chan ch).set = some p) (h : s.wordsCome (dieOf ch)) (hh : s.plyHolds (dieOf ch) = false) :
    exec (.plyWordArrival t ch reed slot k codes) s = act t s (plyWord ch reed slot k codes) := by
  rw [plyWordArrival_comes t reed slot k codes hp h]
  simp only [hh, Bool.false_eq_true, if_false]

/-- A word taken from an unheld link: the slot counter, the gap, and what it leaves alone. -/
theorem plyWordArrival_spec {s : State} (t : Nat) {ch : Nat} {reed : Bool} (slot k : Nat) (codes : List Int) {p : PathSet}
    (hp : (s.chan ch).set = some p) (h : s.wordsCome (dieOf ch)) (hh : s.plyHolds (dieOf ch) = false)
    (hr : reed = false ∨ (s.chan ch).onReed = true) :
    Does (.plyWordArrival t ch reed slot k codes) s fun s' =>
      let missing := (tick t s).lostBefore ch reed slot k
      let d := (tick t s).streamDec ch k reed
      (if reed then (s'.chan ch).reedSlot else (s'.chan ch).cicSlot) = some ((slot + 1) % 65536)
        ∧ (missing = 0 → (s'.chan ch).gaps = (s.chan ch).gaps)
        ∧ (missing ≠ 0 → (s.chan ch).gaps = [] → (s'.chan ch).gaps
          = [(clockFine (s.clk.epoch + (k - 1 - missing) * d), some (clockFine (s.clk.epoch + k * d)))])
        ∧ ChanOnly ch { tick t s with pending := s.pending } s' := by
  obtain ⟨hslot, hgaps, hrest⟩ := plyWord_taken (s := tick t s) slot k codes hr
  refine does_of_act (plyWordArrival_taken t reed slot k codes hp h hh) rfl ⟨hslot, fun hm => ?_, fun hm hg => ?_, ?_⟩
  · refine hgaps.trans ?_
    rw [State.gapped, hm, wordGap_none]
    rfl
  · exact hgaps.trans (wordGap_gaps k _ hm hg)
  · obtain ⟨⟨chans, mains, he⟩, hothers⟩ := hrest
    exact ⟨⟨chans, mains, by rw [he]⟩, hothers⟩

/-! ### Lanes (R25) -/

theorem mem_setMem_true (l : List Nat) (n k : Nat) : k ∈ setMem l n true ↔ k = n ∨ k ∈ l := by
  by_cases h : k = n
  · simpa [h] using setMem_contains_same l n true
  · simpa [h] using congrArg (· = true) (setMem_contains_other l true h)

/-- Alarms 4 and 5 tell that a ply link that should carry words has lost a lane, or three (R25, R76). -/
theorem plyAlarms_contains (die : Nat) (s : State) :
    ((plyAlarms die s).sh.alarms.contains 4 = true
        ↔ ∃ k, k < 4 ∧ s.domOn (4 + k) = true ∧ (s.pow.domains.get (4 + k)).lanesOut ≠ [])
      ∧ ((plyAlarms die s).sh.alarms.contains 5 = true
        ↔ ∃ k, k < 4 ∧ s.domOn (4 + k) = true ∧ 3 ≤ (s.pow.domains.get (4 + k)).lanesOut.length) := by
  have out : ∀ n, 0 < n → (((List.range 4).any fun d => decide (n ≤ if s.domOn (4 + d) then
      (s.pow.domains.get (4 + d)).lanesOut.length else 0)) = true
        ↔ ∃ k, k < 4 ∧ s.domOn (4 + k) = true ∧ n ≤ (s.pow.domains.get (4 + k)).lanesOut.length) := by
    intro n hn
    simp only [List.any_eq_true, List.mem_range, decide_eq_true_eq]
    refine exists_congr fun k => and_congr_right fun _ => ?_
    split <;> simp [*, Nat.not_le.mpr hn]
  simp only [plyAlarms]
  rw [setAlarm_contains_other _ _ _ _ _ (by decide : (4 : Nat) ≠ 5), setAlarm_contains_same, setAlarm_contains_same,
    out 1 (by decide), out 3 (by decide)]
  simp [Nat.one_le_iff_ne_zero]

/-- The channels of a die, and what an operation on each of them leaves alone. -/
structure DieOnly (chs : List Nat) (s s' : State) : Prop where
  rest : ∃ chans, s' = { s with filt := { s.filt with chans } }
  others : ∀ n, n ∉ chs → s'.filt.chans.get n = s.filt.chans.get n

theorem DieOnly.refl (chs : List Nat) (s : State) : DieOnly chs s s := ⟨⟨_, rfl⟩, fun _ _ => rfl⟩

theorem DieOnly.trans {chs : List Nat} {s u v : State} (a : DieOnly chs s u) (b : DieOnly chs u v) : DieOnly chs s v where
  rest := by
    obtain ⟨_, rfl⟩ := a.rest
    obtain ⟨_, rfl⟩ := b.rest
    exact ⟨_, rfl⟩
  others n h := (b.others n h).trans (a.others n h)

theorem chanUpd_dieOnly {chs : List Nat} {ch : Nat} (f : Chan → Chan) (s : State) (h : ch ∈ chs) : DieOnly chs s (chanUpd ch f s) :=
  ⟨⟨_, rfl⟩, fun _ hn => Tab.get_upd_other _ _ fun e => hn (e ▸ h)⟩

/-- An operation on each channel of a list. -/
theorem foldl_dieOnly {chs : List Nat} {f : State → Nat → State} (hf : ∀ s ch, ch ∈ chs → DieOnly chs s (f s ch)) (l : List Nat)
    (hl : ∀ ch ∈ l, ch ∈ chs) (s : State) : DieOnly chs s (l.foldl f s) := by
  induction l generalizing s with
  | nil => exact .refl chs s
  | cons ch r ih => exact (hf s ch (hl ch (by simp))).trans (ih (fun c hc => hl c (by simp [hc])) (f s ch))

theorem dieLost_dieOnly (die : Nat) (s : State) : DieOnly (s.dieChans die) s (dieLost die s) :=
  foldl_dieOnly (fun u _ h => chanUpd_dieOnly _ u h) _ (fun _ h => h) s

theorem dieResumes_dieOnly (die : Nat) (s : State) : DieOnly (s.dieChans die) s (dieResumes die s) := by
  refine foldl_dieOnly (fun u ch h => ?_) _ (fun _ h => h) s
  split
  · split
    · exact (chanUpd_dieOnly _ u h).trans (chanUpd_dieOnly _ _ h)
    · exact .refl _ u
  · exact .refl _ u

/-- A gap that has been opened is open. -/
theorem openGap_open (at_ : Nat) (c : Chan) : (openGap at_ c).gaps.any (·.2.isNone) = true := by
  unfold openGap
  split
  next h =>
    simp only [List.any_map]
    obtain ⟨g, hg, hn⟩ := List.any_eq_true.mp h
    exact List.any_eq_true.mpr ⟨g, hg, by simp [Option.isNone_iff_eq_none.mp hn]⟩
  next => simp

theorem openGaps_open {at_ : Nat} (l : List Nat) (s : State) {ch : Nat}
    (h : ch ∈ l ∨ (s.chan ch).gaps.any (·.2.isNone) = true) :
    ((l.foldl (fun s ch => chanUpd ch (openGap at_) s) s).chan ch).gaps.any (·.2.isNone) = true := by
  induction l generalizing s with
  | nil => simpa using h
  | cons c r ih =>
    refine ih (chanUpd c (openGap at_) s) ?_
    by_cases hc : ch = c
    · subst hc
      exact .inr (by rw [chan_chanUpd]; exact openGap_open ..)
    · rw [chan_chanUpd_other _ _ hc]
      exact h.imp_left fun hm => (List.mem_cons.mp hm).resolve_left hc

/-- Each channel of a die whose words no longer arrive has an open gap (R25, R452). -/
theorem dieLost_open {die ch : Nat} {s : State} (h : ch ∈ s.dieChans die) :
    ((dieLost die s).chan ch).gaps.any (·.2.isNone) = true :=
  openGaps_open _ s (.inl h)

/-- What a command of a ply link leaves alone, of the power domains and channels all but its own. -/
structure LinkOnly (chs : List Nat) (d : Nat) (s s' : State) : Prop where
  domains : ∀ n, n ≠ d → s'.pow.domains.get n = s.pow.domains.get n
  chans : ∀ ch, ch ∉ chs → s'.filt.chans.get ch = s.filt.chans.get ch
  hub : s'.hub = s.hub
  cfg : s'.cfg = s.cfg
  hed : s'.hed = s.hed
  trd : s'.trd = s.trd
  drv : s'.drv = s.drv

theorem LinkOnly.trans {chs : List Nat} {d : Nat} {s u v : State} (a : LinkOnly chs d s u) (b : LinkOnly chs d u v) :
    LinkOnly chs d s v :=
  ⟨fun n h => (b.domains n h).trans (a.domains n h), fun n h => (b.chans n h).trans (a.chans n h), b.hub.trans a.hub,
    b.cfg.trans a.cfg, b.hed.trans a.hed, b.trd.trans a.trd, b.drv.trans a.drv⟩

theorem DieOnly.linkOnly {chs : List Nat} {s s' : State} (h : DieOnly chs s s') (d : Nat) : LinkOnly chs d s s' := by
  obtain ⟨⟨chans, rfl⟩, hothers⟩ := h
  exact ⟨fun _ _ => rfl, hothers, rfl, rfl, rfl, rfl, rfl⟩

theorem domUpd_linkOnly (chs : List Nat) (d : Nat) (f : Domain → Domain) (s : State) : LinkOnly chs d s (domUpd d f s) :=
  ⟨fun _ h => Tab.get_upd_other _ _ h, fun _ _ => rfl, rfl, rfl, rfl, rfl, rfl⟩

theorem tick_linkOnly (chs : List Nat) (d t : Nat) (s : State) : LinkOnly chs d s (tick t s) :=
  ⟨fun _ _ => rfl, fun _ _ => rfl, rfl, rfl, rfl, rfl, rfl⟩

theorem LinkOnly.queued {chs : List Nat} {d : Nat} {s s' : State} (h : LinkOnly chs d s s') (q : List Instr) :
    LinkOnly chs d s { s' with pending := q } :=
  ⟨h.domains, h.chans, h.hub, h.cfg, h.hed, h.trd, h.drv⟩

@[simp] theorem plyAlarms_pow (die : Nat) (s : State) : (plyAlarms die s).pow = s.pow := by simp [plyAlarms]
@[simp] theorem plyAlarms_filt (die : Nat) (s : State) : (plyAlarms die s).filt = s.filt := by simp [plyAlarms]

theorem plyAlarms_linkOnly (chs : List Nat) (d die : Nat) (s : State) : LinkOnly chs d s (plyAlarms die s) := by
  constructor <;> simp [plyAlarms]

/-- A link that has lost a lane retrains. -/
def lostLane (lane : Nat) (d : Domain) : Domain := { d with lanesOut := setMem d.lanesOut lane true, trained := false }

/-- PLY_LANE_FAILURE of a lane that there is: the link loses it and is not trained, its channels fill, and the alarms
follow. -/
theorem plyLaneFailure_exec (t : Nat) {die lane : Nat} (s : State) (hd : die < 4) (hl : lane < 4) :
    exec (.plyLaneFailure t die lane) s = act t s fun s => plyAlarms die (dieLost die (domUpd (4 + die) (lostLane lane) s)) :=
  exec_congr (t := t) (show execPlyLaneFailure t die lane s = _ from rfl) (if_neg (by omega))

theorem plyLaneFailure_none (t : Nat) {die lane : Nat} (s : State) (h : 4 ≤ die ∨ 4 ≤ lane) :
    exec (.plyLaneFailure t die lane) s = .next (tick t s) :=
  exec_of_act (t := t) (show execPlyLaneFailure t die lane s = _ from rfl) (if_pos (by omega)) rfl

theorem plyLaneFailure_spec (t : Nat) {die lane : Nat} (s : State) (hd : die < 4) (hl : lane < 4) :
    Does (.plyLaneFailure t die lane) s fun s' =>
      s'.pow.domains.get (4 + die) = lostLane lane (s.pow.domains.get (4 + die))
        ∧ (∀ ch ∈ s.dieChans die, (s'.chan ch).gaps.any (·.2.isNone) = true)
        ∧ (s'.sh.alarms.contains 4 = true ↔ ∃ k, k < 4 ∧ s'.domOn (4 + k) = true ∧ (s'.pow.domains.get (4 + k)).lanesOut ≠ [])
        ∧ (s'.sh.alarms.contains 5 = true ↔
          ∃ k, k < 4 ∧ s'.domOn (4 + k) = true ∧ 3 ≤ (s'.pow.domains.get (4 + k)).lanesOut.length)
        ∧ LinkOnly (s.dieChans die) (4 + die) s s' := by
  let u := domUpd (4 + die) (lostLane lane) (tick t s)
  have hdie := dieLost_dieOnly die u
  have hpow : (plyAlarms die (dieLost die u)).pow = u.pow := by
    obtain ⟨chans, h⟩ := hdie.rest
    rw [plyAlarms_pow, h]
  have hdom : ∀ n, (plyAlarms die (dieLost die u)).domOn n = (dieLost die u).domOn n := fun n => by
    rw [State.domOn, plyAlarms_pow, State.domOn]
  have halarms := plyAlarms_contains die (dieLost die u)
  simp only [← hdom, ← plyAlarms_pow die (dieLost die u)] at halarms
  have hopen : ∀ ch ∈ s.dieChans die, ((dieLost die u).chan ch).gaps.any (·.2.isNone) = true := fun ch h => dieLost_open h
  refine does_of_act (plyLaneFailure_exec t s hd hl) rfl ⟨?_, fun ch h => ?_, halarms.1, halarms.2, ?_⟩
  · exact (congrArg (fun p : Power => p.domains.get (4 + die)) hpow).trans (Tab.get_upd_same ..)
  · exact (congrArg (fun f : Filt => (f.chans.get ch).gaps.any (·.2.isNone)) (plyAlarms_filt die (dieLost die u))).trans (hopen ch h)
  · exact ((tick_linkOnly _ _ t s).trans ((domUpd_linkOnly _ _ _ (tick t s)).trans
      ((hdie.linkOnly _).trans (plyAlarms_linkOnly ..)))).queued _

/-! ### Training (R25, R454) -/

/-- A link that has been trained, in a state in step or in BOOT, else with the reset that will align its die. -/
def trainedLink (s : State) (lanes : Nat) (d : Domain) : Domain :=
  { d with
    trained := true, lanesOut := (List.range 4).filter fun l => !(nbit lanes l)
    align := if d.aligned || s.hub.state == .boot then none else some (d.align.getD (beatTime s.ahead2ms)) }

theorem trainedLink_align (s : State) (lanes : Nat) (d : Domain) :
    (trainedLink s lanes d).align = none ↔ d.aligned = true ∨ s.hub.state = .boot := by
  by_cases h : d.aligned = true ∨ s.hub.state = .boot <;> simp [trainedLink, h]

theorem plyLinkTrained_exec (t : Nat) {die : Nat} (lanes : Nat) {s : State} (hd : die < 4) (hon : s.domOn (4 + die) = true) :
    exec (.plyLinkTrained t die lanes) s = act t s fun s =>
      let s := plyAlarms die (domUpd (4 + die) (trainedLink s lanes) s)
      if s.dieUp die then dieResumes die s else s := by
  refine exec_congr (t := t) (show execPlyLinkTrained t die lanes s = _ from rfl) (if_neg ?_)
  rintro (h | h)
  · omega
  · exact absurd (hon.symm.trans h) (by decide)

theorem plyLinkTrained_none (t : Nat) {die : Nat} (lanes : Nat) {s : State} (h : 4 ≤ die ∨ s.domOn (4 + die) = false) :
    exec (.plyLinkTrained t die lanes) s = .next (tick t s) :=
  exec_of_act (t := t) (show execPlyLinkTrained t die lanes s = _ from rfl) (if_pos (h.imp_left fun h => by omega)) rfl

/-- PLY_LINK_TRAINED of a die that is on: the link is trained on its lanes, and the die's channels resume where the die
is in step. -/
theorem plyLinkTrained_spec (t : Nat) {die : Nat} (lanes : Nat) {s : State} (hd : die < 4) (hon : s.domOn (4 + die) = true) :
    Does (.plyLinkTrained t die lanes) s fun s' =>
      s'.pow.domains.get (4 + die) = trainedLink (tick t s) lanes (s.pow.domains.get (4 + die))
        ∧ LinkOnly (s.dieChans die) (4 + die) s s' := by
  let v := plyAlarms die (domUpd (4 + die) (trainedLink (tick t s) lanes) (tick t s))
  have hv : LinkOnly (s.dieChans die) (4 + die) s v :=
    (tick_linkOnly _ _ t s).trans ((domUpd_linkOnly _ _ _ (tick t s)).trans (plyAlarms_linkOnly ..))
  have hchs : v.dieChans die = s.dieChans die := by rw [State.dieChans, State.dieChans, hv.cfg]
  have hres : DieOnly (s.dieChans die) v (if v.dieUp die then dieResumes die v else v) := by
    split
    · exact hchs ▸ dieResumes_dieOnly die v
    · exact .refl _ v
  have hget : v.pow.domains.get (4 + die) = trainedLink (tick t s) lanes (s.pow.domains.get (4 + die)) :=
    (congrArg (fun p : Power => p.domains.get (4 + die)) (plyAlarms_pow ..)).trans (Tab.get_upd_same ..)
  refine does_of_act (plyLinkTrained_exec t lanes hd hon) rfl ⟨?_, ?_⟩
  · obtain ⟨chans, h⟩ := hres.rest
    exact (congrArg (fun w : State => w.pow.domains.get (4 + die)) h).trans hget
  · exact (hv.trans (hres.linkOnly (4 + die))).queued _

/-- Settles O37: words are dropped, held or taken by where they come to, and the lanes' commands by their links. -/
theorem plyLinksFillWhatIsLost : Obligations.PlyLinksFillWhatIsLost := by
  intro s t u comes arrives
  refine ⟨fun ch reed slot k codes h => ?_, fun ch reed slot k codes p hp hc hh => ⟨fun hb => ?_, fun hb => ?_⟩,
    fun ch reed slot k codes ha => ?_, fun ch slot k codes p hp ha hr => ?_, fun ch reed slot k codes p hp ha hr => ?_,
    fun die lane hd hl => ?_, fun die lane h => ?_, fun die lanes h => ?_, fun die lanes hd hon => ?_⟩
  · exact plyWordArrival_dropped t reed slot k codes h
  · rw [plyWordArrival_held t reed slot k codes hp hc hh, Crossing.enqueue, if_pos hb]
  · rw [plyWordArrival_held t reed slot k codes hp hc hh, Crossing.enqueue, if_neg (Nat.not_lt.mpr hb)]
  · cases hp : (s.chan ch).set with
    | none =>
      rw [plyWordArrival_dropped t reed slot k _ (.inl hp), plyWordArrival_dropped t reed slot k _ (.inl hp)]
    | some p =>
      rw [plyWordArrival_taken t reed slot k _ hp ha.1 ha.2, plyWordArrival_taken t reed slot k _ hp ha.1 ha.2]
      exact act_congr (plyWord_clamped ..).symm
  · refine exec_of_act (plyWordArrival_taken t true slot k codes hp ha.1 ha.2) ?_ rfl
    have hr' : ((tick t s).chan ch).onReed = false := hr
    simp [plyWord, hr', u]
  · obtain ⟨s', he, hq, hslot, hsame, hgap, ⟨chans, mains, hrest⟩, hothers⟩ :=
      plyWordArrival_spec t slot k codes hp ha.1 ha.2 hr
    exact ⟨s', he, hq, hslot, hsame, hgap, hothers, chans, mains, hrest⟩
  · obtain ⟨s', he, hq, hdom, hopen, h4, h5, hl⟩ := plyLaneFailure_spec t s hd hl
    refine ⟨s', he, hq, fun l => ?_, ?_, hopen, hl.chans, hl.domains, h4, h5, hl.hub, hl.cfg, hl.hed, hl.trd, hl.drv⟩
    · rw [hdom]
      exact mem_setMem_true ..
    · rw [hdom]
      rfl
  · exact plyLaneFailure_none t s h
  · exact plyLinkTrained_none t lanes h
  · obtain ⟨s', he, hq, hdom, hl⟩ := plyLinkTrained_spec t lanes hd hon
    refine ⟨s', he, hq, ?_, ?_, ?_, ?_, hl.domains, hl.chans, hl.hub, hl.cfg, hl.hed, hl.trd, hl.drv⟩ <;> rw [hdom]
    · rfl
    · rfl
    · rfl
    · exact trainedLink_align ..

end Sys2Proof.Machine

/-! SUPPORT. The instants of the beats (O5, O43): where a loom time lies among the boundaries, and when a change is due. -/

namespace Sys2Proof.Machine

open Sys2Proof

/-- Beat m of a second begins at the smallest whole number at or above m * 2^32 / 1000 (R29). -/
theorem beatTime_parts (sec : Nat) {m : Nat} (hm : m < 1000) :
    beatTime (sec * 1000 + m) / 2 ^ 32 = sec
      ∧ m * 2 ^ 32 ≤ beatTime (sec * 1000 + m) % 2 ^ 32 * 1000
      ∧ beatTime (sec * 1000 + m) % 2 ^ 32 * 1000 < m * 2 ^ 32 + 1000 := by
  have hd : (sec * 1000 + m) / 1000 = sec := by omega
  have hr : (sec * 1000 + m) % 1000 = m := by omega
  obtain ⟨hlow, hhigh, hc⟩ : m * 2 ^ 32 ≤ ceilDiv (m * 2 ^ 32) 1000 * 1000
      ∧ ceilDiv (m * 2 ^ 32) 1000 * 1000 < m * 2 ^ 32 + 1000 ∧ ceilDiv (m * 2 ^ 32) 1000 < 2 ^ 32 := by
    unfold ceilDiv
    omega
  rw [beatTime, hd, hr, Nat.add_comm (sec * 2 ^ 32), Nat.add_mul_mod_self_right, Nat.mod_eq_of_lt hc,
    Nat.add_mul_div_right _ _ (by decide), Nat.div_eq_of_lt hc]
  exact ⟨Nat.zero_add _, hlow, hhigh⟩

/-- A boundary lies at or before a loom time exactly where its number is at most that of the loom time's beat. -/
theorem beatTime_le_iff (n t : Nat) : beatTime n ≤ t ↔ n ≤ beatAt t := by
  simp only [beatTime, beatAt, ceilDiv]
  omega

theorem lt_beatTime_iff (t n : Nat) : t < beatTime n ↔ beatAt t < n := by
  rw [← Nat.not_le, beatTime_le_iff, Nat.not_le]

/-- A boundary lies in its own beat. -/
theorem beatAt_beatTime (n : Nat) : beatAt (beatTime n) = n := by
  simp only [beatTime, beatAt, ceilDiv]
  omega

/-- The first beat from a loom time on (R31). -/
theorem firstBeatFrom_le_iff (t n : Nat) : firstBeatFrom t ≤ n ↔ t ≤ beatTime n := by
  unfold firstBeatFrom
  split
  next h =>
    have e : beatTime (beatAt t) = t := Nat.le_antisymm ((beatTime_le_iff _ t).mpr (Nat.le_refl _)) h
    conv_rhs => rw [← e, beatTime_le_iff, beatAt_beatTime]
  next h =>
    have hne : t ≠ beatTime n := by
      rintro rfl
      exact h (Nat.le_of_eq (by rw [beatAt_beatTime]))
    rw [Nat.succ_le_iff, ← lt_beatTime_iff, Nat.lt_iff_le_and_ne, and_iff_left hne]

/-- When a staged change is due (R31, R37). -/
theorem dueBeat_le_iff (t b n : Nat) : dueBeat t b ≤ n ↔ t + usLoom 200 ≤ beatTime n ∧ b < beatTime n := by
  rw [dueBeat, Nat.max_le, firstBeatFrom_le_iff, Nat.succ_le_iff, lt_beatTime_iff]

/-! ### STATUS (R49, R76) -/

theorem formNotice_withMail (late : Bool) (p : Nat) (s : State) (mail : Tab Mailbox) (low : Bool) :
    formNotice late p (s.withMail mail low) = (formNotice late p s).withMail mail low := by
  unfold formNotice
  dsimp only
  rw [apply_ite (fun u : State => u.withMail mail low)]
  rfl

theorem addNotice_withMail (n : Notice) (s : State) (mail : Tab Mailbox) (low : Bool) :
    addNotice n (s.withMail mail low) = (addNotice n s).withMail mail low := by
  simp only [addNotice, ← formNotice_withMail]
  rfl

theorem alarmNotice_withMail (onset : Bool) (code part reason : Nat) (s : State) (mail : Tab Mailbox) (low : Bool) :
    alarmNotice onset code part reason (s.withMail mail low) = (alarmNotice onset code part reason s).withMail mail low := by
  simp only [alarmNotice, ← addNotice_withMail]
  rfl

/-- An alarm whose event is not logged is told without a look at the mailboxes. -/
theorem setAlarm_withMail {bit : Nat} (hb : [0, 1, 4, 5].contains bit = false) (on : Bool) (part reason : Nat) (s : State)
    (mail : Tab Mailbox) (low : Bool) :
    setAlarm bit on false part reason (s.withMail mail low) = (setAlarm bit on false part reason s).withMail mail low := by
  simp only [setAlarm, hb, Bool.and_false, Bool.false_eq_true, if_false]
  rw [apply_ite (fun u : State => u.withMail mail low), ← alarmNotice_withMail]
  rfl

/-- STATUS answers with the beat counter as bytes 8 to 15. -/
theorem statusPayload_beat (s : State) : beAt (statusPayload s) 8 8 = s.clk.beat % 2 ^ 64 := by
  unfold statusPayload
  simp only [List.append_assoc]
  rw [beAt_skip _ _ _ _ (by simp), beBytes_length]
  exact beAt_head ..

theorem status_answers (t : Nat) {s : State} {rq : Req} (h : s.Takes rq fun _ => true) (hp : rq.payload = []) :
    ∃ p u, Answers (.status t rq) s rq 0x0001 0 0 p u ∧ beAt p 8 8 = s.clk.beat % 2 ^ 64 := by
  let v := takeReq { rq with cmd := 0x0001 } (tick t s)
  refine ⟨statusPayload v, setAlarm 14 false false 0xFFFF 0 (tick t s), ?_, ?_⟩
  · refine answers_of (c := { code := 0x0001, legal := fun _ => true, standbyNo := false, len := lenIs 0 }) rfl (by decide) h
      (fun e => absurd e (by decide)) (by rw [hp]; rfl) (x := setAlarm 14 false false 0xFFFF 0 v) rfl ?_ (by simp [v]) (by simp [v, h.front])
    exact (takeReq_running (s := tick t s) h.safe 0x0001).map _ (fun v => setAlarm_withMail (by decide) false 0xFFFF 0 v) (by simp)
  · rw [statusPayload_beat, takeReq_clk]
    rfl

end Sys2Proof.Machine

/-! SUPPORT. Moves of the hub state and causes of FAULT (O43, O52): what the operations under a move leave alone, and what
the move itself changes. -/

namespace Sys2Proof.Machine

open Sys2Proof

/-! ### Crossings that keep what they hold -/

/-- The crossings hold or pass their data as before, their stops are those counted, and none that held nothing holds
something. -/
structure Calm (a b : Tab Crossing) : Prop where
  holds : ∀ x, (b.get x).holds = (a.get x).holds
  stops : ∀ x, (b.get x).stops = (a.get x).stops
  held : ∀ x, (a.get x).held = [] → (b.get x).held = []

theorem Calm.refl (a : Tab Crossing) : Calm a a := ⟨fun _ => rfl, fun _ => rfl, fun _ h => h⟩

theorem Calm.of_eq {a b : Tab Crossing} (h : b = a) : Calm a b := h ▸ .refl a

theorem Calm.trans {a b c : Tab Crossing} (h : Calm a b) (k : Calm b c) : Calm a c :=
  ⟨fun x => (k.holds x).trans (h.holds x), fun x => (k.stops x).trans (h.stops x), fun x e => k.held x (h.held x e)⟩

/-- A crossing changed in nothing but what has merged, what is counted, its handshakes, and what it holds no longer. -/
structure Crossing.Eased (c d : Crossing) : Prop where
  holds : d.holds = c.holds
  stops : d.stops = c.stops
  held : c.held = [] → d.held = []

theorem calm_upd (a : Tab Crossing) (x : Nat) {f : Crossing → Crossing} (h : ∀ c : Crossing, c.Eased (f c)) : Calm a (a.upd x f) := by
  constructor <;> intro y <;> by_cases e : y = x
  · rw [e, Tab.get_upd_same, (h _).holds]
  · rw [Tab.get_upd_other a f e]
  · rw [e, Tab.get_upd_same, (h _).stops]
  · rw [Tab.get_upd_other a f e]
  · rw [e, Tab.get_upd_same]
    exact (h _).held
  · rw [Tab.get_upd_other a f e]
    exact id

theorem shakeEvent_calm (x src : Nat) (s : State) : Calm s.itg.crossings (shakeEvent x src s).itg.crossings := by
  simp only [shakeEvent, crossUpd]
  refine calm_upd _ x fun c => ?_
  generalize (if c.holds then c.shakes.get src else (c.shakes.get src).settle (ackLoom x s.clk.loom) s.clk.loom) = h
  split
  · exact ⟨rfl, rfl, id⟩
  · split <;> exact ⟨rfl, rfl, id⟩

/-! ### Operations that leave alone what a beat or a clock looks at -/

/-- Of a state: all that the operations under a move of the hub state leave as it is, but for the crossings. -/
structure Anchor where
  clk : Clocks
  cfg : Cfg
  hub : Hub
  alarms : List Nat
  pow : Power
  warp : Warp
  pair : Pair

/-- That part of a state; when streams were delivered does not belong to it (R345, R347). -/
def State.anchor (s : State) : Anchor :=
  { clk := s.clk, cfg := s.cfg, hub := { s.hub with delivering := false, delivPast := [], left := [] }, alarms := s.sh.alarms
    pow := s.pow, warp := s.warp, pair := s.pair }

/-- A state differs from another in no part of that kind. -/
structure Steady (s s' : State) : Prop where
  anchor : s'.anchor = s.anchor
  cross : Calm s.itg.crossings s'.itg.crossings

theorem Steady.refl (s : State) : Steady s s := ⟨rfl, .refl _⟩

theorem Steady.trans {s u v : State} (a : Steady s u) (b : Steady u v) : Steady s v :=
  ⟨b.anchor.trans a.anchor, a.cross.trans b.cross⟩

/-- The same chained from its end, whose operation is the outermost. -/
theorem Steady.after {s u v : State} (b : Steady u v) (a : Steady s u) : Steady s v := a.trans b

theorem Steady.of_eq {s s' : State} (h : s'.anchor = s.anchor) (hc : s'.itg.crossings = s.itg.crossings) : Steady s s' :=
  ⟨h, .of_eq hc⟩

theorem Steady.ite {s u v : State} {p : Prop} [Decidable p] (hu : p → Steady s u) (hv : ¬ p → Steady s v) :
    Steady s (if p then u else v) := by
  split
  next h => exact hu h
  next h => exact hv h

theorem foldl_steady {α : Type} {f : State → α → State} (hf : ∀ s x, Steady s (f s x)) (l : List α) (s : State) :
    Steady s (l.foldl f s) := by
  induction l generalizing s with
  | nil => exact .refl s
  | cons x r ih => exact (hf s x).trans (ih (f s x))

section
variable (s : State)

theorem chanUpd_steady (ch : Nat) (f : Chan → Chan) : Steady s (chanUpd ch f s) := .of_eq rfl rfl
theorem eventOn_steady (ch mode : Nat) (first : Int) (tE : Nat) (chain : Bool) : Steady s (eventOn ch mode first tE chain s) :=
  .of_eq rfl rfl
theorem leadUpd_steady (ch det : Nat) (f : Lead → Lead) : Steady s (leadUpd ch det f s) := .of_eq rfl rfl
theorem ovrUpd_steady (ch : Nat) (f : Ovr → Ovr) : Steady s (ovrUpd ch f s) := .of_eq rfl rfl
theorem noteSwitch_steady (pod at_ : Nat) : Steady s (noteSwitch pod at_ s) := .of_eq rfl rfl
theorem scUpd_steady (sc : Nat) (f : Converter → Converter) : Steady s (scUpd sc f s) := .of_eq rfl rfl
theorem loopUpd_steady (n : Nat) (f : Loop → Loop) : Steady s (loopUpd n f s) := .of_eq rfl rfl
theorem seqUpd_steady (q : Nat) (f : Seqr → Seqr) : Steady s (seqUpd q f s) := .of_eq rfl rfl
theorem bobUpd_steady (b : Nat) (f : Bobbin → Bobbin) : Steady s (bobUpd b f s) := .of_eq rfl rfl
theorem jobUpd_steady (id : Nat) (f : Job → Job) : Steady s (jobUpd id f s) := .of_eq rfl rfl
theorem stopStims_steady (z : Bool) : Steady s (stopStims z s) := .of_eq rfl rfl
theorem haltStims_steady : Steady s (haltStims s) := .of_eq rfl rfl
theorem startChan_steady (b ch : Nat) : Steady s (startChan b s ch) := .of_eq rfl rfl
theorem initSlot_steady (m : PMem) (n : Nat) : Steady s (initSlot m s n) := .of_eq rfl rfl
theorem crossUpd_steady (x : Nat) {f : Crossing → Crossing} (h : ∀ c : Crossing, c.Eased (f c)) : Steady s (crossUpd x f s) :=
  ⟨rfl, calm_upd _ x h⟩

theorem shakeEvent_steady (x src : Nat) : Steady s (shakeEvent x src s) := ⟨rfl, shakeEvent_calm x src s⟩

theorem logEvent_steady (reason source detail : Nat) : Steady s (logEvent reason source detail s) :=
  .of_eq (by simp [State.anchor]) (by simp)

theorem alarmNotice_steady (onset : Bool) (code part reason : Nat) : Steady s (alarmNotice onset code part reason s) :=
  .of_eq (by simp [State.anchor]) (by simp)

theorem endJob_steady (id st reason : Nat) (result : Bytes) (wfault : Nat) : Steady s (endJob id st reason result wfault s) := by
  have h := (shakeEvent_steady s 9 notifyJob).trans (jobUpd_steady _ id fun j =>
    { j with state := st, reason, result, ended := some (shakeEvent 9 notifyJob s).clk.loom })
  exact .ite (fun _ => h.trans (logEvent_steady ..)) fun _ => h

theorem cancelEvent_steady (c : Staged) : Steady s (cancelEvent s c) := logEvent_steady ..

theorem leadSuspect_steady (ch det : Nat) : Steady s (leadSuspect ch det s) :=
  .ite (fun _ => leadUpd_steady ..) fun _ => leadUpd_steady ..

theorem leadClear_steady (ch det : Nat) (recover : Bool) : Steady s (leadClear ch det recover s) := by
  refine .ite (fun _ => .refl s) fun _ => ?_
  have h := (leadUpd_steady s ch det fun l => { l with
      state := 0, overRow := 0, underRow := 0, wasConfirmed := false
      spans := l.spans.map fun p => if p.2.isNone then (p.1, some s.clk.loom) else p }).trans
    (.ite (p := (s.lead ch det).wasConfirmed = true) (fun _ => alarmNotice_steady _ false 0x20 ch 0) fun _ => .refl _)
  exact .ite (fun _ => h.trans (eventOn_steady ..)) fun _ => h

theorem quietSlot_steady (ch : Nat) : Steady s (quietSlot ch s) :=
  (foldl_steady (fun u d => leadClear_steady u ch d false) _ s).trans (ovrUpd_steady ..)

theorem cutSlots_steady (pod : Nat) : Steady s (cutSlots pod s) :=
  foldl_steady (fun u ch => .ite (fun _ => .ite (fun _ => leadSuspect_steady u ch 3) fun _ => .refl u) fun _ =>
    leadClear_steady u ch 3 true) _ s

theorem cutLeads_steady : Steady s (cutLeads s) := foldl_steady cutSlots_steady _ s

theorem startSampling_steady (b : Nat) : Steady s (startSampling b s) := foldl_steady (fun u ch => startChan_steady u b ch) _ s

theorem stopSampling_steady : Steady s (stopSampling s) :=
  (foldl_steady quietSlot_steady _ s).trans (foldl_steady (fun u ch => chanUpd_steady u ch Chan.stop) _ _)

theorem podsSwitch_steady (pods : List Nat) (at_ : Nat) : Steady s (podsSwitch pods at_ s) :=
  foldl_steady (fun u pod => noteSwitch_steady u pod at_) _ s

theorem rolesSwitch_steady (at_ : Nat) : Steady s (rolesSwitch at_ s) := podsSwitch_steady ..

theorem testEdge_steady (ch : Nat) : Steady s (testEdge ch s) := (noteSwitch_steady s _ _).trans (chanUpd_steady ..)

theorem returnSlot_steady (ch : Nat) : Steady s (returnSlot s ch) :=
  .ite (fun _ => (chanUpd_steady s ch _).trans (testEdge_steady ..)) fun _ => chanUpd_steady ..

theorem testEnd_steady (job st reason : Nat) (result : Bytes) : Steady s (testEnd job st reason result s) := by
  unfold testEnd
  split
  · exact (endJob_steady ..).trans (foldl_steady returnSlot_steady _ _)
  · exact .refl s

theorem endTests_steady : Steady s (endTests s) := foldl_steady (fun u (j : Nat × Job) => testEnd_steady u j.1 3 0 []) _ s

theorem setDelivering_steady (on : Bool) (at_ : Nat) : Steady s (setDelivering on at_ s) :=
  .ite (fun _ => .refl s) fun _ => .of_eq rfl rfl

theorem disarmSeq_steady (q : Nat) : Steady s (disarmSeq s q) :=
  (seqUpd_steady s q _).trans (foldl_steady (fun u b => bobUpd_steady u b _) _ _)

theorem leaveRunTreadle_steady (at_ : Nat) : Steady s (leaveRunTreadle at_ s) :=
  (foldl_steady disarmSeq_steady _ s).trans (.of_eq rfl rfl)

theorem holdTables_steady (at_ : Nat) : Steady s (holdTables at_ s) :=
  foldl_steady (fun u n => .ite (fun _ => loopUpd_steady u n _) fun _ => .refl u) _ s

/-- A crossing that a pass of a list leaves holds no more than before (R137). -/
theorem listsFrom_steady (at_ : Nat) (lists : List Nat) : Steady s (listsFrom at_ lists s) := by
  refine foldl_steady (fun u l => ?_) lists s
  refine .trans (u := { u with conv := { u.conv with passAt := u.conv.passAt.set l (at_, 0), passLeft := u.conv.passLeft.set l 0 } })
    (.of_eq rfl rfl) (foldl_steady (fun v sc => ?_) _ _)
  refine .trans ?_ (scUpd_steady ..)
  exact crossUpd_steady v _ fun c => ⟨rfl, rfl, fun h => by simp [h]⟩

end

/-! ### A move of the hub state (R56, R57, R497) -/

/-- Staged changes that a move has cancelled: those of words are none of them. -/
def keepsWords (keep : Staged → Bool) : Prop := ∀ c ws, c.change = .words ws → keep c = true

/-- A state is another once a move has stopped and started what it does: staged changes other than words may have been
cancelled, and causes of FAULT may have been cleared. -/
structure Moving (s s' : State) : Prop where
  cfg : ∃ keep, keepsWords keep ∧ s'.cfg = { s.cfg with staged := s.cfg.staged.filter keep }
  hub : ∃ causes, s'.anchor.hub = { s.anchor.hub with causes }
  clk : s'.clk = s.clk
  alarms : s'.sh.alarms = s.sh.alarms
  pow : s'.pow = s.pow
  warp : s'.warp = s.warp
  pair : s'.pair = s.pair
  cross : Calm s.itg.crossings s'.itg.crossings

theorem Steady.moving {s s' : State} (h : Steady s s') : Moving s s' where
  cfg := ⟨fun _ => true, fun _ _ _ => rfl, by
    rw [List.filter_true]
    exact congrArg Anchor.cfg h.anchor⟩
  hub := ⟨_, congrArg Anchor.hub h.anchor⟩
  clk := congrArg Anchor.clk h.anchor
  alarms := congrArg Anchor.alarms h.anchor
  pow := congrArg Anchor.pow h.anchor
  warp := congrArg Anchor.warp h.anchor
  pair := congrArg Anchor.pair h.anchor
  cross := h.cross

theorem Moving.trans {s u v : State} (a : Moving s u) (b : Moving u v) : Moving s v where
  cfg := by
    obtain ⟨k, hk, ha⟩ := a.cfg
    obtain ⟨l, hl, hb⟩ := b.cfg
    refine ⟨fun c => l c && k c, fun c ws h => by simp [hk c ws h, hl c ws h], ?_⟩
    rw [hb, ha, List.filter_filter]
  hub := by
    obtain ⟨_, ha⟩ := a.hub
    obtain ⟨_, hb⟩ := b.hub
    exact ⟨_, by rw [hb, ha]⟩
  clk := b.clk.trans a.clk
  alarms := b.alarms.trans a.alarms
  pow := b.pow.trans a.pow
  warp := b.warp.trans a.warp
  pair := b.pair.trans a.pair
  cross := a.cross.trans b.cross

theorem Moving.refl (s : State) : Moving s s := (Steady.refl s).moving

theorem Moving.ite {s u v : State} {p : Prop} [Decidable p] (hu : p → Moving s u) (hv : ¬ p → Moving s v) :
    Moving s (if p then u else v) := by
  split
  next h => exact hu h
  next h => exact hv h

/-- Staged changes other than words are cancelled. -/
theorem cancel_moving (s : State) {keep : Staged → Bool} (hk : keepsWords keep) (cs : List Staged) :
    Moving s (cs.foldl cancelEvent { s with cfg := { s.cfg with staged := s.cfg.staged.filter keep } }) := by
  refine .trans ?_ (foldl_steady cancelEvent_steady cs _).moving
  exact ⟨⟨keep, hk, rfl⟩, ⟨_, rfl⟩, rfl, rfl, rfl, rfl, rfl, .refl _⟩

theorem cancelMoves_moving (s : State) : Moving s (cancelMoves s) :=
  cancel_moving s (fun c ws h => by simp [isMove, h]) _

theorem cancelArms_moving (s : State) : Moving s (cancelArms s) :=
  cancel_moving s (fun c ws h => by simp [h]) _

/-- What stops as the hub leaves a state. -/
theorem leaveState_moving (old new : HubState) (at_ : Nat) (s : State) : Moving s (leaveState old new at_ s) := by
  unfold leaveState
  have then_ : ∀ {p : Prop} [Decidable p] (f : State → State) (_ : ∀ u, Moving u (f u)) {u : State}, Moving s u →
      Moving s (if p then f u else u) := fun f hf _ hu => .ite (fun _ => hu.trans (hf _)) fun _ => hu
  refine then_ endTests (fun u => (endTests_steady u).moving) ?_
  refine then_ (leaveRunTreadle at_) (fun u => (leaveRunTreadle_steady u at_).moving) ?_
  have deliver : ∀ {u : State}, Moving s u → Moving s (if new = .run ∨ new = .service then setDelivering true at_ u
      else if new = .fault ∨ new = .safe then u else setDelivering false at_ u) := fun hu =>
    .ite (fun _ => hu.trans (setDelivering_steady _ _ _).moving) fun _ => .ite (fun _ => hu) fun _ =>
      hu.trans (setDelivering_steady _ _ _).moving
  refine deliver ?_
  refine then_ (fun u => rolesSwitch at_ (if stSampling new then listsFrom at_ (List.range 8) u else u)) (fun u => ?_) ?_
  · exact ((Steady.ite (fun _ => listsFrom_steady ..) fun _ => .refl u).trans (rolesSwitch_steady ..)).moving
  · refine then_ (fun u => { u with hub := { u.hub with left := at_ :: u.hub.left.filter fun x => decide (u.clk.loom < x + 2 ^ 31) } })
      (fun u => Steady.moving (.of_eq rfl rfl)) ?_
    exact then_ cancelArms cancelArms_moving (then_ cancelMoves cancelMoves_moving (.refl s))

/-- What starts and stops as the hub arrives in a state. -/
theorem arriveState_moving (old new : HubState) (reason at_ : Nat) (s : State) : Moving s (arriveState old new reason at_ s) := by
  cases new with
  | ready =>
    have h : Moving s (if old = .run ∨ old = .fault then stopStims false (startSampling at_ s) else startSampling at_ s) :=
      .ite (fun _ => ((startSampling_steady s at_).trans (stopStims_steady ..)).moving) fun _ => (startSampling_steady s at_).moving
    refine .trans (.ite (p := old = .fault) (fun _ => h.trans ?_) fun _ => h) (foldl_steady (fun u n => initSlot_steady u _ n) _ _).moving
    exact ⟨(Moving.refl _).cfg, ⟨[], rfl⟩, rfl, rfl, rfl, rfl, rfl, .refl _⟩
  | run => exact (startSampling_steady s at_).moving
  | service => exact ((stopStims_steady s true).trans (holdTables_steady ..)).moving
  | config => exact ((stopSampling_steady s).trans (stopStims_steady ..)).moving
  | fault =>
    exact (Steady.trans (.ite (p := s.yields = true) (fun _ => .refl s) fun _ => stopStims_steady s true)
      (alarmNotice_steady ..)).moving
  | boot => exact .refl s
  | safe => exact (haltStims_steady s).moving

section
variable {s s' : State}

theorem Moving.state (h : Moving s s') : s'.hub.state = s.hub.state := by
  obtain ⟨_, e⟩ := h.hub
  have := congrArg Hub.state e
  exact this

theorem Moving.lastCause (h : Moving s s') : s'.hub.lastCause = s.hub.lastCause := by
  obtain ⟨_, e⟩ := h.hub
  have := congrArg Hub.lastCause e
  exact this

end

/-- The hub state set, with what its entry records (R56, R76). -/
def State.inState (s : State) (state safeFrom : HubState) (lastCause : Nat) : State :=
  { s with hub := { s.hub with state, safeFrom, lastCause } }

theorem Moving.inState {s s' : State} (h : Moving s s') (state safeFrom : HubState) (lastCause : Nat) :
    Moving (s.inState state safeFrom lastCause) (s'.inState state safeFrom lastCause) where
  cfg := h.cfg
  hub := by
    obtain ⟨causes, e⟩ := h.hub
    exact ⟨causes, congrArg (fun x : Hub => { x with state, safeFrom, lastCause }) e⟩
  clk := h.clk
  alarms := h.alarms
  pow := h.pow
  warp := h.warp
  pair := h.pair
  cross := h.cross

/-- A move that takes effect sets the state; the rest is what stops and starts. -/
theorem enterState_moving {new : HubState} (reason source at_ : Nat) {s : State} (hne : s.hub.state ≠ new)
    (hs : s.hub.state = .safe → new = .boot) :
    Moving (s.inState new (if new = .safe then s.hub.state else s.hub.safeFrom) (if reason = 0 then s.hub.lastCause else reason))
      (enterState new reason source at_ s) := by
  have hn : ¬ (s.hub.state = new ∨ (s.hub.state = .safe ∧ new ≠ .boot)) := by
    rintro (h | ⟨h, hb⟩)
    · exact hne h
    · exact hb (hs h)
  unfold enterState
  dsimp only
  rw [if_neg hn]
  exact (logEvent_steady ..).moving.trans ((leaveState_moving ..).trans ((arriveState_moving ..).trans (cutLeads_steady _).moving))

/-- One that does not changes nothing. -/
theorem enterState_same {new : HubState} (reason source at_ : Nat) {s : State}
    (h : s.hub.state = new ∨ (s.hub.state = .safe ∧ new ≠ .boot)) : enterState new reason source at_ s = s := if_pos h

/-- A state is another once the hub state may have moved. -/
def Moved (s s' : State) : Prop := ∃ state safeFrom lastCause, Moving (s.inState state safeFrom lastCause) s'

theorem Moving.moved {s s' : State} (h : Moving s s') : Moved s s' := ⟨_, _, _, h⟩

theorem Moved.refl (s : State) : Moved s s := (Moving.refl s).moved

theorem Moved.trans {s u v : State} (a : Moved s u) (b : Moved u v) : Moved s v := by
  obtain ⟨_, _, _, ha⟩ := a
  obtain ⟨st, sf, lc, hb⟩ := b
  exact ⟨st, sf, lc, (ha.inState st sf lc).trans hb⟩

theorem enterState_moved (new : HubState) (reason source at_ : Nat) (s : State) : Moved s (enterState new reason source at_ s) := by
  by_cases h : s.hub.state = new ∨ (s.hub.state = .safe ∧ new ≠ .boot)
  · rw [enterState_same reason source at_ h]
    exact .refl s
  · rw [not_or, not_and_not_right] at h
    exact ⟨_, _, _, enterState_moving reason source at_ h.1 h.2⟩

/-- A cause of FAULT is recorded once. -/
theorem addCause_moving (c : FaultCause) (s : State) :
    Moving s (if s.hub.causes.contains c then s else { s with hub := { s.hub with causes := s.hub.causes ++ [c] } }) := by
  refine .ite (fun _ => .refl s) fun _ => ?_
  exact ⟨(Moving.refl s).cfg, ⟨_, rfl⟩, rfl, rfl, rfl, rfl, rfl, .refl _⟩

theorem enterFault_moved (c : FaultCause) (s : State) : Moved s (enterFault c s) := by
  have moves := (enterState_moved .fault (causeReason c) 0 s.clk.loom s).trans (addCause_moving c _).moved
  unfold enterFault
  dsimp only
  split
  · exact (addCause_moving c s).moved
  · exact moves
  · exact moves
  · exact moves
  · exact moves
  · exact .refl s
  · exact .refl s

theorem macFault_moved (s : State) : Moved s (macFault s) := by
  unfold macFault
  split
  · exact .refl s
  · exact enterFault_moved ..

theorem foldl_moved {α : Type} {f : State → α → State} (hf : ∀ s x, Moved s (f s x)) (l : List α) (s : State) :
    Moved s (l.foldl f s) := by
  induction l generalizing s with
  | nil => exact .refl s
  | cons x r ih => exact (hf s x).trans (ih (f s x))

theorem addCause_contains (c : FaultCause) (s : State) :
    (if s.hub.causes.contains c then s else { s with hub := { s.hub with causes := s.hub.causes ++ [c] } } : State).hub.causes.contains c
      = true := by
  split
  · assumption
  · simp

theorem causeReason_ne_zero (c : FaultCause) : causeReason c ≠ 0 := by
  cases c <;> simp [causeReason]

/-- A cause that arises in a state from CONFIG to SERVICE brings FAULT, with its reason; in FAULT it is recorded (R497). -/
theorem enterFault_spec (c : FaultCause) {s : State} (hb : s.hub.state ≠ .boot) (hs : s.hub.state ≠ .safe) :
    (enterFault c s).hub.state = .fault ∧ (enterFault c s).hub.causes.contains c = true
      ∧ (s.hub.state ≠ .fault → (enterFault c s).hub.lastCause = causeReason c) := by
  have enters : s.hub.state ≠ .fault → let u := enterState .fault (causeReason c) 0 s.clk.loom s
      let v : State := if u.hub.causes.contains c then u else { u with hub := { u.hub with causes := u.hub.causes ++ [c] } }
      v.hub.state = .fault ∧ v.hub.causes.contains c = true ∧ (s.hub.state ≠ .fault → v.hub.lastCause = causeReason c) := by
    intro hf u v
    have h := enterState_moving (causeReason c) 0 s.clk.loom hf fun h => absurd h hs
    have add := addCause_moving c u
    exact ⟨add.state.trans h.state, addCause_contains c u,
      fun _ => add.lastCause.trans (h.lastCause.trans (if_neg (causeReason_ne_zero c)))⟩
  unfold enterFault
  dsimp only
  split
  next h => exact ⟨(addCause_moving c s).state.trans h, addCause_contains c s, fun hf => absurd h hf⟩
  next h => exact enters (by simp [h])
  next h => exact enters (by simp [h])
  next h => exact enters (by simp [h])
  next h => exact enters (by simp [h])
  next h => exact absurd h hb
  next h => exact absurd h hs

end Sys2Proof.Machine

/-! SUPPORT. Beat boundaries (O5, O43): what the changes that take effect there leave of loom time, of the configurations and
of the words that still wait, what the rest of the boundary leaves of the state, and BEAT_BOUNDARY put together. -/

namespace Sys2Proof.Machine

open Sys2Proof

/-! ### What a change that takes effect leaves alone -/

/-- A staged change that takes effect, words and swaps apart, leaves the clocks, the configurations and copies, alarm 2, and
every staged change of words. -/
structure Applies (s s' : State) : Prop where
  clk : s'.clk = s.clk
  force : s'.cfg.force = s.cfg.force
  seq : s'.cfg.seq = s.cfg.seq
  copyA : s'.cfg.copyA = s.cfg.copyA
  copyB : s'.cfg.copyB = s.cfg.copyB
  active : s'.cfg.active = s.cfg.active
  overrun : s'.sh.alarms.contains 2 = s.sh.alarms.contains 2
  words : ∀ c ∈ s.cfg.staged, (∃ ws, c.change = .words ws) → c ∈ s'.cfg.staged

theorem Applies.trans {s u v : State} (a : Applies s u) (b : Applies u v) : Applies s v :=
  ⟨b.clk.trans a.clk, b.force.trans a.force, b.seq.trans a.seq, b.copyA.trans a.copyA, b.copyB.trans a.copyB,
    b.active.trans a.active, b.overrun.trans a.overrun, fun c h hw => b.words c (a.words c h hw) hw⟩

/-- One that touches neither the clocks nor the configuration nor alarm 2. -/
theorem Applies.of_same {s s' : State} (h : s'.clk = s.clk) (hc : s'.cfg = s.cfg)
    (ha : s'.sh.alarms.contains 2 = s.sh.alarms.contains 2) : Applies s s' :=
  ⟨h, by rw [hc], by rw [hc], by rw [hc], by rw [hc], by rw [hc], ha, fun c hm _ => by rw [hc]; exact hm⟩

/-- The same chained from its end, whose operation is the outermost. -/
theorem Applies.after {s u v : State} (b : Applies u v) (a : Applies s u) : Applies s v := a.trans b

theorem Applies.refl (s : State) : Applies s s := .of_same rfl rfl rfl

theorem Steady.applies {s s' : State} (h : Steady s s') : Applies s s' :=
  .of_same (congrArg Anchor.clk h.anchor) (congrArg Anchor.cfg h.anchor)
    (congrArg (fun a : Anchor => a.alarms.contains 2) h.anchor)

theorem Moved.applies {s s' : State} (h : Moved s s') : Applies s s' := by
  obtain ⟨_, _, _, h⟩ := h
  obtain ⟨keep, hk, hc⟩ := h.cfg
  refine ⟨h.clk, by rw [hc]; rfl, by rw [hc]; rfl, by rw [hc]; rfl, by rw [hc]; rfl, by rw [hc]; rfl, by rw [h.alarms]; rfl, ?_⟩
  rintro c hm ⟨ws, hw⟩
  rw [hc]
  exact List.mem_filter.mpr ⟨hm, hk c ws hw⟩

theorem Applies.ite {s u v : State} {p : Prop} [Decidable p] (hu : p → Applies s u) (hv : ¬ p → Applies s v) :
    Applies s (if p then u else v) := by
  split
  next h => exact hu h
  next h => exact hv h

/-- What is done unless a condition holds. -/
theorem Applies.unless {s u v : State} {p : Prop} [Decidable p] (h : Applies u v) (a : Applies s u) :
    Applies s (if p then u else v) := .ite (fun _ => a) fun _ => a.trans h

theorem foldl_applies {α : Type} {f : State → α → State} (hf : ∀ s x, Applies s (f s x)) (l : List α) (s : State) :
    Applies s (l.foldl f s) := by
  induction l generalizing s with
  | nil => exact .refl s
  | cons x r ih => exact (hf s x).trans (ih (f s x))

section
variable (s : State)

theorem setAlarm_applies {bit : Nat} (hb : 2 ≠ bit) (on logged : Bool) (part reason : Nat) :
    Applies s (setAlarm bit on logged part reason s) :=
  .of_same (by simp) (by simp) (setAlarm_contains_other _ _ _ _ _ hb)

theorem fillAlarms_applies : Applies s (fillAlarms s) := by
  unfold fillAlarms
  dsimp only
  generalize hu : ({ s with weft := { s.weft with highFill := max s.weft.highFill s.fill } } : State) = u
  have h0 : Applies s u := hu ▸ .of_same rfl rfl rfl
  have h1 : Applies s (if u.retained * 10 ≥ u.poolSize * 9 then setAlarm 0 true true 0xFFFF 0 u
      else if u.retained * 100 < u.poolSize * 85 then setAlarm 0 false true 0xFFFF 0 u else u) :=
    .ite (fun _ => h0.trans (setAlarm_applies u (by decide) ..)) fun _ =>
      .ite (fun _ => h0.trans (setAlarm_applies u (by decide) ..)) fun _ => h0
  exact .ite (fun _ => h1.trans (setAlarm_applies _ (by decide) ..)) fun _ => h1

theorem seedAlarm_applies (part : Nat) : Applies s (seedAlarm part s) := setAlarm_applies s (by decide) ..

theorem plyAlarms_applies (die : Nat) : Applies s (plyAlarms die s) :=
  (setAlarm_applies s (by decide) ..).trans (setAlarm_applies _ (by decide) ..)

theorem mirrorAlarm_applies (on : Bool) : Applies s (mirrorAlarm on s) :=
  .trans (.ite (fun _ => (logEvent_steady ..).applies) fun _ => .refl s) (setAlarm_applies _ (by decide) ..)

theorem uncertainAlarm_applies (on : Bool) : Applies s (uncertainAlarm on s) :=
  .trans (.ite (fun _ => (logEvent_steady ..).applies) fun _ => .refl s) (setAlarm_applies _ (by decide) ..)

/-! ### Parts of the state that none of this is in -/

theorem withCal_applies (cal : Cal) : Applies s { s with cal } := .of_same rfl rfl rfl

theorem withPow_applies (pow : Power) : Applies s { s with pow } := .of_same rfl rfl rfl

theorem withPair_applies (pair : Pair) : Applies s { s with pair } := .of_same rfl rfl rfl

theorem withHub_applies (hub : Hub) : Applies s { s with hub } := .of_same rfl rfl rfl

theorem withWarp_applies (warp : Warp) : Applies s { s with warp } := .of_same rfl rfl rfl

theorem withConv_applies (conv : Conv) : Applies s { s with conv } := .of_same rfl rfl rfl

theorem crossUpd_applies (x : Nat) (f : Crossing → Crossing) : Applies s (crossUpd x f s) := .of_same rfl rfl rfl

theorem withDrv_applies (drv : Drive) : Applies s { s with drv } := .of_same rfl rfl rfl

theorem withTrd_applies (trd : Treadle) : Applies s { s with trd } := .of_same rfl rfl rfl

theorem withFilt_applies (filt : Filt) : Applies s { s with filt } := .of_same rfl rfl rfl

theorem withHed_applies (hed : Heddle) : Applies s { s with hed } := .of_same rfl rfl rfl

theorem withWeft_applies (weft : Weft) : Applies s { s with weft } := .of_same rfl rfl rfl

theorem stimUpd_applies (p : Nat) (f : Stim → Stim) : Applies s (stimUpd p f s) := .of_same rfl rfl rfl

theorem wornPut_applies (kind pod idx st : Nat) : Applies s (wornPut kind pod idx st s) := .of_same rfl rfl rfl

theorem keepCal_applies (at_ : Nat) : Applies s (keepCal at_ s) := withCal_applies s _

/-! ### Locks and roles -/

theorem setLock_applies (l : Lock) : Applies s (setLock l s) := by
  unfold setLock holdAlarm
  split
  · exact .refl s
  · exact .after ((logEvent_steady ..).applies.trans (setAlarm_applies _ (by decide) ..)) (.of_same rfl rfl rfl)

theorem freeLock_applies : Applies s (freeLock s) :=
  .ite (fun _ => .after (setLock_applies ..) (.of_same rfl rfl rfl)) fun _ => .refl s

theorem setRole_applies (r : Role) : Applies s (setRole r s) := .ite (fun _ => .refl s) fun _ => .of_same rfl rfl rfl

theorem svSend_applies (typ : Nat) (payload : Bytes) : Applies s (svSend typ payload s) :=
  .of_same (by simp [svSend, svForm]) (by simp [svSend, svForm]) (by simp [svSend, svForm])

theorem askResync_applies : Applies s (askResync s) := by
  unfold askResync
  dsimp only
  split
  · exact .of_same rfl rfl rfl
  · exact .after (svSend_applies ..) (.of_same rfl rfl rfl)

theorem pairChange_applies (old new : PMem) : Applies s (pairChange old new s) := by
  refine .ite (fun _ => .refl s) fun _ => .ite (fun _ => .of_same rfl rfl rfl) fun _ => ?_
  exact (uncertainAlarm_applies s false).trans ((mirrorAlarm_applies _ false).trans ((setRole_applies _ _).trans
    (.of_same rfl rfl rfl)))

/-! ### Converters (R133 to R137) -/

theorem placeTap_parts (sc : Nat) : ∃ hed conv, placeTap sc s = { s with hed, conv } := by
  unfold placeTap
  dsimp only
  split
  · exact ⟨_, _, rfl⟩
  · split
    · exact ⟨_, _, rfl⟩
    · split
      · exact ⟨_, _, rfl⟩
      · exact ⟨_, _, rfl⟩

theorem grant_parts (sc : Nat) : ∃ hed conv, grant sc s = { s with hed, conv } := by
  obtain ⟨hed, conv, h⟩ := placeTap_parts s sc
  unfold grant
  split
  · exact ⟨_, _, rfl⟩
  · dsimp only
    rw [h]
    split <;> exact ⟨_, _, rfl⟩

theorem grant_steady (sc : Nat) : Steady s (grant sc s) := by
  obtain ⟨hed, conv, h⟩ := grant_parts s sc
  rw [h]
  exact .of_eq rfl rfl

theorem request_steady (sc : Nat) (r : ScRequest) : Steady s (request sc r s) := .after (grant_steady ..) (scUpd_steady ..)

theorem openTap_steady (pod tt : Nat) : Steady s (openTap pod tt s) := .ite (fun _ => .of_eq rfl rfl) fun _ => .refl s

theorem releaseTaps_steady (pods : List Nat) : Steady s (releaseTaps pods s) :=
  foldl_steady (fun u pod => foldl_steady (fun v tt => openTap_steady v pod tt) _ u) _ s

theorem reply_applies (rq : Req) (r : Reply) : Applies s (reply rq r s) := .of_same (by simp) (by simp) (by simp)

/-- The converters of a die that goes off drop what they had (R18, R134). -/
theorem dropConverters_applies (die : Nat) : Applies s (dropConverters die s) := by
  refine .after (crossUpd_applies ..) (.after (foldl_applies (fun u sc => ?_) _ _) (releaseTaps_steady ..).applies)
  refine .after (foldl_applies (fun v r => ?_) _ _) (.after (foldl_applies (fun v r => ?_) _ _) (scUpd_steady ..).applies)
  · split
    · exact reply_applies ..
    · exact reply_applies ..
    · exact reply_applies ..
    · exact (jobUpd_steady ..).applies
    · exact .ite (fun _ => withConv_applies v _) fun _ => .refl v
  · split
    · exact .ite (fun _ => (openTap_steady ..).applies) fun _ => .refl v
    · exact .refl v

theorem askAgain_steady (gone : List Held) : Steady s (askAgain gone s) := by
  refine foldl_steady (fun u i => ?_) _ s
  split
  · exact request_steady ..
  · exact .refl u

theorem emptyCrossing_applies (x : Nat) : Applies s (emptyCrossing x s) := by
  unfold emptyCrossing
  refine .after (askAgain_steady ..).applies (.ite (fun _ => ?_) fun _ => .ite (fun _ => ?_) fun _ => crossUpd_applies ..)
  · exact .after (withWarp_applies _ _) (crossUpd_applies ..)
  · exact .after (withPair_applies _ _) (crossUpd_applies ..)

/-! ### Power domains (R452 to R454) -/

theorem allLost_applies (store : Bool) : Applies s (allLost store s) :=
  (foldl_steady (fun u ch => chanUpd_steady u ch _) _ s).applies

theorem dieLost_applies (die : Nat) : Applies s (dieLost die s) := (foldl_steady (fun u ch => chanUpd_steady u ch _) _ s).applies

theorem storeGone_applies : Applies s (storeGone s) := .after (fillAlarms_applies _) (.of_same rfl rfl rfl)

theorem portDown_applies (port : Nat) : Applies s (portDown port s) := .of_same rfl rfl rfl

theorem dieSwitch_applies (die : Nat) : Applies s (dieSwitch die s) :=
  .ite (fun _ => (podsSwitch_steady ..).applies) fun _ => .refl s

theorem quietDie_applies (die : Nat) : Applies s (quietDie die s) :=
  (dropConverters_applies s die).trans ((foldl_steady quietSlot_steady _ _).applies.trans (dieLost_applies ..))

theorem domainStops_applies (d : Nat) : Applies s (domainStops d s) := by
  refine .ite (fun _ => (foldl_applies (fun u x => emptyCrossing_applies u x) _ s).trans (allLost_applies ..)) fun _ =>
    .ite (fun _ => (storeGone_applies s).trans (allLost_applies ..)) fun _ =>
    .ite (fun _ => (portDown_applies s 0).trans (portDown_applies ..)) fun _ => .ite (fun _ => ?_) fun _ => .refl s
  exact (dieSwitch_applies s _).trans ((quietDie_applies ..).trans (plyAlarms_applies ..))

theorem startDomain_applies (d : Nat) : Applies s (startDomain d s) := .ite (fun _ => .of_same rfl rfl rfl) fun _ => .of_same rfl rfl rfl

theorem stopDomain_applies (d : Nat) : Applies s (stopDomain d s) :=
  .ite (fun _ => .refl s) fun _ => .after (domainStops_applies ..) (.of_same rfl rfl rfl)

theorem applyDomains_applies (mask : Nat) : Applies s (applyDomains mask s) :=
  foldl_applies (fun u d => .ite (fun _ => .ite (fun _ => startDomain_applies u d) fun _ => .refl u) fun _ => stopDomain_applies u d) _ s

/-! ### The other staged changes -/

theorem stepPods_applies (pods : List Nat) (b : Nat) : Applies s (stepPods pods b s) :=
  (foldl_steady (fun u ch => chanUpd_steady u ch _) _ s).applies

theorem settleWorn_applies : Applies s (settleWorn s) := .after (seedAlarm_applies ..) (withPow_applies s _)

theorem applyCal_applies (at_ : Nat) (pods : List Nat) : Applies s (applyCal at_ pods s) :=
  .ite (fun _ => .refl s) fun _ => .after ((stepPods_applies ..).trans (settleWorn_applies _))
    (.after (withCal_applies _ _) (keepCal_applies ..))

theorem applyTemp_applies (at_ beat pod : Nat) (value : Word) : Applies s (applyTemp at_ beat pod value s) :=
  .ite (fun _ => .refl s) fun _ => .after (stepPods_applies ..)
    (.after (withCal_applies _ _) (keepCal_applies ..))

theorem applySubst_applies (kind idx : Nat) : Applies s (applySubst kind idx s) := by
  have put : Applies s (wornPut kind 0xFF idx 2 (logEvent 0 0x0E00 (seedDetail kind 0xFF idx) s)) :=
    .after (wornPut_applies ..) (logEvent_steady ..).applies
  have use := put.trans (withPow_applies _ { (wornPut kind 0xFF idx 2 (logEvent 0 0x0E00 (seedDetail kind 0xFF idx) s)).pow with
    used := (wornPut kind 0xFF idx 2 (logEvent 0 0x0E00 (seedDetail kind 0xFF idx) s)).pow.used.upd kind (· + 1) })
  refine .ite (fun _ => ?_) fun _ => .refl s
  exact .ite (fun _ => use.trans (withHub_applies _ _)) fun _ => .ite (fun _ => use.trans (withPair_applies _ _)) fun _ => use

theorem applyConsent_applies (kind pod part spare : Nat) : Applies s (applyConsent kind pod part spare s) := by
  refine .after (seedAlarm_applies ..) (.ite (fun _ => ?_) fun _ => ?_)
  · exact .after (withCal_applies _ _) (.after (withConv_applies _ _) (.after (withPow_applies _ _)
      (.after (wornPut_applies ..) (logEvent_steady ..).applies)))
  · exact .after (withCal_applies _ _) (.after (withPow_applies _ _) (.after (wornPut_applies ..) (logEvent_steady ..).applies))

theorem consentChange_applies (at_ kind pod part spare : Nat) : Applies s (consentChange at_ kind pod part spare s) := by
  refine (applyConsent_applies s kind pod part spare).trans (.ite (fun _ => ?_) fun _ => .refl _)
  exact (foldl_steady (fun u ch => .ite (fun _ => chanUpd_steady ..) fun _ => .refl u) _ _).applies

theorem exchangeSources_applies (b : Nat) : Applies s (exchangeSources b s) :=
  .ite (fun _ => (foldl_steady (fun u ch => eventOn_steady u ch _ _ _ _) _ s).applies) fun _ => .refl s

theorem startStims_applies (mask start : Nat) : Applies s (startStims mask start s) :=
  foldl_applies (fun u p => stimUpd_applies u p _) _ s

theorem holdStims_applies (mask hold : Nat) : Applies s (holdStims mask hold s) :=
  foldl_applies (fun u p => stimUpd_applies u p _) _ s

theorem armSeq_steady (at_ q : Nat) : Steady s (armSeq at_ s q) :=
  (seqUpd_steady ..).trans (foldl_steady (fun u b => bobUpd_steady u b _) _ _)

theorem applyOther_applies (at_ beat : Nat) (c : Staged) : Applies s (applyOther at_ beat s c) := by
  unfold applyOther
  split
  · exact .refl s
  · exact .refl s
  · exact .ite (fun _ => (enterState_moved ..).applies) fun _ => .refl s
  · exact (loopUpd_steady ..).applies
  · exact .ite (fun _ => (foldl_steady (fun u q => armSeq_steady u at_ q) _ s).applies) fun _ => (cancelEvent_steady ..).applies
  · exact .ite (fun _ => (foldl_steady disarmSeq_steady _ s).applies) fun _ => (cancelEvent_steady ..).applies
  · exact startStims_applies ..
  · exact holdStims_applies ..
  · exact applyCal_applies ..
  · exact applyTemp_applies ..
  · exact applyDomains_applies ..
  · exact applySubst_applies ..
  · exact consentChange_applies ..
  · exact .after ((setRole_applies ..).trans (enterState_moved ..).applies) (.of_same rfl rfl rfl)
  · split
    · exact exchangeSources_applies ..
    · exact .refl s
  · exact .refl s
  · exact .ite (fun _ => (setRole_applies ..).trans (askResync_applies _)) fun _ => .refl s

/-! ### Words and swaps (R31, R33) -/

theorem huskMismatch_applies (source detail : Nat) : Applies s (huskMismatch source detail s) :=
  .after (logEvent_steady ..).applies (.of_same rfl rfl rfl)

/-- Staged changes come before those that wait. -/
theorem stagedBefore_applies (c : Staged) (fails : Tab Nat) :
    Applies s { s with cfg := { s.cfg with huskFails := fails, staged := c :: s.cfg.staged } } :=
  ⟨rfl, rfl, rfl, rfl, rfl, rfl, rfl, fun _ h _ => List.mem_cons_of_mem _ h⟩

theorem huskFail_applies (kw : Nat × Word) : Applies s (huskFail s kw) :=
  .after (stagedBefore_applies ..) (huskMismatch_applies ..)

theorem endDeferred_applies (at_ beat die : Nat) : Applies s (endDeferred at_ beat die s) := by
  have jobs := (foldl_steady (f := fun (u : State) (d : Nat × Nat) => endJob d.2 1 0 [] 0 (jobUpd d.2 (fun j => { j with beat }) u))
    (fun u d => .after (endJob_steady ..) (jobUpd_steady ..)) (s.filt.deferred.filter fun d => d.1 == die) s).applies
  exact .ite (fun _ => .refl s) fun _ => jobs.trans (withFilt_applies _ _)

theorem podSwitches_applies (old new : PMem) (b : Nat) (threads : List (Nat × Nat)) : Applies s (podSwitches old new b threads s) := by
  refine .after (foldl_applies (fun u p => ?_) _ _) (foldl_applies (fun u ch => ?_) _ s)
  · exact .after (withHed_applies _ _) (noteSwitch_steady ..).applies
  · exact (noteSwitch_steady ..).applies

theorem channelChange_steady (old new : PMem) (b : Nat) (threads : List (Nat × Nat)) (ch : Nat) :
    Steady s (channelChange old new b threads s ch) := by
  refine .ite (fun _ => .ite (fun _ => startChan_steady ..) fun _ => ?_) fun _ => .ite (fun _ => quietSlot_steady ..) fun _ => .refl s
  exact .after (chanUpd_steady ..) (foldl_steady (fun u k => .ite (fun _ => leadClear_steady ..) fun _ => .refl u) _ s)

theorem portEnabled_applies (old new : PMem) (port : Nat) : Applies s (portEnabled old new s port) :=
  .ite (fun _ => .refl s) fun _ => .ite (fun _ => withWeft_applies s _) fun _ => withWeft_applies s _

theorem noteDefs_applies (old new : PMem) (at_ : Nat) : Applies s (noteDefs old new at_ s) := by
  have streams := foldl_applies (f := fun (u : State) k => streamUpd k (fun x => { x with changes := at_ :: x.changes }) u)
    (fun u k => withWeft_applies u _) ((List.range 16).filter fun k => old.streamDef k != new.streamDef k) s
  have bobs := streams.trans (foldl_steady (f := fun (u : State) b => bobUpd b (fun x => { x with changes := at_ :: x.changes }) u)
    (fun u b => bobUpd_steady u b _) ((List.range 8).filter fun b => old.bobDef b != new.bobDef b) _).applies
  exact .ite (fun _ => bobs) fun _ => bobs.trans (foldl_steady (fun u b => bobUpd_steady u b _) _ _).applies

theorem dropComps_applies (old new : PMem) (at_ : Nat) : Applies s (dropComps old new at_ s) :=
  foldl_applies (fun u _ => withTrd_applies u _) _ s

theorem adoptPins_applies (old new : PMem) (at_ : Nat) : Applies s (adoptPins old new at_ s) :=
  foldl_applies (fun u _ => .ite (fun _ => withTrd_applies u _) fun _ => .ite (fun _ => withTrd_applies u _) fun _ => .refl u) _ s

theorem clearTables_applies (old new : PMem) : Applies s (clearTables old new s) :=
  foldl_applies (fun u _ => .ite (fun _ => .ite (fun _ => withDrv_applies u _) fun _ => withDrv_applies u _) fun _ => .refl u) _ s

theorem resetStims_applies (old new : PMem) : Applies s (resetStims old new s) :=
  foldl_applies (fun u p => stimUpd_applies u p _) _ s

/-- What changes as the active configuration does. -/
theorem startMoved_applies (old new : PMem) (at_ : Nat) (lists : List Nat) (s : State) :
    Applies s (clearTables old new (dropComps old new at_ (adoptPins old new at_ (listsFrom at_ lists s)))) :=
  .after (clearTables_applies ..) (.after (dropComps_applies ..) (.after (adoptPins_applies ..) (listsFrom_steady ..).applies))

theorem restartMains_applies : Applies s (restartMains s) := withFilt_applies s _

/-- The active copies apart, words and swaps leave all that of the state. -/
theorem applyWords_applies (at_ beat : Nat) (bad : List Nat) (due : List Staged) :
    ∃ fails, Applies (putActive at_ (liveBanks (stagedSwaps due) (s.cfg.active.putAll
        ((stagedWords due).filter fun kw => !(bad.contains kw.1)))) fails s) (applyWords at_ beat bad due s) := by
  refine ⟨((stagedWords due).filter fun kw => !(bad.contains kw.1)).foldl (fun (t : Tab Nat) kw => t.set kw.1 0) s.cfg.huskFails, ?_⟩
  unfold applyWords
  dsimp only
  generalize liveBanks (stagedSwaps due) (s.cfg.active.putAll ((stagedWords due).filter fun kw => !(bad.contains kw.1))) = new
  generalize s.cfg.active = old
  generalize List.foldl (fun (t : Tab Nat) (kw : Nat × Word) => t.set kw.1 0) s.cfg.huskFails _ = fails
  generalize List.foldl (fun (t : List (Nat × Word)) (kw : Nat × Word) => t.filter (fun x => x.1 != kw.1) ++ [kw]) [] _ = last
  generalize putActive at_ new fails s = u
  have jobs := foldl_applies (fun v (d : Nat × Nat) => endDeferred_applies v at_ beat d.1) (stagedSwaps due) u
  have husks := jobs.trans (foldl_applies huskFail_applies last _)
  refine .ite (fun _ => husks) fun _ => ?_
  refine .unless (freeLock_applies _) (.after (pairChange_applies ..) (.after (resetStims_applies ..)
    (.after (foldl_applies (fun v n => (initSlot_steady v new n).applies) _ _) (.after (startMoved_applies ..) ?_))))
  refine .unless (fillAlarms_applies _) (.after (noteDefs_applies ..) (.after (foldl_applies (fun v port => portEnabled_applies v old new port) _ _)
    (.unless (restartMains_applies _) (.ite (fun _ => ?_) fun _ => husks))))
  exact husks.trans ((podSwitches_applies ..).trans (.after (cutLeads_steady _).applies
    (foldl_applies (fun v ch => (channelChange_steady v old new at_ _ ch).applies) _ _)))

/-! ### The staged changes of a boundary -/

theorem withFails_applies (huskFails : Tab Nat) : Applies s { s with cfg := { s.cfg with huskFails } } :=
  ⟨rfl, rfl, rfl, rfl, rfl, rfl, rfl, fun _ h _ => h⟩

theorem takeOther_applies (at_ beat : Nat) (bad : List Nat) (c : Staged) : Applies s (takeOther at_ beat bad s c) := by
  unfold takeOther
  split
  · exact applyOther_applies ..
  · refine .ite (fun _ => ?_) fun _ => .after (applyOther_applies ..) (withFails_applies ..)
    exact .after (stagedBefore_applies ..) (.after (withFails_applies ..) (huskMismatch_applies ..))

theorem boundaryCauses_applies (old : PMem) (bad : List Nat) : Applies s (boundaryCauses old bad s) := by
  have causes := (foldl_moved (fun u k => enterFault_moved (.stagedHusk k) u)
    (bad.filter fun k => decide (3 ≤ s.cfg.huskFails.get k)) s).applies
  exact .ite (fun _ => causes) fun _ => causes.trans (macFault_moved _).applies

/-- Whether a staged change takes effect at a boundary (R31, R409, R410). -/
def State.takes (s : State) (beat : Nat) (c : Staged) : Bool :=
  decide (c.due ≤ beat) && (staysStaged c.change || !(s.crossHolds 8))

/-- The configuration active from a boundary on. -/
def State.activeFrom (s : State) (beat : Nat) (bad : List Nat) : PMem :=
  liveBanks (stagedSwaps (s.cfg.staged.filter (s.takes beat))) (s.cfg.active.putAll
    ((stagedWords (s.cfg.staged.filter (s.takes beat))).filter fun kw => !(bad.contains kw.1)))

/-- The configuration at a boundary: the staged changes due have gone, and the others are all there. -/
structure Taken (beat : Nat) (bad : List Nat) (s s' : State) : Prop where
  clk : s'.clk = s.clk
  force : s'.cfg.force = s.cfg.force
  seq : s'.cfg.seq = s.cfg.seq
  copyA : s'.cfg.copyA = s.cfg.copyA
  copyB : s'.cfg.copyB = s.cfg.copyB
  active : s'.cfg.active = s.activeFrom beat bad
  overrun : s'.sh.alarms.contains 2 = s.sh.alarms.contains 2
  words : ∀ c ∈ s.cfg.staged, s.takes beat c = false → (∃ ws, c.change = .words ws) → c ∈ s'.cfg.staged

theorem applyStaged_taken (at_ beat : Nat) (bad : List Nat) : Taken beat bad s (applyStaged at_ beat bad s) := by
  obtain ⟨fails, h⟩ := applyWords_applies
    { s with cfg := { s.cfg with staged := s.cfg.staged.filter fun c => !(s.takes beat c) } } at_ beat bad (s.cfg.staged.filter (s.takes beat))
  obtain ⟨hclk, hforce, hseq, hcopyA, hcopyB, hactive, halarm, hwords⟩ := h.trans ((foldl_applies (fun u c => takeOther_applies u at_ beat bad c)
    (s.cfg.staged.filter (s.takes beat)) _).trans (boundaryCauses_applies _ s.cfg.active bad))
  refine ⟨hclk, hforce, hseq, hcopyA, hcopyB, hactive, halarm, fun c hm hn hw => hwords c ?_ hw⟩
  exact List.mem_filter.mpr ⟨hm, by rw [hn]; rfl⟩

end

end Sys2Proof.Machine

/-! SUPPORT. The rest of a boundary (O5, O43): the work of the beat, BEAT_BOUNDARY put together, and both obligations. -/

namespace Sys2Proof.Machine

open Sys2Proof

/-! ### The work of a beat -/

/-- The work of a beat leaves the clocks, the configuration, the hub state and role, the Treadle, the drivers, the
Winnow and alarm 2. -/
structure Upkeep (s s' : State) : Prop where
  clk : s'.clk = s.clk
  cfg : s'.cfg = s.cfg
  state : s'.hub.state = s.hub.state
  role : s'.hub.role = s.hub.role
  trd : s'.trd = s.trd
  drv : s'.drv = s.drv
  win : s'.win = s.win
  overrun : s'.sh.alarms.contains 2 = s.sh.alarms.contains 2

theorem Upkeep.refl (s : State) : Upkeep s s := ⟨rfl, rfl, rfl, rfl, rfl, rfl, rfl, rfl⟩

theorem Upkeep.trans {s u v : State} (a : Upkeep s u) (b : Upkeep u v) : Upkeep s v :=
  ⟨b.clk.trans a.clk, b.cfg.trans a.cfg, b.state.trans a.state, b.role.trans a.role, b.trd.trans a.trd, b.drv.trans a.drv,
    b.win.trans a.win, b.overrun.trans a.overrun⟩

/-- The same chained from its end, whose operation is the outermost. -/
theorem Upkeep.after {s u v : State} (b : Upkeep u v) (a : Upkeep s u) : Upkeep s v := a.trans b

theorem Upkeep.ite {s u v : State} {p : Prop} [Decidable p] (hu : Upkeep s u) (hv : Upkeep s v) :
    Upkeep s (if p then u else v) := by
  split
  · exact hu
  · exact hv

theorem foldl_upkeep {α : Type} {f : State → α → State} (hf : ∀ s x, Upkeep s (f s x)) (l : List α) (s : State) :
    Upkeep s (l.foldl f s) := by
  induction l generalizing s with
  | nil => exact .refl s
  | cons x r ih => exact (hf s x).trans (ih (f s x))

section
variable (s : State)

theorem logEvent_upkeep (reason source detail : Nat) : Upkeep s (logEvent reason source detail s) := by
  constructor <;> simp

theorem setAlarm_upkeep {bit : Nat} (hb : 2 ≠ bit) (on logged : Bool) (part reason : Nat) :
    Upkeep s (setAlarm bit on logged part reason s) :=
  ⟨by simp, by simp, by simp, by simp, by simp, by simp, by simp, setAlarm_contains_other _ _ _ _ _ hb⟩

theorem emitSv_upkeep (e : Emission) : Upkeep s (emitSv e s) := by
  constructor <;> simp

theorem withWarp_upkeep (warp : Warp) : Upkeep s { s with warp } := ⟨rfl, rfl, rfl, rfl, rfl, rfl, rfl, rfl⟩

theorem withConv_upkeep (conv : Conv) : Upkeep s { s with conv } := ⟨rfl, rfl, rfl, rfl, rfl, rfl, rfl, rfl⟩

theorem withCal_upkeep (cal : Cal) : Upkeep s { s with cal } := ⟨rfl, rfl, rfl, rfl, rfl, rfl, rfl, rfl⟩

theorem withFilt_upkeep (filt : Filt) : Upkeep s { s with filt } := ⟨rfl, rfl, rfl, rfl, rfl, rfl, rfl, rfl⟩

theorem withPow_upkeep (pow : Power) : Upkeep s { s with pow } := ⟨rfl, rfl, rfl, rfl, rfl, rfl, rfl, rfl⟩

theorem withPair_upkeep (pair : Pair) : Upkeep s { s with pair } := ⟨rfl, rfl, rfl, rfl, rfl, rfl, rfl, rfl⟩

theorem withItg_upkeep (itg : Integ) : Upkeep s { s with itg } := ⟨rfl, rfl, rfl, rfl, rfl, rfl, rfl, rfl⟩

theorem withCores_upkeep (coreIn : List Nat) (coreJoin : Option Nat) : Upkeep s { s with hub := { s.hub with coreIn, coreJoin } } := ⟨rfl, rfl, rfl, rfl, rfl, rfl, rfl, rfl⟩

theorem scUpd_upkeep (sc : Nat) (f : Converter → Converter) : Upkeep s (scUpd sc f s) := ⟨rfl, rfl, rfl, rfl, rfl, rfl, rfl, rfl⟩

theorem wportUpd_upkeep (p : Nat) (f : WPort → WPort) : Upkeep s (wportUpd p f s) := ⟨rfl, rfl, rfl, rfl, rfl, rfl, rfl, rfl⟩

theorem grant_upkeep (sc : Nat) : Upkeep s (grant sc s) := by
  obtain ⟨hed, conv, h⟩ := grant_parts s sc
  rw [h]
  exact ⟨rfl, rfl, rfl, rfl, rfl, rfl, rfl, rfl⟩

theorem request_upkeep (sc : Nat) (r : ScRequest) : Upkeep s (request sc r s) := .after (grant_upkeep ..) (scUpd_upkeep ..)

theorem setLock_upkeep (l : Lock) : Upkeep s (setLock l s) := by
  unfold setLock
  split
  · exact .refl s
  · exact .after (setAlarm_upkeep _ (by decide) ..) (.after (logEvent_upkeep ..) (withWarp_upkeep ..))

theorem forgetTemp_upkeep (pod : Nat) : Upkeep s (forgetTemp s pod) := .ite (.refl s) (withCal_upkeep ..)

theorem startRounds_upkeep : Upkeep s (startRounds s) := foldl_upkeep (fun u _ => .ite (request_upkeep ..) (.refl u)) _ s

theorem tolAlarm_upkeep : Upkeep s (tolAlarm s) := setAlarm_upkeep s (by decide) ..

theorem houseKeep_upkeep : Upkeep s (houseKeep s) :=
  .after (tolAlarm_upkeep _) (.after (startRounds_upkeep _) (foldl_upkeep forgetTemp_upkeep _ s))

theorem simTrigger_upkeep (src : Nat) : Upkeep s (simTrigger src s) := .ite (withConv_upkeep ..) (.refl s)

theorem warpBeat_upkeep : Upkeep s (warpBeat s) := by
  refine .after (.ite (setLock_upkeep ..) (.ite (setLock_upkeep ..) (.refl _))) (.ite (.refl s) ?_)
  refine .after (wportUpd_upkeep ..) ?_
  split
  · exact .ite (logEvent_upkeep ..) (.refl s)
  · exact .refl s

theorem mainsBeat_upkeep (at_ : Nat) : Upkeep s (mainsBeat at_ s) := .ite (withFilt_upkeep ..) (.refl s)

theorem joinCore_upkeep : Upkeep s (joinCore s) := by
  unfold joinCore
  split
  · exact .ite (withCores_upkeep ..) (.refl s)
  · exact .refl s

theorem restartDomains_upkeep : Upkeep s (restartDomains s) :=
  foldl_upkeep (fun u _ => .ite (.ite (withPow_upkeep ..) (withPow_upkeep ..)) (.refl u)) _ s

theorem stopIdle_upkeep : Upkeep s (stopIdle s) := foldl_upkeep (fun _ _ => withFilt_upkeep ..) _ s

theorem sendSnapshot_upkeep : Upkeep s (sendSnapshot s) := by
  refine .ite (.after (foldl_upkeep (fun u f => ?_) _ _) (withPair_upkeep ..)) (.refl s)
  refine .after (emitSv_upkeep ..) ?_
  constructor <;> simp

theorem holdCheck_upkeep : Upkeep s (holdCheck s) := withPair_upkeep ..

theorem usedHusks_upkeep (keys : List Nat) : Upkeep s (usedHusks keys s) :=
  foldl_upkeep (fun _ _ => .after (logEvent_upkeep ..) (withItg_upkeep ..)) _ s

/-- All that follows the staged changes at a boundary. -/
theorem boundaryAt_upkeep (at_ beat : Nat) (bad : List Nat) :
    Upkeep (applyStaged at_ beat bad { s with clk := { s.clk with beat, boundary := at_ } }) (boundaryAt at_ beat bad s) :=
  .after (sendSnapshot_upkeep _) (.after (holdCheck_upkeep _) (.after (withCal_upkeep ..) (.after (stopIdle_upkeep _)
    (.after (restartDomains_upkeep _) (.after (joinCore_upkeep _) (.after (mainsBeat_upkeep ..) (.after (warpBeat_upkeep _)
      (.after (simTrigger_upkeep ..) (houseKeep_upkeep _)))))))))

end

/-! ### Boundaries with nothing, or one move, to apply -/

/-- Other staged changes, and other copies kept of those before. -/
def State.withStaged (s : State) (staged : List Staged) (past : List (Nat × PMem)) : State :=
  { s with cfg := { s.cfg with staged, past } }

theorem liveBanks_nil (m : PMem) : liveBanks [] m = m := rfl

theorem putAll_nil (m : PMem) : m.putAll [] = m := rfl

/-- No word and no swap is due: the active copies stay. -/
theorem applyWords_nothing (at_ beat : Nat) {due : List Staged} (hw : stagedWords due = []) (hs : stagedSwaps due = []) (s : State) :
    ∃ past, applyWords at_ beat [] due s = s.withStaged s.cfg.staged past := by
  unfold applyWords
  simp only [hw, hs, List.filter_nil, List.foldl_nil, liveBanks_nil, putAll_nil, if_true]
  exact ⟨_, rfl⟩

theorem boundaryCauses_nothing {old : PMem} {s : State} (h : s.cfg.active = old) : boundaryCauses old [] s = s := if_pos h

/-- Staged changes without words or swaps: the others take effect alone. -/
theorem applyStaged_others (at_ beat : Nat) {s : State} (hw : stagedWords (s.cfg.staged.filter (s.takes beat)) = [])
    (hs : stagedSwaps (s.cfg.staged.filter (s.takes beat)) = []) :
    ∃ past, applyStaged at_ beat [] s = boundaryCauses s.cfg.active [] ((s.cfg.staged.filter (s.takes beat)).foldl (takeOther at_ beat [])
      (s.withStaged (s.cfg.staged.filter fun c => !(s.takes beat c)) past)) := by
  obtain ⟨past, h⟩ := applyWords_nothing at_ beat hw hs (s.withStaged (s.cfg.staged.filter fun c => !(s.takes beat c)) s.cfg.past)
  exact ⟨past, congrArg (fun u => boundaryCauses s.cfg.active [] ((s.cfg.staged.filter (s.takes beat)).foldl (takeOther at_ beat []) u)) h⟩

theorem applyStaged_nothing (at_ beat : Nat) {s : State} (h : s.cfg.staged = []) :
    ∃ past, applyStaged at_ beat [] s = s.withStaged [] past := by
  obtain ⟨past, e⟩ := applyStaged_others at_ beat (s := s) (by rw [h]; rfl) (by rw [h]; rfl)
  refine ⟨past, e.trans ?_⟩
  rw [h]
  exact boundaryCauses_nothing rfl

/-- A move to a state sets it, unless the hub is in SAFE; the active copies stay. -/
theorem enterState_to (h : HubState) (reason source at_ : Nat) {s : State} (hs : s.hub.state ≠ .safe) :
    (enterState h reason source at_ s).hub.state = h
      ∧ ∃ keep, (enterState h reason source at_ s).cfg = { s.cfg with staged := s.cfg.staged.filter keep } := by
  by_cases he : s.hub.state = h
  · rw [enterState_same reason source at_ (.inl he)]
    exact ⟨he, fun _ => true, by rw [List.filter_true]⟩
  · have m := enterState_moving reason source at_ he fun e => absurd e hs
    obtain ⟨keep, _, hcfg⟩ := m.cfg
    exact ⟨m.state, keep, hcfg⟩

theorem takeOther_move (at_ beat : Nat) {s : State} {c : Staged} {h : HubState} (hm : c.change = .move h) (ht : s.takesMove h c.cmd = true) :
    takeOther at_ beat [] s c = enterState h 0 c.cmd at_ s := by
  simp only [takeOther, huskKey, hm, applyOther]
  exact if_pos ht

/-- A staged move that is due takes effect (R57). -/
theorem applyStaged_move (at_ beat : Nat) {s : State} {c : Staged} {h : HubState} (hc : s.cfg.staged = [c]) (hm : c.change = .move h)
    (hd : c.due ≤ beat) (ht : s.takesMove h c.cmd = true) (hs : s.hub.state ≠ .safe) :
    (applyStaged at_ beat [] s).hub.state = h ∧ (applyStaged at_ beat [] s).cfg.staged = []
      ∧ (applyStaged at_ beat [] s).cfg.active = s.cfg.active := by
  have due : s.cfg.staged.filter (s.takes beat) = [c] := by simp [hc, State.takes, hd, hm, staysStaged]
  have waits : s.cfg.staged.filter (fun c => !(s.takes beat c)) = [] := by simp [hc, State.takes, hd, hm, staysStaged]
  obtain ⟨past, e⟩ := applyStaged_others at_ beat (s := s) (by rw [due]; simp [stagedWords, hm]) (by rw [due]; simp [stagedSwaps, hm])
  rw [e, due, waits, List.foldl_cons, List.foldl_nil, takeOther_move (s := s.withStaged [] past) at_ beat hm ht]
  obtain ⟨hstate, keep, hcfg⟩ := enterState_to h 0 c.cmd at_ (s := s.withStaged [] past) hs
  have hactive : (enterState h 0 c.cmd at_ (s.withStaged [] past)).cfg.active = s.cfg.active := by rw [hcfg]; rfl
  rw [boundaryCauses_nothing hactive]
  exact ⟨hstate, congrArg Cfg.staged hcfg, hactive⟩

/-! ### Late beat work (R35) -/

section
variable (late : Bool) (s : State)

theorem overrun_clk : (overrun late s).clk = { s.clk with
    overruns := if late then inc16 s.clk.overruns else s.clk.overruns
    overrunRow := if late then s.clk.overrunRow + 1 else 0 } := by
  cases late with
  | false => simp [overrun]
  | true =>
    simp only [overrun, if_true]
    split <;> simp

theorem overrun_upkeep : Upkeep { s with clk := (overrun late s).clk, sh := (overrun late s).sh } (overrun late s) := by
  cases late with
  | false => constructor <;> simp [overrun]
  | true =>
    simp only [overrun, if_true]
    split
    · constructor <;> simp
    · constructor <;> rfl

end

theorem overrun_onset {s : State} (h : 99 ≤ s.clk.overrunRow) : (overrun true s).sh.alarms.contains 2 = true := by
  have hn : 100 ≤ s.clk.overrunRow + 1 := by omega
  simp only [overrun, if_true, hn]
  exact setAlarm_contains_same ..

theorem overrun_end (s : State) : (overrun false s).sh.alarms.contains 2 = false := by
  simp only [overrun, Bool.false_eq_true, if_false]
  exact setAlarm_contains_same ..

/-! ### BEAT_BOUNDARY (R29, R31, R33, R37) -/

theorem alarmEvent_crossings (code part reason : Nat) (s : State) :
    (alarmEvent code part reason s).itg.crossings = s.itg.crossings := by simp [alarmEvent]

/-- An alarm changes no crossing but in what has merged there. -/
theorem setAlarm_calm (bit : Nat) (on logged : Bool) (part reason : Nat) (s : State) :
    Calm s.itg.crossings (setAlarm bit on logged part reason s).itg.crossings := by
  unfold setAlarm
  split
  · exact .refl _
  · dsimp only
    generalize hu : ({ s with sh := { s.sh with alarms := setMem s.sh.alarms bit on } } : State) = u
    have start : Calm s.itg.crossings u.itg.crossings := hu ▸ .refl _
    generalize hv : (if [0, 1, 4, 5].contains bit then shakeEvent 9 notifyAlarm u else u) = v
    have shaken : Calm s.itg.crossings v.itg.crossings := by
      rw [← hv]
      split
      · exact start.trans (shakeEvent_calm ..)
      · exact start
    split
    · rw [alarmEvent_crossings, alarmNotice_itg_crossings]
      exact shaken
    · rw [alarmNotice_itg_crossings]
      exact shaken

theorem overrun_calm (late : Bool) (s : State) : Calm s.itg.crossings (overrun late s).itg.crossings := by
  cases late with
  | false =>
    simp only [overrun, Bool.false_eq_true, if_false]
    exact setAlarm_calm 2 false true 0xFFFF 0 { s with clk := { s.clk with overrunRow := 0 } }
  | true =>
    simp only [overrun, if_true]
    split
    · exact setAlarm_calm 2 true true 0xFFFF 0
        { s with clk := { s.clk with overruns := inc16 s.clk.overruns, overrunRow := s.clk.overrunRow + 1 } }
    · exact .refl _

theorem usedHusks_crossings (keys : List Nat) (s : State) : (usedHusks keys s).itg.crossings = s.itg.crossings :=
  foldl_view (fun u => u.itg.crossings) (fun u k => huskMismatch (k / 65536) (k % 65536) u) (fun _ _ => rfl) keys s

/-- The state in which the staged changes of a boundary take effect. -/
def State.atBoundary (s : State) (husks : List Nat) (late : Bool) : State :=
  let v := overrun late (usedHusks husks s)
  { v with clk := { v.clk with beat := beatAt s.clk.loom, boundary := beatTime (beatAt s.clk.loom) } }

section
variable (s : State) (husks : List Nat) (late : Bool)

theorem atBoundary_clk : (s.atBoundary husks late).clk = { s.clk with
    beat := beatAt s.clk.loom, boundary := beatTime (beatAt s.clk.loom)
    overruns := if late then inc16 s.clk.overruns else s.clk.overruns
    overrunRow := if late then s.clk.overrunRow + 1 else 0 } := by
  simp only [State.atBoundary, overrun_clk, (usedHusks_upkeep s husks).clk]

theorem atBoundary_upkeep :
    Upkeep { s with clk := (s.atBoundary husks late).clk, sh := (s.atBoundary husks late).sh } (s.atBoundary husks late) := by
  have h := usedHusks_upkeep s husks
  have k := overrun_upkeep late (usedHusks husks s)
  exact ⟨rfl, k.cfg.trans h.cfg, k.state.trans h.state, k.role.trans h.role, k.trd.trans h.trd, k.drv.trans h.drv, k.win.trans h.win, rfl⟩

theorem atBoundary_crossHolds (x : Nat) : (s.atBoundary husks late).crossHolds x = s.crossHolds x := by
  have h := (overrun_calm late (usedHusks husks s)).holds x
  rw [usedHusks_crossings] at h
  exact h

theorem atBoundary_takes (beat : Nat) : (s.atBoundary husks late).takes beat = s.takes beat := by
  funext c
  simp only [State.takes, atBoundary_crossHolds]

end

/-- The state after a boundary. Proofs go through the lemmas below. -/
@[irreducible] def State.afterBoundary (s : State) (husks : List Nat) (late : Bool) (bad : List Nat) : State :=
  boundaryAt (beatTime (beatAt s.clk.loom)) (beatAt s.clk.loom) bad (overrun late (usedHusks husks s))

section
variable (s : State) (husks : List Nat) (late : Bool)

theorem afterBoundary_upkeep (bad : List Nat) :
    Upkeep (applyStaged (beatTime (beatAt s.clk.loom)) (beatAt s.clk.loom) bad (s.atBoundary husks late)) (s.afterBoundary husks late bad) := by
  unfold State.afterBoundary
  exact boundaryAt_upkeep ..

/-- What a boundary makes of clocks and configuration, whatever is staged. -/
theorem afterBoundary_taken (bad : List Nat) : Taken (beatAt s.clk.loom) bad (s.atBoundary husks late) (s.afterBoundary husks late bad) := by
  obtain ⟨hclk, hforce, hseq, hcopyA, hcopyB, hactive, halarm, hwords⟩ :=
    applyStaged_taken (s.atBoundary husks late) (beatTime (beatAt s.clk.loom)) (beatAt s.clk.loom) bad
  have h := afterBoundary_upkeep s husks late bad
  refine ⟨h.clk.trans hclk, ?_, ?_, ?_, ?_, ?_, h.overrun.trans halarm, ?_⟩ <;> rw [h.cfg] <;> assumption

theorem afterBoundary_clk (bad : List Nat) : (s.afterBoundary husks late bad).clk = { s.clk with
    beat := beatAt s.clk.loom, boundary := beatTime (beatAt s.clk.loom)
    overruns := if late then inc16 s.clk.overruns else s.clk.overruns
    overrunRow := if late then s.clk.overrunRow + 1 else 0 } :=
  (afterBoundary_taken s husks late bad).clk.trans (atBoundary_clk s husks late)

/-- Alarm 2 is that which the beat work's lateness has set (R35). -/
theorem afterBoundary_overrun (bad : List Nat) :
    (s.afterBoundary husks late bad).sh.alarms.contains 2 = (overrun late (usedHusks husks s)).sh.alarms.contains 2 :=
  (afterBoundary_taken s husks late bad).overrun

/-- Sound husks and no swap: the words due come into force as they are. -/
theorem afterBoundary_active (h : stagedSwaps (s.cfg.staged.filter (s.takes (beatAt s.clk.loom))) = []) :
    (s.afterBoundary husks late []).cfg.active = s.cfg.active.putAll (stagedWords (s.cfg.staged.filter (s.takes (beatAt s.clk.loom)))) := by
  rw [(afterBoundary_taken s husks late []).active, State.activeFrom, atBoundary_takes, (atBoundary_upkeep s husks late).cfg, h]
  simp [liveBanks_nil]

theorem afterBoundary_move {c : Staged} {h : HubState} (hc : s.cfg.staged = [c]) (hm : c.change = .move h)
    (hd : c.due ≤ beatAt s.clk.loom) (ht : s.takesMove h c.cmd = true) (hs : s.hub.state ≠ .safe) :
    (s.afterBoundary husks late []).hub.state = h ∧ (s.afterBoundary husks late []).pendingMove = none
      ∧ (s.afterBoundary husks late []).cfg.active = s.cfg.active := by
  have start := atBoundary_upkeep s husks late
  have rest := afterBoundary_upkeep s husks late []
  have takes : (s.atBoundary husks late).takesMove h c.cmd = true := by
    simpa only [State.takesMove, start.role, start.state] using ht
  obtain ⟨hstate, hstaged, hactive⟩ := applyStaged_move (beatTime (beatAt s.clk.loom)) (beatAt s.clk.loom)
    (s := s.atBoundary husks late) ((congrArg Cfg.staged start.cfg).trans hc) hm hd takes (by rwa [start.state])
  refine ⟨rest.state.trans hstate, ?_, ?_⟩
  · rw [State.pendingMove, rest.cfg, hstaged]
    rfl
  · rw [rest.cfg, hactive, start.cfg]

theorem afterBoundary_nothing (h : s.cfg.staged = []) :
    let z := s.afterBoundary husks late []
    z.hub.state = s.hub.state ∧ z.hub.role = s.hub.role ∧ z.cfg.active = s.cfg.active
      ∧ z.trd = s.trd ∧ z.drv.stims = s.drv.stims ∧ z.drv.tables = s.drv.tables ∧ z.win = s.win := by
  have start := atBoundary_upkeep s husks late
  obtain ⟨past, e⟩ := applyStaged_nothing (beatTime (beatAt s.clk.loom)) (beatAt s.clk.loom) (s := s.atBoundary husks late)
    ((congrArg Cfg.staged start.cfg).trans h)
  have rest := e ▸ afterBoundary_upkeep s husks late []
  have drv := rest.drv.trans start.drv
  have active : ((s.atBoundary husks late).withStaged [] past).cfg.active = s.cfg.active := by
    change (s.atBoundary husks late).cfg.active = _
    rw [start.cfg]
  exact ⟨rest.state.trans start.state, rest.role.trans start.role, (congrArg Cfg.active rest.cfg).trans active,
    rest.trd.trans start.trd, congrArg Drive.stims drv, congrArg Drive.tables drv, rest.win.trans start.win⟩

end

theorem exec_beatBoundary (t : Nat) (husks : List Nat) (late : Bool) (bad : List Nat) (s : State) :
    exec (.beatBoundary t husks late bad) s = act t s (unlessReset fun u =>
      if beatTime (beatAt u.clk.loom) ≤ u.clk.boundary then u else u.afterBoundary husks late bad) := by
  unfold State.afterBoundary
  rfl

theorem beatBoundary_next {t : Nat} {husks : List Nat} {late : Bool} {bad : List Nat} {s : State} (hr : s.hub.inReset = false)
    (hb : beatTime (beatAt (tick t s).clk.loom) ≤ s.clk.boundary) : exec (.beatBoundary t husks late bad) s = .next (tick t s) := by
  refine exec_of_act (exec_beatBoundary ..) ?_ rfl
  rw [unlessReset_of_running (by exact hr)]
  exact if_pos hb

theorem beatBoundary_does {t : Nat} {husks : List Nat} {late : Bool} {bad : List Nat} {s : State} {P : State → Prop}
    (hr : s.hub.inReset = false) (hb : s.clk.boundary < beatTime (beatAt (tick t s).clk.loom))
    (hP : P { (tick t s).afterBoundary husks late bad with pending := s.pending }) : Does (.beatBoundary t husks late bad) s P := by
  refine does_of_act (exec_beatBoundary ..) ?_ hP
  rw [unlessReset_of_running (by exact hr)]
  exact if_neg (Nat.not_le.mpr hb)

/-- Settles O43: what a boundary takes is all that changes of the configuration, and the rest of its work leaves that. -/
theorem boundariesApplyStagedChanges : Obligations.BoundariesApplyStagedChanges := by
  unfold Obligations.BoundariesApplyStagedChanges
  refine ⟨dueBeat_le_iff, fun s t husks late bad hr => ?_⟩
  intro u beat due
  refine ⟨fun hb => beatBoundary_next hr hb, fun hb => beatBoundary_does hr hb ?_⟩
  have h := afterBoundary_taken (tick t s) husks late bad
  have start := atBoundary_upkeep (tick t s) husks late
  refine ⟨afterBoundary_clk .., ?_, ?_, ?_, ?_, ?_, ?_, ?_, ?_, ?_, ?_⟩
  · rintro rfl hrow
    exact (afterBoundary_overrun ..).trans (overrun_onset (by rwa [(usedHusks_upkeep ..).clk]))
  · rintro rfl
    exact (afterBoundary_overrun ..).trans (overrun_end _)
  · exact h.force.trans (congrArg Cfg.force start.cfg)
  · exact h.seq.trans (congrArg Cfg.seq start.cfg)
  · exact h.copyA.trans (congrArg Cfg.copyA start.cfg)
  · exact h.copyB.trans (congrArg Cfg.copyB start.cfg)
  · rintro c hc hwait ⟨ws, hw⟩
    refine h.words c (start.cfg ▸ hc) ?_ ⟨ws, hw⟩
    rw [atBoundary_takes, State.takes, hw]
    rcases hwait with later | holds
    · simp [show ¬ c.due ≤ beatAt (tick t s).clk.loom from Nat.not_le.mpr later]
    · simp [staysStaged, show (tick t s).crossHolds 8 = true from holds]
  · rintro rfl hswaps
    exact afterBoundary_active (tick t s) husks late hswaps
  · rintro c m rfl hc hm hd ht hs
    exact afterBoundary_move (tick t s) husks late hc hm hd ht hs
  · rintro rfl hc
    exact afterBoundary_nothing (tick t s) husks late hc

/-- Settles O5: boundaries and loom times correspond as R29 divides a second, and a boundary sets the counter that STATUS reads. -/
theorem beatBoundaryInstants : Obligations.BeatBoundaryInstants := by
  unfold Obligations.BeatBoundaryInstants
  refine ⟨fun sec m => beatTime_parts sec, beatAt_beatTime, fun t => ⟨?_, ?_⟩, fun s t husks late bad hr hb => ?_,
    fun s t rq h hp => status_answers t h hp⟩
  · exact (beatTime_le_iff _ t).mpr (Nat.le_refl _)
  · exact (lt_beatTime_iff t _).mpr (Nat.lt_succ_self _)
  · refine beatBoundary_does hr hb ?_
    exact congrArg Clocks.beat (afterBoundary_clk (tick t s) husks late bad)

end Sys2Proof.Machine

/-! SUPPORT. What crossings deliver (O52): of every operation that an item held by a crossing brings about, that the clock
reports stay as they are and that no crossing whose receiving clock runs comes to hold anything (R27, R410). -/

namespace Sys2Proof.Machine

open Sys2Proof

/-! ### Operations that leave the clocks and the crossings alone -/

/-- The clock reports stay, each crossing holds or passes its data as before, and one that passes them takes up nothing to
hold: neither of its own, nor an event for the Treadle, nor a frame for the Selvedge. -/
structure Carries (s s' : State) : Prop where
  clocks : s'.hub.clocks = s.hub.clocks
  clocksGood : s'.hub.clocksGood = s.hub.clocksGood
  onKclk : s'.hub.onKclk = s.hub.onKclk
  xiWait : s'.hub.xiWait = s.hub.xiWait
  holds : ∀ x, s'.crossHolds x = s.crossHolds x
  stops : ∀ x, (s'.itg.crossings.get x).stops = (s.itg.crossings.get x).stops
  held : ∀ x, s.crossHolds x = false → (s.itg.crossings.get x).held = [] → (s'.itg.crossings.get x).held = []
  events : s.warp.toTreadle = [] → s'.warp.toTreadle = []
  out : s.crossHolds 7 = false → s.pair.out = [] → s'.pair.out = []

theorem Carries.refl (s : State) : Carries s s := ⟨rfl, rfl, rfl, rfl, fun _ => rfl, fun _ => rfl, fun _ _ => id, id, fun _ => id⟩

theorem Carries.trans {s u v : State} (a : Carries s u) (b : Carries u v) : Carries s v where
  clocks := b.clocks.trans a.clocks
  clocksGood := b.clocksGood.trans a.clocksGood
  onKclk := b.onKclk.trans a.onKclk
  xiWait := b.xiWait.trans a.xiWait
  holds x := (b.holds x).trans (a.holds x)
  stops x := (b.stops x).trans (a.stops x)
  held x hh he := b.held x ((a.holds x).trans hh) (a.held x hh he)
  events he := b.events (a.events he)
  out hh he := b.out ((a.holds 7).trans hh) (a.out hh he)

/-- The same chained from its end, whose operation is the outermost. -/
theorem Carries.after {s u v : State} (b : Carries u v) (a : Carries s u) : Carries s v := a.trans b

theorem Carries.ite {s u v : State} {p : Prop} [Decidable p] (hu : Carries s u) (hv : Carries s v) : Carries s (if p then u else v) := by
  split
  · exact hu
  · exact hv

/-- What is done only if a condition holds. -/
theorem Carries.when {s u v : State} {p : Prop} [Decidable p] (h : Carries u v) (a : Carries s u) : Carries s (if p then v else u) :=
  .ite (a.trans h) a

/-- The same of an operation that answers something besides. -/
theorem Carries.snd_ite {α : Type} {s : State} {a b : α × State} {p : Prop} [Decidable p] (ha : Carries s a.2) (hb : Carries s b.2) :
    Carries s (if p then a else b).2 := by
  split
  · exact ha
  · exact hb

theorem foldl_carries {α : Type} {f : State → α → State} (hf : ∀ s x, Carries s (f s x)) (l : List α) (s : State) :
    Carries s (l.foldl f s) := by
  induction l generalizing s with
  | nil => exact .refl s
  | cons x r ih => exact (hf s x).trans (ih (f s x))

/-- The parts in question, where the crossings are but eased. -/
theorem Carries.of_calm {s s' : State} (hh : s'.hub = s.hub) (hw : s'.warp.toTreadle = s.warp.toTreadle) (hp : s'.pair.out = s.pair.out)
    (hc : Calm s.itg.crossings s'.itg.crossings) : Carries s s' :=
  ⟨by rw [hh], by rw [hh], by rw [hh], by rw [hh], hc.holds, hc.stops, fun x _ => hc.held x,
    fun he => hw.trans he, fun _ he => hp.trans he⟩

theorem Carries.of_eq {s s' : State} (hh : s'.hub = s.hub) (hw : s'.warp = s.warp) (hp : s'.pair = s.pair)
    (hc : s'.itg.crossings = s.itg.crossings) : Carries s s' :=
  .of_calm hh (by rw [hw]) (by rw [hp]) (.of_eq hc)

theorem Moved.carries {s s' : State} (h : Moved s s') : Carries s s' := by
  obtain ⟨_, _, _, h⟩ := h
  obtain ⟨causes, hub⟩ := h.hub
  have clocks := congrArg Hub.clocks hub
  have clocksGood := congrArg Hub.clocksGood hub
  have onKclk := congrArg Hub.onKclk hub
  have xiWait := congrArg Hub.xiWait hub
  exact ⟨clocks, clocksGood, onKclk, xiWait, h.cross.holds,
    h.cross.stops, fun x _ => h.cross.held x, fun he => (congrArg Warp.toTreadle h.warp).trans he,
    fun _ he => (congrArg Pair.out h.pair).trans he⟩

theorem Steady.carries {s s' : State} (h : Steady s s') : Carries s s' := h.moving.moved.carries

section
variable (s : State)

/-! ### Single parts of the state -/

theorem withFilt_carries (filt : Filt) : Carries s { s with filt } := .of_eq rfl rfl rfl rfl

theorem withConv_carries (conv : Conv) : Carries s { s with conv } := .of_eq rfl rfl rfl rfl

theorem withCal_carries (cal : Cal) : Carries s { s with cal } := .of_eq rfl rfl rfl rfl

theorem withSh_carries (sh : Shuttle) : Carries s { s with sh } := .of_eq rfl rfl rfl rfl

theorem withCfg_carries (cfg : Cfg) : Carries s { s with cfg } := .of_eq rfl rfl rfl rfl

theorem withHed_carries (hed : Heddle) : Carries s { s with hed } := .of_eq rfl rfl rfl rfl

theorem withPow_carries (pow : Power) : Carries s { s with pow } := .of_eq rfl rfl rfl rfl

theorem withTrd_carries (trd : Treadle) : Carries s { s with trd } := .of_eq rfl rfl rfl rfl

theorem withDrv_carries (drv : Drive) : Carries s { s with drv } := .of_eq rfl rfl rfl rfl

theorem withWeft_carries (weft : Weft) : Carries s { s with weft } := .of_eq rfl rfl rfl rfl

theorem withWin_carries (win : Winnow) : Carries s { s with win } := .of_eq rfl rfl rfl rfl

theorem withFree_carries (free : Nat) : Carries s { s with free } := .of_eq rfl rfl rfl rfl

theorem tick_carries (t : Nat) : Carries s (tick t s) := .of_eq rfl rfl rfl rfl

theorem withPending_carries (pending : List Instr) : Carries s { s with pending } := .of_eq rfl rfl rfl rfl

theorem withWarp_carries {warp : Warp} (h : warp.toTreadle = s.warp.toTreadle) : Carries s { s with warp } :=
  .of_calm rfl h rfl (.refl _)

theorem pairUpd_carries {f : Pair → Pair} (h : ∀ p : Pair, (f p).out = p.out) : Carries s (pairUpd f s) := .of_calm rfl rfl (h _) (.refl _)

theorem withItg_carries {itg : Integ} (h : itg.crossings = s.itg.crossings) : Carries s { s with itg } := .of_eq rfl rfl rfl h

theorem scUpd_carries (sc : Nat) (f : Converter → Converter) : Carries s (scUpd sc f s) := (scUpd_steady ..).carries

theorem portUpd_carries (p : Nat) (f : HPort → HPort) : Carries s (portUpd p f s) := withWeft_carries s _

theorem streamUpd_carries (k : Nat) (f : Stream → Stream) : Carries s (streamUpd k f s) := withWeft_carries s _

theorem bobUpd_carries (b : Nat) (f : Bobbin → Bobbin) : Carries s (bobUpd b f s) := withTrd_carries s _

theorem seqUpd_carries (q : Nat) (f : Seqr → Seqr) : Carries s (seqUpd q f s) := withTrd_carries s _

theorem loopUpd_carries (n : Nat) (f : Loop → Loop) : Carries s (loopUpd n f s) := withDrv_carries s _

theorem stimUpd_carries (p : Nat) (f : Stim → Stim) : Carries s (stimUpd p f s) := withDrv_carries s _

theorem count78_carries (i : Nat) : Carries s (count78 i s) := withSh_carries s _

theorem mailUpd_carries (mb : Nat) (f : Mailbox → Mailbox) : Carries s (mailUpd mb f s) := withSh_carries s _

theorem logEvent_carries (reason source detail : Nat) : Carries s (logEvent reason source detail s) := withSh_carries s _

theorem unitHolds_carries (u v : Nat) : Carries s (unitHolds u v s) := withItg_carries s rfl

theorem unitChecks_carries (u : Nat) (m : Bytes) : Carries s (unitChecks u m s) := unitHolds_carries ..

theorem unitMismatch_carries (u : Nat) : Carries s (unitMismatch u s) := withItg_carries s rfl

theorem huskMismatch_carries (source detail : Nat) : Carries s (huskMismatch source detail s) :=
  .after (logEvent_carries ..) (withItg_carries s rfl)

theorem addNotice_carries (n : Notice) : Carries s (addNotice n s) := .of_eq (by simp) (by simp) (by simp) (by simp)

theorem alarmNotice_carries (onset : Bool) (code part reason : Nat) : Carries s (alarmNotice onset code part reason s) :=
  addNotice_carries ..

theorem alarmEvent_carries (code part reason : Nat) : Carries s (alarmEvent code part reason s) := logEvent_carries ..

theorem setAlarm_carries (bit : Nat) (on logged : Bool) (part reason : Nat) : Carries s (setAlarm bit on logged part reason s) :=
  .of_calm (by simp) (by simp) (by simp) (setAlarm_calm ..)

theorem finish_carries (rq : Req) (status reason : Nat) (payload : Bytes) : Carries s (finish rq status reason payload s) :=
  .of_eq (by simp) (by simp) (by simp) (by simp)

theorem reply_carries (rq : Req) (r : Reply) : Carries s (reply rq r s) := .of_eq (by simp) (by simp) (by simp) (by simp)

theorem answer_carries (rq : Req) (status reason : Nat) (payload : Bytes) : Carries s (answer rq status reason payload s) :=
  .of_eq (by simp) (by simp) (by simp) (by simp)

theorem takeReq_carries (rq : Req) : Carries s (takeReq rq s) := .of_eq (by simp) (by simp) (by simp) (by simp)

/-! ### Frames for the Selvedge (R423 to R430) -/

/-- A frame is kept for later only while crossing 7 holds. -/
theorem emitSv_carries (e : Emission) : Carries s (emitSv e s) := by
  unfold emitSv
  split
  next h => exact ⟨rfl, rfl, rfl, rfl, fun _ => rfl, fun _ => rfl, fun _ _ => id, id, fun hn => absurd h (by simp [hn])⟩
  next => exact .of_eq rfl rfl rfl rfl

theorem svForm_carries (typ : Nat) (payload : Bytes) : Carries s (svForm typ payload s).2 :=
  .after (unitHolds_carries ..) (pairUpd_carries s (f := fun p => { p with txAlive := (p.txAlive + 1) % 16 }) fun _ => rfl)

theorem svSend_carries (typ : Nat) (payload : Bytes) : Carries s (svSend typ payload s) :=
  .after (emitSv_carries ..) (svForm_carries ..)

theorem emitDelta_carries (d : Delta) : Carries s (emitDelta s d) := .after (emitSv_carries ..) (svForm_carries ..)

theorem sendSwitch_carries (tT : Nat) : Carries s (sendSwitch tT s) := .after (emitSv_carries ..) (svForm_carries ..)

theorem sendDelta_carries (c : Change) (due : Nat) : Carries s (sendDelta c due s) := by
  unfold sendDelta
  refine .ite ?_ (.refl s)
  split
  · exact .refl s
  next c _ =>
    exact .after (emitDelta_carries ..) (pairUpd_carries s (f := fun p => { p with
      deltas := p.deltas ++ [{ id := p.nextDelta, change := c, due, cfgSeq := s.cfg.seq }], nextDelta := next32 p.nextDelta }) fun _ => rfl)

theorem stageAt_carries (due : Nat) (c : Change) (cmd mb seq : Nat) : Carries s (stageAt due c cmd mb seq s) :=
  .after (sendDelta_carries ..) (withCfg_carries s _)

theorem stageOwn_carries (c : Change) : Carries s (stageOwn c s) := stageAt_carries ..

theorem countPair_carries (i : Nat) : Carries s (countPair i s) := pairUpd_carries s fun _ => rfl

theorem pairEvent_carries (reason : Nat) : Carries s (pairEvent reason s) := logEvent_carries ..

theorem mirrorAlarm_carries (on : Bool) : Carries s (mirrorAlarm on s) :=
  .after (setAlarm_carries ..) (.when (pairEvent_carries ..) (.refl s))

theorem uncertainAlarm_carries (on : Bool) : Carries s (uncertainAlarm on s) :=
  .after (setAlarm_carries ..) (.when (pairEvent_carries ..) (.refl s))

theorem askResync_carries : Carries s (askResync s) := by
  have outOfSync := pairUpd_carries s (f := fun p => { p with inSync := false }) fun _ => rfl
  refine .ite outOfSync (.after (svSend_carries ..) (.after (countPair_carries ..) (.after (pairUpd_carries _ ?_) outOfSync)))
  exact fun _ => rfl

theorem setRole_carries (r : Role) : Carries s (setRole r s) := by
  unfold setRole
  split
  · exact .refl s
  · refine .after (pairUpd_carries _ fun _ => rfl) ?_
    exact ⟨rfl, rfl, rfl, rfl, fun _ => rfl, fun _ => rfl, fun _ _ => id, id, fun _ => id⟩

/-! ### Words and conversions (R24, R133, R136) -/

theorem openTap_carries (pod tt : Nat) : Carries s (openTap pod tt s) := (openTap_steady ..).carries

theorem request_carries (sc : Nat) (r : ScRequest) : Carries s (request sc r s) := (request_steady ..).carries

theorem grant_carries (sc : Nat) : Carries s (grant sc s) := (grant_steady ..).carries

theorem wordGap_carries (ch missing k d : Nat) : Carries s (wordGap ch missing k d s) := by
  refine .ite (.refl s) (.ite ?_ (.after (eventOn_steady ..).carries ?_))
  all_goals exact .ite (.refl s) (withFilt_carries s _)

theorem plyWord_carries (ch : Nat) (reed : Bool) (slot k : Nat) (codes : List Int) : Carries s (plyWord ch reed slot k codes s) :=
  .ite (withFilt_carries s _) (.ite (.after (withFilt_carries _ _) (wordGap_carries ..))
    (.after (withFilt_carries _ _) (.after (withFilt_carries _ _) (wordGap_carries ..))))

theorem leadDone_carries (sc : Nat) (rq : Req) (pod slot : Nat) (codes : List Int) (began acq : Nat) :
    Carries s (leadDone sc rq pod slot codes began acq s) := by
  unfold leadDone
  split
  · exact reply_carries ..
  next ps _ =>
    have opened : Carries s (match ps[codes.length - 1]? with
        | some p => openTap pod p s
        | none => s) := by
      split
      · exact openTap_carries ..
      · exact .refl s
    dsimp only
    split
    · exact .after (request_carries ..) opened
    · exact .ite (.after (request_carries ..) opened) (.after (reply_carries ..) opened)

theorem scanDone_carries (sc : Nat) (r : ScRequest) (acq : Nat) (code : Int) (value : Word) :
    Carries s (scanDone sc r acq code value s) := by
  unfold scanDone
  dsimp only
  generalize hu : ({ s with conv := _ } : State) = u
  have stored : Carries s u := hu ▸ withConv_carries s _
  have opened : Carries s (if bitAt (s.cfg.active.word 0x0201 (18 + 17 * r.a + r.b)) 15 then u
      else openTap (fld (s.cfg.active.word 0x0201 (18 + 17 * r.a + r.b)) 11 8) (fld (s.cfg.active.word 0x0201 (18 + 17 * r.a + r.b)) 5 0) u) :=
    .ite stored (stored.trans (openTap_carries ..))
  exact .ite opened (opened.trans (request_carries ..))

theorem deliverResult_carries (sc : Nat) (r : ScRequest) (acq : Nat) (code : Int) (value : Word) :
    Carries s (deliverResult sc r acq code value s) := by
  unfold deliverResult
  dsimp only
  generalize hu : (if r.cls = 2 ∧ (acq - r.ready) * 1000000000 / 2 ^ 32 > 200 then
    scUpd sc (fun c => { c with longWaits := inc16 c.longWaits }) s else s) = u
  have waited : Carries s u := hu ▸ .when (scUpd_carries ..) (.refl s)
  split
  · exact waited.trans (.after (reply_carries ..) (.when (openTap_carries ..) (.refl u)))
  · exact waited.trans (.after (reply_carries ..) (openTap_carries ..))
  · exact waited.trans (leadDone_carries ..)
  · exact waited.trans (jobUpd_steady ..).carries
  · refine waited.trans (.ite (withConv_carries u _) (.ite ?_ (.ite (scanDone_carries ..) (.refl u))))
    exact .ite (.after (request_carries ..) (withConv_carries u _)) (withConv_carries u _)

theorem seedAlarm_carries (part : Nat) : Carries s (seedAlarm part s) := setAlarm_carries ..

theorem partWorn_carries (kind pod idx : Nat) : Carries s (partWorn kind pod idx s) := by
  refine .ite (.refl s) ?_
  have found := (withPow_carries s _).trans (logEvent_carries { s with pow := { s.pow with
    worn := s.pow.worn ++ [{ kind, pod, idx, state := if kind < 2 then 1 else 0 }] } } 0 0x0E00 (seedDetail kind pod idx))
  exact .ite (found.trans (seedAlarm_carries ..)) (.when (stageOwn_carries ..) found)

theorem readTemp_carries (beat pod : Nat) (r : Word) : Carries s (readTemp beat pod r s) := by
  have fed : Carries s (feedTemps pod r s) := withSh_carries s _
  have read := fed.trans (withCal_carries _ { (feedTemps pod r s).cal with
    rounds := (feedTemps pod r s).cal.rounds.upd pod fun l => ((beat, r) :: l).take 200 })
  exact .ite (read.trans (withCal_carries _ _)) (.when (stageAt_carries ..) read)

theorem readSource_carries (pod n : Nat) : Carries s (readSource pod s n) :=
  .ite (.when (partWorn_carries ..) (withHed_carries s _)) (withHed_carries s _)

theorem loopRound_carries (n : Nat) : Carries s (loopRound s n) := by
  refine .ite (.ite ?_ (.ite ?_ (loopUpd_carries ..))) (.refl s)
  · exact .after (alarmNotice_carries ..) (.after (alarmEvent_carries ..) (loopUpd_carries ..))
  · exact .after (alarmNotice_carries ..) (loopUpd_carries ..)

theorem tolAlarm_carries : Carries s (tolAlarm s) := setAlarm_carries ..

theorem readPoint_carries (pod point : Nat) (value : Word) : Carries s (readPoint pod point value s) :=
  .ite (.after (tolAlarm_carries _) (readTemp_carries ..)) (.ite (loopRound_carries ..) (foldl_carries (fun u n => readSource_carries u pod n) _ s))

theorem nextFree_carries : Carries s (nextFree s).2 := withFree_carries s _

theorem nextFree_if_carries (p : Prop) [Decidable p] : Carries s (if p then nextFree s else (0, s)).2 :=
  .snd_ite (nextFree_carries s) (.refl s)

theorem stimCycle_carries (u p : Nat) (a b : Int) : Carries s (stimCycle u p a b s) := by
  unfold stimCycle
  dsimp only
  split
  · exact .refl s
  · split
    · exact stimUpd_carries ..
    · exact .after (stimUpd_carries ..) (nextFree_if_carries ..)

theorem stimRead_carries (p k : Nat) (code : Int) : Carries s (stimRead p k code s) := by
  refine .ite (.refl s) (.ite (stimUpd_carries ..) (.after (stimCycle_carries ..) (stimUpd_carries ..)))

theorem finishScan_carries (sc : Nat) (r : ScRequest) (code : Int) (value : Word) : Carries s (finishScan sc r code value s) :=
  .ite (readPoint_carries ..) (.ite (stimRead_carries ..) (.refl s))

/-! ### Requests (R41, R47, R50) -/

theorem answerUnknown_carries (l : List Req) : Carries s (answerUnknown l s) := by
  induction l generalizing s with
  | nil => exact withSh_carries s _
  | cons q r ih =>
    exact .ite (withSh_carries s _) (.after (ih _) (.ite (finish_carries ..) (reply_carries ..)))

theorem takeOrUnknown_carries (rq : Req) : Carries s (takeOrUnknown rq s) :=
  .after (answerUnknown_carries ..) (.after (withSh_carries _ _) (takeReq_carries ..))

theorem refuseUntaken_carries (rq : Req) (reason : Nat) (counter : Option Nat) : Carries s (refuseUntaken rq reason counter s) := by
  refine .after (answer_carries ..) ?_
  split
  · exact count78_carries ..
  · exact .refl s

theorem deliver_carries (src : Requester) (port mb : Nat) (bytes : Bytes) : Carries s (deliver src port mb bytes s) := by
  cases src with
  | udp ip u => exact .after (unitChecks_carries ..) (withWeft_carries s _)
  | spi => exact .after (withSh_carries _ _) (mailUpd_carries ..)

theorem judgeAlive_carries (rq : Req) (m : Mailbox) : Carries s (judgeAlive rq m s) := by
  refine .ite (.ite (refuseUntaken_carries ..) (takeOrUnknown_carries ..)) (.ite (refuseUntaken_carries ..) (.ite ?_
    (.ite (refuseUntaken_carries ..) (.ite (refuseUntaken_carries ..) (refuseUntaken_carries ..)))))
  split
  · exact .after (deliver_carries ..) (count78_carries ..)
  · exact .refl s

theorem judge_carries (rev : Nat) (rq : Req) : Carries s (judge rev rq s) :=
  .ite (answer_carries ..) (.ite (refuseUntaken_carries ..) (.ite (refuseUntaken_carries ..) (.ite (refuseUntaken_carries ..)
    (.ite (takeOrUnknown_carries ..) (judgeAlive_carries ..)))))

theorem checked_carries (src : Requester) (m : Bytes) : Carries s (checked src m s) := .ite (.refl s) (unitChecks_carries ..)

theorem arrive_carries (src : Requester) (port : Nat) (m : Bytes) : Carries s (arrive src port m s) := by
  unfold arrive
  dsimp only
  split
  · exact .after (count78_carries ..) (.when (unitMismatch_carries ..) (checked_carries ..))
  · exact .after (judge_carries ..) (checked_carries ..)

/-! ### Frames, acknowledgements and the PTP servo (R203, R348, R361) -/

theorem fillAlarms_carries : Carries s (fillAlarms s) := by
  unfold fillAlarms
  dsimp only
  generalize hu : ({ s with weft := { s.weft with highFill := max s.weft.highFill s.fill } } : State) = u
  have filled : Carries s u := hu ▸ withWeft_carries s _
  have first : Carries s (if u.retained * 10 ≥ u.poolSize * 9 then setAlarm 0 true true 0xFFFF 0 u
      else if u.retained * 100 < u.poolSize * 85 then setAlarm 0 false true 0xFFFF 0 u else u) :=
    .ite (filled.trans (setAlarm_carries ..)) (.when (setAlarm_carries ..) filled)
  exact .when (setAlarm_carries ..) first

theorem dropFrames_carries (sel : WFrame → Bool) : Carries s (dropFrames sel s) := withWeft_carries s _

theorem forgetFrames_carries (sel : WFrame → Bool) : Carries s (forgetFrames sel s) := by
  unfold forgetFrames
  dsimp only
  exact .after (fillAlarms_carries _) (.after (dropFrames_carries ..) (withWin_carries s _))

theorem ackFlow_carries (flow a : Nat) : Carries s (ackFlow flow a s) :=
  .ite (.after (streamUpd_carries ..) (forgetFrames_carries ..)) (.after (bobUpd_carries ..) (forgetFrames_carries ..))

theorem ackEntry_carries (port : Nat) (e : Nat × Nat) : Carries s (ackEntry port s e) := by
  unfold ackEntry
  dsimp only
  split
  · exact portUpd_carries ..
  · exact .ite (portUpd_carries ..) (ackFlow_carries ..)

theorem setLock_carries (l : Lock) : Carries s (setLock l s) := by
  unfold setLock
  split
  · exact .refl s
  · exact .after (setAlarm_carries ..) (.after (logEvent_carries ..) (withWarp_carries s rfl))

theorem acquire_carries : Carries s (acquire s) := .after (setLock_carries ..) (withWarp_carries s rfl)

theorem freeLock_carries : Carries s (freeLock s) := .when (.after (setLock_carries ..) (withWarp_carries s rfl)) (.refl s)

theorem lockCheck_carries : Carries s (lockCheck s) := .ite (setLock_carries ..) (.ite (setLock_carries ..) (.refl s))

theorem servo_carries (theta : Int) (src : Nat) : Carries s (servo theta src s) := by
  unfold servo
  dsimp only
  generalize hu : (if s.warp.lock = .unlocked ∨ s.warp.lock = .holdover ∨ s.warp.source ≠ src then acquire s else s) = u
  have locked : Carries s u := hu ▸ .when (acquire_carries s) (.refl s)
  refine .after (lockCheck_carries _) (locked.trans (.ite ?_ ?_))
  · exact .after (withWarp_carries _ rfl) (withWarp_carries u rfl)
  · exact withWarp_carries u rfl

/-! ### Sequencers that a standby replays (R301 to R305, R425) -/

theorem simTrigger_carries (src : Nat) : Carries s (simTrigger src s) := .when (withConv_carries s _) (.refl s)

theorem triggerNotice_carries (g : Trigger) (number flags : Nat) : Carries s (triggerNotice g number flags s) := addNotice_carries ..

theorem takeRecord_carries (m : PMem) (g : Trigger) : Carries s (takeRecord m g s).1 :=
  .ite (bobUpd_carries ..) (.after (triggerNotice_carries ..) (bobUpd_carries ..))

theorem startRecord_carries (m : PMem) (g : Trigger) : Carries s (startRecord m g s).1 := by
  unfold startRecord
  dsimp only
  split
  · dsimp only
    exact .after (triggerNotice_carries ..) (bobUpd_carries ..)
  · split
    · exact bobUpd_carries ..
    · split
      · dsimp only
        exact .after (alarmNotice_carries ..) (.after (alarmEvent_carries ..) (bobUpd_carries ..))
      · exact takeRecord_carries ..

theorem offerEvent_carries (e : WarpEv) : Carries s (offerEvent e s) := withTrd_carries s _

theorem originate_carries (typ code stamp : Nat) : Carries s (originate typ code stamp s) := withWarp_carries s rfl

theorem outerEvent_carries (v : SeqView) (b : Word) (code hub : Nat) (quiet : Bool) : Carries s (outerEvent v b code hub quiet s) :=
  .ite (.ite (offerEvent_carries ..) (.after (originate_carries ..) (offerEvent_carries ..))) (.refl s)

theorem outerMark_carries (v : SeqView) (b : Word) (code hub : Nat) (quiet : Bool) : Carries s (outerMark v b code hub quiet s) :=
  .ite (.ite (withTrd_carries s _) (.after (addNotice_carries ..) (withTrd_carries s _))) (.refl s)

theorem outerLoop_carries (m : PMem) (v : SeqView) (b : Word) : Carries s (outerLoop m v b s) := .when (withDrv_carries s _) (.refl s)

theorem outerSteps_carries (m : PMem) (v : SeqView) (b : Word) (code hub : Nat) (quiet : Bool) :
    Carries s (outerEvent v b code hub quiet (outerMark v b code hub quiet (outerLoop m v b s))) :=
  .after (outerEvent_carries ..) (.after (outerMark_carries ..) (outerLoop_carries ..))

theorem outerActions_carries (m : PMem) (v : SeqView) (i mask coin : Nat) (shadow : Option Nat) :
    Carries s (outerActions m v i mask coin shadow s).1 := by
  unfold outerActions
  dsimp only
  have acted := outerSteps_carries s m v (m.trans v.q v.seq.state i 1) (fld (m.trans v.q v.seq.state i 2) 7 0)
    (s.hub.hubId.getD 0x3FF) shadow.isSome
  generalize outerEvent v _ _ _ _ _ = u at acted ⊢
  generalize hw : (if shadow.isSome = true then u else simTrigger v.q u) = w
  have triggered : Carries s w := hw ▸ .ite acted (acted.trans (simTrigger_carries ..))
  split
  · split
    · exact triggered
    · exact triggered.trans (startRecord_carries ..)
  · exact acted

theorem logTransition_carries (q i entered : Nat) (rec : Option Nat) (inst : Nat) : Carries s (logTransition q i entered rec inst s) :=
  .when (pairUpd_carries s (f := fun p => { p with
    logOut := p.logOut ++ [{ seqr := q, trans := i, entered, recordNo := rec.getD 0xFFFFFFFF, instant := inst }] }) fun _ => rfl) (.refl s)

theorem evaluate_carries (q inst : Nat) (replay : Option (Nat × Nat)) : Carries s (evaluate q inst replay s) := by
  unfold evaluate
  dsimp only
  have trim := fun (m : PMem) (trimOne : Nat → Bobbin → Bobbin) (u : State) =>
    foldl_carries (fun (v : State) b => bobUpd_carries v b (trimOne b)) ((List.range 8).filter (m.feeds q)) u
  split
  · exact .after (trim ..) (seqUpd_carries ..)
  · exact .after (trim ..) (.after (logTransition_carries ..) (.after (outerActions_carries ..) (seqUpd_carries ..)))

theorem replayOne_carries (e : LogEntry) : Carries s (replayOne s e) :=
  .when (.after (evaluate_carries ..) (seqUpd_carries ..)) (.refl s)

theorem followActive_carries (es : List LogEntry) : Carries s (followActive es s) := by
  refine .after (foldl_carries replayOne_carries _ _) (.after (pairUpd_carries _ fun _ => rfl) (foldl_carries (fun u i => ?_) _ s))
  exact .ite (.refl u) (ackFlow_carries ..)

/-! ### The end of BOOT, and role changes (R422 to R430) -/

theorem holdCheck_carries : Carries s (holdCheck s) := pairUpd_carries s fun _ => rfl

theorem startMbb_carries (b cmd mb seq : Nat) : Carries s (startMbb b cmd mb seq s) :=
  .after (stageAt_carries ..) (.after (sendSwitch_carries ..) (pairUpd_carries s fun _ => rfl))

theorem servePartner_carries : Carries s (servePartner s) := .when (startMbb_carries ..) (.refl s)

theorem twoActives_carries : Carries s (twoActives s) := .when (stageOwn_carries ..) (.refl s)

theorem withHubId_carries (hubId : Option Nat) : Carries s { s with hub := { s.hub with hubId } } :=
  ⟨rfl, rfl, rfl, rfl, fun _ => rfl, fun _ => rfl, fun _ _ => id, id, fun _ => id⟩

theorem enterState_carries (new : HubState) (reason source at_ : Nat) : Carries s (enterState new reason source at_ s) :=
  (enterState_moved ..).carries

theorem enterFault_carries (c : FaultCause) : Carries s (enterFault c s) := (enterFault_moved ..).carries

theorem macFault_carries : Carries s (macFault s) := (macFault_moved s).carries

/-- A role is settled, and the hub leaves BOOT for the state that its configuration names. -/
theorem settle_carries (x : Settled) :
    Carries s (mirrorAlarm x.mirror (uncertainAlarm x.uncertain (freeLock (enterState s.hub.bootTo 0 0 s.clk.loom s)))) :=
  .after (mirrorAlarm_carries ..) (.after (uncertainAlarm_carries ..) (.after (freeLock_carries _) (enterState_carries ..)))

theorem endBoot_carries (x : Settled) : Carries s (endBoot x s) := by
  unfold endBoot
  dsimp only
  have role : Carries s (setRole x.role { s with hub := { s.hub with hubId := s.bootId } }) :=
    .after (setRole_carries ..) (withHubId_carries ..)
  generalize setRole x.role { s with hub := { s.hub with hubId := s.bootId } } = u at role ⊢
  have paired : Carries s (pairUpd (fun p => { p with listening := none, hbOn := s.cfg.active.pairEn }) u) :=
    .after (pairUpd_carries u fun _ => rfl) role
  generalize pairUpd (fun p => { p with listening := none, hbOn := s.cfg.active.pairEn }) u = v at paired ⊢
  generalize hw : (if x.bothPrimary = true then pairEvent 0x0707 v else v) = w
  have told : Carries s w := hw ▸ .when (pairEvent_carries ..) paired
  have settled := told.trans (settle_carries w x)
  generalize mirrorAlarm x.mirror _ = y at settled ⊢
  generalize hz : (if x.role = Role.standby then askResync y else y) = z
  have asked : Carries s z := hz ▸ .when (askResync_carries y) settled
  refine .after (foldl_carries (fun a d => .when (enterFault_carries a (.domainLost d)) (.refl a)) _ _) (.after (macFault_carries _) ?_)
  exact .ite (asked.trans (withWarp_carries z rfl)) (asked.trans (withWarp_carries z rfl))

/-! ### Frames from the Selvedge (R402 to R404, R423 to R430) -/

theorem svAccept_carries (alive : Nat) (crcOk : Bool) : Carries s (svAccept alive crcOk s).2 := by
  have stale : ∀ u : State, Carries u (pairUpd (fun p => { p with row := 0 }) { u with itg := { u.itg with svStale := inc16 u.itg.svStale } }) :=
    fun u => .after (pairUpd_carries _ fun _ => rfl) (withItg_carries u rfl)
  refine .snd_ite ?_ (.snd_ite (withItg_carries s rfl) (.snd_ite (stale s) ?_))
  · exact .after (stale _) (unitMismatch_carries ..)
  · dsimp only
    exact .after (pairUpd_carries _ fun _ => rfl) (withItg_carries s rfl)

theorem svCheck_carries (typ : Nat) (h : SvHeader) (payload : Bytes) : Carries s (svCheck typ h payload s) :=
  .ite (unitHolds_carries ..) (.after (unitHolds_carries ..) (nextFree_carries s))

theorem onFrame_carries (typ : Nat) (h : SvHeader) (payload : Bytes) {f : State → State} (hf : ∀ u, Carries u (f u)) :
    Carries s (onFrame typ h payload f s) := by
  have accepted : Carries s (svAccept h.alive h.crcOk (svCheck typ h payload s)).2 :=
    .after (svAccept_carries ..) (svCheck_carries ..)
  refine .ite ?_ (.refl s)
  dsimp only
  exact .ite (.after (hf _) (.after (pairUpd_carries _ fun _ => rfl) accepted)) accepted

/-! ### Snapshots and deltas (R426 to R429) -/

theorem sectorWorn_carries : Carries s (sectorWorn s) := .after (partWorn_carries ..) (nextFree_carries s)

theorem putCopy_carries (toB : Bool) (c : Copy) : Carries s (putCopy toB c s) := .after (withCfg_carries _ _) (nextFree_carries s)

theorem persist_carries (words : PMem) (seq source : Nat) : Carries s (persist words seq source s).2 := by
  have free := nextFree_carries s
  refine .snd_ite ?_ ?_
  · dsimp only
    refine .after (setAlarm_carries ..) (.after (withCfg_carries _ _) (.ite ?_ (free.trans (putCopy_carries ..))))
    exact .after (putCopy_carries ..) (free.trans (putCopy_carries ..))
  · dsimp only
    exact .after (setAlarm_carries ..) (.after (logEvent_carries ..) (free.trans (sectorWorn_carries _)))

theorem acceptDelta_carries (ws : List (Nat × Word)) (seq : Nat) : Carries s (acceptDelta ws seq s) := by
  unfold acceptDelta
  dsimp only
  generalize hu : ({ s with cfg := Cfg.renumber _ _ _ } : State) = u
  have renumbered : Carries s u := hu ▸ withCfg_carries s _
  exact .ite (.after (persist_carries ..) (.when (pairEvent_carries ..) renumbered)) renumbered

theorem lateDelta_carries (inTime : Bool) (due : Nat) : Carries s (lateDelta inTime due s) :=
  .ite (.refl s) (pairUpd_carries s fun _ => rfl)

theorem waitDelta_carries (first : Bool) (c : Change) (due : Nat) : Carries s (waitDelta first c due s) := withCfg_carries s _

theorem putLive_carries (die bank : Nat) (mb : Option Nat) : Carries s (putLive die bank mb s) := .of_eq rfl rfl rfl rfl

theorem swapDelta_carries (die bank seq : Nat) : Carries s (swapDelta die bank seq s) := .after (withCfg_carries _ _) (putLive_carries ..)

theorem startStims_carries (mask start : Nat) : Carries s (startStims mask start s) := foldl_carries (fun u p => stimUpd_carries u p _) _ s

theorem holdStims_carries (mask hold : Nat) : Carries s (holdStims mask hold s) := foldl_carries (fun u p => stimUpd_carries u p _) _ s

theorem takeDelta_carries (d : Delta) : Carries s (takeDelta d s) := by
  unfold takeDelta
  dsimp only
  have late := lateDelta_carries s (decide (s.deltaDue d.due = d.due)) (s.deltaDue d.due)
  generalize lateDelta _ _ s = u at late ⊢
  generalize hv : pairUpd _ u = v
  have noted : Carries s v := hv ▸ .after (pairUpd_carries u fun _ => rfl) late
  split
  · exact .after (waitDelta_carries ..) (noted.trans (acceptDelta_carries ..))
  · exact .ite noted (.after (waitDelta_carries ..) (noted.trans (swapDelta_carries ..)))
  · exact noted.trans (startStims_carries ..)
  · exact noted.trans (holdStims_carries ..)
  · exact noted.trans (waitDelta_carries ..)

theorem loadValue_carries (n sl : Nat) (v : Word) : Carries s (loadValue n sl v s) := .ite (.refl s) (withCfg_carries s _)

theorem loadItem_carries (at_ : Nat) (synced : Bool) (items : List SnapItem) (i : SnapItem) : Carries s (loadItem at_ synced items s i) := by
  cases i with
  | sequencer => exact seqUpd_carries ..
  | bobbin => exact bobUpd_carries ..
  | loop _ n =>
    simp only [loadItem]
    refine .after (foldl_carries (fun u v => ?_) _ _) (loopUpd_carries ..)
    exact loadValue_carries ..
  | stim => exact stimUpd_carries ..
  | table =>
    simp only [loadItem]
    refine foldl_carries (fun u n => ?_) _ s
    exact .when (loopUpd_carries ..) (.refl u)
  | weft =>
    simp only [loadItem]
    refine .ite (pairUpd_carries s fun _ => rfl) (.after (foldl_carries (fun u bn => ?_) _ _) (.after (foldl_carries (fun u kn => ?_) _ _)
      (pairUpd_carries s fun _ => rfl)))
    · exact bobUpd_carries u bn.1 _
    · exact streamUpd_carries u kn.1 _
  | calibration =>
    simp only [loadItem]
    exact pairUpd_carries s fun _ => rfl
  | configuration =>
    simp only [loadItem]
    exact pairUpd_carries s fun _ => rfl

theorem takeSnapshot_carries (beat : Nat) (items : List SnapItem) : Carries s (takeSnapshot beat items s) := by
  unfold takeSnapshot
  dsimp only
  generalize hu : pairUpd _ s = u
  have put : Carries s u := hu ▸ pairUpd_carries s fun _ => rfl
  have loaded := put.trans (foldl_carries (fun v i => loadItem_carries v (beatTime beat) s.pair.inSync items i) items u)
  generalize items.foldl (loadItem (beatTime beat) s.pair.inSync items) u = v at loaded ⊢
  have replayed := loaded.trans (.after (foldl_carries replayOne_carries
    (v.pair.logIn.filter fun e => decide (beatTime beat ≤ e.instant + v.cfg.active.seqLS e.seqr)) _)
    (pairUpd_carries v (f := fun p => { p with
      logIn := v.pair.logIn.filter fun e => decide (beatTime beat ≤ e.instant + v.cfg.active.seqLS e.seqr) }) fun _ => rfl))
  generalize List.foldl replayOne _ _ = w at replayed ⊢
  refine .when (stageOwn_carries ..) (replayed.trans (.ite ?_ (askResync_carries w)))
  exact pairUpd_carries w fun _ => rfl

/-! ### What a crossing held comes out (R410) -/

/-- A crossing that holds takes up something more. -/
theorem holdMore_carries (x : Nat) (i : Held) (h : s.crossHolds x = true) :
    Carries s (crossUpd x (fun c => { c with held := c.held ++ [i] }) s) := by
  refine ⟨rfl, rfl, rfl, rfl, fun y => ?_, fun y => ?_, fun y hy he => ?_, id, fun _ => id⟩ <;> by_cases e : y = x
  · simp only [State.crossHolds, crossUpd, e, Tab.get_upd_same]
  · simp only [State.crossHolds, crossUpd, Tab.get_upd_other _ _ e]
  · simp only [crossUpd, e, Tab.get_upd_same]
  · simp only [crossUpd, Tab.get_upd_other _ _ e]
  · rw [e, h] at hy
    exact absurd hy (by decide)
  · rwa [crossUpd, Tab.get_upd_other _ _ e]

/-- The outcome of a command that acts. -/
theorem act_carries (t : Nat) {f : State → State} (hf : ∀ u, Carries u (f u)) : Carries s (nextOr s (act t s f)) :=
  .after (withPending_carries _ _) ((tick_carries s t).trans (hf _))

/-- A frame from a host waits at its crossing, or has its effect. -/
theorem received_carries (t port : Nat) (i : Instr) {f : State → State} (hf : ∀ u, Carries u (f u)) :
    Carries s (nextOr s (received t port i s f)) := by
  refine act_carries s t fun u => ?_
  split
  next h =>
    exact .ite (holdMore_carries u 6 _ (by simp_all)) (withWeft_carries u _)
  next => exact hf u

/-- A frame from the Selvedge waits at its crossing, or has its effect. -/
theorem crosses_carries (t : Nat) (i : Instr) {f : State → State} (hf : ∀ u, Carries u (f u)) :
    Carries s (nextOr s (crosses t i s f)) := by
  refine act_carries s t fun u => ?_
  split
  next h => exact holdMore_carries u 7 _ (by simp_all)
  next => exact hf u

theorem unlessReset_carries {f : State → State} (hf : Carries s (f s)) : Carries s (unlessReset f s) := .ite (.refl s) hf

theorem shuttleRequest_carries (t port ip udp : Nat) (msg : Bytes) : Carries s (nextOr s (execShuttleRequest t port ip udp msg s)) :=
  received_carries s _ _ _ fun u => unlessReset_carries u (.when (arrive_carries ..) (.refl u))

theorem hostFrameReceived_carries (t port : Nat) (frame : Bytes) (fcsOk : Bool) :
    Carries s (nextOr s (execHostFrameReceived t port frame fcsOk s)) := by
  refine received_carries s _ _ _ fun u => .ite (.refl u) ?_
  dsimp only
  have counted := portUpd_carries u port fun h => { h with received := inc32 h.received }
  refine .ite (counted.trans (portUpd_carries ..)) (.ite (counted.trans (portUpd_carries ..)) ?_)
  split
  · exact .ite (counted.trans (portUpd_carries ..)) counted
  · exact counted

theorem acknowledgement_carries (t port : Nat) (msg : Bytes) : Carries s (nextOr s (execAcknowledgement t port msg s)) := by
  refine received_carries s _ _ _ fun u => .ite (.refl u) ?_
  have read : Carries u (unitChecks 1 msg (if crcPasses msg then u else unitMismatch 1 u)) :=
    .after (unitChecks_carries ..) (.ite (.refl u) (unitMismatch_carries ..))
  exact .ite (read.trans (foldl_carries (fun v e => ackEntry_carries v port e) _ _)) (read.trans (portUpd_carries ..))

theorem arpRequest_carries (t port mac ip target : Nat) : Carries s (nextOr s (execArpRequest t port mac ip target s)) :=
  received_carries s _ _ _ fun u => .when (portUpd_carries ..) (.refl u)

theorem icmpEchoRequest_carries (t port ip : Nat) (msg : Bytes) : Carries s (nextOr s (execIcmpEchoRequest t port ip msg s)) :=
  received_carries s _ _ _ fun u => .when (portUpd_carries ..) (.refl u)

theorem ptpSync_carries (t port : Nat) (m : PtpSync) : Carries s (nextOr s (execPtpSync t port m s)) := by
  refine received_carries s _ _ _ fun u => .ite ?_ (.refl u)
  exact .when (servo_carries ..) (portUpd_carries ..)

theorem ptpAnnounce_carries (t port : Nat) (m : PtpAnnounce) : Carries s (nextOr s (execPtpAnnounce t port m s)) :=
  received_carries s _ _ _ fun u => .when (portUpd_carries ..) (.refl u)

theorem pdelayReq_carries (t port srcId seqId domain : Nat) : Carries s (nextOr s (execPdelayReq t port srcId seqId domain s)) :=
  received_carries s _ _ _ fun u => .ite (.ite (.after (portUpd_carries ..) (portUpd_carries ..)) (portUpd_carries ..)) (.refl u)

theorem selvedgeHeartbeat_carries (t : Nat) (frame : Bytes) : Carries s (nextOr s (execSelvedgeHeartbeat t frame s)) := by
  refine crosses_carries s _ _ fun u => .ite ?_ (.refl u)
  dsimp only
  have accepted := fun alive good => (unitHolds_carries u 3 (svRun frame)).trans (svAccept_carries _ alive good)
  refine .ite ?_ (accepted ..)
  generalize hv : pairUpd _ (svAccept _ _ (unitHolds 3 (svRun frame) u)).2 = v
  have noted : Carries u v := hv ▸ .after (pairUpd_carries _ fun _ => rfl) (accepted ..)
  generalize hw : (if v.pair.linkUp = true then mirrorAlarm false v else v) = w
  have linked : Carries u w := hw ▸ .when (mirrorAlarm_carries ..) noted
  refine .ite (.ite ?_ linked) (.ite ?_ ?_)
  · split
    · exact linked.trans (endBoot_carries ..)
    · exact linked
  · exact .after (holdCheck_carries _) (linked.trans (followActive_carries ..))
  · exact .after (servePartner_carries _) (linked.trans (twoActives_carries _))

theorem snapshotFragment_carries (t : Nat) (hdr : SvHeader) (place : SnapPlace) (items : List SnapItem) (last : Bool) :
    Carries s (nextOr s (execSnapshotFragment t hdr place items last s)) := by
  refine crosses_carries s _ _ fun u => onFrame_carries u _ _ _ fun v => .ite ?_ (.refl v)
  dsimp only
  have checked := foldl_carries (fun (x : State) (_ : SnapItem) => huskMismatch_carries x 0x0D00 0) (items.filter itemBad) v
  generalize List.foldl _ v _ = w at checked ⊢
  generalize hy : pairUpd _ w = y
  have kept : Carries v y := hy ▸ .after (pairUpd_carries w fun _ => rfl) checked
  exact .ite kept (.ite (kept.trans (takeSnapshot_carries ..)) (kept.trans (askResync_carries y)))

theorem delta_carries (t : Nat) (hdr : SvHeader) (frame : DeltaFrame) : Carries s (nextOr s (execDelta t hdr frame s)) := by
  refine crosses_carries s _ _ fun u => onFrame_carries u _ _ _ fun v => .ite ?_ (.refl v)
  dsimp only
  have acknowledged := svSend_carries v 4 (beBytes 4 frame.delta.id)
  refine .ite acknowledged ?_
  have checked := acknowledged.trans (foldl_carries (fun (x : State) (_ : Nat) => huskMismatch_carries x 0x0D00 0) frame.bad _)
  split
  · exact checked.trans (takeDelta_carries ..)
  · exact checked

theorem deltaAcknowledgement_carries (t : Nat) (hdr : SvHeader) (id : Nat) :
    Carries s (nextOr s (execDeltaAcknowledgement t hdr id s)) :=
  crosses_carries s _ _ fun u => onFrame_carries u _ _ _ fun v => pairUpd_carries v fun _ => rfl

theorem resyncRequest_carries (t : Nat) (hdr : SvHeader) : Carries s (nextOr s (execResyncRequest t hdr s)) :=
  crosses_carries s _ _ fun u => onFrame_carries u _ _ _ fun v => .ite (.after (emitDelta_carries ..) (.after (countPair_carries ..)
    (pairUpd_carries v fun _ => rfl))) (.refl v)

theorem switchControl_carries (t : Nat) (hdr : SvHeader) (tT : Nat) : Carries s (nextOr s (execSwitchControl t hdr tT s)) :=
  crosses_carries s _ _ fun u => onFrame_carries u _ _ _ fun v => .ite (pairUpd_carries v fun _ => rfl)
    (.ite (.after (stageAt_carries ..) (pairUpd_carries v fun _ => rfl)) (.refl v))

/-- What a crossing held comes out of it: the crossings carry it. -/
theorem deliverHeld_carries (i : Held) : Carries s (deliverHeld s i) := by
  unfold deliverHeld
  dsimp only
  split
  · exact plyWord_carries ..
  · exact .after (finishScan_carries ..) (.after (grant_carries ..) (deliverResult_carries ..))
  · exact shuttleRequest_carries ..
  · exact hostFrameReceived_carries ..
  · exact acknowledgement_carries ..
  · exact arpRequest_carries ..
  · exact icmpEchoRequest_carries ..
  · exact ptpSync_carries ..
  · exact ptpAnnounce_carries ..
  · exact pdelayReq_carries ..
  · exact selvedgeHeartbeat_carries ..
  · exact snapshotFragment_carries ..
  · exact delta_carries ..
  · exact deltaAcknowledgement_carries ..
  · exact resyncRequest_carries ..
  · exact switchControl_carries ..
  · exact .refl s

end

end Sys2Proof.Machine

/-! SUPPORT. Clock reports (O52): what the crossings hold and deliver as a clock stops and comes back (R27, R28, R410). -/

namespace Sys2Proof.Machine

open Sys2Proof

/-! ### Crossings that begin to hold, and those that deliver -/

/-- A pass over the first places of a table. -/
theorem get_foldl_upd_range {α : Type} [DecidableEq α] [Inhabited α] (f : Nat → α → α) (n : Nat) (m : Tab α) (y : Nat) :
    ((List.range n).foldl (fun t x => t.upd x (f x)) m).get y = if y < n then f y (m.get y) else m.get y := by
  induction n with
  | zero => simp
  | succ n ih =>
    rw [List.range_succ, List.foldl_append, List.foldl_cons, List.foldl_nil]
    by_cases e : y = n
    · subst e
      rw [Tab.get_upd_same, ih, if_neg (Nat.lt_irrefl y), if_pos (Nat.lt_succ_self y)]
    · rw [Tab.get_upd_other _ _ e, ih]
      congr 1
      rw [eq_iff_iff]
      omega

/-- A crossing as its receiving clock is reported stopped or running. -/
def Crossing.report (stop : Bool) (x now : Nat) (c : Crossing) : Crossing :=
  { c with
    holds := stop, stops := if stop && !c.holds then inc16 c.stops else c.stops
    shakes := if c.holds && !stop then c.shakes.map fun h => (h.1, h.2.wake x now) else c.shakes }

section
variable (s : State)

theorem holdCrossings_crossings : (holdCrossings s).itg.crossings
    = (List.range 12).foldl (fun t x => t.upd x (Crossing.report (stoppedAt s.hub.clocks x) x s.clk.loom)) s.itg.crossings := by
  unfold holdCrossings
  generalize List.range 12 = l
  rfl

theorem holdCrossings_get (x : Nat) : (holdCrossings s).itg.crossings.get x = if x < 12 then
    (s.itg.crossings.get x).report (stoppedAt s.hub.clocks x) x s.clk.loom else s.itg.crossings.get x := by
  rw [holdCrossings_crossings, get_foldl_upd_range fun x => Crossing.report (stoppedAt s.hub.clocks x) x s.clk.loom]

/-- The state in which the crossings deliver. -/
def State.reported (s : State) (clk : Clock) : State := shakeEvent 11 (clockIndex clk) (holdCrossings s)

theorem reported_hub (clk : Clock) : (s.reported clk).hub = s.hub := by
  rw [State.reported, shakeEvent_hub]
  rfl

theorem reported_holds (clk : Clock) {x : Nat} (h : x < 12) : (s.reported clk).crossHolds x = stoppedAt s.hub.clocks x := by
  rw [State.crossHolds, State.reported, (shakeEvent_calm ..).holds, holdCrossings_get, if_pos h]
  rfl

theorem reported_stops (clk : Clock) {x : Nat} (h : x < 12) : ((s.reported clk).itg.crossings.get x).stops
    = if stoppedAt s.hub.clocks x && !(s.itg.crossings.get x).holds then inc16 (s.itg.crossings.get x).stops
      else (s.itg.crossings.get x).stops := by
  rw [State.reported, (shakeEvent_calm ..).stops, holdCrossings_get, if_pos h]
  rfl

theorem reported_held (clk : Clock) {x : Nat} (h : (s.itg.crossings.get x).held = []) : ((s.reported clk).itg.crossings.get x).held = [] := by
  refine (shakeEvent_calm 11 (clockIndex clk) (holdCrossings s)).held x ?_
  rw [holdCrossings_get]
  split <;> exact h

/-- The crossings that deliver at a report. -/
def State.backFrom (s : State) : List Nat := (List.range 12).filter fun x => s.crossHolds x && !(stoppedAt s.hub.clocks x)

theorem mem_backFrom {x : Nat} : x ∈ s.backFrom ↔ x < 12 ∧ s.crossHolds x = true ∧ stoppedAt s.hub.clocks x = false := by
  simp [State.backFrom]

theorem clocksChange_eq (clk : Clock) : clocksChange clk s = s.backFrom.foldl drainCrossing (s.reported clk) := rfl

/-- What a crossing held is taken from it. -/
theorem letGo_carries (x : Nat) : Carries s (crossUpd x (fun c => { c with held := [] }) s) :=
  .of_calm rfl rfl rfl (calm_upd _ x (f := fun c => { c with held := [] }) fun _ => ⟨rfl, rfl, fun _ => rfl⟩)

theorem letGo_held (x : Nat) : ((crossUpd x (fun c => { c with held := [] }) s).itg.crossings.get x).held = [] := by
  rw [crossUpd, Tab.get_upd_same]

theorem takeEvent_steady (e : WarpEv) : Steady s (takeEvent s e) := by
  unfold takeEvent
  dsimp only
  generalize hu : (if e.typ = 2 then _ else s) = u
  have marked : Steady s u := by
    rw [← hu]
    split
    · exact .of_eq (by simp [State.anchor]) (by simp)
    · exact .refl s
  have pulsed : Steady s (if e.typ = 1 then simTrigger 5 u else u) :=
    .ite (fun _ => marked.trans (.ite (fun _ => .of_eq rfl rfl) fun _ => .refl u)) fun _ => marked
  exact .ite (fun _ => pulsed.trans (.of_eq rfl rfl)) fun _ => pulsed

theorem takeEvent_carries (e : WarpEv) : Carries s (takeEvent s e) := (takeEvent_steady s e).carries

/-- The events for the Treadle are handed over. -/
theorem drainEvents_carries : Carries s (drainEvents s) :=
  .ite (.refl s) (.after (foldl_carries takeEvent_carries _ _)
    ⟨rfl, rfl, rfl, rfl, fun _ => rfl, fun _ => rfl, fun _ _ => id, fun _ => rfl, fun _ => id⟩)

theorem drainEvents_empties (h : s.crossHolds 4 = false) : (drainEvents s).warp.toTreadle = [] := by
  have pass : drainEvents s = s.warp.toTreadle.foldl takeEvent { s with warp := { s.warp with toTreadle := [] } } :=
    if_neg (by simpa [State.crossHolds] using h)
  rw [pass]
  exact (foldl_carries takeEvent_carries _ _).events rfl

/-- The frames for the Selvedge go out. -/
def sendOut (s : State) : State := s.pair.out.foldl (fun u e => emit e u) { s with pair := { s.pair with out := [] } }

theorem sendOut_view : (sendOut s).hub = s.hub ∧ (sendOut s).warp = s.warp ∧ (sendOut s).itg = s.itg ∧ (sendOut s).pair.out = [] := by
  have view := foldl_view (fun u : State => (u.hub, u.warp, u.itg, u.pair)) (fun u e => emit e u) (fun _ _ => rfl) s.pair.out
    { s with pair := { s.pair with out := [] } }
  simp only [Prod.mk.injEq] at view
  obtain ⟨hhub, hwarp, hitg, hpair⟩ := view
  exact ⟨hhub, hwarp, hitg, congrArg Pair.out hpair⟩

theorem sendOut_carries : Carries s (sendOut s) := by
  obtain ⟨hhub, hwarp, hitg, hout⟩ := sendOut_view s
  have links : Carries s { s with pair := { s.pair with out := [] } } :=
    ⟨rfl, rfl, rfl, rfl, fun _ => rfl, fun _ => rfl, fun _ _ => id, id, fun _ _ => rfl⟩
  exact links.trans (.of_calm hhub (by rw [hwarp]) hout (.of_eq (by rw [hitg])))

/-- What a crossing held comes out of it. -/
def State.deliverAll (s : State) (x : Nat) : State :=
  (s.itg.crossings.get x).held.foldl deliverHeld (crossUpd x (fun c => { c with held := [] }) s)

theorem drainCrossing_eq (x : Nat) : drainCrossing s x = if x = 4 then drainEvents (s.deliverAll x)
    else if x = 7 then sendOut (s.deliverAll x) else if x = 8 then rewriteStaged (s.deliverAll x) else s.deliverAll x := rfl

theorem deliverAll_carries (x : Nat) : Carries s (s.deliverAll x) := .after (foldl_carries deliverHeld_carries _ _) (letGo_carries ..)

theorem deliverAll_held {x : Nat} (h : s.crossHolds x = false) : ((s.deliverAll x).itg.crossings.get x).held = [] :=
  (foldl_carries deliverHeld_carries _ _).held x (((letGo_carries s x).holds x).trans h) (letGo_held s x)

/-- What follows the items that a crossing held. -/
theorem afterHeld_carries (x : Nat) : Carries (s.deliverAll x) (drainCrossing s x) := by
  rw [drainCrossing_eq]
  exact .ite (drainEvents_carries _) (.ite (sendOut_carries _) (.ite (withCfg_carries _ _) (.refl _)))

theorem drainCrossing_carries (x : Nat) : Carries s (drainCrossing s x) := (deliverAll_carries s x).trans (afterHeld_carries s x)

/-- Nothing of a crossing is left waiting. -/
structure Emptied (x : Nat) (s : State) : Prop where
  held : (s.itg.crossings.get x).held = []
  events : x = 4 → s.warp.toTreadle = []
  out : x = 7 → s.pair.out = []

theorem Carries.emptied {s s' : State} (h : Carries s s') {x : Nat} (hx : s.crossHolds x = false) (e : Emptied x s) : Emptied x s' :=
  ⟨h.held x hx e.held, fun h4 => h.events (e.events h4), fun h7 => h.out (h7 ▸ hx) (e.out h7)⟩

theorem drainCrossing_emptied {x : Nat} (h : s.crossHolds x = false) : Emptied x (drainCrossing s x) := by
  have after := deliverAll_carries s x
  refine ⟨(afterHeld_carries s x).held x ((after.holds x).trans h) (deliverAll_held s h), ?_, ?_⟩
  · rintro rfl
    exact drainEvents_empties _ ((after.holds 4).trans h)
  · rintro rfl
    exact (sendOut_view _).2.2.2

/-- All that deliver are empty then. -/
theorem foldl_drain_emptied (l : List Nat) {s : State} (h : ∀ x ∈ l, s.crossHolds x = false) {x : Nat} (hx : x ∈ l) :
    Emptied x (l.foldl drainCrossing s) := by
  induction l generalizing s with
  | nil => exact absurd hx List.not_mem_nil
  | cons y r ih =>
    have first := drainCrossing_carries s y
    have rest : ∀ z ∈ r, (drainCrossing s y).crossHolds z = false := fun z hz => (first.holds z).trans (h z (List.mem_cons_of_mem _ hz))
    have hy := h y List.mem_cons_self
    by_cases hr : x ∈ r
    · exact ih rest hr
    · obtain rfl | hr' := List.mem_cons.mp hx
      · exact (foldl_carries drainCrossing_carries r _).emptied ((first.holds x).trans hy) (drainCrossing_emptied s hy)
      · exact absurd hr' hr

theorem clocksChange_carries (clk : Clock) : Carries (s.reported clk) (clocksChange clk s) := foldl_carries drainCrossing_carries _ _

theorem clocksChange_emptied (clk : Clock) {x : Nat} (h : x ∈ s.backFrom) : Emptied x (clocksChange clk s) := by
  rw [clocksChange_eq]
  refine foldl_drain_emptied _ (fun y hy => ?_) h
  obtain ⟨hlt, _, hstop⟩ := (mem_backFrom s).mp hy
  rw [reported_holds s clk hlt, hstop]

/-- What the crossings hold and have been stopped at once they have delivered. -/
theorem clocksChange_crossings (clk : Clock) {x : Nat} (h : x < 12) :
    (clocksChange clk s).crossHolds x = stoppedAt s.hub.clocks x
      ∧ ((clocksChange clk s).itg.crossings.get x).stops = if stoppedAt s.hub.clocks x && !(s.itg.crossings.get x).holds
        then inc16 (s.itg.crossings.get x).stops else (s.itg.crossings.get x).stops :=
  ⟨((clocksChange_carries s clk).holds x).trans (reported_holds s clk h), ((clocksChange_carries s clk).stops x).trans (reported_stops s clk h)⟩

/-! ### Clocks as they stop and come back (R27, R28) -/

theorem clockAlarm_carries (logged : Bool) : Carries s (clockAlarm logged s) := setAlarm_carries ..

theorem clockAlarm_set (logged : Bool) : (clockAlarm logged s).sh.alarms.contains 3 = !s.hub.clocks.isEmpty := setAlarm_contains_same ..

end

/-- The same parts, where the crossings deliver at a report. -/
theorem afterReport {s u : State} {clk : Clock} (h : Carries (clocksChange clk s) u) :
    u.hub.clocks = s.hub.clocks ∧ u.hub.clocksGood = s.hub.clocksGood ∧ u.hub.onKclk = s.hub.onKclk ∧ u.hub.xiWait = s.hub.xiWait
      ∧ ∀ x, x < 12 → (u.itg.crossings.get x).holds = stoppedAt s.hub.clocks x
        ∧ (u.itg.crossings.get x).stops = (if stoppedAt s.hub.clocks x && !(s.itg.crossings.get x).holds
          then inc16 (s.itg.crossings.get x).stops else (s.itg.crossings.get x).stops)
        ∧ (s.crossHolds x = true → stoppedAt s.hub.clocks x = false → Emptied x u) := by
  have k := (clocksChange_carries s clk).trans h
  refine ⟨k.clocks, k.clocksGood, k.onKclk, k.xiWait, fun x hx => ?_⟩
  obtain ⟨hholds, hstops⟩ := clocksChange_crossings s clk hx
  refine ⟨(h.holds x).trans hholds, (h.stops x).trans hstops, fun held runs => ?_⟩
  exact h.emptied (hholds.trans runs) (clocksChange_emptied s clk ((mem_backFrom s).mpr ⟨hx, held, runs⟩))

/-- A clock as it is reported (R27, R28). -/
def State.withReport (s : State) (clk : Clock) (kind : ClockReport) : State :=
  { s with hub := { s.hub with
    clocks := s.hub.clocks.filter (fun c => c.1 != clk) ++ [(clk, kind)], clocksGood := s.hub.clocksGood.filter fun c => c.1 != clk
    onKclk := s.hub.onKclk || clk == .qclk || clk == .xi } }

/-- XI lost (R456, R497). -/
def loseXi (s : State) : State :=
  let s := enterFault .xiLost (logEvent 0x0408 0 0 s)
  if s.hub.state = .boot ∧ s.hub.inReset = false then { s with sh := { s.sh with xiFrom := some s.clk.loom } } else s

theorem loseXi_carries (s : State) : Carries s (loseXi s) :=
  .when (withSh_carries _ _) ((logEvent_carries s 0x0408 0 0).trans (enterFault_carries _ .xiLost))

theorem loseXi_hub (s : State) : (loseXi s).hub = (enterFault .xiLost (logEvent 0x0408 0 0 s)).hub := by
  unfold loseXi
  dsimp only
  split <;> rfl

theorem loseXi_alarms (s : State) : (loseXi s).sh.alarms = s.sh.alarms := by
  have moved := (logEvent_steady s 0x0408 0 0).moving.moved.trans (enterFault_moved .xiLost _)
  have alarms : (enterFault .xiLost (logEvent 0x0408 0 0 s)).sh.alarms = s.sh.alarms := by
    obtain ⟨_, _, _, h⟩ := moved
    exact h.alarms
  unfold loseXi
  dsimp only
  split <;> exact alarms

/-- A hub that runs is in FAULT then. -/
theorem loseXi_fault {s : State} (h : s.hub.state = .config ∨ stLive s.hub.state = true) :
    (loseXi s).hub.state = .fault ∧ (loseXi s).hub.causes.contains .xiLost = true ∧ (loseXi s).hub.lastCause = 0x0408 := by
  have hb : s.hub.state ≠ .boot ∧ s.hub.state ≠ .safe ∧ s.hub.state ≠ .fault := by
    refine ⟨?_, ?_, ?_⟩ <;> intro e <;> rw [e] at h <;> revert h <;> decide
  obtain ⟨hboot, hsafe, hfault⟩ := hb
  rw [loseXi_hub]
  obtain ⟨hstate, hcause, hlast⟩ := enterFault_spec .xiLost (s := logEvent 0x0408 0 0 s) hboot hsafe
  exact ⟨hstate, hcause, hlast hfault⟩

theorem exec_clockMonitorReport (t : Nat) (clk : Clock) (kind : ClockReport) (s : State) :
    exec (.clockMonitorReport t clk kind) s = act t s fun u =>
      if clk = .xi ∧ (u.hub.clocks.any fun c => c.1 == clk) = false
      then loseXi (clockAlarm (clk != .xi) (clocksChange clk (u.withReport clk kind)))
      else clockAlarm (clk != .xi) (clocksChange clk (u.withReport clk kind)) := rfl

/-- No crossing delivers: the report alone changes the state. -/
theorem clocksChange_alone {s : State} (clk : Clock) (logged : Bool) (h : s.backFrom = []) :
    (clockAlarm logged (clocksChange clk s)).hub = s.hub ∧ (clockAlarm logged (clocksChange clk s)).cfg = s.cfg
      ∧ (clockAlarm logged (clocksChange clk s)).filt = s.filt ∧ (clockAlarm logged (clocksChange clk s)).drv = s.drv := by
  rw [clocksChange_eq, h, List.foldl_nil]
  simp only [clockAlarm, setAlarm_hub, setAlarm_cfg, setAlarm_filt, setAlarm_drv, State.reported, shakeEvent_hub, shakeEvent_cfg,
    shakeEvent_filt, shakeEvent_drv, holdCrossings, and_self]

theorem clockMonitorReport_does (s : State) (t : Nat) (clk : Clock) (kind : ClockReport) :
    Does (.clockMonitorReport t clk kind) s fun s' =>
      s'.hub.clocks = s.hub.clocks.filter (fun c => c.1 != clk) ++ [(clk, kind)]
        ∧ s'.hub.onKclk = (s.hub.onKclk || clk == .qclk || clk == .xi) ∧ s'.sh.alarms.contains 3 = true
        ∧ (∀ x, x < 12 → (s'.itg.crossings.get x).holds = stoppedAt s'.hub.clocks x
          ∧ (s'.itg.crossings.get x).stops = if stoppedAt s'.hub.clocks x && !(s.itg.crossings.get x).holds
            then inc16 (s.itg.crossings.get x).stops else (s.itg.crossings.get x).stops)
        ∧ ((∀ x, x < 12 → s.crossHolds x = true → stoppedAt s'.hub.clocks x = true) →
          (clk ≠ .xi → s'.hub.state = s.hub.state ∧ s'.cfg = s.cfg ∧ s'.filt = s.filt ∧ s'.drv = s.drv)
            ∧ (clk = .xi → (∀ k, (Clock.xi, k) ∉ s.hub.clocks) → s.hub.state = .config ∨ stLive s.hub.state = true →
              s'.hub.state = .fault ∧ s'.hub.causes.contains .xiLost = true ∧ s'.hub.lastCause = 0x0408)) := by
  let w := (tick t s).withReport clk kind
  let v := clockAlarm (clk != .xi) (clocksChange clk w)
  let z := if clk = .xi ∧ (s.hub.clocks.any fun c => c.1 == clk) = false then loseXi v else v
  have alarmed : Carries (clocksChange clk w) v := clockAlarm_carries ..
  have onset : v.sh.alarms.contains 3 = true := by
    rw [show v.sh.alarms.contains 3 = _ from clockAlarm_set ..]
    rw [(afterReport (.refl (clocksChange clk w))).1]
    simp [w, State.withReport]
  have lost : Carries v z := .when (loseXi_carries v) (.refl v)
  have onset' : z.sh.alarms.contains 3 = true := by
    unfold z
    split
    · rw [loseXi_alarms, onset]
    · exact onset
  obtain ⟨hclocks, hgood, honKclk, hwait, hcross⟩ := afterReport (alarmed.trans lost)
  refine does_of_act (exec_clockMonitorReport ..) (u := z) rfl ⟨hclocks, honKclk, onset', fun x hx => ?_, fun stay => ?_⟩
  · obtain ⟨hholds, hstops, _⟩ := hcross x hx
    rw [show ({ z with pending := s.pending } : State).hub.clocks = _ from hclocks]
    exact ⟨hholds, hstops⟩
  · have alone : w.backFrom = [] := by
      refine List.eq_nil_iff_forall_not_mem.mpr fun x hx => ?_
      obtain ⟨hlt, holds, runs⟩ := (mem_backFrom w).mp hx
      have := stay x hlt holds
      rw [show ({ z with pending := s.pending } : State).hub.clocks = _ from hclocks, runs] at this
      exact absurd this (by decide)
    obtain ⟨hhub, hcfg, hfilt, hdrv⟩ := clocksChange_alone clk (clk != .xi) alone
    have start := congrArg Hub.state hhub
    refine ⟨fun hclk => ?_, fun hclk hnew hstate => ?_⟩
    · have same : z = v := if_neg fun h => hclk h.1
      rw [same]
      exact ⟨start, hcfg, hfilt, hdrv⟩
    · have isLost : z = loseXi v := if_pos ⟨hclk, by
        rw [List.any_eq_false]
        rintro ⟨c, k⟩ hm
        rw [hclk]
        rintro e
        exact hnew k (by rwa [← eq_of_beq e])⟩
      rw [isLost]
      exact loseXi_fault (s := v) (by rwa [show v.hub.state = s.hub.state from start])

/-! ### Clocks that come back (R27, R28, R410, R456) -/

section
variable (s : State)

theorem logXi_carries : Carries s (logXi s) := withSh_carries s _

theorem endXi_carries : Carries s (endXi s) := .after (withSh_carries _ _) (logXi_carries s)

theorem mendSector_carries (sec : Nat) : Carries s (mendSector sec s) := .when (partWorn_carries ..) (withPow_carries s _)

theorem readMram_carries : Carries s (readMram s).2 := by
  unfold readMram
  dsimp only
  have mended : Carries s (match Config.mendedSector (nextFree s).1 with
      | some sec => mendSector (sec % emramSectors) (nextFree s).2
      | none => (nextFree s).2) := by
    split
    · exact (nextFree_carries s).trans (mendSector_carries ..)
    · exact nextFree_carries s
  split
  · exact .after (logEvent_carries ..) mended
  · exact mended

theorem withStored_carries (pow : Power) (cfg : Cfg) (cal : Cal) : Carries s { s with pow, cfg, cal } := .of_eq rfl rfl rfl rfl

theorem readStored_carries : Carries s (readStored s) := by
  have all := (readMram_carries s).trans ((readMram_carries _).trans ((readMram_carries _).trans ((readMram_carries _).trans
    ((readMram_carries _).trans (readMram_carries _)))))
  exact all.trans (withStored_carries _ _ _ _)

/-- The firmware image, the last cause and the state in which BOOT will end. -/
theorem withChoices_carries (runImage lastCause : Nat) (bootTo : HubState) :
    Carries s { s with hub := { s.hub with runImage, lastCause, bootTo } } :=
  ⟨rfl, rfl, rfl, rfl, fun _ => rfl, fun _ => rfl, fun _ _ => id, id, fun _ => id⟩

theorem bootChoice_carries (reason source loaded : Nat) : Carries s (bootChoice reason source loaded s) :=
  (logEvent_carries s reason source loaded).trans (withChoices_carries _ _ reason _)

theorem copyImage_carries : Carries s (copyImage s) :=
  .ite (.refl s) (.ite (.after (withPow_carries _ _) (nextFree_carries s)) (.after (sectorWorn_carries _) (nextFree_carries s)))

theorem bootImage_carries (named : Nat) : Carries s (bootImage named s) := by
  have runs := withChoices_carries s (s.imageChoice named).1 s.hub.lastCause s.hub.bootTo
  exact .after (copyImage_carries _) (.when (bootChoice_carries ..) runs)

theorem logChoice_carries (reason source : Nat) (c : Option Bool) : Carries s (logChoice reason source c s) :=
  .ite (.refl s) (bootChoice_carries ..)

theorem rewrite_carries (cal toB : Bool) {put : State → State} (h : ∀ u, Carries u (put u)) : Carries s (rewrite cal toB put s) :=
  .ite ((nextFree_carries s).trans (h _)) (.after (setAlarm_carries ..) (.after (logEvent_carries ..)
    ((nextFree_carries s).trans (sectorWorn_carries _))))

theorem adoptPins_carries (old new : PMem) (at_ : Nat) : Carries s (adoptPins old new at_ s) :=
  foldl_carries (fun u _ => .ite (withTrd_carries u _) (.ite (withTrd_carries u _) (.refl u))) _ s

theorem loadCopy_carries (inB : Bool) (x : Copy) : Carries s (loadCopy inB x s) := by
  unfold loadCopy
  dsimp only
  split
  · exact .after (bootChoice_carries ..) (.of_eq rfl rfl rfl rfl)
  · have copied : Carries s { s with cfg := { s.cfg with seq := x.seq, inB, force := x.words, active := x.words } } := withCfg_carries s _
    exact .after (adoptPins_carries ..) (copied.trans (withChoices_carries _ _ _ _))

theorem bootConfig_carries : Carries s (bootConfig s) := by
  unfold bootConfig
  dsimp only
  generalize copyChoice _ _ _ _ _ = choice
  split
  · exact .after (withCfg_carries _ _) (logChoice_carries ..)
  next inB _ =>
    have loaded := (logChoice_carries s choice.2 0 choice.1).trans (loadCopy_carries _ inB (if inB then s.cfg.copyB else s.cfg.copyA))
    exact .ite (loaded.trans (rewrite_carries _ _ _ fun u => putCopy_carries u _ _)) loaded

theorem restale_carries : Carries s (restale s) := withCal_carries s _

theorem putCalCopy_carries (toB : Bool) (x : CalCopy) : Carries s (putCalCopy toB x s) :=
  .after (withCal_carries _ _) (nextFree_carries s)

theorem bootCal_carries : Carries s (bootCal s) := by
  unfold bootCal
  dsimp only
  generalize copyChoice _ _ _ _ _ = choice
  split
  · exact .after (restale_carries _) (.after (withCal_carries _ _) (logChoice_carries ..))
  · have loaded := fun cal => (logChoice_carries s choice.2 0x0700 choice.1).trans ((withCal_carries _ cal).trans (restale_carries _))
    exact .ite ((loaded _).trans (rewrite_carries _ _ _ fun u => putCalCopy_carries u _ _)) (loaded _)

theorem bootDomains_carries : Carries s (bootDomains s) := by
  refine foldl_carries (fun u d => .when (.after (withPow_carries _ _) (.ite ?_ ?_)) (.refl u)) _ s
  all_goals exact withPow_carries u _

/-- BOOT goes on with nothing to wait for. -/
theorem bootGo_carries (named : Nat) : Carries { s with hub := { s.hub with xiWait := none } } (bootGo named s) :=
  .after (bootDomains_carries _) (.after (bootCal_carries _) (.after (bootConfig_carries _) (.after (bootImage_carries ..)
    (readStored_carries _))))

/-- What a BOOT that waits does at a report, and what any other hub does. -/
theorem bootWaits_carries (h : s.hub.xiWait = none) : Carries s (bootWaits s) := by
  unfold bootWaits
  refine .ite (logXi_carries s) ?_
  rw [h]
  exact endXi_carries s

theorem bootWaits_waiting (h : s.xiOut = true) : bootWaits s = logXi s := if_pos h

/-- A BOOT that waits goes on. -/
theorem bootWaits_goes {named : Nat} (h : s.xiOut = false) (hw : s.hub.xiWait = some named) : bootWaits s = bootGo named (endXi s) := by
  rw [bootWaits, if_neg (by simp [h]), hw]

theorem bootWaits_clocks : (bootWaits s).hub.clocks = s.hub.clocks := by
  unfold bootWaits
  split
  · rfl
  · split
    · exact (bootGo_carries (endXi s) _).clocks
    · rfl

theorem bootWaits_keeps_state (h : s.hub.xiWait = none) : (bootWaits s).hub = s.hub ∧ (bootWaits s).sh.alarms = s.sh.alarms := by
  unfold bootWaits
  rw [h]
  split <;> exact ⟨rfl, rfl⟩

/-! ### Nothing to deliver -/

theorem drainEvents_state : (drainEvents s).hub.state = s.hub.state ∧ Calm s.itg.crossings (drainEvents s).itg.crossings := by
  unfold drainEvents
  split
  · exact ⟨rfl, .refl _⟩
  · have events := foldl_steady takeEvent_steady s.warp.toTreadle { s with warp := { s.warp with toTreadle := [] } }
    exact ⟨events.moving.state, events.cross⟩

theorem deliverAll_nothing {x : Nat} (h : (s.itg.crossings.get x).held = []) :
    s.deliverAll x = crossUpd x (fun c => { c with held := [] }) s := by
  rw [State.deliverAll, h, List.foldl_nil]

/-- A crossing that held nothing delivers only what does not move the hub. -/
theorem drainCrossing_nothing {x : Nat} (h : (s.itg.crossings.get x).held = []) :
    (drainCrossing s x).hub.state = s.hub.state ∧ Calm s.itg.crossings (drainCrossing s x).itg.crossings := by
  have calm : Calm s.itg.crossings (s.deliverAll x).itg.crossings := by
    rw [deliverAll_nothing s h]
    exact calm_upd _ x (f := fun c => { c with held := [] }) fun _ => ⟨rfl, rfl, fun _ => rfl⟩
  have state : (s.deliverAll x).hub.state = s.hub.state := by
    rw [deliverAll_nothing s h]
    rfl
  rw [drainCrossing_eq]
  split
  · obtain ⟨hstate, hcross⟩ := drainEvents_state (s.deliverAll x)
    exact ⟨hstate.trans state, calm.trans hcross⟩
  · split
    · obtain ⟨hhub, _, hitg, _⟩ := sendOut_view (s.deliverAll x)
      exact ⟨(congrArg Hub.state hhub).trans state, calm.trans (.of_eq (congrArg Integ.crossings hitg))⟩
    · split
      · exact ⟨state, calm⟩
      · exact ⟨state, calm⟩

theorem foldl_drain_nothing (l : List Nat) (h : ∀ x ∈ l, (s.itg.crossings.get x).held = []) :
    (l.foldl drainCrossing s).hub.state = s.hub.state := by
  induction l generalizing s with
  | nil => rfl
  | cons x r ih =>
    obtain ⟨hstate, calm⟩ := drainCrossing_nothing s (h x List.mem_cons_self)
    exact (ih _ fun y hy => calm.held y (h y (List.mem_cons_of_mem _ hy))).trans hstate

theorem clocksChange_nothing (clk : Clock) (h : ∀ x, x < 12 → (s.itg.crossings.get x).held = []) :
    (clocksChange clk s).hub.state = s.hub.state := by
  rw [clocksChange_eq, foldl_drain_nothing _ _ fun x hx => reported_held s clk (h x ((mem_backFrom s).mp hx).1), reported_hub]

end

/-- A clock that is back (R27, R28); with XI every clock is. -/
def State.withRestored (s : State) (clk : Clock) : State :=
  { s with hub := { s.hub with
    clocks := s.hub.clocks.filter fun c => c.1 != clk
    clocksGood := s.hub.clocksGood.filter (fun c => !((if clk = .xi then allClocks else [clk]).contains c.1))
      ++ (if clk = .xi then allClocks else [clk]).map (·, s.clk.loom) } }

theorem exec_clockRestored (t : Nat) (clk : Clock) (s : State) :
    exec (.clockRestored t clk) s = act t s fun u =>
      if u.hub.clocks.any fun c => c.1 == clk then bootWaits (clockAlarm true (clocksChange clk (u.withRestored clk))) else u := rfl

theorem clockRestored_next {s : State} {t : Nat} {clk : Clock} (h : ∀ k, (clk, k) ∉ s.hub.clocks) :
    exec (.clockRestored t clk) s = .next (tick t s) := by
  refine exec_of_act (exec_clockRestored ..) (if_neg ?_) rfl
  rw [Bool.not_eq_true, List.any_eq_false]
  rintro ⟨c, k⟩ hm e
  exact h k (by rwa [← eq_of_beq e])

theorem clockRestored_acts {s : State} {t : Nat} {clk : Clock} {P : State → Prop} {k : ClockReport} (h : (clk, k) ∈ s.hub.clocks)
    (hP : P { bootWaits (clockAlarm true (clocksChange clk ((tick t s).withRestored clk))) with pending := s.pending }) :
    Does (.clockRestored t clk) s P :=
  does_of_act (exec_clockRestored ..) (if_pos (List.any_eq_true.mpr ⟨_, h, beq_self_eq_true clk⟩)) hP

theorem restored_good (s : State) (clk : Clock) : (clk, s.clk.loom) ∈ (s.withRestored clk).hub.clocksGood := by
  have back : clk ∈ if clk = .xi then allClocks else [clk] := by
    split
    next h => rw [h]; decide
    next => exact List.mem_singleton_self clk
  exact List.mem_append_right _ (List.mem_map_of_mem back)

/-- A clock comes back to a hub that does not wait for XI. -/
theorem clockRestored_does {s : State} {t : Nat} {clk : Clock} {k : ClockReport} (h : (clk, k) ∈ s.hub.clocks) (hw : s.hub.xiWait = none) :
    Does (.clockRestored t clk) s fun s' =>
      s'.hub.clocks = s.hub.clocks.filter (fun c => c.1 != clk) ∧ (clk, (tick t s).clk.loom) ∈ s'.hub.clocksGood
        ∧ s'.sh.alarms.contains 3 = !s'.hub.clocks.isEmpty
        ∧ ((∀ x, x < 12 → (s.itg.crossings.get x).held = []) → s'.hub.state = s.hub.state)
        ∧ ∀ x, x < 12 → (s'.itg.crossings.get x).holds = stoppedAt s'.hub.clocks x
          ∧ (s.crossHolds x = true → stoppedAt s'.hub.clocks x = false → (s'.itg.crossings.get x).held = []
            ∧ (x = 4 → s'.warp.toTreadle = []) ∧ (x = 7 → s'.pair.out = [])) := by
  refine clockRestored_acts h ?_
  let w := (tick t s).withRestored clk
  let v := clockAlarm true (clocksChange clk w)
  have alarmed : Carries (clocksChange clk w) v := clockAlarm_carries ..
  have waits : v.hub.xiWait = none := (afterReport alarmed).2.2.2.1.trans hw
  obtain ⟨hhub, halarms⟩ := bootWaits_keeps_state v waits
  obtain ⟨hclocks, hgood, _, _, hcross⟩ := afterReport (alarmed.trans (bootWaits_carries v waits))
  refine ⟨hclocks, ?_, ?_, fun empty => ?_, fun x hx => ?_⟩
  · exact hgood ▸ restored_good (tick t s) clk
  · change (bootWaits v).sh.alarms.contains 3 = !(bootWaits v).hub.clocks.isEmpty
    rw [halarms, hhub]
    refine (clockAlarm_set ..).trans ?_
    rw [alarmed.clocks]
  · change (bootWaits v).hub.state = _
    rw [hhub]
    change (setAlarm ..).hub.state = _
    rw [setAlarm_hub]
    exact clocksChange_nothing w clk empty
  · obtain ⟨hholds, _, hempty⟩ := hcross x hx
    rw [show ({ bootWaits v with pending := s.pending } : State).hub.clocks = _ from hclocks]
    refine ⟨hholds, fun held runs => ?_⟩
    obtain ⟨hheld, hevents, hout⟩ := hempty held runs
    exact ⟨hheld, hevents, hout⟩

/-- A clock comes back to a BOOT that waits for XI (R456). -/
theorem clockRestored_boot {s : State} {t : Nat} {clk : Clock} {k : ClockReport} {image : Nat} (h : (clk, k) ∈ s.hub.clocks)
    (hw : s.hub.xiWait = some image) :
    Does (.clockRestored t clk) s fun s' => s'.hub.clocks = s.hub.clocks.filter (fun c => c.1 != clk)
      ∧ (clk = .xi → s'.hub.xiWait = none) ∧ (clk ≠ .xi → (∃ k, (Clock.xi, k) ∈ s.hub.clocks) → s'.hub.xiWait ≠ none) := by
  refine clockRestored_acts h ?_
  let w := (tick t s).withRestored clk
  let v := clockAlarm true (clocksChange clk w)
  obtain ⟨hclocks, _, _, hwait, _⟩ := afterReport (clockAlarm_carries (clocksChange clk w) true)
  have waits : v.hub.xiWait = some image := hwait.trans hw
  have left : v.hub.clocks = s.hub.clocks.filter fun c => c.1 != clk := hclocks
  refine ⟨(bootWaits_clocks v).trans left, fun hx => ?_, fun hx hout => ?_⟩
  · have back : v.xiOut = false := by
      rw [State.xiOut, left, hx]
      simp
    change (bootWaits v).hub.xiWait = none
    rw [bootWaits_goes v back waits]
    exact (bootGo_carries (endXi v) image).xiWait
  · obtain ⟨k', hk⟩ := hout
    have out : v.xiOut = true := by
      rw [State.xiOut, left, List.any_eq_true]
      exact ⟨_, List.mem_filter.mpr ⟨hk, by simpa using Ne.symm hx⟩, rfl⟩
    change (bootWaits v).hub.xiWait ≠ none
    rw [bootWaits_waiting v out]
    change v.hub.xiWait ≠ none
    rw [waits]
    exact Option.some_ne_none image

end Sys2Proof.Machine

/-! SUPPORT. Mending (O52): what reading, counting and reporting the store's codewords leaves alone (R393, R402 to R404),
MAC lanes (R394, R416) and cores (R414). -/

namespace Sys2Proof.Machine

open Sys2Proof

/-! ### Rows of the store (R402 to R404) -/

/-- Of a state: all that the scrubber's own counters and reports are read from, but for the rows reported. -/
structure MendView where
  clk : Clocks
  hub : Hub
  active : PMem
  trd : Treadle
  drv : Drive
  pool : List WFrame
  corrected : Nat
  uncorrectable : Nat
  passes : Nat
  lastPass : Nat
  passFrom : Nat
  lastBad : Nat
  rowCount : Tab Nat
  words : Tab Bytes

/-- That part of a state. -/
def State.mendView (s : State) : MendView :=
  { clk := s.clk, hub := s.hub, active := s.cfg.active, trd := s.trd, drv := s.drv, pool := s.weft.pool
    corrected := s.itg.corrected, uncorrectable := s.itg.uncorrectable, passes := s.itg.passes, lastPass := s.itg.lastPass
    passFrom := s.itg.passFrom, lastBad := s.itg.lastBad, rowCount := s.itg.rowCount, words := s.itg.words }

theorem partWorn_mendView (kind pod idx : Nat) (s : State) : (partWorn kind pod idx s).mendView = s.mendView := by
  have active := congrArg FormView.active (partWorn_formView kind pod idx s)
  simp only [State.mendView, partWorn_clk, partWorn_hub, partWorn_trd, partWorn_drv, partWorn_weft_pool, partWorn_itg_corrected,
    partWorn_itg_uncorrectable, partWorn_itg_passes, partWorn_itg_lastPass, partWorn_itg_passFrom, partWorn_itg_lastBad,
    partWorn_itg_rowCount, partWorn_itg_words]
  rw [show (partWorn kind pod idx s).cfg.active = s.cfg.active from active]

/-- Whether a part is worn already. -/
def State.knowsWorn (s : State) (kind pod idx : Nat) : Bool :=
  s.pow.worn.any fun w => w.kind == kind && w.pod == pod && w.idx == idx && w.state != 2

theorem partWorn_worn (kind pod idx : Nat) (s : State) : (partWorn kind pod idx s).pow.worn = if s.knowsWorn kind pod idx then s.pow.worn
    else s.pow.worn ++ [{ kind, pod, idx, state := if kind < 2 then 1 else 0 }] := by
  unfold partWorn State.knowsWorn
  generalize (if kind < 2 then 1 else 0 : Nat) = state
  split
  · rfl
  · dsimp only
    split
    · simp [seedAlarm]
    · split
      · simp [stageOwn]
      · rfl

/-- A part that was not known is worn from then on (R459). -/
theorem partWorn_new {kind pod idx : Nat} {s : State} (h : ∀ x ∈ s.pow.worn, x.kind = kind → x.idx ≠ idx) :
    (partWorn kind pod idx s).pow.worn = s.pow.worn ++ [{ kind, pod, idx, state := if kind < 2 then 1 else 0 }] := by
  have unknown : ¬ s.knowsWorn kind pod idx = true := by
    rw [Bool.not_eq_true, State.knowsWorn, List.any_eq_false]
    intro x hx hit
    simp only [Bool.and_eq_true, beq_iff_eq] at hit
    exact h x hx hit.1.1.1 hit.1.2
  rw [partWorn_worn, if_neg unknown]

/-- It is found worn all the same where it was known. -/
theorem partWorn_found (kind pod idx : Nat) (s : State) : ∃ x ∈ (partWorn kind pod idx s).pow.worn, x.kind = kind ∧ x.idx = idx := by
  rw [partWorn_worn]
  split
  next known =>
    obtain ⟨x, hx, hit⟩ := List.any_eq_true.mp known
    simp only [Bool.and_eq_true, beq_iff_eq] at hit
    exact ⟨x, hx, hit.1.1.1, hit.1.2⟩
  next => exact ⟨_, List.mem_append_right _ List.mem_cons_self, rfl, rfl⟩

/-- What is worn stays so. -/
theorem partWorn_keeps_worn (kind pod idx : Nat) {s : State} {x : Worn} (h : x ∈ s.pow.worn) : x ∈ (partWorn kind pod idx s).pow.worn := by
  rw [partWorn_worn]
  split
  · exact h
  · exact List.mem_append_left _ h

/-- Whether a row with so many errors is reported now. -/
def State.tells (s : State) (n row : Nat) : Prop := s.cfg.active.rowLimit ≤ n ∧ s.itg.rowsTold.contains row = false

theorem rowCheck_told {s : State} {row : Nat} (h : s.tells (s.itg.rowCount.get row) row) : rowCheck s row = reportRow row s := if_pos h

theorem rowCheck_quiet {s : State} {row : Nat} (h : ¬ s.tells (s.itg.rowCount.get row) row) : rowCheck s row = s := if_neg h

theorem foldl_rowCheck_quiet (l : List Nat) {s : State} (h : ∀ r ∈ l, ¬ s.tells (s.itg.rowCount.get r) r) :
    l.foldl rowCheck s = s := by
  induction l with
  | nil => rfl
  | cons r l ih =>
    rw [List.foldl_cons, rowCheck_quiet (h r List.mem_cons_self)]
    exact ih fun x hx => h x (List.mem_cons_of_mem _ hx)

theorem reportRow_mendView (row : Nat) (s : State) : (reportRow row s).mendView = s.mendView := partWorn_mendView ..

theorem rowCheck_mendView (s : State) (row : Nat) : (rowCheck s row).mendView = s.mendView := by
  unfold rowCheck
  split
  · exact reportRow_mendView ..
  · rfl

theorem foldl_rowCheck_mendView (l : List Nat) (s : State) : (l.foldl rowCheck s).mendView = s.mendView :=
  foldl_view State.mendView rowCheck rowCheck_mendView l s

theorem reportRow_rows (row : Nat) (s : State) : (reportRow row s).itg.rows = inc16 s.itg.rows := by simp [reportRow]

theorem reportRow_rowsTold (row : Nat) (s : State) : (reportRow row s).itg.rowsTold = setMem s.itg.rowsTold row true := by
  simp [reportRow]

/-- A row is reported once in a pass, and no other with it. -/
theorem reportRow_tells {row r n : Nat} {s : State} (h : r ≠ row → ¬ s.tells n r) : ¬ (reportRow row s).tells n r := by
  rintro ⟨hlimit, htold⟩
  rw [reportRow_rowsTold] at htold
  by_cases e : r = row
  · rw [e, setMem_contains_same] at htold
    exact absurd htold (by decide)
  · rw [setMem_contains_other _ _ e] at htold
    have active : (reportRow row s).cfg.active = s.cfg.active := congrArg MendView.active (reportRow_mendView row s)
    exact h e ⟨active ▸ hlimit, htold⟩

theorem rowCheck_keeps_worn (row : Nat) {s : State} {x : Worn} (h : x ∈ s.pow.worn) : x ∈ (rowCheck s row).pow.worn := by
  unfold rowCheck
  split
  · exact partWorn_keeps_worn _ _ _ h
  · exact h

theorem foldl_rowCheck_keeps_worn (l : List Nat) {s : State} {x : Worn} (h : x ∈ s.pow.worn) : x ∈ (l.foldl rowCheck s).pow.worn := by
  induction l generalizing s with
  | nil => exact h
  | cons r l ih => exact ih (rowCheck_keeps_worn r h)

/-! ### The scrubber (R393, R402) -/

theorem Tab.mem_keys_of_erase {α : Type} {m : Tab α} {k r : Nat} (h : r ∈ (Tab.erase m k).map Prod.fst) : r ∈ m.map Prod.fst := by
  induction m with
  | nil => exact h
  | cons x l ih =>
    obtain ⟨i, v⟩ := x
    rw [Tab.erase] at h
    split at h
    · exact List.mem_cons_of_mem _ (ih h)
    · obtain e | h := List.mem_cons.mp h
      · exact e ▸ List.mem_cons_self
      · exact List.mem_cons_of_mem _ (ih h)

/-- An entry changed adds no index but its own. -/
theorem Tab.mem_keys_of_set {α : Type} [Inhabited α] [DecidableEq α] {m : Tab α} {k r : Nat} {v : α} (hr : r ≠ k)
    (h : r ∈ (Tab.set m k v).map Prod.fst) : r ∈ m.map Prod.fst := by
  induction m with
  | nil =>
    rw [Tab.set] at h
    split at h
    · exact h
    · exact absurd (List.mem_singleton.mp h) hr
  | cons x l ih =>
    obtain ⟨i, w⟩ := x
    rw [Tab.set] at h
    split at h
    · split at h
      · exact Tab.mem_keys_of_erase h
      · obtain e | h := List.mem_cons.mp h
        · exact absurd e hr
        · exact h
    · split at h
      · split at h
        · exact List.mem_cons_of_mem _ (Tab.mem_keys_of_erase h)
        · obtain e | h := List.mem_cons.mp h
          · exact absurd e hr
          · exact List.mem_cons_of_mem _ h
      · obtain e | h := List.mem_cons.mp h
        · exact e ▸ List.mem_cons_self
        · exact List.mem_cons_of_mem _ (ih h)

/-- No row but one is to be reported. -/
def State.quietBut (s : State) (row : Nat) : Prop :=
  ∀ r, r ≠ row → r ∈ s.itg.rowCount.map Prod.fst → ¬ s.tells (s.itg.rowCount.get r) r

/-- The rows counted are looked at. -/
def rowChecks (s : State) : State := (s.itg.rowCount.map Prod.fst).foldl rowCheck s

theorem rowChecks_mendView (s : State) : (rowChecks s).mendView = s.mendView := foldl_rowCheck_mendView ..

theorem rowChecks_quiet {s : State} {row : Nat} (h : s.quietBut row) (hr : ¬ s.tells (s.itg.rowCount.get row) row) : rowChecks s = s := by
  refine foldl_rowCheck_quiet _ fun r hm => ?_
  by_cases e : r = row
  · exact e ▸ hr
  · exact h r e hm

/-- Once a row is reported, the others being quiet, there is nothing more to report. -/
theorem rowChecks_reported {s u : State} {row : Nat} (h : s.quietBut row) (hcount : u.itg.rowCount = s.itg.rowCount)
    (htells : ∀ n r, u.tells n r ↔ (reportRow row s).tells n r) : rowChecks u = u := by
  refine foldl_rowCheck_quiet _ fun r hm => ?_
  rw [htells, hcount]
  rw [hcount] at hm
  exact reportRow_tells fun e => h r e hm

/-- A pass over is counted, and the next begins (R393). -/
def State.endPass (s : State) : State :=
  { s with itg := { s.itg with
    passes := inc32 s.itg.passes, lastPass := sat32 ((s.clk.loom - s.itg.passFrom) * 1000 / 2 ^ 32)
    passFrom := s.clk.loom, rowCount := [], rowsTold := [] } }

/-- The end of a pass is looked for (R393). -/
def scrubEnd (s : State) : State :=
  if s.itg.passFrom + secLoom (fld (s.cfg.active.word 0x0C00 0) 15 0) ≤ s.clk.loom then s.endPass else s

theorem exec_scrubPass (t : Nat) (reads : List (Nat × Bytes)) (s : State) : exec (.scrubPass t reads) s = act t s fun u =>
    if u.domOn 2 then scrubEnd (rowChecks ((reads.filter fun x => decide (x.1 < 2097152)).foldl scrubOne u)) else u := rfl

/-! ### What an uncorrectable codeword takes with it (R404) -/

/-- Of a state: what the scrubber has counted and reported, which the data lost leaves as it is. -/
structure LostView where
  clk : Clocks
  hub : Hub
  active : PMem
  worn : List Worn
  corrected : Nat
  uncorrectable : Nat
  lastBad : Nat
  passFrom : Nat
  rows : Nat
  rowCount : Tab Nat
  rowsTold : List Nat
  words : Tab Bytes

/-- That part of a state. -/
def State.lostView (s : State) : LostView :=
  { clk := s.clk, hub := s.hub, active := s.cfg.active, worn := s.pow.worn, corrected := s.itg.corrected
    uncorrectable := s.itg.uncorrectable, lastBad := s.itg.lastBad, passFrom := s.itg.passFrom, rows := s.itg.rows
    rowCount := s.itg.rowCount, rowsTold := s.itg.rowsTold, words := s.itg.words }

theorem gapNotice_lostView (run : List WFrame) (s : State) : (gapNotice run s).lostView = s.lostView := by
  unfold gapNotice
  split
  · rfl
  · simp [State.lostView, raiseGap]

theorem releaseFrames_lostView (sel : WFrame → Bool) (s : State) : (releaseFrames sel s).lostView = s.lostView := by
  unfold releaseFrames
  dsimp only
  split
  · rfl
  · generalize hu : List.foldl (fun (s : State) (f : WFrame) => streamUpd f.flow (fun x => { x with released := inc32 x.released }) s) _ _ = u
    have released : u.lostView = s.lostView := by
      rw [← hu]
      exact (foldl_view State.lostView (fun (v : State) (f : WFrame) => streamUpd f.flow (fun x => { x with released := inc32 x.released }) v)
        (fun _ _ => rfl) _ _).trans rfl
    split
    · exact released
    · exact (foldl_view State.lostView (fun v r => gapNotice r v) (fun v r => gapNotice_lostView r v) _ u).trans released

theorem fillNext_lostView (ch k n : Nat) (s : State) : (fillNext ch k n s).lostView = s.lostView := rfl

/-- The data of a codeword lost leave the counts and reports alone. -/
theorem damage_lostView (w : Nat → Nat) (s : State) : (damage w s).lostView = s.lostView := by
  unfold damage
  dsimp only
  split
  · rfl
  · split
    · rfl
    · exact releaseFrames_lostView ..
  · split
    · rfl
    · split <;> rfl
  · rfl
  · rfl
  · rfl
  · split
    · rfl
    · exact fillNext_lostView ..

/-! ### One codeword (R402 to R404) -/

section
variable {s : State} {i : Nat} {w : Bytes}

theorem scrubOne_valid (h : codeValid w = true) : scrubOne s (i, w) = s := by
  simp [scrubOne, readCode, h]

/-- The state in which a codeword corrected has been counted and written back. -/
def State.mended (s : State) (i : Nat) (v : Bytes) : State :=
  writeBack i (v.take 32) { s with itg := { s.itg with
    corrected := inc32 s.itg.corrected, rowCount := s.itg.rowCount.upd (i / 32) (· + 1) } }

theorem scrubOne_corrected {v : Bytes} (h : codeValid w = false) (hd : rsDecode w = some v) :
    scrubOne s (i, w) = rowCheck (s.mended i v) (i / 32) := by
  simp [scrubOne, readCode, h, hd, State.mended]

/-- The state in which a codeword that cannot be corrected has been reported and written over. -/
def State.spoilt (s : State) (i : Nat) : State := writeBack i (zeros 32) { badCodeword i s with free := (badCodeword i s).free + 6 }

theorem scrubOne_spoilt (h : codeValid w = false) (hd : rsDecode w = none) :
    (scrubOne s (i, w)).lostView = (s.spoilt i).lostView := by
  simp only [scrubOne, readCode, h, hd, Bool.false_eq_true, if_false]
  exact damage_lostView ..

theorem mended_quietBut {v : Bytes} (h : s.quietBut (i / 32)) : (s.mended i v).quietBut (i / 32) := by
  intro r hr hm
  have rest : (s.mended i v).itg.rowCount.get r = s.itg.rowCount.get r := Tab.get_upd_other _ _ hr
  rw [rest]
  exact h r hr (Tab.mem_keys_of_set hr hm)

/-- What counting a codeword corrected does to the rows reported (R403). -/
theorem mended_rows {v : Bytes} (h : s.quietBut (i / 32)) :
    (s.tells (s.itg.rowCount.get (i / 32) + 1) (i / 32) →
        (rowChecks (rowCheck (s.mended i v) (i / 32))).itg.rows = inc16 s.itg.rows)
      ∧ (¬ s.tells (s.itg.rowCount.get (i / 32) + 1) (i / 32) →
        (rowChecks (rowCheck (s.mended i v) (i / 32))).itg.rows = s.itg.rows) := by
  have quiet := mended_quietBut (v := v) h
  have count : (s.mended i v).itg.rowCount.get (i / 32) = s.itg.rowCount.get (i / 32) + 1 := Tab.get_upd_same ..
  constructor
  · intro told
    have now : (s.mended i v).tells ((s.mended i v).itg.rowCount.get (i / 32)) (i / 32) := count ▸ told
    have same := congrArg MendView.rowCount (reportRow_mendView (i / 32) (s.mended i v))
    rw [rowCheck_told now, rowChecks_reported quiet same fun _ _ => Iff.rfl]
    exact reportRow_rows ..
  · intro told
    have now : ¬ (s.mended i v).tells ((s.mended i v).itg.rowCount.get (i / 32)) (i / 32) := count ▸ told
    rw [rowCheck_quiet now, rowChecks_quiet quiet now]
    rfl

/-- What is left of a codeword that cannot be corrected. -/
theorem scrubOne_lost (h : codeValid w = false) (hd : rsDecode w = none) :
    (scrubOne s (i, w)).lostView.uncorrectable = inc32 s.itg.uncorrectable ∧ (scrubOne s (i, w)).lostView.lastBad = s.clk.loom
      ∧ (scrubOne s (i, w)).lostView.corrected = s.itg.corrected ∧ (scrubOne s (i, w)).lostView.rows = inc16 s.itg.rows
      ∧ (∃ x ∈ (scrubOne s (i, w)).lostView.worn, x.kind = 3 ∧ x.idx = i / 32)
      ∧ (scrubOne s (i, w)).lostView.words.get i = [] ∧ (scrubOne s (i, w)).lostView.hub = s.hub
      ∧ (scrubOne s (i, w)).lostView.clk = s.clk ∧ (scrubOne s (i, w)).lostView.passFrom = s.itg.passFrom
      ∧ (scrubOne s (i, w)).lostView.active = s.cfg.active := by
  rw [scrubOne_spoilt h hd]
  have active : (badCodeword i s).cfg.active = s.cfg.active := congrArg FormView.active (badCodeword_formView i s)
  have blank : (zeros 32).all (· == 0) = true := by decide
  refine ⟨?_, ?_, ?_, ?_, partWorn_found .., ?_, badCodeword_hub .., badCodeword_clk .., badCodeword_itg_passFrom .., active⟩
  · simp [State.lostView, State.spoilt, writeBack, badCodeword, reportRow]
  · simp [State.lostView, State.spoilt, writeBack, badCodeword, reportRow]
  · simp [State.lostView, State.spoilt, writeBack]
  · simp [State.lostView, State.spoilt, writeBack, badCodeword, reportRow]
  · simp only [State.lostView, State.spoilt, writeBack, blank, if_true]
    exact Tab.get_set_same ..

/-- With its row reported, the rows counted have nothing more to report. -/
theorem scrubOne_lost_quiet (h : codeValid w = false) (hd : rsDecode w = none) (hq : s.quietBut (i / 32)) :
    rowChecks (scrubOne s (i, w)) = scrubOne s (i, w) := by
  have view := scrubOne_spoilt (s := s) (i := i) h hd
  have count : (scrubOne s (i, w)).itg.rowCount = s.itg.rowCount :=
    (congrArg LostView.rowCount view).trans (badCodeword_itg_rowCount _ i)
  refine rowChecks_reported (s := logEvent 0x040A 0x0C00 i
    { s with itg := { s.itg with uncorrectable := inc32 s.itg.uncorrectable, lastBad := s.clk.loom } }) hq count fun n r => ?_
  have active : (scrubOne s (i, w)).cfg.active = (badCodeword i s).cfg.active := congrArg LostView.active view
  have told : (scrubOne s (i, w)).itg.rowsTold = (badCodeword i s).itg.rowsTold := congrArg LostView.rowsTold view
  rw [State.tells, active, told]
  rfl

end

/-! ### A pass (R393) -/

section
variable {s : State} {t : Nat}

theorem scrubPass_off (h : ¬ s.domOn 2 = true) (reads : List (Nat × Bytes)) : exec (.scrubPass t reads) s = .next (tick t s) :=
  exec_of_act (exec_scrubPass ..) (if_neg h) rfl

/-- Whether a pass of the scrubber is over. -/
def State.passOver (s : State) : Prop := s.itg.passFrom + secLoom (fld (s.cfg.active.word 0x0C00 0) 15 0) ≤ s.clk.loom

theorem scrubEnd_over (h : s.passOver) : scrubEnd s = s.endPass := if_pos h

theorem scrubEnd_before {u v : State} (h : ¬ u.passOver) (hc : v.clk = u.clk) (hp : v.itg.passFrom = u.itg.passFrom)
    (ha : v.cfg.active = u.cfg.active) : scrubEnd v = v := by
  refine if_neg ?_
  rw [hc, hp, ha]
  exact h

/-- The store scrubbed while its domain is up. -/
theorem exec_scrubPass_on (hd : s.domOn 2 = true) (reads : List (Nat × Bytes)) : exec (.scrubPass t reads) s = act t s fun u =>
    scrubEnd (rowChecks ((reads.filter fun x => decide (x.1 < 2097152)).foldl scrubOne u)) :=
  (exec_scrubPass ..).trans (act_congr (if_pos hd))

/-- The end of a pass (R393). -/
theorem scrubPass_end (hd : s.domOn 2 = true) (hp : (tick t s).passOver) : Does (.scrubPass t []) s fun s' =>
    s'.itg.passes = inc32 s.itg.passes
      ∧ s'.itg.lastPass = sat32 (((tick t s).clk.loom - s.itg.passFrom) * 1000 / 2 ^ 32) ∧ s'.itg.passFrom = (tick t s).clk.loom
      ∧ s'.itg.rowCount = [] ∧ s'.itg.rowsTold = [] ∧ s'.itg.words = s.itg.words ∧ s'.itg.corrected = s.itg.corrected
      ∧ (s.itg.rowCount = [] → s'.itg.rows = s.itg.rows) ∧ s'.weft.pool = s.weft.pool ∧ s'.trd = s.trd ∧ s'.drv = s.drv
      ∧ s'.hub = s.hub ∧ s'.cfg.active = s.cfg.active ∧ s'.clk = (tick t s).clk := by
  have view := rowChecks_mendView (tick t s)
  have rows : s.itg.rowCount = [] → (rowChecks (tick t s)).itg.rows = s.itg.rows := fun none => by
    rw [rowChecks, show (tick t s).itg.rowCount = [] from none]
    rfl
  refine does_of_act (u := scrubEnd (rowChecks (tick t s))) (exec_scrubPass_on hd []) (by rw [List.filter_nil, List.foldl_nil]) ?_
  generalize rowChecks (tick t s) = v at view rows
  obtain ⟨clk, hub, active, trd, drv, pool, corrected, -, passes, -, from_, -, -, words⟩ := MendView.mk.inj view
  have ended : v.passOver := by rwa [State.passOver, clk, active, from_]
  have last : (v.clk.loom - v.itg.passFrom) * 1000 / 2 ^ 32 = ((tick t s).clk.loom - s.itg.passFrom) * 1000 / 2 ^ 32 := by
    rw [clk, from_, tick_itg]
  rw [scrubEnd_over ended]
  exact ⟨congrArg inc32 passes, congrArg sat32 last, congrArg Clocks.loom clk, rfl, rfl, words, corrected, rows, pool, trd, drv, hub, active, clk⟩

/-- One codeword read before the pass is over. -/
theorem exec_scrubPass_one (hd : s.domOn 2 = true) {i : Nat} {w : Bytes} (hi : i < 2097152) :
    exec (.scrubPass t [(i, w)]) s = act t s fun _ => scrubEnd (rowChecks (scrubOne (tick t s) (i, w))) := by
  refine (exec_scrubPass_on hd _).trans (act_congr ?_)
  rw [List.filter_cons_of_pos (by simpa using hi), List.filter_nil, List.foldl_cons, List.foldl_nil]

theorem scrubPass_valid (hd : s.domOn 2 = true) (hp : ¬ (tick t s).passOver) {i : Nat} {w : Bytes} (hi : i < 2097152)
    (hw : codeValid w = true) (hq : s.quietBut (i / 32)) (hr : ¬ s.tells (s.itg.rowCount.get (i / 32)) (i / 32)) :
    exec (.scrubPass t [(i, w)]) s = .next (tick t s) := by
  refine exec_of_act (exec_scrubPass_one hd hi) ?_ rfl
  rw [scrubOne_valid hw, rowChecks_quiet (s := tick t s) (row := i / 32) hq hr, scrubEnd_before hp rfl rfl rfl]

/-- One codeword corrected (R403). -/
theorem scrubPass_mends (hd : s.domOn 2 = true) (hp : ¬ (tick t s).passOver) {i : Nat} {w v : Bytes} (hi : i < 2097152)
    (hw : codeValid w = false) (hv : rsDecode w = some v) :
    Does (.scrubPass t [(i, w)]) s fun s' =>
      s'.itg.words.get i = (if (v.take 32).all (· == 0) then [] else rsEncode (v.take 32))
      ∧ (∀ j, j ≠ i → s'.itg.words.get j = s.itg.words.get j) ∧ s'.itg.corrected = inc32 s.itg.corrected
      ∧ s'.itg.rowCount.get (i / 32) = s.itg.rowCount.get (i / 32) + 1
      ∧ s'.itg.uncorrectable = s.itg.uncorrectable ∧ s'.weft.pool = s.weft.pool ∧ s'.trd = s.trd ∧ s'.drv = s.drv
      ∧ (s.quietBut (i / 32) → (s.tells (s.itg.rowCount.get (i / 32) + 1) (i / 32) → s'.itg.rows = inc16 s.itg.rows)
        ∧ (¬ s.tells (s.itg.rowCount.get (i / 32) + 1) (i / 32) → s'.itg.rows = s.itg.rows)) := by
  have view := (rowChecks_mendView _).trans (rowCheck_mendView ((tick t s).mended i v) (i / 32))
  have rows := fun h => mended_rows (s := tick t s) (i := i) (v := v) h
  refine does_of_act (exec_scrubPass_one hd hi) rfl ?_
  rw [scrubOne_corrected hw hv]
  generalize rowChecks _ = x at view rows
  obtain ⟨clk, hub, active, trd, drv, pool, corrected, uncorrectable, -, -, from_, -, count, words⟩ := MendView.mk.inj view
  rw [scrubEnd_before hp clk from_ active]
  refine ⟨?_, fun j hj => ?_, corrected, ?_, uncorrectable, pool, trd, drv, rows⟩
  · change x.itg.words.get i = _
    rw [words]
    exact Tab.get_set_same ..
  · change x.itg.words.get j = _
    rw [words]
    exact Tab.get_set_other _ _ hj
  · change x.itg.rowCount.get (i / 32) = _
    rw [count]
    exact Tab.get_upd_same ..

/-- One codeword that cannot be corrected (R404). -/
theorem scrubPass_loses (hd : s.domOn 2 = true) (hp : ¬ (tick t s).passOver) {i : Nat} {w : Bytes} (hi : i < 2097152)
    (hw : codeValid w = false) (hv : rsDecode w = none) :
    Does (.scrubPass t [(i, w)]) s fun s' =>
      s'.itg.uncorrectable = inc32 s.itg.uncorrectable ∧ s'.itg.lastBad = (tick t s).clk.loom
        ∧ s'.itg.corrected = s.itg.corrected
        ∧ (s.quietBut (i / 32) → s'.itg.rows = inc16 s.itg.rows) ∧ (∃ x ∈ s'.pow.worn, x.kind = 3 ∧ x.idx = i / 32)
        ∧ s'.itg.words.get i = [] ∧ s'.hub = s.hub ∧ s'.clk = (tick t s).clk := by
  obtain ⟨bad, last, corrected, rows, ⟨x, hx, hkind⟩, words, hub, clk, from_, active⟩ := scrubOne_lost (s := tick t s) (i := i) hw hv
  have quiet := fun h => congrArg (fun u : State => u.itg.rows) (scrubOne_lost_quiet (s := tick t s) (i := i) hw hv h)
  have worn := foldl_rowCheck_keeps_worn ((scrubOne (tick t s) (i, w)).itg.rowCount.map Prod.fst) hx
  have view := rowChecks_mendView (scrubOne (tick t s) (i, w))
  refine does_of_act (exec_scrubPass_one hd hi) rfl ?_
  change x ∈ (rowChecks (scrubOne (tick t s) (i, w))).pow.worn at worn
  generalize rowChecks _ = y at view quiet worn
  obtain ⟨yclk, yhub, yactive, -, -, -, ycorrected, ybad, -, -, yfrom, ylast, -, ywords⟩ := MendView.mk.inj view
  rw [scrubEnd_before hp (yclk.trans clk) (yfrom.trans from_) (yactive.trans active)]
  refine ⟨ybad.trans bad, ylast.trans last, ycorrected.trans corrected, fun h => (quiet h).trans rows, ⟨x, worn, hkind⟩, ?_,
    yhub.trans hub, yclk.trans clk⟩
  change y.itg.words.get i = _
  rw [ywords]
  exact words

end

end Sys2Proof.Machine

/-! SUPPORT. MAC lanes (R394, R416), cores (R414) and QCLK (R28) for O52. -/

namespace Sys2Proof.Machine

open Sys2Proof

/-! ### A sample filled (R37) -/

theorem reedBegins_kept (c : Chan) (z : Nat) : (c.reedBegins z).entries = c.entries ∧ (c.reedBegins z).skipped = c.skipped := by
  unfold Chan.reedBegins
  split <;> exact ⟨rfl, rfl⟩

/-- An event begins one entry and skips no sample. -/
theorem registerEvent_lengths (epoch : Nat) (e : EventOf) (c : Chan) :
    (registerEvent epoch e c).entries.length = c.entries.length + 1 ∧ (registerEvent epoch e c).skipped = c.skipped := by
  have begun := fun z => reedBegins_kept c z
  unfold registerEvent
  dsimp only
  cases e.zeroed <;> cases e.cond.isNone <;> simp [begun]

theorem eventNow_lengths (s : State) (ch mode : Nat) (first : Int) (tE : Nat) (chain : Bool) {c : Chan} (h : c.set.isSome = true) :
    (eventNow s ch mode first tE chain c).entries.length = c.entries.length + 1
      ∧ (eventNow s ch mode first tE chain c).skipped = c.skipped := by
  obtain ⟨p, hp⟩ := Option.isSome_iff_exists.mp h
  unfold eventNow Chan.setAt
  rw [hp, Option.map_some]
  exact registerEvent_lengths ..

/-- The next sample filled is skipped, and an event begins with it. -/
theorem fillNext_lengths (ch k n : Nat) {s : State} (h : (s.chan ch).set.isSome = true) :
    ((fillNext ch k n s).chan ch).entries.length = (s.chan ch).entries.length + 1
      ∧ ((fillNext ch k n s).chan ch).skipped.length = (s.chan ch).skipped.length + 1 := by
  unfold fillNext
  dsimp only
  generalize s.cfg.active.gridAt _ _ = first
  generalize stepN _ k first = g
  generalize stepN _ (n - 1) g = z
  unfold eventOn
  generalize hu : chanUpd ch (fun c => { c with skipped := (g - 1, z + 1) :: c.skipped }) s = u
  have skip : u.chan ch = { s.chan ch with skipped := (g - 1, z + 1) :: (s.chan ch).skipped } := by
    rw [← hu, chan_chanUpd]
  have now : (chanUpd ch (eventNow u ch 1 ((fineOf z : Int) - fineOf (s.cfg.active.phase ch) + 1) (fineOf s.clk.loom) true) u).chan ch
      = eventNow u ch 1 ((fineOf z : Int) - fineOf (s.cfg.active.phase ch) + 1) (fineOf s.clk.loom) true (u.chan ch) :=
    chan_chanUpd ..
  have set : (u.chan ch).set.isSome = true := by rw [skip]; exact h
  obtain ⟨hentries, hskipped⟩ := eventNow_lengths u ch 1 ((fineOf z : Int) - fineOf (s.cfg.active.phase ch) + 1) (fineOf s.clk.loom) true set
  rw [now, hentries, hskipped, skip]
  exact ⟨rfl, rfl⟩

/-! ### A MAC lane retired (R394, R416, R459) -/

section
variable {s : State} {t : Nat}

theorem partWorn_pow (kind pod idx : Nat) (s : State) :
    (partWorn kind pod idx s).pow = { s.pow with worn := (partWorn kind pod idx s).pow.worn } := by
  unfold partWorn
  generalize (if kind < 2 then 1 else 0 : Nat) = state
  split
  · rfl
  · dsimp only
    split
    · simp [seedAlarm]
    · split
      · simp [stageOwn]
      · rfl

/-- A lane worn is one fewer of the lanes. -/
theorem macLanes_retired {u : State} {x : Worn} (h : u.pow.worn = s.pow.worn ++ [x]) (hk : x.kind = 2) (hs : x.state = 0) :
    u.macLanes = s.macLanes - 1 := by
  unfold State.macLanes
  rw [h, List.filter_append, List.length_append, Nat.sub_add_eq]
  simp [hk, hs]

/-- The lane retired, and the sample its residue belonged to filled. -/
def State.retireLane (s : State) (lane ch : Nat) : State :=
  if (partWorn 2 0xFF lane s).cfg.active.chanOn ch ∧ ((partWorn 2 0xFF lane s).chan ch).set.isSome
  then fillNext ch 0 1 (partWorn 2 0xFF lane s) else partWorn 2 0xFF lane s

theorem exec_macResidueFailure (t lane ch : Nat) (s : State) : exec (.macResidueFailure t lane ch) s = act t s fun u =>
    if lane < 72 ∧ u.running = true then macFault (u.retireLane lane ch) else u := rfl

theorem macResidueFailure_none {lane ch : Nat} (h : 72 ≤ lane ∨ s.running = false) :
    exec (.macResidueFailure t lane ch) s = .next (tick t s) := by
  refine exec_of_act (exec_macResidueFailure ..) (if_neg ?_) rfl
  rintro ⟨hl, hr⟩
  obtain h | h := h
  · omega
  · exact absurd (hr.symm.trans h) (by decide)

theorem retireLane_pow (lane ch : Nat) : (s.retireLane lane ch).pow = (partWorn 2 0xFF lane s).pow := by
  unfold State.retireLane
  split <;> rfl

theorem retireLane_hub (lane ch : Nat) : (s.retireLane lane ch).hub = s.hub := by
  unfold State.retireLane
  split
  · exact partWorn_hub ..
  · exact partWorn_hub ..

theorem retireLane_active (lane ch : Nat) : (s.retireLane lane ch).cfg.active = s.cfg.active := by
  have active : (partWorn 2 0xFF lane s).cfg.active = s.cfg.active := congrArg FormView.active (partWorn_formView 2 0xFF lane s)
  unfold State.retireLane
  split
  · exact active
  · exact active

/-- The channel whose residue failed fills a sample, where it runs. -/
theorem retireLane_fills {lane ch : Nat} (hon : s.cfg.active.chanOn ch = true) (hset : (s.chan ch).set.isSome = true) :
    ((s.retireLane lane ch).chan ch).entries.length = (s.chan ch).entries.length + 1
      ∧ ((s.retireLane lane ch).chan ch).skipped.length = (s.chan ch).skipped.length + 1 := by
  have active : (partWorn 2 0xFF lane s).cfg.active = s.cfg.active := congrArg FormView.active (partWorn_formView 2 0xFF lane s)
  have chan : (partWorn 2 0xFF lane s).chan ch = s.chan ch := congrArg (fun f : Filt => f.chans.get ch) (partWorn_filt s 2 0xFF lane)
  rw [State.retireLane, if_pos ⟨by rw [active]; exact hon, by rw [chan]; exact hset⟩]
  exact chan ▸ fillNext_lengths ch 0 1 (chan ▸ hset)

theorem running_not_boot (h : s.running = true) : s.hub.state ≠ .boot := by
  intro e
  rw [State.running, e, if_neg (by decide)] at h
  exact absurd h (by decide)

/-- A MAC lane fails its residue in a hub that runs. -/
theorem macResidueFailure_does {lane ch : Nat} (hl : lane < 72) (hr : s.running = true)
    (hnew : ∀ x ∈ s.pow.worn, x.kind = 2 → x.idx ≠ lane) :
    Does (.macResidueFailure t lane ch) s fun s' =>
      s'.pow.worn = s.pow.worn ++ [{ kind := 2, pod := 0xFF, idx := lane, state := 0 }]
        ∧ (s.cfg.active.chanOn ch = true → (s.chan ch).set.isSome = true → s.cfg.active.macFits (s.macLanes - 1) = true →
          (s'.chan ch).entries.length = (s.chan ch).entries.length + 1
            ∧ (s'.chan ch).skipped.length = (s.chan ch).skipped.length + 1)
        ∧ (s.cfg.active.macFits (s.macLanes - 1) = true → s'.hub = s.hub)
        ∧ (s.cfg.active.macFits (s.macLanes - 1) = false → s.hub.state ≠ .safe →
          s'.hub.state = .fault ∧ s'.hub.causes.contains (.macLoad (s.pow.used.get 2)) = true) := by
  refine does_of_act (u := macFault ((tick t s).retireLane lane ch)) (exec_macResidueFailure ..) (if_pos ⟨hl, hr⟩) ?_
  have worn : (partWorn 2 0xFF lane (tick t s)).pow.worn = s.pow.worn ++ [{ kind := 2, pod := 0xFF, idx := lane, state := 0 }] :=
    partWorn_new (s := tick t s) hnew
  have pow := retireLane_pow (s := tick t s) lane ch
  have used : ((tick t s).retireLane lane ch).pow.used = s.pow.used := by rw [pow, partWorn_pow, tick_pow]
  have hub := retireLane_hub (s := tick t s) lane ch
  have active := retireLane_active (s := tick t s) lane ch
  have fills := retireLane_fills (s := tick t s) (lane := lane) (ch := ch)
  rw [← pow] at worn
  generalize (tick t s).retireLane lane ch = u at worn used hub active fills
  have lanes : u.macLanes = s.macLanes - 1 := macLanes_retired worn rfl rfl
  have fits : u.cfg.active.macFits u.macLanes = s.cfg.active.macFits (s.macLanes - 1) := by rw [active, lanes, tick_cfg]
  obtain ⟨_, _, _, moving⟩ := macFault_moved u
  refine ⟨(congrArg Power.worn moving.pow).trans worn, fun hon hset hfit => ?_, fun hfit => ?_, fun hfit hsafe => ?_⟩
  · rw [macFault, if_pos (fits.trans hfit)]
    exact fills hon hset
  · rw [macFault, if_pos (fits.trans hfit)]
    exact hub
  · rw [macFault, if_neg (by simp [fits.trans hfit]), used]
    have state : u.hub.state = s.hub.state := congrArg Hub.state hub
    obtain ⟨hfault, hcause, _⟩ := enterFault_spec (.macLoad (s.pow.used.get 2)) (s := u) (state ▸ running_not_boot hr) (state ▸ hsafe)
    exact ⟨hfault, hcause⟩

end

/-! ### Cores (R414) -/

section
variable {s : State} {t : Nat}

/-- A dissenting core leaves the set. -/
def State.withoutCore (s : State) (c : Nat) : State :=
  { s with hub := { s.hub with
    coresOut := if c < 3 then setMem s.hub.coresOut c true else s.hub.coresOut, coreIn := s.hub.coreIn.filter (· ≠ c) } }

/-- A set that cannot vote brings SAFE, but in BOOT. -/
def State.noVote (s : State) : State :=
  if s.hub.state = .boot then s else enterState .safe 0x040C 0 s.clk.loom (logEvent 0x040C 0 (maskOf s.voters) s)

theorem exec_voterDisagreement_core (t c : Nat) (s : State) : exec (.voterDisagreement t (some c)) s = act t s fun u =>
    if u.voters.length = 3 ∧ u.voters.contains c = true then partWorn 4 0xFF c (u.withoutCore c)
    else if u.voters.length = 2 then u.noVote else u := rfl

theorem exec_voterDisagreement_none (t : Nat) (s : State) : exec (.voterDisagreement t none) s = act t s State.noVote := rfl

theorem mem_coresOut_withoutCore (c n : Nat) : n ∈ (s.withoutCore c).hub.coresOut ↔ (n = c ∧ n < 3) ∨ n ∈ s.hub.coresOut := by
  change n ∈ (if c < 3 then setMem s.hub.coresOut c true else s.hub.coresOut) ↔ _
  rw [← List.contains_iff_mem, ← List.contains_iff_mem]
  by_cases e : n = c
  · subst e
    by_cases h : n < 3
    · rw [if_pos h, setMem_contains_same]
      simp [h]
    · simp [h]
  · have rest : (if c < 3 then setMem s.hub.coresOut c true else s.hub.coresOut).contains n = s.hub.coresOut.contains n := by
      split
      · exact setMem_contains_other _ _ e
      · rfl
    rw [rest]
    simp [e]

theorem mem_coreIn_withoutCore (c n : Nat) : n ∈ (s.withoutCore c).hub.coreIn ↔ n ≠ c ∧ n ∈ s.hub.coreIn := by
  change n ∈ s.hub.coreIn.filter (· ≠ c) ↔ _
  simp [and_comm]

theorem voters_withoutCore (c : Nat) : (s.withoutCore c).voters = s.voters.filter (· ≠ c) := by
  unfold State.voters
  rw [List.filter_filter]
  refine List.filter_congr fun n _ => ?_
  rw [Bool.eq_iff_iff]
  simp only [Bool.or_eq_true, Bool.and_eq_true, Bool.not_eq_true', decide_eq_true_eq, ← Bool.not_eq_true, List.contains_iff_mem,
    mem_coresOut_withoutCore, mem_coreIn_withoutCore]
  tauto

/-- One of three cores dissents. -/
theorem voterDisagreement_leaves {c : Nat} (hc : c ∈ s.voters) (hlen : s.voters.length = 3) :
    Does (.voterDisagreement t (some c)) s fun s' =>
      s'.voters = s.voters.filter (· ≠ c) ∧ s'.hub.state = s.hub.state
        ∧ ((∀ x ∈ s.pow.worn, x.kind = 4 → x.idx ≠ c) →
          s'.pow.worn = s.pow.worn ++ [{ kind := 4, pod := 0xFF, idx := c, state := 0 }]) := by
  have hub := partWorn_hub ((tick t s).withoutCore c) 4 0xFF c
  refine does_of_act (exec_voterDisagreement_core ..) (if_pos ⟨hlen, List.contains_iff_mem.mpr hc⟩) ⟨?_, ?_, fun hnew => ?_⟩
  · refine Eq.trans ?_ (voters_withoutCore (s := s) c)
    exact congrArg (fun h : Hub => (List.range 4).filter fun n => (decide (n < 3) && !(h.coresOut.contains n)) || h.coreIn.contains n) hub
  · change (partWorn 4 0xFF c ((tick t s).withoutCore c)).hub.state = s.hub.state
    rw [hub]
    rfl
  · exact partWorn_new (s := (tick t s).withoutCore c) hnew

theorem noVote_safe (hb : s.hub.state ≠ .boot) (hs : s.hub.state ≠ .safe) :
    s.noVote.hub.state = .safe ∧ s.noVote.hub.lastCause = 0x040C := by
  rw [State.noVote, if_neg hb]
  have moves := enterState_moving (new := .safe) 0x040C 0 s.clk.loom (s := logEvent 0x040C 0 (maskOf s.voters) s) hs fun e => absurd e hs
  exact ⟨moves.state, moves.lastCause⟩

/-- No core that dissents can be told, or one of two does. -/
theorem voterDisagreement_safe {d : Option Nat} (hd : d = none ∨ s.voters.length = 2) (hb : s.hub.state ≠ .boot)
    (hs : s.hub.state ≠ .safe) :
    Does (.voterDisagreement t d) s fun s' => s'.hub.state = .safe ∧ s'.hub.lastCause = 0x040C := by
  have safe := noVote_safe (s := tick t s) hb hs
  cases d with
  | none => exact does_of_act (exec_voterDisagreement_none ..) rfl safe
  | some c =>
    have two : s.voters.length = 2 := hd.resolve_left (by simp)
    have notThree : ¬ ((tick t s).voters.length = 3 ∧ (tick t s).voters.contains c = true) := fun h => by
      have three : s.voters.length = 3 := h.1
      omega
    exact does_of_act (exec_voterDisagreement_core ..) ((if_neg notThree).trans (if_pos two)) safe

theorem voterDisagreement_none {c : Nat} (htwo : s.voters.length ≠ 2) (hthree : s.voters.length ≠ 3 ∨ c ∉ s.voters) :
    exec (.voterDisagreement t (some c)) s = .next (tick t s) := by
  have notThree : ¬ ((tick t s).voters.length = 3 ∧ (tick t s).voters.contains c = true) := fun h =>
    hthree.elim (fun e => e h.1) fun e => e (List.contains_iff_mem.mp h.2)
  exact exec_of_act (exec_voterDisagreement_core ..) ((if_neg notThree).trans (if_neg htwo)) rfl

/-! ### QCLK (R28) -/

theorem exec_qclkRestore (t : Nat) (s : State) : exec (.qclkRestore t) s = act t s fun u =>
    if ((u.hub.clocks.any fun c => c.1 == .qclk || c.1 == .xi)
      || (u.hub.clocksGood.any fun c => c.1 == .qclk && decide (u.clk.loom < c.2 + usLoom 1000))) = true
    then u else { u with hub := { u.hub with onKclk := false } } := rfl

end

end Sys2Proof.Machine

/-! SUPPORT. A crossing restarted (R411, R412, R416) for O52. -/

namespace Sys2Proof.Machine

open Sys2Proof

/-- Of a state: what the restart of a crossing can reach, but for the converters and the threads they hold. -/
structure RestartView where
  cfg : Cfg
  hub : Hub
  trd : Treadle
  clk : Clocks
  pair : Pair
  warp : Warp
  crossings : Tab Crossing

/-- That part of a state. -/
def State.restartView (s : State) : RestartView :=
  { cfg := s.cfg, hub := s.hub, trd := s.trd, clk := s.clk, pair := s.pair, warp := s.warp, crossings := s.itg.crossings }

theorem request_restartView (sc : Nat) (r : ScRequest) (s : State) : (request sc r s).restartView = s.restartView := by
  unfold request
  dsimp only
  generalize hu : scUpd sc _ s = u
  obtain ⟨hed, conv, e⟩ := grant_parts u sc
  rw [e, ← hu]
  rfl

theorem askAgain_restartView (gone : List Held) (s : State) : (askAgain gone s).restartView = s.restartView := by
  refine foldl_view State.restartView _ (fun u i => ?_) gone s
  split
  · exact request_restartView ..
  · rfl

/-- An alarm that raises no event leaves every crossing as it is. -/
theorem setAlarm_restartView {bit : Nat} (h : [0, 1, 4, 5].contains bit = false) (on logged : Bool) (part reason : Nat) (s : State) :
    (setAlarm bit on logged part reason s).restartView = s.restartView := by
  have crossings : (setAlarm bit on logged part reason s).itg.crossings = s.itg.crossings := by
    unfold setAlarm
    split
    · rfl
    · simp only [h, Bool.false_eq_true, if_false]
      split
      · rw [alarmEvent_crossings, alarmNotice_itg_crossings]
      · rw [alarmNotice_itg_crossings]
  simp only [State.restartView, setAlarm_cfg, setAlarm_hub, setAlarm_trd, setAlarm_clk, setAlarm_pair, setAlarm_warp, crossings]

/-- What a crossing that restarts holds no more (R411). -/
def Crossing.cleared (c : Crossing) : Crossing :=
  { c with held := [], shakes := c.shakes.map fun h => (h.1, { h.2 with pend := false }) }

theorem cleared_pend (c : Crossing) (k : Nat) : (c.cleared.shakes.get k).pend = false := by
  change (Tab.get (c.shakes.map fun h : Nat × Shake => (h.1, { h.2 with pend := false })) k).pend = false
  induction c.shakes with
  | nil => rfl
  | cons h l ih =>
    rw [List.map_cons, Tab.get]
    split
    · rfl
    · exact ih

/-- A crossing emptied. -/
theorem emptyCrossing_restartView (x : Nat) (s : State) : (emptyCrossing x s).restartView = { s.restartView with
    pair := { s.pair with out := if x = 7 then [] else s.pair.out }
    warp := { s.warp with toTreadle := if x = 4 then [] else s.warp.toTreadle }
    crossings := s.itg.crossings.upd x Crossing.cleared } := by
  unfold emptyCrossing
  dsimp only
  rw [askAgain_restartView]
  by_cases h4 : x = 4
  · subst h4
    rfl
  · by_cases h7 : x = 7
    · subst h7
      rfl
    · simp only [if_neg h4, if_neg h7]
      rfl

section
variable {s : State} {t x : Nat}

/-- The state in which the changes staged that crossing 8 carried are written again (R412). -/
def State.rewritten (s : State) (x : Nat) : State := if x = 8 then rewriteStaged s else s

theorem rewritten_restartView (x : Nat) : (s.rewritten x).restartView = { s.restartView with
    cfg := { s.cfg with staged := if x = 8
      then s.cfg.staged.map fun c => if !(staysStaged c.change) && decide (c.due < s.due) then { c with due := s.due } else c
      else s.cfg.staged } } := by
  unfold State.rewritten
  split <;> rfl

/-- A crossing emptied and its restart counted. -/
def State.restarted (s : State) (x : Nat) : State :=
  crossUpd x (fun c => { c with restarts := inc16 c.restarts }) (emptyCrossing x (s.rewritten x))

theorem exec_crossingRestart (t x : Nat) (s : State) : exec (.crossingRestart t x) s = act t s fun u =>
    if x < 12 then setAlarm 14 true true 0xFFFF 0 (u.restarted x) else u := rfl

theorem restarted_restartView (x : Nat) : (s.restarted x).restartView =
    { cfg := { s.cfg with staged := if x = 8
        then s.cfg.staged.map fun c => if !(staysStaged c.change) && decide (c.due < s.due) then { c with due := s.due } else c
        else s.cfg.staged }
      hub := s.hub, trd := s.trd, clk := s.clk
      pair := { s.pair with out := if x = 7 then [] else s.pair.out }
      warp := { s.warp with toTreadle := if x = 4 then [] else s.warp.toTreadle }
      crossings := (s.itg.crossings.upd x Crossing.cleared).upd x fun c => { c with restarts := inc16 c.restarts } } := by
  have start := rewritten_restartView (s := s) x
  have emptied := emptyCrossing_restartView x (s.rewritten x)
  unfold State.restarted
  generalize emptyCrossing x (s.rewritten x) = v at emptied
  generalize s.rewritten x = u at start emptied
  obtain ⟨cfg, hub, trd, clk, pair, warp, crossings⟩ := RestartView.mk.inj start
  obtain ⟨vcfg, vhub, vtrd, vclk, vpair, vwarp, vcrossings⟩ := RestartView.mk.inj emptied
  simp only [State.restartView, crossUpd, vcfg, vhub, vtrd, vclk, vpair, vwarp, vcrossings, cfg, hub, trd, clk, pair, warp, crossings]

theorem crossingRestart_none (h : 12 ≤ x) : exec (.crossingRestart t x) s = .next (tick t s) :=
  exec_of_act (exec_crossingRestart ..) (if_neg (by omega)) rfl

/-- A crossing restarts (R411, R412, R416). -/
theorem crossingRestart_does (h : x < 12) : Does (.crossingRestart t x) s fun s' =>
    (s'.itg.crossings.get x).restarts = inc16 (s.itg.crossings.get x).restarts ∧ s'.sh.alarms.contains 14 = true
      ∧ (∀ y, y ≠ x → s'.itg.crossings.get y = s.itg.crossings.get y)
      ∧ (s'.itg.crossings.get x).held = [] ∧ (∀ k, ((s'.itg.crossings.get x).shakes.get k).pend = false)
      ∧ s'.pair = { s.pair with out := if x = 7 then [] else s.pair.out }
      ∧ s'.warp.toTreadle = (if x = 4 then [] else s.warp.toTreadle)
      ∧ s'.cfg = { s.cfg with staged := if x = 8
          then s.cfg.staged.map fun c =>
            if !(staysStaged c.change) && decide (c.due < (tick t s).due) then { c with due := (tick t s).due } else c
          else s.cfg.staged }
      ∧ s'.hub = s.hub ∧ s'.trd = s.trd ∧ s'.clk = (tick t s).clk := by
  have view := (setAlarm_restartView (bit := 14) (by decide) true true 0xFFFF 0 _).trans (restarted_restartView (s := tick t s) x)
  have onset := setAlarm_contains_same 14 true true 0xFFFF 0 ((tick t s).restarted x)
  refine does_of_act (exec_crossingRestart ..) (if_pos h) ?_
  generalize setAlarm 14 true true 0xFFFF 0 ((tick t s).restarted x) = v at view onset
  obtain ⟨cfg, hub, trd, clk, pair, warp, crossings⟩ := RestartView.mk.inj view
  have here : v.itg.crossings.get x =
      { (s.itg.crossings.get x).cleared with restarts := inc16 (s.itg.crossings.get x).restarts } := by
    rw [crossings, Tab.get_upd_same, Tab.get_upd_same]
    rfl
  refine ⟨congrArg Crossing.restarts here, onset, fun y hy => ?_, congrArg Crossing.held here, fun k => ?_, pair,
    congrArg Warp.toTreadle warp, cfg, hub, trd, clk⟩
  · change v.itg.crossings.get y = _
    rw [crossings, Tab.get_upd_other _ _ hy, Tab.get_upd_other _ _ hy, tick_itg]
  · change ((v.itg.crossings.get x).shakes.get k).pend = false
    rw [here]
    exact cleared_pend ..

end

end Sys2Proof.Machine

/-! SUPPORT. CHK_STEP and STORE_CRC (R395, R459) for O52. -/

namespace Sys2Proof.Machine

open Sys2Proof

section
variable {rq : Req} {t : Nat} {s v : State} (h : Running rq (tick t s) v)
include h

/-- What a request that runs reads of its hub is what it was before the request was taken. -/
theorem Running.reads {α : Type} (f : State → α) (hf : ∀ u mail low, f (State.withMail u mail low) = f u) : f v = f (tick t s) := by
  obtain ⟨⟨mail, low, rfl⟩, -, -, -, -⟩ := h
  exact hf (tick t s) mail low

theorem Running.domOn (d : Nat) : v.domOn d = s.domOn d := h.reads (State.domOn · d) fun _ _ _ => rfl

theorem Running.unitBusy (n : Nat) : v.unitBusy n = s.unitBusy n := h.reads (State.unitBusy · n) fun _ _ _ => rfl

theorem Running.active : v.cfg.active = s.cfg.active := h.reads (fun u => u.cfg.active) fun _ _ _ => rfl

theorem Running.storeWriting (table : Bool) (k : Nat) : v.storeWriting table k = s.storeWriting table k :=
  h.reads (State.storeWriting · table k) fun _ _ _ => rfl

theorem Running.jobsRunning : v.jobsRunning = s.jobsRunning := h.reads State.jobsRunning fun _ _ _ => rfl

end

/-! ### CHK_STEP (R395) -/

/-- The rules of CHK_STEP (R395). -/
def chkRules : Rules := { code := 0x0C02, legal := stRead, standbyNo := false, len := lenIn 13 1004 }

/-- What CHK_STEP does once it is taken. -/
def chkBody (rq : Req) (s : State) : Reply × State :=
  let u := beAt rq.payload 0 1
  let alg := beAt rq.payload 1 1
  let mode := beAt rq.payload 2 1
  let n := beAt rq.payload 8 2
  let data := rq.payload.drop 12
  let unit := if u = 0xFF then (if s.unitBusy 6 then 7 else 6) else u
  if data.length ≠ n then (.no 0x0305, s)
  else if u ≠ 6 ∧ u ≠ 7 ∧ u ≠ 0xFF then (.noAt 0x0306 u, s)
  else if alg > 1 ∨ mode > 2 ∨ n = 0 ∨ n > 992 ∨ (mode = 2 ∧ n ≤ (if alg = 1 then 2 else 4)) then (.no 0x0301, s)
  else if beAt rq.payload 3 1 ≠ 0 ∨ beAt rq.payload 10 2 ≠ 0 then (.no 0x0302, s)
  else if s.needsDomain [1] then (.no 0x0105, s)
  else if s.unitBusy unit then (.no 0x0509, s)
  else
    let (p, bad) := chkAnswer unit alg mode (BitVec.ofNat 32 (beAt rq.payload 4 4)) data
    (.done p, if bad then unitMismatch unit s else s)

theorem exec_chkStep (t : Nat) (rq : Req) (s : State) : exec (.chkStep t rq) s = runCmd chkRules chkBody t rq s := rfl

/-- The payload of CHK_STEP on check unit 6. -/
def chkPayload (alg mode : Nat) (ctx : Word) (data : Bytes) : Bytes :=
  beBytes 1 6 ++ beBytes 1 alg ++ beBytes 1 mode ++ zeros 1 ++ beWord ctx ++ beBytes 2 data.length ++ zeros 2 ++ data

/-- The operands lie in their ranges (R395). -/
structure ChkOperands (alg mode : Nat) (data : Bytes) : Prop where
  algLt : alg < 2
  modeLt : mode < 3
  nonempty : data ≠ []
  most : data.length ≤ 992
  tail : mode = 2 → (if alg = 1 then 2 else 4) < data.length

section
variable {alg mode : Nat} {ctx : Word} {data : Bytes}

theorem chkPayload_fields (ha : alg < 2) (hm : mode < 3) (hd : data.length ≤ 992) :
    beAt (chkPayload alg mode ctx data) 0 1 = 6 ∧ beAt (chkPayload alg mode ctx data) 1 1 = alg
      ∧ beAt (chkPayload alg mode ctx data) 2 1 = mode ∧ beAt (chkPayload alg mode ctx data) 3 1 = 0
      ∧ BitVec.ofNat 32 (beAt (chkPayload alg mode ctx data) 4 4) = ctx ∧ beAt (chkPayload alg mode ctx data) 8 2 = data.length
      ∧ beAt (chkPayload alg mode ctx data) 10 2 = 0 ∧ (chkPayload alg mode ctx data).drop 12 = data := by
  have blank : zeros 1 = beBytes 1 0 ∧ zeros 2 = beBytes 2 0 := by decide
  have word : ctx.toNat % 4294967296 = ctx.toNat := Nat.mod_eq_of_lt ctx.isLt
  simp only [chkPayload, blank, beWord, List.append_assoc]
  refine ⟨?_, ?_, ?_, ?_, ?_, ?_, ?_, ?_⟩
  case refine_8 =>
    simp only [← List.append_assoc]
    exact List.drop_left' (by simp)
  case refine_5 => simp [beAt_skip, beAt_head, word]
  all_goals simp [beAt_skip, beAt_head]
  all_goals omega

/-- A CHK_STEP whose operands lie in their ranges meets its domain, its unit and the check. -/
theorem chkBody_operands (h : ChkOperands alg mode data) {rq : Req} (hp : rq.payload = chkPayload alg mode ctx data) (v : State) :
    chkBody rq v = if v.domOn 1 = false then (.no 0x0105, v) else if v.unitBusy 6 = true then (.no 0x0509, v)
      else (.done (chkAnswer 6 alg mode ctx data).1, if (chkAnswer 6 alg mode ctx data).2 then unitMismatch 6 v else v) := by
  obtain ⟨hunit, halg, hmode, hzero, hctx, hlen, hblank, hdata⟩ := chkPayload_fields (ctx := ctx) h.algLt h.modeLt h.most
  have nonempty : data.length ≠ 0 := fun e => h.nonempty (List.length_eq_zero_iff.mp e)
  have inRange : ¬ (alg > 1 ∨ mode > 2 ∨ data.length = 0 ∨ data.length > 992
      ∨ (mode = 2 ∧ data.length ≤ (if alg = 1 then 2 else 4))) := by
    have := h.algLt
    have := h.modeLt
    have := h.most
    rintro (_ | _ | _ | _ | ⟨hm, _⟩)
    case inr.inr.inr.inr => have := h.tail hm; omega
    all_goals omega
  have domain : v.needsDomain [1] = true ↔ v.domOn 1 = false := by simp [State.needsDomain]
  unfold chkBody
  simp only [hp, hunit, halg, hmode, hzero, hctx, hlen, hblank, hdata, inRange, domain]
  simp

/-- What CHK_STEP answers (R395). -/
theorem chkAnswer_eq :
    let n := if alg = 1 then 2 else 4
    let body := if mode = 2 then data.take (data.length - n) else data
    let run := if alg = 1 then (crc16Run (ctx.setWidth 16) body).setWidth 32 else crc32Run ctx body
    let fin := if alg = 1 then run else run ^^^ 0xFFFFFFFF#32
    let bad := mode = 2 ∧ beNat (data.drop (data.length - n)) ≠ fin.toNat
    (¬ bad → chkAnswer 6 alg mode ctx data
        = (beBytes 1 6 ++ beBytes 1 (if mode = 2 then 1 else 0) ++ zeros 2 ++ beWord run ++ beWord fin, false))
      ∧ (bad → chkAnswer 6 alg mode ctx data = (beBytes 1 6 ++ beBytes 1 2 ++ zeros 2 ++ beWord run ++ beWord fin, true)) := by
  intro n body run fin bad
  have hrun : unitRun (alg == 1) ctx body = run := by
    by_cases e : alg = 1
    · simp only [unitRun, run, e, if_true, beq_self_eq_true]
    · simp only [unitRun, run, if_neg e, beq_eq_false_iff_ne.mpr e, Bool.false_eq_true, if_false]
  have answer : chkAnswer 6 alg mode ctx data = (beBytes 1 6 ++ beBytes 1 (if mode ≠ 2 then 0
      else if mode == 2 && beNat (data.drop (data.length - n)) != fin.toNat then 2 else 1) ++ zeros 2 ++ beWord run ++ beWord fin,
      mode == 2 && beNat (data.drop (data.length - n)) != fin.toNat) := by
    simp only [fin, ← hrun]
    rfl
  rw [answer]
  constructor
  · intro hgood
    have good : (mode == 2 && beNat (data.drop (data.length - n)) != fin.toNat) = false := by
      simpa [bad] using hgood
    rw [good]
    simp
  · rintro ⟨hm, hne⟩
    have isBad : (mode == 2 && beNat (data.drop (data.length - n)) != fin.toNat) = true := by simp [hm, hne]
    rw [isBad]
    simp [hm]

end

section
variable {s : State} {t : Nat} {rq : Req} {alg mode : Nat} {ctx : Word} {data : Bytes}

theorem chkRules_len (h : ChkOperands alg mode data) (hp : rq.payload = chkPayload alg mode ctx data) :
    chkRules.len rq.payload.length = true := by
  have nonempty : data.length ≠ 0 := fun e => h.nonempty (List.length_eq_zero_iff.mp e)
  have := h.most
  rw [hp]
  simp [chkRules, lenIn, chkPayload]
  omega

theorem chkStep_refuses (h : s.Takes rq stRead) (ho : ChkOperands alg mode data) (hp : rq.payload = chkPayload alg mode ctx data) :
    (s.domOn 1 = false → Refuses (.chkStep t rq) t s rq 0x0C02 0x0105 (atIndex 0xFFFF))
      ∧ (s.domOn 1 = true → s.unitBusy 6 = true → Refuses (.chkStep t rq) t s rq 0x0C02 0x0509 (atIndex 0xFFFF)) := by
  have refuses : ∀ reason, (∀ v, Running rq (tick t s) v → chkBody { rq with cmd := 0x0C02 } v = (.no reason, v)) →
      Refuses (.chkStep t rq) t s rq 0x0C02 reason (atIndex 0xFFFF) := fun reason hr =>
    refuses_of (c := chkRules) (l := {}) (exec_chkStep ..) (by decide) h (fun e => absurd e (by decide)) (chkRules_len ho hp) hr
  refine ⟨fun hd => refuses _ fun v hv => ?_, fun hd hb => refuses _ fun v hv => ?_⟩
  · rw [chkBody_operands (rq := { rq with cmd := 0x0C02 }) ho hp, if_pos ((hv.domOn 1).trans hd)]
  · rw [chkBody_operands (rq := { rq with cmd := 0x0C02 }) ho hp, if_neg (by simp [(hv.domOn 1).trans hd]), if_pos ((hv.unitBusy 6).trans hb)]

theorem chkStep_answers (h : s.Takes rq stRead) (ho : ChkOperands alg mode data) (hp : rq.payload = chkPayload alg mode ctx data)
    (hd : s.domOn 1 = true) (hb : s.unitBusy 6 = false) :
    Answers (.chkStep t rq) s rq 0x0C02 0 0 (chkAnswer 6 alg mode ctx data).1
      (if (chkAnswer 6 alg mode ctx data).2 then unitMismatch 6 (tick t s) else tick t s) := by
  refine done_of (c := chkRules) (exec_chkStep ..) (by decide) h (fun e => absurd e (by decide)) (chkRules_len ho hp) fun v hv => ?_
  refine ⟨_, (chkBody_operands (rq := { rq with cmd := 0x0C02 }) ho hp v).trans ((if_neg ?_).trans (if_neg ?_)), ?_, ?_, ?_⟩
  · simp [(hv.domOn 1).trans hd]
  · simp [(hv.unitBusy 6).trans hb]
  · split
    · exact hv.map (unitMismatch 6) (fun _ _ _ => rfl) rfl
    · exact hv
  · split <;> rfl
  · split <;> rfl

end

/-! ### STORE_CRC (R459) -/

/-- The rules of STORE_CRC (R459). -/
def storeCrcRules : Rules := { code := 0x0C03, legal := stRead, standbyNo := false, len := lenIs 8 }

/-- What STORE_CRC does once it is taken. -/
def storeCrcBody (rq : Req) (s : State) : Reply × State :=
  let kind := beAt rq.payload 0 1
  let k := beAt rq.payload 1 1
  let n := beAt rq.payload 4 4
  if beAt rq.payload 2 2 ≠ 0 then (.no 0x0302, s)
  else if kind > 1 then (.no 0x0301, s)
  else if (if kind = 0 then decide (15 < k) else k != 0) = true then (.noAt 0x0306 k, s)
  else if kind = 0 ∧ s.cfg.active.tableEn k = false then (.noAt 0x0210 k, s)
  else if (if kind = 0 then s.cfg.active.tableSize k * 4 else 2 ^ 20) < n then (.no 0x0301, s)
  else if s.needsDomain [1, 2] then (.no 0x0105, s)
  else if s.storeWriting (kind == 0) k then (.no 0x0108, s)
  else if s.unitBusy 6 && s.unitBusy 7 then (.no 0x0509, s)
  else
    match newJob 0x0C03 0 (.storeCrc (kind == 0) k n (if s.unitBusy 6 then 7 else 6)) s with
    | none => (.no 0x0502, s)
    | some (id, s) => (.running id [], s)

theorem exec_storeCrc (t : Nat) (rq : Req) (s : State) : exec (.storeCrc t rq) s = runCmd storeCrcRules storeCrcBody t rq s := rfl

/-- The payload of STORE_CRC on a table. -/
def storeCrcPayload (k n : Nat) : Bytes := beBytes 1 0 ++ beBytes 1 k ++ zeros 2 ++ beBytes 4 n

theorem storeCrcPayload_fields {k n : Nat} (hk : k < 16) (hn : n < 2 ^ 32) :
    beAt (storeCrcPayload k n) 0 1 = 0 ∧ beAt (storeCrcPayload k n) 1 1 = k ∧ beAt (storeCrcPayload k n) 2 2 = 0
      ∧ beAt (storeCrcPayload k n) 4 4 = n := by
  have blank : zeros 2 = beBytes 2 0 := by decide
  simp only [storeCrcPayload, blank, List.append_assoc]
  refine ⟨?_, ?_, ?_, ?_⟩
  all_goals simp [beAt_skip, beAt_head, beAt_only]
  all_goals omega

/-- A job entered, with its number (R53). -/
def State.jobEntered (cmd st : Nat) (w : JobWork) (s : State) : State :=
  { s with sh := { s.sh with
    lastJob := s.sh.nextJob, jobs := (s.sh.jobs.filter fun j => j.1 ≠ s.sh.nextJob) ++ [(s.sh.nextJob, { state := st, cmd, work := w })] } }

theorem newJob_entered {cmd st : Nat} {w : JobWork} {s : State} (h : s.jobsRunning < 16) :
    newJob cmd st w s = some (s.sh.nextJob, s.jobEntered cmd st w) := if_neg (by omega)

section
variable {s : State} {t : Nat} {rq : Req} {k n : Nat}

/-- A STORE_CRC on a table of the store meets the table, its size, the domains, the table's loading, a unit and a job. -/
theorem storeCrcBody_table (hk : k < 16) (hn : n < 2 ^ 32) {rq : Req} (hp : rq.payload = storeCrcPayload k n) (v : State) :
    storeCrcBody rq v =
      if v.cfg.active.tableEn k = false then (.noAt 0x0210 k, v)
      else if v.cfg.active.tableSize k * 4 < n then (.no 0x0301, v)
      else if v.domOn 1 = false ∨ v.domOn 2 = false then (.no 0x0105, v)
      else if v.storeWriting true k = true then (.no 0x0108, v)
      else if (v.unitBusy 6 && v.unitBusy 7) = true then (.no 0x0509, v)
      else match newJob 0x0C03 0 (.storeCrc true k n (if v.unitBusy 6 then 7 else 6)) v with
        | none => (.no 0x0502, v)
        | some (id, v) => (.running id [], v) := by
  obtain ⟨hkind, htable, hzero, hlen⟩ := storeCrcPayload_fields hk hn
  have domain : v.needsDomain [1, 2] = true ↔ v.domOn 1 = false ∨ v.domOn 2 = false := by simp [State.needsDomain]
  have known : decide (15 < k) = false := by simp; omega
  unfold storeCrcBody
  simp only [hp, hkind, htable, hzero, hlen, domain, known]
  simp

/-- What a refusal answers names its index (R48). -/
theorem refused_atIndex (i : Nat) : beBytes 2 0 ++ beBytes 2 0 ++ beBytes 2 i ++ zeros 2 = atIndex i := by
  rw [atIndex, show zeros 4 = beBytes 2 0 ++ beBytes 2 0 by decide]

theorem storeCrc_refuses (h : s.Takes rq stRead) (hk : k < 16) (hn : n < 2 ^ 32) (hp : rq.payload = storeCrcPayload k n) :
    (s.cfg.active.tableEn k = false → Refuses (.storeCrc t rq) t s rq 0x0C03 0x0210 (atIndex k))
      ∧ (s.cfg.active.tableEn k = true → n ≤ s.cfg.active.tableSize k * 4 → s.domOn 1 = false ∨ s.domOn 2 = false →
        Refuses (.storeCrc t rq) t s rq 0x0C03 0x0105 (atIndex 0xFFFF))
      ∧ (s.cfg.active.tableEn k = true → n ≤ s.cfg.active.tableSize k * 4 → s.domOn 1 = true → s.domOn 2 = true →
        (s.drv.tables.get k).loading = true → Refuses (.storeCrc t rq) t s rq 0x0C03 0x0108 (atIndex 0xFFFF)) := by
  have refuses : ∀ reason i, (∀ v, Running rq (tick t s) v → storeCrcBody { rq with cmd := 0x0C03 } v = (.noAt reason i, v)) →
      Refuses (.storeCrc t rq) t s rq 0x0C03 reason (atIndex i) := fun reason i hr => refused_atIndex i ▸
    refuses_of (c := storeCrcRules) (l := { idx := i }) (exec_storeCrc ..) (by decide) h (fun e => absurd e (by decide))
      (by rw [hp]; simp [storeCrcRules, lenIs, storeCrcPayload]) hr
  refine ⟨fun hen => refuses _ _ fun v hv => ?_, fun hen hsize hd => refuses _ _ fun v hv => ?_,
    fun hen hsize hd1 hd2 hload => refuses _ _ fun v hv => ?_⟩
  all_goals
    have active : v.cfg.active = s.cfg.active := hv.active
    rw [storeCrcBody_table (rq := { rq with cmd := 0x0C03 }) hk hn hp, active]
  · rw [if_pos hen]
  · rw [if_neg (by simp [hen]), if_neg (by omega), if_pos (by rw [hv.domOn, hv.domOn]; exact hd)]
    rfl
  · rw [if_neg (by simp [hen]), if_neg (by omega), if_neg (by rw [hv.domOn, hv.domOn]; simp [hd1, hd2]),
      if_pos (by rw [hv.storeWriting]; exact hload)]
    rfl

theorem storeCrc_answers (h : s.Takes rq stRead) (hk : k < 16) (hn : n < 2 ^ 32) (hp : rq.payload = storeCrcPayload k n)
    (hen : s.cfg.active.tableEn k = true) (hsize : n ≤ s.cfg.active.tableSize k * 4) (hd1 : s.domOn 1 = true)
    (hd2 : s.domOn 2 = true) (hload : (s.drv.tables.get k).loading = false) (hbusy : s.unitBusy 6 = false)
    (hjobs : s.jobsRunning < 16) :
    ∃ id v, newJob 0x0C03 0 (.storeCrc true k n 6) (tick t s) = some (id, v)
      ∧ Answers (.storeCrc t rq) s rq 0x0C03 3 0 (beBytes 2 id) v := by
  refine ⟨_, _, newJob_entered (s := tick t s) hjobs, ?_⟩
  have hv := takeReq_running (rq := rq) (s := tick t s) h.safe 0x0C03
  have pending : (takeReq { rq with cmd := 0x0C03 } (tick t s)).pending = s.pending := by simp
  have taken : (takeReq { rq with cmd := 0x0C03 } (tick t s)).sh.taken = [] := by simp [h.front]
  generalize hw : takeReq { rq with cmd := 0x0C03 } (tick t s) = v at hv pending taken
  have active : v.cfg.active = s.cfg.active := hv.active
  have running : v.jobsRunning < 16 := hv.jobsRunning ▸ hjobs
  have next : v.sh.nextJob = (tick t s).sh.nextJob := hv.reads (fun u => u.sh.nextJob) fun _ _ _ => rfl
  have body : storeCrcBody { rq with cmd := 0x0C03 } v = (.running v.sh.nextJob [], v.jobEntered 0x0C03 0 (.storeCrc true k n 6)) := by
    rw [storeCrcBody_table (rq := { rq with cmd := 0x0C03 }) hk hn hp, active, if_neg (by simp [hen]), if_neg (by omega),
      if_neg (by rw [hv.domOn, hv.domOn]; simp [hd1, hd2]), if_neg (by rw [hv.storeWriting]; simp [State.storeWriting, hload]),
      if_neg (by rw [hv.unitBusy]; simp [hbusy]), hv.unitBusy, hbusy, if_neg (by decide), newJob_entered running]
  refine answers_of (c := storeCrcRules) (x := v.jobEntered 0x0C03 0 (.storeCrc true k n 6)) (exec_storeCrc ..) (by decide) h
    (fun e => absurd e (by decide)) (by rw [hp]; simp [storeCrcRules, lenIs, storeCrcPayload]) ?_
    (hv.map (State.jobEntered 0x0C03 0 (.storeCrc true k n 6)) (fun _ _ _ => rfl) rfl) pending taken
  change reply _ (storeCrcBody { rq with cmd := 0x0C03 } (takeReq { rq with cmd := 0x0C03 } (tick t s))).1
    (storeCrcBody { rq with cmd := 0x0C03 } (takeReq { rq with cmd := 0x0C03 } (tick t s))).2 = _
  rw [hw, body, ← next]
  simp only [reply, List.append_nil]

/-! ### STORE_CRC_DONE -/

theorem exec_storeCrcDone (t job : Nat) (s : State) : exec (.storeCrcDone t job) s = act t s fun u =>
    match u.jobWork job with
    | some (.storeCrc table k n unit) =>
      if u.domOn 1 = false ∨ u.domOn 2 = false then u else
      let b := if table then (u.drv.tables.get k).bytes.getList 0 n else u.drv.staging.getList 0 n
      let run := crc32Run 0xFFFFFFFF#32 b
      endJob job 1 0 (beWord (run ^^^ 0xFFFFFFFF#32) ++ beBytes 4 n) 0 (unitHolds unit run.toNat u)
    | _ => u := rfl

/-- The check of a part of the store ends (R459). -/
theorem storeCrcDone_next {job k n unit : Nat} {table : Bool} (h : s.jobWork job = some (.storeCrc table k n unit)) :
    let b := if table then (s.drv.tables.get k).bytes.getList 0 n else s.drv.staging.getList 0 n
    (s.domOn 1 = false ∨ s.domOn 2 = false → exec (.storeCrcDone t job) s = .next (tick t s))
      ∧ (s.domOn 1 = true → s.domOn 2 = true → exec (.storeCrcDone t job) s = .next (endJob job 1 0 (beWord (crc32c b) ++ beBytes 4 n) 0
        { tick t s with itg := { s.itg with units := s.itg.units.set unit (crc32Run 0xFFFFFFFF#32 b).toNat } })) := by
  have work : (tick t s).jobWork job = some (.storeCrc table k n unit) := h
  refine ⟨fun hd => exec_of_act (exec_storeCrcDone ..) ?_ rfl, fun hd1 hd2 => exec_of_act (exec_storeCrcDone ..) ?_ (by simp)⟩
  · dsimp only
    rw [work]
    exact if_pos hd
  · dsimp only
    rw [work]
    exact if_neg (by simp [show (tick t s).domOn 1 = true from hd1, show (tick t s).domOn 2 = true from hd2])

/-- Any other job goes on. -/
theorem storeCrcDone_none {job : Nat} (h : ∀ table k n unit, s.jobWork job ≠ some (.storeCrc table k n unit)) :
    exec (.storeCrcDone t job) s = .next (tick t s) := by
  refine exec_of_act (exec_storeCrcDone ..) ?_ rfl
  dsimp only
  split
  next work => exact absurd work (h _ _ _ _)
  next => rfl

end

end Sys2Proof.Machine

/-! SUPPORT. Integrity (O52). -/

namespace Sys2Proof.Machine

open Sys2Proof

/-- Settles O52: each command's own lemma, for what the scrubber, a lane, a core, a clock and a crossing do, and for what
the two checks answer. -/
theorem integrityActs : Obligations.IntegrityActs := by
  unfold Obligations.IntegrityActs
  intro s t
  refine ⟨fun hd reads => scrubPass_off hd reads, fun hd hp => scrubPass_end hd hp, fun hd hp i w hi => ⟨?_, ?_, ?_⟩,
    fun lane ch => ⟨macResidueFailure_none, fun hl hr hnew => macResidueFailure_does hl hr hnew⟩,
    ⟨fun c hc hlen => voterDisagreement_leaves hc hlen, fun d hd hb hs => voterDisagreement_safe hd hb hs,
      fun c htwo hthree => voterDisagreement_none htwo hthree⟩,
    fun clk kind => clockMonitorReport_does s t clk kind, ⟨?_, ?_⟩,
    fun clk => ⟨clockRestored_next, fun k hk hw => clockRestored_does hk hw, fun k image hk hw _ => clockRestored_boot hk hw⟩,
    fun x => ⟨crossingRestart_none, crossingRestart_does⟩, ?_, ?_, ?_, fun job h => storeCrcDone_none h⟩
  · exact fun hw hq hr => scrubPass_valid hd hp hi hw hq hr
  · exact fun v hw hv => scrubPass_mends hd hp hi hw hv
  · exact fun hw hv => scrubPass_loses hd hp hi hw hv
  · exact fun h => exec_of_act (exec_qclkRestore ..) (if_pos h) rfl
  · intro h
    exact exec_of_act (exec_qclkRestore ..) (if_neg (Bool.eq_false_iff.mp h)) rfl
  · intro rq alg mode ctx data h halg hmode hdata hlen htail hp
    have ho : ChkOperands alg mode data := ⟨halg, hmode, hdata, hlen, htail⟩
    obtain ⟨hdomain, hbusy⟩ := chkStep_refuses (t := t) h ho hp
    obtain ⟨hgood, hbad⟩ := chkAnswer_eq (alg := alg) (mode := mode) (ctx := ctx) (data := data)
    refine ⟨hdomain, hbusy, fun hd hb good => ?_, fun hd hb bad => ?_⟩
    · have answers := chkStep_answers (t := t) h ho hp hd hb
      rw [hgood good] at answers
      exact answers
    · have answers := chkStep_answers (t := t) h ho hp hd hb
      rw [hbad bad] at answers
      exact answers
  · intro rq k n h hk hn hp
    obtain ⟨htable, hdomain, hloading⟩ := storeCrc_refuses (t := t) h hk hn hp
    exact ⟨htable, hdomain, hloading, fun hen hsize hd1 hd2 hload hbusy hjobs =>
      storeCrc_answers h hk hn hp hen hsize hd1 hd2 hload hbusy hjobs⟩
  · exact fun job table k n unit h => storeCrcDone_next h

end Sys2Proof.Machine

/-! SUPPORT. The invariant through every row of the command table (O2): a row's meaning is built of shared operations, each of
which keeps the invariant (Laws/Keeps*.lean), so one lemma per row names the operations it is built of. -/

namespace Sys2Proof.Machine

open Sys2Proof

/-! ### Ways to keep the invariant -/

/-- Parts of the state that the invariant does not speak of may change. -/
theorem State.Inv.others {s : State} (h : s.Inv) (q : List Instr) (clk : Clocks) (hub : Hub) (hed : Heddle) (conv : Conv)
    (filt : Filt) (warp : Warp) (cal : Cal) (trd : Treadle) (win : Winnow) (itg : Integ) (pair : Pair) (pow : Power)
    (wire : List Emission) (free : Nat) :
    (State.mk q clk hub s.sh s.cfg hed conv filt warp cal trd s.drv s.weft win itg pair pow wire free).Inv :=
  ⟨h.sh, h.cfg, h.drv, h.weft⟩

/-- Parts of the delivery other than the notices may change. -/
theorem weft_keeps {s : State} (h : s.Inv) {streams : Tab Stream} {opened : Tab OpenFrame} {pool : List WFrame} {ports : Tab HPort}
    {nextNotice highFill releases gapNotices lastRelease turns : Nat} :
    State.Inv { s with weft := { s.weft with
      streams, opened, pool, ports, nextNotice, highFill, releases, gapNotices, lastRelease, turns } } :=
  ⟨h.sh, h.cfg, h.drv, ⟨h.weft.notices⟩⟩

/-- A job takes the staging area (R332, R458). -/
theorem stagingFor_keeps {s : State} (h : s.Inv) (win : Winnow) (who : StagingFor) :
    State.Inv { s with win, drv := { s.drv with stagingFor := who } } :=
  ⟨h.sh, h.cfg, ⟨h.drv.staging, h.drv.tables⟩, h.weft⟩

theorem ite_keeps {p : Prop} [Decidable p] {u v : State} (hu : u.Inv) (hv : v.Inv) : (if p then u else v).Inv := by
  split
  · exact hu
  · exact hv

/-- A body that refuses changes nothing. -/
theorem refusing_keeps {u : State} (h : u.Inv) {p : Prop} [Decidable p] {r : Reply} {x : Reply × State} (k : ¬ p → x.2.Inv) :
    (if p then (r, u) else x).2.Inv := by
  split
  · exact h
  · exact k ‹_›

theorem newJob_inv {s u : State} (h : s.Inv) {cmd st id : Nat} {w : JobWork} (e : newJob cmd st w s = some (id, u)) : u.Inv :=
  newJob_keeps h _ _ _ _ e

/-- The parts of a calibration run, judged one after the other. -/
theorem judged_keeps (r : CalRun) (l : List Nat) {p : Bytes × State} (h : p.2.Inv) : (l.foldl (judgePart r) p).2.Inv :=
  foldl_keeps_snd _ (fun _ ch hp => judgePart_keeps hp r ch) l h

/-- A usable copy is loaded as it is stored. -/
theorem copyOf_wf {c : Copy} {w : Work} (k : Tab.wf c.words = true) (e : copyOf c = some w) : Tab.wf w.words = true := by
  unfold copyOf at e
  split at e
  · cases e
    exact k
  · cases e

/-- An event's row keeps the invariant where its effect does. -/
theorem act_of_keeps {t : Nat} {s s' : State} {f : State → State} (h : s.Inv) (hf : ∀ u : State, u.Inv → (f u).Inv)
    (e : act t s f = .next s') : s'.Inv :=
  act_keeps (hf _ (tick_keeps h t)) e

/-- A read's row keeps the invariant. -/
theorem reads_keep {c : Rules} {f : Req → State → Reply} {t : Nat} {rq : Req} {s s' : State} (h : s.Inv)
    (e : runCmd c (reading f) t rq s = .next s') : s'.Inv :=
  runCmd_keeps h _ _ _ _ (fun rq _ hs => reading_keeps hs f rq) e

section
variable {s s' : State} (h : s.Inv)
include h

/-! ### Shuttle (R39 to R55) -/

theorem execSpiWrite_keeps {t : Nat} {msg : Bytes} (e : execSpiWrite t msg s = .next s') : s'.Inv := by
  refine act_of_keeps h (fun u hu => ?_) e
  grind [onSpi_keeps, arrive_keeps]

theorem execSpiRead_keeps {t mb clocked : Nat} (e : execSpiRead t mb clocked s = .next s') : s'.Inv := by
  refine act_of_keeps h (fun u hu => onSpi_keeps hu _ fun v hv => ?_) e
  split
  · dsimp only
    split
    · exact irq_mailUpd_keeps (emit_keeps hv _) _ _
    · exact emit_keeps hv _
  · exact emit_keeps hv _

theorem execSpiPoll_keeps {t : Nat} (e : execSpiPoll t s = .next s') : s'.Inv := by
  refine act_of_keeps h (fun u hu => ?_) e
  grind [onSpi_keeps, emit_keeps]

theorem execSpiInvalidOpcode_keeps {t op : Nat} (e : execSpiInvalidOpcode t op s = .next s') : s'.Inv := by
  refine act_of_keeps h (fun u hu => ?_) e
  grind [onSpi_keeps, count78_keeps]

theorem execSpiFrameTimeout_keeps {t : Nat} (e : execSpiFrameTimeout t s = .next s') : s'.Inv := by
  refine act_of_keeps h (fun u hu => ?_) e
  grind [onSpi_keeps, count78_keeps]

theorem execClaimIdleLapse_keeps {t mb : Nat} (e : execClaimIdleLapse t mb s = .next s') : s'.Inv := by
  refine act_of_keeps h (fun u hu => ?_) e
  grind [endClaim_keeps]

theorem execJobResultExpiry_keeps {t job : Nat} (e : execJobResultExpiry t job s = .next s') : s'.Inv := by
  refine act_of_keeps h (fun u hu => ?_) e
  dsimp only
  split
  · split
    · exact ⟨hu.sh.update, hu.cfg, hu.drv, hu.weft⟩
    · exact hu
  · exact hu

/-! ### General commands and the configuration session (R64 to R78) -/

theorem execStatus_keeps {t : Nat} {rq : Req} (e : execStatus t rq s = .next s') : s'.Inv := by
  refine runCmd_keeps h _ _ _ _ (fun rq u hu => ?_) e
  grind [setAlarm_keeps]

theorem execRelease_keeps {t : Nat} {rq : Req} (e : execRelease t rq s = .next s') : s'.Inv := by
  refine runCmd_keeps h _ _ _ _ (fun rq u hu => ?_) e
  grind [endClaim_keeps]

theorem execRestart_keeps {t : Nat} {rq : Req} (e : execRestart t rq s = .next s') : s'.Inv := by
  refine runCmd_keeps h _ _ _ _ (fun rq u hu => ?_) e
  grind [State.Inv.others]

theorem execCountersRead_keeps {t : Nat} {rq : Req} (e : execCountersRead t rq s = .next s') : s'.Inv := by
  refine runCmd_keeps h _ _ _ _ (fun rq u hu => refusing_keeps hu fun _ => ?_) e
  dsimp only
  split
  · exact ⟨hu.sh.update, hu.cfg, hu.drv, hu.weft⟩
  · exact hu

theorem execCfgOpen_keeps {t : Nat} {rq : Req} (e : execCfgOpen t rq s = .next s') : s'.Inv := by
  refine runCmd_keeps h _ _ _ _ (fun rq u hu => refusing_keeps hu fun _ => ?_) e
  have hsrc {w : Work} (e : (if beAt rq.payload 0 1 = 0 then some { words := u.cfg.force, seq := u.cfg.seq }
      else if beAt rq.payload 0 1 = 1 then copyOf u.cfg.copyA else if beAt rq.payload 0 1 = 2 then copyOf u.cfg.copyB
      else if beAt rq.payload 0 1 = 3 then some { words := [], seq := 0 } else none) = some w) : Tab.wf w.words = true := by
    split_ifs at e
    · cases e; exact hu.cfg.force
    · exact copyOf_wf hu.cfg.copyA e
    · exact copyOf_wf hu.cfg.copyB e
    · cases e; rfl
  dsimp only
  split
  · exact hu
  next w hw =>
    refine setAlarm_keeps ?_ _ _ _ _ _
    refine ⟨⟨hu.sh.log, hu.sh.irq, fun _ e => ?_⟩, hu.cfg, hu.drv, hu.weft⟩
    cases e
    exact hsrc hw

theorem execParamWrite_keeps {t : Nat} {rq : Req} (e : execParamWrite t rq s = .next s') : s'.Inv := by
  refine runCmd_keeps h _ _ _ _ (fun rq u hu => refusing_keeps hu fun _ => refusing_keeps hu fun _ => ?_) e
  split
  · exact hu
  · exact hu
  next w _ hw =>
    refine refusing_keeps hu fun _ => ?_
    split
    · exact hu
    · exact hu
    · refine ⟨⟨hu.sh.log, hu.sh.irq, fun _ e => ?_⟩, hu.cfg, hu.drv, hu.weft⟩
      cases e
      exact wf_foldl (fun m _ hm => PMem.wf_put m _ _ hm) _ (hu.sh.work w hw)

theorem execCfgAbort_keeps {t : Nat} {rq : Req} (e : execCfgAbort t rq s = .next s') : s'.Inv := by
  refine runCmd_keeps h _ _ _ _ (fun rq u hu => ?_) e
  split
  · exact hu
  · exact ⟨⟨hu.sh.log, hu.sh.irq, fun _ e => nomatch e⟩, hu.cfg, hu.drv, hu.weft⟩

theorem execCfgSave_keeps {t : Nat} {rq : Req} (e : execCfgSave t rq s = .next s') : s'.Inv := by
  refine runCmd_keeps h _ _ _ _ (fun rq u hu => ?_) e
  grind [persistForce_keeps]

/-! ### Threads, detectors and excitation (R80 to R117) -/

theorem execLeadSuspect_keeps {t ch : Nat} {det : Detector} (e : execLeadSuspect t ch det s = .next s') : s'.Inv := by
  refine act_of_keeps h (fun u hu => ?_) e
  grind [leadSuspect_keeps]

theorem execLeadConfirmed_keeps {t ch : Nat} {det : Detector} (e : execLeadConfirmed t ch det s = .next s') : s'.Inv := by
  refine act_of_keeps h (fun u hu => ?_) e
  grind [leadConfirm_keeps]

theorem execLeadCleared_keeps {t ch : Nat} {det : Detector} (e : execLeadCleared t ch det s = .next s') : s'.Inv := by
  refine act_of_keeps h (fun u hu => ?_) e
  grind [leadClear_keeps]

theorem execLeadWatchHalfPeriod_keeps {t ch : Nat} {mean : Int} {husks : List Nat}
    (e : execLeadWatchHalfPeriod t ch mean husks s = .next s') : s'.Inv := by
  refine act_of_keeps h (fun u hu => ?_) e
  grind [leadUpd_keeps, usedHusks_keeps, leadHalf_keeps]

theorem execOverrangeOnset_keeps {t ch : Nat} {positive : Bool} (e : execOverrangeOnset t ch positive s = .next s') : s'.Inv := by
  refine act_of_keeps h (fun u hu => ?_) e
  grind [ovrUpd_keeps, ovrBegin_keeps]

theorem execOverrangeEnd_keeps {t ch : Nat} (e : execOverrangeEnd t ch s = .next s') : s'.Inv := by
  refine act_of_keeps h (fun u hu => ?_) e
  grind [ovrEnd_keeps, ovrUpd_keeps]

theorem execOvervoltageTrip_keeps {t pod thread : Nat} (e : execOvervoltageTrip t pod thread s = .next s') : s'.Inv := by
  refine act_of_keeps h (fun u hu => ?_) e
  grind [cutSlots_keeps, thrUpd_keeps, State.Inv.others]

theorem execOvervoltageClear_keeps {t pod thread : Nat} (e : execOvervoltageClear t pod thread s = .next s') : s'.Inv := by
  refine act_of_keeps h (fun u hu => ?_) e
  grind [thrUpd_keeps]

theorem execDriverReconnect_keeps {t pod thread : Nat} (e : execDriverReconnect t pod thread s = .next s') : s'.Inv := by
  refine act_of_keeps h (fun u hu => ?_) e
  grind [cutSlots_keeps, thrUpd_keeps]

theorem execExcitationExchange_keeps {t pod src : Nat} (e : execExcitationExchange t pod src s = .next s') : s'.Inv := by
  refine act_of_keeps h (fun u hu => ?_) e
  grind [State.Inv.others]

theorem execLeadStatus_keeps {t : Nat} {rq : Req} (e : execLeadStatus t rq s = .next s') : s'.Inv := by
  refine runCmd_keeps h _ _ _ _ (fun rq u hu => ?_) e
  grind [State.Inv.others]

theorem execOvrCounters_keeps {t : Nat} {rq : Req} (e : execOvrCounters t rq s = .next s') : s'.Inv := by
  refine runCmd_keeps h _ _ _ _ (fun rq u hu => ?_) e
  grind [foldl_keeps, State.Inv.others]

/-! ### Conversion (R118 to R146) -/

theorem execModulatorRestart_keeps {t ch : Nat} {positive : Bool}
    (e : execModulatorRestart t ch positive s = .next s') : s'.Inv := by
  refine act_of_keeps h (fun u hu => ?_) e
  grind [partWorn_keeps, ovrUpd_keeps, ovrBegin_keeps, ovrEnd_keeps, State.Inv.others]

theorem execSimultaneousTrigger_keeps {t : Nat} (e : execSimultaneousTrigger t s = .next s') : s'.Inv := by
  refine act_of_keeps h (fun u hu => ?_) e
  dsimp only
  split
  · exact hu
  · split
    · exact foldl_keeps _ (fun v _ hv => scUpd_keeps hv _ _) _ (hu.others ..)
    · exact foldl_keeps _ (fun v _ hv => request_keeps (scUpd_keeps hv _ _) _ _) _ (hu.others ..)

theorem execScanListPass_keeps {t list : Nat} (e : execScanListPass t list s = .next s') : s'.Inv := by
  refine act_of_keeps h (fun u hu => ?_) e
  grind [startPass_keeps]

theorem execThreadProbe_keeps {t : Nat} {rq : Req} (e : execThreadProbe t rq s = .next s') : s'.Inv := by
  refine runCmd_keeps h _ _ _ _ (fun rq u hu => ?_) e
  grind [spotRequest_keeps]

theorem execScSpot_keeps {t : Nat} {rq : Req} (e : execScSpot t rq s = .next s') : s'.Inv := by
  refine runCmd_keeps h _ _ _ _ (fun rq u hu => ?_) e
  grind [spotRequest_keeps]

theorem execScCounters_keeps {t : Nat} {rq : Req} (e : execScCounters t rq s = .next s') : s'.Inv := by
  refine runCmd_keeps h _ _ _ _ (fun rq u hu => ?_) e
  grind [foldl_keeps, scUpd_keeps]

theorem execLeadRes_keeps {t : Nat} {rq : Req} (e : execLeadRes t rq s = .next s') : s'.Inv := by
  refine runCmd_keeps h _ _ _ _ (fun rq u hu => ?_) e
  grind [spotRequest_keeps]

/-! ### Filters (R147 to R196) -/

theorem execReedSwap_keeps {t : Nat} {rq : Req} (e : execReedSwap t rq s = .next s') : s'.Inv := by
  refine runCmd_keeps h _ _ _ _ (fun rq u hu => ?_) e
  grind [newJob_inv, putLive_keeps, stage_keeps, State.Inv.others]

theorem execReedSwapRelease_keeps {t die : Nat} (e : execReedSwapRelease t die s = .next s') : s'.Inv := by
  refine act_of_keeps h (fun u hu => ?_) e
  grind [foldl_keeps, jobUpd_keeps, stageOwn_keeps]

theorem execMainsTrackingLost_keeps {t : Nat} (e : execMainsTrackingLost t s = .next s') : s'.Inv := by
  refine act_of_keeps h (fun u hu => ?_) e
  dsimp only
  split
  · split
    · exact hu.others ..
    · exact hu
  · exact hu

/-! ### The Warp (R197 to R231) -/

theorem execWarpPortStateChange_keeps {t port : Nat} {line : WarpLine}
    (e : execWarpPortStateChange t port line s = .next s') : s'.Inv := by
  refine act_of_keeps h (fun u hu => ?_) e
  grind [portState_keeps]

theorem execWarpLost_keeps {t : Nat} (e : execWarpLost t s = .next s') : s'.Inv := by
  refine act_of_keeps h (fun u hu => ?_) e
  grind [holdAlarm_keeps, setAlarm_keeps, warpEvent_keeps, setLock_keeps, acquire_keeps, State.Inv.others]

theorem execWarpReturn_keeps {t : Nat} (e : execWarpReturn t s = .next s') : s'.Inv := by
  refine act_of_keeps h (fun u hu => ?_) e
  grind [setAlarm_keeps, acquire_keeps, State.Inv.others]

theorem execPtpSourceLost_keeps {t : Nat} (e : execPtpSourceLost t s = .next s') : s'.Inv := by
  refine act_of_keeps h (fun u hu => ?_) e
  have h1 : State.Inv (if u.warp.source ≠ 1 then u else if u.warp.lock = .locked then setLock .holdover u
      else { u with warp := { u.warp with within := none, outside := none } }) := by
    grind [setLock_keeps, State.Inv.others]
  dsimp only
  split
  · exact ⟨h1.sh, h1.cfg, h1.drv, ⟨h1.weft.notices⟩⟩
  · exact h1

theorem execEventOrigination_keeps {t : Nat} (e : execEventOrigination t s = .next s') : s'.Inv := by
  refine act_of_keeps h (fun u hu => ?_) e
  grind [spread_keeps, State.Inv.others]

theorem execWarpEventTransmit_keeps {t port : Nat} (e : execWarpEventTransmit t port s = .next s') : s'.Inv := by
  refine act_of_keeps h (fun u hu => ?_) e
  grind [wportUpd_keeps, emit_keeps, warpEvent_keeps, State.Inv.others]

theorem execResendRequest_keeps {t port first : Nat} (e : execResendRequest t port first s = .next s') : s'.Inv := by
  refine act_of_keeps h (fun u hu => ?_) e
  grind [resendFrom_keeps]

theorem execWarpEvent_keeps {t port : Nat} {ev : Bytes} (e : execWarpEvent t port ev s = .next s') : s'.Inv := by
  refine act_of_keeps h (fun u hu => ?_) e
  grind [askResend_keeps, wportUpd_keeps, resendFrom_keeps, acceptEvent_keeps, beyondGap_keeps]

theorem execWarpTimeFrame_keeps {t : Nat} {frame : Bytes} {ext : Nat}
    (e : execWarpTimeFrame t frame ext s = .next s') : s'.Inv := by
  refine act_of_keeps h (fun u hu => ?_) e
  grind [wportUpd_keeps, portState_keeps, takeFrame_keeps, exchange_keeps, catchUpCheck_keeps]

theorem execTimeFrameSend_keeps {t port : Nat} (e : execTimeFrameSend t port s = .next s') : s'.Inv := by
  refine act_of_keeps h (fun u hu => ?_) e
  grind [stampExt_keeps, emit_keeps, State.Inv.others]

theorem execDelayRequestSend_keeps {t : Nat} (e : execDelayRequestSend t s = .next s') : s'.Inv := by
  refine act_of_keeps h (fun u hu => ?_) e
  grind [stampExt_keeps, wportUpd_keeps, emit_keeps, State.Inv.others]

theorem execDelayRequest_keeps {t port : Nat} {frame : Bytes} {ext : Nat}
    (e : execDelayRequest t port frame ext s = .next s') : s'.Inv := by
  refine act_of_keeps h (fun u hu => ?_) e
  grind [wportUpd_keeps, portState_keeps, countHubs_keeps, State.Inv.others]

theorem execCensusLapse_keeps {t hub : Nat} (e : execCensusLapse t hub s = .next s') : s'.Inv := by
  refine act_of_keeps h (fun u hu => ?_) e
  grind [countHubs_keeps, State.Inv.others]

theorem execSynchronisingReset_keeps {t : Nat} (e : execSynchronisingReset t s = .next s') : s'.Inv := by
  refine act_of_keeps h (fun u hu => ?_) e
  grind [endResetJobs_keeps, hubReset_keeps, State.Inv.others]

theorem execCatchUpReset_keeps {t : Nat} (e : execCatchUpReset t s = .next s') : s'.Inv := by
  refine act_of_keeps h (fun u hu => ?_) e
  grind [hubReset_keeps, alignDies_keeps, State.Inv.others]

theorem execWarpPorts_keeps {t : Nat} {rq : Req} (e : execWarpPorts t rq s = .next s') : s'.Inv := by
  refine runCmd_keeps h _ _ _ _ (fun rq u hu => ?_) e
  grind [foldl_keeps, wportUpd_keeps]

theorem execSyncReset_keeps {t : Nat} {rq : Req} (e : execSyncReset t rq s = .next s') : s'.Inv := by
  refine runCmd_keeps h _ _ _ _ (fun rq u hu => ?_) e
  dsimp only
  repeat refine refusing_keeps hu fun _ => ?_
  split
  · exact hu
  next hjob =>
    dsimp only
    split
    · exact (newJob_inv hu hjob).others ..
    · exact originate_keeps ((newJob_inv hu hjob).others ..) _ _ _

theorem execTimeSet_keeps {t : Nat} {rq : Req} (e : execTimeSet t rq s = .next s') : s'.Inv := by
  refine runCmd_keeps h _ _ _ _ (fun rq u hu => ?_) e
  grind [State.Inv.others]

theorem execEventSend_keeps {t : Nat} {rq : Req} (e : execEventSend t rq s = .next s') : s'.Inv := by
  refine runCmd_keeps h _ _ _ _ (fun rq u hu => ?_) e
  grind [originate_keeps]

/-! ### Linearisation (R232 to R254) -/

theorem execBridgeZero_keeps {t : Nat} {rq : Req} (e : execBridgeZero t rq s = .next s') : s'.Inv := by
  refine runCmd_keeps h _ _ _ _ (fun rq u hu => ?_) e
  grind [newJob_inv]

theorem execBridgeZeroDone_keeps {t job : Nat} (e : execBridgeZeroDone t job s = .next s') : s'.Inv := by
  refine act_of_keeps h (fun u hu => ?_) e
  grind [nextFree_keeps, endJob_keeps]

/-! ### Tests and calibration (R138 to R142, R255 to R275) -/

theorem execPathTest_keeps {t : Nat} {rq : Req} (e : execPathTest t rq s = .next s') : s'.Inv := by
  refine runCmd_keeps h _ _ _ _ (fun rq u hu => ?_) e
  grind [foldl_keeps, newJob_inv, testBegin_keeps]

theorem execPathTestDone_keeps {t job : Nat} {slots husks : List Nat}
    (e : execPathTestDone t job slots husks s = .next s') : s'.Inv := by
  refine act_of_keeps h (fun u hu => ?_) e
  grind [partWorn_keeps, foldl_keeps, testEnd_keeps, usedHusks_keeps, State.Inv.others]

theorem execCalRun_keeps {t : Nat} {rq : Req} (e : execCalRun t rq s = .next s') : s'.Inv := by
  refine runCmd_keeps h _ _ _ _ (fun rq u hu => ?_) e
  dsimp only
  repeat refine refusing_keeps hu fun _ => ?_
  split
  · exact hu
  next hjob => exact foldl_keeps _ (fun v ch hv => lendSlot_keeps hv _ ch) _ (newJob_inv hu hjob)

theorem execCalRunDone_keeps {t job : Nat} {husks : List Nat} (e : execCalRunDone t job husks s = .next s') : s'.Inv := by
  refine act_of_keeps h (fun u hu => ?_) e
  dsimp only
  split
  next r _ =>
    split
    · exact testEnd_keeps (judged_keeps r _ (usedHusks_keeps hu husks)) _ _ _ _
    · exact hu
  · exact hu

theorem execCalCommit_keeps {t : Nat} {rq : Req} (e : execCalCommit t rq s = .next s') : s'.Inv := by
  refine runCmd_keeps h _ _ _ _ (fun rq u hu => ?_) e
  grind [persistCal_keeps, stage_keeps, State.Inv.others]

theorem execCalDiscard_keeps {t : Nat} {rq : Req} (e : execCalDiscard t rq s = .next s') : s'.Inv := by
  refine runCmd_keeps h _ _ _ _ (fun rq u hu => ?_) e
  grind [State.Inv.others]

/-! ### Frames (R344 to R348) -/

theorem execFrameClose_keeps {t stream sec : Nat} (e : execFrameClose t stream sec s = .next s') : s'.Inv := by
  refine act_of_keeps h (fun u hu => ?_) e
  grind [closeFront_keeps]

/-! ### The Treadle (R276 to R293) -/

theorem execTioInputChange_keeps {t pin : Nat} {level : Bool} (e : execTioInputChange t pin level s = .next s') : s'.Inv := by
  refine act_of_keeps h (fun u hu => ?_) e
  grind [tioUpd_keeps]

theorem execTioLevelAccepted_keeps {t pin : Nat} (e : execTioLevelAccepted t pin s = .next s') : s'.Inv := by
  refine act_of_keeps h (fun u hu => ?_) e
  grind [tioUpd_keeps, dateEvent_keeps]

theorem execSequencerEvaluation_keeps {t seq inst : Nat} (e : execSequencerEvaluation t seq inst s = .next s') : s'.Inv := by
  refine act_of_keeps h (fun u hu => ?_) e
  exact ite_keeps (countLate_keeps (evaluate_keeps hu _ _ _) _) hu

theorem execTreadleTimerExpiry_keeps {t seq k : Nat} (e : execTreadleTimerExpiry t seq k s = .next s') : s'.Inv := by
  refine act_of_keeps h (fun u hu => ?_) e
  grind

theorem execTreadleCounterReached_keeps {t seq k : Nat} (e : execTreadleCounterReached t seq k s = .next s') : s'.Inv := by
  refine act_of_keeps h (fun u hu => ?_) e
  grind

theorem execTreadleArm_keeps {t : Nat} {rq : Req} (e : execTreadleArm t rq s = .next s') : s'.Inv := by
  refine runCmd_keeps h _ _ _ _ (fun rq u hu => ?_) e
  grind [maskBody_keeps]

theorem execTreadleDisarm_keeps {t : Nat} {rq : Req} (e : execTreadleDisarm t rq s = .next s') : s'.Inv := by
  refine runCmd_keeps h _ _ _ _ (fun rq u hu => ?_) e
  grind [maskBody_keeps]

theorem execTreadleForce_keeps {t : Nat} {rq : Req} (e : execTreadleForce t rq s = .next s') : s'.Inv := by
  refine runCmd_keeps h _ _ _ _ (fun rq u hu => ?_) e
  grind [takeRecord_keeps]

/-! ### Records (R294 to R312) -/

theorem execRecordComplete_keeps {t bob rec : Nat} (e : execRecordComplete t bob rec s = .next s') : s'.Inv := by
  refine act_of_keeps h (fun u hu => ?_) e
  grind [completeRecord_keeps]

theorem execAutoTimeout_keeps {t bob : Nat} (e : execAutoTimeout t bob s = .next s') : s'.Inv := by
  refine act_of_keeps h (fun u hu => ?_) e
  grind [startRecord_keeps, bobUpd_keeps]

theorem execRearmEnd_keeps {t bob : Nat} (e : execRearmEnd t bob s = .next s') : s'.Inv := by
  refine act_of_keeps h (fun u hu => ?_) e
  grind [bobUpd_keeps]

/-! ### Loops and stimulus (R313 to R338) -/

theorem execLoopUpdate_keeps {t : Nat} {bad : List Nat} (e : execLoopUpdate t bad s = .next s') : s'.Inv := by
  refine act_of_keeps h (fun u hu => ?_) e
  dsimp only
  split
  · exact hu
  · exact foldl_keeps _ (fun v n hv => updateLoop_keeps hv _ _ n) _
      ⟨hu.sh, hu.cfg, ⟨hu.drv.staging, hu.drv.tables⟩, hu.weft⟩

theorem execStimulusTick_keeps {t : Nat} {found : StimTick} (e : execStimulusTick t found s = .next s') : s'.Inv := by
  refine act_of_keeps h (fun u hu => ?_) e
  dsimp only
  split
  · exact hu
  · have h1 := foldl_keeps _ (fun v x hv => readPoints_keeps hv x) found.reads hu
    exact foldl_keeps _ (fun v n hv => tickStim_keeps hv _ _ n) _ ⟨h1.sh, h1.cfg, ⟨h1.drv.staging, h1.drv.tables⟩, h1.weft⟩

theorem execLoopSet_keeps {t : Nat} {rq : Req} (e : execLoopSet t rq s = .next s') : s'.Inv := by
  refine runCmd_keeps h _ _ _ _ (fun rq u hu => ?_) e
  grind [acceptWords_keeps]

theorem execLoopSelect_keeps {t : Nat} {rq : Req} (e : execLoopSelect t rq s = .next s') : s'.Inv := by
  refine runCmd_keeps h _ _ _ _ (fun rq u hu => ?_) e
  grind [stage_keeps]

theorem execStimStart_keeps {t : Nat} {rq : Req} (e : execStimStart t rq s = .next s') : s'.Inv := by
  refine runCmd_keeps h _ _ _ _ (fun rq u hu => refusing_keeps hu fun _ => ?_) e
  split
  · exact hu
  · split
    · exact hu
    · refine refusing_keeps hu fun _ => ?_
      split
      · exact hu
      · dsimp only
        exact sendDelta_keeps (startStims_keeps hu _ _) _ _

theorem execStimStop_keeps {t : Nat} {rq : Req} (e : execStimStop t rq s = .next s') : s'.Inv := by
  refine runCmd_keeps h _ _ _ _ (fun rq u hu => ?_) e
  grind [sendDelta_keeps, holdStims_keeps]

theorem execStimLoad_keeps {t : Nat} {rq : Req} (e : execStimLoad t rq s = .next s') : s'.Inv := by
  refine runCmd_keeps h _ _ _ _ (fun rq u hu => refusing_keeps hu fun _ => ?_) e
  split
  · exact hu
  · refine refusing_keeps hu fun _ => refusing_keeps hu fun _ => ?_
    have h1 : (tableUpd (beAt rq.payload 0 1) (fun x => { x with points := [], loading := true }) u).Inv :=
      tableUpd_keeps hu _ _ fun _ hy => hy
    dsimp only
    split
    · exact ⟨h1.sh, h1.cfg, ⟨Tab.wf_setList _ _ _ hu.drv.staging, h1.drv.tables⟩, h1.weft⟩
    · exact tableUpd_keeps h1 _ _ fun _ hy => Tab.wf_setList _ _ _ hy

theorem execStimTableEnd_keeps {t : Nat} {rq : Req} (e : execStimTableEnd t rq s = .next s') : s'.Inv := by
  refine runCmd_keeps h _ _ _ _ (fun rq u hu => refusing_keeps hu fun _ => ?_) e
  split
  · exact hu
  · refine refusing_keeps hu fun _ => refusing_keeps hu fun _ => ?_
    split
    · exact fillTable_keeps hu _ _
    · split
      · exact hu
      next hjob =>
        refine stagingFor_keeps (tableUpd_keeps (newJob_inv hu hjob) _ _ ?_) _ _
        exact fun _ hy => hy

/-! ### Weft delivery (R339 to R369) -/

theorem execPortTransmit_keeps {t port : Nat} (e : execPortTransmit t port s = .next s') : s'.Inv := by
  refine act_of_keeps h (fun u hu => ?_) e
  grind [portUpd_keeps, askHops_keeps, sweepWire_keeps, sendQueued_keeps, sendData_keeps]

theorem execTc0Token_keeps {t port : Nat} (e : execTc0Token t port s = .next s') : s'.Inv := by
  refine act_of_keeps h (fun u hu => ite_keeps hu ?_) e
  have h1 := formNotice_keeps (portUpd_keeps hu port fun h => { h with tokensUsed := h.tokensUsed - 1, tokenAt := u.tokenDue port })
    true port
  simp only []
  generalize formNotice true port _ = v at h1 ⊢
  split
  · exact ite_keeps (portUpd_keeps h1 _ _) h1
  · exact h1

theorem execPortLinkChange_keeps {t port : Nat} {up : Bool} (e : execPortLinkChange t port up s = .next s') : s'.Inv := by
  refine act_of_keeps h (fun u hu => ?_) e
  grind [portUpd_keeps, portRises_keeps, portDown_keeps]

theorem execArpRefresh_keeps {t port ip : Nat} (e : execArpRefresh t port ip s = .next s') : s'.Inv := by
  refine act_of_keeps h (fun u hu => ?_) e
  grind [portUpd_keeps]

theorem execArpRetry_keeps {t port ip : Nat} (e : execArpRetry t port ip s = .next s') : s'.Inv := by
  refine act_of_keeps h (fun u hu => ?_) e
  grind [portUpd_keeps, countWaits_keeps]

theorem execPtpDelayReqSend_keeps {t port : Nat} (e : execPtpDelayReqSend t port s = .next s') : s'.Inv := by
  refine act_of_keeps h (fun u hu => ?_) e
  grind [portUpd_keeps, sendPtp_keeps]

theorem execPortStatus_keeps {t : Nat} {rq : Req} (e : execPortStatus t rq s = .next s') : s'.Inv := by
  refine runCmd_keeps h _ _ _ _ (fun rq u hu => ?_) e
  grind [portUpd_keeps]

theorem execStoreStatus_keeps {t : Nat} {rq : Req} (e : execStoreStatus t rq s = .next s') : s'.Inv := by
  refine runCmd_keeps h _ _ _ _ (fun _ u hu => ?_) e
  dsimp only
  exact weft_keeps hu

theorem execWeftResend_keeps {t : Nat} {rq : Req} (e : execWeftResend t rq s = .next s') : s'.Inv := by
  refine runCmd_keeps h _ _ _ _ (fun rq u hu => refusing_keeps hu fun _ => refusing_keeps hu fun _ => refusing_keeps hu fun _ =>
    refusing_keeps hu fun _ => ?_) e
  generalize List.filter _ (List.map _ (List.range _)) = lost
  cases lost with
  | nil => exact weft_keeps hu
  | cons q r => exact logEvent_keeps (weft_keeps hu) _ _ _

/-! ### Winnow (R370 to R391) -/

theorem execWinnowFrameStart_keeps {t : Nat} (e : execWinnowFrameStart t s = .next s') : s'.Inv := by
  refine act_of_keeps h (fun u hu => ?_) e
  grind [checkForcing_keeps, frameUpd_keeps, stage_keeps, State.Inv.others]

theorem execWinnowFrameDone_keeps {t : Nat} {stalled : Option Nat} (e : execWinnowFrameDone t stalled s = .next s') : s'.Inv := by
  refine act_of_keeps h (fun u hu => ?_) e
  grind [stallAt_keeps, countWin_keeps, unitHolds_keeps, fillAlarms_keeps, frameUpd_keeps, stage_keeps, State.Inv.others]

theorem execWinnowStallResume_keeps {t : Nat} (e : execWinnowStallResume t s = .next s') : s'.Inv := by
  refine act_of_keeps h (fun u hu => ?_) e
  grind [State.Inv.others]

theorem execDecompressionDone_keeps {job : JobEnd} (e : execDecompressionDone job s = .next s') : s'.Inv := by
  refine act_of_keeps h (fun u hu => ?_) e
  grind [countWin_keeps, stagingRun_keeps, jobFails_keeps, tableUpd_keeps, endTable_keeps, endImage_keeps, State.Inv.others]

theorem execWinnowStatus_keeps {t : Nat} {rq : Req} (e : execWinnowStatus t rq s = .next s') : s'.Inv := by
  refine runCmd_keeps h _ _ _ _ (fun rq u hu => ?_) e
  grind [State.Inv.others]

/-! ### Output samples (R160) -/

theorem execPlyWordArrival_keeps {t ch : Nat} {reed : Bool} {slot k : Nat} {codes : List Int}
    (e : execPlyWordArrival t ch reed slot k codes s = .next s') : s'.Inv := by
  refine act_of_keeps h (fun u hu => ?_) e
  grind [holdPly_keeps, plyWord_keeps]

theorem execPlyLaneFailure_keeps {t die lane : Nat} (e : execPlyLaneFailure t die lane s = .next s') : s'.Inv := by
  refine act_of_keeps h (fun u hu => ?_) e
  grind [plyAlarms_keeps, dieLost_keeps, domUpd_keeps]

theorem execPlyLinkTrained_keeps {t die lanes : Nat} (e : execPlyLinkTrained t die lanes s = .next s') : s'.Inv := by
  refine act_of_keeps h (fun u hu => ?_) e
  grind [domUpd_keeps, plyAlarms_keeps, dieResumes_keeps]

theorem execOutputSample_keeps {t ch grid : Nat} {reads : List (Nat × Bytes)}
    (e : execOutputSample t ch grid reads s = .next s') : s'.Inv := by
  refine act_of_keeps h (fun u hu => ?_) e
  grind [readStore_keeps, outputSample_keeps]

/-! ### Hub states and COMMIT (R56 to R68) -/

theorem execEnterConfig_keeps {t : Nat} {rq : Req} (e : execEnterConfig t rq s = .next s') : s'.Inv := by
  refine runCmd_keeps h _ _ _ _ (fun rq u hu => ?_) e
  grind [stageMove_keeps]

theorem execStart_keeps {t : Nat} {rq : Req} (e : execStart t rq s = .next s') : s'.Inv := by
  refine runCmd_keeps h _ _ _ _ (fun rq u hu => ?_) e
  grind [stageMove_keeps]

theorem execStop_keeps {t : Nat} {rq : Req} (e : execStop t rq s = .next s') : s'.Inv := by
  refine runCmd_keeps h _ _ _ _ (fun rq u hu => ?_) e
  grind [stageMove_keeps]

theorem execEnterService_keeps {t : Nat} {rq : Req} (e : execEnterService t rq s = .next s') : s'.Inv := by
  refine runCmd_keeps h _ _ _ _ (fun rq u hu => ?_) e
  grind [stageMove_keeps]

theorem execLeaveService_keeps {t : Nat} {rq : Req} (e : execLeaveService t rq s = .next s') : s'.Inv := by
  refine runCmd_keeps h _ _ _ _ (fun rq u hu => ?_) e
  grind [stageMove_keeps]

theorem execFaultClear_keeps {t : Nat} {rq : Req} (e : execFaultClear t rq s = .next s') : s'.Inv := by
  refine runCmd_keeps h _ _ _ _ (fun rq u hu => ?_) e
  grind [stageMove_keeps]

theorem execCommit_keeps {t : Nat} {rq : Req} (e : execCommit t rq s = .next s') : s'.Inv := by
  refine runCmd_keeps h _ _ _ _ (fun rq u hu => ?_) e
  grind [commitBody_keeps]

theorem execCheckOnly_keeps {t : Nat} {rq : Req} (e : execCheckOnly t rq s = .next s') : s'.Inv := by
  refine runCmd_keeps h _ _ _ _ (fun rq u hu => ?_) e
  grind [commitBody_keeps]

theorem execCommitNoEn_keeps {t : Nat} {rq : Req} (e : execCommitNoEn t rq s = .next s') : s'.Inv := by
  refine runCmd_keeps h _ _ _ _ (fun rq u hu => ?_) e
  grind [commitBody_keeps]

theorem execJobCancel_keeps {t : Nat} {rq : Req} (e : execJobCancel t rq s = .next s') : s'.Inv := by
  refine runCmd_keeps h _ _ _ _ (fun rq u hu => ?_) e
  grind [withdrawSwap_keeps, testEnd_keeps, withdrawReset_keeps, tableUpd_keeps, cancelWinnow_keeps, endJob_keeps]

/-! ### Integrity (R392 to R417) -/

theorem execScrubPass_keeps {t : Nat} {reads : List (Nat × Bytes)} (e : execScrubPass t reads s = .next s') : s'.Inv := by
  refine act_of_keeps h (fun u hu => ?_) e
  dsimp only
  split
  · have h1 := foldl_keeps _ (fun v x hv => scrubOne_keeps hv x) (reads.filter fun x => decide (x.1 < 2097152)) hu
    have h2 := fun l => foldl_keeps rowCheck (fun v n hv => rowCheck_keeps hv n) l h1
    split
    · exact (h2 _).others ..
    · exact h2 _
  · exact hu

theorem execMacResidueFailure_keeps {t lane ch : Nat} (e : execMacResidueFailure t lane ch s = .next s') : s'.Inv := by
  refine act_of_keeps h (fun u hu => ?_) e
  grind [partWorn_keeps, fillNext_keeps, macFault_keeps]

theorem execVoterDisagreement_keeps {t : Nat} {dissenter : Option Nat}
    (e : execVoterDisagreement t dissenter s = .next s') : s'.Inv := by
  refine act_of_keeps h (fun u hu => ?_) e
  grind [enterState_keeps, logEvent_keeps, partWorn_keeps, State.Inv.others]

theorem execQclkRestore_keeps {t : Nat} (e : execQclkRestore t s = .next s') : s'.Inv := by
  refine act_of_keeps h (fun u hu => ?_) e
  grind [State.Inv.others]

theorem execCrossingRestart_keeps {t x : Nat} (e : execCrossingRestart t x s = .next s') : s'.Inv := by
  refine act_of_keeps h (fun u hu => ?_) e
  grind [emptyCrossing_keeps, rewriteStaged_keeps, setAlarm_keeps, crossUpd_keeps]

theorem execIntegrityStatus_keeps {t : Nat} {rq : Req} (e : execIntegrityStatus t rq s = .next s') : s'.Inv := by
  refine runCmd_keeps h _ _ _ _ (fun rq u hu => ?_) e
  grind [clearRead_keeps, State.Inv.others]

theorem execCrossStatus_keeps {t : Nat} {rq : Req} (e : execCrossStatus t rq s = .next s') : s'.Inv := by
  refine runCmd_keeps h _ _ _ _ (fun rq u hu => ?_) e
  grind [clearRead_keeps, clearCrossings_keeps]

theorem execChkStep_keeps {t : Nat} {rq : Req} (e : execChkStep t rq s = .next s') : s'.Inv := by
  refine runCmd_keeps h _ _ _ _ (fun rq u hu => ?_) e
  grind [unitMismatch_keeps]

theorem execStoreCrc_keeps {t : Nat} {rq : Req} (e : execStoreCrc t rq s = .next s') : s'.Inv := by
  refine runCmd_keeps h _ _ _ _ (fun rq u hu => ?_) e
  grind [newJob_inv]

theorem execStoreCrcDone_keeps {t job : Nat} (e : execStoreCrcDone t job s = .next s') : s'.Inv := by
  refine act_of_keeps h (fun u hu => ?_) e
  grind [endJob_keeps, unitHolds_keeps]

/-! ### Power and the seed bank (R450 to R465) -/

theorem execDomainPowerGood_keeps {t dom : Nat} (e : execDomainPowerGood t dom s = .next s') : s'.Inv := by
  refine act_of_keeps h (fun u hu => ?_) e
  grind [domUpd_keeps, domainOn_keeps]

theorem execStoreZeroed_keeps {t : Nat} (e : execStoreZeroed t s = .next s') : s'.Inv := by
  refine act_of_keeps h (fun u hu => ?_) e
  grind [domainOn_keeps, State.Inv.others]

theorem execDomainPowerGoodTimeout_keeps {t dom : Nat} (e : execDomainPowerGoodTimeout t dom s = .next s') : s'.Inv := by
  refine act_of_keeps h (fun u hu => ?_) e
  grind [domUpd_keeps, loseDomain_keeps]

theorem execDomainSwitchFault_keeps {t dom : Nat} (e : execDomainSwitchFault t dom s = .next s') : s'.Inv := by
  refine act_of_keeps h (fun u hu => ?_) e
  grind [loseD0_keeps, loseDomain_keeps]

theorem execRailOutOfWindow_keeps {t rail : Nat} {span : Bool} (e : execRailOutOfWindow t rail span s = .next s') : s'.Inv := by
  refine act_of_keeps h (fun u hu => ?_) e
  grind [railAlarm_keeps, railUpd_keeps, foldl_keeps, loseDomain_keeps, loseD0_keeps]

theorem execPowerStatus_keeps {t : Nat} {rq : Req} (e : execPowerStatus t rq s = .next s') : s'.Inv := by
  refine runCmd_keeps h _ _ _ _ (fun rq u hu => ?_) e
  grind [clearRead_keeps, foldl_keeps, State.Inv.others]

theorem execDomainSet_keeps {t : Nat} {rq : Req} (e : execDomainSet t rq s = .next s') : s'.Inv := by
  refine runCmd_keeps h _ _ _ _ (fun rq u hu => ?_) e
  grind [stage_keeps]

theorem execSeedSubst_keeps {t : Nat} {rq : Req} (e : execSeedSubst t rq s = .next s') : s'.Inv := by
  refine runCmd_keeps h _ _ _ _ (fun rq u hu => ?_) e
  grind [stage_keeps]

theorem execSeedConsent_keeps {t : Nat} {rq : Req} (e : execSeedConsent t rq s = .next s') : s'.Inv := by
  refine runCmd_keeps h _ _ _ _ (fun rq u hu => ?_) e
  grind [stage_keeps]

theorem execImageLoad_keeps {t : Nat} {rq : Req} (e : execImageLoad t rq s = .next s') : s'.Inv := by
  refine runCmd_keeps h _ _ _ _ (fun rq u hu => ?_) e
  dsimp only
  repeat refine refusing_keeps hu fun _ => ?_
  exact ⟨hu.sh, hu.cfg, ⟨Tab.wf_setList _ _ _ hu.drv.staging, hu.drv.tables⟩, hu.weft⟩

theorem execImageEnd_keeps {t : Nat} {rq : Req} (e : execImageEnd t rq s = .next s') : s'.Inv := by
  refine runCmd_keeps h _ _ _ _ (fun rq u hu => ?_) e
  dsimp only
  repeat refine refusing_keeps hu fun _ => ?_
  split
  · exact hu
  next hjob =>
    exact stagingFor_keeps (imageUpd_keeps (newJob_inv hu hjob) _ _) _ _

/-! ### Pairs (R418 to R449) -/

theorem execHeartbeatSend_keeps {t : Nat} (e : execHeartbeatSend t s = .next s') : s'.Inv := by
  refine act_of_keeps h (fun u hu => ?_) e
  grind [svSend_keeps, pairUpd_keeps]

theorem execDeltaResend_keeps {t : Nat} (e : execDeltaResend t s = .next s') : s'.Inv := by
  refine act_of_keeps h (fun u hu => ?_) e
  dsimp only
  split
  · exact foldl_keeps _ (fun v d hv => countPair_keeps (emitDelta_keeps hv d) _) _ (pairUpd_keeps hu _)
  · exact hu

theorem execMirrorStale_keeps {t : Nat} (e : execMirrorStale t s = .next s') : s'.Inv := by
  refine act_of_keeps h (fun u hu => ?_) e
  grind [askResync_keeps]

theorem execSelvedgeLost_keeps {t : Nat} (e : execSelvedgeLost t s = .next s') : s'.Inv := by
  refine act_of_keeps h (fun u hu => ?_) e
  grind [countPair_keeps, pairUpd_keeps, holdCheck_keeps, mirrorAlarm_keeps]

theorem execSelvedgeLaneFailure_keeps {t lane : Nat} (e : execSelvedgeLaneFailure t lane s = .next s') : s'.Inv := by
  refine act_of_keeps h (fun u hu => ?_) e
  grind [partWorn_keeps, pairUpd_keeps]

theorem execHbInEdge_keeps {t : Nat} (e : execHbInEdge t s = .next s') : s'.Inv := by
  refine act_of_keeps h (fun u hu => ?_) e
  grind [pairUpd_keeps]

theorem execHbInLost_keeps {t : Nat} (e : execHbInLost t s = .next s') : s'.Inv := by
  refine act_of_keeps h (fun u hu => ?_) e
  grind [holdCheck_keeps, countPair_keeps, pairUpd_keeps]

theorem execWitnessAbsent_keeps {t w : Nat} (e : execWitnessAbsent t w s = .next s') : s'.Inv := by
  refine act_of_keeps h (fun u hu => ?_) e
  grind [witUpd_keeps, pairUpd_keeps]

theorem execWitnessPresent_keeps {t w : Nat} (e : execWitnessPresent t w s = .next s') : s'.Inv := by
  refine act_of_keeps h (fun u hu => ?_) e
  grind [witUpd_keeps]

theorem execStandbyEvaluation_keeps {t : Nat} (e : execStandbyEvaluation t s = .next s') : s'.Inv := by
  refine act_of_keeps h (fun u hu => ?_) e
  grind [holdCheck_keeps, uncertainAlarm_keeps, startPrompt_keeps, pairUpd_keeps, mirrorAlarm_keeps, takeOver_keeps]

theorem execPromptSwitchInstant_keeps {t : Nat} (e : execPromptSwitchInstant t s = .next s') : s'.Inv := by
  refine act_of_keeps h (fun u hu => ?_) e
  grind [giveUp_keeps, countPair_keeps, pairUpd_keeps, setRole_keeps]

theorem execMbbRoleChange_keeps {t : Nat} (e : execMbbRoleChange t s = .next s') : s'.Inv := by
  refine act_of_keeps h (fun u hu => ?_) e
  dsimp only
  split
  · split
    · split
      · refine resumeSequencers_keeps (startNotices_keeps (countPair_keeps (pairUpd_keeps (setRole_keeps ?_ _) _) _) _)
        exact ⟨hu.sh, hu.cfg, hu.drv, ⟨hu.weft.notices⟩⟩
      · exact pairUpd_keeps (giveUp_keeps hu) _
    · exact hu
  · exact hu

theorem execReturnHoldoffExpiry_keeps {t : Nat} (e : execReturnHoldoffExpiry t s = .next s') : s'.Inv := by
  refine act_of_keeps h (fun u hu => ?_) e
  grind [pairUpd_keeps]

theorem execPairStatus_keeps {t : Nat} {rq : Req} (e : execPairStatus t rq s = .next s') : s'.Inv := by
  refine runCmd_keeps h _ _ _ _ (fun rq u hu => ?_) e
  grind [clearRead_keeps, pairUpd_keeps]

theorem execPairSwitch_keeps {t : Nat} {rq : Req} (e : execPairSwitch t rq s = .next s') : s'.Inv := by
  refine runCmd_keeps h _ _ _ _ (fun rq u hu => ?_) e
  grind [startMbb_keeps]

theorem execPairDetach_keeps {t : Nat} {rq : Req} (e : execPairDetach t rq s = .next s') : s'.Inv := by
  refine runCmd_keeps h _ _ _ _ (fun rq u hu => ?_) e
  grind [stage_keeps]

theorem execMirrorResync_keeps {t : Nat} {rq : Req} (e : execMirrorResync t rq s = .next s') : s'.Inv := by
  refine runCmd_keeps h _ _ _ _ (fun rq u hu => ?_) e
  grind [stage_keeps, askResync_keeps]

/-! ### Beat boundaries and steps of loom time (R29 to R37) -/

theorem execScanConversionDone_keeps {t sc : Nat} {code : Int} {value : Word}
    (e : execScanConversionDone t sc code value s = .next s') : s'.Inv := by
  refine act_of_keeps h (fun u hu => ?_) e
  grind [holdResult_keeps, finishScan_keeps, endConversion_keeps]

theorem execBeatBoundary_keeps {t : Nat} {husks : List Nat} {late : Bool} {bad : List Nat}
    (e : execBeatBoundary t husks late bad s = .next s') : s'.Inv := by
  refine act_of_keeps h (fun u hu => unlessReset_keeps hu _ fun v hv => ?_) e
  dsimp only
  split
  · exact hv
  · exact boundaryAt_keeps (overrun_keeps (usedHusks_keeps hv _) _) _ _ _

theorem execLoomTimeStep_keeps {t : Nat} {work : BeatWork} (e : execLoomTimeStep t work s = .next s') : s'.Inv := by
  refine act_of_keeps h (fun u hu => ?_) e
  grind [unlessReset_keeps, stepTime_keeps, State.Inv.others]

/-! ### BOOT (R454 to R457) -/

theorem execNresetAssert_keeps {t : Nat} (e : execNresetAssert t s = .next s') : s'.Inv := by
  refine act_of_keeps h (fun u hu => ?_) e
  grind [dropToBoot_keeps, State.Inv.others]

theorem execNresetRelease_keeps {t : Nat} {rolePri hubidSel bootSel : Bool}
    (e : execNresetRelease t rolePri hubidSel bootSel s = .next s') : s'.Inv := by
  refine act_of_keeps h (fun u hu => ?_) e
  grind [bootStart_keeps, State.Inv.others]

theorem execRailInWindow_keeps {t rail : Nat} (e : execRailInWindow t rail s = .next s') : s'.Inv := by
  refine act_of_keeps h (fun u hu => ?_) e
  grind [railAlarm_keeps, railUpd_keeps, domUpd_keeps, bootStart_keeps]

theorem execRestartEntry_keeps {t : Nat} (e : execRestartEntry t s = .next s') : s'.Inv := by
  refine act_of_keeps h (fun u hu => unlessReset_keeps hu _ fun v hv => ?_) e
  split
  · split
    · exact bootStart_keeps (dropToBoot_keeps hv _) _
    · exact hv
  · exact hv

theorem execClockMonitorReport_keeps {t : Nat} {clk : Clock} {kind : ClockReport}
    (e : execClockMonitorReport t clk kind s = .next s') : s'.Inv := by
  refine act_of_keeps h (fun u hu => ?_) e
  dsimp only
  have h1 := fun hub on => clockAlarm_keeps (clocksChange_keeps (hub_keeps hu hub) clk) on
  split
  · have h2 := fun hub on => enterFault_keeps (logEvent_keeps (h1 hub on) 0x0408 0 0) .xiLost
    split
    · exact ⟨⟨(h2 _ _).sh.log, (h2 _ _).sh.irq, (h2 _ _).sh.work⟩, (h2 _ _).cfg, (h2 _ _).drv, (h2 _ _).weft⟩
    · exact h2 _ _
  · exact h1 _ _

theorem execClockRestored_keeps {t : Nat} {clk : Clock} (e : execClockRestored t clk s = .next s') : s'.Inv := by
  refine act_of_keeps h (fun u hu => ?_) e
  grind [bootWaits_keeps, clockAlarm_keeps, clocksChange_keeps, State.Inv.others]

theorem execEndOfBoot_keeps {t : Nat} (e : execEndOfBoot t s = .next s') : s'.Inv := by
  refine act_of_keeps h (fun u hu => ?_) e
  grind [unlessReset_keeps, bootWaits_keeps, endBoot_keeps, pairUpd_keeps]

theorem execJoinWaitExpiry_keeps {t : Nat} (e : execJoinWaitExpiry t s = .next s') : s'.Inv := by
  refine act_of_keeps h (fun u hu => ?_) e
  grind [endBoot_keeps]

end

/-- Every row of the command table keeps the invariant. -/
theorem exec_keeps {c : Instr} {s s' : State} (h : s.Inv) (e : exec c s = .next s') : s'.Inv := by
  cases c with
  | shuttleRequest => exact execShuttleRequest_keeps h _ _ _ _ _ e
  | spiWrite => exact execSpiWrite_keeps h e
  | spiRead => exact execSpiRead_keeps h e
  | spiPoll => exact execSpiPoll_keeps h e
  | spiInvalidOpcode _ op => exact execSpiInvalidOpcode_keeps (op := op) h e
  | spiFrameTimeout => exact execSpiFrameTimeout_keeps h e
  | claimIdleLapse => exact execClaimIdleLapse_keeps h e
  | jobResultExpiry => exact execJobResultExpiry_keeps h e
  | identify => exact reads_keep h e
  | status => exact execStatus_keeps h e
  | ping => exact reads_keep h e
  | release => exact execRelease_keeps h e
  | jobStatus => exact reads_keep h e
  | jobCancel => exact execJobCancel_keeps h e
  | restart => exact execRestart_keeps h e
  | restartEntry => exact execRestartEntry_keeps h e
  | eventRead => exact reads_keep h e
  | countersRead => exact execCountersRead_keeps h e
  | cfgOpen => exact execCfgOpen_keeps h e
  | paramRead => exact reads_keep h e
  | paramWrite => exact execParamWrite_keeps h e
  | commit => exact execCommit_keeps h e
  | checkOnly => exact execCheckOnly_keeps h e
  | commitNoEn => exact execCommitNoEn_keeps h e
  | cfgAbort => exact execCfgAbort_keeps h e
  | copyStatus => exact reads_keep h e
  | cfgSave => exact execCfgSave_keeps h e
  | enterConfig => exact execEnterConfig_keeps h e
  | start => exact execStart_keeps h e
  | stop => exact execStop_keeps h e
  | enterService => exact execEnterService_keeps h e
  | leaveService => exact execLeaveService_keeps h e
  | faultClear => exact execFaultClear_keeps h e
  | heddleState => exact reads_keep h e
  | leadStatus => exact execLeadStatus_keeps h e
  | excStatus => exact reads_keep h e
  | ovrCounters => exact execOvrCounters_keeps h e
  | threadProbe => exact execThreadProbe_keeps h e
  | convStatus => exact reads_keep h e
  | scSpot => exact execScSpot_keeps h e
  | scanRead => exact reads_keep h e
  | simulRead => exact reads_keep h e
  | scCounters => exact execScCounters_keeps h e
  | pathTest => exact execPathTest_keeps h e
  | pathTestDone => exact execPathTestDone_keeps h e
  | leadRes => exact execLeadRes_keeps h e
  | filterStatus => exact reads_keep h e
  | settleInfo => exact reads_keep h e
  | reedSwap => exact execReedSwap_keeps h e
  | reedSwapRelease => exact execReedSwapRelease_keeps h e
  | mainsStatus => exact reads_keep h e
  | coefRead => exact reads_keep h e
  | groupStatus => exact reads_keep h e
  | chTiming => exact reads_keep h e
  | instantCalc => exact reads_keep h e
  | timeStatus => exact reads_keep h e
  | warpPorts => exact execWarpPorts_keeps h e
  | syncReset => exact execSyncReset_keeps h e
  | timeSet => exact execTimeSet_keeps h e
  | eventSend => exact execEventSend_keeps h e
  | censusRead => exact reads_keep h e
  | linEval => exact reads_keep h e
  | cjStatus => exact reads_keep h e
  | bridgeZero => exact execBridgeZero_keeps h e
  | bridgeZeroDone => exact execBridgeZeroDone_keeps h e
  | calStatus => exact reads_keep h e
  | calRun => exact execCalRun_keeps h e
  | calRunDone => exact execCalRunDone_keeps h e
  | calCommit => exact execCalCommit_keeps h e
  | calDiscard => exact execCalDiscard_keeps h e
  | calRead => exact reads_keep h e
  | treadleStatus => exact reads_keep h e
  | treadleArm => exact execTreadleArm_keeps h e
  | treadleDisarm => exact execTreadleDisarm_keeps h e
  | treadleForce => exact execTreadleForce_keeps h e
  | bobbinStatus => exact reads_keep h e
  | compStatus => exact reads_keep h e
  | tioStatus => exact reads_keep h e
  | loopStatus => exact reads_keep h e
  | loopSet => exact execLoopSet_keeps h e
  | loopSelect => exact execLoopSelect_keeps h e
  | stimStatus => exact reads_keep h e
  | stimStart => exact execStimStart_keeps h e
  | stimStop => exact execStimStop_keeps h e
  | stimLoad => exact execStimLoad_keeps h e
  | stimTableEnd => exact execStimTableEnd_keeps h e
  | portStatus => exact execPortStatus_keeps h e
  | streamStatus => exact reads_keep h e
  | storeStatus => exact execStoreStatus_keeps h e
  | weftResend => exact execWeftResend_keeps h e
  | noticeRead => exact reads_keep h e
  | ptpStatus => exact reads_keep h e
  | winnowStatus => exact execWinnowStatus_keeps h e
  | winnowProbe => exact reads_keep h e
  | integrityStatus => exact execIntegrityStatus_keeps h e
  | crossStatus => exact execCrossStatus_keeps h e
  | chkStep => exact execChkStep_keeps h e
  | storeCrc => exact execStoreCrc_keeps h e
  | storeCrcDone => exact execStoreCrcDone_keeps h e
  | pairStatus => exact execPairStatus_keeps h e
  | pairSwitch => exact execPairSwitch_keeps h e
  | pairDetach => exact execPairDetach_keeps h e
  | mirrorResync => exact execMirrorResync_keeps h e
  | powerStatus => exact execPowerStatus_keeps h e
  | domainSet => exact execDomainSet_keeps h e
  | seedStatus => exact reads_keep h e
  | seedSubst => exact execSeedSubst_keeps h e
  | seedConsent => exact execSeedConsent_keeps h e
  | imageLoad => exact execImageLoad_keeps h e
  | imageEnd => exact execImageEnd_keeps h e
  | decompressionDone => exact execDecompressionDone_keeps h e
  | beatBoundary => exact execBeatBoundary_keeps h e
  | mbbRoleChange => exact execMbbRoleChange_keeps h e
  | domainPowerGood => exact execDomainPowerGood_keeps h e
  | domainPowerGoodTimeout => exact execDomainPowerGoodTimeout_keeps h e
  | storeZeroed => exact execStoreZeroed_keeps h e
  | plyLinkTrained => exact execPlyLinkTrained_keeps h e
  | synchronisingReset => exact execSynchronisingReset_keeps h e
  | catchUpReset => exact execCatchUpReset_keeps h e
  | loomTimeStep => exact execLoomTimeStep_keeps h e
  | plyWordArrival => exact execPlyWordArrival_keeps h e
  | plyLaneFailure => exact execPlyLaneFailure_keeps h e
  | outputSample => exact execOutputSample_keeps h e
  | frameClose => exact execFrameClose_keeps h e
  | winnowFrameStart => exact execWinnowFrameStart_keeps h e
  | winnowFrameDone => exact execWinnowFrameDone_keeps h e
  | winnowStallResume => exact execWinnowStallResume_keeps h e
  | portTransmit => exact execPortTransmit_keeps h e
  | tc0Token => exact execTc0Token_keeps h e
  | acknowledgement => exact execAcknowledgement_keeps h _ _ _ e
  | hostFrameReceived => exact execHostFrameReceived_keeps h _ _ _ _ e
  | arpRequest => exact execArpRequest_keeps h _ _ _ _ _ e
  | arpRefresh => exact execArpRefresh_keeps h e
  | arpRetry => exact execArpRetry_keeps h e
  | icmpEchoRequest => exact execIcmpEchoRequest_keeps h _ _ _ _ e
  | ptpSync => exact execPtpSync_keeps h _ _ _ e
  | ptpAnnounce => exact execPtpAnnounce_keeps h _ _ _ e
  | pdelayReq => exact execPdelayReq_keeps h _ _ _ _ _ e
  | portLinkChange => exact execPortLinkChange_keeps h e
  | warpTimeFrame => exact execWarpTimeFrame_keeps h e
  | timeFrameSend => exact execTimeFrameSend_keeps h e
  | delayRequestSend => exact execDelayRequestSend_keeps h e
  | delayRequest => exact execDelayRequest_keeps h e
  | warpEvent => exact execWarpEvent_keeps h e
  | resendRequest => exact execResendRequest_keeps h e
  | eventOrigination => exact execEventOrigination_keeps h e
  | warpEventTransmit => exact execWarpEventTransmit_keeps h e
  | warpPortStateChange => exact execWarpPortStateChange_keeps h e
  | warpLost => exact execWarpLost_keeps h e
  | warpReturn => exact execWarpReturn_keeps h e
  | censusLapse => exact execCensusLapse_keeps h e
  | modulatorRestart => exact execModulatorRestart_keeps h e
  | overrangeOnset => exact execOverrangeOnset_keeps h e
  | overrangeEnd => exact execOverrangeEnd_keeps h e
  | overvoltageTrip => exact execOvervoltageTrip_keeps h e
  | overvoltageClear => exact execOvervoltageClear_keeps h e
  | driverReconnect => exact execDriverReconnect_keeps h e
  | leadWatchHalfPeriod => exact execLeadWatchHalfPeriod_keeps h e
  | leadSuspect => exact execLeadSuspect_keeps h e
  | leadConfirmed => exact execLeadConfirmed_keeps h e
  | leadCleared => exact execLeadCleared_keeps h e
  | excitationExchange => exact execExcitationExchange_keeps h e
  | scanConversionDone => exact execScanConversionDone_keeps h e
  | simultaneousTrigger => exact execSimultaneousTrigger_keeps h e
  | scanListPass => exact execScanListPass_keeps h e
  | loopUpdate => exact execLoopUpdate_keeps h e
  | stimulusTick => exact execStimulusTick_keeps h e
  | sequencerEvaluation => exact execSequencerEvaluation_keeps h e
  | treadleTimerExpiry _ seq k => exact execTreadleTimerExpiry_keeps (seq := seq) (k := k) h e
  | treadleCounterReached _ seq k => exact execTreadleCounterReached_keeps (seq := seq) (k := k) h e
  | tioInputChange => exact execTioInputChange_keeps h e
  | tioLevelAccepted => exact execTioLevelAccepted_keeps h e
  | autoTimeout => exact execAutoTimeout_keeps h e
  | rearmEnd => exact execRearmEnd_keeps h e
  | recordComplete => exact execRecordComplete_keeps h e
  | scrubPass => exact execScrubPass_keeps h e
  | macResidueFailure => exact execMacResidueFailure_keeps h e
  | voterDisagreement => exact execVoterDisagreement_keeps h e
  | clockMonitorReport => exact execClockMonitorReport_keeps h e
  | qclkRestore => exact execQclkRestore_keeps h e
  | clockRestored => exact execClockRestored_keeps h e
  | crossingRestart => exact execCrossingRestart_keeps h e
  | railOutOfWindow => exact execRailOutOfWindow_keeps h e
  | railInWindow => exact execRailInWindow_keeps h e
  | domainSwitchFault => exact execDomainSwitchFault_keeps h e
  | nresetAssert => exact execNresetAssert_keeps h e
  | nresetRelease => exact execNresetRelease_keeps h e
  | joinWaitExpiry => exact execJoinWaitExpiry_keeps h e
  | endOfBoot => exact execEndOfBoot_keeps h e
  | heartbeatSend => exact execHeartbeatSend_keeps h e
  | selvedgeHeartbeat => exact execSelvedgeHeartbeat_keeps h _ _ e
  | snapshotFragment => exact execSnapshotFragment_keeps h _ _ _ _ _ e
  | delta => exact execDelta_keeps h _ _ _ e
  | deltaAcknowledgement => exact execDeltaAcknowledgement_keeps h _ _ _ e
  | deltaResend => exact execDeltaResend_keeps h e
  | resyncRequest => exact execResyncRequest_keeps h _ _ e
  | switchControl => exact execSwitchControl_keeps h _ _ _ e
  | promptSwitchInstant => exact execPromptSwitchInstant_keeps h e
  | selvedgeLost => exact execSelvedgeLost_keeps h e
  | selvedgeLaneFailure => exact execSelvedgeLaneFailure_keeps h e
  | hbInEdge => exact execHbInEdge_keeps h e
  | hbInLost => exact execHbInLost_keeps h e
  | witnessAbsent => exact execWitnessAbsent_keeps h e
  | standbyEvaluation => exact execStandbyEvaluation_keeps h e
  | returnHoldoffExpiry => exact execReturnHoldoffExpiry_keeps h e
  | mainsTrackingLost => exact execMainsTrackingLost_keeps h e
  | ptpSourceLost => exact execPtpSourceLost_keeps h e
  | ptpDelayReqSend => exact execPtpDelayReqSend_keeps h e
  | mirrorStale => exact execMirrorStale_keeps h e
  | witnessPresent => exact execWitnessPresent_keeps h e

/-- Settles O2: the front command runs on the state with the rest of the queue, and every row keeps the invariant. -/
theorem stepKeepsInvariant : Obligations.StepKeepsInvariant := by
  unfold Obligations.StepKeepsInvariant
  intro s s' h e
  unfold step at e
  split at e
  · cases e
    exact h
  · exact exec_keeps (h.queue _) e

end Sys2Proof.Machine

/-! SUPPORT. Reset and serial numbers (O3, O4, O6). -/

namespace Sys2Proof.Machine

open Sys2Proof

/-- Settles O3: every ring is empty, the pin is released, and every memory is the empty table. -/
theorem resetMeetsInvariant : Obligations.ResetMeetsInvariant := by
  unfold Obligations.ResetMeetsInvariant
  exact ⟨⟨Nat.zero_le _, by decide, fun _ e => nomatch e⟩, ⟨rfl, rfl, rfl, rfl, fun _ e => nomatch e⟩, ⟨rfl, fun _ => rfl⟩,
    ⟨Nat.zero_le _⟩⟩

/-- A configuration in which nothing is stored reads as the factory defaults. -/
@[simp] theorem PMem.word_nil (b o : Nat) : PMem.word [] b o = factory b o :=
  BitVec.xor_zero

/-- Only D0 is on at reset. -/
theorem reset_domOn (d : Nat) : State.reset.domOn d = true ↔ d = 0 := by
  by_cases h : d = 0
  · simp [State.domOn, State.reset, Tab.get, h]
  · simp only [State.domOn, State.reset, Tab.get, h, if_false, iff_false]
    decide

/-- Settles O4: the fields as they stand at reset, and those of tables and memories read at any index. -/
theorem resetState : Obligations.ResetState := by
  unfold Obligations.ResetState
  exact ⟨rfl, rfl, rfl, rfl, rfl, rfl, rfl, rfl, rfl, rfl, fun _ => rfl, fun _ => rfl, fun _ => rfl,
    fun b o => ⟨PMem.word_nil b o, PMem.word_nil b o⟩, reset_domOn⟩

/-! ### Serial numbers (R70) -/

/-- A number is newer where the difference lies in the lower half, short of 0. -/
theorem newer32_iff {a b : Nat} (ha : a < 2 ^ 32) (hb : b < 2 ^ 32) :
    newer32 a b = true ↔ 1 ≤ ((a : Int) - b) % 2 ^ 32 ∧ ((a : Int) - b) % 2 ^ 32 ≤ 2 ^ 31 - 1 := by
  rw [newer32, Bool.and_eq_true, decide_eq_true_eq, decide_eq_true_eq, diff32]
  omega

/-- Of two numbers at most one is newer. -/
theorem newer32_asymm {a b : Nat} (ha : a < 2 ^ 32) (hb : b < 2 ^ 32) (h : newer32 a b = true) : newer32 b a = false := by
  rw [Bool.eq_false_iff]
  intro k
  rw [newer32_iff ha hb] at h
  rw [newer32_iff hb ha] at k
  omega

/-- Numbers half the range apart are neither newer. -/
theorem newer32_half {a b : Nat} (ha : a < 2 ^ 32) (hb : b < 2 ^ 32) (h : ((a : Int) - b) % 2 ^ 32 = 2 ^ 31) :
    newer32 a b = false ∧ newer32 b a = false := by
  simp only [Bool.eq_false_iff, ne_eq, newer32_iff ha hb, newer32_iff hb ha]
  omega

/-- Of two usable copies that differ, the one whose number is newer is chosen (R71). -/
theorem copyChoice_differ (a b : Nat) : (copyChoice true true false a b).1
    = if newer32 b a then some true else if newer32 a b then some false else none := by
  simp only [copyChoice]
  split_ifs <;> simp_all

/-- Of two valid images, the newer one runs (R457). -/
theorem imageChoice_valid {s : State} (hA : s.pow.imageA.invalid = false) (hB : s.pow.imageB.invalid = false)
    (h : s.hub.bootSel = false) : s.imageChoice 0 = (if newer32 s.pow.imageB.seq s.pow.imageA.seq then 1 else 0, false) := by
  simp [State.imageChoice, hA, hB, h]

/-- Settles O6: the comparison by the difference, and each choice by the comparison. -/
theorem serialNumbersCompare : Obligations.SerialNumbersCompare := by
  unfold Obligations.SerialNumbersCompare
  intro a b ha hb
  have hasymm := newer32_asymm ha hb
  refine ⟨newer32_iff ha hb, by omega, newer32_half ha hb, ?_, ?_, fun s hA ea hB eb hsel => ?_⟩
  · rw [copyChoice_differ]
    cases newer32 b a <;> cases newer32 a b <;> simp
  · rw [copyChoice_differ]
    cases hba : newer32 b a
    · cases newer32 a b <;> simp
    · simp [newer32_asymm hb ha hba]
  · rw [imageChoice_valid hA hB hsel, ea, eb]

end Sys2Proof.Machine

/-! SUPPORT. How a message reaches the mailboxes (R40 to R52): what arrives is discarded or judged, what is judged is
taken or turned away, and a request that stands in front meets the tests that every command shares. -/

namespace Sys2Proof.Machine

open Sys2Proof

/-! ### What arrives -/

/-- The host port under which a message is judged: the SPI port has none. -/
def arrivalPort (src : Requester) (port : Nat) : Nat :=
  match src with
  | .spi => 0
  | .udp .. => port

/-- A hub that listens to a requester judges the message that it sends (R40, R41, R47). -/
theorem exec_arrival {s : State} {src : Requester} {port : Nat} (h : s.Listens src port) (t : Nat) (m : Bytes) :
    exec (arrival t port src m) s = act t s (arrive src (arrivalPort src port) m) := by
  obtain ⟨hr, hh⟩ := h
  cases src with
  | spi =>
    have e : s.cfg.active.spiEn = true := hh
    refine exec_congr (f := onSpi (arrive .spi 0 m)) rfl ?_
    simp [onSpi, e, unlessReset, hr, arrivalPort]
  | udp ip udp =>
    obtain ⟨hup, hc⟩ : s.portUp port = true ∧ s.crossHolds 6 = false := by simpa [State.hears] using hh
    have hup' : (tick t s).portUp port = true := hup
    have hc' : (tick t s).crossHolds 6 = false := hc
    refine exec_congr (f := fun s => if s.crossHolds 6 && s.portUp port && !s.hub.inReset then _ else unlessReset _ s) rfl ?_
    simp [hc', hup', unlessReset, hr, arrivalPort]

@[simp] theorem checked_pending (src : Requester) (m : Bytes) (s : State) : (checked src m s).pending = s.pending := by
  unfold checked; split <;> rfl

@[simp] theorem checked_hub (src : Requester) (m : Bytes) (s : State) : (checked src m s).hub = s.hub := by
  unfold checked; split <;> rfl

@[simp] theorem checked_sh (src : Requester) (m : Bytes) (s : State) : (checked src m s).sh = s.sh := by
  unfold checked; split <;> rfl

@[simp] theorem checked_cfg (src : Requester) (m : Bytes) (s : State) : (checked src m s).cfg = s.cfg := by
  unfold checked; split <;> rfl

@[simp] theorem checked_clk (src : Requester) (m : Bytes) (s : State) : (checked src m s).clk = s.clk := by
  unfold checked; split <;> rfl

/-- Check unit 2 is all that the check of a message touches. -/
theorem checked_quiet (rq : Req) (src : Requester) (m : Bytes) (s : State) : Quiet rq s (checked src m s) := by
  unfold checked
  split
  · exact Quiet.refl rq s
  · exact ⟨⟨_, _, _, _, rfl⟩, fun k hk => by simp [unitChecks, unitHolds, hk], fun _ _ => rfl, fun _ _ => rfl, ⟨_, rfl⟩⟩

/-- A message that fails a test of R47 is counted, in the next counter where it came over SPI (R78). -/
theorem arrive_discards {src : Requester} {port k : Nat} {m : Bytes} {s : State} (h : discardTest s.hub.hubId m = some k) :
    arrive src port m s = count78 (if src = .spi then k + 1 else k)
      (if src ≠ .spi ∧ k = 0 then unitMismatch 2 (checked src m s) else checked src m s) := by
  simp [arrive, h]

/-- A message that passes the tests of R47 is judged. -/
theorem arrive_judges {src : Requester} {port : Nat} {m : Bytes} {s : State} (h : discardTest s.hub.hubId m = none) :
    arrive src port m s = judge (beAt m 1 1) (parseReq src port m) (checked src m s) := by
  simp [arrive, h]

/-- A message that fails test k of R47 leaves its count, and over UDP its mismatch where its CRC fails. -/
theorem exec_arrival_discards {s : State} {src : Requester} {port k : Nat} {m : Bytes} (h : s.Listens src port) (t : Nat)
    (hd : discardTest s.hub.hubId m = some k) :
    exec (arrival t port src m) s = .next (count78 (if src = .spi then k + 1 else k)
      (if src ≠ .spi ∧ k = 0 then unitMismatch 2 (checked src m (tick t s)) else checked src m (tick t s))) :=
  exec_of_act (exec_arrival h t m) (arrive_discards hd) (by
    rw [count78_pending]
    split <;> simp)

/-- Settles O8: each way to fail is one branch of the discard test. -/
theorem messagesDiscardedInOrder : Obligations.MessagesDiscardedInOrder := by
  intro s t port src m h drop u bad
  have hdrop : ∀ k, k ≠ 0 → discardTest s.hub.hubId m = some k → drop k u := by
    intro k hk hd
    have e := exec_arrival_discards h t hd
    rwa [if_neg (c := src ≠ .spi ∧ k = 0) (fun x => hk x.2)] at e
  refine ⟨fun hl => hdrop 2 (by decide) (if_pos (by omega)), fun hl hn => ?_⟩
  have hf : ¬ (m.length ≠ 20 + beAt m 4 2 ∨ beAt m 4 2 > 1004) := by omega
  refine ⟨fun hc => ?_, fun hc hv => hdrop 2 (by decide) ?_, fun hc hv h1 h2 => hdrop 4 (by decide) ?_⟩
  · have e := exec_arrival_discards (m := m) h t (k := 0) (by simp only [discardTest, if_neg hf, hc]; rfl)
    have hb : (if src ≠ .spi ∧ 0 = 0 then unitMismatch 2 (checked src m (tick t s)) else checked src m (tick t s)) = bad := by
      by_cases hs : src = .spi
      · exact (if_neg fun x => x.1 hs).trans (if_pos hs).symm
      · exact (if_pos ⟨hs, rfl⟩).trans (if_neg hs).symm
    rw [hb] at e
    exact e
  · simp [discardTest, hf, hc, hv]
  · simp [discardTest, hf, hc, hv, h1, h2]

/-! ### The request in a message -/

/-- The last four bytes that withCrc adds pass the check. -/
theorem crcPasses_withCrc (b : Bytes) : crcPasses (withCrc b) = true := by
  have hn : (b ++ beWord (crc32c b)).length - 4 = b.length := by simp
  have e : (crc32c b).toNat % 256 ^ 4 = (crc32c b).toNat := Nat.mod_eq_of_lt (crc32c b).isLt
  simp only [crcPasses, withCrc, hn, List.take_left, Bool.and_eq_true, beq_iff_eq]
  refine ⟨by simp, ?_⟩
  rw [beAt_skip _ _ _ _ (Nat.le_refl _), Nat.sub_self, beWord, beAt_only, e]

/-- The fields of a request's message (R45). -/
theorem reqBytes_fields {rq : Req} (h : Fits rq) {rev hub : Nat} (hr : rev < 256) (hh : hub < 2 ^ 16) :
    beAt (reqBytes rq rev hub) 0 1 = rq.alive * 16 + rq.mb ∧ beAt (reqBytes rq rev hub) 1 1 = rev
      ∧ beAt (reqBytes rq rev hub) 2 2 = rq.cmd ∧ beAt (reqBytes rq rev hub) 4 2 = rq.payload.length
      ∧ beAt (reqBytes rq rev hub) 6 2 = hub ∧ beAt (reqBytes rq rev hub) 8 4 = rq.seq
      ∧ beAt (reqBytes rq rev hub) 12 4 = rq.b12
      ∧ slice (reqBytes rq rev hub) 16 rq.payload.length = rq.payload := by
  obtain ⟨hmb, hal, hcmd, hseq, hb, hlen⟩ := h
  refine ⟨?_, ?_, ?_, ?_, ?_, ?_, ?_, ?_⟩
  case refine_8 =>
    simp only [reqBytes, withCrc]
    rw [slice_append_left _ _ _ _ (by simp; omega), slice_append_right _ _ _ _ (by simp)]
    exact slice_all _ _ rfl
  all_goals
    simp only [reqBytes, withCrc, List.append_assoc, beAt_skip, beAt_head, beBytes_length, Nat.reduceLeDiff, Nat.reduceSub,
      Nat.le_refl]
    omega

/-- Such a message is as long as R47 asks. -/
theorem reqBytes_length (rq : Req) (rev hub : Nat) : (reqBytes rq rev hub).length = 20 + rq.payload.length := by
  simp [reqBytes, withCrc]
  omega

/-- The request in the message of a request is that request. -/
theorem parseReq_reqBytes {rq : Req} (h : Fits rq) {rev hub : Nat} (hr : rev < 256) (hh : hub < 2 ^ 16) :
    parseReq rq.src rq.port (reqBytes rq rev hub) = rq := by
  obtain ⟨h0, -, h2, h4, -, h8, h12, hp⟩ := reqBytes_fields h hr hh
  have hmb := h.mb
  have e1 : (rq.alive * 16 + rq.mb) % 8 = rq.mb := by omega
  have e2 : (rq.alive * 16 + rq.mb) / 16 = rq.alive := by omega
  simp only [parseReq, h0, h2, h4, h8, h12, hp, e1, e2]

/-- The message of a request for this hub passes the tests of R47. -/
theorem discardTest_reqBytes {rq : Req} (h : Fits rq) {rev hub : Nat} (hr : rev < 256) (hh : hub < 2 ^ 16) {id : Option Nat}
    (hid : hub = 0xFFFF ∨ id = some hub) : discardTest id (reqBytes rq rev hub) = none := by
  obtain ⟨h0, -, -, h4, h6, -, -, -⟩ := reqBytes_fields h hr hh
  have hmb := h.mb
  have hlen := h.len
  have hbit : nbit (rq.alive * 16 + rq.mb) 3 = false := by
    rw [nbit, Nat.testBit_eq_decide_div_mod_eq]
    simp; omega
  have hd : ¬ (hub ≠ 0xFFFF ∧ some hub ≠ id) := by
    rintro ⟨h1, h2⟩
    exact hid.elim h1 fun e => h2 e.symm
  have hl : ¬ ((reqBytes rq rev hub).length ≠ 20 + rq.payload.length ∨ rq.payload.length > 1004) := by
    rw [reqBytes_length]; omega
  have hc : crcPasses (reqBytes rq rev hub) = true := crcPasses_withCrc _
  simp only [discardTest, h0, h4, h6, if_neg hl, hbit, if_neg hd, hc, Bool.not_true, Bool.false_eq_true, if_false]

/-- A request's message brings the request before the judge. -/
theorem exec_arrival_request {s : State} {rq : Req} {t rev hub : Nat} (h : s.Listens rq.src rq.port) (hf : Fits rq)
    (hr : rev < 256) (hh : hub < 2 ^ 16) (hid : hub = 0xFFFF ∨ s.hub.hubId = some hub) (hp : rq.src = .spi → rq.port = 0) :
    exec (arrival t rq.port rq.src (reqBytes rq rev hub)) s
      = act t s fun u => judge rev rq (checked rq.src (reqBytes rq rev hub) u) := by
  refine exec_congr (exec_arrival h t _) ?_
  have e : arrivalPort rq.src rq.port = rq.port := by
    cases hs : rq.src with
    | spi => exact (hp hs).symm
    | udp ip u => rfl
  have hd : discardTest (tick t s).hub.hubId (reqBytes rq rev hub) = none := discardTest_reqBytes hf hr hh hid
  rw [e, arrive_judges hd, parseReq_reqBytes hf hr hh, (reqBytes_fields hf hr hh).2.1]

/-! ### What the judge does -/

@[simp] theorem answerUnknown_pending (l : List Req) (s : State) : (answerUnknown l s).pending = s.pending := by
  induction l generalizing s with
  | nil => rfl
  | cons q r ih =>
    rw [answerUnknown]
    split
    · rfl
    · rw [ih]
      split <;> simp

@[simp] theorem takeOrUnknown_pending (rq : Req) (s : State) : (takeOrUnknown rq s).pending = s.pending := by
  simp [takeOrUnknown, nextTaken]

@[simp] theorem judgeAlive_pending (rq : Req) (m : Mailbox) (s : State) : (judgeAlive rq m s).pending = s.pending := by
  unfold judgeAlive refuseUntaken
  generalize (rq.alive + 16 - m.alive % 16) % 16 = d
  grind [answer_pending, deliver_pending, count78_pending, takeOrUnknown_pending]

@[simp] theorem judge_pending (rev : Nat) (rq : Req) (s : State) : (judge rev rq s).pending = s.pending := by
  unfold judge refuseUntaken
  grind [answer_pending, count78_pending, takeOrUnknown_pending, judgeAlive_pending]

/-- A request taken behind a known one, or of a known command, joins the queue. -/
theorem takeOrUnknown_joins {rq : Req} {s : State} (hq : ∀ q, s.sh.taken.head? = some q → cmdKnown q.cmd = true)
    (h : cmdKnown rq.cmd = true ∨ s.sh.taken ≠ []) :
    takeOrUnknown rq s = (takeReq rq s).withTaken (s.sh.taken ++ [rq]) := by
  show answerUnknown ((takeReq rq s).sh.taken ++ [rq]) ((takeReq rq s).withTaken _) = _
  rw [takeReq_taken]
  cases ht : s.sh.taken with
  | nil =>
    have hk : cmdKnown rq.cmd = true := h.resolve_right fun x => x ht
    rw [List.nil_append, answerUnknown, if_pos hk]
    rfl
  | cons q r =>
    have hk : cmdKnown q.cmd = true := hq q (by rw [ht]; rfl)
    rw [List.cons_append, answerUnknown, if_pos hk]
    rfl

/-- A request of no command that stands in front is refused at once (R46, R50). -/
theorem takeOrUnknown_refuses {rq : Req} {s : State} (hs : s.hub.state ≠ .safe) (ht : s.sh.taken = [])
    (hk : cmdKnown rq.cmd = false) :
    takeOrUnknown rq s
      = (reply rq (.no (if rq.b12 ≠ 0 then 0x0302 else 0x0809)) ((takeReq rq s).withTaken [rq])).withTaken [] := by
  have h1 : ((takeReq rq s).withTaken [rq]).hub.state ≠ .safe := by
    have e : (takeReq rq s).hub = s.hub := by unfold takeReq; split <;> rfl
    simpa [e] using hs
  show answerUnknown ((takeReq rq s).sh.taken ++ [rq]) ((takeReq rq s).withTaken ((takeReq rq s).sh.taken ++ [rq])) = _
  rw [takeReq_taken, ht, List.nil_append, answerUnknown, hk, if_neg (by decide), if_neg h1]
  rfl

/-- The event log reads nothing of what answering a request touches. -/
theorem Quiet.log {rq : Req} {u s : State} (h : Quiet rq u s) (a b c : Nat) :
    Quiet rq (logEvent a b c u) (logEvent a b c s) := by
  obtain ⟨⟨mail, low, ports, units, rfl⟩, hu, hm, ho, hp⟩ := h
  refine ⟨⟨mail, low, ports, units, ?_⟩, hu, ?_, ho, hp⟩
  · cases hx : u.sh.xiFrom <;> simp [logEvent, Shuttle.caughtUp, hx]
  · intro m hne
    simpa [logEvent] using hm m hne

/-- Another queue of requests changes nothing of what is quiet. -/
theorem Quiet.withTaken {rq : Req} {u s : State} (h : Quiet rq u s) (l : List Req) :
    Quiet rq (u.withTaken l) (s.withTaken l) := by
  obtain ⟨⟨mail, low, ports, units, rfl⟩, hu, hm, ho, hp⟩ := h
  exact ⟨⟨mail, low, ports, units, rfl⟩, hu, hm, ho, hp⟩

/-- A request that is taken and is known, or stands behind another, waits for the supervisor (R39, R50). -/
theorem waits_of_taken {c : Instr} {s : State} {rq : Req} {t : Nat} {m : Bytes}
    (he : exec c s = act t s fun u => takeOrUnknown rq (checked rq.src m u)) (hs : s.hub.state ≠ .safe) (hd : s.Held)
    (hk : cmdKnown rq.cmd = true ∨ s.sh.taken ≠ []) : Waits c t s rq := by
  have hs' : (checked rq.src m (tick t s)).hub.state ≠ .safe := by simpa using hs
  have ht : (checked rq.src m (tick t s)).sh = s.sh := by simp
  have hr := takeReq_running (rq := rq) hs' rq.cmd
  refine does_of_act he (takeOrUnknown_joins (by rw [ht]; exact hd.front) (by rw [ht]; exact hk)) ?_
  rw [ht]
  refine ⟨hr.holds, hr.busy, hr.resp, ?_, ?_⟩
  · have e : (takeReq rq (checked rq.src m (tick t s))).sh.mail.get rq.mb
        = { (s.sh.mail.get rq.mb) with
            claim := some rq.src, alive := rq.alive, seq := rq.seq, resp := none, busy := true
            unread := if rq.src = .spi then none else (s.sh.mail.get rq.mb).unread, lastTaken := (tick t s).clk.loom } := by
      simp [takeReq, hs, irq, mailUpd]
    exact congrArg Mailbox.lastTaken e
  · have hp : (takeReq rq (checked rq.src m (tick t s))).pending = s.pending := by
      unfold takeReq; split <;> simp
    have e := (((checked_quiet rq rq.src m (tick t s)).trans hr.quiet).withTaken (s.sh.taken ++ [rq]))
    rw [← hp]
    exact e

/-- A refusal with no particular place is logged and answered (R48, R77). -/
theorem reply_no (rq : Req) (reason : Nat) (s : State) : reply rq (.no reason) s
    = finish rq 4 reason (atIndex 0xFFFF) (logEvent reason rq.cmd (reqDetail rq.mb rq.seq) s) :=
  congrArg (fun p => finish rq 4 reason p (logEvent reason rq.cmd (reqDetail rq.mb rq.seq) s)) (refused_atIndex 0xFFFF)

/-- The refusal of a request, whatever requests wait. -/
theorem refusal_withTaken (rq : Req) (reason : Nat) (s : State) (l r : List Req) :
    (reply rq (.no reason) (s.withTaken l)).withTaken r
      = (finish rq 4 reason (atIndex 0xFFFF) (logEvent reason rq.cmd (reqDetail rq.mb rq.seq) s)).withTaken r := by
  have hl : ∀ a b c, logEvent a b c (s.withTaken l) = (logEvent a b c s).withTaken l := fun a b c => by
    cases hx : s.sh.xiFrom <;> simp [logEvent, Shuttle.caughtUp, State.withTaken, hx]
  rw [reply_no, hl]
  unfold finish deliver
  cases rq.src <;> rfl

/-- A request of no command that is taken in front is refused (R46, R50). -/
theorem refuses_of_unknown {c : Instr} {s : State} {rq : Req} {t : Nat} {m : Bytes}
    (he : exec c s = act t s fun u => takeOrUnknown rq (checked rq.src m u)) (hs : s.hub.state ≠ .safe)
    (hk : cmdKnown rq.cmd = false) (ht : s.sh.taken = []) :
    Refuses c t s rq rq.cmd (if rq.b12 = 0 then 0x0809 else 0x0302) (atIndex 0xFFFF) := by
  have hs' : (checked rq.src m (tick t s)).hub.state ≠ .safe := by simpa using hs
  have ht' : (checked rq.src m (tick t s)).sh.taken = [] := by simpa using ht
  have he' := takeOrUnknown_refuses hs' ht' hk
  rw [show (if rq.b12 ≠ 0 then 0x0302 else 0x0809) = if rq.b12 = 0 then 0x0809 else 0x0302 by
    by_cases hb : rq.b12 = 0 <;> simp [hb]] at he'
  generalize (if rq.b12 = 0 then 0x0809 else 0x0302) = reason at he'
  rw [refusal_withTaken] at he'
  have hr := (takeReq_running (rq := rq) hs' rq.cmd).log reason rq.cmd (reqDetail rq.mb rq.seq)
  obtain ⟨ha, hq⟩ := finish_answers hr rq.cmd 4 reason (atIndex 0xFFFF)
  have hq' := (((checked_quiet rq rq.src m (tick t s)).log reason rq.cmd (reqDetail rq.mb rq.seq)).trans hq).withTaken []
  rw [State.withTaken_nil (s := logEvent reason rq.cmd _ (tick t s)) ht] at hq'
  have hp := congrArg State.pending he'
  rw [takeOrUnknown_pending, checked_pending, tick_pending] at hp
  exact ⟨_, exec_of_act he he' hp.symm, hp.symm, ha, hq'⟩

/-- What a listening hub in a state other than SAFE does with a request's message. -/
theorem exec_arrival_of_judge {s : State} {rq : Req} {t rev hub : Nat} {u : State} (h : s.Listens rq.src rq.port)
    (hf : Fits rq) (hr : rev < 256) (hh : hub < 2 ^ 16) (hid : hub = 0xFFFF ∨ s.hub.hubId = some hub)
    (hp : rq.src = .spi → rq.port = 0)
    (hj : judge rev rq (checked rq.src (reqBytes rq rev hub) (tick t s)) = u) :
    exec (arrival t rq.port rq.src (reqBytes rq rev hub)) s = .next u :=
  exec_of_act (exec_arrival_request h hf hr hh hid hp) hj (by rw [← hj]; simp)

/-- Settles O9: the judge's rows in order, then a request taken. -/
theorem requestsMeetClaimsFirst : Obligations.RequestsMeetClaimsFirst := by
  intro s t rev hub rq h hd hf hr hh hid hp c u m
  have hu : u.hub = s.hub := checked_hub ..
  have hm : u.sh.mail.get rq.mb = m := by simp [u, m]
  have hc : u.cfg = s.cfg := checked_cfg ..
  have ends : ∀ {v : State}, judge rev rq u = v → exec c s = .next v := exec_arrival_of_judge h hf hr hh hid hp
  refine ⟨fun hs => ends ?_, fun hs hv => ends ?_, fun hs hv h1 h2 => ends ?_, fun hs hv h1 h2 h3 => ends ?_,
    fun hs hv h1 h2 => ?_⟩
  · rw [judge, hu, if_pos hs]
    rfl
  · rw [judge, hu, if_neg hs, if_pos hv]
    rfl
  · rw [judge, hu, if_neg hs, if_neg (fun x => x hv), hm, if_pos ⟨Option.isSome_iff_ne_none.2 h1, h2⟩]
    rfl
  · have hn : ¬ (m.claim.isSome ∧ m.claim ≠ some rq.src) := fun x => h1.elim (fun e => by simp [e] at x) x.2
    rw [judge, hu, if_neg hs, if_neg (fun x => x hv), hm, if_neg hn, hc, if_pos ⟨h2, h3⟩]
    rfl
  · have hn : ¬ (m.claim.isSome ∧ m.claim ≠ some rq.src) := fun x => by simp [h1] at x
    have hn' : ¬ (rq.src ≠ .spi ∧ s.cfg.active.spiReserve rq.mb = true) := fun x =>
      h2.elim x.1 fun e => by simp [e] at x
    have he : exec c s = act t s fun u => takeOrUnknown rq (checked rq.src (reqBytes rq rev hub) u) := by
      refine exec_congr (exec_arrival_request h hf hr hh hid hp) ?_
      show judge rev rq u = takeOrUnknown rq u
      rw [judge, hu, if_neg hs, if_neg (fun x => x hv), hm, if_neg hn, hc, if_neg hn', if_pos h1]
    exact ⟨waits_of_taken he hs hd, fun hk ht => refuses_of_unknown he hs hk ht⟩

/-- A request to its own mailbox meets the alive rule (R50). -/
theorem judge_of_claimed {s : State} {rq : Req} (hs : s.hub.state ≠ .safe)
    (hc : (s.sh.mail.get rq.mb).claim = some rq.src) (hr : rq.src = .spi ∨ s.cfg.active.spiReserve rq.mb = false) :
    judge 4 rq s = judgeAlive rq (s.sh.mail.get rq.mb) s := by
  have hr' : ¬ (rq.src ≠ .spi ∧ s.cfg.active.spiReserve rq.mb = true) := fun x => hr.elim x.1 fun e => by simp [e] at x
  have hn : ¬ ((s.sh.mail.get rq.mb).claim.isSome ∧ (s.sh.mail.get rq.mb).claim ≠ some rq.src) := fun x => x.2 hc
  have hn' : (s.sh.mail.get rq.mb).claim ≠ none := by simp [hc]
  simp only [judge, if_neg hs, ne_eq, not_true_eq_false, if_false]
  rw [if_neg (by simpa using hn), if_neg (by simpa using hr'), if_neg hn']

/-- Settles O10: each row of the table of R50 is one branch of judgeAlive. -/
theorem aliveRuleJudgesRequests : Obligations.AliveRuleJudgesRequests := by
  intro s t hub rq h hd hf hh hid hp hs hcl hres c u m d refused
  have hj : judge 4 rq u = judgeAlive rq m u := by
    have hm : u.sh.mail.get rq.mb = m := by simp [u, m]
    have e := judge_of_claimed (s := u) (rq := rq) (by simpa [u] using hs) (by rw [hm]; exact hcl) (by simpa [u] using hres)
    rwa [hm] at e
  have ends : ∀ {v : State}, judgeAlive rq m u = v → exec c s = .next v := fun e =>
    exec_arrival_of_judge h hf (by decide) hh hid hp (hj.trans e)
  have hdn : (((rq.alive + 16 - m.alive % 16) % 16 : Nat) : Int) = d := by
    simp only [d]; omega
  generalize hn : (rq.alive + 16 - m.alive % 16) % 16 = n at hdn
  have takes : d = 1 → rq.seq ≠ m.seq → m.busy = false →
      exec c s = act t s fun u => takeOrUnknown rq (checked rq.src (reqBytes rq 4 hub) u) := by
    intro h1 h2 h3
    refine exec_congr (exec_arrival_request h hf (by decide) hh hid hp) (hj.trans ?_)
    have e : n = 1 := by omega
    simp [judgeAlive, hn, e, h2, h3, u]
  refine ⟨fun h1 h2 h3 => ends ?_, fun h1 h2 h3 h4 => waits_of_taken (takes h1 h2 h3) hs hd h4,
    fun h1 h2 h3 h4 h5 => refuses_of_unknown (takes h1 h2 h3) hs h4 h5, fun h1 h2 => ends ?_, fun h1 h2 h3 => ends ?_,
    fun r h1 h2 h3 h4 => ends ?_, fun h1 h2 => ends ?_, fun h1 h2 => ends ?_, fun h1 => ends ?_⟩
  · rw [judgeAlive, hn, if_pos ⟨by omega, h2⟩, if_pos h3]
    rfl
  · rw [judgeAlive, hn, if_neg (fun x => x.2 h2), if_pos (by omega)]
    rfl
  · rw [judgeAlive, hn, if_neg (fun x => x.2 h2), if_neg (by omega), if_pos ⟨by omega, h2⟩]
    simp [h3]
  · rw [judgeAlive, hn, if_neg (fun x => x.2 h2), if_neg (by omega), if_pos ⟨by omega, h2⟩]
    simp [h3, h4]
  · rw [judgeAlive, hn, if_neg (fun x => by omega), if_neg (by omega), if_neg (fun x => h2 x.2), if_pos (by omega)]
    rfl
  · rw [judgeAlive, hn, if_neg (fun x => by omega), if_neg (by omega), if_neg (fun x => by omega), if_neg (by omega),
      if_pos (by omega)]
    rfl
  · rw [judgeAlive, hn, if_neg (fun x => by omega), if_neg (by omega), if_neg (fun x => by omega), if_neg (by omega),
      if_neg (by omega)]
    rfl

end Sys2Proof.Machine

/-! SUPPORT. What every row of the command set does before its own body (R39, R46, R50, R58 to R61). -/

namespace Sys2Proof.Machine

open Sys2Proof

/-- A row of the command set: the tests that its rules name are those that R59 and R60 give for its code. -/
def RunsAs (c : Instr) (t : Nat) (rq : Req) (code : Nat) : Prop :=
  ∃ (rules : Rules) (body : Req → State → Reply × State), (∀ s, exec c s = runCmd rules body t rq s) ∧ rules.code = code
    ∧ cmdKnown code = true ∧ (∀ h, h ≠ .safe → rules.legal h = legalIn code h)
    ∧ rules.standbyNo = standbyRefuses.contains code

/-- The tables of R59, R60 and R74 agree with every row of the command set. -/
theorem runsAs_of_requestOf {c : Instr} {t : Nat} {rq : Req} {code : Nat} (h : requestOf c = some (t, rq, code)) :
    RunsAs c t rq code := by
  unfold requestOf at h
  split at h
  case h_97 => cases h
  all_goals
    cases h
    refine ⟨_, _, fun _ => rfl, rfl, by decide, fun h hs => ?_, by decide⟩
    cases h with
    | safe => exact absurd rfl hs
    | _ => rfl

@[simp] theorem refuseUntaken_taken (rq : Req) (reason : Nat) (counter : Option Nat) (s : State) :
    (refuseUntaken rq reason counter s).sh.taken = s.sh.taken := by
  cases counter <;> simp [refuseUntaken, count78]

/-- A request that the alive rule does not let in joins no queue (R50). -/
theorem judgeAlive_turns_away {rq : Req} {m : Mailbox} {s : State}
    (h : ¬ ((rq.alive + 16 - m.alive % 16) % 16 = 1 ∧ rq.seq ≠ m.seq ∧ m.busy = false)) :
    (judgeAlive rq m s).sh.taken = s.sh.taken := by
  unfold judgeAlive
  generalize (rq.alive + 16 - m.alive % 16) % 16 = d at h
  by_cases h1 : d = 1 ∧ rq.seq ≠ m.seq
  · have hb : m.busy = true := by simpa [h1] using h
    simp [h1, hb]
  · simp only [if_neg h1]
    split
    · simp
    · split
      · split <;> simp [count78]
      · split
        · simp
        · split <;> simp

/-- A request that arrives and that its mailbox turns away leaves the queue of requests as it is (R50). -/
theorem judge_turns_away {rq : Req} {s : State} (ha : ¬ s.Admits rq) : (judge 4 rq s).sh.taken = s.sh.taken := by
  by_cases hs : s.hub.state = .safe
  · rw [judge, if_pos hs, answer_sh_taken]
  rw [judge, if_neg hs, if_neg (by simp)]
  by_cases hclaim : (s.sh.mail.get rq.mb).claim.isSome ∧ (s.sh.mail.get rq.mb).claim ≠ some rq.src
  · rw [if_pos hclaim, refuseUntaken_taken]
  rw [if_neg hclaim]
  by_cases hres : rq.src ≠ .spi ∧ s.cfg.active.spiReserve rq.mb = true
  · rw [if_pos hres, refuseUntaken_taken]
  have hr : rq.src ≠ .spi → s.cfg.active.spiReserve rq.mb = false := fun h => by simpa using fun e => hres ⟨h, e⟩
  have hn : (s.sh.mail.get rq.mb).claim ≠ none := fun hn => ha ⟨hr, .inl hn⟩
  have hc : (s.sh.mail.get rq.mb).claim = some rq.src := by
    by_contra e
    exact hclaim ⟨Option.isSome_iff_ne_none.2 hn, e⟩
  rw [if_neg hres, if_neg hn]
  exact judgeAlive_turns_away fun h => ha ⟨hr, .inr ⟨hc, h⟩⟩

/-- In SAFE a request that arrives is answered, and not taken (R61). -/
theorem judge_safe {s : State} (h : s.hub.state = .safe) (rev : Nat) (rq : Req) : judge rev rq s = answer rq 5 0x0102 [] s := by
  rw [judge, if_pos h]

/-- The effect of a command, where it has kept the queue. -/
theorem act_eq {t : Nat} {s u : State} {f : State → State} (hf : f (tick t s) = u) (hp : u.pending = s.pending) :
    act t s f = .next u := by
  rw [act, hf, ← hp]

section
variable {c : Rules} {body : Req → State → Reply × State} {t : Nat} {rq : Req} {s : State}

/-- A row does nothing while the hub is held in reset. -/
theorem runCmd_reset (h : s.hub.inReset = true) : runCmd c body t rq s = .next (tick t s) := by
  have h' : (tick t s).hub.inReset = true := h
  simp only [runCmd, act, unlessReset, h', if_true]
  rfl

/-- A row whose request is not in front waits its turn. -/
theorem runCmd_waits (hr : s.hub.inReset = false) (ht : s.sh.taken ≠ [])
    (hq : s.sh.taken.head? ≠ some { rq with cmd := c.code }) : runCmd c body t rq s = .next (tick t s) := by
  obtain ⟨q, r, hl⟩ := List.exists_cons_of_ne_nil ht
  have hne : q ≠ { rq with cmd := c.code } := fun e => hq (by rw [hl, e]; rfl)
  have hl' : (tick t s).sh.taken = q :: r := hl
  have hr' : (tick t s).hub.inReset = false := hr
  refine congrArg Host.Outcome.next ?_
  simp only [unlessReset, hr', hl', List.isEmpty_cons, Bool.false_and, Bool.false_eq_true, if_false, if_neg hne]
  rfl

/-- A row whose request is not heard, or is turned away, leaves it at that. -/
theorem runCmd_alone (hr : s.hub.inReset = false) (ht : s.sh.taken = []) {u : State}
    (hu : (if s.hears rq.src rq.port then judge 4 { rq with cmd := c.code } (tick t s) else tick t s) = u)
    (hn : u.sh.taken = []) : runCmd c body t rq s = .next u := by
  have ht' : (tick t s).sh.taken = [] := ht
  have hr' : (tick t s).hub.inReset = false := hr
  have hh : (tick t s).hears rq.src rq.port = s.hears rq.src rq.port := rfl
  have hp : u.pending = s.pending := by
    rw [← hu]
    split <;> simp
  refine act_eq ?_ hp
  simp only [unlessReset, hr', ht', hh, List.isEmpty_nil, Bool.true_and, Bool.false_eq_true, if_false]
  rw [hu, hn]

/-- A request that is admitted meets its tests at once (R39, R50). -/
theorem runCmd_admits (hk : cmdKnown c.code = true) (hr : s.hub.inReset = false) (ht : s.sh.taken = [])
    (hh : s.hears rq.src rq.port = true) (hs : s.hub.state ≠ .safe) (ha : s.Admits rq) :
    runCmd c body t rq s = act t s fun u =>
      nextTaken (perform c body { rq with cmd := c.code } (takeReq { rq with cmd := c.code } u)) := by
  have hr' : (tick t s).hub.inReset = false := hr
  have ht' : (tick t s).sh.taken = [] := ht
  have hh' : (tick t s).hears rq.src rq.port = true := hh
  have hj := judge_admits (s := tick t s) { rq with cmd := c.code } hk hs ⟨ha.reserve, ha.claim⟩ ht
  have hn := State.withTaken_nil ((takeReq_taken { rq with cmd := c.code } (tick t s)).trans ht)
  refine act_congr ?_
  simp only [unlessReset, hr', ht', hh', hj, List.isEmpty_nil, Bool.and_self, Bool.false_eq_true, if_false, if_true,
    State.withTaken_taken]
  exact congrArg (fun v => nextTaken (perform c body { rq with cmd := c.code } v)) hn

/-- A request whose tests refuse it is refused, and nothing else changes (R48, R77). -/
theorem refuses_of_perform {i : Instr} {reason : Nat} (he : exec i s = runCmd c body t rq s) (hk : cmdKnown c.code = true)
    (hr : s.hub.inReset = false) (ht : s.sh.taken = []) (hh : s.hears rq.src rq.port = true) (hs : s.hub.state ≠ .safe)
    (ha : s.Admits rq)
    (hp : ∀ v : State, v.hub = s.hub →
      perform c body { rq with cmd := c.code } v = reply { rq with cmd := c.code } (.no reason) v) :
    Refuses i t s rq c.code reason (atIndex 0xFFFF) := by
  have hs' : (tick t s).hub.state ≠ .safe := hs
  have hv : (takeReq { rq with cmd := c.code } (tick t s)).hub = s.hub := by
    unfold takeReq; split <;> rfl
  have hn := State.withTaken_nil ((takeReq_taken { rq with cmd := c.code } (tick t s)).trans ht)
  obtain ⟨h1, h2⟩ := finish_answers ((takeReq_running (rq := rq) hs' c.code).log reason c.code (reqDetail rq.mb rq.seq)) c.code 4
    reason (atIndex 0xFFFF)
  have hf : nextTaken (perform c body { rq with cmd := c.code } (takeReq { rq with cmd := c.code } (tick t s)))
      = finish { rq with cmd := c.code } 4 reason (atIndex 0xFFFF)
        (logEvent reason c.code (reqDetail rq.mb rq.seq) (takeReq { rq with cmd := c.code } (tick t s))) := by
    rw [hp _ hv, reply_no]
    exact nextTaken_nil (by simp [ht])
  have hq : (takeReq { rq with cmd := c.code } (tick t s)).pending = s.pending := by
    unfold takeReq; split <;> rfl
  have hq' : (finish { rq with cmd := c.code } 4 reason (atIndex 0xFFFF)
      (logEvent reason c.code (reqDetail rq.mb rq.seq) (takeReq { rq with cmd := c.code } (tick t s)))).pending = s.pending := by
    rw [finish_pending, logEvent_pending, hq]
  exact ⟨_, exec_of_act (he.trans (runCmd_admits hk hr ht hh hs ha)) hf hq', hq', h1, h2⟩

end

/-- A response has left. -/
theorem deliver_sends {rq : Req} (r : Response) (s : State) : Sent rq r (deliver rq.src rq.port rq.mb (respBytes r rq.mb false) s) := by
  unfold Sent
  cases hs : rq.src <;> simp [deliver, irq, mailUpd, unitChecks, unitHolds]

/-- Settles O11: the row's own part of runCmd for each clause, with the tables of R59 and R60 from runsAs_of_requestOf. -/
theorem requestTestsInOrder : Obligations.RequestTestsInOrder := by
  intro c s t rq code hc refused
  obtain ⟨rules, body, he, rfl, hk, hl, hb⟩ := runsAs_of_requestOf hc
  refine ⟨fun hr => (he s).trans (runCmd_reset hr), fun hr ht hq => (he s).trans (runCmd_waits hr ht hq),
    fun hr ht hh => (he s).trans (runCmd_alone hr ht (if_neg (by simp [hh])) ht),
    fun hr ht hh hs ha => (he s).trans (runCmd_alone hr ht (if_pos hh) ?_), fun hr ht hh hs => ?_, fun hr ht hh hs ha => ?_⟩
  · have ha' : ¬ (tick t s).Admits { rq with cmd := rules.code } := fun x => ha ⟨x.reserve, x.claim⟩
    rw [judge_turns_away ha']
    exact ht
  · have e : judge 4 { rq with cmd := rules.code } (tick t s)
        = deliver rq.src rq.port rq.mb (respBytes ((tick t s).response { rq with cmd := rules.code } 5 0x0102 []) rq.mb false)
          (tick t s) := judge_safe (s := tick t s) hs 4 _
    have hp : (judge 4 { rq with cmd := rules.code } (tick t s)).pending = s.pending := by simp
    have ht' : (judge 4 { rq with cmd := rules.code } (tick t s)).sh.taken = [] := by
      rw [judge_safe (s := tick t s) hs, answer_sh_taken]; exact ht
    refine ⟨_, (he s).trans (runCmd_alone hr ht (if_pos hh) ht'), hp, ?_⟩
    rw [e]
    exact ⟨deliver_sends _ _, deliver_quiet rq _ _⟩
  · have refuses : ∀ reason, (∀ v : State, v.hub = s.hub → perform rules body { rq with cmd := rules.code } v
        = reply { rq with cmd := rules.code } (.no reason) v) → refused reason :=
      fun reason hp => refuses_of_perform (he s) hk hr ht hh hs ha hp
    have hlegal : rules.legal s.hub.state = legalIn rules.code s.hub.state := hl _ hs
    refine ⟨fun h1 => refuses _ fun v hv => ?_, fun h1 h2 => refuses _ fun v hv => ?_,
      fun h1 h2 h3 h4 => refuses _ fun v hv => ?_⟩
    · rw [perform, hv, if_neg hs, if_pos h1]
    · rw [perform, hv, if_neg hs, if_neg (fun x => x h1), if_pos (hlegal.trans h2)]
    · rw [perform, hv, if_neg hs, if_neg (fun x => x h1), hlegal, if_neg (by simp [h2]), if_pos ⟨hb.trans h3, h4⟩]

end Sys2Proof.Machine

/-! SUPPORT. The other frames of the SPI port, the ends of claims and of job results, events and alarms (R41, R42, R44,
R55, R76, R77, R352). -/

namespace Sys2Proof.Machine

open Sys2Proof

/-! ### SPI frames -/

/-- A frame on an SPI port that is heard acts. -/
theorem exec_onSpi {c : Instr} {s u : State} {t : Nat} {f : State → State} (he : exec c s = act t s (onSpi f))
    (h : s.Listens .spi 0) (hf : f (tick t s) = u) (hp : u.pending = s.pending) : exec c s = .next u := by
  refine exec_of_act he ?_ hp
  have h1 : (tick t s).cfg.active.spiEn = true := h.2
  have h2 : (tick t s).hub.inReset = false := h.1
  rw [onSpi, if_pos h1, unlessReset_of_running h2, hf]

theorem testBit_foldl_or (l : List Nat) (a n : Nat) :
    (l.foldl (fun a b => a ||| 2 ^ b) a).testBit n = (a.testBit n || decide (n ∈ l)) := by
  induction l generalizing a with
  | nil => simp
  | cons x r ih =>
    rw [List.foldl_cons, ih, Nat.testBit_or, Nat.testBit_two_pow, Bool.or_assoc]
    simp [eq_comm]

/-- The bits of a mask are the numbers in its list. -/
theorem testBit_maskOf (l : List Nat) (n : Nat) : (maskOf l).testBit n = decide (n ∈ l) := by
  rw [maskOf, testBit_foldl_or, Nat.zero_testBit, Bool.false_or]

/-- Settles O13: each frame's row, and the mask bits of POLL. -/
theorem spiFramesAct : Obligations.SpiFramesAct := by
  intro s t mb op clocked h u m
  refine ⟨fun hn => ?_, fun b hb => ?_, ?_, ?_, ?_⟩
  · refine exec_onSpi (f := _) rfl h ?_ rfl
    have hn' : ((tick t s).sh.mail.get mb).unread = none := hn
    simp only [hn']
    rfl
  · intro v
    have hb' : ((tick t s).sh.mail.get mb).unread = some b := hb
    refine ⟨fun hc => ?_, fun hc => ?_⟩
    · have hl : ¬ (beBytes 2 b.length ++ b).length ≤ clocked := by simp; omega
      refine exec_onSpi (f := _) rfl h ?_ rfl
      simp only [hb', if_neg hl]
      rfl
    · have hl : (beBytes 2 b.length ++ b).length ≤ clocked := by simp; omega
      refine exec_onSpi (f := _) rfl h ?_ rfl
      simp only [hb', if_pos hl]
      rfl
  · have bits : ∀ (l : List Nat) (n : Nat), n < 8 → (BitVec.ofNat 8 (maskOf l)).getLsbD n = decide (n ∈ l) := by
      intro l n hn
      rw [BitVec.getLsbD_ofNat, testBit_maskOf, decide_eq_true hn, Bool.true_and]
    refine ⟨_, _, exec_onSpi (f := _) rfl h rfl rfl, fun n hn => ⟨?_, ?_⟩⟩
    · rw [bits _ _ hn]
      simp [hn]
    · rw [bits _ _ hn]
      simp only [List.mem_filter, List.mem_range, hn, true_and, decide_eq_true_iff]
      rfl
  · exact exec_onSpi (f := _) rfl h rfl rfl
  · exact exec_onSpi (f := _) rfl h rfl rfl

/-! ### Events and alarms -/

/-- Forming the notice frames of a port touches the hub's ports and check unit 1 alone (R352, R395). -/
structure NoticeFrames (s s' : State) : Prop where
  rest : ∃ ports units, s' = { s with weft := { s.weft with ports }, itg := { s.itg with units } }
  tc2 : ∀ p, (s'.weft.ports.get p).tc2 = (s.weft.ports.get p).tc2
  units : ∀ k, k ≠ 1 → s'.itg.units.get k = s.itg.units.get k

theorem NoticeFrames.trans {s u v : State} (h : NoticeFrames s u) (k : NoticeFrames u v) : NoticeFrames s v where
  rest := by
    obtain ⟨_, _, rfl⟩ := h.rest
    obtain ⟨_, _, rfl⟩ := k.rest
    exact ⟨_, _, rfl⟩
  tc2 p := (k.tc2 p).trans (h.tc2 p)
  units n hn := (k.units n hn).trans (h.units n hn)

theorem NoticeFrames.refl (s : State) : NoticeFrames s s := ⟨⟨_, _, rfl⟩, fun _ => rfl, fun _ _ => rfl⟩

/-- A change of a port that keeps its TC2 queue keeps every port's. -/
theorem tc2_upd {ports : Tab HPort} {p : Nat} {f : HPort → HPort} (h : ∀ x : HPort, (f x).tc2 = x.tc2) (q : Nat) :
    ((ports.upd p f).get q).tc2 = (ports.get q).tc2 := by
  by_cases e : q = p
  · rw [e, Tab.get_upd_same, h]
  · rw [Tab.get_upd_other _ _ e]

theorem formNotice_frames (late : Bool) (p : Nat) (s : State) : NoticeFrames s (formNotice late p s) := by
  unfold formNotice
  dsimp only
  split
  · exact .refl s
  · refine ⟨⟨_, _, rfl⟩, fun q => ?_, fun k hk => by simp [unitChecks, unitHolds, hk]⟩
    simp only [unitChecks, unitHolds]
    refine tc2_upd (fun _ => ?_) q
    rfl

/-- A notice that is raised is numbered and kept, and its frames leave (R352). -/
theorem addNotice_keeps_newest (n : Notice) (s : State) : ∃ ports units, addNotice n s = { s with
      weft := { s.weft with notices := (n :: s.weft.notices).take 1024, nextNotice := next32 s.weft.nextNotice, ports }
      itg := { s.itg with units } }
    ∧ (∀ p, (ports.get p).tc2 = (s.weft.ports.get p).tc2) ∧ ∀ k, k ≠ 1 → units.get k = s.itg.units.get k := by
  have skip : ∀ (p nx : Nat) (ps : Tab HPort) (q : Nat),
      ((if s.noticePort p then ps else ps.upd p fun h => { h with noticeFrom := nx }).get q).tc2 = (ps.get q).tc2 := by
    intro p nx ps q
    split
    · rfl
    · refine tc2_upd (fun _ => ?_) q
      rfl
  obtain ⟨before, e, hb⟩ : ∃ before : Tab HPort, addNotice n s = formNotice false 1 (formNotice false 0 { s with
      weft := { s.weft with
        notices := (n :: s.weft.notices).take 1024, nextNotice := next32 s.weft.nextNotice, ports := before } })
      ∧ ∀ p, (before.get p).tc2 = (s.weft.ports.get p).tc2 :=
    ⟨_, rfl, fun p => (skip 1 _ _ p).trans (skip 0 _ _ p)⟩
  obtain ⟨⟨ports, units, e'⟩, ht, hu⟩ := (formNotice_frames false 0 { s with
      weft := { s.weft with
        notices := (n :: s.weft.notices).take 1024, nextNotice := next32 s.weft.nextNotice, ports := before } }).trans
    (formNotice_frames false 1 _)
  rw [e'] at ht hu
  exact ⟨ports, units, e.trans e', fun p => (ht p).trans (hb p), hu⟩

/-- The alarm's condition starts or ends where it did not stand so: the notice, the crossing and the log of its onset. -/
theorem setAlarm_changes {bit : Nat} {on : Bool} {s : State} (h : s.sh.alarms.contains bit ≠ on) (logged : Bool)
    (part reason : Nat) :
    ∃ ports crossings units, (∀ p, (ports.get p).tc2 = (s.weft.ports.get p).tc2)
      ∧ (∀ k, k ≠ 1 → units.get k = s.itg.units.get k)
      ∧ (∀ x, x ≠ 9 ∨ bit ∉ [0, 1, 4, 5] → crossings.get x = s.itg.crossings.get x)
      ∧ setAlarm bit on logged part reason s =
        let u : State := { s with
          sh := { s.sh with alarms := setMem s.sh.alarms bit on }
          weft := { s.weft with
            notices := ({ typ := if on then 3 else 4, b1 := bit, b23 := part, loom := s.clk.loom
                          tail := beBytes 2 reason ++ zeros 10 } :: s.weft.notices).take 1024
            nextNotice := next32 s.weft.nextNotice, ports }
          itg := { s.itg with crossings, units } }
        if on && logged then alarmEvent bit part reason u else u := by
  obtain ⟨crossings, hc, hx⟩ : ∃ crossings : Tab Crossing,
      (if [0, 1, 4, 5].contains bit then shakeEvent 9 notifyAlarm { s with sh := { s.sh with alarms := setMem s.sh.alarms bit on } }
        else { s with sh := { s.sh with alarms := setMem s.sh.alarms bit on } })
        = { s with sh := { s.sh with alarms := setMem s.sh.alarms bit on }, itg := { s.itg with crossings } }
      ∧ ∀ x, x ≠ 9 ∨ bit ∉ [0, 1, 4, 5] → crossings.get x = s.itg.crossings.get x := by
    by_cases hb : [0, 1, 4, 5].contains bit = true
    · rw [if_pos hb]
      refine ⟨_, rfl, fun x hx => ?_⟩
      exact Tab.get_upd_other _ _ (hx.resolve_right fun hn => hn (by simpa using hb))
    · rw [if_neg hb]
      exact ⟨_, rfl, fun _ _ => rfl⟩
  obtain ⟨ports, units, e, ht, hu⟩ := addNotice_keeps_newest
    { typ := if on then 3 else 4, b1 := bit, b23 := part, loom := s.clk.loom, tail := beBytes 2 reason ++ zeros 10 }
    { s with sh := { s.sh with alarms := setMem s.sh.alarms bit on }, itg := { s.itg with crossings } }
  refine ⟨ports, crossings, units, ht, hu, hx, ?_⟩
  rw [setAlarm, if_neg h]
  simp only [alarmNotice]
  rw [hc]
  exact congrArg (fun u => if (on && logged) = true then alarmEvent bit part reason u else u) e

/-- The log catches up with a BOOT that XI holds up (R456). -/
theorem caughtUp_of_none {x : Shuttle} (h : x.xiFrom = none) (now beat : Nat) : x.caughtUp now beat = x := by
  simp [Shuttle.caughtUp, h]

theorem caughtUp_of_some {x : Shuttle} {last : Nat} (h : x.xiFrom = some last) (now beat : Nat) :
    let n := (now - last) / 2 ^ 32
    (x.caughtUp now beat).nextEvent = (x.nextEvent + n) % 2 ^ 32
      ∧ (x.caughtUp now beat).xiFrom = some (last + n * 2 ^ 32)
      ∧ ∀ i, i < n → i < 4096 →
        (x.caughtUp now beat).log[i]? = some { beat, reason := 0x0408, source := 0, detail := 0 } := by
  intro n
  have e : x.caughtUp now beat = { x with
      log := (List.replicate n ({ beat, reason := 0x0408, source := 0, detail := 0 } : Event) ++ x.log).take 4096
      nextEvent := (x.nextEvent + n) % 2 ^ 32, xiFrom := some (last + n * 2 ^ 32) } := by
    simp only [Shuttle.caughtUp, h]
    rfl
  rw [e]
  refine ⟨rfl, rfl, fun i hi hm => ?_⟩
  rw [List.getElem?_take_of_lt hm, List.getElem?_append_left (by simpa using hi), List.getElem?_replicate, if_pos hi]

/-- Settles O14: the ring of the log, then the alarm's notice and the two places that its bit may reach. -/
theorem eventsAndAlarms : Obligations.EventsAndAlarms := by
  refine ⟨fun s reason source detail => ?_, fun s bit part reason on logged => ?_⟩
  · intro s' x
    refine ⟨rfl, rfl, fun h => caughtUp_of_none h _ _, fun last h => caughtUp_of_some h _ _, rfl⟩
  · intro s'
    refine ⟨fun h => if_pos h, fun h => ?_⟩
    obtain ⟨ports, crossings, units, ht, hu, hx, e⟩ := setAlarm_changes h logged part reason
    have hb : ∀ b, (setMem s.sh.alarms bit on).contains b = if b = bit then on else s.sh.alarms.contains b := by
      intro b
      split
      next hb => rw [hb, setMem_contains_same]
      next hb => rw [setMem_contains_other _ _ hb]
    simp only [s', e]
    cases on && logged
    · exact ⟨hb, rfl, rfl, rfl, rfl, ht, hu, hx, _, _, _, _, _, _, _, _, _, rfl⟩
    · simp only [if_true, alarmEvent]
      refine ⟨hb, rfl, rfl, rfl, ?_, ht, hu, hx, _, _, _, _, _, _, _, _, _, rfl⟩
      cases hf : s.sh.xiFrom <;> simp [logEvent, Shuttle.caughtUp, hf]

/-! ### The ends of claims and of job results -/

/-- A claim that ends touches its mailbox, and the lock where it held it (R44). -/
theorem endClaim_eq (mb source : Nat) (s : State) :
    endClaim mb source false s = if s.sh.lock = some mb then
      logEvent 0x0506 source mb { irq { s with sh := { s.sh with mail := s.sh.mail.set mb {} } } with
        sh := { (irq { s with sh := { s.sh with mail := s.sh.mail.set mb {} } }).sh with lock := none, work := none } }
      else irq { s with sh := { s.sh with mail := s.sh.mail.set mb {} } } := by
  simp only [endClaim, Bool.false_eq_true, if_false]
  rfl

/-- The mailbox of a claim that has ended holds nothing. -/
theorem endClaim_mail (mb source : Nat) (s : State) : (endClaim mb source false s).sh.mail.get mb = {} := by
  rw [endClaim_eq]
  split <;> simp [irq, logEvent]

/-- Clearing a request's mailbox is quiet. -/
theorem clearMail_quiet (rq : Req) (s : State) :
    Quiet rq s (irq { s with sh := { s.sh with mail := s.sh.mail.set rq.mb {} } }) where
  rest := ⟨_, _, _, _, rfl⟩
  units _ _ := rfl
  mail m hm := by simp [irq, hm]
  other _ _ := rfl
  port := ⟨_, rfl⟩

/-- Freeing the lock and the working set is quiet where the rest was. -/
theorem Quiet.unlock {rq : Req} {u s : State} (h : Quiet rq u s) :
    Quiet rq { u with sh := { u.sh with lock := none, work := none } } { s with sh := { s.sh with lock := none, work := none } } := by
  obtain ⟨⟨mail, low, ports, units, rfl⟩, hu, hm, ho, hp⟩ := h
  exact ⟨⟨mail, low, ports, units, rfl⟩, hu, hm, ho, hp⟩

/-- The end of a claim, seen from outside its mailbox. -/
theorem endClaim_quiet {rq : Req} {u s : State} (h : Quiet rq u s) (source : Nat) :
    Quiet rq (if u.sh.lock = some rq.mb then
        logEvent 0x0506 source rq.mb { u with sh := { u.sh with lock := none, work := none } } else u)
      (endClaim rq.mb source false s) := by
  have hl : s.sh.lock = u.sh.lock := by
    obtain ⟨mail, low, ports, units, rfl⟩ := h.rest
    rfl
  have hc := h.trans (clearMail_quiet rq s)
  rw [endClaim_eq, hl]
  split
  · exact hc.unlock.log _ _ _
  · exact hc

/-- A response to a request whose claim has ended leaves, and its mailbox keeps no record of it (R44). -/
theorem finish_of_released {rq : Req} {v : State} (code : Nat) (p : Bytes) (h : v.sh.mail.get rq.mb = {}) :
    (finish { rq with cmd := code } 0 0 p v).sh.mail.get rq.mb
        = { unread := ((finish { rq with cmd := code } 0 0 p v).sh.mail.get rq.mb).unread }
      ∧ Sent rq (v.response { rq with cmd := code } 0 0 p) (finish { rq with cmd := code } 0 0 p v)
      ∧ Quiet rq v (finish { rq with cmd := code } 0 0 p v) := by
  refine ⟨?_, ?_, (mailUpd_quiet rq _ v).trans (deliver_quiet rq _ _)⟩
  · cases rq.src <;> simp [finish, deliver, irq, mailUpd, h, unitChecks, unitHolds]
  · exact deliver_sends _ _

/-- Dropping one job leaves every other where it was. -/
theorem lookup_filter_other (l : List (Nat × Job)) {job j : Nat} (h : j ≠ job) :
    (l.filter fun x => x.1 ≠ job).lookup j = l.lookup j := by
  induction l with
  | nil => rfl
  | cons x r ih =>
    obtain ⟨k, v⟩ := x
    by_cases hk : k = job
    · have hj : (j == k) = false := by simpa using fun e => h (e.trans hk)
      rw [List.filter_cons_of_neg (by simp [hk]), ih, List.lookup_cons, hj]
    · rw [List.filter_cons_of_pos (by simp [hk]), List.lookup_cons, List.lookup_cons, ih]

/-- Settles O15: both bounds of each lapse; RELEASE through the end of its claim. -/
theorem claimsAndResultsEnd : Obligations.ClaimsAndResultsEnd := by
  intro s t u
  refine ⟨fun mb hc hl => ?_, fun mb h => ?_, fun rq h hp => ?_, fun job e he hl => ?_, fun job h => ?_⟩
  · have hc' : (u.sh.mail.get mb).claim.isSome = true ∧ (u.sh.mail.get mb).lastTaken
        + secLoom u.cfg.active.claimIdle ≤ u.clk.loom := ⟨hc, by rw [secLoom]; exact hl⟩
    have he : endClaim mb 0 true u = if s.sh.lock = some mb then
        setAlarm 15 true false 0xFFFF 0x0506 (logEvent 0x0506 0 mb
          { irq { u with sh := { s.sh with mail := s.sh.mail.set mb { } } } with
            sh := { (irq { u with sh := { s.sh with mail := s.sh.mail.set mb { } } }).sh with lock := none, work := none } })
        else irq { u with sh := { s.sh with mail := s.sh.mail.set mb { } } } := by
      simp only [endClaim, if_true]
      rfl
    exact exec_of_act (f := _) rfl ((if_pos hc').trans he) (by split <;> simp [u])
  · refine exec_of_act (f := _) rfl (if_neg ?_) rfl
    rintro ⟨h1, h2⟩
    rw [secLoom] at h2
    rcases h with h | h
    · have h1' : (s.sh.mail.get mb).claim.isSome = true := h1
      simp [h] at h1'
    · exact absurd h2 (Nat.not_le.2 h)
  · have hs : u.hub.state ≠ .safe := h.safe
    have hw : (takeReq { rq with cmd := 0x0003 } u).sh.taken = [] := (takeReq_taken ..).trans h.front
    have hwp : (takeReq { rq with cmd := 0x0003 } u).pending = s.pending := by unfold takeReq; split <;> rfl
    have hwh : (takeReq { rq with cmd := 0x0003 } u).hub = u.hub := by unfold takeReq; split <;> rfl
    have hq := (takeReq_running (rq := rq) hs 0x0003).quiet
    have e := runCmd_takes (c := { code := 0x0003, legal := stRead, standbyNo := false, len := lenIs 0 })
      (body := fun rq s => (.done [], endClaim rq.mb 0x0003 false s)) (t := t) (by decide) h (by simp) (by rw [hp]; rfl)
    generalize takeReq { rq with cmd := 0x0003 } (tick t s) = w at e hw hwp hwh hq
    have hc : (endClaim rq.mb 0x0003 false w).sh.taken = [] ∧ (endClaim rq.mb 0x0003 false w).pending = s.pending
        ∧ (endClaim rq.mb 0x0003 false w).hub = u.hub := by
      rw [endClaim_eq]
      split <;> simp [irq, logEvent, hw, hwp, hwh]
    obtain ⟨hc1, hc2, hc3⟩ := hc
    obtain ⟨h1, h2, h3⟩ := finish_of_released 0x0003 [] (endClaim_mail rq.mb 0x0003 w)
    have hr : (endClaim rq.mb 0x0003 false w).response { rq with cmd := 0x0003 } 0 0 []
        = u.response { rq with cmd := 0x0003 } 0 0 [] := by
      simp only [State.response, State.stateByte, State.hubIdOut, hc3]
    rw [hr] at h2
    have hend := (endClaim_quiet hq 0x0003).trans h3
    have hf : (finish { rq with cmd := 0x0003 } 0 0 [] (endClaim rq.mb 0x0003 false w)).sh.taken = [] := by simp [hc1]
    have hfp : (finish { rq with cmd := 0x0003 } 0 0 [] (endClaim rq.mb 0x0003 false w)).pending = s.pending := by simp [hc2]
    have e' : exec (.release t rq) s = .next { nextTaken (finish { rq with cmd := 0x0003 } 0 0 []
      (endClaim rq.mb 0x0003 false w)) with pending := s.pending } := e
    rw [nextTaken_nil hf, ← hfp] at e'
    refine ⟨_, e', hfp, h1, h2, fun hl => ?_, fun hl => ?_⟩
    · rwa [if_neg (show ¬ u.sh.lock = some rq.mb from hl)] at hend
    · rwa [if_pos (show u.sh.lock = some rq.mb from hl)] at hend
  · have hl' : e + secLoom 60 ≤ u.clk.loom := by rw [secLoom]; exact hl
    refine ⟨{ u with sh := { s.sh with jobs := s.sh.jobs.filter fun j => j.1 ≠ job } }, ?_, rfl, ?_, fun j hj => ?_, rfl⟩
    · refine exec_of_act (show execJobResultExpiry t job s = act t s _ from rfl) ?_ rfl
      have he' : (findJob job (tick t s)).bind (·.ended) = some e := he
      simp only [he']
      exact if_pos hl'
    · exact List.lookup_eq_none_iff.2 fun x hx => by
        have hne : x.1 ≠ job := by simpa using (List.mem_filter.1 hx).2
        simpa using hne.symm
    · exact lookup_filter_other s.sh.jobs hj
  · refine exec_of_act (show execJobResultExpiry t job s = act t s _ from rfl) ?_ rfl
    cases he : (findJob job (tick t s)).bind (·.ended) with
    | none => rfl
    | some e =>
      have hn : ¬ e + secLoom 60 ≤ u.clk.loom := by rw [secLoom]; exact Nat.not_le.2 (h e he)
      exact if_neg hn

end Sys2Proof.Machine

/-! SUPPORT. The general reads (R65, R74 to R78): what their payloads hold at each offset. -/

namespace Sys2Proof.Machine

open Sys2Proof

/-! ### Bytes and husks -/

/-- Bytes of a part of a string. -/
theorem slice_slice (b : Bytes) (off n k m : Nat) (h : k + m ≤ n) : slice (slice b off n) k m = slice b (off + k) m := by
  rw [slice, slice, slice, List.drop_take, List.take_take, List.drop_drop, Nat.min_eq_left (by omega)]

theorem beAt_slice (b : Bytes) (off n k m : Nat) (h : k + m ≤ n) : beAt (slice b off n) k m = beAt b (off + k) m := by
  rw [beAt, beAt, slice_slice _ _ _ _ _ h]

/-- A word that stands in four bytes. -/
theorem word_of_beAt (w : Word) (b : Bytes) : BitVec.ofNat 32 (beAt (beWord w ++ b) 0 4) = w := by
  rw [beWord, beAt_head]
  exact BitVec.eq_of_toNat_eq (by simp [Nat.mod_eq_of_lt w.isLt])

/-- The word of a husk (R65). -/
theorem huskAt_huskBytes (a b : Bytes) (w : Word) : huskAt (a ++ (huskBytes w ++ b)) a.length = some w := by
  have h1 : BitVec.ofNat 32 (beAt (a ++ (huskBytes w ++ b)) a.length 4) = w := by
    rw [beAt_skip _ _ _ _ (Nat.le_refl _), Nat.sub_self, huskBytes, List.append_assoc, word_of_beAt]
  have h2 : BitVec.ofNat 32 (beAt (a ++ (huskBytes w ++ b)) (a.length + 4) 4) = ~~~ w := by
    rw [beAt_skip _ _ _ _ (by omega), Nat.add_sub_cancel_left, huskBytes, List.append_assoc, beAt_skip _ _ _ _ (by simp),
      beWord_length, Nat.sub_self, word_of_beAt]
  rw [huskAt, h1, h2, if_pos]
  rw [← BitVec.allOnes_xor, ← BitVec.xor_assoc, BitVec.xor_comm w, BitVec.xor_assoc, BitVec.xor_self]
  rfl

/-- The husk of row i of a list of husks that stands behind a header. -/
theorem huskAt_rows (a : Bytes) (l : List Word) {i : Nat} {w : Word} (h : l[i]? = some w) :
    huskAt (a ++ l.flatMap huskBytes) (a.length + 8 * i) = some w := by
  obtain ⟨hi, rfl⟩ := List.getElem?_eq_some_iff.1 h
  have hl : (a ++ (l.take i).flatMap huskBytes).length = a.length + 8 * i := by
    rw [List.length_append, flatMap_rows_length _ _ 8 fun _ _ => huskBytes_length _, List.length_take, Nat.min_eq_left hi.le]
  have e : a ++ l.flatMap huskBytes
      = a ++ (l.take i).flatMap huskBytes ++ (huskBytes l[i] ++ (l.drop (i + 1)).flatMap huskBytes) := by
    rw [List.append_assoc, ← List.flatMap_cons, ← List.flatMap_append, ← List.drop_eq_getElem_cons hi, List.take_append_drop]
  rw [e, ← hl]
  exact huskAt_huskBytes _ _ _

/-! ### IDENTIFY, STATUS and the reads of one record -/

@[simp] theorem identityBytes_length (from_ n : Nat) : (identityBytes from_ n).length = n := by simp [identityBytes]

@[simp] theorem orderingCode_length : orderingCode.length = 16 := by simp [orderingCode, ascii]

/-- The payload of IDENTIFY from the die set on (R75). -/
theorem identityPayload_fields (s : State) :
    (identityPayload s).length = 68 ∧ beAt (identityPayload s) 40 1 = 0x42 ∧ beAt (identityPayload s) 41 1 = 4
      ∧ beAt (identityPayload s) 42 2 = s.hubIdOut % 2 ^ 16 ∧ beAt (identityPayload s) 45 1 = s.hub.runImage % 2 ^ 8
      ∧ beAt (identityPayload s) 48 4 = s.pow.imageA.version % 2 ^ 32
      ∧ beAt (identityPayload s) 52 4 = s.pow.imageB.version % 2 ^ 32 := by
  have h1 : [dieSet, 0x04#8] = beBytes 1 0x42 ++ beBytes 1 4 := by decide
  refine ⟨by simp [identityPayload], ?_, ?_, ?_, ?_, ?_, ?_⟩
  all_goals
    simp only [identityPayload, h1, List.append_assoc, beAt_skip, beAt_head, beBytes_length, orderingCode_length,
      identityBytes_length, zeros_length, Nat.reduceLeDiff, Nat.reduceSub, Nat.le_refl]
    rfl

theorem stateCode_lt (h : HubState) : stateCode h < 7 := by cases h <;> decide

theorem roleCode_lt (r : Role) : roleCode r < 3 := by cases r <;> decide

/-- The payload of STATUS (R76). -/
theorem statusPayload_fields (s : State) :
    (statusPayload s).length = 48 ∧ beAt (statusPayload s) 0 8 = s.clk.loom % 2 ^ 64
      ∧ beAt (statusPayload s) 8 8 = s.clk.beat % 2 ^ 64 ∧ beAt (statusPayload s) 16 1 = stateCode s.hub.state % 256
      ∧ beAt (statusPayload s) 17 1 = roleCode s.hub.role % 256 ∧ beAt (statusPayload s) 20 2 = s.hub.lastCause % 2 ^ 16
      ∧ beAt (statusPayload s) 24 4 = s.cfg.seq % 2 ^ 32
      ∧ beAt (statusPayload s) 40 4 = maskOf s.sh.alarms % 2 ^ 32 ∧ beAt (statusPayload s) 44 2 = s.clk.overruns % 2 ^ 16
      ∧ beAt (statusPayload s) 46 2 = s.clk.skipped % 2 ^ 16 := by
  refine ⟨by simp [statusPayload], ?_, ?_, ?_, ?_, ?_, ?_, ?_, ?_, ?_⟩
  all_goals
    simp only [statusPayload, List.append_assoc, beAt_skip, beAt_head, beAt_only, beBytes_length, zeros_length,
      Nat.reduceLeDiff, Nat.reduceSub, Nat.le_refl]
    rfl

/-- The move that STATUS shows (R76). -/
theorem statusPayload_move (s : State) : (s.pendingMove = none → beAt (statusPayload s) 18 1 = 0)
    ∧ ∀ h x, s.pendingMove = some (h, x) → beAt (statusPayload s) 18 1 = 128 + stateCode h := by
  refine ⟨fun hm => ?_, fun h x hm => ?_⟩
  · simp only [statusPayload, hm, List.append_assoc, beAt_skip, beAt_head, beBytes_length, Nat.reduceLeDiff, Nat.reduceSub,
      Nat.le_refl, Nat.zero_mod]
  · have := stateCode_lt h
    simp only [statusPayload, hm, List.append_assoc, beAt_skip, beAt_head, beBytes_length, Nat.reduceLeDiff, Nat.reduceSub,
      Nat.le_refl]
    omega

section
variable {s : State} {rq : Req} (t : Nat)

/-- STATUS ends alarm 14 with its response (R76). -/
theorem status_ends_alarm (h : s.Takes rq fun _ => true) (hp : rq.payload = []) :
    Answers (.status t rq) s rq 0x0001 0 0 (statusPayload (takeReq { rq with cmd := 0x0001 } (tick t s)))
      (setAlarm 14 false false 0xFFFF 0 (tick t s)) := by
  refine answers_of (c := { code := 0x0001, legal := fun _ => true, standbyNo := false, len := lenIs 0 }) rfl (by decide) h
    (fun e => absurd e (by decide)) (by rw [hp]; rfl)
    (x := setAlarm 14 false false 0xFFFF 0 (takeReq { rq with cmd := 0x0001 } (tick t s))) rfl ?_ (by simp) (by simp [h.front])
  exact (takeReq_running (s := tick t s) h.safe 0x0001).map _ (fun v => setAlarm_withMail (by decide) false 0xFFFF 0 v) (by simp)

theorem identify_reads (h : s.Takes rq fun _ => true) (hp : rq.payload = []) :
    Reads (.identify t rq) t s rq 0x0000 fun p => p = identityPayload (tick t s) := by
  refine reads_of (c := { code := 0x0000, legal := fun _ => true, standbyNo := false, len := lenIs 0 }) rfl (by decide) h
    (fun e => absurd e (by decide)) (by rw [hp]; rfl) fun v hv => ⟨_, rfl, ?_⟩
  obtain ⟨mail, low, rfl⟩ := hv.rest
  rfl

theorem ping_echoes (h : s.Takes rq fun _ => true) (hp : rq.payload.length ≤ 1004) :
    Answers (.ping t rq) s rq 0x0002 0 0 rq.payload (tick t s) :=
  done_of (c := { code := 0x0002, legal := fun _ => true, standbyNo := false, len := lenIn 0 1004 }) rfl (by decide) h
    (fun e => absurd e (by decide)) (by simpa [lenIn] using hp) fun v hv => ⟨v, rfl, hv, rfl, rfl⟩

/-- JOB_STATUS of a job (R55). -/
theorem jobStatus_shows (h : s.Takes rq stRead) {id : Nat} {j : Job} (hi : id < 2 ^ 16) (hp : rq.payload = beBytes 2 id)
    (hj : findJob id s = some j) : Answers (.jobStatus t rq) s rq 0x0004 0 0
      (beBytes 1 j.state ++ zeros 1 ++ beBytes 2 j.reason ++ beBytes 8 j.beat ++ j.result) (tick t s) := by
  refine done_of (c := { code := 0x0004, legal := stRead, standbyNo := false, len := lenIs 2 }) rfl (by decide) h
    (fun e => absurd e (by decide)) (by rw [hp]; rfl) fun v hv => ⟨v, ?_, hv, rfl, rfl⟩
  obtain ⟨mail, low, rfl⟩ := hv.rest
  have hb : beAt rq.payload 0 2 = id := by rw [hp, beAt_only]; omega
  have hj' : findJob id ((tick t s).withMail mail low) = some j := hj
  simp only [reading, hb, hj']

theorem jobStatus_unknown (h : s.Takes rq stRead) {id : Nat} (hi : id < 2 ^ 16) (hp : rq.payload = beBytes 2 id)
    (hj : findJob id s = none) : Refuses (.jobStatus t rq) t s rq 0x0004 0x0307 (atIndex 0xFFFF) := by
  rw [← refused_atIndex]
  refine refuses_of (l := {}) (c := { code := 0x0004, legal := stRead, standbyNo := false, len := lenIs 2 }) rfl (by decide) h
    (fun e => absurd e (by decide)) (by rw [hp]; rfl) fun v hv => ?_
  obtain ⟨mail, low, rfl⟩ := hv.rest
  have hb : beAt rq.payload 0 2 = id := by rw [hp, beAt_only]; omega
  have hj' : findJob id ((tick t s).withMail mail low) = none := hj
  simp only [reading, hb, hj']
  rfl

/-- The payload of COUNTERS_READ (R78). -/
def countersPayload (s : State) : Bytes := (s.sh.counters.getList 0 39).flatMap (beBytes 2)

theorem countersPayload_fields (s : State) : (countersPayload s).length = 78
    ∧ ∀ i, i < 39 → beAt (countersPayload s) (2 * i) 2 = s.sh.counters.get i % 2 ^ 16 := by
  have e : countersPayload s = (List.range 39).flatMap fun i => beBytes 2 (s.sh.counters.get i) := by
    simp [countersPayload, Tab.getList, List.flatMap_map]
  rw [e]
  refine ⟨by rw [flatMap_rows_length _ _ 2 fun _ _ => beBytes_length ..]; rfl, fun i hi => ?_⟩
  exact (beAt_rows _ 2 39 i 0 2 (fun _ => beBytes_length ..) hi (Nat.le_refl _)).trans (beAt_only ..)

theorem countersRead_answers (h : s.Takes rq stRead) {clear : Nat} (hc : clear < 2) (hp : rq.payload = beBytes 1 clear) :
    Answers (.countersRead t rq) s rq 0x0009 0 0 (countersPayload s)
      (if clear = 1 then { tick t s with sh := { s.sh with counters := [] } } else tick t s) := by
  refine done_of (c := { code := 0x0009, legal := stRead, standbyNo := false, len := lenIs 1 }) rfl (by decide) h
    (fun e => absurd e (by decide)) (by rw [hp]; rfl) fun v hv =>
    ⟨if clear = 1 then { v with sh := { v.sh with counters := [] } } else v, ?_, ?_, by split <;> rfl, by split <;> rfl⟩
  · obtain ⟨mail, low, rfl⟩ := hv.rest
    have hb : beAt rq.payload 0 1 = clear := by rw [hp, beAt_only]; omega
    simp only [hb, if_neg (show ¬ clear > 1 by omega)]
    rfl
  · split
    · exact hv.map (fun v => { v with sh := { v.sh with counters := [] } }) (fun _ _ _ => rfl) rfl
    · exact hv

/-- COPY_STATUS: twenty bytes for each copy (R74). -/
theorem copyStatus_reads (h : s.Takes rq stRead) (hp : rq.payload = []) :
    Reads (.copyStatus t rq) t s rq 0x0015 fun p => p.length = 40
      ∧ ∀ k (c : Copy), (k = 0 ∧ c = s.cfg.copyA) ∨ (k = 20 ∧ c = s.cfg.copyB) →
        beAt p k 4 = c.seq % 2 ^ 32 ∧ beAt p (k + 4) 1 = b2n c.valid ∧ beAt p (k + 12) 8 = c.beat % 2 ^ 64 := by
  refine reads_of (c := { code := 0x0015, legal := stRead, standbyNo := false, len := lenIs 0 }) rfl (by decide) h
    (fun e => absurd e (by decide)) (by rw [hp]; rfl) fun v hv => ⟨_, rfl, by simp, ?_⟩
  obtain ⟨mail, low, rfl⟩ := hv.rest
  have hb : ∀ b : Bool, b2n b % 256 ^ 1 = b2n b := by decide
  rintro k c (⟨rfl, rfl⟩ | ⟨rfl, rfl⟩)
  · refine ⟨?_, ?_, ?_⟩ <;>
      simp only [List.append_assoc, beAt_skip, beAt_head, beAt_only, beBytes_length, zeros_length, Nat.reduceLeDiff, hb,
        Nat.reduceSub, Nat.reduceAdd, Nat.le_refl] <;> rfl
  · refine ⟨?_, ?_, ?_⟩ <;>
      simp only [List.append_assoc, beAt_skip, beAt_head, beAt_only, beBytes_length, zeros_length, Nat.reduceLeDiff, hb,
        Nat.reduceSub, Nat.reduceAdd, Nat.le_refl] <;> rfl

end

/-! ### EVENT_READ (R77) -/

/-- The bytes of row i of a list of rows that stands behind a header. -/
theorem slice_flatMap_row {α : Type} (a : Bytes) (l : List α) (f : α → Bytes) {w i : Nat} {e : α}
    (hw : ∀ x ∈ l, (f x).length = w) (h : l[i]? = some e) : slice (a ++ l.flatMap f) (a.length + w * i) w = f e := by
  obtain ⟨hi, rfl⟩ := List.getElem?_eq_some_iff.1 h
  have hl : (a ++ (l.take i).flatMap f).length = a.length + w * i := by
    rw [List.length_append, flatMap_rows_length _ _ w fun x hx => hw x (List.mem_of_mem_take hx), List.length_take,
      Nat.min_eq_left hi.le]
  have e : a ++ l.flatMap f = (a ++ (l.take i).flatMap f) ++ (f l[i] ++ (l.drop (i + 1)).flatMap f) := by
    rw [List.append_assoc, ← List.flatMap_cons, ← List.flatMap_append, ← List.drop_eq_getElem_cons hi, List.take_append_drop]
  have hf := hw l[i] (List.getElem_mem hi)
  rw [e, ← hl, slice_append_right _ _ _ _ (Nat.le_refl _), Nat.sub_self, slice_append_left _ _ _ _ (by omega),
    slice_all _ _ hf]

/-- The entries that lie some places back from the next index, from the oldest kept on (R77). -/
theorem ringFrom_back {α : Type} (ring : List α) {next back : Nat} (count : Nat) (hl : ring.length ≤ 4096)
    (hn : next < 2 ^ 32) (hb : back < 2 ^ 31) :
    ringFrom ring next ((next + 2 ^ 32 - back) % 2 ^ 32) count
      = (ring.reverse.drop (ring.length - min back ring.length)).take count := by
  have h1 : diff32 next 1 = (next + 2 ^ 32 - 1) % 2 ^ 32 := by unfold diff32; omega
  have h2 : diff32 next ring.length = (next + 2 ^ 32 - ring.length) % 2 ^ 32 := by unfold diff32; omega
  rcases Nat.eq_zero_or_pos ring.length with h0 | h0
  · have hr : ring = [] := List.eq_nil_of_length_eq_zero h0
    simp [ringFrom, hr]
  have he : ring.isEmpty = false := by simpa [List.isEmpty_eq_false_iff, List.length_pos_iff] using h0
  have hnew : newer32 ((next + 2 ^ 32 - back) % 2 ^ 32) (diff32 next 1) = decide (back = 0) := by
    rw [h1, newer32, diff32, Bool.eq_iff_iff, Bool.and_eq_true, decide_eq_true_eq, decide_eq_true_eq, decide_eq_true_eq]
    omega
  have hold : newer32 (diff32 next ring.length) ((next + 2 ^ 32 - back) % 2 ^ 32) = decide (ring.length < back) := by
    rw [h2, newer32, diff32, Bool.eq_iff_iff, Bool.and_eq_true, decide_eq_true_eq, decide_eq_true_eq, decide_eq_true_eq]
    omega
  simp only [ringFrom, hnew, hold, he, Bool.or_false, decide_eq_true_eq]
  by_cases hz : back = 0
  · rw [if_pos hz, hz, Nat.zero_min, Nat.sub_zero, List.drop_eq_nil_of_le (by simp), List.take_nil]
  rw [if_neg hz]
  by_cases ho : ring.length < back
  · have hd : diff32 (diff32 next ring.length) (diff32 next ring.length) = 0 := by rw [h2, diff32]; omega
    rw [if_pos ho, hd, Nat.min_eq_right ho.le, Nat.sub_self]
  · have hd : diff32 ((next + 2 ^ 32 - back) % 2 ^ 32) (diff32 next ring.length) = ring.length - back := by
      rw [h2, diff32]; omega
    rw [if_neg ho, hd, Nat.min_eq_left (by omega)]

section
variable {s : State} {rq : Req} (t : Nat)

/-- EVENT_READ from an index some places back (R77). -/
theorem eventRead_reads (h : s.Takes rq stRead) {back count : Nat} (hl : s.sh.log.length ≤ 4096)
    (hn : s.sh.nextEvent < 2 ^ 32) (hc : 0 < count) (hc' : count ≤ 62) (hb : back < 2 ^ 31)
    (hp : rq.payload = beBytes 4 ((s.sh.nextEvent + 2 ^ 32 - back) % 2 ^ 32) ++ beBytes 1 count) :
    Reads (.eventRead t rq) t s rq 0x0008 fun p =>
      let held := min back s.sh.log.length
      let k := min count held
      p.length = 8 + 16 * k ∧ beAt p 0 4 = (s.sh.nextEvent + 2 ^ 32 - 1) % 2 ^ 32 ∧ beAt p 4 1 = k
        ∧ ∀ i e, i < k → s.sh.log[held - 1 - i]? = some e → slice p (8 + 16 * i) 16
          = beBytes 8 e.beat ++ beBytes 2 e.reason ++ beBytes 2 e.source ++ beBytes 4 e.detail := by
  have h0 : beAt rq.payload 0 4 = (s.sh.nextEvent + 2 ^ 32 - back) % 2 ^ 32 := by
    rw [hp, beAt_head]; omega
  have h4 : beAt rq.payload 4 1 = count := by
    rw [hp, beAt_skip _ _ _ _ (by simp), beBytes_length, Nat.sub_self, beAt_only]; omega
  have hk : ¬ (count = 0 ∨ count > 62) := by omega
  have hd : diff32 s.sh.nextEvent 1 = (s.sh.nextEvent + 2 ^ 32 - 1) % 2 ^ 32 := by unfold diff32; omega
  refine reads_of (c := { code := 0x0008, legal := stRead, standbyNo := false, len := lenIs 5 }) rfl (by decide) h
    (fun e => absurd e (by decide)) (by rw [hp]; simp [lenIs]) fun v hv =>
    ⟨beBytes 4 (diff32 s.sh.nextEvent 1)
      ++ beBytes 1 (((s.sh.log.reverse.drop (s.sh.log.length - min back s.sh.log.length)).take count).length)
      ++ zeros 3 ++ ((s.sh.log.reverse.drop (s.sh.log.length - min back s.sh.log.length)).take count).flatMap eventBytes,
      ?_, ?_⟩
  · obtain ⟨mail, low, rfl⟩ := hv.rest
    simp only [h0, h4, if_neg hk]
    have hr := ringFrom_back s.sh.log count hl hn hb
    rw [← hr]
    rfl
  · generalize hes : (s.sh.log.reverse.drop (s.sh.log.length - min back s.sh.log.length)).take count = es
    have hlen : es.length = min count (min back s.sh.log.length) := by
      rw [← hes]; simp; omega
    have h16 : ∀ e ∈ es, (eventBytes e).length = 16 := fun e _ => by simp [eventBytes]
    intro held k
    have hk' : es.length = k := hlen
    refine ⟨?_, ?_, ?_, fun i e hi he => ?_⟩
    · rw [List.length_append, flatMap_rows_length _ _ 16 h16, hk']
      simp
    · rw [List.append_assoc, List.append_assoc, beAt_head, hd]
      omega
    · rw [List.append_assoc, List.append_assoc, beAt_skip _ _ _ _ (by simp), beBytes_length, Nat.sub_self, beAt_head]
      omega
    · have hrow : es[i]? = some e := by
        rw [← hes, List.getElem?_take_of_lt (by omega), List.getElem?_drop, List.getElem?_reverse (by omega)]
        have hj : s.sh.log.length - 1 - (s.sh.log.length - min back s.sh.log.length + i) = held - 1 - i := by omega
        rw [hj]
        exact he
      exact slice_flatMap_row _ es eventBytes h16 hrow

theorem ite_size_lt {c : Prop} [Decidable c] {a n : Nat} {x : Option Nat} (ha : a < 2 ^ 16) (hx : x = some n → n < 2 ^ 16)
    (h : (if c then some a else x) = some n) : n < 2 ^ 16 := by
  by_cases hc : c
  · rw [if_pos hc] at h
    cases h
    exact ha
  · rw [if_neg hc] at h
    exact hx h

/-- No block is as long as its offset field counts (R62). -/
theorem blockSize_lt {b n : Nat} : blockSize b = some n → n < 2 ^ 16 := by
  unfold blockSize
  repeat refine ite_size_lt (by decide) ?_
  exact fun h => nomatch h

/-- PARAM_READ of the words of a source (R9, R65). -/
theorem paramRead_reads (h : s.Takes rq stRead) {src block off count n : Nat} {m : PMem}
    (hp : rq.payload = beBytes 1 src ++ zeros 1 ++ beBytes 2 block ++ beBytes 2 off ++ beBytes 2 count) (hs : src < 5)
    (hb : block < 2 ^ 16) (hn : blockSize block = some n) (hc : 0 < count) (hc' : count ≤ 125) (ho : off + count ≤ n)
    (hm : (src = 0 ∧ m = s.cfg.force) ∨ (src = 1 ∧ s.sh.work.map (·.words) = some m)
      ∨ (src = 2 ∧ s.cfg.copyA.valid = true ∧ m = s.cfg.copyA.words)
      ∨ (src = 3 ∧ s.cfg.copyB.valid = true ∧ m = s.cfg.copyB.words) ∨ (src = 4 ∧ m = [])) :
    Reads (.paramRead t rq) t s rq 0x0011 fun p => p.length = 8 * count
      ∧ ∀ i, i < count → huskAt p (8 * i) = some (m.shown block (off + i)) := by
  have hlt := blockSize_lt hn
  have hz : zeros 1 = beBytes 1 0 := by decide
  have h0 : beAt rq.payload 0 1 = src := by
    rw [hp, List.append_assoc, List.append_assoc, List.append_assoc, beAt_head]; omega
  have h1 : beAt rq.payload 1 1 = 0 := by
    simp only [hp, hz, List.append_assoc, beAt_skip, beAt_head, beBytes_length, Nat.reduceSub, Nat.le_refl, Nat.zero_mod]
  have h2 : beAt rq.payload 2 2 = block := by
    simp only [hp, hz, List.append_assoc, beAt_skip, beAt_head, beBytes_length, Nat.reduceLeDiff, Nat.reduceSub, Nat.le_refl]
    omega
  have h4 : beAt rq.payload 4 2 = off := by
    simp only [hp, hz, List.append_assoc, beAt_skip, beAt_head, beBytes_length, Nat.reduceLeDiff, Nat.reduceSub, Nat.le_refl]
    omega
  have h6 : beAt rq.payload 6 2 = count := by
    simp only [hp, hz, List.append_assoc, beAt_skip, beAt_only, beBytes_length, Nat.reduceLeDiff, Nat.reduceSub, Nat.le_refl]
    omega
  have hr : rangeFault block off count = none := by simp [rangeFault, hn]; omega
  refine reads_of (c := { code := 0x0011, legal := stRead, standbyNo := false, len := lenIs 8 }) rfl (by decide) h
    (fun e => absurd e (by decide)) (by rw [hp]; simp [lenIs]) fun v hv =>
    ⟨(List.range count).flatMap fun i => huskBytes (m.shown block (off + i)), ?_, ?_, fun i hi => ?_⟩
  · obtain ⟨mail, low, rfl⟩ := hv.rest
    simp only [h0, h1, h2, h4, h6, hr, if_neg (show ¬ (0 : Nat) ≠ 0 by decide),
      if_neg (show ¬ (src > 4 ∨ count = 0 ∨ count > 125) by omega)]
    rcases hm with ⟨rfl, rfl⟩ | ⟨rfl, e⟩ | ⟨rfl, hv, rfl⟩ | ⟨rfl, hv, rfl⟩ | ⟨rfl, rfl⟩
    · rfl
    · have e' : ((tick t s).withMail mail low).sh.work.map (·.words) = some m := e
      simp only [Nat.one_ne_zero, if_true, if_false, e']
    · have e' : copyOf ((tick t s).withMail mail low).cfg.copyA = some { words := s.cfg.copyA.words, seq := s.cfg.copyA.seq } :=
        if_pos hv
      simp only [OfNat.ofNat_ne_zero, OfNat.ofNat_ne_one, if_true, if_false, e', Option.map_some]
    · have e' : copyOf ((tick t s).withMail mail low).cfg.copyB = some { words := s.cfg.copyB.words, seq := s.cfg.copyB.seq } :=
        if_pos hv
      simp only [OfNat.ofNat_ne_zero, OfNat.ofNat_ne_one, Nat.reduceEqDiff, if_true, if_false, e', Option.map_some]
    · rfl
  · rw [flatMap_rows_length _ _ 8 fun _ _ => huskBytes_length _, List.length_range]
  · have e := huskAt_rows [] ((List.range count).map fun i => m.shown block (off + i)) (i := i)
      (w := m.shown block (off + i)) (by simp [hi])
    rw [List.flatMap_map] at e
    simpa using e

end

/-- Settles O16: one lemma for each read. -/
theorem generalReadsAnswer : Obligations.GeneralReadsAnswer := by
  intro s t rq u
  refine ⟨fun back count h hl hn hc hc' hb hp => eventRead_reads t h hl hn hc hc' hb hp, fun h hp => ?_, fun h hp => ?_,
    fun h hp => ping_echoes t h hp, fun id j h hi hp hj => jobStatus_shows t h hi hp hj,
    fun id h hi hp hj => jobStatus_unknown t h hi hp hj, fun clear h hc hp => ?_, fun h hp => copyStatus_reads t h hp,
    fun src block off count n m h hp hs hb hn hc hc' ho hm => paramRead_reads t h hp hs hb hn hc hc' ho hm⟩
  · obtain ⟨p, rfl, ha⟩ := identify_reads t h hp
    exact ⟨_, identityPayload_fields u, ha⟩
  · obtain ⟨hlen, h0, h8, h16, h17, h20, h24, h40, h44, h46⟩ := statusPayload_fields (takeReq { rq with cmd := 0x0001 } u)
    obtain ⟨hm, hm'⟩ := statusPayload_move (takeReq { rq with cmd := 0x0001 } u)
    have ha := status_ends_alarm t h hp
    have hv := (takeReq_running (rq := rq) (s := u) h.safe 0x0001).rest
    refine ⟨_, ha, hlen, ?_⟩
    obtain ⟨mail, low, e⟩ := hv
    rw [e] at h0 h8 h16 h17 h20 h24 h40 h44 h46 hm hm' ⊢
    exact ⟨h0, h8, h16.trans (Nat.mod_eq_of_lt ((stateCode_lt _).trans (by decide))),
      h17.trans (Nat.mod_eq_of_lt ((roleCode_lt _).trans (by decide))), h20, h24, hm, hm', h40,
      h44, h46⟩
  · obtain ⟨hlen, hf⟩ := countersPayload_fields s
    exact ⟨_, hlen, hf, countersRead_answers t h hc hp⟩

end Sys2Proof.Machine

/-! SUPPORT. The configuration session (R64, R65, R500): CFG_OPEN, PARAM_WRITE and CFG_ABORT. -/

namespace Sys2Proof.Machine

open Sys2Proof

/-! ### The words that PARAM_WRITE stores -/

/-- PARAM_WRITE stores one word of a block, from an offset on (R8, R65). -/
def writeWord (block off : Nat) (m : PMem) (iw : Nat × Word) : PMem :=
  m.put (pkey block (off + iw.1)) (writable m block (off + iw.1) iw.2)

/-- Keys of words are apart where their places are. -/
theorem pkey_ne {b o block k : Nat} (ho : o < 65536) (hk : k < 65536) (h : b ≠ block ∨ o ≠ k) : pkey b o ≠ pkey block k := by
  unfold pkey
  omega

theorem writeWord_same {block off : Nat} (m : PMem) (i : Nat) (v : Word) (h : off + i < 65536) :
    (writeWord block off m (i, v)).word block (off + i) = writable m block (off + i) v :=
  PMem.word_put_same _ _ _ _ h

theorem writeWord_other {block off b o : Nat} (m : PMem) (i : Nat) (v : Word) (h : off + i < 65536) (ho : o < 65536)
    (hne : b ≠ block ∨ o ≠ off + i) : (writeWord block off m (i, v)).word b o = m.word b o :=
  PMem.word_put_other _ _ _ _ _ (pkey_ne ho h hne)

/-- A run of words stored from place k on: each place takes its word, every other keeps its own. -/
theorem writeWords_fold {block off : Nat} (ws : List Word) (k : Nat) (m : PMem) (h : off + k + ws.length ≤ 65536) :
    (∀ i v, ws[i]? = some v → (((List.range' k ws.length).zip ws).foldl (writeWord block off) m).word block (off + (k + i))
        = writable m block (off + (k + i)) v)
      ∧ ∀ b o, (b ≠ block ∨ o < off + k ∨ off + k + ws.length ≤ o) → o < 65536 →
        (((List.range' k ws.length).zip ws).foldl (writeWord block off) m).word b o = m.word b o := by
  induction ws generalizing k m with
  | nil => exact ⟨fun i v hv => by simp at hv, fun _ _ _ _ => rfl⟩
  | cons w r ih =>
    have hl : (w :: r).length = r.length + 1 := rfl
    have e : ((List.range' k (w :: r).length).zip (w :: r)).foldl (writeWord block off) m
        = ((List.range' (k + 1) r.length).zip r).foldl (writeWord block off) (writeWord block off m (k, w)) := by
      rw [hl, List.range'_succ, List.zip_cons_cons, List.foldl_cons]
    obtain ⟨ih1, ih2⟩ := ih (k + 1) (writeWord block off m (k, w)) (by omega)
    rw [e]
    refine ⟨fun i v hv => ?_, fun b o hbo ho => ?_⟩
    · cases i with
      | zero =>
        have hv' : w = v := by simpa using hv
        rw [ih2 block _ (.inr (.inl (by omega))) (by omega), Nat.add_zero, writeWord_same _ _ _ (by omega), hv']
      | succ i =>
        have hi : i < r.length := (List.getElem?_eq_some_iff.1 (show r[i]? = some v from hv)).1
        have h1 := ih1 i v hv
        rw [show k + (i + 1) = k + 1 + i by omega, h1]
        unfold writable
        rw [writeWord_other m k w (by omega) (by omega) (.inr (by omega))]
    · rw [ih2 b o (by omega) ho, writeWord_other m k w (by omega) ho (by omega)]

/-- Husks read in a row are the words that they were formed of. -/
theorem husksAt_flatMap (ws : List Word) (a : Bytes) : husksAt (a ++ ws.flatMap huskBytes) a.length ws.length = some ws := by
  induction ws generalizing a with
  | nil => rfl
  | cons w r ih =>
    have e : a ++ (w :: r).flatMap huskBytes = (a ++ huskBytes w) ++ r.flatMap huskBytes := by simp
    have h1 : huskAt (a ++ (w :: r).flatMap huskBytes) a.length = some w := huskAt_huskBytes a _ w
    have h2 : husksAt (a ++ (w :: r).flatMap huskBytes) (a.length + 8) r.length = some r := by
      have := ih (a ++ huskBytes w)
      rwa [← e, List.length_append, huskBytes_length] at this
    simp only [List.length_cons, husksAt, h1, h2]

/-- One husk that does not match leaves no words. -/
theorem husksAt_none {b : Bytes} {off n i : Nat} (hi : i < n) (h : huskAt b (off + 8 * i) = none) : husksAt b off n = none := by
  induction n generalizing off i with
  | zero => omega
  | succ n ih =>
    cases i with
    | zero => simp only [husksAt, show huskAt b off = none from h]
    | succ i =>
      have h' : husksAt b (off + 8) n = none := ih (i := i) (by omega) (by rw [← h]; congr 1; omega)
      simp only [husksAt, h']
      cases huskAt b off <;> rfl

section
variable {s : State} {rq : Req} (t : Nat)

/-- The rules of the commands that edit the working set (R64, R65). -/
def cfgOpenRules : Rules := { code := 0x0010, legal := stStage, standbyNo := true, len := lenIs 1 }
def paramWriteRules : Rules := { code := 0x0012, legal := stStage, standbyNo := true, len := fun n => decide (8 ≤ n ∧ n % 8 = 0) }
def cfgAbortRules : Rules := { code := 0x0014, legal := stStage, standbyNo := false, len := lenIs 0 }
def cfgSaveRules : Rules := { code := 0x0016, legal := stStage, standbyNo := false, len := lenIs 0 }

/-- A source of CFG_OPEN (R64, R500). -/
def State.Source (s : State) (src : Nat) (w : Work) : Prop :=
  (src = 0 ∧ w = { words := s.cfg.force, seq := s.cfg.seq })
    ∨ (src = 1 ∧ s.cfg.copyA.valid = true ∧ w = { words := s.cfg.copyA.words, seq := s.cfg.copyA.seq })
    ∨ (src = 2 ∧ s.cfg.copyB.valid = true ∧ w = { words := s.cfg.copyB.words, seq := s.cfg.copyB.seq })
    ∨ (src = 3 ∧ w = { words := [], seq := 0 })

/-- Where CFG_OPEN loads a source, that is what it loads. -/
theorem Source.loads {src : Nat} {w : Work} (h : s.Source src w) :
    (if src = 0 then some { words := s.cfg.force, seq := s.cfg.seq } else if src = 1 then copyOf s.cfg.copyA
      else if src = 2 then copyOf s.cfg.copyB else if src = 3 then some { words := [], seq := 0 } else none) = some w := by
  rcases h with ⟨rfl, rfl⟩ | ⟨rfl, hv, rfl⟩ | ⟨rfl, hv, rfl⟩ | ⟨rfl, rfl⟩
  · rfl
  · simp [copyOf, hv]
  · simp [copyOf, hv]
  · rfl

/-- Another mailbox does not hold the lock. -/
theorem not_locked (h : s.sh.lock = none ∨ s.sh.lock = some rq.mb) : ¬ (s.sh.lock.isSome ∧ s.sh.lock ≠ some rq.mb) := by
  rcases h with h | h <;> simp [h]

/-- A mailbox holds the lock and a working set, with alarm 15 ended (R64). -/
def State.opened (s : State) (mb : Nat) (w : Work) : State :=
  setAlarm 15 false false 0xFFFF 0x0506 { s with sh := { s.sh with lock := some mb, work := some w } }

theorem Running.opened {u v : State} (h : Running rq u v) (mb : Nat) (w : Work) : Running rq (u.opened mb w) (v.opened mb w) :=
  h.map (fun v => v.opened mb w) (fun v mail low => setAlarm_withMail (by decide) false 0xFFFF 0x0506
    { v with sh := { v.sh with lock := some mb, work := some w } } mail low) (by simp [State.opened])

/-- CFG_OPEN takes the lock, loads its source and ends alarm 15 (R64). -/
theorem cfgOpen_answers (h : s.Takes rq stStage) (hr : s.hub.role ≠ .standby) {src : Nat} {w : Work}
    (hp : rq.payload = beBytes 1 src) (hl : s.sh.lock = none ∨ s.sh.lock = some rq.mb) (hw : s.Source src w) :
    Answers (.cfgOpen t rq) s rq 0x0010 0 0 (beBytes 4 w.seq) (setAlarm 15 false false 0xFFFF 0x0506
      { tick t s with sh := { s.sh with lock := some rq.mb, work := some w } }) := by
  have h0 : beAt rq.payload 0 1 = src := by
    have : src < 4 := by rcases hw with ⟨e, -⟩ | ⟨e, -⟩ | ⟨e, -⟩ | ⟨e, -⟩ <;> omega
    rw [hp, beAt_only]; omega
  refine done_of (c := cfgOpenRules) rfl (by decide) h (fun _ => hr) (by rw [hp]; rfl) fun v hv =>
    ⟨v.opened rq.mb w, ?_, hv.opened rq.mb w, by simp [State.opened], by simp [State.opened]⟩
  obtain ⟨mail, low, rfl⟩ := hv.rest
  have hs := Source.loads hw
  refine (if_neg (not_locked hl)).trans ?_
  show (match (if beAt rq.payload 0 1 = 0 then some { words := s.cfg.force, seq := s.cfg.seq }
    else if beAt rq.payload 0 1 = 1 then copyOf s.cfg.copyA
    else if beAt rq.payload 0 1 = 2 then copyOf s.cfg.copyB
    else if beAt rq.payload 0 1 = 3 then some { words := [], seq := 0 } else none) with
    | none => _
    | some w => _) = _
  rw [h0, hs]
  rfl

/-- CFG_ABORT discards the working set and frees the lock (R64). -/
theorem cfgAbort_answers (h : s.Takes rq stStage) (hp : rq.payload = []) (hl : s.sh.lock = some rq.mb) :
    Answers (.cfgAbort t rq) s rq 0x0014 0 0 [] { tick t s with sh := { s.sh with lock := none, work := none } } := by
  let free := fun v : State => { v with sh := { v.sh with lock := none, work := none } }
  refine done_of (c := cfgAbortRules) rfl (by decide) h (fun e => absurd e (by decide)) (by rw [hp]; rfl) fun v hv =>
    ⟨free v, ?_, hv.map free (fun _ _ _ => rfl) rfl, rfl, rfl⟩
  obtain ⟨mail, low, rfl⟩ := hv.rest
  have hf : lockFault rq.mb ((tick t s).withMail mail low) = none := by
    simp only [lockFault, show ((tick t s).withMail mail low).sh.lock = some rq.mb from hl, if_true]
  simp only [hf]
  rfl

/-- The commands that need the lock are refused while another mailbox holds it (R64). -/
theorem locked_refuses (h : s.Takes rq stStage) {other : Nat} (hl : s.sh.lock = some other) (ho : other ≠ rq.mb) :
    (rq.payload.length = 1 → s.hub.role ≠ .standby → Refuses (.cfgOpen t rq) t s rq 0x0010 0x0501 (atIndex 0xFFFF))
      ∧ (rq.payload = [] → Refuses (.cfgAbort t rq) t s rq 0x0014 0x0501 (atIndex 0xFFFF))
      ∧ (rq.payload = [] → Refuses (.cfgSave t rq) t s rq 0x0016 0x0501 (atIndex 0xFFFF)) := by
  rw [← refused_atIndex]
  have held : s.sh.lock.isSome ∧ s.sh.lock ≠ some rq.mb := by simp [hl, ho]
  refine ⟨fun hp hr => ?_, fun hp => ?_, fun hp => ?_⟩
  · refine refuses_of (l := {}) (c := cfgOpenRules) rfl (by decide) h (fun _ => hr)
      (by show lenIs 1 _ = true; simp [lenIs, hp]) fun v hv => ?_
    obtain ⟨mail, low, rfl⟩ := hv.rest
    exact if_pos held
  · refine refuses_of (l := {}) (c := cfgAbortRules) rfl (by decide) h (fun e => absurd e (by decide)) (by rw [hp]; rfl)
      fun v hv => ?_
    obtain ⟨mail, low, rfl⟩ := hv.rest
    have hf : lockFault rq.mb ((tick t s).withMail mail low) = some 0x0501 := by
      simp only [lockFault, show ((tick t s).withMail mail low).sh.lock = some other from hl, if_neg ho]
    simp only [hf]
    rfl
  · refine refuses_of (l := {}) (c := cfgSaveRules) rfl (by decide) h (fun e => absurd e (by decide)) (by rw [hp]; rfl)
      fun v hv => ?_
    obtain ⟨mail, low, rfl⟩ := hv.rest
    exact if_pos held

/-- The header of PARAM_WRITE (R65). -/
theorem paramHeader {p : Bytes} {block off count : Nat}
    (h : slice p 0 8 = beBytes 2 block ++ beBytes 2 off ++ beBytes 2 count ++ zeros 2) (hb : block < 2 ^ 16) (ho : off < 2 ^ 16)
    (hc : count < 2 ^ 16) : beAt p 0 2 = block ∧ beAt p 2 2 = off ∧ beAt p 4 2 = count ∧ beAt p 6 2 = 0 := by
  have hz : zeros 2 = beBytes 2 0 := by decide
  have at_ : ∀ k, k ≤ 6 → beAt p k 2 = beAt (beBytes 2 block ++ beBytes 2 off ++ beBytes 2 count ++ beBytes 2 0) k 2 := by
    intro k hk
    rw [← hz, ← h, beAt_slice p 0 8 k 2 (by omega), Nat.zero_add]
  refine ⟨?_, ?_, ?_, ?_⟩
  all_goals
    rw [at_ _ (by decide)]
    simp only [List.append_assoc, beAt_skip, beAt_head, beAt_only, beBytes_length, Nat.reduceLeDiff, Nat.reduceSub, Nat.le_refl]
    omega

/-- The lock's own mailbox may write. -/
theorem lockFault_own {v : State} {mb : Nat} (h : v.sh.lock = some mb) : lockFault mb v = none := by
  simp only [lockFault, h, if_true]

/-- PARAM_WRITE of husks that match stores each word in its place (R8, R65). -/
theorem paramWrite_answers (h : s.Takes rq stStage) (hr : s.hub.role ≠ .standby) {block off n : Nat} {ws : List Word} {w : Work}
    (hb : block < 2 ^ 16) (hn : blockSize block = some n) (hne : ws ≠ []) (hl : ws.length ≤ 124) (ho : off + ws.length ≤ n)
    (hlock : s.sh.lock = some rq.mb) (hw : s.sh.work = some w)
    (hp : rq.payload = beBytes 2 block ++ beBytes 2 off ++ beBytes 2 ws.length ++ zeros 2 ++ ws.flatMap huskBytes) :
    Answers (.paramWrite t rq) s rq 0x0012 0 0 [] { tick t s with sh := { s.sh with
      work := some { w with words := ((List.range ws.length).zip ws).foldl (writeWord block off) w.words } } } := by
  have hlt := blockSize_lt hn
  have hlen : rq.payload.length = 8 + 8 * ws.length := by
    rw [hp, List.length_append, flatMap_rows_length _ _ 8 fun _ _ => huskBytes_length _]
    simp
  have hpos : 0 < ws.length := List.length_pos_iff.2 hne
  obtain ⟨h0, h2, h4, h6⟩ := paramHeader (p := rq.payload) (block := block) (off := off) (count := ws.length)
    (by rw [hp, slice_append_left _ _ _ _ (by simp), slice_all _ _ (by simp)]) hb (by omega) (by omega)
  have hrange : rangeFault block off ws.length = none := by simp [rangeFault, hn]; omega
  have hhusks : husksAt rq.payload 8 ws.length = some ws := by
    have e := husksAt_flatMap ws (beBytes 2 block ++ beBytes 2 off ++ beBytes 2 ws.length ++ zeros 2)
    rw [hp]
    simpa using e
  let put := fun v : State => { v with sh := { v.sh with
      work := some { w with words := ((List.range ws.length).zip ws).foldl (writeWord block off) w.words } } }
  refine done_of (c := paramWriteRules) rfl (by decide) h (fun _ => hr) (by
      show decide (8 ≤ rq.payload.length ∧ rq.payload.length % 8 = 0) = true
      rw [decide_eq_true_eq]; omega) fun v hv => ⟨put v, ?_, hv.map put (fun _ _ _ => rfl) rfl, rfl, rfl⟩
  obtain ⟨mail, low, rfl⟩ := hv.rest
  have hlf : lockFault rq.mb ((tick t s).withMail mail low) = none := lockFault_own hlock
  have hw' : ((tick t s).withMail mail low).sh.work = some w := hw
  simp only [h0, h2, h4, h6, hlf, hw', hrange, hhusks, if_neg (show ¬ rq.payload.length ≠ 8 + 8 * ws.length by omega),
    if_neg (show ¬ (ws.length = 0 ∨ ws.length > 124) by omega), if_neg (show ¬ (0 : Nat) ≠ 0 by decide)]
  rfl

/-- PARAM_WRITE refuses at the first husk that does not match (R65, R398). -/
theorem paramWrite_refuses (h : s.Takes rq stStage) (hr : s.hub.role ≠ .standby) {block off count n i : Nat}
    (hn : blockSize block = some n) (hb : block < 2 ^ 16) (hc : 0 < count) (hc' : count ≤ 124) (ho : off + count ≤ n)
    (hlen : rq.payload.length = 8 + 8 * count) (hlock : s.sh.lock = some rq.mb) (hw : s.sh.work ≠ none)
    (hp : slice rq.payload 0 8 = beBytes 2 block ++ beBytes 2 off ++ beBytes 2 count ++ zeros 2) (hi : i < count)
    (hbad : huskAt rq.payload (8 + 8 * i) = none) (hgood : ∀ j, j < i → huskAt rq.payload (8 + 8 * j) ≠ none) :
    Refuses (.paramWrite t rq) t s rq 0x0012 0x0401
      (beBytes 2 block ++ beBytes 2 (off + i) ++ beBytes 2 0xFFFF ++ zeros 2) := by
  have hlt := blockSize_lt hn
  obtain ⟨h0, h2, h4, h6⟩ := paramHeader hp hb (by omega) (by omega)
  have hrange : rangeFault block off count = none := by simp [rangeFault, hn]; omega
  have hfind : (List.range count).find? (fun i => (huskAt rq.payload (8 + 8 * i)).isNone) = some i := by
    rw [List.find?_range_eq_some]
    refine ⟨by simp [hbad], by simpa using hi, fun j hj => ?_⟩
    simpa [Option.isSome_iff_ne_none] using hgood j hj
  obtain ⟨w, hw⟩ := Option.ne_none_iff_exists'.1 hw
  refine refuses_of (l := { block, off := off + i }) (c := paramWriteRules) rfl (by decide) h (fun _ => hr) (by
      show decide (8 ≤ rq.payload.length ∧ rq.payload.length % 8 = 0) = true
      rw [decide_eq_true_eq]; omega) fun v hv => ?_
  obtain ⟨mail, low, rfl⟩ := hv.rest
  have hlf : lockFault rq.mb ((tick t s).withMail mail low) = none := lockFault_own hlock
  have hw' : ((tick t s).withMail mail low).sh.work = some w := hw
  simp only [h0, h2, h4, h6, hlf, hw', hrange, husksAt_none hi hbad, hfind,
    if_neg (show ¬ rq.payload.length ≠ 8 + 8 * count by omega), if_neg (show ¬ (count = 0 ∨ count > 124) by omega),
    if_neg (show ¬ (0 : Nat) ≠ 0 by decide), Option.getD_some]

end

/-- Settles O17: one lemma for each command of the session. -/
theorem editSessionEdits : Obligations.EditSessionEdits := by
  intro s t rq h hr u
  refine ⟨fun src w hp hl hw => cfgOpen_answers t h hr hp hl hw, fun block off n ws w hb hn hne hl ho hlock hw hp => ?_,
    fun block off count n hn hb hc hc' ho hlen hlock hw hp i hi hbad hgood =>
      paramWrite_refuses t h hr hn hb hc hc' ho hlen hlock hw hp hi hbad hgood,
    fun hp hl => cfgAbort_answers t h hp hl, fun other hl ho => ?_⟩
  · have hlt := blockSize_lt hn
    obtain ⟨h1, h2⟩ := writeWords_fold (block := block) (off := off) ws 0 w.words (by omega)
    rw [← List.range_eq_range'] at h1 h2
    simp only [Nat.zero_add] at h1
    exact ⟨_, paramWrite_answers t h hr hb hn hne hl ho hlock hw hp, h1, h2⟩
  · obtain ⟨h1, h2, h3⟩ := locked_refuses t h hl ho
    exact ⟨fun hp => h1 hp hr, h2, h3⟩

end Sys2Proof.Machine

/-! SUPPORT. COMMIT and the moves of the hub state (R31, R57 to R60, R66 to R68): what they stage, and what they leave. -/

namespace Sys2Proof.Machine

open Sys2Proof

/-! ### Answers of every kind -/

/-- An operation that neither reads nor writes the mailboxes and the SPI interrupt pin. -/
def MailFree (f : State → State) : Prop := ∀ v mail low, f (State.withMail v mail low) = (f v).withMail mail low

theorem MailFree.comp {f g : State → State} (hg : MailFree g) (hf : MailFree f) : MailFree fun s => g (f s) := fun v mail low => by
  show g (f (v.withMail mail low)) = (g (f v)).withMail mail low
  rw [hf, hg]

theorem MailFree.ite {f g : State → State} {c : State → Prop} [∀ s, Decidable (c s)] (hf : MailFree f) (hg : MailFree g)
    (hc : ∀ v mail low, c (State.withMail v mail low) ↔ c v) : MailFree fun s => if c s then f s else g s := fun v mail low => by
  show (if c (v.withMail mail low) then f (v.withMail mail low) else g (v.withMail mail low))
    = (if c v then f v else g v).withMail mail low
  by_cases h : c v
  · rw [if_pos h, if_pos ((hc v mail low).2 h), hf]
  · rw [if_neg h, if_neg (fun x => h ((hc v mail low).1 x)), hg]

section
variable {s u : State} {rq : Req}

/-- A request whose body answers at once, on a state that is u but for the request's mailbox. -/
theorem answers_by {c : Rules} {body : Req → State → Reply × State} {t : Nat} {i : Instr} {status reason : Nat} {p : Bytes}
    (he : exec i s = runCmd c body t rq s) (hk : cmdKnown c.code = true) (h : s.Takes rq c.legal)
    (hb : c.standbyNo = true → s.hub.role ≠ .standby) (hn : c.len rq.payload.length = true)
    (hr : ∀ v, Running rq (tick t s) v → ∃ r w, body { rq with cmd := c.code } v = (r, w)
      ∧ reply { rq with cmd := c.code } r w = finish { rq with cmd := c.code } status reason p w ∧ Running rq u w
      ∧ w.pending = v.pending ∧ w.sh.taken = v.sh.taken) : Answers i s rq c.code status reason p u := by
  have hs : (tick t s).hub.state ≠ .safe := h.safe
  obtain ⟨r, w, e, hf, hw, hp, ht⟩ := hr _ (takeReq_running (rq := rq) hs c.code)
  refine answers_of he hk h hb hn (x := w) ?_ hw (hp.trans ?_) (ht.trans ?_)
  · rw [e]
    exact hf
  · unfold takeReq; split <;> rfl
  · simp [h.front]

theorem emitSv_mailFree (e : Emission) : MailFree (emitSv e) :=
  .ite (f := fun s => { s with pair := { s.pair with out := s.pair.out ++ [e] } }) (fun _ _ _ => rfl) (fun _ _ _ => rfl)
    fun _ _ _ => Iff.rfl

theorem emitDelta_mailFree (d : Delta) : MailFree fun s => emitDelta s d := fun v mail low =>
  emitSv_mailFree (.delta v.clk.loom d (svForm 3 (Config.deltaPayload d) v).1) (svForm 3 (Config.deltaPayload d) v).2 mail low

/-- A delta joins those not yet acknowledged (R429). -/
def State.withDelta (s : State) (d : Delta) : State :=
  { s with pair := { s.pair with deltas := s.pair.deltas ++ [d], nextDelta := next32 s.pair.nextDelta } }

theorem sendDelta_mailFree (c : Change) (due : Nat) : MailFree (sendDelta c due) := by
  refine MailFree.ite (c := fun s => s.hub.role = .active ∧ s.paired = true) (g := fun s => s) ?_ (fun _ _ _ => rfl)
    fun _ _ _ => Iff.rfl
  intro v mail low
  cases mirrored c with
  | none => rfl
  | some c =>
    let d : Delta := { id := v.pair.nextDelta, change := c, due, cfgSeq := v.cfg.seq }
    exact emitDelta_mailFree d (v.withDelta d) mail low

/-- A staged change and its delta are apart from the mailboxes. -/
theorem stageAt_mailFree (due : Nat) (c : Change) (cmd mb seq : Nat) : MailFree (stageAt due c cmd mb seq) := fun v mail low =>
  sendDelta_mailFree c due { v with cfg := { v.cfg with staged := v.cfg.staged ++ [{ change := c, due, cmd, mb, seq }] } } mail low

/-! ### COMMIT (R66 to R68) -/

/-- The husk of a COMMIT word (R66). -/
theorem commitWord {word : Word} {p : Bytes} (hp : p = huskBytes word) : huskAt p 0 = some word := by
  have e := huskAt_huskBytes [] [] word
  rw [hp]
  simpa using e

/-- COMMIT with EN by the mailbox that holds the lock goes on to the check of its changes. -/
theorem commitBody_checks {q : Req} {v : State} {word : Word} {w : Work} (hp : q.payload = huskBytes word)
    (hz : word &&& 0xFFFFFFF0#32 = 0#32) (he : bitAt word 0 = true) (hl : v.sh.lock = some q.mb) (hw : v.sh.work = some w)
    (hr : v.hub.role ≠ .standby) :
    commitBody q v = match v.commitFail (v.cfg.force.changes (keepLive v.cfg.force w.words)) (keepLive v.cfg.force w.words)
        (bitAt word 1) with
      | some (e, l) => (.refused e l, v)
      | none => if bitAt word 1 then (.done v.commitDone, v)
        else commitTake (v.cfg.force.changes (keepLive v.cfg.force w.words)) word q v := by
  rw [commitBody, commitWord hp]
  simp only [hz, lockFault_own hl, hw, he, if_neg hr, ne_eq, not_true_eq_false, if_false, Bool.true_eq_false]
  rfl

theorem commitFail_withMail (v : State) (mail : Tab Mailbox) (low : Bool) (ws : List (Nat × Word)) (new : PMem) (b : Bool) :
    (v.withMail mail low).commitFail ws new b = v.commitFail ws new b := rfl

/-- A change that is staged joins those that wait, and nothing else of the configuration changes (R31). -/
theorem stageAt_cfg (due : Nat) (c : Change) (cmd mb seq : Nat) (v : State) :
    (stageAt due c cmd mb seq v).cfg = { v.cfg with staged := v.cfg.staged ++ [{ change := c, due, cmd, mb, seq }] } := by
  rw [stageAt, sendDelta_cfg]

theorem afterCommit_mailFree (keep : Bool) : MailFree (afterCommit keep) := fun v mail low => by
  cases keep <;> rfl

@[simp] theorem afterCommit_mail (keep : Bool) (v : State) : (afterCommit keep v).sh.mail = v.sh.mail := by cases keep <;> rfl
@[simp] theorem afterCommit_taken (keep : Bool) (v : State) : (afterCommit keep v).sh.taken = v.sh.taken := by cases keep <;> rfl

/-- The changes of a COMMIT enter the configuration in force and are staged (R68, R500). -/
theorem acceptWords_eq (ws : List (Nat × Word)) (q : Req) (v : State) :
    acceptWords ws q v = stageAt v.due (.words ws) q.cmd q.mb q.seq { v with cfg := { v.cfg with
      force := v.cfg.force.putAll ws, seq := (v.cfg.seq + 1) % 2 ^ 32, seqPast := (v.clk.loom, v.cfg.seq) :: v.cfg.seqPast } } := rfl

theorem acceptWords_mailFree (ws : List (Nat × Word)) (q : Req) : MailFree (acceptWords ws q) := fun v mail low =>
  stageAt_mailFree v.due (.words ws) q.cmd q.mb q.seq { v with cfg := { v.cfg with
    force := v.cfg.force.putAll ws, seq := (v.cfg.seq + 1) % 2 ^ 32
    seqPast := (v.clk.loom, v.cfg.seq) :: v.cfg.seqPast } } mail low

/-- The move to READY that a COMMIT in CONFIG stages too (R68). -/
def commitMoves (q : Req) (v : State) : State :=
  if v.hub.state = .config then stage (.move .ready) q v else v

theorem commitMoves_mailFree (q : Req) : MailFree (commitMoves q) :=
  .ite (fun v mail low => stageAt_mailFree v.due (.move .ready) q.cmd q.mb q.seq v mail low) (fun _ _ _ => rfl)
    fun _ _ _ => Iff.rfl

@[simp] theorem commitMoves_sh (q : Req) (v : State) : (commitMoves q v).sh = v.sh := by
  unfold commitMoves
  split
  · exact stageAt_sh ..
  · rfl

@[simp] theorem commitMoves_pending (q : Req) (v : State) : (commitMoves q v).pending = v.pending := by
  unfold commitMoves
  split
  · exact stageAt_pending ..
  · rfl

/-- What a COMMIT leaves that stages changes and is not saved (R68). -/
def commitLeaves (keep : Bool) (ws : List (Nat × Word)) (q : Req) (v : State) : State :=
  afterCommit keep (commitMoves q (acceptWords ws q v))

theorem commitLeaves_mailFree (keep : Bool) (ws : List (Nat × Word)) (q : Req) : MailFree (commitLeaves keep ws q) :=
  (afterCommit_mailFree keep).comp ((commitMoves_mailFree q).comp (acceptWords_mailFree ws q))

theorem commitLeaves_frame (keep : Bool) (ws : List (Nat × Word)) (q : Req) (v : State) :
    (commitLeaves keep ws q v).sh.mail = v.sh.mail ∧ (commitLeaves keep ws q v).pending = v.pending
      ∧ (commitLeaves keep ws q v).sh.taken = v.sh.taken := by
  have hp : (commitLeaves keep ws q v).pending = (commitMoves q (acceptWords ws q v)).pending := rfl
  rw [hp]
  simp [commitLeaves, acceptWords_eq]

/-- A COMMIT that is not saved: nothing differs, or the changes are staged (R66, R68). -/
theorem commitTake_unsaved {word : Word} (hs : bitAt word 2 = false) (ws : List (Nat × Word)) (q : Req) (v : State) :
    commitTake ws word q v = if ws = [] then (.done v.commitDone, afterCommit (bitAt word 3) v)
      else (.staged v.due (beBytes 4 ((v.cfg.seq + 1) % 2 ^ 32)),
        commitLeaves (bitAt word 3) ws q v) := by
  have hseq : (acceptWords ws q v).cfg.seq = (v.cfg.seq + 1) % 2 ^ 32 := by rw [acceptWords_eq, stageAt_cfg]
  have hhub : (acceptWords ws q v).hub = v.hub := by rw [acceptWords_eq, stageAt_hub]
  cases ws with
  | nil => simp [commitTake, hs]
  | cons w r =>
    by_cases hc : v.hub.state = .config
    · simp [commitTake, commitLeaves, commitMoves, hs, hc, hseq, hhub, stage, stageAt_cfg]
    · simp [commitTake, commitLeaves, commitMoves, hs, hc, hseq, hhub]

section
variable {t : Nat} {word : Word}

/-- Each of the three rows of COMMIT is the one command (R66). -/
theorem commit_rows (c : Instr) (hc : c ∈ [Instr.commit t rq, .checkOnly t rq, .commitNoEn t rq]) (s : State) :
    exec c s = runCmd commitRules commitBody t rq s := by
  simp only [List.mem_cons, List.not_mem_nil, or_false] at hc
  rcases hc with rfl | rfl | rfl <;> rfl

end

end

/-- On a standby the COMMIT word is refused, once its own tests have passed (R60, R67). -/
theorem commitBody_standby {q : Req} {v : State} {word : Word} (hp : q.payload = huskBytes word)
    (hz : word &&& 0xFFFFFFF0#32 = 0#32) (hr : v.hub.role = .standby)
    (hl : bitAt word 0 = true → v.sh.lock = some q.mb ∧ v.sh.work ≠ none) : commitBody q v = (.no 0x0701, v) := by
  have hz' : word &&& 0xFFFFFFF0#32 = 0 := hz
  rw [commitBody, commitWord hp]
  cases he : bitAt word 0 with
  | false => simp only [hz', he, hr, ne_eq, not_true_eq_false, if_false, if_true]
  | true =>
    obtain ⟨hl, hw⟩ := hl he
    obtain ⟨w, hw⟩ := Option.ne_none_iff_exists'.1 hw
    simp only [hz', he, lockFault_own hl, hw, hr, ne_eq, not_true_eq_false, if_false, if_true, Bool.true_eq_false]

/-- Without EN nothing is done (R66). -/
theorem commitBody_no_en {q : Req} {v : State} {word : Word} (hp : q.payload = huskBytes word)
    (hz : word &&& 0xFFFFFFF0#32 = 0#32) (hr : v.hub.role ≠ .standby) (he : bitAt word 0 = false) :
    commitBody q v = (.done v.commitDone, v) := by
  have hz' : word &&& 0xFFFFFFF0#32 = 0 := hz
  rw [commitBody, commitWord hp]
  simp only [hz', he, if_neg hr, ne_eq, not_true_eq_false, if_false, if_true]

/-- Settles O18: the COMMIT word's bits in the order of the body's tests. -/
theorem commitStagesWhatDiffers : Obligations.CommitStagesWhatDiffers := by
  intro s t rq word h hp hz u done
  have hlen : commitRules.len rq.payload.length = true := by rw [hp]; rfl
  refine ⟨fun hr hl c hc => ?_, fun hr he => ?_, fun w hr he hl hw => ?_⟩
  · rw [← refused_atIndex]
    refine refuses_of (l := {}) (commit_rows c hc s) (by decide) h (fun e => absurd e (by decide)) hlen fun v hv => ?_
    obtain ⟨mail, low, rfl⟩ := hv.rest
    exact commitBody_standby hp hz hr hl
  · refine done_of (c := commitRules) rfl (by decide) h (fun e => absurd e (by decide)) hlen fun v hv => ⟨v, ?_, hv, rfl, rfl⟩
    obtain ⟨mail, low, rfl⟩ := hv.rest
    exact commitBody_no_en hp hz hr he
  · intro new ws kept own
    have checks : ∀ mail low, commitBody { rq with cmd := commitRules.code } (u.withMail mail low)
        = match u.commitFail ws new (bitAt word 1) with
          | some (e, l) => (.refused e l, u.withMail mail low)
          | none => if bitAt word 1 then (.done done, u.withMail mail low)
            else commitTake ws word { rq with cmd := commitRules.code } (u.withMail mail low) := fun mail low =>
      commitBody_checks hp hz he (v := u.withMail mail low) hl hw hr
    refine ⟨fun h1 hf => ?_, fun e l hf c hc => ?_, fun h1 h2 hf hn => ?_, fun h1 h2 hf hn => ?_⟩
    · refine done_of (c := commitRules) rfl (by decide) h (fun e => absurd e (by decide)) hlen fun v hv => ⟨v, ?_, hv, rfl, rfl⟩
      obtain ⟨mail, low, rfl⟩ := hv.rest
      rw [checks, h1, hf]
      rfl
    · refine refuses_of (l := l) (commit_rows c (by simp at hc ⊢; tauto) s) (by decide) h (fun e => absurd e (by decide)) hlen
        fun v hv => ?_
      obtain ⟨mail, low, rfl⟩ := hv.rest
      rw [checks, hf]
    · refine done_of (c := commitRules) rfl (by decide) h (fun e => absurd e (by decide)) hlen fun v hv =>
        ⟨afterCommit (bitAt word 3) v, ?_, ?_, ?_, ?_⟩
      · obtain ⟨mail, low, rfl⟩ := hv.rest
        rw [checks, h1, hf, commitTake_unsaved h2, if_pos hn]
        rfl
      · exact hv.map (afterCommit (bitAt word 3)) (afterCommit_mailFree _) (afterCommit_mail ..)
      · rfl
      · exact afterCommit_taken ..
    · intro v
      refine answers_by (c := commitRules) rfl (by decide) h (fun e => absurd e (by decide)) hlen fun x hx =>
        ⟨.staged u.due (beBytes 4 ((s.cfg.seq + 1) % 2 ^ 32)), commitLeaves (bitAt word 3) ws { rq with cmd := commitRules.code } x,
          ?_, rfl, ?_, ?_⟩
      · obtain ⟨mail, low, rfl⟩ := hx.rest
        rw [checks, h1, hf]
        exact (commitTake_unsaved h2 ..).trans (if_neg hn)
      · have e := hx.map _ (commitLeaves_mailFree (bitAt word 3) ws { rq with cmd := commitRules.code })
          (commitLeaves_frame (bitAt word 3) ws { rq with cmd := commitRules.code } _).1
        have hhub : v.hub = s.hub := stageAt_hub ..
        have hclk : v.clk = u.clk := stageAt_clk ..
        have hmoves : commitMoves { rq with cmd := commitRules.code } v
            = if s.hub.state = .config then stageAt u.due (.move .ready) 0x0013 rq.mb rq.seq v else v := by
          simp only [commitMoves, hhub, stage, State.due, hclk]
          rfl
        rw [← hmoves]
        exact e
      · exact (commitLeaves_frame ..).2

end Sys2Proof.Machine

/-! SUPPORT. The state commands and changes of the hub state (O20): what is logged stays logged, and what of the delivery of
streams a move touches. -/

namespace Sys2Proof.Machine

open Sys2Proof

/-! ### What a move leaves of the event log and of delivery (R57, R77) -/

/-- An entry stands in the log, or the log is full (R77). -/
def State.Logged (s : State) (e : Event) : Prop := e ∈ s.sh.log ∨ 4096 ≤ s.sh.log.length

/-- The streams are delivered or not as before, and what was logged stays logged as far as the log holds it. -/
structure Logs (s s' : State) : Prop where
  delivering : s'.hub.delivering = s.hub.delivering
  logged : ∀ e, s.Logged e → s'.Logged e

theorem Logs.refl (s : State) : Logs s s := ⟨rfl, fun _ h => h⟩

theorem Logs.trans {s u v : State} (a : Logs s u) (b : Logs u v) : Logs s v :=
  ⟨b.delivering.trans a.delivering, fun e h => b.logged e (a.logged e h)⟩

theorem Logs.of_eq {s s' : State} (h : s'.hub.delivering = s.hub.delivering) (hl : s'.sh.log = s.sh.log) : Logs s s' :=
  ⟨h, fun e k => by rwa [State.Logged, hl]⟩

theorem Logs.ite {s u v : State} {p : Prop} [Decidable p] (hu : Logs s u) (hv : Logs s v) : Logs s (if p then u else v) := by
  split
  · exact hu
  · exact hv

theorem foldl_logs {α : Type} {f : State → α → State} (hf : ∀ s x, Logs s (f s x)) (l : List α) (s : State) :
    Logs s (l.foldl f s) := by
  induction l generalizing s with
  | nil => exact .refl s
  | cons x r ih => exact (hf s x).trans (ih (f s x))

/-- A ring of 4,096 that takes more at its front keeps what it held, or is full. -/
theorem mem_take_append {e : Event} {pre l : List Event} (h : e ∈ l ∨ 4096 ≤ l.length) :
    e ∈ (pre ++ l).take 4096 ∨ 4096 ≤ ((pre ++ l).take 4096).length := by
  by_cases hn : (pre ++ l).length ≤ 4096
  · rw [List.take_of_length_le hn]
    exact h.imp (List.mem_append_right _) fun h => by simp; omega
  · exact .inr (by rw [List.length_take]; omega)

section
variable (s : State)

theorem logEvent_logs (reason source detail : Nat) : Logs s (logEvent reason source detail s) := by
  refine ⟨by simp, fun e h => ?_⟩
  have hx : e ∈ (s.sh.caughtUp s.clk.loom s.clk.beat).log ∨ 4096 ≤ (s.sh.caughtUp s.clk.loom s.clk.beat).log.length := by
    cases hf : s.sh.xiFrom with
    | none => rwa [caughtUp_of_none hf]
    | some last =>
      simp only [Shuttle.caughtUp, hf]
      exact mem_take_append h
  exact mem_take_append (pre := [_]) hx

/-- An event stands in the log once it is logged. -/
theorem logEvent_logged (reason source detail : Nat) :
    (logEvent reason source detail s).Logged { beat := s.clk.beat, reason, source, detail } :=
  .inl (List.mem_of_mem_head? rfl)

theorem chanUpd_logs (ch : Nat) (f : Chan → Chan) : Logs s (chanUpd ch f s) := .of_eq rfl rfl
theorem eventOn_logs (ch mode : Nat) (first : Int) (tE : Nat) (chain : Bool) : Logs s (eventOn ch mode first tE chain s) :=
  .of_eq rfl rfl
theorem leadUpd_logs (ch det : Nat) (f : Lead → Lead) : Logs s (leadUpd ch det f s) := .of_eq rfl rfl
theorem ovrUpd_logs (ch : Nat) (f : Ovr → Ovr) : Logs s (ovrUpd ch f s) := .of_eq rfl rfl
theorem noteSwitch_logs (pod at_ : Nat) : Logs s (noteSwitch pod at_ s) := .of_eq rfl rfl
theorem scUpd_logs (sc : Nat) (f : Converter → Converter) : Logs s (scUpd sc f s) := .of_eq rfl rfl
theorem loopUpd_logs (n : Nat) (f : Loop → Loop) : Logs s (loopUpd n f s) := .of_eq rfl rfl
theorem seqUpd_logs (q : Nat) (f : Seqr → Seqr) : Logs s (seqUpd q f s) := .of_eq rfl rfl
theorem bobUpd_logs (b : Nat) (f : Bobbin → Bobbin) : Logs s (bobUpd b f s) := .of_eq rfl rfl
theorem jobUpd_logs (id : Nat) (f : Job → Job) : Logs s (jobUpd id f s) := .of_eq rfl rfl
theorem stopStims_logs (z : Bool) : Logs s (stopStims z s) := .of_eq rfl rfl
theorem haltStims_logs : Logs s (haltStims s) := .of_eq rfl rfl
theorem startChan_logs (b ch : Nat) : Logs s (startChan b s ch) := .of_eq rfl rfl
theorem initSlot_logs (m : PMem) (n : Nat) : Logs s (initSlot m s n) := .of_eq rfl rfl
theorem crossUpd_logs (x : Nat) (f : Crossing → Crossing) : Logs s (crossUpd x f s) := .of_eq rfl rfl
theorem shakeEvent_logs (x src : Nat) : Logs s (shakeEvent x src s) := .of_eq rfl rfl
theorem alarmNotice_logs (onset : Bool) (code part reason : Nat) : Logs s (alarmNotice onset code part reason s) :=
  .of_eq (by simp) (by simp)

theorem endJob_logs (id st reason : Nat) (result : Bytes) (wfault : Nat) : Logs s (endJob id st reason result wfault s) := by
  have h := (shakeEvent_logs s 9 notifyJob).trans (jobUpd_logs _ id fun j =>
    { j with state := st, reason, result, ended := some (shakeEvent 9 notifyJob s).clk.loom })
  exact .ite (h.trans (logEvent_logs ..)) h

theorem leadSuspect_logs (ch det : Nat) : Logs s (leadSuspect ch det s) := .ite (leadUpd_logs ..) (leadUpd_logs ..)

theorem leadClear_logs (ch det : Nat) (recover : Bool) : Logs s (leadClear ch det recover s) := by
  refine .ite (.refl s) ?_
  have h := (leadUpd_logs s ch det fun l => { l with
      state := 0, overRow := 0, underRow := 0, wasConfirmed := false
      spans := l.spans.map fun p => if p.2.isNone then (p.1, some s.clk.loom) else p }).trans
    (.ite (p := (s.lead ch det).wasConfirmed = true) (alarmNotice_logs _ false 0x20 ch 0) (.refl _))
  exact .ite (h.trans (eventOn_logs ..)) h

theorem quietSlot_logs (ch : Nat) : Logs s (quietSlot ch s) :=
  (foldl_logs (fun u d => leadClear_logs u ch d false) _ s).trans (ovrUpd_logs ..)

theorem cutSlots_logs (pod : Nat) : Logs s (cutSlots pod s) :=
  foldl_logs (fun u ch => .ite (.ite (leadSuspect_logs u ch 3) (.refl u)) (leadClear_logs u ch 3 true)) _ s

theorem cutLeads_logs : Logs s (cutLeads s) := foldl_logs cutSlots_logs _ s

theorem startSampling_logs (b : Nat) : Logs s (startSampling b s) := foldl_logs (fun u ch => startChan_logs u b ch) _ s

theorem stopSampling_logs : Logs s (stopSampling s) :=
  (foldl_logs quietSlot_logs _ s).trans (foldl_logs (fun u ch => chanUpd_logs u ch Chan.stop) _ _)

theorem rolesSwitch_logs (at_ : Nat) : Logs s (rolesSwitch at_ s) := foldl_logs (fun u pod => noteSwitch_logs u pod at_) _ s

theorem returnSlot_logs (ch : Nat) : Logs s (returnSlot s ch) :=
  .ite ((chanUpd_logs s ch _).trans ((noteSwitch_logs _ _ _).trans (chanUpd_logs ..))) (chanUpd_logs ..)

theorem testEnd_logs (job st reason : Nat) (result : Bytes) : Logs s (testEnd job st reason result s) := by
  unfold testEnd
  split
  · exact (endJob_logs ..).trans (foldl_logs returnSlot_logs _ _)
  · exact .refl s

theorem endTests_logs : Logs s (endTests s) := foldl_logs (fun u (j : Nat × Job) => testEnd_logs u j.1 3 0 []) _ s

theorem leaveRunTreadle_logs (at_ : Nat) : Logs s (leaveRunTreadle at_ s) :=
  (foldl_logs (fun u q => (seqUpd_logs u q _).trans (foldl_logs (fun u b => bobUpd_logs u b _) _ _)) _ s).trans (.of_eq rfl rfl)

theorem holdTables_logs (at_ : Nat) : Logs s (holdTables at_ s) :=
  foldl_logs (fun u n => .ite (loopUpd_logs u n _) (.refl u)) _ s

theorem listsFrom_logs (at_ : Nat) (lists : List Nat) : Logs s (listsFrom at_ lists s) := by
  refine foldl_logs (fun u l => ?_) lists s
  refine .trans (u := { u with conv := { u.conv with passAt := u.conv.passAt.set l (at_, 0), passLeft := u.conv.passLeft.set l 0 } })
    (.of_eq rfl rfl) (foldl_logs (fun v sc => ?_) _ _)
  exact .trans (crossUpd_logs ..) (scUpd_logs ..)

theorem cancel_logs (keep : Staged → Bool) (cs : List Staged) :
    Logs s (cs.foldl cancelEvent { s with cfg := { s.cfg with staged := s.cfg.staged.filter keep } }) := by
  refine .trans ?_ (foldl_logs (f := cancelEvent) (fun u c => logEvent_logs u _ _ _) cs _)
  exact .of_eq rfl rfl

theorem arriveState_logs (old new : HubState) (reason at_ : Nat) : Logs s (arriveState old new reason at_ s) := by
  cases new with
  | ready =>
    have h : Logs s (if old = .run ∨ old = .fault then stopStims false (startSampling at_ s) else startSampling at_ s) :=
      .ite ((startSampling_logs s at_).trans (stopStims_logs ..)) (startSampling_logs s at_)
    refine .trans (.ite (p := old = .fault) (h.trans ?_) h) (foldl_logs (fun u n => initSlot_logs u _ n) _ _)
    exact .of_eq rfl rfl
  | run => exact startSampling_logs s at_
  | service => exact (stopStims_logs s true).trans (holdTables_logs ..)
  | config => exact (stopSampling_logs s).trans (stopStims_logs ..)
  | fault => exact .trans (.ite (p := s.yields = true) (.refl s) (stopStims_logs s true)) (alarmNotice_logs ..)
  | boot => exact .refl s
  | safe => exact haltStims_logs s

theorem setDelivering_logged (on : Bool) (at_ : Nat) {e : Event} (h : s.Logged e) : (setDelivering on at_ s).Logged e := by
  unfold setDelivering
  split
  · exact h
  · exact h

theorem setDelivering_sets (on : Bool) (at_ : Nat) : (setDelivering on at_ s).hub.delivering = on := by
  unfold setDelivering
  split
  next h => exact h
  · rfl

end

/-- What a move does to the delivery of streams (R56, R345). -/
def delivery (new : HubState) (at_ : Nat) (s : State) : State :=
  if new = .run ∨ new = .service then setDelivering true at_ s
  else if new = .fault ∨ new = .safe then s else setDelivering false at_ s

/-- A state in whose course delivery was set once. -/
theorem delivers_of {s a c : State} {new : HubState} {at_ : Nat} (ha : Logs s a) (hc : Logs (delivery new at_ a) c) :
    c.hub.delivering
        = (if new = .run ∨ new = .service then true else if new = .fault ∨ new = .safe then s.hub.delivering else false)
      ∧ ∀ e, s.Logged e → c.Logged e := by
  have hd : (delivery new at_ a).hub.delivering
      = (if new = .run ∨ new = .service then true else if new = .fault ∨ new = .safe then s.hub.delivering else false)
      ∧ ∀ e, a.Logged e → (delivery new at_ a).Logged e := by
    unfold delivery
    split
    · exact ⟨setDelivering_sets .., fun e h => setDelivering_logged a _ _ h⟩
    · split
      · exact ⟨ha.delivering, fun e h => h⟩
      · exact ⟨setDelivering_sets .., fun e h => setDelivering_logged a _ _ h⟩
  exact ⟨hc.delivering.trans hd.1, fun e h => hc.logged e (hd.2 e (ha.logged e h))⟩

/-- What leaving a state does to delivery, and to what was logged. -/
theorem leaveState_delivers (old new : HubState) (at_ : Nat) (s : State) :
    (leaveState old new at_ s).hub.delivering
        = (if new = .run ∨ new = .service then true else if new = .fault ∨ new = .safe then s.hub.delivering else false)
      ∧ ∀ e, s.Logged e → (leaveState old new at_ s).Logged e := by
  have then_ : ∀ {p : Prop} [Decidable p] (f : State → State) (_ : ∀ u, Logs u (f u)) (u : State), Logs u (if p then f u else u) :=
    fun f hf u => .ite (hf u) (.refl u)
  have hcancel := then_ (p := new = .fault ∨ new = .safe ∨ new = .boot) cancelMoves (fun u => cancel_logs u _ _) s
  have harms := fun u => then_ (p := new = .boot) cancelArms (fun u => cancel_logs u _ _) u
  have hleft := fun u => then_ (p := old = .run ∨ old = .service ∨ old = .fault)
    (fun u => { u with hub := { u.hub with left := at_ :: u.hub.left.filter fun x => decide (u.clk.loom < x + 2 ^ 31) } })
    (fun u => .of_eq rfl rfl) u
  have hroles := fun u => then_ (p := (stSampling old != stSampling new && new != .boot && new != .safe) = true)
    (fun u => rolesSwitch at_ (if stSampling new then listsFrom at_ (List.range 8) u else u))
    (fun u => (Logs.ite (listsFrom_logs u at_ _) (.refl u)).trans (rolesSwitch_logs _ at_)) u
  have htreadle := fun u => then_ (p := old = .run ∧ new ≠ .safe ∧ new ≠ .boot) (leaveRunTreadle at_)
    (fun u => leaveRunTreadle_logs u at_) u
  have htests := fun u => then_ (p := old = .service ∧ (new = .config ∨ new = .fault)) endTests endTests_logs u
  exact delivers_of (at_ := at_) (hcancel.trans ((harms _).trans ((hleft _).trans (hroles _)))) ((htreadle _).trans (htests _))

/-- No commanded move waits among changes of which none is a move. -/
theorem pendingMove_none {s : State} (h : ∀ c ∈ s.cfg.staged, isMove c = false) : s.pendingMove = none := by
  rw [State.pendingMove, List.findSome?_eq_none_iff]
  intro c hc
  have hm := h c hc
  unfold isMove at hm
  split <;> simp_all

/-- Changes that a move leaves staged were staged before. -/
theorem Moving.noMoves {s s' : State} (h : Moving s s') (hn : ∀ c ∈ s.cfg.staged, isMove c = false) :
    ∀ c ∈ s'.cfg.staged, isMove c = false := by
  obtain ⟨keep, _, e⟩ := h.cfg
  rw [e]
  exact fun c hc => hn c (List.mem_of_mem_filter hc)

theorem cancelMoves_noMoves (s : State) : ∀ c ∈ (cancelMoves s).cfg.staged, isMove c = false := by
  have e : ∀ (cs : List Staged) (u : State), (cs.foldl cancelEvent u).cfg = u.cfg := by
    intro cs
    induction cs with
    | nil => exact fun _ => rfl
    | cons c r ih => exact fun u => (ih _).trans (logEvent_cfg ..)
  unfold cancelMoves
  rw [e]
  exact fun c hc => by simpa using (List.mem_filter.1 hc).2

/-- A move that enters FAULT, SAFE or BOOT has cancelled the one that waited (R57). -/
theorem leaveState_cancels {old new : HubState} (at_ : Nat) {s : State} (h : new = .fault ∨ new = .safe ∨ new = .boot) :
    ∀ c ∈ (leaveState old new at_ s).cfg.staged, isMove c = false := by
  have then_ : ∀ {p : Prop} [Decidable p] (f : State → State) (_ : ∀ u, Moving u (f u)) (u : State),
      Moving u (if p then f u else u) := fun f hf u => .ite (fun _ => hf u) fun _ => .refl u
  have harms := fun u => then_ (p := new = .boot) cancelArms cancelArms_moving u
  have hleft := fun u => then_ (p := old = .run ∨ old = .service ∨ old = .fault)
    (fun u => { u with hub := { u.hub with left := at_ :: u.hub.left.filter fun x => decide (u.clk.loom < x + 2 ^ 31) } })
    (fun u => Steady.moving (.of_eq rfl rfl)) u
  have hroles := fun u => then_ (p := (stSampling old != stSampling new && new != .boot && new != .safe) = true)
    (fun u => rolesSwitch at_ (if stSampling new then listsFrom at_ (List.range 8) u else u))
    (fun u => ((Steady.ite (fun _ => listsFrom_steady ..) fun _ => .refl u).trans (rolesSwitch_steady ..)).moving) u
  have hdeliver : ∀ u, Moving u (delivery new at_ u) := fun u => .ite (fun _ => (setDelivering_steady _ _ _).moving) fun _ =>
    .ite (fun _ => .refl u) fun _ => (setDelivering_steady _ _ _).moving
  have htreadle := fun u => then_ (p := old = .run ∧ new ≠ .safe ∧ new ≠ .boot) (leaveRunTreadle at_)
    (fun u => (leaveRunTreadle_steady u at_).moving) u
  have htests := fun u => then_ (p := old = .service ∧ (new = .config ∨ new = .fault)) endTests (fun u => (endTests_steady u).moving) u
  have first : ∀ c ∈ (if new = .fault ∨ new = .safe ∨ new = .boot then cancelMoves s else s).cfg.staged, isMove c = false := by
    rw [if_pos h]
    exact cancelMoves_noMoves s
  exact ((harms _).trans ((hleft _).trans ((hroles _).trans ((hdeliver _).trans ((htreadle _).trans (htests _)))))).noMoves first

/-! ### A change of the hub state (R57, R76, R77) -/

/-- What a change of the hub state leaves: it is logged, the waiting move goes where R57 cancels it, and the streams are
delivered in RUN and SERVICE. -/
theorem enterState_effect {s : State} {new : HubState} (reason source at_ : Nat) (hne : s.hub.state ≠ new)
    (hs : s.hub.state = .safe → new = .boot) :
    let s' := enterState new reason source at_ s
    s'.hub.state = new ∧ s'.hub.lastCause = (if reason = 0 then s.hub.lastCause else reason)
      ∧ s'.Logged { beat := s.clk.beat, reason, source, detail := stateCode s.hub.state * 16 + stateCode new }
      ∧ (new = .fault ∨ new = .safe ∨ new = .boot → s'.pendingMove = none)
      ∧ s'.hub.delivering
        = (if new = .run ∨ new = .service then true else if new = .fault ∨ new = .safe then s.hub.delivering else false)
      ∧ s'.clk = s.clk ∧ s'.cfg.force = s.cfg.force ∧ s'.cfg.active = s.cfg.active ∧ s'.hub.role = s.hub.role := by
  intro s'
  have hm := enterState_moving reason source at_ hne hs
  have hn : ¬ (s.hub.state = new ∨ (s.hub.state = .safe ∧ new ≠ .boot)) := by
    rintro (h | ⟨h, hb⟩)
    · exact hne h
    · exact hb (hs h)
  let x := logEvent reason source (stateCode s.hub.state * 16 + stateCode new)
    (s.inState new (if new = .safe then s.hub.state else s.hub.safeFrom) (if reason = 0 then s.hub.lastCause else reason))
  have e : s' = cutLeads (arriveState s.hub.state new reason at_ (leaveState s.hub.state new at_ x)) := if_neg hn
  obtain ⟨hd, hl⟩ := leaveState_delivers s.hub.state new at_ x
  have hlast := (arriveState_logs (leaveState s.hub.state new at_ x) s.hub.state new reason at_).trans (cutLeads_logs _)
  obtain ⟨keep, _, hcfg⟩ := hm.cfg
  obtain ⟨causes, hhub⟩ := hm.hub
  refine ⟨hm.state, hm.lastCause, ?_, fun h => ?_, ?_, hm.clk, ?_, ?_, ?_⟩
  · rw [e]
    exact hlast.logged _ (hl _ (logEvent_logged _ _ _ _))
  · rw [e]
    exact pendingMove_none (((arriveState_moving ..).trans (cutLeads_steady _).moving).noMoves (leaveState_cancels at_ h))
  · rw [e]
    have hx : x.hub.delivering = s.hub.delivering := by simp [x, State.inState]
    rw [hlast.delivering, hd, hx]
  · rw [show s'.cfg = _ from hcfg]; rfl
  · rw [show s'.cfg = _ from hcfg]; rfl
  · have hrole := congrArg Hub.role hhub
    exact hrole

/-! ### The state commands (R57 to R60, R74) -/

section
variable {s : State} {rq : Req} {t : Nat} {c : Rules} {body : Req → State → Reply × State} {i : Instr} {target : HubState}

/-- A commanded move is staged where none waits, and refused otherwise (R57). -/
theorem stageMove_answers (he : exec i s = runCmd c body t rq s) (hk : cmdKnown c.code = true) (h : s.Takes rq c.legal)
    (hb : c.standbyNo = true → s.hub.role ≠ .standby) (hn : c.len rq.payload.length = true)
    (hm : ∀ mail low, body { rq with cmd := c.code } ((tick t s).withMail mail low)
      = stageMove target { rq with cmd := c.code } ((tick t s).withMail mail low)) :
    (s.pendingMove = none → Stages i t s rq c.code (.move target) [] (tick t s))
      ∧ (s.pendingMove ≠ none → Refuses i t s rq c.code 0x0107 (atIndex 0xFFFF)) := by
  refine ⟨fun hp => ?_, fun hp => ?_⟩
  · refine answers_by he hk h hb hn fun v hv => ⟨.staged (tick t s).due [],
      stageAt (tick t s).due (.move target) c.code rq.mb rq.seq v, ?_, rfl, hv.map (stageAt (tick t s).due (.move target) c.code rq.mb rq.seq) (stageAt_mailFree _ _ _ _ _) (by simp), ?_, ?_⟩
    · obtain ⟨mail, low, rfl⟩ := hv.rest
      rw [hm]
      exact if_neg (by simp [show ((tick t s).withMail mail low).pendingMove = none from hp])
    · exact stageAt_pending ..
    · exact congrArg Shuttle.taken (stageAt_sh ..)
  · rw [← refused_atIndex]
    refine refuses_of (l := {}) he hk h hb hn fun v hv => ?_
    obtain ⟨mail, low, rfl⟩ := hv.rest
    rw [hm]
    exact if_pos (Option.isSome_iff_ne_none.2 hp)

end

/-- The rules of the commands that move the hub state (R59, R60, R74). -/
def moveRules (code : Nat) (legal : HubState → Bool) (standbyNo : Bool) : Rules := { code, legal, standbyNo, len := lenIs 0 }

/-- Settles O20: the commands through stageMove, the changes through what leaving and arriving do. -/
theorem hubStateMoves : Obligations.HubStateMoves := by
  refine ⟨fun s t rq h ht hp => ?_, fun s new reason source at_ => ?_⟩
  · intro u stages
    have hlen : lenIs 0 rq.payload.length = true := by rw [hp]; rfl
    have takes : ∀ legal : HubState → Bool, legal h = true → s.Takes rq legal := fun legal hl => by
      have hs : s.hub.state = h := by simpa using ht.legal
      exact { ht with legal := by rw [hs]; exact hl }
    refine ⟨fun hr hh => ?_, fun hr hh => ?_, fun hr hh => ?_, fun hr hh hd hc => ?_, fun hr hh hd => ?_, fun hr hh ht => ?_,
      fun hr hh ht => ?_, fun hh hu hc => ?_, fun e hh hu => ?_, fun e l hh hu hc => ?_⟩
    · exact stageMove_answers (c := moveRules 0x0020 (fun h => h == .ready || h == .service || h == .fault) true) rfl (by decide)
        (takes _ (by rcases hh with rfl | rfl | rfl <;> rfl)) (fun _ => hr) hlen fun _ _ => rfl
    · exact stageMove_answers (c := moveRules 0x0022 (· == .run) true) rfl (by decide)
        (takes _ (by rw [hh]; rfl)) (fun _ => hr) hlen fun _ _ => rfl
    · exact stageMove_answers (c := moveRules 0x0023 (· == .ready) true) rfl (by decide)
        (takes _ (by rw [hh]; rfl)) (fun _ => hr) hlen fun _ _ => rfl
    · refine stageMove_answers (c := moveRules 0x0021 (· == .ready) true) rfl (by decide)
        (takes _ (by rw [hh]; rfl)) (fun _ => hr) hlen fun mail low => ?_
      have hd' : ((tick t s).withMail mail low).pair.detached = false := hd
      have hc' : ((tick t s).withMail mail low).coreCut = false := hc
      simp only [hd', hc', Bool.false_eq_true, if_false]
    · rw [← refused_atIndex]
      refine refuses_of (l := {}) (c := moveRules 0x0021 (· == .ready) true) rfl (by decide) (takes _ (by rw [hh]; rfl))
        (fun _ => hr) hlen fun v hv => ?_
      obtain ⟨mail, low, rfl⟩ := hv.rest
      exact if_pos hd
    · refine stageMove_answers (c := moveRules 0x0024 (· == .service) true) rfl (by decide)
        (takes _ (by rw [hh]; rfl)) (fun _ => hr) hlen fun mail low => ?_
      exact if_neg (by simp [show ((tick t s).withMail mail low).testing = false from ht])
    · rw [← refused_atIndex]
      refine refuses_of (l := {}) (c := moveRules 0x0024 (· == .service) true) rfl (by decide) (takes _ (by rw [hh]; rfl))
        (fun _ => hr) hlen fun v hv => ?_
      obtain ⟨mail, low, rfl⟩ := hv.rest
      exact if_pos ht
    · refine stageMove_answers (c := moveRules 0x0025 (· == .fault) false) rfl (by decide)
        (takes _ (by rw [hh]; rfl)) (fun e => absurd e (by decide)) hlen fun mail low => ?_
      have hu' : ((tick t s).withMail mail low).uncleared = none := hu
      have hc' : ((tick t s).withMail mail low).check ((tick t s).withMail mail low).cfg.force = none := hc
      simp only [hu', hc']
    · rw [← refused_atIndex]
      refine refuses_of (l := {}) (c := moveRules 0x0025 (· == .fault) false) rfl (by decide) (takes _ (by rw [hh]; rfl))
        (fun e => absurd e (by decide)) hlen fun v hv => ?_
      obtain ⟨mail, low, rfl⟩ := hv.rest
      have hu' : ((tick t s).withMail mail low).uncleared = some e := hu
      simp only [hu']
      rfl
    · refine refuses_of (l := l) (c := moveRules 0x0025 (· == .fault) false) rfl (by decide) (takes _ (by rw [hh]; rfl))
        (fun e => absurd e (by decide)) hlen fun v hv => ?_
      obtain ⟨mail, low, rfl⟩ := hv.rest
      have hu' : ((tick t s).withMail mail low).uncleared = none := hu
      have hc' : ((tick t s).withMail mail low).check ((tick t s).withMail mail low).cfg.force = some (e, l) := hc
      simp only [hu', hc']
  · intro s'
    refine ⟨fun h => enterState_same reason source at_ h, fun hne hs => ?_⟩
    obtain ⟨h1, h2, h3, h4, h5, h6, h7, h8, h9⟩ := enterState_effect reason source at_ hne hs
    refine ⟨h1, h2, h3, h4, fun h => ?_, fun h => ?_, fun h => ?_, h6, h7, h8, h9⟩
    · rw [h5, if_pos h]
    · rw [h5]
      rcases h with rfl | rfl | rfl <;> rfl
    · rw [h5]
      rcases h with rfl | rfl <;> rfl

end Sys2Proof.Machine

/-! SUPPORT. CFG_SAVE (R69): what the persistent write does to the copies, and what it answers. -/

namespace Sys2Proof.Machine

open Sys2Proof

/-- The configuration in force as a copy (R69). -/
def State.forceCopy (s : State) : Copy := { valid := true, seq := s.cfg.seq, words := s.cfg.force, beat := s.clk.beat }

/-- Both copies are written: BOOT rejected both, or neither is valid (R69). -/
def State.savesBoth (s : State) : Bool := s.cfg.rejected || (!s.cfg.copyA.valid && !s.cfg.copyB.valid)

/-- A write of one copy goes to slot B (R69). -/
def State.savesToB (s : State) : Bool := !s.savesBoth && !s.cfg.inB

/-- The copies with the configuration in force written to the slots of R69. -/
def State.copiesPut (s : State) : State :=
  let v := (nextFree s).2
  if s.savesBoth then putCopy true s.forceCopy (putCopy false s.forceCopy v) else putCopy s.savesToB s.forceCopy v

/-- The slot that a persistent write leaves in force (R69). -/
def State.saved (s : State) : State :=
  { s.copiesPut with cfg := { s.copiesPut.cfg with inB := s.savesToB, rejected := s.copiesPut.cfg.rejected && !s.savesBoth } }

/-- A write that fails is logged, and its sector is worn (R69, R459). -/
def State.saveFailed (source : Nat) (s : State) : State :=
  logEvent 0x0406 source (b2n s.savesToB) (sectorWorn (nextFree s).2)

theorem persistForce_eq (source : Nat) (s : State) : persistForce source s = if Config.emramWrite s.free
    then (true, setAlarm 12 false false 0xFFFF 0x0406 s.saved)
    else (false, setAlarm 12 true false 0xFFFF 0x0406 (s.saveFailed source)) := by
  cases h : Config.emramWrite s.free <;> simp only [persistForce, persist, nextFree, h] <;> rfl

theorem putCopy_mailFree (toB : Bool) (c : Copy) : MailFree (putCopy toB c) := fun _ _ _ => rfl

theorem saved_mailFree : MailFree State.saved := fun v mail low => by
  have e : (v.withMail mail low).copiesPut = v.copiesPut.withMail mail low := by
    show (if v.savesBoth = true then _ else _) = State.withMail (if v.savesBoth = true then _ else _) mail low
    cases v.savesBoth <;> rfl
  simp only [State.saved, e]
  rfl

theorem logEvent_mailFree (reason source detail : Nat) : MailFree (logEvent reason source detail) := fun v _ _ => by
  cases hx : v.sh.xiFrom <;> simp [logEvent, Shuttle.caughtUp, State.withMail, hx]

/-- A worn digital part is logged, and its spare may be staged (R459 to R461). -/
theorem partWorn_mailFree {kind : Nat} (hk : ¬ kind < 2) (pod idx : Nat) : MailFree (partWorn kind pod idx) := fun v mail low => by
  let found : State → State := fun s => logEvent 0 0x0E00 (seedDetail kind pod idx)
    { s with pow := { s.pow with worn := s.pow.worn ++ [{ kind, pod, idx, state := if kind < 2 then 1 else 0 }] } }
  have hf : MailFree found := fun v mail low => logEvent_mailFree _ _ _
    { v with pow := { v.pow with worn := v.pow.worn ++ [{ kind, pod, idx, state := if kind < 2 then 1 else 0 }] } } mail low
  have hs : MailFree fun s => if s.cfg.active.autoKind kind && s.spareLeft kind then stageOwn (.subst kind idx) s else s :=
    .ite (fun v mail low => stageAt_mailFree v.due _ _ _ _ v mail low) (fun _ _ _ => rfl) fun _ _ _ => Iff.rfl
  have e : partWorn kind pod idx = fun s =>
      if s.pow.worn.any fun w => w.kind == kind && w.pod == pod && w.idx == idx && w.state != 2 then s
      else (fun s => if s.cfg.active.autoKind kind && s.spareLeft kind then stageOwn (.subst kind idx) s else s) (found s) := by
    funext s
    rw [partWorn, if_neg hk]
  rw [e]
  exact MailFree.ite (c := fun s => (s.pow.worn.any fun w => w.kind == kind && w.pod == pod && w.idx == idx && w.state != 2) = true)
    (f := fun s => s) (fun _ _ _ => rfl) (hs.comp hf) (fun _ _ _ => Iff.rfl) v mail low

/-- Of the configuration, a worn part changes no more than the changes that wait. -/
theorem partWorn_cfg (kind pod idx : Nat) (s : State) : ∃ l, (partWorn kind pod idx s).cfg = { s.cfg with staged := l } := by
  unfold partWorn
  split
  · exact ⟨_, rfl⟩
  · split
    · exact ⟨s.cfg.staged, setAlarm_cfg ..⟩
    · dsimp only
      split
      · exact ⟨_, stageAt_cfg ..⟩
      · exact ⟨_, rfl⟩

theorem saveFailed_mailFree (source : Nat) : MailFree (State.saveFailed source) := fun v mail low => by
  show logEvent _ _ _ (sectorWorn ((nextFree v).2.withMail mail low)) = _
  have e : sectorWorn ((nextFree v).2.withMail mail low) = (sectorWorn (nextFree v).2).withMail mail low :=
    partWorn_mailFree (by decide) _ _ (nextFree (nextFree v).2).2 mail low
  rw [e, logEvent_mailFree]
  rfl

theorem persistForce_mailFree (source : Nat) (v : State) (mail : Tab Mailbox) (low : Bool) :
    persistForce source (v.withMail mail low) = ((persistForce source v).1, (persistForce source v).2.withMail mail low) := by
  have e : (v.withMail mail low).free = v.free := rfl
  rw [persistForce_eq, persistForce_eq, e, saved_mailFree, saveFailed_mailFree, setAlarm_withMail (by decide),
    setAlarm_withMail (by decide)]
  split <;> rfl

/-- What a persistent write leaves as it was (R69). -/
structure SaveFrame (s v : State) : Prop where
  sh : v.sh.mail = s.sh.mail ∧ v.sh.taken = s.sh.taken
  pending : v.pending = s.pending
  cfg : v.cfg.force = s.cfg.force ∧ v.cfg.active = s.cfg.active ∧ v.cfg.seq = s.cfg.seq
  rest : v.hub = s.hub ∧ v.clk = s.clk ∧ v.hed = s.hed ∧ v.filt = s.filt ∧ v.trd = s.trd ∧ v.drv = s.drv

theorem copiesPut_eq (s : State) : ∃ writes free, s.copiesPut = { s with
    cfg := { s.cfg with copyA := if s.savesBoth || !s.savesToB then s.forceCopy else s.cfg.copyA
                        copyB := if s.savesBoth || s.savesToB then s.forceCopy else s.cfg.copyB, writes }
    free } := by
  unfold State.copiesPut
  cases hb : s.savesBoth
  · cases ht : s.savesToB <;> exact ⟨_, _, rfl⟩
  · exact ⟨_, _, rfl⟩

theorem saved_frame (s : State) : SaveFrame s s.saved := by
  obtain ⟨writes, free, e⟩ := copiesPut_eq s
  rw [State.saved, e]
  exact ⟨⟨rfl, rfl⟩, rfl, ⟨rfl, rfl, rfl⟩, rfl, rfl, rfl, rfl, rfl, rfl⟩

theorem saveFailed_cfg (source : Nat) (s : State) : ∃ l, (s.saveFailed source).cfg = { s.cfg with staged := l } :=
  partWorn_cfg 6 0xFF _ (nextFree (nextFree s).2).2

theorem saveFailed_frame (source : Nat) (s : State) : SaveFrame s (s.saveFailed source) := by
  obtain ⟨l, e⟩ := saveFailed_cfg source s
  refine ⟨?_, ?_, by rw [e]; exact ⟨rfl, rfl, rfl⟩, ?_⟩ <;>
    simp [State.saveFailed, sectorWorn, nextFree]

theorem SaveFrame.alarm {s v : State} (h : SaveFrame s v) (on : Bool) :
    SaveFrame s (setAlarm 12 on false 0xFFFF 0x0406 v) := by
  obtain ⟨hm, hp, hc, hr⟩ := h
  exact ⟨by simpa using hm, by simpa using hp, by simpa using hc, by simpa using hr⟩

theorem persistForce_frame (source : Nat) (s : State) : SaveFrame s (persistForce source s).2 := by
  rw [persistForce_eq]
  split
  · exact (saved_frame s).alarm false
  · exact (saveFailed_frame source s).alarm true

/-- CFG_SAVE answers DONE, with 0x0406 where the write failed (R69). -/
theorem cfgSave_answers {s : State} {t : Nat} {rq : Req} (h : s.Takes rq stStage) (hp : rq.payload = [])
    (hl : s.sh.lock = none ∨ s.sh.lock = some rq.mb) :
    Answers (.cfgSave t rq) s rq 0x0016 0 (if (persistForce 0x0016 (tick t s)).1 then 0 else 0x0406) (beBytes 4 s.cfg.seq)
      (persistForce 0x0016 (tick t s)).2 := by
  refine answers_by (c := cfgSaveRules) rfl (by decide) h (fun e => absurd e (by decide)) (by rw [hp]; rfl) fun v hv => ?_
  have hm := (persistForce_frame 0x0016 (tick t s)).sh.1
  have hw := hv.map (fun v => (persistForce 0x0016 v).2) (fun v mail low => by rw [persistForce_mailFree]) hm
  obtain ⟨mail, low, rfl⟩ := hv.rest
  have e := persistForce_mailFree 0x0016 (tick t s) mail low
  have held : ¬ ((tick t s).sh.lock.isSome = true ∧ (tick t s).sh.lock ≠ some rq.mb) := not_locked hl
  have fr := persistForce_frame 0x0016 ((tick t s).withMail mail low)
  refine ⟨if (persistForce 0x0016 (tick t s)).1 then .done (beBytes 4 s.cfg.seq) else .doneReason 0x0406 (beBytes 4 s.cfg.seq),
    (persistForce 0x0016 ((tick t s).withMail mail low)).2, ?_, ?_, hw, fr.pending, fr.sh.2⟩
  · have hq : (persistForce 0x0016 ((tick t s).withMail mail low)).2.cfg.seq = s.cfg.seq := fr.cfg.2.2
    rw [show (persistForce 0x0016 (tick t s)).1 = (persistForce 0x0016 ((tick t s).withMail mail low)).1 from by rw [e], ← hq]
    exact if_neg held
  · cases (persistForce 0x0016 (tick t s)).1 <;> rfl

theorem persistForce_ok (source : Nat) (s : State) : (persistForce source s).1 = Config.emramWrite s.free := by
  rw [persistForce_eq]
  cases Config.emramWrite s.free <;> rfl

theorem persistForce_done {source : Nat} {s : State} (h : Config.emramWrite s.free = true) :
    (persistForce source s).2 = setAlarm 12 false false 0xFFFF 0x0406 s.saved := by rw [persistForce_eq, if_pos h]

theorem persistForce_lost {source : Nat} {s : State} (h : Config.emramWrite s.free = false) :
    (persistForce source s).2 = setAlarm 12 true false 0xFFFF 0x0406 (s.saveFailed source) := by
  rw [persistForce_eq, h]
  rfl

theorem persistForce_alarm (source : Nat) (s : State) :
    (persistForce source s).2.sh.alarms.contains 12 = !(persistForce source s).1 := by
  rw [persistForce_eq]
  split <;> exact setAlarm_contains_same ..

/-- The copies and the slot in force after a write that succeeds (R69). -/
theorem saved_copies (s : State) : s.saved.cfg.copyA = (if s.savesBoth || !s.savesToB then s.forceCopy else s.cfg.copyA)
    ∧ s.saved.cfg.copyB = (if s.savesBoth || s.savesToB then s.forceCopy else s.cfg.copyB)
    ∧ s.saved.cfg.inB = s.savesToB := by
  obtain ⟨writes, free, e⟩ := copiesPut_eq s
  rw [State.saved, e]
  exact ⟨rfl, rfl, rfl⟩

theorem savesBoth_iff (s : State) : s.savesBoth = true
    ↔ s.cfg.rejected = true ∨ (s.cfg.copyA.valid = false ∧ s.cfg.copyB.valid = false) := by
  simp [State.savesBoth]

theorem persistForce_copies {source : Nat} {s : State} (h : (persistForce source s).1 = true) :
    (persistForce source s).2.cfg.copyA = (if s.savesBoth || !s.savesToB then s.forceCopy else s.cfg.copyA)
    ∧ (persistForce source s).2.cfg.copyB = (if s.savesBoth || s.savesToB then s.forceCopy else s.cfg.copyB)
    ∧ (persistForce source s).2.cfg.inB = s.savesToB := by
  rw [persistForce_done (by rwa [persistForce_ok] at h), setAlarm_cfg]
  exact saved_copies s

theorem persistForce_keeps_copies {source : Nat} {s : State} (h : (persistForce source s).1 = false) :
    (persistForce source s).2.cfg.copyA = s.cfg.copyA ∧ (persistForce source s).2.cfg.copyB = s.cfg.copyB
    ∧ (persistForce source s).2.cfg.inB = s.cfg.inB := by
  obtain ⟨l, e⟩ := saveFailed_cfg source s
  rw [persistForce_lost (by rwa [persistForce_ok] at h), setAlarm_cfg, e]
  exact ⟨rfl, rfl, rfl⟩

/-- Settles O19: the slots that the write goes to, and a write that fails. -/
theorem saveWritesTheOtherSlot : Obligations.SaveWritesTheOtherSlot := by
  intro s t rq h hp hl u both c
  have copies := persistForce_copies (source := 0x0016) (s := u)
  have kept := persistForce_keeps_copies (source := 0x0016) (s := u)
  have alarm := persistForce_alarm 0x0016 u
  obtain ⟨-, -, ⟨hf, ha, hq⟩, hh, hc, hd, hi, ht, hv⟩ := persistForce_frame 0x0016 u
  have hb : u.savesBoth = true ↔ both := savesBoth_iff u
  obtain ⟨s', hx, hpend, ans, hquiet⟩ := cfgSave_answers (t := t) h hp hl
  refine ⟨(persistForce 0x0016 u).1, s', hx, hpend, ans, ?_⟩
  obtain ⟨mail, low, ports, units, rfl⟩ := hquiet.rest
  refine ⟨fun ok hboth => ?_, fun ok hone hin => ?_, fun ok hone hin => ?_, kept, alarm, hf, ha, hq, hh, hc, hd, hi, ht, hv⟩
  · have e := copies ok
    simp only [State.savesToB, hb.2 hboth, Bool.not_true, Bool.false_and, Bool.true_or, if_true] at e
    exact e
  · have e : u.savesBoth = false := Bool.eq_false_iff.2 fun x => hone (hb.1 x)
    have ein : u.cfg.inB = true := hin
    have e' := copies ok
    simp only [State.savesToB, e, ein, Bool.not_true, Bool.and_false, Bool.not_false, Bool.or_true, Bool.or_false,
      Bool.false_eq_true, if_true, if_false] at e'
    exact e'
  · have e : u.savesBoth = false := Bool.eq_false_iff.2 fun x => hone (hb.1 x)
    have ein : u.cfg.inB = false := hin
    obtain ⟨h1, h2, h3⟩ := copies ok
    simp only [State.savesToB, e, ein, Bool.not_false, Bool.and_self, Bool.not_true, Bool.or_self, Bool.false_eq_true, if_false,
      Bool.or_true, if_true] at h1 h2 h3
    exact ⟨h2, h1, h3⟩

end Sys2Proof.Machine

/-! SUPPORT. BOOT (R71, R72, R270, R456, R457): what its steps leave as it was, and what each of its choices does. -/

namespace Sys2Proof.Machine

open Sys2Proof

/-! ### The steps beside the choices -/

/-- At most n events join the log (R77), where it has room and no BOOT waits for XI. -/
def Adds (n : Nat) (s v : State) : Prop := s.sh.xiFrom = none → s.sh.log.length + n ≤ 4096 →
  v.sh.xiFrom = none ∧ ∃ new, new.length ≤ n ∧ v.sh.log = new ++ s.sh.log

theorem Adds.of_eq {n : Nat} {s v : State} (h : v.sh.log = s.sh.log) (hx : v.sh.xiFrom = s.sh.xiFrom) : Adds n s v :=
  fun hn _ => ⟨hx.trans hn, [], by simp, h⟩

theorem Adds.trans {n m : Nat} {s u v : State} (a : Adds n s u) (b : Adds m u v) : Adds (n + m) s v := fun hn hl => by
  obtain ⟨hu, new, hnew, e⟩ := a hn (by omega)
  obtain ⟨hv, more, hmore, e'⟩ := b hu (by rw [e, List.length_append]; omega)
  exact ⟨hv, more ++ new, by rw [List.length_append]; omega, by rw [e', e, List.append_assoc]⟩

theorem Adds.mono {n m : Nat} {s v : State} (a : Adds n s v) (h : n ≤ m) : Adds m s v := fun hn hl => by
  obtain ⟨hv, new, hnew, e⟩ := a hn (by omega)
  exact ⟨hv, new, by omega, e⟩

/-- What the steps of BOOT beside its choices can reach: the log, the cause last logged, parts found worn, changes staged,
and alarm 12. -/
structure Minor (n : Nat) (s v : State) : Prop where
  hub : ∃ c, v.hub = { s.hub with lastCause := c }
  sh : v.sh.mail = s.sh.mail ∧ v.sh.taken = s.sh.taken ∧ v.sh.lock = s.sh.lock ∧ v.sh.work = s.sh.work ∧ v.sh.jobs = s.sh.jobs
  cfg : ∃ l, v.cfg = { s.cfg with staged := l }
  pow : ∃ worn mended, v.pow = { s.pow with worn, mended }
  rest : v.clk = s.clk ∧ v.filt = s.filt ∧ v.weft.pool = s.weft.pool ∧ v.pending = s.pending
  alarm : s.sh.alarms.contains 12 = true → v.sh.alarms.contains 12 = true
  adds : Adds n s v

theorem Minor.trans {n m : Nat} {s u v : State} (a : Minor n s u) (b : Minor m u v) : Minor (n + m) s v := by
  obtain ⟨⟨c, hc⟩, ⟨h1, h2, h3, h4, h5⟩, ⟨l, hl⟩, ⟨worn, mended, hp⟩, ⟨k1, k2, k3, k4⟩, ha, hd⟩ := a
  obtain ⟨⟨c', hc'⟩, ⟨h1', h2', h3', h4', h5'⟩, ⟨l', hl'⟩, ⟨worn', mended', hp'⟩, ⟨k1', k2', k3', k4'⟩, ha', hd'⟩ := b
  exact ⟨⟨c', by rw [hc', hc]⟩, ⟨h1'.trans h1, h2'.trans h2, h3'.trans h3, h4'.trans h4, h5'.trans h5⟩, ⟨l', by rw [hl', hl]⟩,
    ⟨worn', mended', by rw [hp', hp]⟩, ⟨k1'.trans k1, k2'.trans k2, k3'.trans k3, k4'.trans k4⟩, ha' ∘ ha, hd.trans hd'⟩

theorem Minor.mono {n m : Nat} {s v : State} (a : Minor n s v) (h : n ≤ m) : Minor m s v := { a with adds := a.adds.mono h }

/-- A step that leaves all of that as it was. -/
theorem Minor.of_eq {s v : State} (hub : v.hub = s.hub) (sh : v.sh = s.sh) (cfg : v.cfg = s.cfg) (pow : v.pow = s.pow)
    (clk : v.clk = s.clk) (filt : v.filt = s.filt) (pool : v.weft.pool = s.weft.pool) (pending : v.pending = s.pending) : Minor 0 s v := by
  refine ⟨⟨_, hub⟩, ?_, ⟨_, cfg⟩, ⟨_, _, pow⟩, ⟨clk, filt, pool, pending⟩, ?_, .of_eq ?_ ?_⟩ <;> simp [sh]

theorem Minor.refl (s : State) : Minor 0 s s := .of_eq rfl rfl rfl rfl rfl rfl rfl rfl

theorem Minor.ite {n : Nat} {s u v : State} {p : Prop} [Decidable p] (hu : Minor n s u) (hv : Minor n s v) :
    Minor n s (if p then u else v) := by
  split
  · exact hu
  · exact hv

section
variable (s : State)

theorem logEvent_minor (reason source detail : Nat) : Minor 1 s (logEvent reason source detail s) := by
  refine ⟨⟨_, rfl⟩, ⟨rfl, rfl, rfl, rfl, rfl⟩, ⟨_, rfl⟩, ⟨_, _, rfl⟩, ⟨rfl, rfl, rfl, rfl⟩, id, fun hx hl => ?_⟩
  have e := caughtUp_of_none hx s.clk.loom s.clk.beat
  refine ⟨(congrArg Shuttle.xiFrom e).trans hx, [{ beat := s.clk.beat, reason, source, detail }], Nat.le_refl _, ?_⟩
  exact (congrArg (fun x : Shuttle => ({ beat := s.clk.beat, reason, source, detail } :: x.log).take 4096) e).trans
    (List.take_of_length_le hl)

theorem stageOwn_minor (c : Change) : Minor 0 s (stageOwn c s) := by
  refine ⟨⟨_, stageOwn_hub s c⟩, ?_, ⟨_, stageAt_cfg ..⟩, ⟨_, _, stageOwn_pow s c⟩, ?_, ?_, .of_eq ?_ ?_⟩ <;> simp

/-- A digital part is found worn (R459, R460). -/
theorem partWorn_minor {kind : Nat} (hk : ¬ kind < 2) (pod idx : Nat) : Minor 1 s (partWorn kind pod idx s) := by
  unfold partWorn
  refine .ite ((Minor.refl s).mono (by omega)) ?_
  rw [if_neg hk]
  have grown : Minor 0 s { s with pow := { s.pow with worn := s.pow.worn ++ [{ kind, pod, idx, state := if kind < 2 then 1 else 0 }] } } :=
    ⟨⟨_, rfl⟩, ⟨rfl, rfl, rfl, rfl, rfl⟩, ⟨_, rfl⟩, ⟨_, _, rfl⟩, ⟨rfl, rfl, rfl, rfl⟩, id, .of_eq rfl rfl⟩
  have found := grown.trans (logEvent_minor _ 0 0x0E00 (seedDetail kind pod idx))
  exact .ite (found.trans (stageOwn_minor _ _)) found

theorem nextFree_minor : Minor 0 s (nextFree s).2 := .of_eq rfl rfl rfl rfl rfl rfl rfl rfl

theorem withCal_minor (cal : Cal) : Minor 0 s { s with cal } := .of_eq rfl rfl rfl rfl rfl rfl rfl rfl

theorem sectorWorn_minor : Minor 1 s (sectorWorn s) := (nextFree_minor s).trans (partWorn_minor _ (by decide) ..)

theorem bootChoice_minor (reason source loaded : Nat) : Minor 1 s (bootChoice reason source loaded s) :=
  (logEvent_minor s reason source loaded).trans (m := 0)
    ⟨⟨_, rfl⟩, ⟨rfl, rfl, rfl, rfl, rfl⟩, ⟨_, rfl⟩, ⟨_, _, rfl⟩, ⟨rfl, rfl, rfl, rfl⟩, id, .of_eq rfl rfl⟩

theorem logChoice_minor (reason source : Nat) (c : Option Bool) : Minor 1 s (logChoice reason source c s) :=
  .ite ((Minor.refl s).mono (by omega)) (bootChoice_minor ..)

/-- An alarm that raises no event touches the list of alarms only, in the supervisor's part. -/
theorem setAlarm_sh (bit : Nat) (on : Bool) (part reason : Nat) : ∃ alarms, (setAlarm bit on false part reason s).sh = { s.sh with alarms } := by
  by_cases h : s.sh.alarms.contains bit = on
  · exact ⟨_, congrArg State.sh (if_pos h)⟩
  · obtain ⟨_, _, _, -, -, -, e⟩ := setAlarm_changes h false part reason
    refine ⟨setMem s.sh.alarms bit on, ?_⟩
    rw [e, Bool.and_false]
    rfl

theorem setAlarm12_minor (reason : Nat) : Minor 0 s (setAlarm 12 true false 0xFFFF reason s) := by
  obtain ⟨alarms, e⟩ := setAlarm_sh s 12 true 0xFFFF reason
  refine ⟨⟨_, setAlarm_hub s ..⟩, ?_, ⟨_, setAlarm_cfg s ..⟩, ⟨_, _, setAlarm_pow s ..⟩, ?_, fun _ => setAlarm_contains_same .., .of_eq ?_ ?_⟩
  · rw [e]; exact ⟨rfl, rfl, rfl, rfl, rfl⟩
  · simp
  · rw [e]
  · rw [e]

/-- A write that fails in BOOT (R69). -/
def State.rewriteFailed (cal toB : Bool) (s : State) : State :=
  setAlarm 12 true false 0xFFFF 0x0406 (logEvent 0x0406 0 (256 * b2n cal + b2n toB) (sectorWorn s))

theorem rewriteFailed_minor (cal toB : Bool) : Minor 2 s (s.rewriteFailed cal toB) :=
  (sectorWorn_minor s).trans ((logEvent_minor _ ..).trans (setAlarm12_minor _ _))

theorem rewrite_eq (cal toB : Bool) (put : State → State) : rewrite cal toB put s
    = if Config.emramWrite s.free then put (nextFree s).2 else (nextFree s).2.rewriteFailed cal toB := rfl

/-! ### eMRAM is read (R71, R77, R270, R457, R459) -/

theorem mendSector_minor (sec : Nat) : Minor 1 s (mendSector sec s) := by
  have read : Minor 0 s { s with pow := { s.pow with mended := s.pow.mended.upd sec (· + 1) } } :=
    ⟨⟨_, rfl⟩, ⟨rfl, rfl, rfl, rfl, rfl⟩, ⟨_, rfl⟩, ⟨_, _, rfl⟩, ⟨rfl, rfl, rfl, rfl⟩, id, .of_eq rfl rfl⟩
  exact .ite (read.trans (partWorn_minor _ (by decide) ..)) (read.mono (by omega))

theorem mendSector_free (sec : Nat) : (mendSector sec s).free = s.free := by
  unfold mendSector
  dsimp only
  split
  · exact partWorn_free ..
  · rfl

/-- What an eMRAM read does before the answer (R459). -/
def State.readMended (s : State) : State :=
  match Config.mendedSector s.free with
  | some sec => mendSector (sec % emramSectors) (nextFree s).2
  | none => (nextFree s).2

theorem readMended_minor : Minor 1 s s.readMended := by
  unfold State.readMended
  split
  · exact (nextFree_minor s).trans (mendSector_minor _ _)
  · exact (nextFree_minor s).mono (by omega)

theorem readMended_free : s.readMended.free = s.free + 1 := by
  unfold State.readMended
  split
  · exact mendSector_free ..
  · rfl

theorem readMram_eq : readMram s = match Config.badSector s.free with
    | some sec => (false, logEvent 0x0409 0x0E00 (sec % emramSectors) s.readMended)
    | none => (true, s.readMended) := rfl

theorem readMram_minor : Minor 2 s (readMram s).2 := by
  rw [readMram_eq]
  split
  · exact (readMended_minor s).trans (logEvent_minor _ ..)
  · exact (readMended_minor s).mono (by omega)

theorem readMram_free : (readMram s).2.free = s.free + 1 := by
  rw [readMram_eq]
  split <;> exact readMended_free s

theorem readMram_good : (readMram s).1 = (Config.badSector s.free).isNone := by
  rw [readMram_eq]
  cases Config.badSector s.free <;> rfl

end

/-! ### What BOOT keeps -/

/-- What all of BOOT after its first step leaves as it was, with at most n events logged. -/
structure Boots (n : Nat) (s v : State) : Prop where
  hub : ∃ r c b x, v.hub = { s.hub with runImage := r, lastCause := c, bootTo := b, xiWait := x }
  sh : v.sh.mail = s.sh.mail ∧ v.sh.taken = s.sh.taken ∧ v.sh.lock = s.sh.lock ∧ v.sh.jobs = s.sh.jobs
  rest : v.clk = s.clk ∧ v.filt = s.filt ∧ v.weft.pool = s.weft.pool ∧ v.pending = s.pending
  pow : v.pow.rails = s.pow.rails ∧ v.pow.replaced = s.pow.replaced
  alarm : s.sh.alarms.contains 12 = true → v.sh.alarms.contains 12 = true
  adds : Adds n s v

theorem Minor.boots {n : Nat} {s v : State} (a : Minor n s v) : Boots n s v := by
  obtain ⟨⟨c, hc⟩, ⟨h1, h2, h3, -, h5⟩, -, ⟨worn, mended, hp⟩, hr, ha, hd⟩ := a
  exact ⟨⟨_, c, _, _, hc⟩, ⟨h1, h2, h3, h5⟩, hr, by rw [hp]; exact ⟨rfl, rfl⟩, ha, hd⟩

theorem Boots.trans {n m : Nat} {s u v : State} (a : Boots n s u) (b : Boots m u v) : Boots (n + m) s v := by
  obtain ⟨⟨r, c, e, x, hc⟩, ⟨h1, h2, h3, h4⟩, ⟨k1, k2, k3, k4⟩, ⟨hp, hq⟩, ha, hd⟩ := a
  obtain ⟨⟨r', c', e', x', hc'⟩, ⟨h1', h2', h3', h4'⟩, ⟨k1', k2', k3', k4'⟩, ⟨hp', hq'⟩, ha', hd'⟩ := b
  exact ⟨⟨r', c', e', x', by rw [hc', hc]⟩, ⟨h1'.trans h1, h2'.trans h2, h3'.trans h3, h4'.trans h4⟩,
    ⟨k1'.trans k1, k2'.trans k2, k3'.trans k3, k4'.trans k4⟩, ⟨hp'.trans hp, hq'.trans hq⟩, ha' ∘ ha, hd.trans hd'⟩

theorem Boots.mono {n m : Nat} {s v : State} (a : Boots n s v) (h : n ≤ m) : Boots m s v := { a with adds := a.adds.mono h }

theorem Boots.ite {n : Nat} {s u v : State} {p : Prop} [Decidable p] (hu : Boots n s u) (hv : Boots n s v) :
    Boots n s (if p then u else v) := by
  split
  · exact hu
  · exact hv

/-- A step that touches neither the supervisor's part nor what stays. -/
theorem Boots.of_eq {s v : State} (hub : ∃ r c b x, v.hub = { s.hub with runImage := r, lastCause := c, bootTo := b, xiWait := x })
    (sh : v.sh = s.sh) (rest : v.clk = s.clk ∧ v.filt = s.filt ∧ v.weft.pool = s.weft.pool ∧ v.pending = s.pending)
    (pow : v.pow.rails = s.pow.rails ∧ v.pow.replaced = s.pow.replaced) : Boots 0 s v := by
  refine ⟨hub, ?_, rest, pow, ?_, .of_eq ?_ ?_⟩ <;> simp [sh]

/-- The log has room for n events, and no BOOT waits for XI. -/
structure State.Room (n : Nat) (s : State) : Prop where
  idle : s.sh.xiFrom = none
  room : s.sh.log.length + n ≤ 4096

theorem Adds.room {n m : Nat} {s v : State} (a : Adds n s v) (h : s.Room (n + m)) : v.Room m := by
  obtain ⟨hi, hr⟩ := h
  obtain ⟨hx, new, hn, e⟩ := a hi (by omega)
  exact ⟨hx, by rw [e, List.length_append]; omega⟩

theorem Adds.mem {n : Nat} {s v : State} (a : Adds n s v) (h : s.Room n) {e : Event} (he : e ∈ s.sh.log) : e ∈ v.sh.log := by
  obtain ⟨-, new, -, e'⟩ := a h.idle h.room
  rw [e']
  exact List.mem_append_right _ he

/-- The images and which of them runs (R457). -/
def State.imgView (s : State) : Nat × Image × Image := (s.hub.runImage, s.pow.imageA, s.pow.imageB)

/-- The configuration but for the staged changes, the working set, and where BOOT will end. -/
def State.cfgView (s : State) : Cfg × Option Work × HubState := ({ s.cfg with staged := [] }, s.sh.work, s.hub.bootTo)

theorem Minor.imgView {n : Nat} {s v : State} (a : Minor n s v) : v.imgView = s.imgView := by
  obtain ⟨c, hc⟩ := a.hub
  obtain ⟨worn, mended, hp⟩ := a.pow
  rw [State.imgView, hc, hp]
  rfl

theorem Minor.cfgView {n : Nat} {s v : State} (a : Minor n s v) : v.cfgView = s.cfgView := by
  obtain ⟨c, hc⟩ := a.hub
  obtain ⟨l, hl⟩ := a.cfg
  obtain ⟨-, -, -, hw, -⟩ := a.sh
  rw [State.cfgView, hc, hl, hw]
  rfl

theorem Minor.domains {n : Nat} {s v : State} (a : Minor n s v) : v.pow.domains = s.pow.domains := by
  obtain ⟨worn, mended, hp⟩ := a.pow
  rw [hp]

/-! ### What eMRAM holds (R71, R270, R457) -/

/-- What eMRAM holds once it is read, of which not all is good. -/
def State.stored (good : Nat → Bool) (s : State) : State :=
  { s with
    pow := { s.pow with
      imageA := { s.pow.imageA with invalid := s.pow.imageA.invalid || !good 0 }
      imageB := { s.pow.imageB with invalid := s.pow.imageB.invalid || !good 1 } }
    cfg := { s.cfg with
      copyA := { s.cfg.copyA with valid := s.cfg.copyA.valid && good 2 }
      copyB := { s.cfg.copyB with valid := s.cfg.copyB.valid && good 3 } }
    cal := { s.cal with
      copyA := { s.cal.copyA with valid := s.cal.copyA.valid && good 4 }
      copyB := { s.cal.copyB with valid := s.cal.copyB.valid && good 5 } } }

/-- Whether the read that takes a free value is good. -/
def goodRead (k : Nat) : Bool := (Config.badSector k).isNone

theorem iter_readMram (s : State) (n : Nat) : Minor (2 * n) s ((fun u => (readMram u).2)^[n] s)
    ∧ ((fun u => (readMram u).2)^[n] s).free = s.free + n := by
  induction n with
  | zero => exact ⟨.refl s, rfl⟩
  | succ n ih =>
    rw [Function.iterate_succ_apply']
    exact ⟨ih.1.trans (readMram_minor _), by rw [readMram_free, ih.2]; rfl⟩

theorem readStored_eq (s : State) : readStored s
    = ((fun u => (readMram u).2)^[6] s).stored fun i => goodRead (s.free + i) := by
  have e : ∀ i, goodRead (s.free + i) = (readMram ((fun u => (readMram u).2)^[i] s)).1 := fun i => by
    rw [readMram_good, (iter_readMram s i).2, goodRead]
  simp only [e]
  rfl

theorem stored_boots (good : Nat → Bool) (s : State) : Boots 0 s (s.stored good) :=
  .of_eq ⟨_, _, _, _, rfl⟩ rfl ⟨rfl, rfl, rfl, rfl⟩ ⟨rfl, rfl⟩

theorem readStored_boots (s : State) : Boots 12 s (readStored s) := by
  rw [readStored_eq]
  exact (iter_readMram s 6).1.boots.trans (stored_boots ..)

theorem readStored_free (s : State) : (readStored s).free = s.free + 6 := by
  rw [readStored_eq]
  exact (iter_readMram s 6).2

theorem stored_good {good : Nat → Bool} (h : ∀ i, i < 6 → good i = true) (s : State) : s.stored good = s := by
  simp only [State.stored, h 0 (by decide), h 1 (by decide), h 2 (by decide), h 3 (by decide), h 4 (by decide), h 5 (by decide),
    Bool.not_true, Bool.or_false, Bool.and_true]

/-- Where every read is good, the copies and the images are those that eMRAM held. -/
theorem readStored_good {s : State} (h : ∀ i, i < 6 → Config.badSector (s.free + i) = none) : Minor 12 s (readStored s) := by
  rw [readStored_eq, stored_good fun i hi => by simp [goodRead, h i hi]]
  exact (iter_readMram s 6).1

/-- A read that is not good is logged (R77). -/
theorem readStored_bad {s : State} {i sec : Nat} (hi : i < 6) (h : Config.badSector (s.free + i) = some sec) (hr : s.Room 12) :
    ∃ e ∈ (readStored s).sh.log, e.reason = 0x0409 ∧ e.source = 0x0E00 := by
  obtain ⟨before, hfree⟩ := iter_readMram s i
  obtain ⟨after, -⟩ := iter_readMram ((fun u => (readMram u).2)^[i + 1] s) (5 - i)
  have six : 6 = (5 - i) + (i + 1) := by omega
  have split : (fun u => (readMram u).2)^[6] s = (fun u => (readMram u).2)^[5 - i] ((fun u => (readMram u).2)^[i + 1] s) :=
    (congrArg (fun n => (fun u => (readMram u).2)^[n] s) six).trans (Function.iterate_add_apply ..)
  generalize hu : (fun u => (readMram u).2)^[i] s = u at before hfree
  have next : (fun u => (readMram u).2)^[i + 1] s = logEvent 0x0409 0x0E00 (sec % emramSectors) u.readMended := by
    rw [Function.iterate_succ_apply', hu, readMram_eq, hfree, h]
  have room : (logEvent 0x0409 0x0E00 (sec % emramSectors) u.readMended).Room (2 * (5 - i)) := by
    have h12 : 2 * i + (1 + (1 + 2 * (5 - i))) = 12 := by omega
    exact (logEvent_minor ..).adds.room ((readMended_minor u).adds.room (before.adds.room (h12 ▸ hr)))
  rw [readStored_eq]
  refine ⟨{ beat := u.readMended.clk.beat, reason := 0x0409, source := 0x0E00, detail := sec % emramSectors }, ?_, rfl, rfl⟩
  rw [show ∀ (g : Nat → Bool) (v : State), (v.stored g).sh = v.sh from fun _ _ => rfl, split]
  refine after.adds.mem (by rw [next]; exact room) ?_
  rw [next]
  exact List.mem_of_mem_head? rfl

/-! ### The firmware image (R457) -/

section
variable (s : State)

/-- The image that alone is valid, in both slots (R457). -/
def State.imagesCopied (s : State) : State :=
  let ends := s.clk.loom + Config.writeTime s.free
  { s with
    free := s.free + 1
    pow := if s.pow.imageA.invalid then { s.pow with imageA := { s.pow.imageB with writeEnds := ends } }
      else { s.pow with imageB := { s.pow.imageA with writeEnds := ends } } }

theorem copyImage_eq : copyImage s = if s.pow.imageA.invalid = s.pow.imageB.invalid then s
    else if Config.emramWrite s.free = true then s.imagesCopied else sectorWorn (nextFree s).2 := rfl

theorem imagesCopied_boots : Boots 0 s s.imagesCopied := by
  refine .of_eq ⟨_, _, _, _, rfl⟩ rfl ⟨rfl, rfl, rfl, rfl⟩ ?_
  unfold State.imagesCopied
  dsimp only
  split <;> exact ⟨rfl, rfl⟩

theorem copyImage_boots : Boots 1 s (copyImage s) := by
  rw [copyImage_eq]
  exact .ite ((Minor.refl s).boots.mono (by omega)) (.ite ((imagesCopied_boots s).mono (by omega))
    ((nextFree_minor s).trans (sectorWorn_minor _)).boots)

theorem imagesCopied_cfgView : s.imagesCopied.cfgView = s.cfgView := rfl

theorem copyImage_cfgView : (copyImage s).cfgView = s.cfgView := by
  rw [copyImage_eq]
  split
  · rfl
  · split
    · rfl
    · exact ((nextFree_minor s).trans (sectorWorn_minor _)).cfgView

theorem copyImage_domains : (copyImage s).pow.domains = s.pow.domains := by
  rw [copyImage_eq]
  split
  · rfl
  · split
    · unfold State.imagesCopied
      dsimp only
      split <;> rfl
    · exact ((nextFree_minor s).trans (sectorWorn_minor _)).domains

/-- The state in which the chosen image runs and its choice is logged where it must be. -/
def State.imageStarted (named : Nat) (s : State) : State :=
  let u : State := { s with hub := { s.hub with runImage := (s.imageChoice named).1 } }
  if (s.imageChoice named).2 then bootChoice 0x040B 0x0E00 (s.imageChoice named).1 u else u

theorem bootImage_eq (named : Nat) : bootImage named s = copyImage (s.imageStarted named) := rfl

theorem imageStarted_minor (named : Nat) :
    Minor 1 { s with hub := { s.hub with runImage := (s.imageChoice named).1 } } (s.imageStarted named) :=
  .ite (bootChoice_minor ..) ((Minor.refl _).mono (by omega))

theorem imageStarted_free (named : Nat) : (s.imageStarted named).free = s.free := by
  unfold State.imageStarted
  dsimp only
  split <;> rfl

theorem bootImage_boots (named : Nat) : Boots 2 s (bootImage named s) := by
  rw [bootImage_eq]
  have runs : Boots 0 s { s with hub := { s.hub with runImage := (s.imageChoice named).1 } } :=
    .of_eq ⟨_, _, _, _, rfl⟩ rfl ⟨rfl, rfl, rfl, rfl⟩ ⟨rfl, rfl⟩
  exact runs.trans ((imageStarted_minor s named).boots.trans (copyImage_boots _))

theorem bootImage_cfgView (named : Nat) : (bootImage named s).cfgView = s.cfgView := by
  rw [bootImage_eq, copyImage_cfgView, (imageStarted_minor s named).cfgView]
  rfl

theorem bootImage_domains (named : Nat) : (bootImage named s).pow.domains = s.pow.domains := by
  rw [bootImage_eq, copyImage_domains, (imageStarted_minor s named).domains]

/-- A choice that is logged stands in the log. -/
theorem bootImage_told {s : State} {named : Nat} (h : (s.imageChoice named).2 = true) (hr : s.Room 2) :
    ∃ e ∈ (bootImage named s).sh.log, e.reason = 0x040B ∧ e.source = 0x0E00 := by
  have room : (s.imageStarted named).Room 1 := (imageStarted_minor s named).adds.room (m := 1) ⟨hr.idle, hr.room⟩
  rw [bootImage_eq]
  refine ⟨{ beat := s.clk.beat, reason := 0x040B, source := 0x0E00, detail := (s.imageChoice named).1 }, ?_, rfl, rfl⟩
  refine (copyImage_boots _).adds.mem room ?_
  unfold State.imageStarted
  rw [if_pos h]
  exact List.mem_of_mem_head? rfl

/-- Images of which both or none are valid stay; else the valid one is copied where eMRAM takes it (R457). -/
theorem bootImage_images (named : Nat) : (bootImage named s).imgView = ((s.imageChoice named).1,
    if s.pow.imageA.invalid = s.pow.imageB.invalid ∨ Config.emramWrite s.free = false then (s.pow.imageA, s.pow.imageB)
    else if s.pow.imageA.invalid then ({ s.pow.imageB with writeEnds := s.clk.loom + Config.writeTime s.free }, s.pow.imageB)
    else (s.pow.imageA, { s.pow.imageA with writeEnds := s.clk.loom + Config.writeTime s.free })) := by
  obtain ⟨-, -, -, ⟨worn, mended, hp⟩, ⟨hclk, -⟩, -⟩ := imageStarted_minor s named
  have view := (imageStarted_minor s named).imgView
  have hfree := imageStarted_free s named
  rw [bootImage_eq, copyImage_eq]
  generalize s.imageStarted named = u at hp hclk view hfree
  have ha : u.pow.imageA = s.pow.imageA := by rw [hp]
  have hb : u.pow.imageB = s.pow.imageB := by rw [hp]
  have hclk' : u.clk = s.clk := hclk
  by_cases same : s.pow.imageA.invalid = s.pow.imageB.invalid
  · rw [if_pos (show u.pow.imageA.invalid = u.pow.imageB.invalid by rw [ha, hb, same]), view, if_pos (Or.inl same)]
    rfl
  · rw [if_neg (by rw [ha, hb]; exact same), hfree]
    cases hw : Config.emramWrite s.free
    · rw [if_neg (by decide), if_pos (Or.inr rfl), ((nextFree_minor u).trans (sectorWorn_minor _)).imgView, view]
      rfl
    · rw [if_pos rfl, if_neg (by simp [same])]
      have hr : u.hub.runImage = (s.imageChoice named).1 := congrArg Prod.fst view
      cases hi : s.pow.imageA.invalid <;>
        simp only [State.imgView, State.imagesCopied, ha, hb, hi, hr, hclk', hfree, if_true, Bool.false_eq_true, if_false]

end

/-! ### The configuration copies (R71, R72) -/

/-- What is loaded stays loaded: of the configuration only the copies, their writes and the staged changes may differ, and
what is logged stays logged. -/
structure Rests (s v : State) : Prop where
  cfg : ∃ copyA copyB writes staged, v.cfg = { s.cfg with copyA, copyB, writes, staged }
  work : v.sh.work = s.sh.work
  bootTo : v.hub.bootTo = s.hub.bootTo
  log : ∀ e ∈ s.sh.log, e ∈ v.sh.log

theorem Rests.trans {s u v : State} (h : Rests s u) (k : Rests u v) : Rests s v := by
  obtain ⟨_, _, _, _, e⟩ := h.cfg
  obtain ⟨_, _, _, _, e'⟩ := k.cfg
  exact ⟨⟨_, _, _, _, by rw [e', e]⟩, k.work.trans h.work, k.bootTo.trans h.bootTo, fun x hx => k.log x (h.log x hx)⟩

theorem Minor.rests {n : Nat} {s v : State} (a : Minor n s v) (h : s.Room n) : Rests s v := by
  obtain ⟨c, hc⟩ := a.hub
  obtain ⟨l, hl⟩ := a.cfg
  obtain ⟨-, -, -, hw, -⟩ := a.sh
  exact ⟨⟨_, _, _, l, hl⟩, hw, by rw [hc], fun e he => a.adds.mem h he⟩

/-- A copy that BOOT loads comes into force where it passes its check, and else becomes the working set (R71, R72). -/
structure Loads (inB : Bool) (x : Copy) (s v : State) : Prop where
  cfg : v.cfg.inB = inB ∧ v.cfg.seq = x.seq ∧ v.cfg.rejected = s.cfg.rejected
  good : s.check x.words = none → v.cfg.force = x.words ∧ v.cfg.active = x.words ∧ v.sh.work = s.sh.work
    ∧ v.hub.bootTo = if PMem.autostart x.words then .run else .ready
  bad : ∀ f, s.check x.words = some f → v.cfg.force = s.cfg.force ∧ v.cfg.active = s.cfg.active ∧ v.hub.bootTo = s.hub.bootTo
    ∧ v.sh.work = some { words := x.words, seq := x.seq } ∧ ∃ e ∈ v.sh.log, e.reason = f.1 ∧ e.source = 0 ∧ e.detail = b2n inB

theorem Loads.rests {inB : Bool} {x : Copy} {s v w : State} (h : Loads inB x s v) (k : Rests v w) : Loads inB x s w := by
  obtain ⟨_, _, _, _, e⟩ := k.cfg
  refine ⟨by rw [e]; exact h.cfg, fun hc => ?_, fun f hc => ?_⟩
  · obtain ⟨h1, h2, h3, h4⟩ := h.good hc
    rw [e, k.work, k.bootTo]
    exact ⟨h1, h2, h3, h4⟩
  · obtain ⟨h1, h2, h3, h4, x, hx, h5⟩ := h.bad f hc
    rw [e, k.work, k.bootTo]
    exact ⟨h1, h2, h3, h4, x, k.log x hx, h5⟩

theorem Loads.after {inB : Bool} {x : Copy} {s u v : State} {n : Nat} (a : Minor n s u) (h : Loads inB x u v) : Loads inB x s v := by
  obtain ⟨c, hc⟩ := a.hub
  obtain ⟨l, hl⟩ := a.cfg
  obtain ⟨-, -, -, hw, -⟩ := a.sh
  obtain ⟨worn, mended, hp⟩ := a.pow
  have check : u.check x.words = s.check x.words := by
    unfold State.check
    rw [hp]
  obtain ⟨hcfg, hgood, hbad⟩ := h
  rw [check, hl, hc, hw] at *
  exact ⟨hcfg, hgood, hbad⟩

/-- Both copies are rejected (R71). -/
structure Rejects (reason : Nat) (s v : State) : Prop where
  cfg : v.cfg.rejected = true ∧ v.cfg.force = s.cfg.force ∧ v.cfg.active = s.cfg.active
    ∧ v.cfg.seq = if s.cfg.copyA.valid then s.cfg.copyA.seq else 0
  bootTo : v.hub.bootTo = s.hub.bootTo
  told : ∃ e ∈ v.sh.log, e.reason = reason ∧ e.source = 0

theorem Rejects.rests {reason : Nat} {s v w : State} (h : Rejects reason s v) (k : Rests v w) : Rejects reason s w := by
  obtain ⟨_, _, _, _, e⟩ := k.cfg
  obtain ⟨hcfg, hb, x, hx, hr⟩ := h
  exact ⟨by rw [e]; exact hcfg, k.bootTo.trans hb, x, k.log x hx, hr⟩

section
variable (s : State)

theorem foldl_onlyTrd {α : Type} {f : State → α → State} (hf : ∀ u x, ∃ trd, f u x = { u with trd }) (l : List α) (s : State) :
    ∃ trd, l.foldl f s = { s with trd } := by
  induction l generalizing s with
  | nil => exact ⟨_, rfl⟩
  | cons x r ih =>
    obtain ⟨trd, e⟩ := hf s x
    rw [List.foldl_cons, e]
    exact ih { s with trd }

theorem adoptPins_eq (old new : PMem) (at_ : Nat) : ∃ trd, adoptPins old new at_ s = { s with trd } := by
  refine foldl_onlyTrd (fun u p => ?_) _ s
  dsimp only
  split
  · exact ⟨_, rfl⟩
  · split <;> exact ⟨_, rfl⟩

theorem loadCopy_none {inB : Bool} {x : Copy} (h : s.check x.words = none) : ∃ trd, loadCopy inB x s = { s with
    cfg := { s.cfg with seq := x.seq, inB, force := x.words, active := x.words }
    hub := { s.hub with bootTo := if PMem.autostart x.words then .run else .ready }, trd } := by
  unfold loadCopy
  dsimp only
  split
  next hc => exact nomatch h.symm.trans hc
  next => exact adoptPins_eq ..

theorem loadCopy_some {inB : Bool} {x : Copy} {f : CheckFail} (h : s.check x.words = some f) : loadCopy inB x s
    = bootChoice f.1 0 (b2n inB) { s with
        cfg := { s.cfg with seq := x.seq, inB }, sh := { s.sh with work := some { words := x.words, seq := x.seq } } } := by
  unfold loadCopy
  dsimp only
  split
  next hc =>
    cases h.symm.trans hc
    rfl
  next hc => exact nomatch h.symm.trans hc

theorem loadCopy_loads (inB : Bool) (x : Copy) : Loads inB x s (loadCopy inB x s) := by
  cases h : s.check x.words with
  | none =>
    obtain ⟨trd, e⟩ := loadCopy_none (inB := inB) s h
    rw [e]
    exact ⟨⟨rfl, rfl, rfl⟩, fun _ => ⟨rfl, rfl, rfl, rfl⟩, fun f hf => nomatch h.symm.trans hf⟩
  | some f =>
    rw [loadCopy_some s h]
    refine ⟨⟨rfl, rfl, rfl⟩, fun hf => (nomatch h.symm.trans hf), fun g hg => ?_⟩
    rw [h] at hg
    cases hg
    exact ⟨rfl, rfl, rfl, rfl, { beat := s.clk.beat, reason := f.1, source := 0, detail := b2n inB }, List.mem_of_mem_head? rfl, rfl, rfl, rfl⟩

theorem loadCopy_boots (inB : Bool) (x : Copy) : Boots 1 s (loadCopy inB x s) := by
  cases h : s.check x.words with
  | none =>
    obtain ⟨trd, e⟩ := loadCopy_none (inB := inB) s h
    rw [e]
    exact Boots.mono (n := 0) (.of_eq ⟨_, _, _, _, rfl⟩ rfl ⟨rfl, rfl, rfl, rfl⟩ ⟨rfl, rfl⟩) (by omega)
  | some f =>
    rw [loadCopy_some s h]
    have set : Boots 0 s { s with
        cfg := { s.cfg with seq := x.seq, inB }, sh := { s.sh with work := some { words := x.words, seq := x.seq } } } :=
      ⟨⟨_, _, _, _, rfl⟩, ⟨rfl, rfl, rfl, rfl⟩, ⟨rfl, rfl, rfl, rfl⟩, ⟨rfl, rfl⟩, id, .of_eq rfl rfl⟩
    exact set.trans (bootChoice_minor ..).boots

/-- What the load of a copy leaves alone: the images, the domains and the copies. -/
theorem loadCopy_keeps_stored (inB : Bool) (x : Copy) : (loadCopy inB x s).imgView = s.imgView
    ∧ (loadCopy inB x s).pow.domains = s.pow.domains ∧ (loadCopy inB x s).cfg.copyA = s.cfg.copyA
    ∧ (loadCopy inB x s).cfg.copyB = s.cfg.copyB := by
  cases h : s.check x.words with
  | none =>
    obtain ⟨trd, e⟩ := loadCopy_none (inB := inB) s h
    rw [e]
    exact ⟨rfl, rfl, rfl, rfl⟩
  | some f =>
    rw [loadCopy_some s h]
    exact ⟨rfl, rfl, rfl, rfl⟩

/-- A copy written over the other one in BOOT, where eMRAM takes it. -/
def State.copiedOver (inB : Bool) (x : Copy) (s : State) : State := rewrite false (!inB) (copyOver inB x) s

theorem copiedOver_eq (inB : Bool) (x : Copy) : s.copiedOver inB x
    = if Config.emramWrite s.free = true then putCopy (!inB) x (nextFree s).2 else (nextFree s).2.rewriteFailed false (!inB) := rfl

theorem putCopy_boots (toB : Bool) (c : Copy) : Boots 0 s (putCopy toB c s) :=
  .of_eq ⟨_, _, _, _, rfl⟩ rfl ⟨rfl, rfl, rfl, rfl⟩ ⟨rfl, rfl⟩

theorem copiedOver_boots (inB : Bool) (x : Copy) : Boots 2 s (s.copiedOver inB x) := by
  rw [copiedOver_eq]
  exact .ite (((nextFree_minor s).boots.trans (putCopy_boots ..)).mono (by omega))
    ((nextFree_minor s).trans (rewriteFailed_minor ..)).boots

theorem putCopy_rests (toB : Bool) (c : Copy) : Rests s (putCopy toB c s) := by
  refine ⟨?_, rfl, rfl, fun _ h => h⟩
  cases toB <;> exact ⟨_, _, _, _, rfl⟩

theorem copiedOver_rests (inB : Bool) (x : Copy) (h : s.Room 2) : Rests s (s.copiedOver inB x) := by
  rw [copiedOver_eq]
  split
  · exact ⟨(putCopy_rests (nextFree s).2 _ _).cfg, rfl, rfl, fun _ he => he⟩
  · exact ((nextFree_minor s).trans (rewriteFailed_minor ..)).rests h

theorem copiedOver_keeps_stored (inB : Bool) (x : Copy) :
    (s.copiedOver inB x).imgView = s.imgView ∧ (s.copiedOver inB x).pow.domains = s.pow.domains := by
  rw [copiedOver_eq]
  split
  · exact ⟨rfl, rfl⟩
  · have m := (nextFree_minor s).trans (rewriteFailed_minor (nextFree s).2 false (!inB))
    exact ⟨m.imgView, m.domains⟩

/-- The slot written is the other one; where eMRAM does not take it, both stay and alarm 12 stands (R69). -/
theorem copiedOver_copies (inB : Bool) (x : Copy) :
    let v := s.copiedOver inB x
    let failed := v.sh.alarms.contains 12 = true ∧ ∃ k, Config.emramWrite k = false
    (inB = false → v.cfg.copyA = s.cfg.copyA ∧ (v.cfg.copyB = x ∨ (v.cfg.copyB = s.cfg.copyB ∧ failed)))
      ∧ (inB = true → v.cfg.copyB = s.cfg.copyB ∧ (v.cfg.copyA = x ∨ (v.cfg.copyA = s.cfg.copyA ∧ failed))) := by
  dsimp only
  rw [copiedOver_eq]
  cases hw : Config.emramWrite s.free
  · rw [if_neg (by decide)]
    obtain ⟨l, hl⟩ := ((nextFree_minor s).trans (rewriteFailed_minor (nextFree s).2 false (!inB))).cfg
    have alarm : ((nextFree s).2.rewriteFailed false (!inB)).sh.alarms.contains 12 = true := setAlarm_contains_same ..
    rw [hl]
    exact ⟨fun _ => ⟨rfl, .inr ⟨rfl, alarm, _, hw⟩⟩, fun _ => ⟨rfl, .inr ⟨rfl, alarm, _, hw⟩⟩⟩
  · rw [if_pos rfl]
    refine ⟨fun h => ?_, fun h => ?_⟩ <;> subst h <;> exact ⟨rfl, .inl rfl⟩

/-- The choice that BOOT makes between the copies (R71). -/
def State.copyChosen (s : State) : Option Bool × Nat :=
  copyChoice s.cfg.copyA.valid s.cfg.copyB.valid (decide (s.cfg.copyA.words = s.cfg.copyB.words)) s.cfg.copyA.seq s.cfg.copyB.seq

/-- The copy of a slot. -/
def State.copyIn (s : State) (inB : Bool) : Copy := if inB then s.cfg.copyB else s.cfg.copyA

theorem bootConfig_eq : bootConfig s = match s.copyChosen.1 with
    | none => (fun v => { v with cfg := { v.cfg with seq := if s.cfg.copyA.valid then s.cfg.copyA.seq else 0, rejected := true } })
        (logChoice s.copyChosen.2 0 none s)
    | some inB =>
      if s.copyChosen.2 = 0x0402 then
        (loadCopy inB (s.copyIn inB) (logChoice s.copyChosen.2 0 (some inB) s)).copiedOver inB (s.copyIn inB)
      else loadCopy inB (s.copyIn inB) (logChoice s.copyChosen.2 0 (some inB) s) := by
  cases hc : s.copyChosen with
  | mk c reason =>
    have hc' : copyChoice s.cfg.copyA.valid s.cfg.copyB.valid (decide (s.cfg.copyA.words = s.cfg.copyB.words)) s.cfg.copyA.seq
      s.cfg.copyB.seq = (c, reason) := hc
    simp only [bootConfig, hc']
    cases c <;> rfl

theorem bootConfig_boots : Boots 4 s (bootConfig s) := by
  rw [bootConfig_eq]
  split
  · refine Boots.mono (n := 1 + 0) ((logChoice_minor s s.copyChosen.2 0 none).boots.trans ?_) (by omega)
    exact .of_eq ⟨_, _, _, _, rfl⟩ rfl ⟨rfl, rfl, rfl, rfl⟩ ⟨rfl, rfl⟩
  · have loaded := fun inB => (logChoice_minor s s.copyChosen.2 0 (some inB)).boots.trans (loadCopy_boots _ inB (s.copyIn inB))
    exact .ite ((loaded _).trans (copiedOver_boots _ _ _)) ((loaded _).mono (by omega))

theorem bootConfig_keeps_stored : (bootConfig s).imgView = s.imgView ∧ (bootConfig s).pow.domains = s.pow.domains := by
  rw [bootConfig_eq]
  have logged := fun c => logChoice_minor s s.copyChosen.2 0 c
  split
  · exact ⟨(logged none).imgView, (logged none).domains⟩
  next inB _ =>
    obtain ⟨hi, hd, -, -⟩ := loadCopy_keeps_stored (logChoice s.copyChosen.2 0 (some inB) s) inB (s.copyIn inB)
    have hi' := hi.trans (logged (some inB)).imgView
    have hd' := hd.trans (logged (some inB)).domains
    split
    · obtain ⟨ci, cd⟩ := copiedOver_keeps_stored (loadCopy inB (s.copyIn inB) (logChoice s.copyChosen.2 0 (some inB) s)) inB
        (s.copyIn inB)
      exact ⟨ci.trans hi', cd.trans hd'⟩
    · exact ⟨hi', hd'⟩

end

section
variable {s : State}

/-- A choice without a reason loads its copy, and both stay. -/
theorem bootConfig_plain {inB : Bool} (h : s.copyChosen = (some inB, 0)) : Loads inB (s.copyIn inB) s (bootConfig s)
    ∧ (bootConfig s).cfg.copyA = s.cfg.copyA ∧ (bootConfig s).cfg.copyB = s.cfg.copyB := by
  rw [bootConfig_eq, h]
  obtain ⟨-, -, ha, hb⟩ := loadCopy_keeps_stored s inB (s.copyIn inB)
  exact ⟨loadCopy_loads .., ha, hb⟩

/-- One copy alone is valid: it is loaded, the choice is logged, and the copy is written over the other one. -/
theorem bootConfig_single {inB : Bool} (h : s.copyChosen = (some inB, 0x0402)) (hr : s.Room 4) :
    let v := bootConfig s
    let failed := v.sh.alarms.contains 12 = true ∧ ∃ k, Config.emramWrite k = false
    Loads inB (s.copyIn inB) s v ∧ (∃ e ∈ v.sh.log, e.reason = 0x0402 ∧ e.source = 0)
      ∧ (inB = false → v.cfg.copyA = s.cfg.copyA ∧ (v.cfg.copyB = s.cfg.copyA ∨ (v.cfg.copyB = s.cfg.copyB ∧ failed)))
      ∧ (inB = true → v.cfg.copyB = s.cfg.copyB ∧ (v.cfg.copyA = s.cfg.copyB ∨ (v.cfg.copyA = s.cfg.copyA ∧ failed))) := by
  intro v failed
  have hv : v = (loadCopy inB (s.copyIn inB) (logChoice 0x0402 0 (some inB) s)).copiedOver inB (s.copyIn inB) := by
    show bootConfig s = _
    rw [bootConfig_eq, h]
    rfl
  have logged := logChoice_minor s 0x0402 0 (some inB)
  have told : { beat := s.clk.beat, reason := 0x0402, source := 0, detail := choiceDetail (some inB) }
      ∈ (logChoice 0x0402 0 (some inB) s).sh.log := List.mem_of_mem_head? rfl
  have loaded := loadCopy_loads (logChoice 0x0402 0 (some inB) s) inB (s.copyIn inB)
  have room := logged.adds.room (m := 3) hr
  have boots := loadCopy_boots (logChoice 0x0402 0 (some inB) s) inB (s.copyIn inB)
  obtain ⟨-, -, ha, hb⟩ := loadCopy_keeps_stored (logChoice 0x0402 0 (some inB) s) inB (s.copyIn inB)
  have rests := copiedOver_rests _ inB (s.copyIn inB) (boots.adds.room (m := 2) room)
  have copies := copiedOver_copies (loadCopy inB (s.copyIn inB) (logChoice 0x0402 0 (some inB) s)) inB (s.copyIn inB)
  have hla : (logChoice 0x0402 0 (some inB) s).cfg.copyA = s.cfg.copyA := rfl
  have hlb : (logChoice 0x0402 0 (some inB) s).cfg.copyB = s.cfg.copyB := rfl
  rw [ha, hb, hla, hlb, ← hv] at copies
  rw [← hv] at rests
  refine ⟨(loaded.after logged).rests rests, ⟨_, rests.log _ (boots.adds.mem ⟨room.idle, by have := room.room; omega⟩ told), rfl, rfl⟩, fun hi => ?_, fun hi => ?_⟩
  · subst hi
    exact copies.1 rfl
  · subst hi
    exact copies.2 rfl

/-- Both copies are rejected for a reason. -/
theorem bootConfig_rejects {reason : Nat} (h : s.copyChosen = (none, reason)) (hn : reason ≠ 0) :
    Rejects reason s (bootConfig s) ∧ (bootConfig s).cfg.copyA = s.cfg.copyA ∧ (bootConfig s).cfg.copyB = s.cfg.copyB := by
  rw [bootConfig_eq, h]
  dsimp only
  rw [logChoice, if_neg hn]
  exact ⟨⟨⟨rfl, rfl, rfl, rfl⟩, rfl, ⟨{ beat := s.clk.beat, reason, source := 0, detail := choiceDetail none },
    List.mem_of_mem_head? rfl, rfl, rfl⟩⟩, rfl, rfl⟩

end

/-! ### The calibration copies and the domains (R270, R271, R454, R456) -/

section
variable (s : State)

theorem restale_minor : Minor 0 s (restale s) := withCal_minor s _

theorem putCalCopy_minor (toB : Bool) (c : CalCopy) : Minor 0 s (putCalCopy toB c s) :=
  (nextFree_minor s).trans (withCal_minor _ _)

theorem rewriteCal_minor (toB : Bool) (x : CalCopy) : Minor 2 s (rewrite true toB (putCalCopy toB x) s) := by
  rw [rewrite_eq]
  exact .ite (((nextFree_minor _).trans (putCalCopy_minor ..)).mono (by omega)) ((nextFree_minor _).trans (rewriteFailed_minor ..))

theorem bootCal_minor : Minor 3 s (bootCal s) := by
  unfold bootCal
  dsimp only
  generalize copyChoice _ _ _ _ _ = choice
  split
  · exact ((logChoice_minor s _ _ _).trans ((withCal_minor _ _).trans (restale_minor _))).mono (by omega)
  · have loaded := fun cal => (logChoice_minor s choice.2 0x0700 choice.1).trans ((withCal_minor _ cal).trans (restale_minor _))
    exact .ite ((loaded _).trans (rewriteCal_minor ..)) ((loaded _).mono (by omega))

/-- BOOT switches a domain on where D_REQ names it (R454, R456). -/
def bootDomain (req : Nat) (s : State) (d : Nat) : State :=
  if nbit req (d - 1) then domUpd d (fun x => { x with since := x.since + usLoom (2000 * (d - 3)) }) (startDomain d s) else s

theorem bootDomains_eq : bootDomains s = [1, 2, 3, 4, 5, 6, 7].foldl (bootDomain (fld (s.cfg.active.word 0x0E00 0) 6 0)) s := rfl

theorem bootDomain_eq (req d : Nat) : ∃ domains, bootDomain req s d = { s with pow := { s.pow with domains } } := by
  unfold bootDomain startDomain
  split
  · split <;> exact ⟨_, rfl⟩
  · exact ⟨_, rfl⟩

theorem foldl_bootDomain_eq (req : Nat) (l : List Nat) :
    ∃ domains, l.foldl (bootDomain req) s = { s with pow := { s.pow with domains } } := by
  induction l generalizing s with
  | nil => exact ⟨_, rfl⟩
  | cons d r ih =>
    obtain ⟨domains, e⟩ := bootDomain_eq s req d
    rw [List.foldl_cons, e]
    obtain ⟨more, e'⟩ := ih { s with pow := { s.pow with domains } }
    exact ⟨more, e'⟩

theorem bootDomain_other (req : Nat) {d k : Nat} (h : k ≠ d) : (bootDomain req s d).pow.domains.get k = s.pow.domains.get k := by
  unfold bootDomain startDomain
  split
  · split <;> simp [domUpd, Tab.get_upd_other _ _ h]
  · rfl

theorem bootDomain_same (req d : Nat) : ((bootDomain req s d).pow.domains.get d).state
    = if nbit req (d - 1) then (if s.railsIn d then 1 else 3) else (s.pow.domains.get d).state := by
  unfold bootDomain startDomain
  split
  · split <;> simp [domUpd]
  · rfl

theorem foldl_bootDomain (req d : Nat) {l : List Nat} (hl : l.Nodup) : ((l.foldl (bootDomain req) s).pow.domains.get d).state
    = if d ∈ l ∧ nbit req (d - 1) = true then (if s.railsIn d then 1 else 3) else (s.pow.domains.get d).state := by
  induction l generalizing s with
  | nil => simp
  | cons x r ih =>
    obtain ⟨hx, hr⟩ := List.nodup_cons.1 hl
    obtain ⟨domains, e⟩ := bootDomain_eq s req x
    have rails : (bootDomain req s x).railsIn d = s.railsIn d := by rw [e]; rfl
    rw [List.foldl_cons, ih _ hr, rails]
    by_cases h : d = x
    · subst h
      rw [if_neg (fun k => hx k.1), bootDomain_same]
      cases nbit req (d - 1) <;> simp
    · rw [bootDomain_other s req h]
      simp [h]

/-- The domains once BOOT has switched them on: those named, by their rails. -/
theorem bootDomains_states {d : Nat} (hd : 0 < d) (h8 : d < 8) : ((bootDomains s).pow.domains.get d).state
    = if nbit (fld (s.cfg.active.word 0x0E00 0) 6 0) (d - 1) then (if s.railsIn d then 1 else 3) else (s.pow.domains.get d).state := by
  have hm : d ∈ [1, 2, 3, 4, 5, 6, 7] := by simp; omega
  rw [bootDomains_eq, foldl_bootDomain _ _ _ (by decide)]
  simp only [hm, true_and]

theorem bootDomains_minor_but : ∃ domains, bootDomains s = { s with pow := { s.pow with domains } } := foldl_bootDomain_eq ..

theorem bootDomains_boots : Boots 0 s (bootDomains s) := by
  obtain ⟨domains, e⟩ := bootDomains_minor_but s
  rw [e]
  exact .of_eq ⟨_, _, _, _, rfl⟩ rfl ⟨rfl, rfl, rfl, rfl⟩ ⟨rfl, rfl⟩

theorem bootDomains_rests : Rests s (bootDomains s) := by
  obtain ⟨domains, e⟩ := bootDomains_minor_but s
  rw [e]
  exact ⟨⟨_, _, _, _, rfl⟩, rfl, rfl, fun _ h => h⟩

/-! ### BOOT goes on (R456) -/

/-- The state in which BOOT reads eMRAM. -/
def State.goes (s : State) : State := { s with hub := { s.hub with xiWait := none } }

theorem goes_boots : Boots 0 s s.goes := .of_eq ⟨_, _, _, _, rfl⟩ rfl ⟨rfl, rfl, rfl, rfl⟩ ⟨rfl, rfl⟩

variable (named : Nat)

/-- The state in which BOOT chooses the configuration copy. -/
def State.withImage (named : Nat) (s : State) : State := bootImage named (readStored s.goes)

/-- The state in which BOOT switches the domains on. -/
def State.withCopies (named : Nat) (s : State) : State := bootCal (bootConfig (s.withImage named))

theorem bootGo_eq : bootGo named s = bootDomains (s.withCopies named) := rfl

theorem withImage_boots : Boots 14 s (s.withImage named) :=
  ((goes_boots s).trans (readStored_boots _)).trans (bootImage_boots ..)

theorem afterConfig_boots : Boots 3 (bootConfig (s.withImage named)) (bootGo named s) :=
  (bootCal_minor _).boots.trans (bootDomains_boots _)

theorem bootGo_boots : Boots 21 s (bootGo named s) :=
  ((withImage_boots s named).trans (bootConfig_boots _)).trans (afterConfig_boots s named)

theorem afterConfig_rests (h : (bootConfig (s.withImage named)).Room 3) : Rests (bootConfig (s.withImage named)) (bootGo named s) :=
  ((bootCal_minor _).rests h).trans (bootDomains_rests _)

theorem withImage_domains : (s.withImage named).pow.domains = s.pow.domains := by
  rw [State.withImage, bootImage_domains, readStored_eq]
  exact (iter_readMram s.goes 6).1.domains

theorem withCopies_domains : (s.withCopies named).pow.domains = s.pow.domains := by
  rw [State.withCopies, (bootCal_minor _).domains, (bootConfig_keeps_stored _).2, withImage_domains]

theorem withCopies_boots : Boots 21 s (s.withCopies named) :=
  ((withImage_boots s named).trans (bootConfig_boots _)).trans (bootCal_minor _).boots

/-- The domains that the active configuration names are on or lost, by their rails (R454, R456). -/
theorem bootGo_domains {d : Nat} (hd : 0 < d) (h8 : d < 8) (hoff : s.pow.domains.get d = {}) :
    ((bootGo named s).pow.domains.get d).state
      = if nbit (fld ((bootGo named s).cfg.active.word 0x0E00 0) 6 0) (d - 1) then (if s.railsIn d then 1 else 3) else 0 := by
  obtain ⟨domains, e⟩ := bootDomains_minor_but (s.withCopies named)
  have active : (bootGo named s).cfg.active = (s.withCopies named).cfg.active := by rw [bootGo_eq, e]
  have rails : (s.withCopies named).railsIn d = s.railsIn d := by
    unfold State.railsIn
    rw [(withCopies_boots s named).pow.1]
  rw [active, bootGo_eq, bootDomains_states _ hd h8, rails, withCopies_domains, hoff]

/-- The images after BOOT are those that its choice of an image left. -/
theorem bootGo_imgView : (bootGo named s).imgView = (s.withImage named).imgView := by
  obtain ⟨domains, e⟩ := bootDomains_minor_but (s.withCopies named)
  have h1 : (bootGo named s).imgView = (s.withCopies named).imgView := by rw [bootGo_eq, e]; rfl
  rw [h1, State.withCopies, (bootCal_minor _).imgView, (bootConfig_keeps_stored _).1]

end

/-- A hub that BOOT has begun on (R454, R456): the straps and the clocks stay, everything else is new. -/
structure Booted (s v : State) : Prop where
  hub : v.hub.state = .boot ∧ v.hub.role = .solo ∧ v.hub.nresetLow = false ∧ v.hub.inReset = false ∧ v.hub.rolePri = s.hub.rolePri
    ∧ v.hub.hubidSel = s.hub.hubidSel ∧ v.hub.bootSel = s.hub.bootSel ∧ v.hub.hubId = none ∧ v.hub.restart = none
  sh : v.sh.taken = [] ∧ v.sh.jobs = [] ∧ v.sh.lock = none ∧ ∀ m, v.sh.mail.get m = {}
  weft : v.weft.pool = []
  filt : v.filt = {}
  clk : v.clk.loom = s.clk.loom ∧ v.clk.beat = s.clk.beat ∧ v.clk.overruns = 0

theorem bootBase_booted (s : State) : Booted s (bootBase s) :=
  ⟨⟨rfl, rfl, rfl, rfl, rfl, rfl, rfl, rfl, rfl⟩, ⟨rfl, rfl, rfl, fun _ => rfl⟩, rfl, rfl, rfl, rfl, rfl⟩

theorem Booted.boots {n : Nat} {s u v : State} (h : Booted s u) (b : Boots n u v) : Booted s v := by
  obtain ⟨⟨_, _, _, _, hh⟩, ⟨h1, h2, h3, h4⟩, ⟨hc, hf, hp, -⟩, -, -, -⟩ := b
  obtain ⟨khub, ⟨k1, k2, k3, k4⟩, kw, kf, kc⟩ := h
  exact ⟨by rw [hh]; exact khub, ⟨h2.trans k1, h4.trans k2, h3.trans k3, fun m => by rw [h1]; exact k4 m⟩, hp.trans kw, hf.trans kf,
    by rw [hc]; exact kc⟩

theorem Booted.withPending {s v : State} (h : Booted s v) (pending : List Instr) : Booted s { v with pending } :=
  ⟨h.hub, h.sh, h.weft, h.filt, h.clk⟩

/-- A BOOT that waits for XI (R456). -/
def State.waitsXi (named : Nat) (s : State) : State :=
  { s with hub := { s.hub with xiWait := some named }, sh := { s.sh with xiFrom := some s.clk.loom } }

theorem waitsXi_booted {s u : State} (named : Nat) (h : Booted s u) : Booted s (logEvent 0x0408 0 0 (u.waitsXi named)) :=
  ⟨h.hub, h.sh, h.weft, h.filt, h.clk⟩

theorem bootStart_eq (named : Nat) (s : State) : bootStart named s = if (bootBase s).xiOut = true
    then logEvent 0x0408 0 0 ((bootBase s).waitsXi named) else bootGo named (bootBase s) := rfl

/-- BOOT begins, whether it waits for XI or not (R456). -/
theorem bootStart_booted (named : Nat) (s : State) : Booted s (bootStart named s) := by
  rw [bootStart_eq]
  split
  · exact waitsXi_booted named (bootBase_booted s)
  · exact (bootBase_booted s).boots (bootGo_boots _ named)

end Sys2Proof.Machine

/-! SUPPORT. RESTART and JOB_CANCEL (R44, R55, R57, R74): what they leave of the hub and of a job. -/

namespace Sys2Proof.Machine

open Sys2Proof

/-! ### The hub drops to BOOT (R44, R57) -/

section
variable (s : State)

/-- One mailbox whose claim ends with all others (R44). -/
def closeClaim (s : State) (n : Nat) : State := if (s.sh.mail.get n).claim.isSome then endClaim n 0 false s else s

theorem endClaims_eq : endClaims s = (List.range 8).foldl closeClaim s := rfl

theorem dropToBoot_eq (source : Nat) : dropToBoot source s
    = enterState .boot 0 source s.clk.loom (endClaims (endXi (releaseTaps (List.range 16) s))) := rfl

theorem endClaim_frame (mb source : Nat) : (endClaim mb source false s).clk = s.clk ∧ (endClaim mb source false s).cfg = s.cfg := by
  rw [endClaim_eq]
  split <;> exact ⟨rfl, rfl⟩

theorem closeClaim_frame (n : Nat) : (closeClaim s n).clk = s.clk ∧ (closeClaim s n).cfg = s.cfg := by
  unfold closeClaim
  split
  · exact endClaim_frame ..
  · exact ⟨rfl, rfl⟩

theorem endClaims_frame : (endClaims s).clk = s.clk ∧ (endClaims s).cfg = s.cfg := by
  rw [endClaims_eq]
  exact ⟨foldl_view State.clk closeClaim (fun u n => (closeClaim_frame u n).1) _ s,
    foldl_view State.cfg closeClaim (fun u n => (closeClaim_frame u n).2) _ s⟩

theorem endXi_frame : (endXi s).clk = s.clk ∧ (endXi s).cfg = s.cfg := ⟨rfl, rfl⟩

theorem endClaim_other_mail {mb m : Nat} (source : Nat) (h : m ≠ mb) :
    (endClaim mb source false s).sh.mail.get m = s.sh.mail.get m := by
  rw [endClaim_eq]
  split <;> simp [irq, logEvent, h]

theorem closeClaim_same (m : Nat) : ((closeClaim s m).sh.mail.get m).claim = none := by
  unfold closeClaim
  split
  · rw [endClaim_mail]
  next hc => simpa using hc

theorem closeClaim_other {m n : Nat} (h : m ≠ n) : (closeClaim s n).sh.mail.get m = s.sh.mail.get m := by
  unfold closeClaim
  split
  · exact endClaim_other_mail s 0 h
  · rfl

/-- The mailboxes are unclaimed once their claims have ended (R44). -/
theorem foldl_closeClaim (m : Nat) (l : List Nat) (h : m ∈ l ∨ (s.sh.mail.get m).claim = none) :
    ((l.foldl closeClaim s).sh.mail.get m).claim = none := by
  induction l generalizing s with
  | nil => exact h.resolve_left (by simp)
  | cons n r ih =>
    refine ih _ ?_
    by_cases hm : m = n
    · subst hm
      exact .inr (closeClaim_same s m)
    · rw [closeClaim_other s hm]
      exact h.imp_left (List.mem_of_ne_of_mem hm)

theorem endClaims_claims {m : Nat} (h : m < 8) : ((endClaims s).sh.mail.get m).claim = none := by
  rw [endClaims_eq]
  exact foldl_closeClaim s m _ (.inl (List.mem_range.2 h))

theorem ite_mail {p : Prop} [Decidable p] {u v : State} {m : Tab Mailbox} (hu : u.sh.mail = m) (hv : v.sh.mail = m) :
    (if p then u else v).sh.mail = m := by
  split
  · exact hu
  · exact hv

theorem leadClear_mail (ch det : Nat) (recover : Bool) : (leadClear ch det recover s).sh.mail = s.sh.mail := by
  refine ite_mail rfl ?_
  have told : (if (s.lead ch det).wasConfirmed then alarmNotice false 0x20 ch 0 (leadUpd ch det (fun l => { l with
        state := 0, overRow := 0, underRow := 0, wasConfirmed := false
        spans := l.spans.map fun p => if p.2.isNone then (p.1, some s.clk.loom) else p }) s)
      else leadUpd ch det (fun l => { l with
        state := 0, overRow := 0, underRow := 0, wasConfirmed := false
        spans := l.spans.map fun p => if p.2.isNone then (p.1, some s.clk.loom) else p }) s).sh.mail = s.sh.mail :=
    ite_mail (by rw [alarmNotice_sh]; rfl) rfl
  exact ite_mail told told

theorem leadSuspect_mail (ch det : Nat) : (leadSuspect ch det s).sh.mail = s.sh.mail := ite_mail rfl rfl

theorem cutSlots_mail (pod : Nat) : (cutSlots pod s).sh.mail = s.sh.mail := by
  unfold cutSlots
  generalize List.map _ _ = l
  exact foldl_view (fun u : State => u.sh.mail) _ (fun u ch =>
    ite_mail (ite_mail (leadSuspect_mail u ch 3) rfl) (leadClear_mail u ch 3 true)) l s

theorem cutLeads_mail : (cutLeads s).sh.mail = s.sh.mail := by
  unfold cutLeads
  generalize List.filter _ _ = l
  exact foldl_view (fun u : State => u.sh.mail) _ cutSlots_mail l s

theorem cancel_mail (cs : List Staged) : (cs.foldl cancelEvent s).sh.mail = s.sh.mail :=
  foldl_view (fun u : State => u.sh.mail) cancelEvent (fun _ _ => rfl) cs s

theorem setDelivering_mail (on : Bool) (at_ : Nat) : (setDelivering on at_ s).sh.mail = s.sh.mail := ite_mail rfl rfl

theorem leaveForBoot_mail (old : HubState) (at_ : Nat) : (leaveState old .boot at_ s).sh.mail = s.sh.mail := by
  have moves : ∀ u : State, (cancelMoves u).sh.mail = u.sh.mail := fun u => cancel_mail _ _
  have arms : ∀ u : State, (cancelArms u).sh.mail = u.sh.mail := fun u => cancel_mail _ _
  cases old <;> simp [leaveState, setDelivering_mail, arms, moves]

/-- A move to BOOT leaves the mailboxes alone. -/
theorem enterBoot_mail (reason source at_ : Nat) : (enterState .boot reason source at_ s).sh.mail = s.sh.mail := by
  by_cases h : s.hub.state = .boot ∨ (s.hub.state = .safe ∧ HubState.boot ≠ .boot)
  · rw [enterState_same reason source at_ h]
  · rw [show enterState .boot reason source at_ s = _ from if_neg h, cutLeads_mail]
    rw [show ∀ old u, arriveState old .boot reason at_ u = u from fun _ _ => rfl, leaveForBoot_mail, logEvent_sh_mail]

theorem Steady.parts {u v : State} (h : Steady u v) : v.clk = u.clk ∧ v.cfg = u.cfg :=
  ⟨congrArg Anchor.clk h.anchor, congrArg Anchor.cfg h.anchor⟩

theorem Moved.clk {u v : State} (h : Moved u v) : v.clk = u.clk := by
  obtain ⟨_, _, _, m⟩ := h
  exact m.clk

theorem Moved.cfg {u v : State} (h : Moved u v) : ∃ staged, v.cfg = { u.cfg with staged } := by
  obtain ⟨_, _, _, m⟩ := h
  obtain ⟨_, -, e⟩ := m.cfg
  exact ⟨_, e⟩

/-- A hub that drops to BOOT has no claim left; its clocks, its configuration and its copies stay. -/
theorem dropToBoot_frame (source : Nat) : (dropToBoot source s).clk = s.clk
    ∧ (∃ staged, (dropToBoot source s).cfg = { s.cfg with staged }) ∧ ∀ m, m < 8 → ((dropToBoot source s).sh.mail.get m).claim = none := by
  obtain ⟨uclk, ucfg⟩ := (releaseTaps_steady s (List.range 16)).parts
  obtain ⟨xclk, xcfg⟩ := endXi_frame (releaseTaps (List.range 16) s)
  obtain ⟨kclk, kcfg⟩ := endClaims_frame (endXi (releaseTaps (List.range 16) s))
  have moved := enterState_moved .boot 0 source s.clk.loom (endClaims (endXi (releaseTaps (List.range 16) s)))
  obtain ⟨staged, e⟩ := moved.cfg
  refine ⟨moved.clk.trans (kclk.trans (xclk.trans uclk)), ⟨staged, ?_⟩, fun m hm => ?_⟩
  · rw [dropToBoot_eq, e, kcfg, xcfg, ucfg]
  · rw [dropToBoot_eq, enterBoot_mail]
    exact endClaims_claims _ hm

end

/-! ### RESTART (R74) -/

section
variable {s : State} {rq : Req} {t image : Nat}

/-- The rules of RESTART (R59, R74). -/
def restartRules : Rules := { code := 0x0006, legal := fun _ => true, standbyNo := false, len := lenIs 1 }

/-- A RESTART waits 1 ms (R74). -/
def State.restarting (image : Nat) (s : State) : State := { s with hub := { s.hub with restart := some (image, s.clk.loom) } }

theorem restart_answers (h : s.Takes rq (fun _ => true)) (hi : image ≤ 2) (hp : rq.payload = beBytes 1 image) :
    Answers (.restart t rq) s rq 0x0006 0 0 [] ((tick t s).restarting image) := by
  have field : beAt rq.payload 0 1 = image := by rw [hp, beAt_only]; omega
  refine done_of (c := restartRules) rfl (by decide) h (fun e => absurd e (by decide)) (by rw [hp]; rfl) fun v hv =>
    ⟨v.restarting image, ?_, hv.map (State.restarting image) (fun _ _ _ => rfl) rfl, rfl, rfl⟩
  show (if beAt rq.payload 0 1 > 2 then _ else (Reply.done [], v.restarting (beAt rq.payload 0 1))) = _
  rw [field, if_neg (by omega)]

theorem restart_refuses (h : s.Takes rq (fun _ => true)) (hi : 2 < image) (h8 : image < 256) (hp : rq.payload = beBytes 1 image) :
    Refuses (.restart t rq) t s rq 0x0006 0x0301 (atIndex 0xFFFF) := by
  have field : beAt rq.payload 0 1 = image := by rw [hp, beAt_only]; omega
  rw [← refused_atIndex]
  refine refuses_of (l := {}) (c := restartRules) rfl (by decide) h (fun e => absurd e (by decide)) (by rw [hp]; rfl) fun v hv => ?_
  show (if beAt rq.payload 0 1 > 2 then (Reply.no 0x0301, v) else _) = _
  rw [field, if_pos hi]
  rfl

/-- BOOT follows a RESTART that has waited (R57, R74). -/
def restartEnters (s : State) : State :=
  match s.hub.restart with
  | some (image, sent) => if sent + usLoom 1000 ≤ s.clk.loom ∧ s.hub.state ≠ .safe then bootStart image (dropToBoot 0x0006 s) else s
  | none => s

theorem exec_restartEntry (t : Nat) (s : State) : exec (.restartEntry t) s = act t s (unlessReset restartEnters) := rfl

theorem restartEntry_waits (h : s.hub.restart = none ∨ s.hub.state = .safe ∨ s.hub.inReset = true) :
    exec (.restartEntry t) s = .next (tick t s) := by
  have same : unlessReset restartEnters (tick t s) = tick t s := by
    unfold unlessReset
    split
    · rfl
    next hr =>
      rw [restartEnters, tick_hub]
      split
      next e =>
        refine if_neg fun hc => ?_
        rcases h with h | h | h
        · exact nomatch h.symm.trans e
        · exact hc.2 h
        · exact hr h
      · rfl
  exact exec_of_act (exec_restartEntry ..) same rfl

theorem restartEntry_enters {sent : Nat} (hr : s.hub.inReset = false) (h : s.hub.restart = some (image, sent))
    (hw : sent + usLoom 1000 ≤ (tick t s).clk.loom) (hs : s.hub.state ≠ .safe) :
    Does (.restartEntry t) s fun s' => s'.hub.state = .boot ∧ s'.hub.restart = none ∧ s'.hub.inReset = false ∧ s'.sh.taken = []
      ∧ s'.sh.lock = none ∧ s'.sh.jobs = [] ∧ (∀ m, s'.sh.mail.get m = { }) ∧ s'.clk.loom = (tick t s).clk.loom
      ∧ s'.clk.beat = s.clk.beat := by
  have enters : unlessReset restartEnters (tick t s) = bootStart image (dropToBoot 0x0006 (tick t s)) := by
    rw [unlessReset_of_running (s := tick t s) hr, restartEnters, tick_hub, h]
    exact if_pos ⟨hw, hs⟩
  obtain ⟨⟨hst, -, -, hre, -, -, -, -, hrs⟩, ⟨ht, hj, hl, hm⟩, -, -, hloom, hbeat, -⟩ :=
    (bootStart_booted image (dropToBoot 0x0006 (tick t s))).withPending s.pending
  have hclk := (dropToBoot_frame (tick t s) 0x0006).1
  exact does_of_act (exec_restartEntry ..) enters ⟨hst, hrs, hre, ht, hl, hj, hm, hloom.trans (congrArg Clocks.loom hclk),
    hbeat.trans ((congrArg Clocks.beat hclk).trans rfl)⟩

end

/-! ### JOB_CANCEL (R55) -/

/-- The rules of JOB_CANCEL (R59, R74). -/
def jobCancelRules : Rules := { code := 0x0005, legal := stRead, standbyNo := false, len := lenIs 2 }

/-- What JOB_CANCEL does to a job that runs (R55). -/
def cancelJob (id mb : Nat) (w : JobWork) (s : State) : Reply × State :=
  match w with
  | .reedSwap die => (.done [], withdrawSwap id die mb s)
  | .pathTest .. => (.done [], testEnd id 3 0 [] s)
  | .calRun .. => (.done [], testEnd id 3 0 [] s)
  | .syncReset ts => if s.warp.resetTold ∨ ts < s.clk.loom + usLoom 20 then (.no 0x0108, s) else (.done [], withdrawReset id s)
  | .tableLoad k _ => (.done [], tableUpd k (fun x => { x with loading := false }) (cancelWinnow id s))
  | .imageLoad _ => (.done [], cancelWinnow id s)
  | .bridgeZero .. => (.done [], endJob id 3 0 [] 0 s)
  | .storeCrc .. => (.done [], endJob id 3 0 [] 0 s)
  | .other => (.done [], endJob id 3 0 [] 0 s)

/-- What JOB_CANCEL does, by its job (R55). -/
def jobCancelBody (rq : Req) (s : State) : Reply × State :=
  match findJob (beAt rq.payload 0 2) s, s.jobWork (beAt rq.payload 0 2) with
  | none, _ => (.no 0x0307, s)
  | some _, none => (.done [], s)
  | some _, some w => cancelJob (beAt rq.payload 0 2) rq.mb w s

theorem exec_jobCancel (t : Nat) (rq : Req) (s : State) : exec (.jobCancel t rq) s = runCmd jobCancelRules jobCancelBody t rq s := by
  have e : ∀ q v, jobCancelBody q v = match findJob (beAt q.payload 0 2) v, v.jobWork (beAt q.payload 0 2) with
      | none, _ => (.no 0x0307, v)
      | some _, none => (.done [], v)
      | some _, some w => cancelJob (beAt q.payload 0 2) q.mb w v := fun _ _ => rfl
  rfl

/-- An operation that leaves the mailboxes, the requests taken and the queue as they are. -/
structure Aside (f : State → State) : Prop where
  free : MailFree f
  mail : ∀ v, (f v).sh.mail = v.sh.mail
  taken : ∀ v, (f v).sh.taken = v.sh.taken
  pending : ∀ v, (f v).pending = v.pending

theorem Aside.comp {f g : State → State} (hg : Aside g) (hf : Aside f) : Aside fun s => g (f s) :=
  ⟨hg.free.comp hf.free, fun v => (hg.mail _).trans (hf.mail v), fun v => (hg.taken _).trans (hf.taken v),
    fun v => (hg.pending _).trans (hf.pending v)⟩

theorem endJob_aside (id : Nat) : Aside (endJob id 3 0 [] 0) :=
  ⟨fun _ _ _ => rfl, fun _ => rfl, fun _ => rfl, fun _ => rfl⟩

theorem cancelWinnow_aside (id : Nat) : Aside (cancelWinnow id) :=
  ⟨fun _ _ _ => rfl, fun _ => rfl, fun _ => rfl, fun _ => rfl⟩

theorem tableUpd_aside (k : Nat) (f : Table → Table) : Aside (tableUpd k f) :=
  ⟨fun _ _ _ => rfl, fun _ => rfl, fun _ => rfl, fun _ => rfl⟩

theorem withdrawSwap_aside (id die mb : Nat) : Aside (withdrawSwap id die mb) :=
  ⟨fun _ _ _ => rfl, fun _ => rfl, fun _ => rfl, fun _ => rfl⟩

theorem withdrawReset_aside (id : Nat) : Aside (withdrawReset id) :=
  ⟨fun _ _ _ => rfl, fun _ => rfl, fun _ => rfl, fun _ => rfl⟩

theorem returnSlot_aside (ch : Nat) : Aside (returnSlot · ch) := by
  refine ⟨fun v mail low => ?_, fun v => ?_, fun v => ?_, fun v => ?_⟩
  · show (if v.cfg.active.chanOn ch = true then _ else _) = State.withMail (if v.cfg.active.chanOn ch = true then _ else _) mail low
    split <;> rfl
  all_goals
    unfold returnSlot
    dsimp only
    split <;> rfl

theorem foldl_aside {α : Type} {f : State → α → State} (hf : ∀ x, Aside (f · x)) (l : List α) : Aside fun s => l.foldl f s := by
  induction l with
  | nil => exact ⟨fun _ _ _ => rfl, fun _ => rfl, fun _ => rfl, fun _ => rfl⟩
  | cons x r ih => exact ih.comp (hf x)

theorem testEnd_aside (id : Nat) : Aside (testEnd id 3 0 []) := by
  have ended : ∀ w, Aside fun s => (testChans w).foldl returnSlot (endJob id 3 0 [] 0 s) := fun w =>
    (foldl_aside returnSlot_aside _).comp (endJob_aside id)
  refine ⟨fun v mail low => ?_, fun v => ?_, fun v => ?_, fun v => ?_⟩
  · have e : (v.withMail mail low).jobWork id = v.jobWork id := rfl
    unfold testEnd
    rw [e]
    split
    · exact (ended _).free v mail low
    · rfl
  all_goals
    unfold testEnd
    split
  · exact (ended _).mail v
  · rfl
  · exact (ended _).taken v
  · rfl
  · exact (ended _).pending v
  · rfl

section
variable {s : State} {rq : Req} {t id : Nat} {j : Job}

theorem jobWork_running (hj : findJob id s = some j) (he : j.ended = none) : s.jobWork id = some j.work := by
  rw [State.jobWork, hj]
  simp [he]

theorem jobWork_ended (hj : findJob id s = some j) (he : j.ended ≠ none) : s.jobWork id = none := by
  rw [State.jobWork, hj]
  simp [Option.isNone_iff_eq_none, he]

theorem jobCancel_unknown (h : s.Takes rq stRead) (hi : id < 2 ^ 16) (hp : rq.payload = beBytes 2 id) (hj : findJob id s = none) :
    Refuses (.jobCancel t rq) t s rq 0x0005 0x0307 (atIndex 0xFFFF) := by
  have field : beAt rq.payload 0 2 = id := by rw [hp, beAt_only]; omega
  rw [← refused_atIndex]
  refine refuses_of (l := {}) (c := jobCancelRules) (exec_jobCancel ..) (by decide) h (fun e => absurd e (by decide)) (by rw [hp]; rfl)
    fun v hv => ?_
  obtain ⟨mail, low, rfl⟩ := hv.rest
  have hj' : findJob id ((tick t s).withMail mail low) = none := hj
  simp only [jobCancelBody, field, hj']
  rfl

/-- A job that has ended is not cancelled (R55). -/
theorem jobCancel_ended (h : s.Takes rq stRead) (hi : id < 2 ^ 16) (hp : rq.payload = beBytes 2 id) (hj : findJob id s = some j)
    (he : j.ended ≠ none) : Answers (.jobCancel t rq) s rq 0x0005 0 0 [] (tick t s) := by
  have field : beAt rq.payload 0 2 = id := by rw [hp, beAt_only]; omega
  refine done_of (c := jobCancelRules) (exec_jobCancel ..) (by decide) h (fun e => absurd e (by decide)) (by rw [hp]; rfl)
    fun v hv => ⟨v, ?_, hv, rfl, rfl⟩
  obtain ⟨mail, low, rfl⟩ := hv.rest
  have hj' : findJob id ((tick t s).withMail mail low) = some j := hj
  simp only [jobCancelBody, field, hj', jobWork_ended hj' he]

/-- A job that runs is cancelled as its kind says (R55). -/
theorem jobCancel_running (h : s.Takes rq stRead) (hi : id < 2 ^ 16) (hp : rq.payload = beBytes 2 id) (hj : findJob id s = some j)
    (he : j.ended = none) {f : State → State} (hf : Aside f)
    (hc : ∀ mail low, cancelJob id rq.mb j.work ((tick t s).withMail mail low) = (.done [], f ((tick t s).withMail mail low))) :
    Answers (.jobCancel t rq) s rq 0x0005 0 0 [] (f (tick t s)) := by
  have field : beAt rq.payload 0 2 = id := by rw [hp, beAt_only]; omega
  refine done_of (c := jobCancelRules) (exec_jobCancel ..) (by decide) h (fun e => absurd e (by decide)) (by rw [hp]; rfl)
    fun v hv => ⟨f v, ?_, hv.map f hf.free (hf.mail _), hf.pending v, hf.taken v⟩
  obtain ⟨mail, low, rfl⟩ := hv.rest
  have hj' : findJob id ((tick t s).withMail mail low) = some j := hj
  simp only [jobCancelBody, field, hj', jobWork_running hj' he]
  exact hc mail low

/-- A reset that has been told, or is near, is not withdrawn (R231). -/
theorem jobCancel_late (h : s.Takes rq stRead) (hi : id < 2 ^ 16) (hp : rq.payload = beBytes 2 id) (hj : findJob id s = some j)
    (he : j.ended = none) {ts : Nat} (hw : j.work = .syncReset ts)
    (hl : s.warp.resetTold = true ∨ ts < (tick t s).clk.loom + usLoom 20) :
    Refuses (.jobCancel t rq) t s rq 0x0005 0x0108 (atIndex 0xFFFF) := by
  have field : beAt rq.payload 0 2 = id := by rw [hp, beAt_only]; omega
  rw [← refused_atIndex]
  refine refuses_of (l := {}) (c := jobCancelRules) (exec_jobCancel ..) (by decide) h (fun e => absurd e (by decide)) (by rw [hp]; rfl)
    fun v hv => ?_
  obtain ⟨mail, low, rfl⟩ := hv.rest
  have hj' : findJob id ((tick t s).withMail mail low) = some j := hj
  simp only [jobCancelBody, field, hj', jobWork_running hj' he, hw]
  exact if_pos hl

end

/-- Settles O21: RESTART through the boot that follows, JOB_CANCEL by the kind of the job. -/
theorem restartAndCancel : Obligations.RestartAndCancel := by
  intro s t rq u
  refine ⟨fun image h h8 hp => ⟨fun hi => restart_answers h hi hp, fun hi => restart_refuses h hi h8 hp⟩,
    fun image sent hr h hw hs => restartEntry_enters hr h hw hs, restartEntry_waits, fun id h hi hp hj => jobCancel_unknown h hi hp hj,
    fun id j h hi hp hj => ?_⟩
  intro cancels gone noJob
  refine ⟨fun he => jobCancel_ended h hi hp hj he, fun he => ?_⟩
  have cancelled := fun {f : State → State} (hf : Aside f) => jobCancel_running (t := t) h hi hp hj he hf
  cases hw : j.work with
  | other => exact cancelled (endJob_aside id) fun _ _ => by rw [hw]; rfl
  | bridgeZero => exact cancelled (endJob_aside id) fun _ _ => by rw [hw]; rfl
  | storeCrc => exact cancelled (endJob_aside id) fun _ _ => by rw [hw]; rfl
  | imageLoad => exact cancelled (cancelWinnow_aside id) fun _ _ => by rw [hw]; rfl
  | tableLoad k => exact cancelled ((tableUpd_aside k _).comp (cancelWinnow_aside id)) fun _ _ => by rw [hw]; rfl
  | reedSwap die => exact cancelled (withdrawSwap_aside id die rq.mb) fun _ _ => by rw [hw]; rfl
  | pathTest => exact cancelled (testEnd_aside id) fun _ _ => by rw [hw]; rfl
  | calRun => exact cancelled (testEnd_aside id) fun _ _ => by rw [hw]; rfl
  | syncReset at_ =>
    show if s.warp.resetTold = true ∨ at_ < u.clk.loom + usLoom 20 then _ else _
    by_cases hl : s.warp.resetTold = true ∨ at_ < u.clk.loom + usLoom 20
    · rw [if_pos hl]
      exact jobCancel_late h hi hp hj he hw hl
    · rw [if_neg hl]
      exact cancelled (withdrawReset_aside id) fun _ _ => by rw [hw]; exact if_neg hl

end Sys2Proof.Machine

/-! SUPPORT. nRESET and BOOT as R454 to R457 and R71, R72 have them (O55): the first step of BOOT, and what its choices come to. -/

namespace Sys2Proof.Machine

open Sys2Proof

/-! ### What BOOT comes to -/

section
variable {s : State} {named : Nat}

/-- Every read of eMRAM that BOOT begins with is good. -/
def State.ReadsWell (s : State) : Prop := ∀ i, i < 6 → Config.badSector (s.free + i) = none

theorem readStored_goes (h : s.ReadsWell) : Minor 12 s.goes (readStored s.goes) := readStored_good (s := s.goes) h

/-- The images and the running one after BOOT (R457). -/
theorem bootGo_images (h : s.ReadsWell) : (bootGo named s).imgView = ((s.imageChoice named).1,
    if s.pow.imageA.invalid = s.pow.imageB.invalid ∨ Config.emramWrite (s.free + 6) = false then (s.pow.imageA, s.pow.imageB)
    else if s.pow.imageA.invalid then ({ s.pow.imageB with writeEnds := s.clk.loom + Config.writeTime (s.free + 6) }, s.pow.imageB)
    else (s.pow.imageA, { s.pow.imageA with writeEnds := s.clk.loom + Config.writeTime (s.free + 6) })) := by
  have read := readStored_goes h
  obtain ⟨c, hhub⟩ := read.hub
  obtain ⟨worn, mended, hpow⟩ := read.pow
  have hclk : (readStored s.goes).clk = s.clk := read.rest.1
  have hfree : (readStored s.goes).free = s.free + 6 := readStored_free s.goes
  have choice : (readStored s.goes).imageChoice named = s.imageChoice named := by
    unfold State.imageChoice
    rw [hhub, hpow]
    rfl
  have ha : (readStored s.goes).pow.imageA = s.pow.imageA := by rw [hpow]; rfl
  have hb : (readStored s.goes).pow.imageB = s.pow.imageB := by rw [hpow]; rfl
  rw [bootGo_imgView, State.withImage, bootImage_images, choice, hclk, hfree, ha, hb]

/-- A choice of an image that is logged stays in the log (R457). -/
theorem bootGo_image_told (h : s.ReadsWell) (hr : s.Room 21) (hc : (s.imageChoice named).2 = true) :
    ∃ e ∈ (bootGo named s).sh.log, e.reason = 0x040B ∧ e.source = 0x0E00 := by
  have read := readStored_goes h
  obtain ⟨c, hhub⟩ := read.hub
  obtain ⟨worn, mended, hpow⟩ := read.pow
  have choice : (readStored s.goes).imageChoice named = s.imageChoice named := by
    unfold State.imageChoice
    rw [hhub, hpow]
    rfl
  have room := ((goes_boots s).adds.trans read.adds).room (m := 9) hr
  obtain ⟨e, he, hre⟩ := bootImage_told (s := readStored s.goes) (by rw [choice]; exact hc) ⟨room.idle, by have := room.room; omega⟩
  have later := ((bootConfig_boots (s.withImage named)).trans (afterConfig_boots s named)).adds
  exact ⟨e, later.mem ((bootImage_boots (readStored s.goes) named).adds.room (m := 7) room) he, hre⟩

/-- A read that is not good is logged (R77). -/
theorem bootGo_read_told {i sec : Nat} (hi : i < 6) (h : Config.badSector (s.free + i) = some sec) (hr : s.Room 21) :
    ∃ e ∈ (bootGo named s).sh.log, e.reason = 0x0409 ∧ e.source = 0x0E00 := by
  have room := (goes_boots s).adds.room (m := 21) hr
  obtain ⟨e, he, hre⟩ := readStored_bad (s := s.goes) hi h ⟨room.idle, by have := room.room; omega⟩
  have later := (bootImage_boots (readStored s.goes) named).adds.trans
    ((bootConfig_boots (s.withImage named)).trans (afterConfig_boots s named)).adds
  exact ⟨e, later.mem ((readStored_boots s.goes).adds.room (m := 9) room) he, hre⟩

/-- What that part of two states holds alike. -/
theorem cfgView_parts {u v : State} (h : v.cfgView = u.cfgView) : v.cfg.force = u.cfg.force ∧ v.cfg.active = u.cfg.active
    ∧ v.cfg.rejected = u.cfg.rejected ∧ v.cfg.copyA = u.cfg.copyA ∧ v.cfg.copyB = u.cfg.copyB ∧ v.sh.work = u.sh.work
    ∧ v.hub.bootTo = u.hub.bootTo := by
  exact ⟨congrArg (fun x => x.1.force) h, congrArg (fun x => x.1.active) h, congrArg (fun x => x.1.rejected) h,
    congrArg (fun x => x.1.copyA) h, congrArg (fun x => x.1.copyB) h, congrArg (fun x => x.2.1) h, congrArg (fun x => x.2.2) h⟩

/-- The configuration is that which the choice of a copy left (R71). -/
theorem bootGo_cfgView : (bootGo named s).cfgView = (bootConfig (s.withImage named)).cfgView := by
  obtain ⟨domains, e⟩ := bootDomains_minor_but (s.withCopies named)
  have h1 : (bootGo named s).cfgView = (s.withCopies named).cfgView := by rw [bootGo_eq, e]; rfl
  rw [h1, State.withCopies, (bootCal_minor _).cfgView]

theorem withImage_cfgView (h : s.ReadsWell) : (s.withImage named).cfgView = s.cfgView := by
  rw [State.withImage, bootImage_cfgView, (readStored_goes h).cfgView]
  rfl

/-- The copies are as eMRAM held them when BOOT chooses between them. -/
theorem withImage_copies (h : s.ReadsWell) : (s.withImage named).cfg.copyA = s.cfg.copyA
    ∧ (s.withImage named).cfg.copyB = s.cfg.copyB ∧ (s.withImage named).copyChosen = s.copyChosen := by
  obtain ⟨-, -, -, ha, hb, -, -⟩ := cfgView_parts (withImage_cfgView (named := named) h)
  exact ⟨ha, hb, by rw [State.copyChosen, ha, hb, State.copyChosen]⟩

theorem withImage_room (hr : s.Room 21) : (s.withImage named).Room 7 := (withImage_boots s named).adds.room hr

theorem chosen_rests (hr : s.Room 21) : Rests (bootConfig (s.withImage named)) (bootGo named s) :=
  afterConfig_rests s named ((bootConfig_boots _).adds.room (m := 3) (withImage_room hr))

/-- A copy that BOOT loads, seen from where BOOT went on. -/
theorem Loads.of_withImage {inB : Bool} {x : Copy} {v : State} (h : s.ReadsWell) (k : Loads inB x (s.withImage named) v) :
    Loads inB x s v := by
  obtain ⟨hforce, hactive, hrej, -, -, hwork, hto⟩ := cfgView_parts (withImage_cfgView (named := named) h)
  have check : (s.withImage named).check x.words = s.check x.words := by
    unfold State.check
    rw [(withImage_boots s named).pow.2]
  obtain ⟨kcfg, kgood, kbad⟩ := k
  rw [check, hwork] at kgood
  rw [check, hforce, hactive, hto] at kbad
  rw [hrej] at kcfg
  exact ⟨kcfg, kgood, kbad⟩

theorem Rejects.of_withImage {reason : Nat} {v : State} (h : s.ReadsWell) (k : Rejects reason (s.withImage named) v) :
    Rejects reason s v := by
  obtain ⟨hforce, hactive, -, -, -, -, hto⟩ := cfgView_parts (withImage_cfgView (named := named) h)
  obtain ⟨kcfg, kto, ktold⟩ := k
  rw [hforce, hactive, (withImage_copies h).1] at kcfg
  exact ⟨kcfg, kto.trans hto, ktold⟩

/-- The copies after BOOT are those after the choice. -/
theorem bootGo_copies : (bootGo named s).cfg.copyA = (bootConfig (s.withImage named)).cfg.copyA
    ∧ (bootGo named s).cfg.copyB = (bootConfig (s.withImage named)).cfg.copyB := by
  obtain ⟨-, -, -, ha, hb, -, -⟩ := cfgView_parts (bootGo_cfgView (s := s) (named := named))
  exact ⟨ha, hb⟩

theorem copyIn_withImage (h : s.ReadsWell) (inB : Bool) : (s.withImage named).copyIn inB = s.copyIn inB := by
  obtain ⟨ha, hb, -⟩ := withImage_copies (named := named) h
  rw [State.copyIn, ha, hb, State.copyIn]

/-- A choice without a reason (R71). -/
theorem bootGo_plain {inB : Bool} (h : s.ReadsWell) (hr : s.Room 21) (hc : s.copyChosen = (some inB, 0)) :
    Loads inB (s.copyIn inB) s (bootGo named s) := by
  obtain ⟨-, -, hchosen⟩ := withImage_copies (named := named) h
  obtain ⟨loads, -, -⟩ := bootConfig_plain (hchosen.trans hc)
  rw [copyIn_withImage h] at loads
  exact (loads.rests (chosen_rests hr)).of_withImage h

theorem bootGo_rejects {reason : Nat} (h : s.ReadsWell) (hr : s.Room 21) (hc : s.copyChosen = (none, reason)) (hn : reason ≠ 0) :
    Rejects reason s (bootGo named s) := by
  obtain ⟨-, -, hchosen⟩ := withImage_copies (named := named) h
  obtain ⟨rejects, -, -⟩ := bootConfig_rejects (hchosen.trans hc) hn
  exact (rejects.rests (chosen_rests hr)).of_withImage h

/-- Where both copies are valid, both stay (R71). -/
theorem bootGo_keeps_copies (h : s.ReadsWell) (hc : s.copyChosen.2 ≠ 0x0402) (hn : s.copyChosen.1 = none → s.copyChosen.2 ≠ 0)
    (hs : s.copyChosen.1 ≠ none → s.copyChosen.2 = 0) :
    (bootGo named s).cfg.copyA = s.cfg.copyA ∧ (bootGo named s).cfg.copyB = s.cfg.copyB := by
  obtain ⟨ha, hb, hchosen⟩ := withImage_copies (named := named) h
  obtain ⟨ga, gb⟩ := bootGo_copies (s := s) (named := named)
  cases hk : s.copyChosen with
  | mk c reason =>
    rw [hk] at hn hs hchosen
    cases c with
    | none =>
      obtain ⟨-, ka, kb⟩ := bootConfig_rejects hchosen (hn rfl)
      exact ⟨ga.trans (ka.trans ha), gb.trans (kb.trans hb)⟩
    | some inB =>
      have hz : reason = 0 := hs (by simp)
      subst hz
      obtain ⟨-, ka, kb⟩ := bootConfig_plain hchosen
      exact ⟨ga.trans (ka.trans ha), gb.trans (kb.trans hb)⟩

/-- One copy alone is valid (R71). -/
theorem bootGo_single {inB : Bool} (h : s.ReadsWell) (hr : s.Room 21) (hc : s.copyChosen = (some inB, 0x0402)) :
    let v := bootGo named s
    let failed := v.sh.alarms.contains 12 = true ∧ ∃ k, Config.emramWrite k = false
    Loads inB (s.copyIn inB) s v ∧ (∃ e ∈ v.sh.log, e.reason = 0x0402 ∧ e.source = 0)
      ∧ (inB = false → v.cfg.copyA = s.cfg.copyA ∧ (v.cfg.copyB = s.cfg.copyA ∨ (v.cfg.copyB = s.cfg.copyB ∧ failed)))
      ∧ (inB = true → v.cfg.copyB = s.cfg.copyB ∧ (v.cfg.copyA = s.cfg.copyB ∨ (v.cfg.copyA = s.cfg.copyA ∧ failed))) := by
  obtain ⟨ha, hb, hchosen⟩ := withImage_copies (named := named) h
  obtain ⟨ga, gb⟩ := bootGo_copies (s := s) (named := named)
  have room := withImage_room (named := named) hr
  obtain ⟨loads, ⟨e, he, hre⟩, toB, toA⟩ := bootConfig_single (hchosen.trans hc) ⟨room.idle, by have := room.room; omega⟩
  have rests := chosen_rests (named := named) hr
  have alarm := (afterConfig_boots s named).alarm
  rw [copyIn_withImage h] at loads
  refine ⟨(loads.rests rests).of_withImage h, ⟨e, rests.log e he, hre⟩, fun hi => ?_, fun hi => ?_⟩
  · obtain ⟨ka, kb⟩ := toB hi
    rw [ga, gb, ka, ha]
    rw [ha, hb] at kb
    exact ⟨rfl, kb.imp_right fun ⟨k, hal, hw⟩ => ⟨k, alarm hal, hw⟩⟩
  · obtain ⟨kb, ka⟩ := toA hi
    rw [ga, gb, kb, hb]
    rw [ha, hb] at ka
    exact ⟨rfl, ka.imp_right fun ⟨k, hal, hw⟩ => ⟨k, alarm hal, hw⟩⟩

end

/-! ### The first step of BOOT (R454) -/

section
variable (s : State)

theorem foldl_upd_field {α β : Type} [Inhabited α] [DecidableEq α] (f : α → α) (g : α → β) (hg : ∀ x, g (f x) = g x) (l : List Nat) (m : Tab α) (k : Nat) :
    g ((l.foldl (fun (t : Tab α) r => t.upd r f) m).get k) = g (m.get k) := by
  induction l generalizing m with
  | nil => rfl
  | cons r l ih =>
    rw [List.foldl_cons, ih]
    by_cases h : k = r
    · rw [h, Tab.get_upd_same, hg]
    · rw [Tab.get_upd_other _ _ h]

theorem bootBase_railsIn (d : Nat) : (bootBase s).railsIn d = s.railsIn d := by
  have e : ∀ r, ((bootBase s).pow.rails.get r).state = (s.pow.rails.get r).state := fun r =>
    foldl_upd_field (fun r : Rail => { r with excursions := 0 }) Rail.state (fun _ => rfl) (List.range 8) s.pow.rails r
  simp only [State.railsIn, e]

theorem bootBase_room : (bootBase s).Room 21 := by
  refine ⟨rfl, ?_⟩
  have e : (bootBase s).sh.log = s.sh.log.take 256 := rfl
  rw [e, List.length_take]
  omega

theorem bootBase_domains {d : Nat} (h : 0 < d) : (bootBase s).pow.domains.get d = {} := by
  have e : (bootBase s).pow.domains = [(0, { s.pow.domains.get 0 with state := 2, good := true, wanted := true })] := rfl
  rw [e]
  exact if_neg (Nat.ne_of_gt h)

end

/-! ### nRESET (R455) -/

section
variable {s : State} {t : Nat} {rolePri hubidSel bootSel : Bool}

/-- The straps are latched at the rising edge of nRESET (R455). -/
def State.released (rolePri hubidSel bootSel : Bool) (s : State) : State :=
  { s with hub := { s.hub with nresetLow := false, rolePri, hubidSel, bootSel } }

/-- What the rising edge of nRESET does (R455, R456). -/
def releaseEdge (rolePri hubidSel bootSel : Bool) (s : State) : State :=
  if s.hub.nresetLow then
    (if (s.released rolePri hubidSel bootSel).railsIn 0 then bootStart 0 (s.released rolePri hubidSel bootSel)
      else s.released rolePri hubidSel bootSel)
  else s

theorem exec_nresetRelease (t : Nat) (rolePri hubidSel bootSel : Bool) (s : State) :
    exec (.nresetRelease t rolePri hubidSel bootSel) s = act t s (releaseEdge rolePri hubidSel bootSel) := rfl

/-- The state in which BOOT begins at the rising edge (R455). -/
def State.atEdge (t : Nat) (rolePri hubidSel bootSel : Bool) (s : State) : State := (tick t s).released rolePri hubidSel bootSel

theorem release_begins {P : State → Prop} (hl : s.hub.nresetLow = true) (hr : s.railsIn 0 = true)
    (h : ∀ v, v = bootStart 0 (s.atEdge t rolePri hubidSel bootSel) → P { v with pending := s.pending }) :
    Does (.nresetRelease t rolePri hubidSel bootSel) s P :=
  does_of_act (exec_nresetRelease ..) ((if_pos hl).trans (if_pos hr)) (h _ rfl)

/-- BOOT waits for XI at the edge. -/
theorem release_waits {P : State → Prop} (hx : s.xiOut = true) (hl : s.hub.nresetLow = true) (hr : s.railsIn 0 = true)
    (h : ∀ v, v = logEvent 0x0408 0 0 ((bootBase (s.atEdge t rolePri hubidSel bootSel)).waitsXi 0) →
      P { v with pending := s.pending }) : Does (.nresetRelease t rolePri hubidSel bootSel) s P :=
  release_begins hl hr fun v e => h v (e.trans ((bootStart_eq ..).trans (if_pos hx)))

/-- BOOT goes on at the edge. -/
theorem release_goes {P : State → Prop} (hx : s.xiOut = false) (hl : s.hub.nresetLow = true) (hr : s.railsIn 0 = true)
    (h : ∀ v, v = bootGo 0 (bootBase (s.atEdge t rolePri hubidSel bootSel)) → P { v with pending := s.pending }) :
    Does (.nresetRelease t rolePri hubidSel bootSel) s P :=
  release_begins hl hr fun v e => h v (e.trans ((bootStart_eq ..).trans (if_neg (Bool.eq_false_iff.1 hx))))

/-- nRESET low holds the hub in reset (R455). -/
def State.heldLow (s : State) : State :=
  { s with hub := { s.hub with state := .boot, nresetLow := true, inReset := true }, pair := { s.pair with hbOn := false } }

theorem exec_nresetAssert (t : Nat) (s : State) :
    exec (.nresetAssert t) s = act t s fun s => (if s.hub.inReset then s else dropToBoot 0 s).heldLow := rfl

theorem heldLow_parts (u : State) (pending : List Instr) : ({ u.heldLow with pending } : State).cfg = u.cfg
    ∧ ({ u.heldLow with pending } : State).sh = u.sh ∧ ({ u.heldLow with pending } : State).clk = u.clk := ⟨rfl, rfl, rfl⟩

theorem nresetAssert_does (t : Nat) (s : State) : Does (.nresetAssert t) s fun s' => s'.hub.state = .boot ∧ s'.hub.nresetLow = true
    ∧ s'.hub.inReset = true ∧ (s.hub.inReset = false → ∀ m, m < 8 → (s'.sh.mail.get m).claim = none)
    ∧ (s.hub.inReset = true → s'.sh = s.sh) ∧ s'.cfg.force = s.cfg.force ∧ s'.cfg.active = s.cfg.active
    ∧ s'.cfg.copyA = s.cfg.copyA ∧ s'.cfg.copyB = s.cfg.copyB ∧ s'.clk = (tick t s).clk := by
  cases hr : s.hub.inReset with
  | true =>
    exact does_of_act (exec_nresetAssert ..) (congrArg State.heldLow (if_pos hr))
      ⟨rfl, rfl, rfl, fun e => (nomatch e), fun _ => rfl, rfl, rfl, rfl, rfl, rfl⟩
  | false =>
    obtain ⟨hclk, ⟨staged, hcfg⟩, claims⟩ := dropToBoot_frame (tick t s) 0
    refine does_of_act (exec_nresetAssert ..) (congrArg State.heldLow (if_neg (by rw [tick_hub, hr]; decide))) ?_
    obtain ⟨kcfg, ksh, kclk⟩ := heldLow_parts (dropToBoot 0 (tick t s)) s.pending
    rw [kcfg, ksh, kclk, hcfg]
    exact ⟨rfl, rfl, rfl, fun _ => claims, fun e => (nomatch e), rfl, rfl, rfl, rfl, hclk⟩

end

/-! ### The choices, as R71 and R457 list them -/

section
variable {s : State}

theorem imageChoice_both (ha : s.pow.imageA.invalid = false) (hb : s.pow.imageB.invalid = false) :
    (s.imageChoice 0).1 = if s.hub.bootSel = false ∧ newer32 s.pow.imageB.seq s.pow.imageA.seq = true then 1 else 0 := by
  cases h : s.hub.bootSel <;> simp [State.imageChoice, ha, hb, h]

theorem imageChoice_onlyA (ha : s.pow.imageA.invalid = false) (hb : s.pow.imageB.invalid = true) : (s.imageChoice 0).1 = 0 := by
  cases h : s.hub.bootSel <;> simp [State.imageChoice, ha, hb, h]

theorem imageChoice_onlyB (ha : s.pow.imageA.invalid = true) (hb : s.pow.imageB.invalid = false) :
    s.imageChoice 0 = (1, s.hub.bootSel) := by
  cases h : s.hub.bootSel <;> simp [State.imageChoice, ha, hb, h]

theorem imageChoice_none (ha : s.pow.imageA.invalid = true) (hb : s.pow.imageB.invalid = true) : s.imageChoice 0 = (2, true) := by
  simp [State.imageChoice, ha, hb]

theorem copyChosen_both (ha : s.cfg.copyA.valid = true) (hb : s.cfg.copyB.valid = true) : s.copyChosen
    = if s.cfg.copyA.words = s.cfg.copyB.words then (some false, 0)
      else if newer32 s.cfg.copyB.seq s.cfg.copyA.seq = true then (some true, 0)
      else if newer32 s.cfg.copyA.seq s.cfg.copyB.seq = true then (some false, 0)
      else if s.cfg.copyA.seq = s.cfg.copyB.seq then (none, 0x0403) else (none, 0x0404) := by
  simp [State.copyChosen, copyChoice, ha, hb]

theorem copyChosen_onlyA (ha : s.cfg.copyA.valid = true) (hb : s.cfg.copyB.valid = false) : s.copyChosen = (some false, 0x0402) := by
  simp [State.copyChosen, copyChoice, ha, hb]

theorem copyChosen_onlyB (ha : s.cfg.copyA.valid = false) (hb : s.cfg.copyB.valid = true) : s.copyChosen = (some true, 0x0402) := by
  simp [State.copyChosen, copyChoice, ha, hb]

theorem copyChosen_none (ha : s.cfg.copyA.valid = false) (hb : s.cfg.copyB.valid = false) : s.copyChosen = (none, 0x0405) := by
  simp [State.copyChosen, copyChoice, ha, hb]

/-- Of any two numbers at most one is newer (R70). -/
theorem not_newer32_of_newer32 {a b : Nat} (h : newer32 a b = true) : newer32 b a = false := by
  rw [newer32, diff32, Bool.and_eq_true, decide_eq_true_eq, decide_eq_true_eq] at h
  rw [Bool.eq_false_iff, newer32, diff32, Ne, Bool.and_eq_true, decide_eq_true_eq, decide_eq_true_eq]
  omega

theorem newer32_self (a : Nat) : newer32 a a = false :=
  Bool.eq_false_iff.2 fun h => Bool.eq_false_iff.1 (not_newer32_of_newer32 h) h

section
variable (ha : s.cfg.copyA.valid = true) (hb : s.cfg.copyB.valid = true) (hw : s.cfg.copyA.words ≠ s.cfg.copyB.words)
include ha hb hw

theorem copyChosen_newerB (h : newer32 s.cfg.copyB.seq s.cfg.copyA.seq = true) : s.copyChosen = (some true, 0) := by
  rw [copyChosen_both ha hb, if_neg hw, if_pos h]

theorem copyChosen_newerA (h : newer32 s.cfg.copyA.seq s.cfg.copyB.seq = true) : s.copyChosen = (some false, 0) := by
  rw [copyChosen_both ha hb, if_neg hw, if_neg (Bool.eq_false_iff.1 (not_newer32_of_newer32 h)), if_pos h]

theorem copyChosen_equal (h : s.cfg.copyA.seq = s.cfg.copyB.seq) : s.copyChosen = (none, 0x0403) := by
  rw [copyChosen_both ha hb, if_neg hw, h, if_neg (Bool.eq_false_iff.1 (newer32_self _)), if_neg (Bool.eq_false_iff.1 (newer32_self _)),
    if_pos rfl]

theorem copyChosen_apart (h : s.cfg.copyA.seq ≠ s.cfg.copyB.seq) (hba : newer32 s.cfg.copyB.seq s.cfg.copyA.seq = false)
    (hab : newer32 s.cfg.copyA.seq s.cfg.copyB.seq = false) : s.copyChosen = (none, 0x0404) := by
  rw [copyChosen_both ha hb, if_neg hw, if_neg (Bool.eq_false_iff.1 hba), if_neg (Bool.eq_false_iff.1 hab), if_neg h]

end

/-- Where both copies are valid, neither slot is written (R71). -/
theorem bootGo_both {named : Nat} (h : s.ReadsWell) (ha : s.cfg.copyA.valid = true) (hb : s.cfg.copyB.valid = true) :
    (bootGo named s).cfg.copyA = s.cfg.copyA ∧ (bootGo named s).cfg.copyB = s.cfg.copyB := by
  refine bootGo_keeps_copies h ?_ ?_ ?_ <;> rw [copyChosen_both ha hb] <;> split_ifs <;> simp

/-- What the parts of a state's images are. -/
theorem imgView_parts {v : State} {r : Nat} {a b : Image} (h : v.imgView = (r, a, b)) :
    v.hub.runImage = r ∧ v.pow.imageA = a ∧ v.pow.imageB = b :=
  ⟨congrArg Prod.fst h, congrArg (fun x => x.2.1) h, congrArg (fun x => x.2.2) h⟩

/-- Both images are valid (R457). -/
theorem bootGo_images_both (h : s.ReadsWell) (ha : s.pow.imageA.invalid = false) (hb : s.pow.imageB.invalid = false) :
    (bootGo 0 s).hub.runImage = (if s.hub.bootSel = false ∧ newer32 s.pow.imageB.seq s.pow.imageA.seq = true then 1 else 0)
      ∧ (bootGo 0 s).pow.imageA = s.pow.imageA ∧ (bootGo 0 s).pow.imageB = s.pow.imageB := by
  have images := bootGo_images (named := 0) h
  rw [if_pos (.inl (ha.trans hb.symm)), imageChoice_both ha hb] at images
  exact imgView_parts images

/-- Image A alone is valid: it runs, and is copied where eMRAM takes it (R457). -/
theorem bootGo_images_onlyA (h : s.ReadsWell) (ha : s.pow.imageA.invalid = false) (hb : s.pow.imageB.invalid = true) :
    (bootGo 0 s).hub.runImage = 0 ∧ (bootGo 0 s).pow.imageA = s.pow.imageA ∧ (bootGo 0 s).pow.imageB
      = if Config.emramWrite (s.free + 6) = true then { s.pow.imageA with writeEnds := s.clk.loom + Config.writeTime (s.free + 6) }
        else s.pow.imageB := by
  have images := bootGo_images (named := 0) h
  rw [imageChoice_onlyA ha hb] at images
  cases hw : Config.emramWrite (s.free + 6)
  · rw [if_pos (.inr hw)] at images
    exact imgView_parts images
  · rw [if_neg (by simp [ha, hb, hw]), if_neg (by simp [ha])] at images
    exact imgView_parts images

/-- Image B alone is valid (R457). -/
theorem bootGo_images_onlyB (h : s.ReadsWell) (ha : s.pow.imageA.invalid = true) (hb : s.pow.imageB.invalid = false) :
    (bootGo 0 s).hub.runImage = 1 ∧ (bootGo 0 s).pow.imageB = s.pow.imageB ∧ (bootGo 0 s).pow.imageA
      = if Config.emramWrite (s.free + 6) = true then { s.pow.imageB with writeEnds := s.clk.loom + Config.writeTime (s.free + 6) }
        else s.pow.imageA := by
  have images := bootGo_images (named := 0) h
  rw [imageChoice_onlyB ha hb] at images
  cases hw : Config.emramWrite (s.free + 6)
  · rw [if_pos (.inr hw)] at images
    obtain ⟨h1, h2, h3⟩ := imgView_parts images
    exact ⟨h1, h3, h2⟩
  · rw [if_neg (by simp [ha, hb, hw]), if_pos ha] at images
    obtain ⟨h1, h2, h3⟩ := imgView_parts images
    exact ⟨h1, h3, h2⟩

/-- The time from which a BOOT that waits for XI counts is that at which it began, its first event notwithstanding (R456). -/
theorem logEvent_waitsXi (named : Nat) (u : State) : (logEvent 0x0408 0 0 (u.waitsXi named)).sh.xiFrom = some u.clk.loom := by
  obtain ⟨-, e⟩ := caughtUp_of_some (x := (u.waitsXi named).sh) (last := u.clk.loom) rfl u.clk.loom u.clk.beat
  have e' : (logEvent 0x0408 0 0 (u.waitsXi named)).sh.xiFrom = ((u.waitsXi named).sh.caughtUp u.clk.loom u.clk.beat).xiFrom := rfl
  rw [e', e.1, Nat.sub_self, Nat.zero_div, Nat.zero_mul, Nat.add_zero]

end

/-! ### nRESET low and its rising edge -/

/-- A loaded copy where nothing was loaded before. -/
theorem Loads.fresh {inB : Bool} {x : Copy} {b v : State} (k : Loads inB x b v) (hb : b.cfg.rejected = false ∧ b.cfg.force = []
    ∧ b.cfg.active = [] ∧ b.sh.work = none ∧ b.hub.bootTo = .config) : v.cfg.inB = inB ∧ v.cfg.seq = x.seq ∧ v.cfg.rejected = false
      ∧ (b.check x.words = none → v.cfg.force = x.words ∧ v.cfg.active = x.words ∧ v.sh.work = none
        ∧ v.hub.bootTo = if PMem.autostart x.words then .run else .ready)
      ∧ ∀ f, b.check x.words = some f → v.cfg.force = [] ∧ v.cfg.active = [] ∧ v.hub.bootTo = .config
        ∧ v.sh.work = some { words := x.words, seq := x.seq }
        ∧ ∃ e ∈ v.sh.log, e.reason = f.1 ∧ e.source = 0 ∧ e.detail = b2n inB := by
  obtain ⟨h1, h2, h3, h4, h5⟩ := hb
  obtain ⟨⟨k1, k2, k3⟩, kg, kb⟩ := k
  rw [h4] at kg
  rw [h2, h3, h5] at kb
  exact ⟨k1, k2, k3.trans h1, kg, kb⟩

/-- Rejected copies where nothing was loaded before. -/
theorem Rejects.fresh {reason : Nat} {b v : State} (k : Rejects reason b v) (hb : b.cfg.force = [] ∧ b.cfg.active = []
    ∧ b.hub.bootTo = .config) : v.cfg.rejected = true ∧ v.cfg.force = [] ∧ v.cfg.active = []
      ∧ v.cfg.seq = (if b.cfg.copyA.valid then b.cfg.copyA.seq else 0) ∧ v.hub.bootTo = .config
      ∧ ∃ e ∈ v.sh.log, e.reason = reason ∧ e.source = 0 := by
  obtain ⟨h1, h2, h3⟩ := hb
  obtain ⟨⟨k1, k2, k3, k4⟩, k5, k6⟩ := k
  exact ⟨k1, k2.trans h1, k3.trans h2, k4, k5.trans h3, k6⟩

/-- Settles O55: the edges of nRESET, the first step of BOOT, and its choices of an image and of a copy. -/
theorem bootChoosesAndStarts : Obligations.BootChoosesAndStarts := by
  intro s t rolePri hubidSel bootSel u same release begins goes boots taken ends a b loads logs rejects va vb
  have room := bootBase_room (s.atEdge t rolePri hubidSel bootSel)
  have reads : (∀ i, i < 6 → Config.badSector (s.free + i) = none) → (bootBase (s.atEdge t rolePri hubidSel bootSel)).ReadsWell :=
    fun h => h
  have loaded : ∀ inB v, Loads inB ((bootBase (s.atEdge t rolePri hubidSel bootSel)).copyIn inB)
      (bootBase (s.atEdge t rolePri hubidSel bootSel)) v → loads inB { v with pending := s.pending } := fun inB v k =>
    k.fresh ⟨rfl, rfl, rfl, rfl, rfl⟩
  have rejected : ∀ reason v, Rejects reason (bootBase (s.atEdge t rolePri hubidSel bootSel)) v →
      rejects reason { v with pending := s.pending } := fun reason v k => k.fresh ⟨rfl, rfl, rfl⟩
  refine ⟨nresetAssert_does t s, fun hl => ?_, fun hl hr => ?_, fun hl hr => ?_, fun hx hl hr => ?_, fun i sec hi hb hx hl hr => ?_,
    fun hx hl hr => ?_, fun ha hb hg hx hl hr => ?_, fun ha hb hg hx hl hr => ?_, fun ha hb hg hx hl hr => ?_,
    fun ha hb hg hx hl hr => ?_, fun ha hb hg hx hl hr => ?_, fun ha hb hg hx hl hr => ?_, fun ha hb hg hx hl hr => ?_,
    fun ha hb hg hx hl hr => ?_⟩
  · exact exec_of_act (exec_nresetRelease ..) (if_neg (Bool.eq_false_iff.1 hl)) rfl
  · exact exec_of_act (exec_nresetRelease ..) ((if_pos hl).trans (if_neg (Bool.eq_false_iff.1 hr))) rfl
  · refine release_begins hl hr fun v e => ?_
    have booted := bootStart_booted 0 (s.atEdge t rolePri hubidSel bootSel)
    rw [← e] at booted
    obtain ⟨⟨h1, h2, h3, h4, h5, h6, h7, h8, -⟩, ⟨ht, hj, hk, hm⟩, hw, hf, hc1, hc2, hc3⟩ := booted
    exact ⟨h1, h2, h3, h4, h5, h6, h7, h8, ht, hj, hk, hm, hw, hf, hc1, hc2, hc3⟩
  · refine release_waits hx hl hr fun v e => ?_
    have since := logEvent_waitsXi 0 (bootBase (s.atEdge t rolePri hubidSel bootSel))
    rw [← e] at since
    have domains : ∀ d, 0 < d → v.pow.domains.get d = {} := fun d hd => by
      rw [e]
      exact bootBase_domains (s.atEdge t rolePri hubidSel bootSel) hd
    have wait : v.hub.xiWait = some 0 := by rw [e]; rfl
    have told : ({ beat := s.clk.beat, reason := 0x0408, source := 0, detail := 0 } : Event) ∈ v.sh.log := by
      rw [e]
      exact List.mem_of_mem_head? rfl
    exact ⟨wait, since, ⟨_, told, rfl, rfl⟩, domains⟩
  · refine release_goes hx hl hr fun v e => ?_
    have told := bootGo_read_told (s := bootBase (s.atEdge t rolePri hubidSel bootSel)) (named := 0) hi hb room
    rwa [← e] at told
  · refine release_goes hx hl hr fun v e d hd h8 => ?_
    have states := bootGo_domains (bootBase (s.atEdge t rolePri hubidSel bootSel)) 0 hd h8 (bootBase_domains _ hd)
    rwa [← e, bootBase_railsIn] at states
  · refine release_goes hx hl hr fun v e => ?_
    obtain ⟨h1, h2, h3⟩ := bootGo_images_both (reads hg) ha hb
    rw [← e] at h1 h2 h3
    exact ⟨h2, h3, h1⟩
  · refine release_goes hx hl hr fun v e => ?_
    have hb' : s.pow.imageB.invalid = true := by simpa [vb] using hb
    obtain ⟨h1, h2, h3⟩ := bootGo_images_onlyA (reads hg) ha hb'
    rw [← e] at h1 h2 h3
    exact ⟨h1, h2, fun ht => h3.trans (if_pos ht), fun ht => h3.trans (if_neg ht)⟩
  · refine release_goes hx hl hr fun v e => ?_
    have ha' : s.pow.imageA.invalid = true := by simpa [va] using ha
    obtain ⟨h1, h2, h3⟩ := bootGo_images_onlyB (reads hg) ha' hb
    have told := bootGo_image_told (named := 0) (reads hg) room
    rw [imageChoice_onlyB (s := bootBase (s.atEdge t rolePri hubidSel bootSel)) ha' hb] at told
    rw [← e] at h1 h2 h3 told
    exact ⟨h1, h2, fun ht => h3.trans (if_pos ht), fun ht => h3.trans (if_neg ht), told⟩
  · refine release_goes hx hl hr fun v e => ?_
    have ha' : s.pow.imageA.invalid = true := by simpa [va] using ha
    have hb' : s.pow.imageB.invalid = true := by simpa [vb] using hb
    have choice := imageChoice_none (s := bootBase (s.atEdge t rolePri hubidSel bootSel)) ha' hb'
    have told := bootGo_image_told (named := 0) (reads hg) room (by rw [choice])
    have images := congrArg Prod.fst (bootGo_images (named := 0) (reads hg))
    rw [choice] at images
    rw [← e] at told images
    exact ⟨images, told⟩
  · refine release_goes hx hl hr fun v e => ?_
    have chosen := copyChosen_both (s := bootBase (s.atEdge t rolePri hubidSel bootSel)) ha hb
    obtain ⟨h1, h2⟩ := bootGo_both (named := 0) (reads hg) ha hb
    have plain := fun inB => bootGo_plain (named := 0) (inB := inB) (reads hg) room
    have refused := fun reason => bootGo_rejects (named := 0) (reason := reason) (reads hg) room
    rw [← e] at h1 h2
    simp only [← e] at plain refused
    exact ⟨h1, h2, fun hw => loaded _ v (plain _ (chosen.trans (if_pos hw))),
      fun hw hn => loaded _ v (plain _ (copyChosen_newerB ha hb hw hn)),
      fun hw hn => loaded _ v (plain _ (copyChosen_newerA ha hb hw hn)),
      fun hw hn => rejected _ v (refused _ (copyChosen_equal ha hb hw hn) (by decide)),
      fun hw hn hba hab => rejected _ v (refused _ (copyChosen_apart ha hb hw hn hba hab) (by decide))⟩
  · refine release_goes hx hl hr fun v e => ?_
    obtain ⟨h1, h2, h3, -⟩ := bootGo_single (named := 0) (reads hg) room (copyChosen_onlyA ha hb)
    rw [← e] at h1 h2 h3
    obtain ⟨h4, h5⟩ := h3 rfl
    exact ⟨loaded _ v h1, h2, h4, h5⟩
  · refine release_goes hx hl hr fun v e => ?_
    obtain ⟨h1, h2, -, h3⟩ := bootGo_single (named := 0) (reads hg) room (copyChosen_onlyB ha hb)
    rw [← e] at h1 h2 h3
    obtain ⟨h4, h5⟩ := h3 rfl
    exact ⟨loaded _ v h1, h2, h4, h5⟩
  · refine release_goes hx hl hr fun v e => ?_
    have refused := bootGo_rejects (named := 0) (reads hg) room (copyChosen_none ha hb) (by decide)
    rw [← e] at refused
    exact rejected _ v refused

end Sys2Proof.Machine

/-! SUPPORT. The stimulus tick across the hand-over of a make-before-break switch (O59; R96, R324, R442): an output that ran when
the machine last moved need not run at the instant of the tick. -/

namespace Sys2Proof.Machine

open Sys2Proof

section
variable {s : State} {u : Nat} {heavy : List Nat}

/-- An output that neither runs nor is to be held stays as it is at a tick (R322, R331). -/
theorem tickStim_idle (hr : s.runsDac = false) {p : Nat} (hh : (s.drv.stims.get p).holdAt = none) : tickStim u heavy s p = s := by
  have held : holdStim u s p = s := by simp only [holdStim, hh]
  have runs : s.stimRuns p = false := by simp [State.stimRuns, hr]
  simp only [tickStim, held, runs, Bool.not_false, if_true]

theorem tickStims_idle (hr : s.runsDac = false) (hh : ∀ p, (s.drv.stims.get p).holdAt = none) (l : List Nat) :
    l.foldl (tickStim u heavy) s = s := by
  induction l with
  | nil => rfl
  | cons p l ih => rw [List.foldl_cons, tickStim_idle hr (hh p), ih]

/-- What STIMULUS_TICK does where it reads no codeword (R322, R324): once for each tick, every output in turn. -/
def stimTick (s : State) : State :=
  if s.drv.tickedAt = some (s.lastEvery 512) then s
  else (List.range 16).foldl (tickStim (s.lastEvery 512) []) { s with drv := { s.drv with tickedAt := some (s.lastEvery 512) } }

theorem exec_stimulusTick (t : Nat) (s : State) : exec (.stimulusTick t { }) s = act t s stimTick := rfl

/-- A hub that runs no output leaves them all as they are (R442). -/
theorem stimTick_idle (hr : s.runsDac = false) (hh : ∀ p, (s.drv.stims.get p).holdAt = none) :
    (stimTick s).drv.stims = s.drv.stims := by
  unfold stimTick
  split
  · rfl
  · have idle := tickStims_idle (s := { s with drv := { s.drv with tickedAt := some (s.lastEvery 512) } }) (u := s.lastEvery 512)
      (heavy := []) hr hh (List.range 16)
    rw [idle]

/-- So does a stimulus tick at an instant at which it runs none. -/
theorem stimulusTick_idle {t : Nat} {s' : State} (e : exec (.stimulusTick t { }) s = .next s') (hr : (tick t s).runsDac = false)
    (hh : ∀ p, (s.drv.stims.get p).holdAt = none) : s'.drv.stims = s.drv.stims := by
  rw [exec_stimulusTick, act] at e
  injection e with e
  rw [← e]
  exact stimTick_idle hr hh

end

/-- The outgoing hub of a make-before-break switch at beat 1, in READY: pod 0's die is on, and its output presents the constant of its
words in MODE 1 (R323, R442). -/
def outgoingHub : State :=
  { hub := { state := .ready, role := .active }
    cfg := { active := PMem.putAll [] [(pkey 0x0D00 0, 0x80000000#32), (pkey 0x0100 64, 0x80000000#32), (pkey 0x0901 0, 0x40000000#32)] }
    pair := { switching := .mbb 1 false }
    pow := { domains := [(0, { state := 2, good := true, wanted := true }), (4, { state := 2, good := true, wanted := true })] } }

/-- It runs the output before the hand-over, and no longer 2 s later. -/
theorem outgoingHub_runs : outgoingHub.stimRuns 0 = true ∧ (tick (2 ^ 33) outgoingHub).runsDac = false
    ∧ stimMode (outgoingHub.cfg.active.stimW 0 0) = 1 ∧ stimTbl (outgoingHub.cfg.active.stimW 0 0) = false := by
  decide +kernel

/-- Refutes O59: the clause of STIMULUS_TICK asks that the output runs before the instant of the tick. The outgoing hub of a
make-before-break switch runs it there, and at the tick, past the hand-over (R442), it leaves the output in state 0, where the
clause says 1. -/
theorem not_commandsTakeEffect : ¬ Obligations.CommandsTakeEffect := by
  intro h
  obtain ⟨runs, gone, mode, constant⟩ := outgoingHub_runs
  obtain ⟨-, -, -, -, -, -, -, -, -, -, ticks, -⟩ := h outgoingHub (2 ^ 33) default
  have target : ∀ u, (tick (2 ^ 33) outgoingHub).stimTarget outgoingHub.cfg.active 0 u
      = some (f64Of32 (outgoingHub.cfg.active.stimW 0 1), 1, 0, 0) := fun u => by
    rw [State.stimTarget, if_neg (by decide), constant]
    rfl
  obtain ⟨s', e, -, state, -⟩ := ticks 0 _ 1 0 0 (by simp [outgoingHub]) (by decide) runs mode rfl (target _)
  rw [stimulusTick_idle e gone fun _ => rfl] at state
  exact absurd state (by decide)

end Sys2Proof.Machine

/-! SUPPORT. What holds the hub (O12; R39, R57, R61, R452, R455): nRESET, the reset, the hub state, D0 and the requests
taken, and the operations that leave all of it alone. -/

namespace Sys2Proof.Machine

open Sys2Proof

/-- Of a state: what its reset, the latch of SAFE and the front of the requests rest on. -/
structure Latch where
  nresetLow : Bool
  inReset : Bool
  state : HubState
  d0 : Nat
  taken : List Req

/-- That part of a state. -/
def State.latch (s : State) : Latch :=
  { nresetLow := s.hub.nresetLow, inReset := s.hub.inReset, state := s.hub.state, d0 := (s.pow.domains.get 0).state
    taken := s.sh.taken }

/-- The fields of a state that belong to it. -/
theorem latches (s : State) : s.hub.nresetLow = s.latch.nresetLow ∧ s.hub.inReset = s.latch.inReset ∧ s.hub.state = s.latch.state
    ∧ (s.pow.domains.get 0).state = s.latch.d0 ∧ s.sh.taken = s.latch.taken := ⟨rfl, rfl, rfl, rfl, rfl⟩

@[simp] theorem latch_mk (q : List Instr) (clk : Clocks) (hub : Hub) (sh : Shuttle) (cfg : Cfg) (hed : Heddle) (conv : Conv)
    (filt : Filt) (warp : Warp) (cal : Cal) (trd : Treadle) (drv : Drive) (weft : Weft) (win : Winnow) (itg : Integ)
    (pair : Pair) (pow : Power) (wire : List Emission) (free : Nat) :
    (State.mk q clk hub sh cfg hed conv filt warp cal trd drv weft win itg pair pow wire free).latch =
      { nresetLow := hub.nresetLow, inReset := hub.inReset, state := hub.state, d0 := (pow.domains.get 0).state
        taken := sh.taken } := (rfl)

@[simp] theorem latch_ite {p : Prop} [Decidable p] (u v : State) :
    (if p then u else v).latch = if p then u.latch else v.latch := apply_ite State.latch ..

@[simp] theorem foldl_latch {α : Type} {f : State → α → State} (hf : ∀ s x, (f s x).latch = s.latch) (l : List α) (s : State) :
    (l.foldl f s).latch = s.latch := foldl_view State.latch f hf l s

theorem foldl_latch_snd {α β : Type} {f : β × State → α → β × State} (hf : ∀ p x, (f p x).2.latch = p.2.latch) (l : List α)
    (p : β × State) : (l.foldl f p).2.latch = p.2.latch := by
  induction l generalizing p with
  | nil => rfl
  | cons x r ih => exact (ih (f p x)).trans (hf p x)

/-! ### Time -/

@[simp] theorem tick_latch (t : Nat) (s : State) : (tick t s).latch = s.latch := (rfl)
/-! ### Ops -/

@[simp] theorem nextFree_latch (s : State) : (nextFree s).2.latch = s.latch := (rfl)
@[simp] theorem crossUpd_latch (x : Nat) (f : Crossing → Crossing) (s : State) : (crossUpd x f s).latch = s.latch := (rfl)
@[simp] theorem shakeEvent_latch (x src : Nat) (s : State) :
    (shakeEvent x src s).latch = s.latch := by simp [shakeEvent, latches]
@[simp] theorem logXi_latch (s : State) : (logXi s).latch = s.latch := (rfl)
@[simp] theorem endXi_latch (s : State) : (endXi s).latch = s.latch := (rfl)
@[simp] theorem logEvent_latch (reason source detail : Nat) (s : State) :
    (logEvent reason source detail s).latch = s.latch := (rfl)
@[simp] theorem holdFrame_latch (port : Nat) (i : Instr) (s : State) :
    (holdFrame port i s).latch = s.latch := by simp [holdFrame, latches]
@[simp] theorem unitHolds_latch (u v : Nat) (s : State) : (unitHolds u v s).latch = s.latch := (rfl)
@[simp] theorem unitChecks_latch (u : Nat) (m : Bytes) (s : State) : (unitChecks u m s).latch = s.latch := (rfl)
@[simp] theorem formNotice_latch (late : Bool) (p : Nat) (s : State) :
    (formNotice late p s).latch = s.latch := by simp [formNotice, latches]
@[simp] theorem addNotice_latch (n : Notice) (s : State) : (addNotice n s).latch = s.latch := by simp [addNotice, latches]
@[simp] theorem alarmNotice_latch (onset : Bool) (code part reason : Nat) (s : State) :
    (alarmNotice onset code part reason s).latch = s.latch := by simp [alarmNotice, latches]
@[simp] theorem alarmEvent_latch (code part reason : Nat) (s : State) : (alarmEvent code part reason s).latch = s.latch := (rfl)
@[simp] theorem setAlarm_latch (bit : Nat) (on logged : Bool) (part reason : Nat) (s : State) :
    (setAlarm bit on logged part reason s).latch = s.latch := by simp [setAlarm, latches]
@[simp] theorem mailUpd_latch (mb : Nat) (f : Mailbox → Mailbox) (s : State) : (mailUpd mb f s).latch = s.latch := (rfl)
@[simp] theorem irq_latch (s : State) : (irq s).latch = s.latch := (rfl)
@[simp] theorem count78_latch (i : Nat) (s : State) : (count78 i s).latch = s.latch := (rfl)
@[simp] theorem unitMismatch_latch (u : Nat) (s : State) : (unitMismatch u s).latch = s.latch := by simp [unitMismatch, latches]
@[simp] theorem deliver_latch (src : Requester) (port mb : Nat) (bytes : Bytes) (s : State) :
    (deliver src port mb bytes s).latch = s.latch := by
  unfold deliver
  split <;> simp [latches]

@[simp] theorem answer_latch (rq : Req) (status reason : Nat) (payload : Bytes) (s : State) :
    (answer rq status reason payload s).latch = s.latch := by simp [answer, latches]
@[simp] theorem finish_latch (rq : Req) (status reason : Nat) (payload : Bytes) (s : State) :
    (finish rq status reason payload s).latch = s.latch := by simp [finish, latches]
@[simp] theorem reply_latch (rq : Req) (r : Reply) (s : State) : (reply rq r s).latch = s.latch := by
  unfold reply
  split <;> simp [latches]

@[simp] theorem takeReq_latch (rq : Req) (s : State) : (takeReq rq s).latch = s.latch := by simp [takeReq, latches]
@[simp] theorem refuseUntaken_latch (rq : Req) (reason : Nat) (counter : Option Nat) (s : State) :
    (refuseUntaken rq reason counter s).latch = s.latch := by
  unfold refuseUntaken
  split <;> simp [latches]



@[simp] theorem unlessReset_latch {f : State → State} (hf : ∀ s, (f s).latch = s.latch) (s : State) :
    (unlessReset f s).latch = s.latch := by simp [unlessReset, hf]



theorem newJob_latch {cmd st id : Nat} {w : JobWork} {s v : State} (e : newJob cmd st w s = some (id, v)) : v.latch = s.latch := by
  unfold newJob at e
  split at e
  · cases e
  · cases e
    rfl

@[simp] theorem jobUpd_latch (id : Nat) (f : Job → Job) (s : State) :
    (jobUpd id f s).latch = s.latch := by simp [jobUpd, latches]
@[simp] theorem endJob_latch (id st reason : Nat) (result : Bytes) (wfault : Nat) (s : State) :
    (endJob id st reason result wfault s).latch = s.latch := by simp [endJob, latches]
@[simp] theorem svForm_latch (typ : Nat) (payload : Bytes) (s : State) : (svForm typ payload s).2.latch = s.latch := (rfl)
@[simp] theorem emit_latch (e : Emission) (s : State) : (emit e s).latch = s.latch := (rfl)
@[simp] theorem emitSv_latch (e : Emission) (s : State) : (emitSv e s).latch = s.latch := by simp [emitSv, latches]
@[simp] theorem emitDelta_latch (s : State) (d : Delta) : (emitDelta s d).latch = s.latch := by simp [emitDelta, latches]
@[simp] theorem sendDelta_latch (c : Change) (due : Nat) (s : State) : (sendDelta c due s).latch = s.latch := by
  unfold sendDelta
  (repeat' split) <;> simp [latches]

@[simp] theorem stageAt_latch (due : Nat) (c : Change) (cmd mb seq : Nat) (s : State) :
    (stageAt due c cmd mb seq s).latch = s.latch := by simp [stageAt, latches]
@[simp] theorem stage_latch (c : Change) (rq : Req) (s : State) : (stage c rq s).latch = s.latch := by simp [stage, latches]
@[simp] theorem stageOwn_latch (c : Change) (s : State) : (stageOwn c s).latch = s.latch := by simp [stageOwn, latches]
@[simp] theorem acceptWords_latch (ws : List (Nat × Word)) (rq : Req) (s : State) :
    (acceptWords ws rq s).latch = s.latch := by simp [acceptWords, latches]
@[simp] theorem huskMismatch_latch (source detail : Nat) (s : State) :
    (huskMismatch source detail s).latch = s.latch := by simp [huskMismatch, latches]
@[simp] theorem usedHusks_latch (keys : List Nat) (s : State) :
    (usedHusks keys s).latch = s.latch := by simp [usedHusks, latches]
@[simp] theorem seedAlarm_latch (part : Nat) (s : State) : (seedAlarm part s).latch = s.latch := by simp [seedAlarm, latches]
@[simp] theorem partWorn_latch (kind pod idx : Nat) (s : State) :
    (partWorn kind pod idx s).latch = s.latch := by simp [partWorn, latches]
@[simp] theorem reportRow_latch (row : Nat) (s : State) : (reportRow row s).latch = s.latch := by simp [reportRow, latches]
@[simp] theorem badCodeword_latch (index : Nat) (s : State) :
    (badCodeword index s).latch = s.latch := by simp [badCodeword, latches]
@[simp] theorem sectorWorn_latch (s : State) : (sectorWorn s).latch = s.latch := by simp [sectorWorn, latches]
/-! ### Transport -/

@[simp] theorem checked_latch (src : Requester) (m : Bytes) (s : State) :
    (checked src m s).latch = s.latch := by simp [checked, latches]
@[simp] theorem onSpi_latch {f : State → State} (hf : ∀ s, (f s).latch = s.latch) (s : State) :
    (onSpi f s).latch = s.latch := by simp [onSpi, hf]

@[simp] theorem endClaim_latch (mb source : Nat) (lapse : Bool) (s : State) :
    (endClaim mb source lapse s).latch = s.latch := by simp [endClaim, latches]
@[simp] theorem endClaims_latch (s : State) : (endClaims s).latch = s.latch := by simp [endClaims, latches]
/-! ### General -/

@[simp] theorem putCopy_latch (toB : Bool) (c : Copy) (s : State) :
    (putCopy toB c s).latch = s.latch := by simp [putCopy, latches]
@[simp] theorem persist_latch (words : PMem) (seq source : Nat) (s : State) :
    (persist words seq source s).2.latch = s.latch := by
  unfold persist
  dsimp only
  (repeat' split) <;> simp [latches]

@[simp] theorem persistForce_latch (source : Nat) (s : State) :
    (persistForce source s).2.latch = s.latch := by simp [persistForce, latches]
/-! ### Grid -/

@[simp] theorem chanUpd_latch (ch : Nat) (f : Chan → Chan) (s : State) : (chanUpd ch f s).latch = s.latch := (rfl)
/-! ### Store -/

@[simp] theorem writeBack_latch (index : Nat) (d : Bytes) (s : State) :
    (writeBack index d s).latch = s.latch := by simp [writeBack, latches]
@[simp] theorem rowCheck_latch (s : State) (row : Nat) : (rowCheck s row).latch = s.latch := by simp [rowCheck, latches]
@[simp] theorem readCode_latch (x : Nat × Bytes) (s : State) : (readCode x s).2.latch = s.latch := by
  unfold readCode
  (repeat' split) <;> simp [latches]

@[simp] theorem readStore_latch (reads : List (Nat × Bytes)) (s : State) : (readStore reads s).2.latch = s.latch := by
  unfold readStore
  exact foldl_latch_snd (fun p x => by simp) reads (true, s)

/-! ### Recovery -/

@[simp] theorem eventOn_latch (ch mode : Nat) (first : Int) (tE : Nat) (chain : Bool) (s : State) :
    (eventOn ch mode first tE chain s).latch = s.latch := (rfl)
/-! ### Heddle -/

@[simp] theorem noteSwitch_latch (pod at_ : Nat) (s : State) : (noteSwitch pod at_ s).latch = s.latch := (rfl)
@[simp] theorem leadUpd_latch (ch det : Nat) (f : Lead → Lead) (s : State) : (leadUpd ch det f s).latch = s.latch := (rfl)
@[simp] theorem leadSuspect_latch (ch det : Nat) (s : State) :
    (leadSuspect ch det s).latch = s.latch := by simp [leadSuspect, latches]
@[simp] theorem leadConfirm_latch (ch det : Nat) (s : State) :
    (leadConfirm ch det s).latch = s.latch := by simp [leadConfirm, latches]
@[simp] theorem leadClear_latch (ch det : Nat) (recover : Bool) (s : State) :
    (leadClear ch det recover s).latch = s.latch := by simp [leadClear, latches]
@[simp] theorem leadHalf_latch (ch : Nat) (span : Bool) (s : State) :
    (leadHalf ch span s).latch = s.latch := by simp [leadHalf, latches]
@[simp] theorem ovrBegin_latch (ch at_ : Nat) (positive : Bool) (s : State) : (ovrBegin ch at_ positive s).latch = s.latch := by
  unfold ovrBegin
  dsimp only
  (repeat' split) <;> simp [latches]

@[simp] theorem ovrEnd_latch (ch at_ : Nat) (s : State) : (ovrEnd ch at_ s).latch = s.latch := by simp [ovrEnd, latches]
@[simp] theorem ovrUpd_latch (ch : Nat) (f : Ovr → Ovr) (s : State) : (ovrUpd ch f s).latch = s.latch := (rfl)
@[simp] theorem thrUpd_latch (pod tt : Nat) (f : Thread → Thread) (s : State) : (thrUpd pod tt f s).latch = s.latch := (rfl)
@[simp] theorem cutSlots_latch (pod : Nat) (s : State) : (cutSlots pod s).latch = s.latch := by simp [cutSlots, latches]
@[simp] theorem cutLeads_latch (s : State) : (cutLeads s).latch = s.latch := by simp [cutLeads, latches]
/-! ### Conv -/

@[simp] theorem scUpd_latch (sc : Nat) (f : Converter → Converter) (s : State) : (scUpd sc f s).latch = s.latch := (rfl)
@[simp] theorem closeTap_latch (pod tt bus : Nat) (s : State) :
    (closeTap pod tt bus s).latch = s.latch := by simp [closeTap, latches]
@[simp] theorem openTap_latch (pod tt : Nat) (s : State) : (openTap pod tt s).latch = s.latch := by simp [openTap, latches]
@[simp] theorem releaseTaps_latch (pods : List Nat) (s : State) :
    (releaseTaps pods s).latch = s.latch := by simp [releaseTaps, latches]
@[simp] theorem placeTap_latch (sc : Nat) (s : State) : (placeTap sc s).latch = s.latch := by
  unfold placeTap
  dsimp only
  (repeat' split) <;> simp [latches]

@[simp] theorem grant_latch (sc : Nat) (s : State) : (grant sc s).latch = s.latch := by
  unfold grant
  dsimp only
  (repeat' split) <;> simp [latches]

@[simp] theorem request_latch (sc : Nat) (r : ScRequest) (s : State) :
    (request sc r s).latch = s.latch := by simp [request, latches]
@[simp] theorem spotRequest_latch (sc : Nat) (w : SpotFor) (s : State) : (spotRequest sc w s).2.latch = s.latch := by
  unfold spotRequest
  (repeat' split) <;> simp [latches]

@[simp] theorem leadDone_latch (sc : Nat) (rq : Req) (pod slot : Nat) (codes : List Int) (began acq : Nat) (s : State) :
    (leadDone sc rq pod slot codes began acq s).latch = s.latch := by
  unfold leadDone
  (repeat' split) <;> simp [latches]

@[simp] theorem scanDone_latch (sc : Nat) (r : ScRequest) (acq : Nat) (code : Int) (value : Word) (s : State) :
    (scanDone sc r acq code value s).latch = s.latch := by simp [scanDone, latches]
@[simp] theorem simulDone_latch (sc acq : Nat) (code : Int) (s : State) : (simulDone sc acq code s).latch = s.latch := (rfl)
@[simp] theorem deliverResult_latch (sc : Nat) (r : ScRequest) (acq : Nat) (code : Int) (value : Word) (s : State) :
    (deliverResult sc r acq code value s).latch = s.latch := by
  unfold deliverResult
  split <;> simp [latches]

@[simp] theorem endConversion_latch (sc : Nat) (r : ScRequest) (acq : Nat) (code : Int) (value : Word) (s : State) :
    (endConversion sc r acq code value s).latch = s.latch := by simp [endConversion, latches]
@[simp] theorem holdResult_latch (sc : Nat) (r : ScRequest) (acq : Nat) (code : Int) (value : Word) (s : State) :
    (holdResult sc r acq code value s).latch = s.latch := by simp [holdResult, latches]
@[simp] theorem startRounds_latch (s : State) : (startRounds s).latch = s.latch := by simp [startRounds, latches]
@[simp] theorem simTrigger_latch (src : Nat) (s : State) : (simTrigger src s).latch = s.latch := by simp [simTrigger, latches]
@[simp] theorem startPass_latch (list : Nat) (s : State) : (startPass list s).latch = s.latch := by simp [startPass, latches]
@[simp] theorem listsFrom_latch (at_ : Nat) (lists : List Nat) (s : State) :
    (listsFrom at_ lists s).latch = s.latch := by simp [listsFrom, latches]
@[simp] theorem dropConverters_latch (die : Nat) (s : State) : (dropConverters die s).latch = s.latch := by
  unfold dropConverters
  dsimp only
  rw [crossUpd_latch]
  refine (foldl_latch (fun s sc => ?_) _ _).trans (releaseTaps_latch ..)
  refine (foldl_latch (fun s r => ?_) _ _).trans ((foldl_latch (fun s r => ?_) _ _).trans (scUpd_latch ..))
  · (repeat' split) <;> simp [latches]
  · (repeat' split) <;> simp

/-! ### Filter -/

@[simp] theorem putLive_latch (die bank : Nat) (mb : Option Nat) (s : State) :
    (putLive die bank mb s).latch = s.latch := by simp [putLive, latches]
/-! ### Warp -/

@[simp] theorem warpEvent_latch (reason kind detail : Nat) (s : State) :
    (warpEvent reason kind detail s).latch = s.latch := (rfl)
@[simp] theorem holdAlarm_latch (own : Bool) (s : State) : (holdAlarm own s).latch = s.latch := by simp [holdAlarm, latches]
@[simp] theorem setLock_latch (l : Lock) (s : State) : (setLock l s).latch = s.latch := by simp [setLock, latches]
@[simp] theorem lockCheck_latch (s : State) : (lockCheck s).latch = s.latch := by simp [lockCheck, latches]
@[simp] theorem acquire_latch (s : State) : (acquire s).latch = s.latch := by simp [acquire, latches]
@[simp] theorem freeLock_latch (s : State) : (freeLock s).latch = s.latch := by simp [freeLock, latches]
@[simp] theorem servo_latch (theta : Int) (src : Nat) (s : State) :
    (servo theta src s).latch = s.latch := by simp [servo, latches]
@[simp] theorem wportUpd_latch (p : Nat) (f : WPort → WPort) (s : State) : (wportUpd p f s).latch = s.latch := (rfl)
@[simp] theorem countHubs_latch (s : State) : (countHubs s).latch = s.latch := (rfl)
@[simp] theorem portState_latch (p st : Nat) (s : State) : (portState p st s).latch = s.latch := by simp [portState, latches]
@[simp] theorem eventLost_latch (p : Nat) (s : State) : (eventLost p s).latch = s.latch := by simp [eventLost, latches]
@[simp] theorem enqueue_latch (e : WarpEv) (s : State) (p : Nat) : (enqueue e s p).latch = s.latch := by simp [enqueue, latches]
@[simp] theorem spread_latch (e : WarpEv) (except : Option Nat) (s : State) :
    (spread e except s).latch = s.latch := by simp [spread, latches]
@[simp] theorem originate_latch (typ code stamp : Nat) (s : State) : (originate typ code stamp s).latch = s.latch := (rfl)
@[simp] theorem askResend_latch (p : Nat) (s : State) : (askResend p s).latch = s.latch := by simp [askResend, latches]
@[simp] theorem learnReset_latch (ts : Nat) (s : State) : (learnReset ts s).latch = s.latch := by simp [learnReset, latches]
@[simp] theorem offerEvent_latch (e : WarpEv) (s : State) : (offerEvent e s).latch = s.latch := by simp [offerEvent, latches]
@[simp] theorem takeEvent_latch (s : State) (e : WarpEv) : (takeEvent s e).latch = s.latch := by simp [takeEvent, latches]
@[simp] theorem drainEvents_latch (s : State) : (drainEvents s).latch = s.latch := by simp [drainEvents, latches]
@[simp] theorem acceptEvent_latch (p : Nat) (e : WarpEv) (s : State) :
    (acceptEvent p e s).latch = s.latch := by simp [acceptEvent, latches]
@[simp] theorem beyondGap_latch (p : Nat) (e : WarpEv) (s : State) :
    (beyondGap p e s).latch = s.latch := by simp [beyondGap, latches]
@[simp] theorem resendFrom_latch (p first : Nat) (s : State) : (resendFrom p first s).latch = s.latch := by
  unfold resendFrom
  dsimp only
  split
  · exact (foldl_latch (fun s e => by simp) _ _).trans (wportUpd_latch ..)
  · exact (wportUpd_latch ..).trans (wportUpd_latch ..)

@[simp] theorem exchange_latch (t1 t2 t3 t4 : Nat) (s : State) : (exchange t1 t2 t3 t4 s).latch = s.latch := by
  unfold exchange
  dsimp only
  (repeat' split) <;> simp [latches]

@[simp] theorem takeFrame_latch (f : Bytes) (s : State) : (takeFrame f s).latch = s.latch := by simp [takeFrame, latches]
@[simp] theorem catchUpCheck_latch (s : State) : (catchUpCheck s).latch = s.latch := by
  unfold catchUpCheck
  split <;> simp [latches]

@[simp] theorem stampExt_latch (s : State) : (stampExt s).2.latch = s.latch := (rfl)
@[simp] theorem warpBeat_latch (s : State) : (warpBeat s).latch = s.latch := by
  unfold warpBeat
  dsimp only
  (repeat' split) <;> simp [latches]

/-- Updates at other indices leave the value at one. -/
theorem foldl_upd_elsewhere {α : Type} [Inhabited α] [DecidableEq α] {f : α → α} {g : Nat → Nat} {j : Nat} (hg : ∀ k, j ≠ g k)
    (l : List Nat) (m : Tab α) : (l.foldl (fun (t : Tab α) k => t.upd (g k) f) m).get j = m.get j := by
  induction l generalizing m with
  | nil => rfl
  | cons k l ih => exact (ih _).trans (Tab.get_upd_other m f (hg k))

@[simp] theorem doReset_latch (epoch at_ : Nat) (dies : List Nat) (s : State) : (doReset epoch at_ dies s).latch = s.latch := by
  simp [doReset, latches, foldl_upd_elsewhere (g := fun k => 4 + k) (j := 0) (fun k => by omega)]

@[simp] theorem hubReset_latch (epoch at_ : Nat) (s : State) :
    (hubReset epoch at_ s).latch = s.latch := by simp [hubReset, latches]
@[simp] theorem endResetJobs_latch (ts : Nat) (s : State) :
    (endResetJobs ts s).latch = s.latch := by simp [endResetJobs, latches]
@[simp] theorem alignDies_latch (s : State) : (alignDies s).latch = s.latch := by
  refine foldl_latch (fun s d => ?_) _ s
  (repeat' split) <;> simp

/-! ### Linear -/

@[simp] theorem feedBridge_latch (m : PMem) (ch grid : Nat) (w : Int) (flags : Nat) (s : State) :
    (feedBridge m ch grid w flags s).latch = s.latch := by simp [feedBridge, latches]
/-! ### Service -/

@[simp] theorem startChan_latch (b : Nat) (s : State) (ch : Nat) : (startChan b s ch).latch = s.latch := (rfl)
@[simp] theorem testEdge_latch (ch : Nat) (s : State) : (testEdge ch s).latch = s.latch := by simp [testEdge, latches]
@[simp] theorem lendSlot_latch (range : PMem → Nat → Nat) (s : State) (ch : Nat) :
    (lendSlot range s ch).latch = s.latch := by simp [lendSlot, latches]
@[simp] theorem returnSlot_latch (s : State) (ch : Nat) : (returnSlot s ch).latch = s.latch := by simp [returnSlot, latches]
@[simp] theorem testBegin_latch (chs : List Nat) (s : State) : (testBegin chs s).latch = s.latch := by simp [testBegin, latches]
@[simp] theorem testEnd_latch (job st reason : Nat) (result : Bytes) (s : State) :
    (testEnd job st reason result s).latch = s.latch := by
  unfold testEnd
  split <;> simp [latches]

@[simp] theorem tolAlarm_latch (s : State) : (tolAlarm s).latch = s.latch := by simp [tolAlarm, latches]
@[simp] theorem feedTests_latch (m : PMem) (ch : Nat) (tau u : Int) (x : Sample) (s : State) :
    (feedTests m ch tau u x s).latch = s.latch := by simp [feedTests, latches]
@[simp] theorem feedTemps_latch (pod : Nat) (value : Word) (s : State) :
    (feedTemps pod value s).latch = s.latch := by simp [feedTemps, latches]
@[simp] theorem putCalCopy_latch (toB : Bool) (c : CalCopy) (s : State) :
    (putCalCopy toB c s).latch = s.latch := by simp [putCalCopy, latches]
@[simp] theorem persistCal_latch (es : Tab CalEntry) (seq source : Nat) (s : State) :
    (persistCal es seq source s).2.latch = s.latch := by
  unfold persistCal
  dsimp only
  (repeat' split) <;> simp [latches]

/-! ### Frames -/

@[simp] theorem fillAlarms_latch (s : State) : (fillAlarms s).latch = s.latch := by simp [fillAlarms, latches]
@[simp] theorem dropFrames_latch (sel : WFrame → Bool) (s : State) :
    (dropFrames sel s).latch = s.latch := by simp [dropFrames, latches]
@[simp] theorem sweepWire_latch (s : State) : (sweepWire s).latch = s.latch := by simp [sweepWire, latches]
@[simp] theorem raiseGap_latch (sec flow first seq last instants : Nat) (s : State) :
    (raiseGap sec flow first seq last instants s).latch = s.latch := by simp [raiseGap, latches]
@[simp] theorem gapNotice_latch (run : List WFrame) (s : State) : (gapNotice run s).latch = s.latch := by
  unfold gapNotice
  split <;> simp [latches]

@[simp] theorem streamUpd_latch (k : Nat) (f : Stream → Stream) (s : State) : (streamUpd k f s).latch = s.latch := (rfl)
@[simp] theorem releaseFrames_latch (sel : WFrame → Bool) (s : State) :
    (releaseFrames sel s).latch = s.latch := by simp [releaseFrames, latches]
@[simp] theorem makeRoom_latch (size : Nat) (s : State) : (makeRoom size s).latch = s.latch := by simp [makeRoom, latches]
@[simp] theorem keepHigh_latch (s : State) : (keepHigh s).latch = s.latch := (rfl)
@[simp] theorem retain_latch (f : WFrame) (s : State) : (retain f s).latch = s.latch := by simp [retain, latches]
@[simp] theorem frameUpd_latch (flow seq : Nat) (g : WFrame → WFrame) (s : State) :
    (frameUpd flow seq g s).latch = s.latch := by simp [frameUpd, latches]
@[simp] theorem setDelivering_latch (on : Bool) (at_ : Nat) (s : State) :
    (setDelivering on at_ s).latch = s.latch := by simp [setDelivering, latches]
@[simp] theorem feedStreams_latch (m : PMem) (ch : Nat) (x : Sample) (s : State) :
    (feedStreams m ch x s).latch = s.latch := by simp [feedStreams, latches]
@[simp] theorem closeFrame_latch (k sec : Nat) (run : List Nat) (s : State) : (closeFrame k sec run s).latch = s.latch := by
  unfold closeFrame
  split <;> simp [latches]

@[simp] theorem closeFront_latch (k sec : Nat) (s : State) : (closeFront k sec s).latch = s.latch := by
  unfold closeFront
  split <;> simp [latches]

/-! ### Treadle -/

@[simp] theorem compUpd_latch (c : Nat) (f : Comp → Comp) (s : State) : (compUpd c f s).latch = s.latch := (rfl)
@[simp] theorem tioUpd_latch (p : Nat) (f : Tio → Tio) (s : State) : (tioUpd p f s).latch = s.latch := (rfl)
@[simp] theorem seqUpd_latch (q : Nat) (f : Seqr → Seqr) (s : State) : (seqUpd q f s).latch = s.latch := (rfl)
@[simp] theorem bobUpd_latch (b : Nat) (f : Bobbin → Bobbin) (s : State) : (bobUpd b f s).latch = s.latch := (rfl)
@[simp] theorem dateEvent_latch (srcs : List Nat) (at_ : Nat) (s : State) :
    (dateEvent srcs at_ s).latch = s.latch := by simp [dateEvent, latches]
@[simp] theorem putResult_latch (c : Nat) (now : Bool) (grid : Nat) (s : State) :
    (putResult c now grid s).latch = s.latch := by simp [putResult, latches]
@[simp] theorem feedComp_latch (m : PMem) (ch : Nat) (x : Sample) (s : State) (c : Nat) :
    (feedComp m ch x s c).latch = s.latch := by simp [feedComp, latches]
@[simp] theorem feedComps_latch (m : PMem) (ch : Nat) (x : Sample) (s : State) :
    (feedComps m ch x s).latch = s.latch := by simp [feedComps, latches]
@[simp] theorem dropComps_latch (old new : PMem) (at_ : Nat) (s : State) :
    (dropComps old new at_ s).latch = s.latch := by simp [dropComps, latches]
@[simp] theorem adoptPins_latch (old new : PMem) (at_ : Nat) (s : State) :
    (adoptPins old new at_ s).latch = s.latch := by simp [adoptPins, latches]
@[simp] theorem triggerNotice_latch (g : Trigger) (number flags : Nat) (s : State) :
    (triggerNotice g number flags s).latch = s.latch := by simp [triggerNotice, latches]
@[simp] theorem takeRecord_latch (m : PMem) (g : Trigger) (s : State) :
    (takeRecord m g s).1.latch = s.latch := by simp [takeRecord, latches]
@[simp] theorem startRecord_latch (m : PMem) (g : Trigger) (s : State) : (startRecord m g s).1.latch = s.latch := by
  unfold startRecord
  dsimp only
  (repeat' split) <;> simp [latches]

@[simp] theorem outerLoop_latch (m : PMem) (v : SeqView) (b : Word) (s : State) :
    (outerLoop m v b s).latch = s.latch := by simp [outerLoop, latches]
@[simp] theorem outerMark_latch (v : SeqView) (b : Word) (code hub : Nat) (quiet : Bool) (s : State) :
    (outerMark v b code hub quiet s).latch = s.latch := by simp [outerMark, latches]
@[simp] theorem outerEvent_latch (v : SeqView) (b : Word) (code hub : Nat) (quiet : Bool) (s : State) :
    (outerEvent v b code hub quiet s).latch = s.latch := by simp [outerEvent, latches]
@[simp] theorem outerActions_latch (m : PMem) (v : SeqView) (i mask coin : Nat) (shadow : Option Nat) (s : State) :
    (outerActions m v i mask coin shadow s).1.latch = s.latch := by
  unfold outerActions
  dsimp only
  (repeat' split) <;> simp [latches]

@[simp] theorem logTransition_latch (q i entered : Nat) (rec : Option Nat) (inst : Nat) (s : State) :
    (logTransition q i entered rec inst s).latch = s.latch := by simp [logTransition, latches]
@[simp] theorem evaluate_latch (q inst : Nat) (replay : Option (Nat × Nat)) (s : State) :
    (evaluate q inst replay s).latch = s.latch := by
  unfold evaluate
  dsimp only
  (repeat' split) <;> simp [latches]

@[simp] theorem countLate_latch (late : Bool) (before s : State) : (countLate late before s).latch = s.latch := by
  unfold countLate
  split <;> rfl

@[simp] theorem startHistory_latch (m : PMem) (at_ : Nat) (s : State) (b : Nat) :
    (startHistory m at_ s b).latch = s.latch := by simp [startHistory, latches]
@[simp] theorem armSeq_latch (at_ : Nat) (s : State) (q : Nat) : (armSeq at_ s q).latch = s.latch := by simp [armSeq, latches]
@[simp] theorem disarmSeq_latch (s : State) (q : Nat) : (disarmSeq s q).latch = s.latch := by simp [disarmSeq, latches]
@[simp] theorem leaveRunTreadle_latch (at_ : Nat) (s : State) :
    (leaveRunTreadle at_ s).latch = s.latch := by simp [leaveRunTreadle, latches]
@[simp] theorem bootTreadle_latch (s : State) : (bootTreadle s).latch = s.latch := (rfl)
@[simp] theorem maskBody_latch (f : Nat → Change) (rq : Req) (s : State) : (maskBody f rq s).2.latch = s.latch := by
  unfold maskBody
  split <;> simp [latches]

/-! ### Records -/

@[simp] theorem feedBobbins_latch (m : PMem) (ch : Nat) (x : Sample) (s : State) :
    (feedBobbins m ch x s).latch = s.latch := by simp [feedBobbins, latches]
@[simp] theorem queueRecord_latch (b : Nat) (r : Record) (image : Bytes) (s : State) :
    (queueRecord b r image s).latch = s.latch := by simp [queueRecord, latches]
@[simp] theorem completeRecord_latch (b : Nat) (r : Record) (s : State) :
    (completeRecord b r s).latch = s.latch := by simp [completeRecord, latches]
/-! ### Drive -/

@[simp] theorem loopUpd_latch (n : Nat) (f : Loop → Loop) (s : State) : (loopUpd n f s).latch = s.latch := (rfl)
@[simp] theorem stimUpd_latch (p : Nat) (f : Stim → Stim) (s : State) : (stimUpd p f s).latch = s.latch := (rfl)
@[simp] theorem tableUpd_latch (k : Nat) (f : Table → Table) (s : State) : (tableUpd k f s).latch = s.latch := (rfl)
@[simp] theorem spoilPoint_latch (k a : Nat) (s : State) : (spoilPoint k a s).latch = s.latch := by simp [spoilPoint, latches]
@[simp] theorem writeLatch_latch (n : Nat) (s : State) : (writeLatch n s).latch = s.latch := (rfl)
@[simp] theorem updateLoop_latch (u : Nat) (bad : List Nat) (s : State) (n : Nat) :
    (updateLoop u bad s n).latch = s.latch := by simp [updateLoop, latches]
@[simp] theorem loopRound_latch (s : State) (n : Nat) : (loopRound s n).latch = s.latch := by simp [loopRound, latches]
@[simp] theorem initSlot_latch (m : PMem) (s : State) (n : Nat) : (initSlot m s n).latch = s.latch := (rfl)
@[simp] theorem holdTables_latch (at_ : Nat) (s : State) : (holdTables at_ s).latch = s.latch := by simp [holdTables, latches]
@[simp] theorem stimCycle_latch (u p : Nat) (a b : Int) (s : State) : (stimCycle u p a b s).latch = s.latch := by
  unfold stimCycle
  dsimp only
  (repeat' split) <;> simp [latches]

@[simp] theorem holdStim_latch (u : Nat) (s : State) (p : Nat) : (holdStim u s p).latch = s.latch := by
  unfold holdStim
  split <;> simp [latches]

@[simp] theorem tickStim_latch (u : Nat) (heavy : List Nat) (s : State) (p : Nat) :
    (tickStim u heavy s p).latch = s.latch := by simp [tickStim, latches]
@[simp] theorem readPoints_latch (s : State) (x : Nat × Bytes × Nat × Nat) :
    (readPoints s x).latch = s.latch := by simp [readPoints, latches]
@[simp] theorem stimRead_latch (p k : Nat) (code : Int) (s : State) : (stimRead p k code s).latch = s.latch := by
  unfold stimRead
  dsimp only
  (repeat' split) <;> simp [latches]

@[simp] theorem stopStims_latch (dacZero : Bool) (s : State) :
    (stopStims dacZero s).latch = s.latch := by simp [stopStims, latches]
@[simp] theorem haltStims_latch (s : State) : (haltStims s).latch = s.latch := by simp [haltStims, latches]
@[simp] theorem resetStims_latch (old new : PMem) (s : State) :
    (resetStims old new s).latch = s.latch := by simp [resetStims, latches]
@[simp] theorem startStims_latch (mask start : Nat) (s : State) :
    (startStims mask start s).latch = s.latch := by simp [startStims, latches]
@[simp] theorem holdStims_latch (mask hold : Nat) (s : State) :
    (holdStims mask hold s).latch = s.latch := by simp [holdStims, latches]
@[simp] theorem fillTable_latch (k : Nat) (b : Bytes) (s : State) : (fillTable k b s).latch = s.latch := (rfl)
@[simp] theorem clearTables_latch (old new : PMem) (s : State) :
    (clearTables old new s).latch = s.latch := by simp [clearTables, latches]
/-! ### Weft -/

@[simp] theorem portUpd_latch (p : Nat) (f : HPort → HPort) (s : State) : (portUpd p f s).latch = s.latch := (rfl)
@[simp] theorem arpAsk_latch (p : Nat) (s : State) (ip : Nat) : (arpAsk p s ip).latch = s.latch := by
  unfold arpAsk
  (repeat' split) <;> simp [latches]

@[simp] theorem countWaits_latch (p : Nat) (s : State) : (countWaits p s).latch = s.latch := by simp [countWaits, latches]
@[simp] theorem askHops_latch (p : Nat) (s : State) : (askHops p s).latch = s.latch := by simp [askHops, latches]
@[simp] theorem sendQueued_latch (p cls : Nat) (f : PortFrame) (s : State) :
    (sendQueued p cls f s).latch = s.latch := by simp [sendQueued, latches]
@[simp] theorem noteSent_latch (flow seq : Nat) (s : State) :
    (noteSent flow seq s).latch = s.latch := by simp [noteSent, latches]
@[simp] theorem sendData_latch (p : Nat) (f : WFrame) (again : Bool) (s : State) :
    (sendData p f again s).latch = s.latch := by simp [sendData, latches]
@[simp] theorem sendPtp_latch (p : Nat) (f : PortFrame) (s : State) :
    (sendPtp p f s).latch = s.latch := by simp [sendPtp, latches]
@[simp] theorem skipPorts_latch (s : State) : (skipPorts s).latch = s.latch := by simp [skipPorts, latches]
@[simp] theorem portDown_latch (port : Nat) (s : State) : (portDown port s).latch = s.latch := by simp [portDown, latches]
@[simp] theorem portRises_latch (port : Nat) (s : State) : (portRises port s).latch = s.latch := (rfl)
@[simp] theorem portEnabled_latch (old new : PMem) (s : State) (port : Nat) :
    (portEnabled old new s port).latch = s.latch := by simp [portEnabled, latches]
@[simp] theorem arpLearn_latch (port ip mac : Nat) (s : State) :
    (arpLearn port ip mac s).latch = s.latch := by simp [arpLearn, latches]
@[simp] theorem forgetFrames_latch (sel : WFrame → Bool) (s : State) :
    (forgetFrames sel s).latch = s.latch := by simp [forgetFrames, latches]
@[simp] theorem ackFlow_latch (flow a : Nat) (s : State) : (ackFlow flow a s).latch = s.latch := by simp [ackFlow, latches]
@[simp] theorem ackEntry_latch (port : Nat) (s : State) (e : Nat × Nat) : (ackEntry port s e).latch = s.latch := by
  unfold ackEntry
  split <;> simp [latches]

/-! ### Winnow -/

@[simp] theorem countWin_latch (i : Nat) (s : State) : (countWin i s).latch = s.latch := (rfl)
@[simp] theorem checkForcing_latch (s : State) : (checkForcing s).latch = s.latch := by simp [checkForcing, latches]
@[simp] theorem stallAt_latch (out : Bytes) (bit : Nat) (s : State) : (stallAt out bit s).latch = s.latch := (rfl)
@[simp] theorem imageUpd_latch (slot : Nat) (f : Image → Image) (s : State) : (imageUpd slot f s).latch = s.latch := by
  unfold imageUpd
  split <;> simp [latches]

@[simp] theorem jobFails_latch (id reason code consumed produced : Nat) (s : State) :
    (jobFails id reason code consumed produced s).latch = s.latch := (rfl)
@[simp] theorem endImage_latch (id n : Nat) (out : Bytes) (s : State) :
    (endImage id n out s).latch = s.latch := by simp [endImage, latches]
@[simp] theorem endTable_latch (id k n : Nat) (out : Bytes) (s : State) :
    (endTable id k n out s).latch = s.latch := by simp [endTable, latches]
@[simp] theorem stagingRun_latch (w : Option JobWork) (s : State) : (stagingRun w s).latch = s.latch := by
  unfold stagingRun
  split <;> simp [latches]

/-! ### Sample -/

@[simp] theorem wordGap_latch (ch missing k d : Nat) (s : State) :
    (wordGap ch missing k d s).latch = s.latch := by simp [wordGap, latches]
@[simp] theorem plyWord_latch (ch : Nat) (reed : Bool) (slot k : Nat) (codes : List Int) (s : State) :
    (plyWord ch reed slot k codes s).latch = s.latch := by simp [plyWord, latches]
@[simp] theorem holdPly_latch (die : Nat) (i : Held) (s : State) : (holdPly die i s).latch = s.latch := (rfl)
@[simp] theorem dieLost_latch (die : Nat) (s : State) : (dieLost die s).latch = s.latch := by simp [dieLost, latches]
@[simp] theorem dieResumes_latch (die : Nat) (s : State) : (dieResumes die s).latch = s.latch := by
  refine foldl_latch (fun s ch => ?_) _ s
  (repeat' split) <;> simp

/-- A change of another domain than D0. -/
@[simp] theorem domUpd_latch {d : Nat} (hd : d ≠ 0) (f : Domain → Domain) (s : State) : (domUpd d f s).latch = s.latch := by
  simp [domUpd, latches, Tab.get_upd_other _ _ (Ne.symm hd)]

@[simp] theorem plyAlarms_latch (die : Nat) (s : State) : (plyAlarms die s).latch = s.latch := by simp [plyAlarms, latches]
@[simp] theorem spreadSample_latch (m : PMem) (ch : Nat) (x : Sample) (s : State) :
    (spreadSample m ch x s).latch = s.latch := by simp [spreadSample, latches]
@[simp] theorem outputSample_latch (ch grid : Nat) (lost : Bool) (s : State) :
    (outputSample ch grid lost s).latch = s.latch := by simp [outputSample, latches]
/-! ### Moves -/

@[simp] theorem startSampling_latch (b : Nat) (s : State) :
    (startSampling b s).latch = s.latch := by simp [startSampling, latches]
@[simp] theorem quietSlot_latch (ch : Nat) (s : State) : (quietSlot ch s).latch = s.latch := by simp [quietSlot, latches]
@[simp] theorem stopSampling_latch (s : State) : (stopSampling s).latch = s.latch := by simp [stopSampling, latches]
@[simp] theorem endTests_latch (s : State) : (endTests s).latch = s.latch := by simp [endTests, latches]
@[simp] theorem cancelEvent_latch (s : State) (c : Staged) : (cancelEvent s c).latch = s.latch := (rfl)
@[simp] theorem cancelMoves_latch (s : State) : (cancelMoves s).latch = s.latch := by simp [cancelMoves, latches]
@[simp] theorem cancelArms_latch (s : State) : (cancelArms s).latch = s.latch := by simp [cancelArms, latches]
@[simp] theorem podsSwitch_latch (pods : List Nat) (at_ : Nat) (s : State) :
    (podsSwitch pods at_ s).latch = s.latch := by simp [podsSwitch, latches]
@[simp] theorem rolesSwitch_latch (at_ : Nat) (s : State) :
    (rolesSwitch at_ s).latch = s.latch := by simp [rolesSwitch, latches]
@[simp] theorem dieSwitch_latch (die : Nat) (s : State) : (dieSwitch die s).latch = s.latch := by simp [dieSwitch, latches]
@[simp] theorem leaveState_latch (old new : HubState) (at_ : Nat) (s : State) :
    (leaveState old new at_ s).latch = s.latch := by simp [leaveState, latches]
@[simp] theorem arriveState_latch (old new : HubState) (reason at_ : Nat) (s : State) :
    (arriveState old new reason at_ s).latch = s.latch := by
  unfold arriveState
  split <;> simp [latches]

@[simp] theorem stageMove_latch (target : HubState) (rq : Req) (s : State) : (stageMove target rq s).2.latch = s.latch := by
  unfold stageMove
  split <;> simp [latches]

@[simp] theorem afterCommit_latch (keep : Bool) (s : State) : (afterCommit keep s).latch = s.latch := by
  unfold afterCommit
  split <;> simp [latches]

@[simp] theorem commitTake_latch (ws : List (Nat × Word)) (word : Word) (rq : Req) (s : State) :
    (commitTake ws word rq s).2.latch = s.latch := by
  unfold commitTake
  dsimp only
  (repeat' split) <;> simp [latches]

@[simp] theorem commitBody_latch (rq : Req) (s : State) : (commitBody rq s).2.latch = s.latch := by
  unfold commitBody
  dsimp only
  (repeat' split) <;> simp [latches]

@[simp] theorem withdrawSwap_latch (id die mb : Nat) (s : State) :
    (withdrawSwap id die mb s).latch = s.latch := by simp [withdrawSwap, latches]
@[simp] theorem withdrawReset_latch (id : Nat) (s : State) : (withdrawReset id s).latch = s.latch := (rfl)
@[simp] theorem cancelWinnow_latch (id : Nat) (s : State) : (cancelWinnow id s).latch = s.latch := (rfl)
/-! ### Integrity -/

@[simp] theorem editRecord_latch (b number : Nat) (g : Nat → Byte → Byte) (s : State) :
    (editRecord b number g s).latch = s.latch := by simp [editRecord, latches]
@[simp] theorem loseWindow_latch (b : Nat) (r : Record) (codes marks a : Nat) (s : State) :
    (loseWindow b r codes marks a s).latch = s.latch := by simp [loseWindow, latches]
@[simp] theorem fillNext_latch (ch k n : Nat) (s : State) : (fillNext ch k n s).latch = s.latch := by simp [fillNext, latches]
@[simp] theorem damage_latch (w : Nat → Nat) (s : State) : (damage w s).latch = s.latch := by
  unfold damage
  dsimp only
  (repeat' split) <;> simp [latches]

@[simp] theorem scrubOne_latch (s : State) (x : Nat × Bytes) : (scrubOne s x).latch = s.latch := by simp [scrubOne, latches]
@[simp] theorem holdCrossings_latch (s : State) : (holdCrossings s).latch = s.latch := by simp [holdCrossings, latches]
@[simp] theorem clockAlarm_latch (logged : Bool) (s : State) :
    (clockAlarm logged s).latch = s.latch := by simp [clockAlarm, latches]
@[simp] theorem askAgain_latch (gone : List Held) (s : State) : (askAgain gone s).latch = s.latch := by
  refine foldl_latch (fun s i => ?_) _ s
  split <;> simp

@[simp] theorem emptyCrossing_latch (x : Nat) (s : State) :
    (emptyCrossing x s).latch = s.latch := by simp [emptyCrossing, latches]
@[simp] theorem rewriteStaged_latch (s : State) : (rewriteStaged s).latch = s.latch := by simp [rewriteStaged, latches]
@[simp] theorem clearRead_latch {f : State → Bytes} {wipe : State → State} (hw : ∀ s, (wipe s).latch = s.latch) (rq : Req) (s : State) :
    (clearRead f wipe rq s).2.latch = s.latch := by
  unfold clearRead
  dsimp only
  (repeat' split) <;> simp [hw]

@[simp] theorem clearCrossings_latch (s : State) : (clearCrossings s).latch = s.latch := by simp [clearCrossings, latches]
/-! ### Power -/

@[simp] theorem quietDie_latch (die : Nat) (s : State) : (quietDie die s).latch = s.latch := by simp [quietDie, latches]
@[simp] theorem storeGone_latch (s : State) : (storeGone s).latch = s.latch := (fillAlarms_latch _).trans rfl

@[simp] theorem allLost_latch (store : Bool) (s : State) : (allLost store s).latch = s.latch := by simp [allLost, latches]
@[simp] theorem domainStops_latch (d : Nat) (s : State) : (domainStops d s).latch = s.latch := by simp [domainStops, latches]
@[simp] theorem tearWrites_latch (s : State) : (tearWrites s).latch = s.latch := (rfl)
@[simp] theorem startDomain_latch {d : Nat} (hd : d ≠ 0) (s : State) : (startDomain d s).latch = s.latch := by
  simp [startDomain, hd]

@[simp] theorem stopDomain_latch {d : Nat} (hd : d ≠ 0) (s : State) : (stopDomain d s).latch = s.latch := by
  simp [stopDomain, hd]

@[simp] theorem fabricResumes_latch (s : State) : (fabricResumes s).latch = s.latch := by
  unfold fabricResumes
  split
  · refine foldl_latch (fun s ch => ?_) _ s
    (repeat' split) <;> simp
  · rfl

@[simp] theorem domainOn_latch {d : Nat} (hd : d ≠ 0) (s : State) : (domainOn d s).latch = s.latch := by
  simp [domainOn, hd]

@[simp] theorem railUpd_latch (r : Nat) (f : Rail → Rail) (s : State) : (railUpd r f s).latch = s.latch := (rfl)
@[simp] theorem railAlarm_latch (s : State) : (railAlarm s).latch = s.latch := by simp [railAlarm, latches]
@[simp] theorem wornPut_latch (kind pod idx st : Nat) (s : State) :
    (wornPut kind pod idx st s).latch = s.latch := by simp [wornPut, latches]
@[simp] theorem applySubst_latch (kind idx : Nat) (s : State) :
    (applySubst kind idx s).latch = s.latch := by simp [applySubst, latches]
@[simp] theorem joinCore_latch (s : State) : (joinCore s).latch = s.latch := by
  unfold joinCore
  split <;> simp [latches]

@[simp] theorem staleEntries_latch (keys : List Nat) (s : State) :
    (staleEntries keys s).latch = s.latch := by simp [staleEntries, latches]
@[simp] theorem applyConsent_latch (kind pod part spare : Nat) (s : State) :
    (applyConsent kind pod part spare s).latch = s.latch := by simp [applyConsent, latches]
@[simp] theorem settleWorn_latch (s : State) : (settleWorn s).latch = s.latch := by simp [settleWorn, latches]
/-! ### Pairing -/

@[simp] theorem pairUpd_latch (f : Pair → Pair) (s : State) : (pairUpd f s).latch = s.latch := (rfl)
@[simp] theorem countPair_latch (i : Nat) (s : State) : (countPair i s).latch = s.latch := (rfl)
@[simp] theorem pairEvent_latch (reason : Nat) (s : State) : (pairEvent reason s).latch = s.latch := (rfl)
@[simp] theorem mirrorAlarm_latch (on : Bool) (s : State) : (mirrorAlarm on s).latch = s.latch := by simp [mirrorAlarm, latches]
@[simp] theorem uncertainAlarm_latch (on : Bool) (s : State) :
    (uncertainAlarm on s).latch = s.latch := by simp [uncertainAlarm, latches]
@[simp] theorem svSend_latch (typ : Nat) (payload : Bytes) (s : State) :
    (svSend typ payload s).latch = s.latch := by simp [svSend, latches]
@[simp] theorem sendSwitch_latch (tT : Nat) (s : State) : (sendSwitch tT s).latch = s.latch := by simp [sendSwitch, latches]
@[simp] theorem svAccept_latch (alive : Nat) (crcOk : Bool) (s : State) : (svAccept alive crcOk s).2.latch = s.latch := by
  unfold svAccept
  split
  · simp [latches]
  · dsimp only
    (repeat' split) <;> simp [latches]

@[simp] theorem svCheck_latch (typ : Nat) (h : SvHeader) (payload : Bytes) (s : State) :
    (svCheck typ h payload s).latch = s.latch := by simp [svCheck, latches]
@[simp] theorem onFrame_latch (typ : Nat) (h : SvHeader) (payload : Bytes) {f : State → State} (hf : ∀ s, (f s).latch = s.latch)
    (s : State) : (onFrame typ h payload f s).latch = s.latch := by
  unfold onFrame
  dsimp only
  (repeat' split) <;> simp [hf]

@[simp] theorem askResync_latch (s : State) : (askResync s).latch = s.latch := by
  unfold askResync
  dsimp only
  (repeat' split) <;> simp [latches]

@[simp] theorem replayOne_latch (s : State) (e : LogEntry) : (replayOne s e).latch = s.latch := by simp [replayOne, latches]
@[simp] theorem followActive_latch (es : List LogEntry) (s : State) :
    (followActive es s).latch = s.latch := by simp [followActive, latches]
@[simp] theorem setRole_latch (r : Role) (s : State) : (setRole r s).latch = s.latch := by simp [setRole, latches]
@[simp] theorem startMbb_latch (b cmd mb seq : Nat) (s : State) :
    (startMbb b cmd mb seq s).latch = s.latch := by simp [startMbb, latches]
@[simp] theorem takeExcitation_latch (tA tD tT base : Nat) (s : State) (ch : Nat) :
    (takeExcitation tA tD tT base s ch).latch = s.latch := by simp [takeExcitation, latches]
@[simp] theorem takeFrames_latch (s : State) : (takeFrames s).latch = s.latch := by simp [takeFrames, latches]
@[simp] theorem startNotices_latch (n : Nat) (s : State) : (startNotices n s).latch = s.latch := (rfl)
@[simp] theorem resumeSequencers_latch (s : State) : (resumeSequencers s).latch = s.latch := by simp [resumeSequencers, latches]
@[simp] theorem takeOver_latch (tA tD : Nat) (named : Option Nat) (s : State) :
    (takeOver tA tD named s).latch = s.latch := by simp [takeOver, latches]
@[simp] theorem giveUp_latch (s : State) : (giveUp s).latch = s.latch := by simp [giveUp, latches]
@[simp] theorem sendSnapshot_latch (s : State) : (sendSnapshot s).latch = s.latch := by simp [sendSnapshot, latches]
@[simp] theorem loadValue_latch (n sl : Nat) (v : Word) (s : State) :
    (loadValue n sl v s).latch = s.latch := by simp [loadValue, latches]
@[simp] theorem loadItem_latch (at_ : Nat) (synced : Bool) (items : List SnapItem) (s : State) (a1 : SnapItem) :
    (loadItem at_ synced items s a1).latch = s.latch := by
  unfold loadItem
  split <;> simp [latches]

@[simp] theorem takeSnapshot_latch (beat : Nat) (items : List SnapItem) (s : State) :
    (takeSnapshot beat items s).latch = s.latch := by simp [takeSnapshot, latches]
@[simp] theorem acceptDelta_latch (ws : List (Nat × Word)) (seq : Nat) (s : State) :
    (acceptDelta ws seq s).latch = s.latch := by simp [acceptDelta, latches]
@[simp] theorem lateDelta_latch (inTime : Bool) (due : Nat) (s : State) :
    (lateDelta inTime due s).latch = s.latch := by simp [lateDelta, latches]
@[simp] theorem waitDelta_latch (first : Bool) (c : Change) (due : Nat) (s : State) :
    (waitDelta first c due s).latch = s.latch := by simp [waitDelta, latches]
@[simp] theorem swapDelta_latch (die bank seq : Nat) (s : State) : (swapDelta die bank seq s).latch = s.latch := (rfl)
@[simp] theorem takeDelta_latch (d : Delta) (s : State) : (takeDelta d s).latch = s.latch := by
  unfold takeDelta
  split <;> simp [latches]

@[simp] theorem holdCheck_latch (s : State) : (holdCheck s).latch = s.latch := by simp [holdCheck, latches]
@[simp] theorem twoActives_latch (s : State) : (twoActives s).latch = s.latch := by simp [twoActives, latches]
@[simp] theorem servePartner_latch (s : State) : (servePartner s).latch = s.latch := by simp [servePartner, latches]
@[simp] theorem witUpd_latch (w : Nat) (on : Bool) (s : State) : (witUpd w on s).latch = s.latch := (rfl)
@[simp] theorem startPrompt_latch (s : State) : (startPrompt s).latch = s.latch := (takeOver_latch ..).trans (sendSwitch_latch ..)

@[simp] theorem pairChange_latch (old new : PMem) (s : State) :
    (pairChange old new s).latch = s.latch := by simp [pairChange, latches]
@[simp] theorem exchangeSources_latch (b : Nat) (s : State) :
    (exchangeSources b s).latch = s.latch := by simp [exchangeSources, latches]
/-! ### Boundary -/

@[simp] theorem channelChange_latch (old new : PMem) (b : Nat) (threads : List (Nat × Nat)) (s : State) (ch : Nat) :
    (channelChange old new b threads s ch).latch = s.latch := by simp [channelChange, latches]
@[simp] theorem podSwitches_latch (old new : PMem) (b : Nat) (threads : List (Nat × Nat)) (s : State) :
    (podSwitches old new b threads s).latch = s.latch := by simp [podSwitches, latches]
@[simp] theorem stopIdle_latch (s : State) : (stopIdle s).latch = s.latch := by simp [stopIdle, latches]
@[simp] theorem huskFail_latch (s : State) (kw : Nat × Word) : (huskFail s kw).latch = s.latch := by simp [huskFail, latches]
@[simp] theorem endDeferred_latch (at_ beat die : Nat) (s : State) :
    (endDeferred at_ beat die s).latch = s.latch := by simp [endDeferred, latches]
@[simp] theorem putActive_latch (at_ : Nat) (new : PMem) (fails : Tab Nat) (s : State) :
    (putActive at_ new fails s).latch = s.latch := by simp [putActive, latches]
@[simp] theorem restartMains_latch (s : State) : (restartMains s).latch = s.latch := (rfl)
@[simp] theorem noteDefs_latch (old new : PMem) (at_ : Nat) (s : State) :
    (noteDefs old new at_ s).latch = s.latch := by simp [noteDefs, latches]
@[simp] theorem applyWords_latch (at_ beat : Nat) (bad : List Nat) (due : List Staged) (s : State) :
    (applyWords at_ beat bad due s).latch = s.latch := by simp [applyWords, latches]
@[simp] theorem stepPods_latch (pods : List Nat) (b : Nat) (s : State) :
    (stepPods pods b s).latch = s.latch := by simp [stepPods, latches]
@[simp] theorem keepCal_latch (at_ : Nat) (s : State) : (keepCal at_ s).latch = s.latch := by simp [keepCal, latches]

@[simp] theorem applyCal_latch (at_ : Nat) (pods : List Nat) (s : State) :
    (applyCal at_ pods s).latch = s.latch := by simp [applyCal, latches]
@[simp] theorem applyTemp_latch (at_ beat pod : Nat) (value : Word) (s : State) :
    (applyTemp at_ beat pod value s).latch = s.latch := by simp [applyTemp, latches]
@[simp] theorem consentChange_latch (at_ kind pod part spare : Nat) (s : State) :
    (consentChange at_ kind pod part spare s).latch = s.latch := by simp [consentChange, latches]
@[simp] theorem readTemp_latch (beat pod : Nat) (r : Word) (s : State) :
    (readTemp beat pod r s).latch = s.latch := by simp [readTemp, latches]
@[simp] theorem readSource_latch (pod : Nat) (s : State) (n : Nat) :
    (readSource pod s n).latch = s.latch := by simp [readSource, latches]
@[simp] theorem readPoint_latch (pod point : Nat) (value : Word) (s : State) :
    (readPoint pod point value s).latch = s.latch := by simp [readPoint, latches]
@[simp] theorem finishScan_latch (sc : Nat) (r : ScRequest) (code : Int) (value : Word) (s : State) :
    (finishScan sc r code value s).latch = s.latch := by simp [finishScan, latches]
@[simp] theorem forgetTemp_latch (s : State) (pod : Nat) : (forgetTemp s pod).latch = s.latch := by simp [forgetTemp, latches]
@[simp] theorem houseKeep_latch (s : State) : (houseKeep s).latch = s.latch := by simp [houseKeep, latches]
@[simp] theorem mainsBeat_latch (at_ : Nat) (s : State) : (mainsBeat at_ s).latch = s.latch := by simp [mainsBeat, latches]
@[simp] theorem overrun_latch (late : Bool) (s : State) : (overrun late s).latch = s.latch := by simp [overrun, latches]
@[simp] theorem stepCounts_latch (k : Int) (s : State) : (stepCounts k s).latch = s.latch := by simp [stepCounts, latches]
@[simp] theorem skipInstants_latch (old new : Nat) (s : State) (g : Nat) :
    (skipInstants old new s g).latch = s.latch := by simp [skipInstants, latches]
@[simp] theorem breakFrames_latch (g last : Nat) (s : State) :
    (breakFrames g last s).latch = s.latch := by simp [breakFrames, latches]
@[simp] theorem withholdInstants_latch (new : Nat) (s : State) (g : Nat) :
    (withholdInstants new s g).latch = s.latch := by simp [withholdInstants, latches]
/-! ### Boot -/

@[simp] theorem bootChoice_latch (reason source loaded : Nat) (s : State) :
    (bootChoice reason source loaded s).latch = s.latch := (rfl)
@[simp] theorem copyImage_latch (s : State) : (copyImage s).latch = s.latch := by
  unfold copyImage
  dsimp only
  (repeat' split) <;> simp [latches]

@[simp] theorem bootImage_latch (named : Nat) (s : State) : (bootImage named s).latch = s.latch := by simp [bootImage, latches]
@[simp] theorem logChoice_latch (reason source : Nat) (c : Option Bool) (s : State) :
    (logChoice reason source c s).latch = s.latch := by simp [logChoice, latches]
@[simp] theorem rewrite_latch (cal toB : Bool) {put : State → State} (hp : ∀ s, (put s).latch = s.latch) (s : State) :
    (rewrite cal toB put s).latch = s.latch := by
  unfold rewrite
  dsimp only
  split <;> simp [hp]

@[simp] theorem loadCopy_latch (inB : Bool) (x : Copy) (s : State) : (loadCopy inB x s).latch = s.latch := by
  unfold loadCopy
  dsimp only
  (repeat' split) <;> simp [latches]

@[simp] theorem copyOver_latch (inB : Bool) (x : Copy) (s : State) : (copyOver inB x s).latch = s.latch := (rfl)
@[simp] theorem bootConfig_latch (s : State) : (bootConfig s).latch = s.latch := by
  unfold bootConfig
  dsimp only
  (repeat' split) <;> simp [latches]

@[simp] theorem restale_latch (s : State) : (restale s).latch = s.latch := (rfl)
@[simp] theorem bootCal_latch (s : State) : (bootCal s).latch = s.latch := by
  unfold bootCal
  dsimp only
  (repeat' split) <;> simp [latches]

@[simp] theorem mendSector_latch (sec : Nat) (s : State) : (mendSector sec s).latch = s.latch := by simp [mendSector, latches]
@[simp] theorem readMram_latch (s : State) : (readMram s).2.latch = s.latch := by
  unfold readMram
  dsimp only
  (repeat' split) <;> simp [latches]

@[simp] theorem readStored_latch (s : State) : (readStored s).latch = s.latch := by simp [readStored, latches]

end Sys2Proof.Machine

/-! SUPPORT. What keeps the hub held and in SAFE (O12; R39, R57, R61, R452, R455): every operation that can move the hub
state, take a request or answer one leaves the reset and D0, does not leave SAFE, and brings a request of the command set to
the front. -/

namespace Sys2Proof.Machine

open Sys2Proof

/-! ### The relation -/

/-- The request in front of those taken is of the command set (R39, R50). -/
def FrontKnown (l : List Req) : Prop := ∀ q, l.head? = some q → cmdKnown q.cmd = true

/-- A state follows another in the same hold: nRESET, the reset and D0 stay, SAFE is not left, and the front of the
requests stays of the command set. -/
structure Stays (s v : State) : Prop where
  nresetLow : v.latch.nresetLow = s.latch.nresetLow
  inReset : v.latch.inReset = s.latch.inReset
  d0 : v.latch.d0 = s.latch.d0
  safe : s.latch.state = .safe → v.latch.state = .safe
  front : FrontKnown s.latch.taken → FrontKnown v.latch.taken

theorem Stays.of_latch {s v : State} (h : v.latch = s.latch) : Stays s v :=
  ⟨by rw [h], by rw [h], by rw [h], fun e => by rw [h, e], fun e => by rwa [h]⟩

theorem Stays.refl (s : State) : Stays s s := .of_latch rfl

theorem Stays.trans {s u v : State} (a : Stays s u) (b : Stays u v) : Stays s v :=
  ⟨b.nresetLow.trans a.nresetLow, b.inReset.trans a.inReset, b.d0.trans a.d0, fun h => b.safe (a.safe h),
    fun h => b.front (a.front h)⟩

/-- A step that leaves all of it alone may follow. -/
theorem Stays.then {s u v : State} (a : Stays s u) (h : v.latch = u.latch) : Stays s v := a.trans (.of_latch h)

theorem Stays.ite {s u v : State} {p : Prop} [Decidable p] (hu : p → Stays s u) (hv : ¬ p → Stays s v) :
    Stays s (if p then u else v) := by
  split
  next h => exact hu h
  next h => exact hv h

theorem foldl_stays {α : Type} {f : State → α → State} {l : List α} (hf : ∀ s x, x ∈ l → Stays s (f s x)) (s : State) :
    Stays s (l.foldl f s) := by
  induction l generalizing s with
  | nil => exact .refl s
  | cons x r ih =>
    exact (hf s x List.mem_cons_self).trans (ih (fun s y hy => hf s y (List.mem_cons_of_mem x hy)) (f s x))

/-- Only the hub state may differ, and it is not left from SAFE. -/
theorem Stays.of_state {s v : State} {h : HubState} (e : v.latch = { s.latch with state := h })
    (hs : s.latch.state = .safe → h = .safe) : Stays s v :=
  ⟨by rw [e], by rw [e], by rw [e], fun hn => by rw [e]; exact hs hn, fun hn => by rw [e]; exact hn⟩

/-! ### Requests (R39, R50) -/

/-- Requests of no command leave the front of those taken. -/
theorem answerUnknown_latch (l : List Req) (s : State) :
    (answerUnknown l s).latch = { s.latch with taken := l.dropWhile fun q => !(cmdKnown q.cmd) } := by
  induction l generalizing s with
  | nil => simp [answerUnknown, latches]
  | cons q r ih =>
    by_cases h : cmdKnown q.cmd = true
    · simp [answerUnknown, h, latches]
    · simp only [answerUnknown, h, if_false, ih, Bool.false_eq_true]
      simp [h]

theorem dropWhile_frontKnown (l : List Req) : FrontKnown (l.dropWhile fun q => !(cmdKnown q.cmd)) := by
  intro q h
  have last := List.head?_dropWhile_not (fun q : Req => !(cmdKnown q.cmd)) l
  rw [h] at last
  simpa using last

/-- Whatever was taken, the supervisor goes on to a request of the command set. -/
theorem nextTaken_stays {s v : State} {l : List Req} (h : v.latch = { s.latch with taken := l }) : Stays s (nextTaken v) := by
  have e : (nextTaken v).latch = { s.latch with taken := l.dropWhile fun q => !(cmdKnown q.cmd) } := by
    rw [nextTaken, answerUnknown_latch, h, show v.sh.taken = l from congrArg Latch.taken h]
  exact ⟨by rw [e], by rw [e], by rw [e], fun hs => by rw [e]; exact hs, fun _ => by rw [e]; exact dropWhile_frontKnown l⟩

theorem takeOrUnknown_stays (rq : Req) (s : State) : Stays s (takeOrUnknown rq s) :=
  nextTaken_stays (l := (takeReq rq s).sh.taken ++ [rq]) (by simp [latches])

theorem judgeAlive_stays (rq : Req) (m : Mailbox) (s : State) : Stays s (judgeAlive rq m s) := by
  unfold judgeAlive
  have taken := takeOrUnknown_stays rq s
  have refused : ∀ reason counter, Stays s (refuseUntaken rq reason counter s) := fun _ _ => .of_latch (by simp)
  dsimp only
  (repeat' split) <;> simp_all [Stays.refl]
  all_goals exact .of_latch (by simp)

theorem judge_stays (rev : Nat) (rq : Req) (s : State) : Stays s (judge rev rq s) := by
  unfold judge
  have taken := takeOrUnknown_stays rq s
  have judged := fun m => judgeAlive_stays rq m s
  refine .ite (fun _ => .of_latch (by simp)) fun _ => .ite (fun _ => .of_latch (by simp)) fun _ => .ite (fun _ => .of_latch (by simp))
    fun _ => .ite (fun _ => .of_latch (by simp)) fun _ => .ite (fun _ => taken) fun _ => judged _

theorem arrive_stays (src : Requester) (port : Nat) (m : Bytes) (s : State) : Stays s (arrive src port m s) := by
  unfold arrive
  dsimp only
  split
  · exact .of_latch (by simp)
  · exact .trans (.of_latch (checked_latch ..)) (judge_stays ..)

/-! ### Rows -/

/-- Every outcome of a row stays. -/
def RowStays (s : State) (o : Host.Outcome State Fault Refusal) : Prop := ∀ s', o = .next s' → Stays s s'

theorem tick_stays (t : Nat) (s : State) : Stays s (tick t s) := .of_latch (tick_latch t s)

theorem act_stays {t : Nat} {s : State} {f : State → State} (hf : Stays (tick t s) (f (tick t s))) : RowStays s (act t s f) := by
  intro s' e
  cases e
  exact ((tick_stays t s).trans hf).then (by simp [latches])

/-- A row whose effect leaves all of it alone. -/
theorem act_latch {t : Nat} {s : State} {f : State → State} (hf : ∀ u, (f u).latch = u.latch) : RowStays s (act t s f) :=
  act_stays (.of_latch (hf _))

theorem unlessReset_stays {f : State → State} {s : State} (hf : Stays s (f s)) : Stays s (unlessReset f s) :=
  .ite (fun _ => .refl s) fun _ => hf

theorem perform_latch (c : Rules) {body : Req → State → Reply × State} (hb : ∀ rq u, (body rq u).2.latch = u.latch) (rq : Req)
    (s : State) : (perform c body rq s).latch = s.latch := by
  simp [perform, hb]

/-- A command of the command set whose body leaves all of it alone. -/
theorem runCmd_stays {c : Rules} {body : Req → State → Reply × State} {t : Nat} {rq : Req} {s : State}
    (hb : ∀ rq u, (body rq u).2.latch = u.latch) : RowStays s (runCmd c body t rq s) := by
  refine act_stays (unlessReset_stays ?_)
  generalize tick t s = u
  dsimp only
  have judged : Stays u (if (u.sh.taken.isEmpty && u.hears rq.src rq.port) = true then judge 4 { rq with cmd := c.code } u else u) :=
    .ite (fun _ => judge_stays ..) fun _ => .refl u
  generalize (if (u.sh.taken.isEmpty && u.hears rq.src rq.port) = true then judge 4 { rq with cmd := c.code } u else u) = v at judged ⊢
  split
  · exact judged
  next q rest _ =>
    refine .ite (fun _ => judged.trans (nextTaken_stays (l := rest) ?_)) fun _ => judged
    rw [perform_latch c hb]
    simp [latches]

/-! ### The hub state (R57, R61) -/

theorem enterState_latch (new : HubState) (reason source at_ : Nat) (s : State) : (enterState new reason source at_ s).latch =
    if s.latch.state = new ∨ (s.latch.state = .safe ∧ new ≠ .boot) then s.latch else { s.latch with state := new } := by
  simp [enterState, latches]

/-- SAFE is left for BOOT alone (R61). -/
theorem enterState_stays {new : HubState} {s : State} (h : s.latch.state = .safe → new ≠ .boot) (reason source at_ : Nat) :
    Stays s (enterState new reason source at_ s) := by
  have e := enterState_latch new reason source at_ s
  split at e
  · exact .of_latch e
  next stays => exact .of_state e fun hs => absurd (.inr ⟨hs, h hs⟩) stays

theorem enterFault_stays (c : FaultCause) (s : State) : Stays s (enterFault c s) := by
  unfold enterFault
  have entered := enterState_stays (new := .fault) (s := s) (fun _ => by decide) (causeReason c) 0 s.clk.loom
  dsimp only
  split
  · exact .of_latch (by simp [latches])
  · exact entered.then (by simp [latches])
  · exact entered.then (by simp [latches])
  · exact entered.then (by simp [latches])
  · exact entered.then (by simp [latches])
  · exact .refl s
  · exact .refl s

theorem macFault_stays (s : State) : Stays s (macFault s) := .ite (fun _ => .refl s) fun _ => enterFault_stays ..

/-- A domain other than D0 is lost (R452). -/
theorem loseDomain_stays {d : Nat} (hd : d ≠ 0) (s : State) : Stays s (loseDomain d s) := by
  unfold loseDomain
  refine .ite (fun _ => .refl s) fun _ => ?_
  have lost : Stays s (domainStops d (logEvent 0x0105 0x0E00 d (domUpd d (fun x => { x with
      state := 3, losses := inc16 x.losses, good := false, trained := false, aligned := false, align := none }) s))) :=
    .of_latch (by simp [hd])
  exact .ite (fun _ => lost.trans (enterFault_stays ..)) fun _ => lost

@[simp] theorem applyDomains_latch (mask : Nat) (s : State) : (applyDomains mask s).latch = s.latch := by
  simp [applyDomains, List.foldl]

@[simp] theorem restartDomains_latch (s : State) : (restartDomains s).latch = s.latch := by
  simp [restartDomains, List.foldl]

/-! ### The beat boundary (R31, R57, R424) -/

/-- No staged move takes effect in SAFE (R57, R61). -/
theorem takesMove_safe {s : State} (h : s.latch.state = .safe) (new : HubState) (cmd : Nat) : s.takesMove new cmd = false := by
  have hs : s.hub.state = .safe := h
  cases new <;> simp [State.takesMove, hs, moveListed, stLive]

theorem applyOther_stays (at_ beat : Nat) (s : State) (c : Staged) : Stays s (applyOther at_ beat s c) := by
  unfold applyOther
  cases c.change with
  | move new =>
    refine .ite (fun takes => enterState_stays (fun safe => ?_) ..) fun _ => .refl s
    rw [takesMove_safe safe] at takes
    exact Bool.noConfusion takes
  | detach => exact .trans (.of_latch (by simp)) (enterState_stays (fun _ => by decide) ..)
  | arm mask => exact .of_latch (by simp)
  | disarm mask => exact .of_latch (by simp)
  | mbb =>
    dsimp only
    split
    · exact .of_latch (by simp)
    · exact .refl s
  | yield => exact .of_latch (by simp)
  | words ws => exact .refl s
  | reedSwap die bank => exact .refl s
  | resync => exact .refl s
  | loopSelect d sl => exact .of_latch (by simp)
  | stimStart mask start => exact .of_latch (by simp)
  | stimStop mask hold => exact .of_latch (by simp)
  | calSet pods => exact .of_latch (by simp)
  | temp pod v => exact .of_latch (by simp)
  | domains mask => exact .of_latch (by simp)
  | subst kind idx => exact .of_latch (by simp)
  | consent kind pod part sp => exact .of_latch (by simp)

theorem takeOther_stays (at_ beat : Nat) (bad : List Nat) (s : State) (c : Staged) : Stays s (takeOther at_ beat bad s c) := by
  unfold takeOther
  split
  · exact applyOther_stays ..
  · dsimp only
    split
    · exact .of_latch (by simp [latches])
    · exact .trans (.of_latch (by simp [latches])) (applyOther_stays ..)

theorem boundaryCauses_stays (old : PMem) (bad : List Nat) (s : State) : Stays s (boundaryCauses old bad s) := by
  have faults := foldl_stays (f := fun s k => enterFault (.stagedHusk k) s)
    (l := bad.filter fun k => decide (3 ≤ s.cfg.huskFails.get k)) (fun _ _ _ => enterFault_stays ..) s
  exact .ite (fun _ => faults) fun _ => faults.trans (macFault_stays _)

theorem applyStaged_stays (at_ beat : Nat) (bad : List Nat) (s : State) : Stays s (applyStaged at_ beat bad s) := by
  unfold applyStaged
  refine .trans ?_ (boundaryCauses_stays ..)
  refine .trans ?_ (foldl_stays (fun _ _ _ => takeOther_stays ..) _)
  exact .of_latch (by simp [latches])

theorem boundaryAt_stays (at_ beat : Nat) (bad : List Nat) (s : State) : Stays s (boundaryAt at_ beat bad s) := by
  unfold boundaryAt
  refine Stays.then (u := applyStaged at_ beat bad { s with clk := { s.clk with beat, boundary := at_ } }) ?_ (by simp [latches])
  exact .trans (.of_latch (by simp [latches])) (applyStaged_stays ..)

theorem stepTime_stays (k : Int) (work : BeatWork) (s : State) : Stays s (stepTime k work s) := by
  unfold stepTime
  refine .ite (fun _ => ?_) fun _ => .of_latch (by simp [latches])
  refine .ite (fun _ => .of_latch (by simp [latches])) fun _ => ?_
  exact .trans (.of_latch (by simp [latches])) (boundaryAt_stays ..)

/-! ### BOOT (R71, R72, R454 to R456) -/

@[simp] theorem bootDomains_latch (s : State) : (bootDomains s).latch = s.latch := by
  simp [bootDomains, List.foldl]

@[simp] theorem bootGo_latch (named : Nat) (s : State) : (bootGo named s).latch = s.latch := by
  simp [bootGo, latches]

@[simp] theorem bootWaits_latch (s : State) : (bootWaits s).latch = s.latch := by
  unfold bootWaits
  (repeat' split) <;> simp

/-- A hub that starts from BOOT is out of reset, D0 is on, and no request waits (R44, R455). -/
theorem bootStart_latch (named : Nat) (s : State) : (bootStart named s).latch =
    { nresetLow := false, inReset := false, state := .boot, d0 := 2, taken := [] } := by
  have base : (bootBase s).latch = { nresetLow := false, inReset := false, state := .boot, d0 := 2, taken := [] } :=
    (bootTreadle_latch _).trans (latch_mk ..)
  unfold bootStart
  dsimp only
  split <;> simp [latches, base]

theorem dropToBoot_latch (source : Nat) (s : State) : (dropToBoot source s).latch = { s.latch with state := .boot } := by
  rw [dropToBoot, enterState_latch]
  split
  next h =>
    have state : s.latch.state = .boot := by simpa using h
    simp [← state]
  next => simp

/-- D0 is lost: the hub is held in reset, in BOOT (R452). -/
theorem loseD0_latch (s : State) : (loseD0 s).latch = { s.latch with inReset := true, state := .boot, d0 := 3 } := by
  unfold loseD0
  dsimp only
  split <;> simp [latches, dropToBoot_latch, domUpd]

/-- BOOT ends where it stands (R56): a hub in BOOT is not in SAFE. -/
theorem endBoot_stays {s : State} (h : s.latch.state ≠ .safe) (x : Settled) : Stays s (endBoot x s) := by
  unfold endBoot
  extract_lets hub named settled told entered alarmed asked at_ warp reset
  have before : told.latch = s.latch := by simp [told, settled, named, hub, latches]
  have enters : Stays told (enterState told.hub.bootTo 0 0 told.clk.loom told) :=
    enterState_stays (fun safe => absurd (before ▸ safe) h) ..
  have rest : reset.latch = (enterState told.hub.bootTo 0 0 told.clk.loom told).latch := by
    simp [reset, asked, alarmed, entered, latches]
  refine .trans ?_ (foldl_stays (fun u d _ => .ite (fun _ => enterFault_stays ..) fun _ => .refl u) _)
  exact .trans ((Stays.trans (.of_latch before) enters).then rest) (macFault_stays _)

end Sys2Proof.Machine

/-! SUPPORT. Every row but those of nRESET, D0 and RESTART stays (O12): what each command leaves of the reset, of SAFE and of
the requests taken. -/

namespace Sys2Proof.Machine

open Sys2Proof

/-! ### Frames and refusals -/

/-- A frame from a host port, which crossing 6 may hold (R409). -/
theorem received_stays {t port : Nat} {i : Instr} {s : State} {f : State → State} (hf : Stays (tick t s) (f (tick t s))) :
    RowStays s (received t port i s f) :=
  act_stays (.ite (fun _ => .of_latch (by simp)) fun _ => hf)

theorem received_latch {t port : Nat} {i : Instr} {s : State} {f : State → State} (hf : ∀ u, (f u).latch = u.latch) :
    RowStays s (received t port i s f) :=
  received_stays (.of_latch (hf _))

/-- A frame from the partner, which crossing 7 may hold (R409). -/
theorem crosses_stays {t : Nat} {i : Instr} {s : State} {f : State → State} (hf : Stays (tick t s) (f (tick t s))) :
    RowStays s (crosses t i s f) :=
  act_stays (.ite (fun _ => .of_latch (by simp)) fun _ => hf)

theorem crosses_latch {t : Nat} {i : Instr} {s : State} {f : State → State} (hf : ∀ u, (f u).latch = u.latch) :
    RowStays s (crosses t i s f) :=
  crosses_stays (.of_latch (hf _))

/-- A body that refuses changes nothing. -/
theorem refusing_latch {u : State} {p : Prop} [Decidable p] {r : Reply} {x : Reply × State} (k : ¬ p → x.2.latch = u.latch) :
    (if p then (r, u) else x).2.latch = u.latch := by
  split
  · rfl
  next h => exact k h

/-- A part of a calibration run is judged. -/
theorem judgePart_latch (r : CalRun) (acc : Bytes × State) (ch : Nat) : (judgePart r acc ch).2.latch = acc.2.latch := by
  unfold judgePart
  dsimp only
  split <;> simp [latches]

/-- A hub that is ready to leave BOOT is not in SAFE (R456). -/
theorem bootReady_inBoot {s : State} (h : s.bootReady = true) : s.latch.state ≠ .safe := by
  have boot : s.hub.state = .boot := by
    simp only [State.bootReady, Bool.and_eq_true, beq_iff_eq] at h
    exact h.1.1.1.1.1
  intro safe
  exact absurd (boot.symm.trans safe) (by decide)

/-! ### Transport -/

theorem execShuttleRequest_stays (t port ip udp : Nat) (msg : Bytes) (s : State) :
    RowStays s (execShuttleRequest t port ip udp msg s) :=
  received_stays (unlessReset_stays (.ite (fun _ => arrive_stays ..) fun _ => .refl _))

theorem execSpiWrite_stays (t : Nat) (msg : Bytes) (s : State) : RowStays s (execSpiWrite t msg s) :=
  act_stays (.ite (fun _ => unlessReset_stays (arrive_stays ..)) fun _ => .refl _)

theorem execSpiRead_stays (t mb clocked : Nat) (s : State) : RowStays s (execSpiRead t mb clocked s) := by
  refine act_latch fun u => onSpi_latch (fun v => ?_) u
  (repeat' split) <;> simp

theorem execSpiPoll_stays (t : Nat) (s : State) : RowStays s (execSpiPoll t s) :=
  act_latch fun u => by simp [latches]

theorem execSpiInvalidOpcode_stays (t _op : Nat) (s : State) : RowStays s (execSpiInvalidOpcode t _op s) :=
  act_latch fun u => by simp [latches]

theorem execSpiFrameTimeout_stays (t : Nat) (s : State) : RowStays s (execSpiFrameTimeout t s) :=
  act_latch fun u => by simp [latches]

theorem execClaimIdleLapse_stays (t mb : Nat) (s : State) : RowStays s (execClaimIdleLapse t mb s) :=
  act_latch fun u => by simp [latches]

theorem execJobResultExpiry_stays (t job : Nat) (s : State) : RowStays s (execJobResultExpiry t job s) := by
  refine act_latch fun u => ?_
  (repeat' split) <;> simp [latches]


/-! ### General -/

theorem execStatus_stays (t : Nat) (rq : Req) (s : State) : RowStays s (execStatus t rq s) :=
  runCmd_stays fun rq u => by simp [latches]

theorem execRelease_stays (t : Nat) (rq : Req) (s : State) : RowStays s (execRelease t rq s) :=
  runCmd_stays fun rq u => by simp [latches]

theorem execRestart_stays (t : Nat) (rq : Req) (s : State) : RowStays s (execRestart t rq s) := by
  refine runCmd_stays fun rq u => ?_
  dsimp only
  (repeat' split) <;> simp [latches]

theorem execCountersRead_stays (t : Nat) (rq : Req) (s : State) : RowStays s (execCountersRead t rq s) := by
  refine runCmd_stays fun rq u => ?_
  dsimp only
  (repeat' split) <;> simp [latches]

theorem execCfgOpen_stays (t : Nat) (rq : Req) (s : State) : RowStays s (execCfgOpen t rq s) := by
  refine runCmd_stays fun rq u => ?_
  dsimp only
  (repeat' split) <;> simp [latches]

theorem execParamWrite_stays (t : Nat) (rq : Req) (s : State) : RowStays s (execParamWrite t rq s) := by
  refine runCmd_stays fun rq u => ?_
  dsimp only
  (repeat' split) <;> simp [latches]

theorem execCfgAbort_stays (t : Nat) (rq : Req) (s : State) : RowStays s (execCfgAbort t rq s) := by
  refine runCmd_stays fun rq u => ?_
  (repeat' split) <;> simp [latches]

theorem execCfgSave_stays (t : Nat) (rq : Req) (s : State) : RowStays s (execCfgSave t rq s) := by
  refine runCmd_stays fun rq u => ?_
  dsimp only
  (repeat' split) <;> simp [latches]


/-! ### Heddle -/

theorem execLeadSuspect_stays (t ch : Nat) (det : Detector) (s : State) : RowStays s (execLeadSuspect t ch det s) :=
  act_latch fun u => by simp [latches]

theorem execLeadConfirmed_stays (t ch : Nat) (det : Detector) (s : State) : RowStays s (execLeadConfirmed t ch det s) :=
  act_latch fun u => by simp [latches]

theorem execLeadCleared_stays (t ch : Nat) (det : Detector) (s : State) : RowStays s (execLeadCleared t ch det s) :=
  act_latch fun u => by simp [latches]

theorem execLeadWatchHalfPeriod_stays (t ch : Nat) (mean : Int) (husks : List Nat) (s : State) :
    RowStays s (execLeadWatchHalfPeriod t ch mean husks s) :=
  act_latch fun u => by simp [latches]

theorem execOverrangeOnset_stays (t ch : Nat) (positive : Bool) (s : State) :
    RowStays s (execOverrangeOnset t ch positive s) :=
  act_latch fun u => by simp [latches]

theorem execOverrangeEnd_stays (t ch : Nat) (s : State) : RowStays s (execOverrangeEnd t ch s) :=
  act_latch fun u => by simp [latches]

theorem execOvervoltageTrip_stays (t pod thread : Nat) (s : State) : RowStays s (execOvervoltageTrip t pod thread s) :=
  act_latch fun u => by simp [latches]

theorem execOvervoltageClear_stays (t pod thread : Nat) (s : State) : RowStays s (execOvervoltageClear t pod thread s) :=
  act_latch fun u => by simp [latches]

theorem execDriverReconnect_stays (t pod thread : Nat) (s : State) : RowStays s (execDriverReconnect t pod thread s) :=
  act_latch fun u => by simp [latches]

theorem execExcitationExchange_stays (t pod src : Nat) (s : State) : RowStays s (execExcitationExchange t pod src s) :=
  act_latch fun u => by simp [latches]

theorem execLeadStatus_stays (t : Nat) (rq : Req) (s : State) : RowStays s (execLeadStatus t rq s) := by
  refine runCmd_stays fun rq u => ?_
  (repeat' split) <;> simp [latches]

theorem execOvrCounters_stays (t : Nat) (rq : Req) (s : State) : RowStays s (execOvrCounters t rq s) := by
  refine runCmd_stays fun rq u => ?_
  dsimp only
  (repeat' split) <;> simp [latches]


/-! ### Conv -/

theorem execModulatorRestart_stays (t ch : Nat) (positive : Bool) (s : State) :
    RowStays s (execModulatorRestart t ch positive s) :=
  act_latch fun u => by simp [latches]

theorem execSimultaneousTrigger_stays (t : Nat) (s : State) : RowStays s (execSimultaneousTrigger t s) :=
  act_latch fun u => by simp [latches]

theorem execScanListPass_stays (t list : Nat) (s : State) : RowStays s (execScanListPass t list s) :=
  act_latch fun u => by simp [latches]

theorem execThreadProbe_stays (t : Nat) (rq : Req) (s : State) : RowStays s (execThreadProbe t rq s) := by
  refine runCmd_stays fun rq u => ?_
  dsimp only
  (repeat' split) <;> simp [latches]

theorem execScSpot_stays (t : Nat) (rq : Req) (s : State) : RowStays s (execScSpot t rq s) := by
  refine runCmd_stays fun rq u => ?_
  dsimp only
  (repeat' split) <;> simp [latches]

theorem execScCounters_stays (t : Nat) (rq : Req) (s : State) : RowStays s (execScCounters t rq s) := by
  refine runCmd_stays fun rq u => ?_
  dsimp only
  (repeat' split) <;> simp [latches]

theorem execLeadRes_stays (t : Nat) (rq : Req) (s : State) : RowStays s (execLeadRes t rq s) := by
  refine runCmd_stays fun rq u => ?_
  dsimp only
  (repeat' split) <;> simp [latches]


/-! ### Filter -/

theorem execReedSwap_stays (t : Nat) (rq : Req) (s : State) : RowStays s (execReedSwap t rq s) := by
  refine runCmd_stays fun rq u => refusing_latch fun _ => refusing_latch fun _ => refusing_latch fun _ => refusing_latch fun _ => ?_
  dsimp only
  split
  · split
    · rfl
    next job => simp [latches, newJob_latch job]
  · simp

theorem execReedSwapRelease_stays (t die : Nat) (s : State) : RowStays s (execReedSwapRelease t die s) :=
  act_latch fun u => by simp [latches]

theorem execMainsTrackingLost_stays (t : Nat) (s : State) : RowStays s (execMainsTrackingLost t s) := by
  refine act_latch fun u => ?_
  (repeat' split) <;> simp [latches]


/-! ### Warp -/

theorem execWarpPortStateChange_stays (t port : Nat) (line : WarpLine) (s : State) :
    RowStays s (execWarpPortStateChange t port line s) :=
  act_latch fun u => by simp [latches]

theorem execWarpLost_stays (t : Nat) (s : State) : RowStays s (execWarpLost t s) := by
  refine act_latch fun u => ?_
  (repeat' split) <;> simp [latches]

theorem execWarpReturn_stays (t : Nat) (s : State) : RowStays s (execWarpReturn t s) :=
  act_latch fun u => by simp [latches]

theorem execPtpSourceLost_stays (t : Nat) (s : State) : RowStays s (execPtpSourceLost t s) := by
  refine act_latch fun u => ?_
  dsimp only
  (repeat' split) <;> simp [latches]

theorem execEventOrigination_stays (t : Nat) (s : State) : RowStays s (execEventOrigination t s) := by
  refine act_latch fun u => ?_
  dsimp only
  (repeat' split) <;> simp [latches]

theorem execWarpEventTransmit_stays (t port : Nat) (s : State) : RowStays s (execWarpEventTransmit t port s) := by
  refine act_latch fun u => ?_
  (repeat' split) <;> simp [latches]

theorem execResendRequest_stays (t port first : Nat) (s : State) : RowStays s (execResendRequest t port first s) :=
  act_latch fun u => by simp [latches]

theorem execWarpEvent_stays (t port : Nat) (ev : Bytes) (s : State) : RowStays s (execWarpEvent t port ev s) :=
  act_latch fun u => by simp [latches]

theorem execWarpTimeFrame_stays (t : Nat) (frame : Bytes) (ext : Nat) (s : State) :
    RowStays s (execWarpTimeFrame t frame ext s) := by
  refine act_latch fun u => ?_
  dsimp only
  (repeat' split) <;> simp [latches]

theorem execTimeFrameSend_stays (t port : Nat) (s : State) : RowStays s (execTimeFrameSend t port s) := by
  refine act_latch fun u => ?_
  dsimp only
  (repeat' split) <;> simp [latches]

theorem execDelayRequestSend_stays (t : Nat) (s : State) : RowStays s (execDelayRequestSend t s) :=
  act_latch fun u => by simp [latches]

theorem execDelayRequest_stays (t port : Nat) (frame : Bytes) (ext : Nat) (s : State) :
    RowStays s (execDelayRequest t port frame ext s) :=
  act_latch fun u => by simp [latches]

theorem execCensusLapse_stays (t hub : Nat) (s : State) : RowStays s (execCensusLapse t hub s) :=
  act_latch fun u => by simp [latches]

theorem execSynchronisingReset_stays (t : Nat) (s : State) : RowStays s (execSynchronisingReset t s) := by
  refine act_latch fun u => ?_
  (repeat' split) <;> simp [latches]

theorem execCatchUpReset_stays (t : Nat) (s : State) : RowStays s (execCatchUpReset t s) := by
  refine act_latch fun u => ?_
  (repeat' split) <;> simp [latches]

theorem execWarpPorts_stays (t : Nat) (rq : Req) (s : State) : RowStays s (execWarpPorts t rq s) := by
  refine runCmd_stays fun rq u => ?_
  dsimp only
  (repeat' split) <;> simp [latches]

theorem execSyncReset_stays (t : Nat) (rq : Req) (s : State) : RowStays s (execSyncReset t rq s) := by
  refine runCmd_stays fun rq u => refusing_latch fun _ => refusing_latch fun _ => refusing_latch fun _ => ?_
  split
  · rfl
  next job => simp [latches, newJob_latch job]

theorem execTimeSet_stays (t : Nat) (rq : Req) (s : State) : RowStays s (execTimeSet t rq s) := by
  refine runCmd_stays fun rq u => ?_
  dsimp only
  (repeat' split) <;> simp [latches]

theorem execEventSend_stays (t : Nat) (rq : Req) (s : State) : RowStays s (execEventSend t rq s) := by
  refine runCmd_stays fun rq u => ?_
  (repeat' split) <;> simp [latches]


/-! ### Linear -/

theorem execBridgeZero_stays (t : Nat) (rq : Req) (s : State) : RowStays s (execBridgeZero t rq s) := by
  refine runCmd_stays fun rq u => refusing_latch fun _ => refusing_latch fun _ => refusing_latch fun _ => ?_
  split
  · rfl
  next job => exact newJob_latch job

theorem execBridgeZeroDone_stays (t job : Nat) (s : State) : RowStays s (execBridgeZeroDone t job s) := by
  refine act_latch fun u => ?_
  dsimp only
  (repeat' split) <;> simp [latches]


/-! ### Service -/

theorem execPathTest_stays (t : Nat) (rq : Req) (s : State) : RowStays s (execPathTest t rq s) := by
  refine runCmd_stays fun rq u => refusing_latch fun _ => refusing_latch fun _ => refusing_latch fun _ => refusing_latch fun _ =>
    refusing_latch fun _ => refusing_latch fun _ => refusing_latch fun _ => ?_
  split
  · rfl
  · dsimp only
    split
    · rfl
    next job => exact (testBegin_latch ..).trans (newJob_latch job)

theorem execPathTestDone_stays (t job : Nat) (slots husks : List Nat) (s : State) :
    RowStays s (execPathTestDone t job slots husks s) := by
  refine act_latch fun u => ?_
  (repeat' split) <;> simp [latches]

theorem execCalRun_stays (t : Nat) (rq : Req) (s : State) : RowStays s (execCalRun t rq s) := by
  refine runCmd_stays fun rq u => ?_
  dsimp only
  repeat refine refusing_latch fun _ => ?_
  split
  · rfl
  next job => exact (foldl_latch (fun v ch => lendSlot_latch _ v ch) _ _).trans (newJob_latch job)

theorem execCalRunDone_stays (t job : Nat) (husks : List Nat) (s : State) : RowStays s (execCalRunDone t job husks s) := by
  refine act_latch fun u => ?_
  split
  next r _ =>
    split
    · exact (testEnd_latch ..).trans ((foldl_latch_snd (judgePart_latch r) ..).trans (usedHusks_latch husks u))
    · rfl
  · rfl

theorem execCalCommit_stays (t : Nat) (rq : Req) (s : State) : RowStays s (execCalCommit t rq s) := by
  refine runCmd_stays fun rq u => ?_
  dsimp only
  (repeat' split) <;> simp [latches]

theorem execCalDiscard_stays (t : Nat) (rq : Req) (s : State) : RowStays s (execCalDiscard t rq s) :=
  runCmd_stays fun rq u => by simp [latches]


/-! ### Frames -/

theorem execFrameClose_stays (t stream sec : Nat) (s : State) : RowStays s (execFrameClose t stream sec s) :=
  act_latch fun u => by simp [latches]


/-! ### Treadle -/

theorem execTioInputChange_stays (t pin : Nat) (level : Bool) (s : State) : RowStays s (execTioInputChange t pin level s) :=
  act_latch fun u => by simp [latches]

theorem execTioLevelAccepted_stays (t pin : Nat) (s : State) : RowStays s (execTioLevelAccepted t pin s) := by
  refine act_latch fun u => ?_
  dsimp only
  (repeat' split) <;> simp [latches]

theorem execSequencerEvaluation_stays (t seq inst : Nat) (s : State) : RowStays s (execSequencerEvaluation t seq inst s) :=
  act_latch fun u => by simp [latches]

theorem execTreadleTimerExpiry_stays (t _seq _k : Nat) (s : State) : RowStays s (execTreadleTimerExpiry t _seq _k s) :=
  act_latch fun u => by simp [latches]

theorem execTreadleCounterReached_stays (t _seq _k : Nat) (s : State) : RowStays s (execTreadleCounterReached t _seq _k s) :=
  act_latch fun u => by simp [latches]

theorem execTreadleArm_stays (t : Nat) (rq : Req) (s : State) : RowStays s (execTreadleArm t rq s) :=
  runCmd_stays fun rq u => by simp [latches]

theorem execTreadleDisarm_stays (t : Nat) (rq : Req) (s : State) : RowStays s (execTreadleDisarm t rq s) :=
  runCmd_stays fun rq u => by simp [latches]

theorem execTreadleForce_stays (t : Nat) (rq : Req) (s : State) : RowStays s (execTreadleForce t rq s) := by
  refine runCmd_stays fun rq u => ?_
  dsimp only
  (repeat' split) <;> simp [latches]


/-! ### Records -/

theorem execRecordComplete_stays (t bob rec : Nat) (s : State) : RowStays s (execRecordComplete t bob rec s) := by
  refine act_latch fun u => ?_
  (repeat' split) <;> simp [latches]

theorem execAutoTimeout_stays (t bob : Nat) (s : State) : RowStays s (execAutoTimeout t bob s) :=
  act_latch fun u => by simp [latches]

theorem execRearmEnd_stays (t bob : Nat) (s : State) : RowStays s (execRearmEnd t bob s) :=
  act_latch fun u => by simp [latches]


/-! ### Drive -/

theorem execLoopUpdate_stays (t : Nat) (bad : List Nat) (s : State) : RowStays s (execLoopUpdate t bad s) :=
  act_latch fun u => by simp [latches]

theorem execStimulusTick_stays (t : Nat) (found : StimTick) (s : State) : RowStays s (execStimulusTick t found s) :=
  act_latch fun u => by simp [latches]

theorem execLoopSet_stays (t : Nat) (rq : Req) (s : State) : RowStays s (execLoopSet t rq s) := by
  refine runCmd_stays fun rq u => ?_
  dsimp only
  (repeat' split) <;> simp [latches]

theorem execLoopSelect_stays (t : Nat) (rq : Req) (s : State) : RowStays s (execLoopSelect t rq s) := by
  refine runCmd_stays fun rq u => ?_
  dsimp only
  (repeat' split) <;> simp [latches]

theorem execStimStart_stays (t : Nat) (rq : Req) (s : State) : RowStays s (execStimStart t rq s) := by
  refine runCmd_stays fun rq u => ?_
  dsimp only
  (repeat' split) <;> simp [latches]

theorem execStimStop_stays (t : Nat) (rq : Req) (s : State) : RowStays s (execStimStop t rq s) := by
  refine runCmd_stays fun rq u => ?_
  dsimp only
  (repeat' split) <;> simp [latches]

theorem execStimLoad_stays (t : Nat) (rq : Req) (s : State) : RowStays s (execStimLoad t rq s) := by
  refine runCmd_stays fun rq u => ?_
  dsimp only
  (repeat' split) <;> simp [latches]

theorem execStimTableEnd_stays (t : Nat) (rq : Req) (s : State) : RowStays s (execStimTableEnd t rq s) := by
  refine runCmd_stays fun rq u => refusing_latch fun _ => ?_
  split
  · rfl
  · refine refusing_latch fun _ => refusing_latch fun _ => ?_
    split
    · simp
    · split
      · rfl
      next job => simp [latches, newJob_latch job]


/-! ### Weft -/

theorem execPortTransmit_stays (t port : Nat) (s : State) : RowStays s (execPortTransmit t port s) := by
  refine act_latch fun u => ?_
  dsimp only
  (repeat' split) <;> simp [latches]

theorem execTc0Token_stays (t port : Nat) (s : State) : RowStays s (execTc0Token t port s) := by
  refine act_latch fun u => ?_
  split
  · rfl
  · extract_lets due spent v h
    have formed : v.latch = u.latch := by simp [v, spent]
    split
    · rw [latch_ite, portUpd_latch, ite_self, formed]
    · exact formed

theorem execPortLinkChange_stays (t port : Nat) (up : Bool) (s : State) : RowStays s (execPortLinkChange t port up s) := by
  refine act_latch fun u => ?_
  dsimp only
  (repeat' split) <;> simp [latches]

theorem execArpRequest_stays (t port senderMac senderIp targetIp : Nat) (s : State) :
    RowStays s (execArpRequest t port senderMac senderIp targetIp s) :=
  received_latch fun u => by simp [latches]

theorem execArpRefresh_stays (t port ip : Nat) (s : State) : RowStays s (execArpRefresh t port ip s) :=
  act_latch fun u => by simp [latches]

theorem execArpRetry_stays (t port ip : Nat) (s : State) : RowStays s (execArpRetry t port ip s) := by
  refine act_latch fun u => ?_
  (repeat' split) <;> simp [latches]

theorem execIcmpEchoRequest_stays (t port srcIp : Nat) (msg : Bytes) (s : State) :
    RowStays s (execIcmpEchoRequest t port srcIp msg s) :=
  received_latch fun u => by simp [latches]

theorem execHostFrameReceived_stays (t port : Nat) (frame : Bytes) (fcsOk : Bool) (s : State) :
    RowStays s (execHostFrameReceived t port frame fcsOk s) := by
  refine received_latch fun u => ?_
  dsimp only
  (repeat' split) <;> simp [latches]

theorem execPtpAnnounce_stays (t port : Nat) (m : PtpAnnounce) (s : State) : RowStays s (execPtpAnnounce t port m s) :=
  received_latch fun u => by simp [latches]

theorem execPtpSync_stays (t port : Nat) (m : PtpSync) (s : State) : RowStays s (execPtpSync t port m s) := by
  refine received_latch fun u => ?_
  dsimp only
  (repeat' split) <;> simp [latches]

theorem execPdelayReq_stays (t port srcId seqId domain : Nat) (s : State) :
    RowStays s (execPdelayReq t port srcId seqId domain s) :=
  received_latch fun u => by simp [latches]

theorem execPtpDelayReqSend_stays (t port : Nat) (s : State) : RowStays s (execPtpDelayReqSend t port s) := by
  refine act_latch fun u => ?_
  dsimp only
  (repeat' split) <;> simp [latches]

theorem execAcknowledgement_stays (t port : Nat) (msg : Bytes) (s : State) :
    RowStays s (execAcknowledgement t port msg s) := by
  refine received_latch fun u => ?_
  dsimp only
  (repeat' split) <;> simp [latches]

theorem execPortStatus_stays (t : Nat) (rq : Req) (s : State) : RowStays s (execPortStatus t rq s) := by
  refine runCmd_stays fun rq u => ?_
  dsimp only
  (repeat' split) <;> simp [latches]

theorem execStoreStatus_stays (t : Nat) (rq : Req) (s : State) : RowStays s (execStoreStatus t rq s) :=
  runCmd_stays fun rq u => by simp [latches]

theorem execWeftResend_stays (t : Nat) (rq : Req) (s : State) : RowStays s (execWeftResend t rq s) := by
  refine runCmd_stays fun rq u => refusing_latch fun _ => refusing_latch fun _ => refusing_latch fun _ => refusing_latch fun _ => ?_
  generalize List.filter _ (List.map _ (List.range _)) = lost
  cases lost with
  | nil => rfl
  | cons q r => exact logEvent_latch ..


/-! ### Winnow -/

theorem execWinnowFrameStart_stays (t : Nat) (s : State) : RowStays s (execWinnowFrameStart t s) := by
  refine act_latch fun u => ?_
  (repeat' split) <;> simp [latches]

theorem execWinnowFrameDone_stays (t : Nat) (stalled : Option Nat) (s : State) :
    RowStays s (execWinnowFrameDone t stalled s) := by
  refine act_latch fun u => ?_
  (repeat' split) <;> simp [latches]

theorem execWinnowStallResume_stays (t : Nat) (s : State) : RowStays s (execWinnowStallResume t s) :=
  act_latch fun u => by simp [latches]

theorem execDecompressionDone_stays (job : JobEnd) (s : State) : RowStays s (execDecompressionDone job s) := by
  refine act_latch fun u => ?_
  dsimp only
  (repeat' split) <;> simp [latches]

theorem execWinnowStatus_stays (t : Nat) (rq : Req) (s : State) : RowStays s (execWinnowStatus t rq s) := by
  refine runCmd_stays fun rq u => ?_
  dsimp only
  (repeat' split) <;> simp [latches]


/-! ### Sample -/

theorem execPlyWordArrival_stays (t ch : Nat) (reed : Bool) (slot k : Nat) (codes : List Int) (s : State) :
    RowStays s (execPlyWordArrival t ch reed slot k codes s) :=
  act_latch fun u => by simp [latches]

theorem execPlyLaneFailure_stays (t die lane : Nat) (s : State) : RowStays s (execPlyLaneFailure t die lane s) :=
  act_latch fun u => by simp [latches]

theorem execPlyLinkTrained_stays (t die lanes : Nat) (s : State) : RowStays s (execPlyLinkTrained t die lanes s) :=
  act_latch fun u => by simp [latches]

theorem execOutputSample_stays (t ch grid : Nat) (reads : List (Nat × Bytes)) (s : State) :
    RowStays s (execOutputSample t ch grid reads s) :=
  act_latch fun u => by simp [latches]


/-! ### Moves -/

theorem execEnterConfig_stays (t : Nat) (rq : Req) (s : State) : RowStays s (execEnterConfig t rq s) :=
  runCmd_stays fun rq u => by simp [latches]

theorem execStart_stays (t : Nat) (rq : Req) (s : State) : RowStays s (execStart t rq s) := by
  refine runCmd_stays fun rq u => ?_
  (repeat' split) <;> simp [latches]

theorem execStop_stays (t : Nat) (rq : Req) (s : State) : RowStays s (execStop t rq s) :=
  runCmd_stays fun rq u => by simp [latches]

theorem execEnterService_stays (t : Nat) (rq : Req) (s : State) : RowStays s (execEnterService t rq s) :=
  runCmd_stays fun rq u => by simp [latches]

theorem execLeaveService_stays (t : Nat) (rq : Req) (s : State) : RowStays s (execLeaveService t rq s) := by
  refine runCmd_stays fun rq u => ?_
  (repeat' split) <;> simp [latches]

theorem execFaultClear_stays (t : Nat) (rq : Req) (s : State) : RowStays s (execFaultClear t rq s) := by
  refine runCmd_stays fun rq u => ?_
  (repeat' split) <;> simp [latches]

theorem execCommit_stays (t : Nat) (rq : Req) (s : State) : RowStays s (execCommit t rq s) :=
  runCmd_stays fun rq u => by simp [latches]

theorem execCheckOnly_stays (t : Nat) (rq : Req) (s : State) : RowStays s (execCheckOnly t rq s) :=
  runCmd_stays fun rq u => by simp [latches]

theorem execCommitNoEn_stays (t : Nat) (rq : Req) (s : State) : RowStays s (execCommitNoEn t rq s) :=
  runCmd_stays fun rq u => by simp [latches]

theorem execJobCancel_stays (t : Nat) (rq : Req) (s : State) : RowStays s (execJobCancel t rq s) := by
  refine runCmd_stays fun rq u => ?_
  dsimp only
  (repeat' split) <;> simp [latches]


/-! ### Integrity -/

theorem execScrubPass_stays (t : Nat) (reads : List (Nat × Bytes)) (s : State) : RowStays s (execScrubPass t reads s) :=
  act_latch fun u => by simp [latches]

theorem execMacResidueFailure_stays (t lane ch : Nat) (s : State) : RowStays s (execMacResidueFailure t lane ch s) :=
  act_stays (.ite (fun _ => .trans (.of_latch (by simp)) (macFault_stays _)) fun _ => .refl _)

theorem execVoterDisagreement_stays (t : Nat) (dissenter : Option Nat) (s : State) :
    RowStays s (execVoterDisagreement t dissenter s) := by
  refine act_stays ?_
  have safe : Stays (tick t s) (if (tick t s).hub.state = .boot then tick t s else enterState .safe 0x040C 0 (tick t s).clk.loom
      (logEvent 0x040C 0 (maskOf (tick t s).voters) (tick t s))) :=
    .ite (fun _ => .refl _) fun _ => .trans (.of_latch (by simp)) (enterState_stays (fun _ => by decide) ..)
  cases dissenter with
  | none => exact safe
  | some c => exact .ite (fun _ => .of_latch (by simp [latches])) fun _ => .ite (fun _ => safe) fun _ => .refl _

theorem execQclkRestore_stays (t : Nat) (s : State) : RowStays s (execQclkRestore t s) :=
  act_latch fun u => by simp [latches]

theorem execCrossingRestart_stays (t x : Nat) (s : State) : RowStays s (execCrossingRestart t x s) :=
  act_latch fun u => by simp [latches]

theorem execIntegrityStatus_stays (t : Nat) (rq : Req) (s : State) : RowStays s (execIntegrityStatus t rq s) :=
  runCmd_stays fun rq u => by simp [latches]

theorem execCrossStatus_stays (t : Nat) (rq : Req) (s : State) : RowStays s (execCrossStatus t rq s) :=
  runCmd_stays fun rq u => by simp [latches]

theorem execChkStep_stays (t : Nat) (rq : Req) (s : State) : RowStays s (execChkStep t rq s) := by
  refine runCmd_stays fun rq u => ?_
  dsimp only
  (repeat' split) <;> simp [latches]

theorem execStoreCrc_stays (t : Nat) (rq : Req) (s : State) : RowStays s (execStoreCrc t rq s) := by
  refine runCmd_stays fun rq u => ?_
  dsimp only
  repeat refine refusing_latch fun _ => ?_
  split
  · rfl
  next job => exact newJob_latch job

theorem execStoreCrcDone_stays (t job : Nat) (s : State) : RowStays s (execStoreCrcDone t job s) := by
  refine act_latch fun u => ?_
  (repeat' split) <;> simp [latches]


/-! ### Power -/

/-- D0, which is on or lost, does not come on so (R452, R454). -/
theorem execDomainPowerGood_stays (t dom : Nat) {s : State} (h : s.latch.d0 ≠ 1) : RowStays s (execDomainPowerGood t dom s) := by
  refine act_stays (.ite (fun due => ?_) fun _ => .refl _)
  have other : dom ≠ 0 := by
    rintro rfl
    exact h due.1
  exact .ite (fun _ => .of_latch (by simp)) fun _ => .of_latch (by simp [other])

theorem execStoreZeroed_stays (t : Nat) (s : State) : RowStays s (execStoreZeroed t s) :=
  act_latch fun u => by simp [latches]

theorem execDomainPowerGoodTimeout_stays (t dom : Nat) {s : State} (h : s.latch.d0 ≠ 1) :
    RowStays s (execDomainPowerGoodTimeout t dom s) := by
  refine act_stays (.ite (fun due => ?_) fun _ => .refl _)
  have other : dom ≠ 0 := by
    rintro rfl
    exact h due.2.1
  exact (loseDomain_stays other _).then (by simp [other])

theorem execPowerStatus_stays (t : Nat) (rq : Req) (s : State) : RowStays s (execPowerStatus t rq s) := by
  refine runCmd_stays fun rq u => clearRead_latch (fun v => ?_) rq u
  have d0 := foldl_upd_field (fun x : Domain => { x with losses := 0 }) Domain.state (fun _ => rfl) (List.range 8) v.pow.domains 0
  simp [latches, d0]

theorem execDomainSet_stays (t : Nat) (rq : Req) (s : State) : RowStays s (execDomainSet t rq s) := by
  refine runCmd_stays fun rq u => ?_
  dsimp only
  (repeat' split) <;> simp [latches]

theorem execSeedSubst_stays (t : Nat) (rq : Req) (s : State) : RowStays s (execSeedSubst t rq s) := by
  refine runCmd_stays fun rq u => ?_
  dsimp only
  (repeat' split) <;> simp [latches]

theorem execSeedConsent_stays (t : Nat) (rq : Req) (s : State) : RowStays s (execSeedConsent t rq s) := by
  refine runCmd_stays fun rq u => ?_
  dsimp only
  (repeat' split) <;> simp [latches]

theorem execImageLoad_stays (t : Nat) (rq : Req) (s : State) : RowStays s (execImageLoad t rq s) := by
  refine runCmd_stays fun rq u => ?_
  dsimp only
  (repeat' split) <;> simp [latches]

theorem execImageEnd_stays (t : Nat) (rq : Req) (s : State) : RowStays s (execImageEnd t rq s) := by
  refine runCmd_stays fun rq u => refusing_latch fun _ => refusing_latch fun _ => refusing_latch fun _ => ?_
  split
  · rfl
  next job => simp [latches, newJob_latch job]


/-! ### Pairing -/

theorem execHeartbeatSend_stays (t : Nat) (s : State) : RowStays s (execHeartbeatSend t s) :=
  act_latch fun u => by simp [latches]

theorem execSnapshotFragment_stays (t : Nat) (hdr : SvHeader) (place : SnapPlace) (items : List SnapItem) (last : Bool) (s : State) :
    RowStays s (execSnapshotFragment t hdr place items last s) :=
  crosses_latch fun u => by simp [latches]

theorem execDelta_stays (t : Nat) (hdr : SvHeader) (frame : DeltaFrame) (s : State) :
    RowStays s (execDelta t hdr frame s) := by
  refine crosses_latch fun u => ?_
  (repeat' split) <;> simp [latches]

theorem execDeltaAcknowledgement_stays (t : Nat) (hdr : SvHeader) (id : Nat) (s : State) :
    RowStays s (execDeltaAcknowledgement t hdr id s) :=
  crosses_latch fun u => by simp [latches]

theorem execDeltaResend_stays (t : Nat) (s : State) : RowStays s (execDeltaResend t s) :=
  act_latch fun u => by simp [latches]

theorem execResyncRequest_stays (t : Nat) (hdr : SvHeader) (s : State) : RowStays s (execResyncRequest t hdr s) :=
  crosses_latch fun u => by simp [latches]

theorem execMirrorStale_stays (t : Nat) (s : State) : RowStays s (execMirrorStale t s) :=
  act_latch fun u => by simp [latches]

theorem execSelvedgeHeartbeat_stays (t : Nat) (frame : Bytes) (s : State) : RowStays s (execSelvedgeHeartbeat t frame s) := by
  refine crosses_stays (.ite (fun _ => ?_) fun _ => .refl _)
  extract_lets n counted good body
  have accepted : (svAccept (beAt frame 1 1 / 16) good counted).2.latch = (tick t s).latch := by simp [counted]
  generalize svAccept (beAt frame 1 1 / 16) good counted = x at accepted ⊢
  obtain ⟨ok, v⟩ := x
  refine .ite (fun _ => ?_) fun _ => .of_latch accepted
  extract_lets met heard
  have hears : heard.latch = (tick t s).latch := by simpa [heard, met] using accepted
  refine .trans (.of_latch hears) (.ite (fun _ => .ite (fun due => ?_) fun _ => .refl _) fun _ => ?_)
  · split
    · exact endBoot_stays (bootReady_inBoot due.2) _
    · exact .refl _
  · exact .of_latch (by simp)

theorem execSelvedgeLost_stays (t : Nat) (s : State) : RowStays s (execSelvedgeLost t s) :=
  act_latch fun u => by simp [latches]

theorem execSelvedgeLaneFailure_stays (t lane : Nat) (s : State) : RowStays s (execSelvedgeLaneFailure t lane s) :=
  act_latch fun u => by simp [latches]

theorem execHbInEdge_stays (t : Nat) (s : State) : RowStays s (execHbInEdge t s) := by
  refine act_latch fun u => ?_
  dsimp only
  (repeat' split) <;> simp [latches]

theorem execHbInLost_stays (t : Nat) (s : State) : RowStays s (execHbInLost t s) :=
  act_latch fun u => by simp [latches]

theorem execWitnessAbsent_stays (t w : Nat) (s : State) : RowStays s (execWitnessAbsent t w s) :=
  act_latch fun u => by simp [latches]

theorem execWitnessPresent_stays (t w : Nat) (s : State) : RowStays s (execWitnessPresent t w s) :=
  act_latch fun u => by simp [latches]

theorem execStandbyEvaluation_stays (t : Nat) (s : State) : RowStays s (execStandbyEvaluation t s) := by
  refine act_latch fun u => ?_
  dsimp only
  (repeat' split) <;> simp [latches]

theorem execSwitchControl_stays (t : Nat) (hdr : SvHeader) (tT : Nat) (s : State) :
    RowStays s (execSwitchControl t hdr tT s) :=
  crosses_latch fun u => by simp [latches]

theorem execPromptSwitchInstant_stays (t : Nat) (s : State) : RowStays s (execPromptSwitchInstant t s) := by
  refine act_latch fun u => ?_
  (repeat' split) <;> simp [latches]

theorem execMbbRoleChange_stays (t : Nat) (s : State) : RowStays s (execMbbRoleChange t s) := by
  refine act_latch fun u => ?_
  (repeat' split) <;> simp [latches]

theorem execReturnHoldoffExpiry_stays (t : Nat) (s : State) : RowStays s (execReturnHoldoffExpiry t s) := by
  refine act_latch fun u => ?_
  (repeat' split) <;> simp [latches]

theorem execPairStatus_stays (t : Nat) (rq : Req) (s : State) : RowStays s (execPairStatus t rq s) :=
  runCmd_stays fun rq u => by simp [latches]

theorem execPairSwitch_stays (t : Nat) (rq : Req) (s : State) : RowStays s (execPairSwitch t rq s) := by
  refine runCmd_stays fun rq u => ?_
  (repeat' split) <;> simp [latches]

theorem execPairDetach_stays (t : Nat) (rq : Req) (s : State) : RowStays s (execPairDetach t rq s) := by
  refine runCmd_stays fun rq u => ?_
  (repeat' split) <;> simp [latches]

theorem execMirrorResync_stays (t : Nat) (rq : Req) (s : State) : RowStays s (execMirrorResync t rq s) := by
  refine runCmd_stays fun rq u => ?_
  (repeat' split) <;> simp [latches]


/-! ### Boundary -/

theorem execScanConversionDone_stays (t sc : Nat) (code : Int) (value : Word) (s : State) :
    RowStays s (execScanConversionDone t sc code value s) := by
  refine act_latch fun u => ?_
  (repeat' split) <;> simp [latches]

theorem execBeatBoundary_stays (t : Nat) (husks : List Nat) (late : Bool) (bad : List Nat) (s : State) :
    RowStays s (execBeatBoundary t husks late bad s) :=
  act_stays (unlessReset_stays (.ite (fun _ => .refl _) fun _ => .trans (.of_latch (by simp)) (boundaryAt_stays ..)))

theorem execLoomTimeStep_stays (t : Nat) (work : BeatWork) (s : State) : RowStays s (execLoomTimeStep t work s) := by
  refine act_stays (unlessReset_stays ?_)
  split
  · exact .ite (fun _ => .trans (.of_latch (by simp [latches])) (stepTime_stays ..)) fun _ => .refl _
  · exact .refl _


/-! ### Boot -/

theorem execEndOfBoot_stays (t : Nat) (s : State) : RowStays s (execEndOfBoot t s) := by
  refine act_stays (unlessReset_stays ?_)
  have waits : Stays (tick t s) (bootWaits (tick t s)) := .of_latch (bootWaits_latch _)
  refine waits.trans ?_
  generalize bootWaits (tick t s) = u
  refine .ite (fun ready => ?_) fun _ => .refl u
  refine .ite (fun _ => ?_) fun _ => endBoot_stays (bootReady_inBoot ready) _
  split
  · exact endBoot_stays (bootReady_inBoot ready) _
  · exact .of_latch (by simp)

theorem execJoinWaitExpiry_stays (t : Nat) (s : State) : RowStays s (execJoinWaitExpiry t s) := by
  refine act_stays ?_
  split
  · refine .ite (fun due => ?_) fun _ => .refl _
    split
    · exact endBoot_stays (bootReady_inBoot due.1) _
    · exact .refl _
  · exact .refl _

/-! ### What a crossing delivers (R409) -/

theorem nextOr_stays {s : State} {o : Host.Outcome State Fault Refusal} (h : RowStays s o) : Stays s (nextOr s o) := by
  unfold nextOr
  split
  · exact h _ rfl
  · exact .refl s

theorem deliverHeld_stays (s : State) (i : Held) : Stays s (deliverHeld s i) := by
  unfold deliverHeld
  split
  · exact .of_latch (by simp)
  · exact .of_latch (by simp)
  · exact nextOr_stays (execShuttleRequest_stays _ _ _ _ _ _)
  · exact nextOr_stays (execHostFrameReceived_stays _ _ _ _ _)
  · exact nextOr_stays (execAcknowledgement_stays _ _ _ _)
  · exact nextOr_stays (execArpRequest_stays _ _ _ _ _ _)
  · exact nextOr_stays (execIcmpEchoRequest_stays _ _ _ _ _)
  · exact nextOr_stays (execPtpSync_stays _ _ _ _)
  · exact nextOr_stays (execPtpAnnounce_stays _ _ _ _)
  · exact nextOr_stays (execPdelayReq_stays _ _ _ _ _ _)
  · exact nextOr_stays (execSelvedgeHeartbeat_stays _ _ _)
  · exact nextOr_stays (execSnapshotFragment_stays _ _ _ _ _ _)
  · exact nextOr_stays (execDelta_stays _ _ _ _)
  · exact nextOr_stays (execDeltaAcknowledgement_stays _ _ _ _)
  · exact nextOr_stays (execResyncRequest_stays _ _ _)
  · exact nextOr_stays (execSwitchControl_stays _ _ _ _)
  · exact .refl s

theorem drainCrossing_stays (s : State) (x : Nat) : Stays s (drainCrossing s x) := by
  have delivered : Stays s ((s.itg.crossings.get x).held.foldl deliverHeld (crossUpd x (fun c => { c with held := [] }) s)) :=
    .trans (.of_latch (by simp)) (foldl_stays (fun v i _ => deliverHeld_stays v i) _)
  unfold drainCrossing
  dsimp only
  refine delivered.then ?_
  (repeat' split) <;> simp [latches]

theorem clocksChange_stays (clk : Clock) (s : State) : Stays s (clocksChange clk s) :=
  .trans (.of_latch (by simp)) (foldl_stays (fun v x _ => drainCrossing_stays v x) _)

/-- The clocks that count as good or stopped do not belong to what holds the hub. -/
theorem clocksChange_after {s v : State} (clk : Clock) (h : v.latch = s.latch) : Stays s (clocksChange clk v) :=
  .trans (.of_latch h) (clocksChange_stays clk v)

theorem execClockMonitorReport_stays (t : Nat) (clk : Clock) (kind : ClockReport) (s : State) :
    RowStays s (execClockMonitorReport t clk kind s) := by
  refine act_stays ?_
  extract_lets known clocks hub changed told faulted sh
  have after : Stays (tick t s) told := (clocksChange_after clk (by simp [hub, latches])).then (clockAlarm_latch ..)
  refine .ite (fun _ => ?_) fun _ => after
  have entered : Stays (tick t s) faulted := (after.then (logEvent_latch ..)).trans (enterFault_stays ..)
  exact .ite (fun _ => entered.then (by simp [sh, latches])) fun _ => entered

theorem execClockRestored_stays (t : Nat) (clk : Clock) (s : State) : RowStays s (execClockRestored t clk s) :=
  act_stays (.ite (fun _ => (clocksChange_after clk (by simp [latches])).then ((bootWaits_latch _).trans (clockAlarm_latch ..)))
    fun _ => .refl _)

end Sys2Proof.Machine

/-! SUPPORT. Settles O12: nRESET, D0 and RESTART, the rows that may end or begin the hold of a reset, and what every step
makes of it (R39, R57, R61, R452, R455). -/

namespace Sys2Proof.Machine

open Sys2Proof

/-! ### What a step may make of the hold -/

/-- The hub is now held in reset, in BOOT (R452, R455). -/
structure Drops (s v : State) : Prop where
  inReset : v.latch.inReset = true
  boot : v.latch.state = .boot
  d0 : v.latch.d0 = s.latch.d0 ∨ v.latch.d0 = 3
  front : FrontKnown s.latch.taken → FrontKnown v.latch.taken

/-- A hub held in reset waits on: nRESET may have risen, and D0 may have come back (R452, R455). -/
structure WaitsOn (s v : State) : Prop where
  held : s.latch.inReset = true
  inReset : v.latch.inReset = true
  d0 : v.latch.d0 = s.latch.d0 ∨ v.latch.d0 = 2
  front : v.latch.taken = s.latch.taken

/-- The hub starts from BOOT, out of a reset or of a state other than SAFE (R57, R61, R456). -/
structure Starts (s v : State) : Prop where
  origin : s.latch.inReset = true ∨ s.latch.state ≠ .safe
  latch : v.latch = { nresetLow := false, inReset := false, state := .boot, d0 := 2, taken := [] }

/-- The commands that hold a hub in reset (R452, R455). -/
def DropsHub (c : Instr) : Prop :=
  (∃ t, c = .nresetAssert t) ∨ (∃ t r o, c = .railOutOfWindow t r o) ∨ ∃ t d, c = .domainSwitchFault t d

/-- What a command may make of the hold. -/
inductive Goes (c : Instr) (s v : State) : Prop where
  | stays (h : Stays s v)
  | drops (h : Drops s v) (row : DropsHub c)
  | waits (h : WaitsOn s v)
  | starts (h : Starts s v)

theorem held_iff (s : State) : s.Held ↔ (s.latch.nresetLow = true → s.latch.inReset = true)
    ∧ (s.latch.d0 = 2 ∨ (s.latch.d0 = 3 ∧ s.latch.inReset = true)) ∧ FrontKnown s.latch.taken :=
  ⟨fun h => ⟨h.nreset, h.d0, h.front⟩, fun ⟨nreset, d0, front⟩ => ⟨nreset, d0, front⟩⟩

/-- The hold survives whatever a command makes of it. -/
theorem Goes.held {c : Instr} {s v : State} (g : Goes c s v) (h : s.Held) : v.Held := by
  rw [held_iff] at h ⊢
  obtain ⟨nreset, d0, front⟩ := h
  cases g with
  | stays g => exact ⟨by rwa [g.nresetLow, g.inReset], by rwa [g.d0, g.inReset], g.front front⟩
  | drops g _ =>
    refine ⟨fun _ => g.inReset, ?_, g.front front⟩
    rcases g.d0 with e | e <;> rw [e, g.inReset]
    · exact d0.imp_right fun x => ⟨x.1, rfl⟩
    · exact .inr ⟨rfl, rfl⟩
  | waits g =>
    refine ⟨fun _ => g.inReset, ?_, by rwa [g.front]⟩
    rcases g.d0 with e | e <;> rw [e, g.inReset]
    · exact d0.imp_right fun x => ⟨x.1, rfl⟩
    · exact .inl rfl
  | starts g => rw [g.latch]; exact ⟨nofun, .inl rfl, nofun⟩

/-- SAFE is left only by a command that holds the hub in reset (R61). -/
theorem Goes.safe {c : Instr} {s v : State} (g : Goes c s v) (safe : s.latch.state = .safe) (out : s.latch.inReset = false) :
    v.latch.state = .safe ∨ (v.latch.state = .boot ∧ v.latch.inReset = true ∧ DropsHub c) := by
  cases g with
  | stays g => exact .inl (g.safe safe)
  | drops g row => exact .inr ⟨g.boot, g.inReset, row⟩
  | waits g => exact absurd (out.symm.trans g.held) (by decide)
  | starts g => exact (g.origin.elim (fun r => absurd (out.symm.trans r) (by decide)) fun n => absurd safe n)

/-! ### nRESET, D0 and RESTART -/

section

variable {c : Instr} {t : Nat} {s u v : State}

theorem Goes.ite {p : Prop} [Decidable p] (hu : p → Goes c s u) (hv : ¬ p → Goes c s v) : Goes c s (if p then u else v) := by
  split
  next h => exact hu h
  next h => exact hv h

/-- What leaves all of it alone may stand before and after. -/
theorem Goes.between {s₁ v₁ : State} (hs : s₁.latch = s.latch) (hv : v₁.latch = v.latch) (g : Goes c s v) : Goes c s₁ v₁ := by
  cases g with
  | stays g => exact .stays ((Stays.of_latch hs.symm).trans (g.then hv))
  | drops g row =>
    exact .drops ⟨by rw [hv, g.inReset], by rw [hv, g.boot], by rw [hs, hv]; exact g.d0, by rw [hs, hv]; exact g.front⟩ row
  | waits g => exact .waits ⟨by rw [hs, g.held], by rw [hv, g.inReset], by rw [hs, hv]; exact g.d0, by rw [hs, hv, g.front]⟩
  | starts g => exact .starts ⟨by rw [hs]; exact g.origin, hv.trans g.latch⟩

/-- What the effect of a command makes of the hold, every outcome of it does. -/
def RowGoes (c : Instr) (s : State) (o : Host.Outcome State Fault Refusal) : Prop := ∀ s', o = .next s' → Goes c s s'

theorem act_goes {f : State → State} (g : ∀ u, u.latch = s.latch → Goes c u (f u)) : RowGoes c s (act t s f) := by
  intro s' e
  cases e
  exact (g (tick t s) (tick_latch t s)).between (tick_latch t s).symm (by simp [latches])

theorem Goes.refl (s : State) : Goes c s s := .stays (.refl s)

/-- D0 is lost (R452). -/
theorem loseD0_drops (h : Stays s u) : Drops s (loseD0 u) := by
  have e := loseD0_latch u
  exact ⟨by rw [e], by rw [e], .inr (by rw [e]), by rw [e]; exact h.front⟩

/-- D0 is back, or nRESET high, and the hub starts from BOOT (R455, R456). -/
theorem bootStart_starts (u : State) (h : s.latch.inReset = true ∨ s.latch.state ≠ .safe) (named : Nat) :
    Starts s (bootStart named u) := ⟨h, bootStart_latch named u⟩

theorem execNresetAssert_goes (t : Nat) (s : State) : RowGoes (.nresetAssert t) s (execNresetAssert t s) := by
  refine act_goes fun u _ => ?_
  extract_lets dropped
  have kept : dropped.latch.d0 = u.latch.d0 ∧ dropped.latch.taken = u.latch.taken := by
    simp only [dropped, latch_ite, dropToBoot_latch]
    split <;> exact ⟨rfl, rfl⟩
  exact .drops ⟨rfl, rfl, .inl kept.1, fun known => kept.2.symm ▸ known⟩ (.inl ⟨t, rfl⟩)

/-- BOOT begins where nRESET rises and D0's rails are in window (R455, R456). -/
theorem execNresetRelease_goes (t : Nat) (pri sel boot : Bool) {s : State} (h : s.Held) :
    RowGoes (.nresetRelease t pri sel boot) s (execNresetRelease t pri sel boot s) := by
  refine act_goes fun u hu => .ite (fun low => ?_) fun _ => .refl u
  have held : u.latch.inReset = true := hu ▸ h.nreset (show s.latch.nresetLow = true from hu ▸ low)
  exact .ite (fun _ => .starts (bootStart_starts _ (.inl held) _)) fun _ => .waits ⟨held, held, .inl rfl, rfl⟩

/-- D0 comes back where its rails are in window (R452, R456). -/
theorem execRailInWindow_goes (t rail : Nat) {s : State} (h : s.Held) :
    RowGoes (.railInWindow t rail) s (execRailInWindow t rail s) := by
  refine act_goes fun u hu => .ite (fun _ => ?_) fun _ => .refl u
  extract_lets alarmed back
  have same : alarmed.latch = u.latch := by simp [alarmed]
  refine .ite (fun lost => ?_) fun _ => .stays (.of_latch same)
  have held : u.latch.inReset = true := by
    have off : s.latch.d0 = 3 := (congrArg Latch.d0 (same.trans hu)).symm.trans lost.1
    exact hu ▸ (h.d0.resolve_left fun on => absurd (on.symm.trans off) (by decide)).2
  have on : back.latch = { u.latch with d0 := 2 } := by simp [back, domUpd, latches, same]
  exact .ite (fun _ => .waits ⟨held, by rw [on, held], .inr (by rw [on]), by rw [on]⟩)
    fun _ => .starts (bootStart_starts _ (.inl held) _)

/-- The domains that a rail feeds are lost, D0 the last of them (R450, R452). -/
theorem execRailOutOfWindow_goes (t rail : Nat) (span : Bool) (s : State) :
    RowGoes (.railOutOfWindow t rail span) s (execRailOutOfWindow t rail span s) := by
  refine act_goes fun u _ => .ite (fun _ => ?_) fun _ => .refl u
  extract_lets alarmed lost
  have fed : Stays u lost := by
    refine .trans (u := alarmed) (.of_latch (by simp [alarmed])) (foldl_stays (fun v d hd => ?_) alarmed)
    exact .ite (fun _ => loseDomain_stays (by rintro rfl; simp at hd) v) fun _ => .refl v
  exact .ite (fun _ => .drops (loseD0_drops fed) (.inr (.inl ⟨t, rail, span, rfl⟩))) fun _ => .stays fed

theorem execDomainSwitchFault_goes (t dom : Nat) (s : State) :
    RowGoes (.domainSwitchFault t dom) s (execDomainSwitchFault t dom s) := by
  refine act_goes fun u _ => .ite (fun _ => .drops (loseD0_drops (.refl u)) (.inr (.inr ⟨t, dom, rfl⟩))) fun other => ?_
  exact .ite (fun _ => .stays (loseDomain_stays other u)) fun _ => .refl u

/-- RESTART enters BOOT from every state but SAFE (R57, R61, R74). -/
theorem execRestartEntry_goes (t : Nat) (s : State) : RowGoes (.restartEntry t) s (execRestartEntry t s) := by
  refine act_goes (f := unlessReset restartEnters) fun u _ => .ite (fun _ => .refl u) fun _ => ?_
  unfold restartEnters
  split
  · exact .ite (fun due => .starts (bootStart_starts _ (.inr due.2) _)) fun _ => .refl u
  · exact .refl u

end

/-! ### Every row -/

/-- What each command makes of the hold (R57, R61, R452, R455): all but six stay. -/
theorem exec_goes {c : Instr} {s s' : State} (h : s.Held) (e : exec c s = .next s') : Goes c s s' := by
  have on : s.latch.d0 ≠ 1 := fun off => by
    rcases h.d0 with x | x
    · exact absurd (x.symm.trans off) (by decide)
    · exact absurd (x.1.symm.trans off) (by decide)
  cases c with
  | identify | ping | jobStatus | eventRead | paramRead | copyStatus | heddleState | excStatus | convStatus | scanRead
    | simulRead | filterStatus | settleInfo | mainsStatus | coefRead | groupStatus | chTiming | instantCalc
    | timeStatus | censusRead | linEval | cjStatus | calStatus | calRead | treadleStatus | bobbinStatus | compStatus
    | tioStatus | loopStatus | stimStatus | streamStatus | noticeRead | ptpStatus | winnowProbe | seedStatus =>
    exact .stays (runCmd_stays (fun _ _ => (rfl)) s' e)
  | shuttleRequest => exact .stays (execShuttleRequest_stays _ _ _ _ _ _ _ e)
  | spiWrite => exact .stays (execSpiWrite_stays _ _ _ _ e)
  | spiRead => exact .stays (execSpiRead_stays _ _ _ _ _ e)
  | spiPoll => exact .stays (execSpiPoll_stays _ _ _ e)
  | spiInvalidOpcode t op => exact .stays (execSpiInvalidOpcode_stays t op s _ e)
  | spiFrameTimeout => exact .stays (execSpiFrameTimeout_stays _ _ _ e)
  | claimIdleLapse => exact .stays (execClaimIdleLapse_stays _ _ _ _ e)
  | jobResultExpiry => exact .stays (execJobResultExpiry_stays _ _ _ _ e)
  | status => exact .stays (execStatus_stays _ _ _ _ e)
  | release => exact .stays (execRelease_stays _ _ _ _ e)
  | jobCancel => exact .stays (execJobCancel_stays _ _ _ _ e)
  | restart => exact .stays (execRestart_stays _ _ _ _ e)
  | restartEntry => exact execRestartEntry_goes _ _ _ e
  | countersRead => exact .stays (execCountersRead_stays _ _ _ _ e)
  | cfgOpen => exact .stays (execCfgOpen_stays _ _ _ _ e)
  | paramWrite => exact .stays (execParamWrite_stays _ _ _ _ e)
  | commit => exact .stays (execCommit_stays _ _ _ _ e)
  | checkOnly => exact .stays (execCheckOnly_stays _ _ _ _ e)
  | commitNoEn => exact .stays (execCommitNoEn_stays _ _ _ _ e)
  | cfgAbort => exact .stays (execCfgAbort_stays _ _ _ _ e)
  | cfgSave => exact .stays (execCfgSave_stays _ _ _ _ e)
  | enterConfig => exact .stays (execEnterConfig_stays _ _ _ _ e)
  | start => exact .stays (execStart_stays _ _ _ _ e)
  | stop => exact .stays (execStop_stays _ _ _ _ e)
  | enterService => exact .stays (execEnterService_stays _ _ _ _ e)
  | leaveService => exact .stays (execLeaveService_stays _ _ _ _ e)
  | faultClear => exact .stays (execFaultClear_stays _ _ _ _ e)
  | leadStatus => exact .stays (execLeadStatus_stays _ _ _ _ e)
  | ovrCounters => exact .stays (execOvrCounters_stays _ _ _ _ e)
  | threadProbe => exact .stays (execThreadProbe_stays _ _ _ _ e)
  | scSpot => exact .stays (execScSpot_stays _ _ _ _ e)
  | scCounters => exact .stays (execScCounters_stays _ _ _ _ e)
  | pathTest => exact .stays (execPathTest_stays _ _ _ _ e)
  | pathTestDone => exact .stays (execPathTestDone_stays _ _ _ _ _ _ e)
  | leadRes => exact .stays (execLeadRes_stays _ _ _ _ e)
  | reedSwap => exact .stays (execReedSwap_stays _ _ _ _ e)
  | reedSwapRelease => exact .stays (execReedSwapRelease_stays _ _ _ _ e)
  | warpPorts => exact .stays (execWarpPorts_stays _ _ _ _ e)
  | syncReset => exact .stays (execSyncReset_stays _ _ _ _ e)
  | timeSet => exact .stays (execTimeSet_stays _ _ _ _ e)
  | eventSend => exact .stays (execEventSend_stays _ _ _ _ e)
  | bridgeZero => exact .stays (execBridgeZero_stays _ _ _ _ e)
  | bridgeZeroDone => exact .stays (execBridgeZeroDone_stays _ _ _ _ e)
  | calRun => exact .stays (execCalRun_stays _ _ _ _ e)
  | calRunDone => exact .stays (execCalRunDone_stays _ _ _ _ _ e)
  | calCommit => exact .stays (execCalCommit_stays _ _ _ _ e)
  | calDiscard => exact .stays (execCalDiscard_stays _ _ _ _ e)
  | treadleArm => exact .stays (execTreadleArm_stays _ _ _ _ e)
  | treadleDisarm => exact .stays (execTreadleDisarm_stays _ _ _ _ e)
  | treadleForce => exact .stays (execTreadleForce_stays _ _ _ _ e)
  | loopSet => exact .stays (execLoopSet_stays _ _ _ _ e)
  | loopSelect => exact .stays (execLoopSelect_stays _ _ _ _ e)
  | stimStart => exact .stays (execStimStart_stays _ _ _ _ e)
  | stimStop => exact .stays (execStimStop_stays _ _ _ _ e)
  | stimLoad => exact .stays (execStimLoad_stays _ _ _ _ e)
  | stimTableEnd => exact .stays (execStimTableEnd_stays _ _ _ _ e)
  | portStatus => exact .stays (execPortStatus_stays _ _ _ _ e)
  | storeStatus => exact .stays (execStoreStatus_stays _ _ _ _ e)
  | weftResend => exact .stays (execWeftResend_stays _ _ _ _ e)
  | winnowStatus => exact .stays (execWinnowStatus_stays _ _ _ _ e)
  | integrityStatus => exact .stays (execIntegrityStatus_stays _ _ _ _ e)
  | crossStatus => exact .stays (execCrossStatus_stays _ _ _ _ e)
  | chkStep => exact .stays (execChkStep_stays _ _ _ _ e)
  | storeCrc => exact .stays (execStoreCrc_stays _ _ _ _ e)
  | storeCrcDone => exact .stays (execStoreCrcDone_stays _ _ _ _ e)
  | pairStatus => exact .stays (execPairStatus_stays _ _ _ _ e)
  | pairSwitch => exact .stays (execPairSwitch_stays _ _ _ _ e)
  | pairDetach => exact .stays (execPairDetach_stays _ _ _ _ e)
  | mirrorResync => exact .stays (execMirrorResync_stays _ _ _ _ e)
  | powerStatus => exact .stays (execPowerStatus_stays _ _ _ _ e)
  | domainSet => exact .stays (execDomainSet_stays _ _ _ _ e)
  | seedSubst => exact .stays (execSeedSubst_stays _ _ _ _ e)
  | seedConsent => exact .stays (execSeedConsent_stays _ _ _ _ e)
  | imageLoad => exact .stays (execImageLoad_stays _ _ _ _ e)
  | imageEnd => exact .stays (execImageEnd_stays _ _ _ _ e)
  | decompressionDone => exact .stays (execDecompressionDone_stays _ _ _ e)
  | beatBoundary => exact .stays (execBeatBoundary_stays _ _ _ _ _ _ e)
  | mbbRoleChange => exact .stays (execMbbRoleChange_stays _ _ _ e)
  | domainPowerGood => exact .stays (execDomainPowerGood_stays _ _ on _ e)
  | domainPowerGoodTimeout => exact .stays (execDomainPowerGoodTimeout_stays _ _ on _ e)
  | storeZeroed => exact .stays (execStoreZeroed_stays _ _ _ e)
  | plyLinkTrained => exact .stays (execPlyLinkTrained_stays _ _ _ _ _ e)
  | synchronisingReset => exact .stays (execSynchronisingReset_stays _ _ _ e)
  | catchUpReset => exact .stays (execCatchUpReset_stays _ _ _ e)
  | loomTimeStep => exact .stays (execLoomTimeStep_stays _ _ _ _ e)
  | plyWordArrival => exact .stays (execPlyWordArrival_stays _ _ _ _ _ _ _ _ e)
  | plyLaneFailure => exact .stays (execPlyLaneFailure_stays _ _ _ _ _ e)
  | outputSample => exact .stays (execOutputSample_stays _ _ _ _ _ _ e)
  | frameClose => exact .stays (execFrameClose_stays _ _ _ _ _ e)
  | winnowFrameStart => exact .stays (execWinnowFrameStart_stays _ _ _ e)
  | winnowFrameDone => exact .stays (execWinnowFrameDone_stays _ _ _ _ e)
  | winnowStallResume => exact .stays (execWinnowStallResume_stays _ _ _ e)
  | portTransmit => exact .stays (execPortTransmit_stays _ _ _ _ e)
  | tc0Token => exact .stays (execTc0Token_stays _ _ _ _ e)
  | acknowledgement => exact .stays (execAcknowledgement_stays _ _ _ _ _ e)
  | hostFrameReceived => exact .stays (execHostFrameReceived_stays _ _ _ _ _ _ e)
  | arpRequest => exact .stays (execArpRequest_stays _ _ _ _ _ _ _ e)
  | arpRefresh => exact .stays (execArpRefresh_stays _ _ _ _ _ e)
  | arpRetry => exact .stays (execArpRetry_stays _ _ _ _ _ e)
  | icmpEchoRequest => exact .stays (execIcmpEchoRequest_stays _ _ _ _ _ _ e)
  | ptpSync => exact .stays (execPtpSync_stays _ _ _ _ _ e)
  | ptpAnnounce => exact .stays (execPtpAnnounce_stays _ _ _ _ _ e)
  | pdelayReq => exact .stays (execPdelayReq_stays _ _ _ _ _ _ _ e)
  | portLinkChange => exact .stays (execPortLinkChange_stays _ _ _ _ _ e)
  | warpTimeFrame => exact .stays (execWarpTimeFrame_stays _ _ _ _ _ e)
  | timeFrameSend => exact .stays (execTimeFrameSend_stays _ _ _ _ e)
  | delayRequestSend => exact .stays (execDelayRequestSend_stays _ _ _ e)
  | delayRequest => exact .stays (execDelayRequest_stays _ _ _ _ _ _ e)
  | warpEvent => exact .stays (execWarpEvent_stays _ _ _ _ _ e)
  | resendRequest => exact .stays (execResendRequest_stays _ _ _ _ _ e)
  | eventOrigination => exact .stays (execEventOrigination_stays _ _ _ e)
  | warpEventTransmit => exact .stays (execWarpEventTransmit_stays _ _ _ _ e)
  | warpPortStateChange => exact .stays (execWarpPortStateChange_stays _ _ _ _ _ e)
  | warpLost => exact .stays (execWarpLost_stays _ _ _ e)
  | warpReturn => exact .stays (execWarpReturn_stays _ _ _ e)
  | censusLapse => exact .stays (execCensusLapse_stays _ _ _ _ e)
  | modulatorRestart => exact .stays (execModulatorRestart_stays _ _ _ _ _ e)
  | overrangeOnset => exact .stays (execOverrangeOnset_stays _ _ _ _ _ e)
  | overrangeEnd => exact .stays (execOverrangeEnd_stays _ _ _ _ e)
  | overvoltageTrip => exact .stays (execOvervoltageTrip_stays _ _ _ _ _ e)
  | overvoltageClear => exact .stays (execOvervoltageClear_stays _ _ _ _ _ e)
  | driverReconnect => exact .stays (execDriverReconnect_stays _ _ _ _ _ e)
  | leadWatchHalfPeriod => exact .stays (execLeadWatchHalfPeriod_stays _ _ _ _ _ _ e)
  | leadSuspect => exact .stays (execLeadSuspect_stays _ _ _ _ _ e)
  | leadConfirmed => exact .stays (execLeadConfirmed_stays _ _ _ _ _ e)
  | leadCleared => exact .stays (execLeadCleared_stays _ _ _ _ _ e)
  | excitationExchange => exact .stays (execExcitationExchange_stays _ _ _ _ _ e)
  | scanConversionDone => exact .stays (execScanConversionDone_stays _ _ _ _ _ _ e)
  | simultaneousTrigger => exact .stays (execSimultaneousTrigger_stays _ _ _ e)
  | scanListPass => exact .stays (execScanListPass_stays _ _ _ _ e)
  | loopUpdate => exact .stays (execLoopUpdate_stays _ _ _ _ e)
  | stimulusTick => exact .stays (execStimulusTick_stays _ _ _ _ e)
  | sequencerEvaluation => exact .stays (execSequencerEvaluation_stays _ _ _ _ _ e)
  | treadleTimerExpiry t seq k => exact .stays (execTreadleTimerExpiry_stays t seq k s _ e)
  | treadleCounterReached t seq k => exact .stays (execTreadleCounterReached_stays t seq k s _ e)
  | tioInputChange => exact .stays (execTioInputChange_stays _ _ _ _ _ e)
  | tioLevelAccepted => exact .stays (execTioLevelAccepted_stays _ _ _ _ e)
  | autoTimeout => exact .stays (execAutoTimeout_stays _ _ _ _ e)
  | rearmEnd => exact .stays (execRearmEnd_stays _ _ _ _ e)
  | recordComplete => exact .stays (execRecordComplete_stays _ _ _ _ _ e)
  | scrubPass => exact .stays (execScrubPass_stays _ _ _ _ e)
  | macResidueFailure => exact .stays (execMacResidueFailure_stays _ _ _ _ _ e)
  | voterDisagreement => exact .stays (execVoterDisagreement_stays _ _ _ _ e)
  | clockMonitorReport => exact .stays (execClockMonitorReport_stays _ _ _ _ _ e)
  | qclkRestore => exact .stays (execQclkRestore_stays _ _ _ e)
  | clockRestored => exact .stays (execClockRestored_stays _ _ _ _ e)
  | crossingRestart => exact .stays (execCrossingRestart_stays _ _ _ _ e)
  | railOutOfWindow => exact execRailOutOfWindow_goes _ _ _ _ _ e
  | railInWindow => exact execRailInWindow_goes _ _ h _ e
  | domainSwitchFault => exact execDomainSwitchFault_goes _ _ _ _ e
  | nresetAssert => exact execNresetAssert_goes _ _ _ e
  | nresetRelease => exact execNresetRelease_goes _ _ _ _ h _ e
  | joinWaitExpiry => exact .stays (execJoinWaitExpiry_stays _ _ _ e)
  | endOfBoot => exact .stays (execEndOfBoot_stays _ _ _ e)
  | heartbeatSend => exact .stays (execHeartbeatSend_stays _ _ _ e)
  | selvedgeHeartbeat => exact .stays (execSelvedgeHeartbeat_stays _ _ _ _ e)
  | snapshotFragment => exact .stays (execSnapshotFragment_stays _ _ _ _ _ _ _ e)
  | delta => exact .stays (execDelta_stays _ _ _ _ _ e)
  | deltaAcknowledgement => exact .stays (execDeltaAcknowledgement_stays _ _ _ _ _ e)
  | deltaResend => exact .stays (execDeltaResend_stays _ _ _ e)
  | resyncRequest => exact .stays (execResyncRequest_stays _ _ _ _ e)
  | switchControl => exact .stays (execSwitchControl_stays _ _ _ _ _ e)
  | promptSwitchInstant => exact .stays (execPromptSwitchInstant_stays _ _ _ e)
  | selvedgeLost => exact .stays (execSelvedgeLost_stays _ _ _ e)
  | selvedgeLaneFailure => exact .stays (execSelvedgeLaneFailure_stays _ _ _ _ e)
  | hbInEdge => exact .stays (execHbInEdge_stays _ _ _ e)
  | hbInLost => exact .stays (execHbInLost_stays _ _ _ e)
  | witnessAbsent => exact .stays (execWitnessAbsent_stays _ _ _ _ e)
  | standbyEvaluation => exact .stays (execStandbyEvaluation_stays _ _ _ e)
  | returnHoldoffExpiry => exact .stays (execReturnHoldoffExpiry_stays _ _ _ e)
  | mainsTrackingLost => exact .stays (execMainsTrackingLost_stays _ _ _ e)
  | ptpSourceLost => exact .stays (execPtpSourceLost_stays _ _ _ e)
  | ptpDelayReqSend => exact .stays (execPtpDelayReqSend_stays _ _ _ _ e)
  | mirrorStale => exact .stays (execMirrorStale_stays _ _ _ e)
  | witnessPresent => exact .stays (execWitnessPresent_stays _ _ _ _ e)

/-- Every step keeps the hold of a reset (R39, R452, R455). -/
theorem step_held {s s' : State} (h : s.Held) (e : step s = .next s') : s'.Held := by
  unfold step at e
  split at e
  · cases e
    exact h
  next c rest _ =>
    have same : ({ s with pending := rest } : State).Held := ⟨h.nreset, h.d0, h.front⟩
    exact (exec_goes same e).held same

/-- While a hub is held in reset, HB_OUT stands still and both TXDIS balls are high (R422, R485). -/
theorem inReset_outputs {s : State} (h : s.hub.inReset = true) : s.hbOut = false ∧ s.txDis 0 = true ∧ s.txDis 1 = true := by
  simp [State.hbOut, State.txDis, h]

/-- Settles O12: every command makes of the hold one of four things (`Goes`), each of which keeps it, and only those that
hold the hub in reset leave SAFE. -/
theorem resetHoldsAndSafeLatches : Obligations.ResetHoldsAndSafeLatches := by
  unfold Obligations.ResetHoldsAndSafeLatches
  refine ⟨⟨fun _ => rfl, .inl rfl, nofun⟩, fun s s' => step_held, fun c s s' held safe out e => ?_⟩
  exact ((exec_goes held e).safe safe out).imp_right fun left => ⟨left, fun _ => inReset_outputs⟩

end Sys2Proof.Machine
